-- ==== Sys2Proof/Word.lean ====
section
/-! DEFINITION. The word types of the KV-1280 (R1, R23, R109) and the plain table type that every sparse
collection of the model is made of. -/

namespace Sys2Proof

/-- A 64-bit g register, address or CSR. -/
abbrev W64 := BitVec 64
/-- An instruction or parameter word (R23). -/
abbrev W32 := BitVec 32
/-- A pack: an f register or queue entry (R109). -/
abbrev W128 := BitVec 128
/-- A byte of memory. -/
abbrev Byte := BitVec 8
/-- A register number field of an instruction word (R23). -/
abbrev Reg := BitVec 5

/-- A sparse table: keys with their values, keys strictly rising. -/
abbrev Tab (α : Type) := List (Nat × α)

/-- Bytes of a memory: addresses strictly rising, no entry holding zero (Machine/Tab.lean). -/
abbrev Mem := List (Nat × Byte)

end Sys2Proof
end

