-- ==== Sys2Proof/Config.lean ====
section
/-! DEFINITION. What an implementation fixes and the spec leaves open: opaque constants, so no proof can lean on a
value of one (notes/assumptions/6.md). `fresh` counters of the state make each use of `freeWord` its own value. -/

namespace Sys2Proof.Config

/-- A value the spec leaves open, one per value of the state's `fresh` counter (log 6). -/
opaque freeWord : Nat → BitVec 64
/-- The silicon revision, {major, minor} (R421: fused). -/
opaque revision : BitVec 16
/-- The digest of the accepted public key (R408: fused). -/
opaque keyDigest : BitVec 256
/-- The fused minimum security version (R408). -/
opaque minVersion : Nat
/-- The hash that picks one of the ports of a route for an ordering key (R365); `n` ports, key `k`. -/
opaque routeHash (n k : Nat) : Nat
/-- Correct rounding of a special-function value that the model's interval does not decide (log 30): function code,
format code and operand bits. -/
opaque sfuRound (op fmt bits : Nat) : BitVec 32
/-- How a structure whose layout the spec does not give holds its values (R409, R410): 1 a slot's section of a dump, 2 queue
states and token words, 3 context status words, 4 the rings, 5 RASCNT, 6 bytes 4 to 63 of its header, 7 a quote, 8 the
partition configuration. -/
opaque layout (kind : Nat) (values : List Nat) : List (BitVec 8)
/-- The signature of a quote or dump over its bytes (R409, R410): the device key is inside the part. -/
opaque signature (bytes : List (BitVec 8)) : List (BitVec 8)

end Sys2Proof.Config
end

