-- ==== Sys2Proof/Machine/Events.lean ====
section
/-! DEFINITION. Plain data that arrives from outside the package with a device event: replies, messages, images,
losses found at a restore. The event rows of the opcode table carry these as operands (log 2). -/

namespace Sys2Proof

/-- What a peer or the host answers to a parked request (R368, R196, R381). -/
inductive ExtReply where
  /-- the data of a load, or the old value of an atomic -/
  | data (v : W128)
  /-- the data of a longer load (RSLDT, RSLDG, a skein or engine range) -/
  | bytes (bs : List Byte)
  /-- a poisoned chunk was read (R368) -/
  | poison
  /-- refused by the target's tables, Unsupported Request, or completion error: ACCESS (R368, R196) -/
  | refused
  /-- a BW access refused by the lender: LEASEGONE (R358) -/
  | leaseGone
  /-- the acceptance status of a shuttle or the status of an MSND (R381, R265) -/
  | status (w : W64)
  /-- no external data: the request was answered inside the package -/
  | inside
deriving DecidableEq, Repr

/-- Where an inbox message comes from (R264, R265). -/
inductive InboxSource where
  /-- a parked MSND of a thread of this package, performed at the receiver -/
  | sender (core slot : Nat)
  /-- a word from a thread of a peer package; a posted one counts in an epoch (R370) -/
  | peer (part : BitVec 4) (word tid : W64) (epoch : Option (BitVec 16))
deriving DecidableEq, Repr

/-- What another package asks of a reed that is homed on this one (R243-R249): an arrival, a wait for a phase, both; a launch there
supplies members, one of which is dispatched, or ends. -/
inductive ReedOp where
  | arr
  | wait (phase : W32)
  | sync
  | supply (n : Nat)
  | join
  | leave (killed : Bool)
deriving DecidableEq, Repr

/-- Where a reed message comes from (R243-R249). -/
inductive ReedSource where
  /-- a parked REED of a thread of this package, arrived at its group's home -/
  | thread (core slot : Nat)
  /-- a member on a peer package -/
  | peer (part : BitVec 4) (group : Byte) (tid : W64) (op : ReedOp)
  /-- words 0 and 1 of the entry of a group that is homed on a peer package -/
  | entry (part : BitVec 4) (group : Byte) (w0 w1 : W64)
deriving DecidableEq, Repr

/-- One unit that reads back poisoned, or whose digest mismatches, at a restore (R333). -/
inductive Loss where
  | thread (core slot : Nat)
  | digest (core : Nat)
  | scratch (core chunk : Nat)
  | accPair (core pair : Nat)
  | cimChunk (core chunk : Nat)
  | bobbin (core n : Nat)
  | lock (core lo : Nat)
  | entry (core : Nat) (copy : Bool) (serial : W32)
  | slot7 (core : Nat) (evec : Bool)
deriving DecidableEq, Repr

/-- A shuttle on its way (R380, R381, R386). -/
structure Shuttle where
  desc : W64
  args : List W64
  tid : W64
  reply : Bool
  kid : W64
deriving DecidableEq, Repr

/-- What a packet from a package asks of this one (R368, R374, R381). -/
inductive PeerOp where
  /-- `acq`: a load-acquire -/
  | load (dva n : Nat) (acq : Bool)
  | store (dva : Nat) (bytes : List Byte)
  | nibble (dva : Nat) (hi : Bool) (v : Byte)
  /-- op codes 0-8 of R213; `n` bytes; `ret` asks for the old value -/
  | atomic (op dva n : Nat) (v : Nat) (ret acq : Bool)
  /-- op codes 0-2 of R214, format codes 0-2 of FATOM, `lanes` 1 or 2 -/
  | fatomic (op fmt lanes dva : Nat) (v : Nat) (ret acq : Bool)
  | cas (dva n : Nat) (expected new : Nat) (ret acq : Bool)
  /-- a multicast write to a copy: subscription entry -/
  | mcst (sub : Byte) (dva : Nat) (v : W64)
  | shuttle (sh : Shuttle)
deriving DecidableEq, Repr

/-- A request of a package (R368, R371): its operation, the epoch a posted one counts in, and, for a release, the epoch and
the number of stores it waits for. -/
structure PeerReq where
  op : PeerOp
  epoch : Option (BitVec 16)
  release : Option (BitVec 16 × W32)
deriving DecidableEq, Repr

/-- A contribution to an all-reduce phase (R377). -/
structure AredContrib where
  op : BitVec 3
  fmt : BitVec 4
  data : List Byte
deriving DecidableEq, Repr

/-- A firmware image with the outcome of its signature check (R408, log 33). -/
structure Image where
  treadle : Bool
  version : Nat
  body : List Byte
  digest : BitVec 256
  keyDigest : BitVec 256
  sigOk : Bool
deriving DecidableEq, Repr

/-- A register named by a write that has no row of its own (R103, R403, R297, R405). -/
inductive RegAddr where
  /-- an M-mode CSR of a service core, with the index it is written at -/
  | mcsr (die : BitVec 2) (n : BitVec 12) (idx : BitVec 16)
  /-- words 0 and 1 of a queue control block (function 0 physical, 1-16 virtual, 17 Treadle) -/
  | qcfg (fn : Nat) (q : BitVec 15)
  | qspill (fn : Nat) (q : BitVec 15)
  /-- the BAR2 window of a function, and WPART of the physical function -/
  | wbase (fn : Nat)
  | wpart (fn : Nat)
  /-- the host's ATS enable (R354) -/
  | atsEnable (fn : Nat)
  /-- a subscription entry's state word, set by Treadle (R373) -/
  | subscription (part : BitVec 4) (n : Byte)
deriving DecidableEq, Repr

end Sys2Proof
end

