-- ==== Sys2Proof/Syntax.lean ====
section
/-! DEFINITION. The operations of the KV-1280, one constructor for each row of the opcode table: the instruction
words of R34-R38 with their operand fields (R26; registers are field values, an immediate split in two pieces is
joined high part first), the five-word instructions of R27, the two outcomes of a fetch that is no instruction, and
the device events with the data their environment brings. -/

namespace Sys2Proof

/-- One operation: an instruction a thread issues, or an event of the package. -/
inductive Instr where
  /-- MREQ_WRITE (R20): A write to a die's CLKCTL.MREQ requests a frequency step; it is ignored, held behind a relock, or starts a relock at once. -/
  | mreqWrite (die : BitVec 2) (m : BitVec 4)
  /-- POWER_COMPARISON (R16): Every 100 µs the power limiter compares the module's draw with the limit and may request a one-step drop on the die with the highest multiplier. -/
  | powerComparison (draw : Nat)
  /-- RELOCK_END (R17): Relock completes: STEPN increments, the step-log entry is written, issue resumes and any held request starts a new step. -/
  | relockEnd (die : BitVec 2)
  /-- INSTRUCTION_COMPLETE (R52): An in-flight instruction completes after its latency and the thread becomes eligible again, or pauses if it is marked for pause. -/
  | instructionComplete (core slot : Nat)
  /-- PARK_WAKE (R50): The event a parked thread waits for reaches its core, and within 64 core cycles the thread becomes READY, or PAUSED if it is marked. -/
  | parkWake (core slot : Nat)
  /-- WAIT_LIMIT_EXPIRY (R55): A blocking wait's TIM + WLIM deadline passes: the wait is withdrawn and the thread, or its sequencer run, traps WAITLIM. -/
  | waitLimitExpiry (core slot : Nat)
  /-- SLEEP_TIMEOUT (R79): A SLEEP with a non-zero timeout reaches that timeout and returns status 1. -/
  | sleepTimeout (core slot : Nat)
  /-- HANDLER_START (R59): An idle slot 7 takes the oldest trap-queue entry, sets the trap CSRs and starts the handler at EVEC in F mode. -/
  | handlerStart (core : Nat)
  /-- SCRUB_COMPLETE (R63): The register bank of a killed thread has been cleared and the slot becomes EMPTY. -/
  | scrubComplete (core slot : Nat)
  /-- LOCK_TIMEOUT (R66): A scratchpad lock held past LOCKMAX core cycles is released, TSTAT.LKX is set and Treadle receives an event. -/
  | lockTimeout (core lo : Nat)
  /-- HEVEC_WRITE (R60): A write to a partition's HEVEC is copied into EVEC of every core of the partition once that core's slot 7 is outside a handler invocation. -/
  | hevecWrite (part : BitVec 4) (v : W64)
  /-- CPART_WRITE (R60): A write to CPART assigns a core to a partition or sets its victim flag; assignment initialises slot 7 from the partition. -/
  | cpartWrite (core : Nat) (v : W64)
  /-- FOLLOWER_WAIT_EXPIRY (R73): A follower that has waited past its WLIM for a forwarded word detaches instead of trapping. -/
  | followerWaitExpiry (core slot : Nat)
  /-- SEQ_ENTRY_ISSUE (R149): The sequencer issues the next ready entry of a run once its dependencies have completed. -/
  | seqEntryIssue (core slot : Nat)
  /-- SEQ_ENTRY_COMPLETE (R150): A sequencer entry completes; when it is the last entry of the last iteration the run ends and frees its entries. -/
  | seqEntryComplete (core slot : Nat)
  /-- STREAM_PREFETCH (R145): A read stream issues an RLX load for a pack up to four places ahead of its position, holding any fault until the pack is consumed. -/
  | streamPrefetch (core slot stream : Nat) (ext : ExtReply)
  /-- SFU_ACCEPT (R165): The cluster's special-function unit accepts the oldest request of its 32-entry queue. -/
  | sfuAccept (clu : Nat)
  /-- SFU_RESULT (R165): 24 core cycles after acceptance the special-function result is written to f_d and the requester is woken. -/
  | sfuResult (clu : Nat)
  /-- NORMALISER_SERVICE (R127): The cluster's normaliser serves a subnormal stream-pipe instruction, oldest request first. -/
  | normaliserService (clu : Nat)
  /-- MATRIX_ENTRY_START (R176): A matrix-queue entry reaches the head with its release and interlock clear, is validated and starts, or faults. -/
  | matrixEntryStart (core : Nat) (urgent : Bool)
  /-- JOB_STEP_ISSUE (R178): A matrix job issues one step, reading its A row-vector, s_A word and K64 scales. -/
  | jobStepIssue (core : Nat) (urgent : Bool)
  /-- JOB_PROMOTION (R177): 40 array cycles after its step issues, the step's chains are promoted into one accumulator row; the last promotion ends the job. -/
  | jobPromotion (core : Nat) (urgent : Bool)
  /-- ENGINE_PAUSE (R181): A running engine entry stops at its next step or 4 KiB boundary for urgent work or a halt. -/
  | enginePause (core : Nat) (copy urgent : Bool)
  /-- ENGINE_RESUME (R181): A paused engine entry continues when the pause, the urgent queue or the halt ends. -/
  | engineResume (core : Nat) (copy urgent : Bool)
  /-- MLDB_END (R420): An MLDB entry ends after its image is placed into the CIM banks and the tile made valid. -/
  | mldbEnd (core : Nat) (urgent : Bool)
  /-- MZERO_END (R420): An MZERO entry ends 128 array cycles after its start with the accumulator zeroed. -/
  | mzeroEnd (core : Nat) (urgent : Bool)
  /-- MRD_END (R420): An MRD entry ends once its rows are written out and its stores accepted. -/
  | mrdEnd (core : Nat) (urgent : Bool)
  /-- COPY_ROW (R188): The copy engine performs one row of a copy entry, or holds it on a full bobbin, page, lock or interlock. -/
  | copyRow (core : Nat) (urgent : Bool) (ext : ExtReply)
  /-- COPY_END (R188): A copy entry ends DONE or FAULTED, and a FOLLOW copy releases or cancels a parked job. -/
  | copyEnd (core : Nat) (urgent : Bool)
  /-- STORE_ACCEPT (R197): A completed store, SNIB or no-return atomic is performed at its point of R196 and is accepted. -/
  | storeAccept (core index : Nat)
  /-- REMOTE_REPLY_ARRIVAL (R196): A reply to a parked load, atomic, CAS, LDA, fill or request arrives and completes the waiting instruction. -/
  | remoteReplyArrival (core slot : Nat) (ext : ExtReply)
  /-- TILE_ACCESS_MESSAGE (R196): A tile-segment access arrives at the owning core's scratchpad and is performed there. -/
  | tileAccessMessage (core slot : Nat)
  /-- HOME_ATOMIC (R204): An atomic, CAS or LDA request is performed indivisibly at the home slice after write-back and drains. -/
  | homeAtomic (core slot : Nat)
  /-- WRITEBACK_MERGE (R200): A write-back of a staging copy's dirty bytes arrives at the home and is merged byte by byte. -/
  | writebackMerge (clu index : Nat)
  /-- STAGING_EVICTION (R200): A cluster evicts a staging copy at any time, writing back its dirty bytes first. -/
  | stagingEviction (clu key : Nat)
  /-- L2EFF_SAMPLE (R203): Every 65,536 core cycles the L2EFF compression ratios are sampled. -/
  | l2effSample (die : BitVec 2) (mean : BitVec 16) (slices : List (Nat × BitVec 16))
  /-- SCRUB_UNIT (R397): Every 1,024 core cycles the scrubber reads one 64-byte unit, corrects single errors and poisons uncorrectable chunks. -/
  | scrubUnit (core array unit : Nat) (bad : List Nat) (corrected : Nat)
  /-- REED_ARRIVAL_MESSAGE (R247): An arrival reaches the reed's home core, counts toward the phase and is answered. -/
  | reedArrivalMessage (src : ReedSource)
  /-- TAG_MESSAGE (R252): A tag operation arrives at the owning scratchpad and is performed, or entered in the tag wait list. -/
  | tagMessage (core slot : Nat)
  /-- TAG_REQUEST_RETRY (R252): A tag request refused on a full wait list is sent again every 256 core cycles. -/
  | tagRequestRetry (core slot : Nat)
  /-- INBOX_DELIVERY (R264): A message word is accepted into a thread's inbox, or deferred for a trapped thread. -/
  | inboxDelivery (core slot : Nat) (src : InboxSource)
  /-- WEFT_REQUEST (R278): The weft engine takes one skein request and serves, parks or refuses it. -/
  | weftRequest (core slot : Nat)
  /-- CAUSALITY_WALK (R283): A wait-record walk follows successors up to four hops and serves the latest read of a closed cycle as CX. -/
  | causalityWalk (part : BitVec 4)
  /-- QCFG_OPEN (R298): CMD OPEN opens a CLOSED queue and fixes its attributes. -/
  | qcfgOpen (fn : Nat) (q : BitVec 15) (v : W64)
  /-- QCFG_CLOSE (R298): CMD CLOSE closes an OPEN or DRAINING queue that holds nothing and runs no kernel. -/
  | qcfgClose (fn : Nat) (q : BitVec 15) (v : W64)
  /-- QCFG_DRAIN (R298): CMD DRAIN moves an OPEN queue to DRAINING so that it refuses new records. -/
  | qcfgDrain (fn : Nat) (q : BitVec 15) (v : W64)
  /-- QCFG_THAW (R298): CMD THAW returns a FROZEN queue to its remembered state and clears QERR. -/
  | qcfgThaw (fn : Nat) (q : BitVec 15) (v : W64)
  /-- QCFG_PURGE (R298): CMD PURGE ends every QUEUED and WAITING record of the queue CANCELLED. -/
  | qcfgPurge (fn : Nat) (q : BitVec 15) (v : W64)
  /-- QCNT_CLEAR (R297): A write to QCNT clears the OVF and BADW counters. -/
  | qcntClear (fn : Nat) (q : BitVec 15) (v : W64)
  /-- ENQUEUE_WINDOW_WRITE (R299): A 64-byte host write to an enqueue window is accepted as a launch record or dropped and counted. -/
  | enqueueWindowWrite (fn : Nat) (q : BitVec 15) (bytes : List Byte) (aligned : Bool)
  /-- DISPATCH_DECISION (R313): At each D0 rotation boundary the dispatcher chooses the eligible queue with the smallest pass at the highest priority. -/
  | dispatchDecision
  /-- RANK_BIND (R314): At a core's rotation boundary, ranks of DISPATCHING kernels are bound to EMPTY slots. -/
  | rankBind (core : Nat)
  /-- KERNEL_RELEASE_END (R311): A RELEASING kernel's release at RSCOPE is performed, and then the kernel signals its token, increments QDONE and sends MSI-X. -/
  | kernelReleaseEnd (q : BitVec 15) (serial : W32)
  /-- WATCHDOG_EXPIRY (R309): A kernel watchdog reaches WDOG, kills every bound thread and ends the kernel FAULTED with HANG. -/
  | watchdogExpiry (q : BitVec 15) (serial : W32)
  /-- TOKEN_HOST_WRITE (R312): A host write to a token sets COUNT and clears ERR. -/
  | tokenHostWrite (fn : Nat) (tok : BitVec 16) (v : W64)
  /-- PARTITION_OPEN (R326): Selvedge opens a partition, clearing its tables and making its context RESIDENT. -/
  | partitionOpen (part : BitVec 4)
  /-- PARTITION_CLOSE (R326): Selvedge closes a partition, faulting its kernels and discarding all its state. -/
  | partitionClose (part : BitVec 4)
  /-- HALT_COMPLETE (R329): Every core of a HALTING context meets the halt conditions, and the context becomes HALTED. -/
  | haltComplete (part : BitVec 4)
  /-- SHADOW_TRANSFER_END (R330): A save, restore or exchange with the shadow banks completes. -/
  | shadowTransferEnd (part : BitVec 4) (lost : List Loss)
  /-- SPILL_END (R332): The save engine writes the last record and header, and the context becomes SPILLED. -/
  | spillEnd (part : BitVec 4) (ok : Bool)
  /-- RESTORE_END (R333): A restore completes and the context becomes RESIDENT, DEGRADED or FAILED. -/
  | restoreEnd (part : BitVec 4) (lost : List Loss) (fatal : Option Byte)
  /-- MIGRATION_END (R337): The context of a migrated core has streamed to its destination, whose slots resume, and a forwarding entry is left. -/
  | migrationEnd (core : Nat)
  /-- TABLE_WALK_END (R342): A page-table walk at the cluster port completes with a leaf, sets A and D, or makes a fault record. -/
  | tableWalkEnd (clu : Nat) (part : BitVec 4) (dva : Nat) (acc : BitVec 4) (src : BitVec 5)
  /-- PGWAKE_WAKE (R348): A PGWAKE write with REF = 0 wakes every access joined to the record so that it reissues. -/
  | pgwakeWake (die : BitVec 2) (rid : W32)
  /-- PGWAKE_REFUSE (R348): A PGWAKE write with REF = 1 traps the joined threads PAGE and faults the joined engine entries. -/
  | pgwakeRefuse (die : BitVec 2) (rid : W32)
  /-- EVPOP (R403): A read of EVPOP returns and removes the next word of the oldest event record. -/
  | evpop (die : BitVec 2)
  /-- PGPOP (R403): A read of PGPOP returns and removes the next word of the oldest pager record. -/
  | pgpop (die : BitVec 2)
  /-- EVSTAT_CLEAR (R403): A write to EVSTAT clears EVOVF. -/
  | evstatClear (die : BitVec 2) (v : W64)
  /-- ATS_RESPONSE (R354): An ATS translation or PRI page response arrives and wakes the dropped host access, or traps it PAGE. -/
  | atsResponse (page : Nat) (ok : Bool)
  /-- ATS_INVALIDATION (R355): An ATS Invalidation Request drops matching entries, and the completion is sent once every affected access has left. -/
  | atsInvalidation (page count : Nat)
  /-- LEASE_GRANT (R356): The lender grants granules, the borrower maps them BW and the lease token is signalled. -/
  | leaseGrant (part : BitVec 4) (n : Byte) (ngrant : BitVec 12) (tEvict termEnd : Nat) (frames : List Nat)
  /-- LEASE_DENY (R356): A lease request is denied and the lease becomes RETURNED with DEN, and TOKE is applied to its token. -/
  | leaseDeny (part : BitVec 4) (n : Byte)
  /-- LEASE_RECLAIM (R357): The lender reclaims an active lease, and the borrower's gateway stops new accesses and begins demoting granules. -/
  | leaseReclaim (part : BitVec 4) (n : Byte)
  /-- LEASE_TERM_END (R356): A lease's term ends and it becomes RECLAIMING. -/
  | leaseTermEnd (part : BitVec 4) (n : Byte)
  /-- RECLAIM_GRANULE_COPY (R357): One accessed granule is copied into fallback frames, its leaves are rewritten, and its waiters are woken. -/
  | reclaimGranuleCopy (part : BitVec 4) (n : Byte) (granule : Nat) (data : List Host.Cell)
  /-- LEASE_ACK (R357): The borrower acknowledges a completed reclaim and the lease becomes RETURNED. -/
  | leaseAck (part : BitVec 4) (n : Byte)
  /-- RECLAIM_DEADLINE (R356): The T_evict deadline passes without acknowledgement and the lease is REVOKED. -/
  | reclaimDeadline (part : BitVec 4) (n : Byte)
  /-- PORTC_ENABLE (R364): PORTC command 1 enables a DOWN port so that it starts TRAINING. -/
  | portcEnable (port : BitVec 4)
  /-- PORTC_FENCE (R364): PORTC command 2 fences a port and discards its flits. -/
  | portcFence (port : BitVec 4)
  /-- PORTC_DISABLE (R364): PORTC command 3 takes a FAILED or FENCED port DOWN. -/
  | portcDisable (port : BitVec 4)
  /-- TRAINING_COMPLETE (R364): A port completes training and becomes UP. -/
  | trainingComplete (port : BitVec 4) (domain : W64)
  /-- TRAINING_TIMEOUT (R364): Training not complete within 10 ms takes the port to FAILED. -/
  | trainingTimeout (port : BitVec 4)
  /-- LINK_ERROR (R364): A flit replayed 16 times, or a loss of lane lock, takes an UP port to RETRAINING. -/
  | linkError (port : BitVec 4)
  /-- RETRAIN_COMPLETE (R364): Retraining completes, and the held flits are replayed in order. -/
  | retrainComplete (port : BitVec 4)
  /-- RETRAIN_TIMEOUT (R364): Retraining not complete within 2 ms takes the port to FAILED and discards its flits. -/
  | retrainTimeout (port : BitVec 4)
  /-- PARTNER_LOST (R364): Loss of the partner takes the port DOWN and discards its flits. -/
  | partnerLost (port : BitVec 4)
  /-- PEER_REQUEST (R368): A request from a peer is performed, held for its pager, or refused under the target's own tables. -/
  | peerRequest (pkg : BitVec 10) (part : BitVec 4) (tid : W64) (req : PeerReq)
  /-- PEER_ACK (R370): An acknowledgement of a peer store returns to the issuing package. -/
  | peerAck (core slot : Nat) (pkg : BitVec 10) (refused : Bool) (address : W64)
  /-- REMOTE_ACCESS_TIMEOUT (R367): After 500 µs without a reply, the wait is withdrawn and the thread traps LINKDOWN. -/
  | remoteAccessTimeout (core slot : Nat)
  /-- COUNTED_RELEASE_TIMEOUT (R371): A held counted release whose stores do not arrive within 500 µs is discarded. -/
  | countedReleaseTimeout (index : Nat)
  /-- COUNTED_RELEASE_PERFORM (R371): When n stores of epoch e have been performed at the target, the held release is performed. -/
  | countedReleasePerform (index : Nat)
  /-- MCST_COPY_WRITE (R374): A multicast write arrives at a member, sets OPEN and stores the value in its copy. -/
  | mcstCopyWrite (pkg : BitVec 10) (part : BitVec 4) (tid : W64) (sub : Byte) (dva : Nat) (v : W64)
  /-- STALE_NOTICE (R375): A stale notice arrives at a member and sets STALE in its subscription. -/
  | staleNotice (pkg : BitVec 10) (part : BitVec 4) (sub : Byte)
  /-- ARED_PHASE_COMPLETE (R377): The last contribution of an all-reduce phase arrives, and every member receives the result or a failure status. -/
  | aredPhaseComplete (part : BitVec 4) (g : Byte) (peers : List AredContrib) (failed : Bool)
  /-- SHUTTLE_ARRIVAL (R381): A shuttle arrives at the destination package and is accepted as a kernel or refused with a status. -/
  | shuttleArrival (pkg : BitVec 10) (part : BitVec 4) (sh : Shuttle) (release : Option (BitVec 16 × W32))
  /-- SHUTTLE_REPLY_ARRIVAL (R384): A shuttle reply arrives at the sender's inbox, and RTOK is then signalled. -/
  | shuttleReplyArrival (part : BitVec 4) (kid : W64) (tid : W64) (w1 w2 : W64) (rtok : BitVec 16)
  /-- REPLY_HOLD_TIMEOUT (R384): A reply held for a full inbox for 500 µs is discarded, and NLOST increments. -/
  | replyHoldTimeout (index : Nat)
  /-- SHUTTLE_REFUSAL (R385): A refusal of a posted shuttle reaches its sender and sets SHST. -/
  | shuttleRefusal (core slot : Nat) (kid : W64) (desc : W64) (status : BitVec 4)
  /-- BAR2_WRITE (R406): A host write through BAR2 is performed at home as a SYS store, or dropped with an event record. -/
  | bar2Write (fn offset : Nat) (bytes : List Byte)
  /-- BAR2_READ (R406): A host read through BAR2 returns the value at home, or all ones. -/
  | bar2Read (fn offset n : Nat)
  /-- BAR2_ATOMIC (R406): A host AtomicOp through BAR2 is performed at home at SYS scope, or completes with Unsupported Request. -/
  | bar2Atomic (fn offset : Nat) (op : BitVec 2) (n : Nat) (operand compare : W64)
  /-- MAILBOX_MESSAGE (R405): The host writes a message into the mailbox to Treadle. -/
  | mailboxMessage (fn : Nat) (words : List W64)
  /-- IMAGE_SUBMIT (R407): A Selvedge or Treadle image supplied through the mailbox is verified and started. -/
  | imageSubmit (fn : Nat) (img : Image)
  /-- ATTEST_REQUEST (R409): A nonce request through the mailbox makes Selvedge return a signed quote. -/
  | attestRequest (fn : Nat) (nonce : List Byte)
  /-- PACKAGE_RESET (R407): RESET_N, or PWRGD going low and then good, resets the package and runs the boot stages. -/
  | packageReset (pkgNumber : BitVec 10) (railLow : BitVec 4) (romOk : Bool) (img : Option Image)
  /-- L2_RECOVERY (R396): At Treadle's request, a die's L2 is initialised again and its mode chosen. -/
  | l2Recovery (die : BitVec 2) (railLow : Bool)
  /-- FATAL_ERROR (R399): An uncorrectable error in firmware, service-core state or the boot ROM stops dispatch on every die and calls for a dump. -/
  | fatalError (kind : Byte)
  /-- DUMP_WRITE (R410): Treadle writes a dump into the dump buffer. -/
  | dumpWrite
  /-- DUMP_TIMEOUT (R410): Treadle shows no progress within 10 ms, so Selvedge writes the dump. -/
  | dumpTimeout
  /-- ESCAL_KILL_SERVED (R403): ESCAL command 1 kills the slot being served and restarts slot 7 on its trap queue. -/
  | escalKillServed (core : Nat)
  /-- ESCAL_KILL_ALL (R403): ESCAL command 2 kills slots 0–6 and restarts slot 7. -/
  | escalKillAll (core : Nat)
  /-- THERMTRIP (R411): A die passes its trip temperature, THERMTRIP_N is asserted and the module stops drawing core power. -/
  | thermtrip (die : BitVec 2)
  /-- SMBUS_READ_TELEMETRY (R411): The board controller reads die temperatures and module power. -/
  | smbusReadTelemetry (temps : List Nat) (draw : Nat)
  /-- SMBUS_READ_STAGE (R411): The board controller reads STAGE. -/
  | smbusReadStage
  /-- SMBUS_SET_POWER_LIMIT (R411): The board controller sets the module power limit from 400 W to 1,600 W. -/
  | smbusSetPowerLimit (watts : Nat)
  /-- REGISTER_WRITE (R103): A write to a register with no row of its own writes its RW fields under their write rules. -/
  | registerWrite (reg : RegAddr) (v : W64)
  /-- ADD (R91): Integer add. -/
  | add (w : BitVec 1) (b : Reg) (a : Reg) (d : Reg)
  /-- SUB (R91): Integer subtract. -/
  | sub (w : BitVec 1) (b : Reg) (a : Reg) (d : Reg)
  /-- AND (R91): Bitwise AND. -/
  | and (w : BitVec 1) (b : Reg) (a : Reg) (d : Reg)
  /-- OR (R91): Bitwise OR. -/
  | or (w : BitVec 1) (b : Reg) (a : Reg) (d : Reg)
  /-- XOR (R91): Bitwise XOR. -/
  | xor (w : BitVec 1) (b : Reg) (a : Reg) (d : Reg)
  /-- ANDN (R91): A AND NOT B. -/
  | andn (w : BitVec 1) (b : Reg) (a : Reg) (d : Reg)
  /-- ORN (R91): A OR NOT B. -/
  | orn (w : BitVec 1) (b : Reg) (a : Reg) (d : Reg)
  /-- XNOR (R91): NOT (A XOR B). -/
  | xnor (w : BitVec 1) (b : Reg) (a : Reg) (d : Reg)
  /-- SHL (R91): Shift left. -/
  | shl (w : BitVec 1) (b : Reg) (a : Reg) (d : Reg)
  /-- SHR (R91): Logical shift right. -/
  | shr (w : BitVec 1) (b : Reg) (a : Reg) (d : Reg)
  /-- SHRA (R91): Arithmetic shift right. -/
  | shra (w : BitVec 1) (b : Reg) (a : Reg) (d : Reg)
  /-- ROL (R91): Rotate left. -/
  | rol (w : BitVec 1) (b : Reg) (a : Reg) (d : Reg)
  /-- ROR (R91): Rotate right. -/
  | ror (w : BitVec 1) (b : Reg) (a : Reg) (d : Reg)
  /-- SLT (R91): Set if less than, signed. -/
  | slt (w : BitVec 1) (b : Reg) (a : Reg) (d : Reg)
  /-- SLTU (R91): Set if less than, unsigned. -/
  | sltu (w : BitVec 1) (b : Reg) (a : Reg) (d : Reg)
  /-- MIN (R91): Signed minimum. -/
  | min (w : BitVec 1) (b : Reg) (a : Reg) (d : Reg)
  /-- MAX (R91): Signed maximum. -/
  | max (w : BitVec 1) (b : Reg) (a : Reg) (d : Reg)
  /-- MINU (R91): Unsigned minimum. -/
  | minu (w : BitVec 1) (b : Reg) (a : Reg) (d : Reg)
  /-- MAXU (R91): Unsigned maximum. -/
  | maxu (w : BitVec 1) (b : Reg) (a : Reg) (d : Reg)
  /-- MUL (R91): Multiply, low half. -/
  | mul (w : BitVec 1) (b : Reg) (a : Reg) (d : Reg)
  /-- HMUL (R91): High half of the signed product. -/
  | hmul (w : BitVec 1) (b : Reg) (a : Reg) (d : Reg)
  /-- HMULU (R91): High half of the unsigned product. -/
  | hmulu (w : BitVec 1) (b : Reg) (a : Reg) (d : Reg)
  /-- HMULM (R91): High half of the mixed signed-unsigned product. -/
  | hmulm (w : BitVec 1) (b : Reg) (a : Reg) (d : Reg)
  /-- DIV (R92): Signed division truncating toward zero. -/
  | div (w : BitVec 1) (b : Reg) (a : Reg) (d : Reg)
  /-- DIVU (R92): Unsigned division. -/
  | divu (w : BitVec 1) (b : Reg) (a : Reg) (d : Reg)
  /-- REM (R92): Signed remainder. -/
  | rem (w : BitVec 1) (b : Reg) (a : Reg) (d : Reg)
  /-- REMU (R92): Unsigned remainder. -/
  | remu (w : BitVec 1) (b : Reg) (a : Reg) (d : Reg)
  /-- CLZ (R91): Count leading zeros. -/
  | clz (w : BitVec 1) (a : Reg) (d : Reg)
  /-- CTZ (R91): Count trailing zeros. -/
  | ctz (w : BitVec 1) (a : Reg) (d : Reg)
  /-- POPC (R91): Population count. -/
  | popc (w : BitVec 1) (a : Reg) (d : Reg)
  /-- BREV (R91): Bit reverse. -/
  | brev (w : BitVec 1) (a : Reg) (d : Reg)
  /-- BSWAP (R91): Byte swap. -/
  | bswap (w : BitVec 1) (a : Reg) (d : Reg)
  /-- SEXT (R94): Sign-extend from a width. -/
  | sext (w : BitVec 2) (a : Reg) (d : Reg)
  /-- ZEXT (R94): Zero-extend from a width. -/
  | zext (w : BitVec 2) (a : Reg) (d : Reg)
  /-- BFX (R94): Extract a bit field. -/
  | bfx (w : BitVec 2) (b : Reg) (a : Reg) (d : Reg)
  /-- BFI (R94): Insert a bit field. -/
  | bfi (w : BitVec 2) (b : Reg) (a : Reg) (d : Reg)
  /-- CSEL (R96): Select g_a or g_b by g_c. -/
  | csel (c : Reg) (b : Reg) (a : Reg) (d : Reg)
  /-- MADD (R96): Multiply and add. -/
  | madd (w : BitVec 1) (c : Reg) (b : Reg) (a : Reg) (d : Reg)
  /-- MSUB (R96): Multiply and subtract. -/
  | msub (w : BitVec 1) (c : Reg) (b : Reg) (a : Reg) (d : Reg)
  /-- ADDI (R97): Add immediate. -/
  | addi (i : BitVec 14) (a : Reg) (d : Reg)
  /-- ANDI (R97): AND immediate. -/
  | andi (i : BitVec 14) (a : Reg) (d : Reg)
  /-- ORI (R97): OR immediate. -/
  | ori (i : BitVec 14) (a : Reg) (d : Reg)
  /-- XORI (R97): XOR immediate. -/
  | xori (i : BitVec 14) (a : Reg) (d : Reg)
  /-- SHLI (R97): Shift left by immediate. -/
  | shli (i : BitVec 6) (a : Reg) (d : Reg)
  /-- SHRI (R97): Logical shift right by immediate. -/
  | shri (i : BitVec 6) (a : Reg) (d : Reg)
  /-- SHRAI (R97): Arithmetic shift right by immediate. -/
  | shrai (i : BitVec 6) (a : Reg) (d : Reg)
  /-- SLTI (R97): Set if less than immediate, signed. -/
  | slti (i : BitVec 14) (a : Reg) (d : Reg)
  /-- SLTIU (R97): Set if less than immediate, unsigned. -/
  | sltiu (i : BitVec 14) (a : Reg) (d : Reg)
  /-- LDH (R98): Load upper immediate shifted by 13. -/
  | ldh (i : BitVec 19) (d : Reg)
  /-- ADDPC (R98): Add upper immediate to pc. -/
  | addpc (i : BitVec 19) (d : Reg)
  /-- BEQ (R99): Branch if equal. -/
  | beq (f : BitVec 14) (b : Reg) (a : Reg)
  /-- BNE (R99): Branch if not equal. -/
  | bne (f : BitVec 14) (b : Reg) (a : Reg)
  /-- BLT (R99): Branch if less than, signed. -/
  | blt (f : BitVec 14) (b : Reg) (a : Reg)
  /-- BGE (R99): Branch if greater or equal, signed. -/
  | bge (f : BitVec 14) (b : Reg) (a : Reg)
  /-- BLTU (R99): Branch if less than, unsigned. -/
  | bltu (f : BitVec 14) (b : Reg) (a : Reg)
  /-- BGEU (R99): Branch if greater or equal, unsigned. -/
  | bgeu (f : BitVec 14) (b : Reg) (a : Reg)
  /-- JAL (R100): Jump by word offset and link. -/
  | jal (f : BitVec 19) (d : Reg)
  /-- JALR (R100): Jump to register plus offset and link. -/
  | jalr (i : BitVec 14) (a : Reg) (d : Reg)
  /-- LB (R209): Load byte, sign-extended. -/
  | lb (i : BitVec 14) (a : Reg) (d : Reg)
  /-- LH (R209): Load half, sign-extended. -/
  | lh (i : BitVec 14) (a : Reg) (d : Reg)
  /-- LW (R209): Load word, sign-extended. -/
  | lw (i : BitVec 14) (a : Reg) (d : Reg)
  /-- LD (R209): Load doubleword. -/
  | ld (i : BitVec 14) (a : Reg) (d : Reg)
  /-- LBU (R209): Load byte, zero-extended. -/
  | lbu (i : BitVec 14) (a : Reg) (d : Reg)
  /-- LHU (R209): Load half, zero-extended. -/
  | lhu (i : BitVec 14) (a : Reg) (d : Reg)
  /-- LWU (R209): Load word, zero-extended. -/
  | lwu (i : BitVec 14) (a : Reg) (d : Reg)
  /-- LQ (R209): Load 16 bytes into a register pair. -/
  | lq (i : BitVec 14) (a : Reg) (d : Reg)
  /-- LDC (R208): Load 8 bytes through the constant cache. -/
  | ldc (i : BitVec 14) (a : Reg) (d : Reg)
  /-- LDA_W (R231): Load-acquire of 4 bytes at a scope. -/
  | ldaW (s : BitVec 3) (a : Reg) (d : Reg)
  /-- LDA_D (R231): Load-acquire of 8 bytes at a scope. -/
  | ldaD (s : BitVec 3) (a : Reg) (d : Reg)
  /-- LDA_Q (R231): Load-acquire of 16 bytes at a scope. -/
  | ldaQ (s : BitVec 3) (a : Reg) (d : Reg)
  /-- SB (R211): Store byte. -/
  | sb (i : BitVec 14) (b : Reg) (a : Reg)
  /-- SH (R211): Store half. -/
  | sh (i : BitVec 14) (b : Reg) (a : Reg)
  /-- SW (R211): Store word. -/
  | sw (i : BitVec 14) (b : Reg) (a : Reg)
  /-- SD (R211): Store doubleword. -/
  | sd (i : BitVec 14) (b : Reg) (a : Reg)
  /-- SQ (R211): Store 16 bytes from a register pair. -/
  | sq (i : BitVec 14) (b : Reg) (a : Reg)
  /-- SNIB (R211): Store one nibble of a byte. -/
  | snib (h : BitVec 1) (b : Reg) (a : Reg)
  /-- STRL_W (R232): Store-release of 4 bytes at a scope. -/
  | strlW (s : BitVec 3) (b : Reg) (a : Reg)
  /-- STRL_D (R232): Store-release of 8 bytes at a scope. -/
  | strlD (s : BitVec 3) (b : Reg) (a : Reg)
  /-- STRL_Q (R232): Store-release of 16 bytes at a scope. -/
  | strlQ (s : BitVec 3) (b : Reg) (a : Reg)
  /-- ATOM_ADD_W (R213): Atomic add, 4 bytes. -/
  | atomAddW (s : BitVec 3) (o : BitVec 2) (b : Reg) (a : Reg) (d : Reg)
  /-- ATOM_AND_W (R213): Atomic AND, 4 bytes. -/
  | atomAndW (s : BitVec 3) (o : BitVec 2) (b : Reg) (a : Reg) (d : Reg)
  /-- ATOM_OR_W (R213): Atomic OR, 4 bytes. -/
  | atomOrW (s : BitVec 3) (o : BitVec 2) (b : Reg) (a : Reg) (d : Reg)
  /-- ATOM_XOR_W (R213): Atomic XOR, 4 bytes. -/
  | atomXorW (s : BitVec 3) (o : BitVec 2) (b : Reg) (a : Reg) (d : Reg)
  /-- ATOM_MIN_W (R213): Atomic signed minimum, 4 bytes. -/
  | atomMinW (s : BitVec 3) (o : BitVec 2) (b : Reg) (a : Reg) (d : Reg)
  /-- ATOM_MAX_W (R213): Atomic signed maximum, 4 bytes. -/
  | atomMaxW (s : BitVec 3) (o : BitVec 2) (b : Reg) (a : Reg) (d : Reg)
  /-- ATOM_MINU_W (R213): Atomic unsigned minimum, 4 bytes. -/
  | atomMinuW (s : BitVec 3) (o : BitVec 2) (b : Reg) (a : Reg) (d : Reg)
  /-- ATOM_MAXU_W (R213): Atomic unsigned maximum, 4 bytes. -/
  | atomMaxuW (s : BitVec 3) (o : BitVec 2) (b : Reg) (a : Reg) (d : Reg)
  /-- ATOM_SWAP_W (R213): Atomic swap, 4 bytes. -/
  | atomSwapW (s : BitVec 3) (o : BitVec 2) (b : Reg) (a : Reg) (d : Reg)
  /-- ATOM_ADD_D (R213): Atomic add, 8 bytes. -/
  | atomAddD (s : BitVec 3) (o : BitVec 2) (b : Reg) (a : Reg) (d : Reg)
  /-- ATOM_AND_D (R213): Atomic AND, 8 bytes. -/
  | atomAndD (s : BitVec 3) (o : BitVec 2) (b : Reg) (a : Reg) (d : Reg)
  /-- ATOM_OR_D (R213): Atomic OR, 8 bytes. -/
  | atomOrD (s : BitVec 3) (o : BitVec 2) (b : Reg) (a : Reg) (d : Reg)
  /-- ATOM_XOR_D (R213): Atomic XOR, 8 bytes. -/
  | atomXorD (s : BitVec 3) (o : BitVec 2) (b : Reg) (a : Reg) (d : Reg)
  /-- ATOM_MIN_D (R213): Atomic signed minimum, 8 bytes. -/
  | atomMinD (s : BitVec 3) (o : BitVec 2) (b : Reg) (a : Reg) (d : Reg)
  /-- ATOM_MAX_D (R213): Atomic signed maximum, 8 bytes. -/
  | atomMaxD (s : BitVec 3) (o : BitVec 2) (b : Reg) (a : Reg) (d : Reg)
  /-- ATOM_MINU_D (R213): Atomic unsigned minimum, 8 bytes. -/
  | atomMinuD (s : BitVec 3) (o : BitVec 2) (b : Reg) (a : Reg) (d : Reg)
  /-- ATOM_MAXU_D (R213): Atomic unsigned maximum, 8 bytes. -/
  | atomMaxuD (s : BitVec 3) (o : BitVec 2) (b : Reg) (a : Reg) (d : Reg)
  /-- ATOM_SWAP_D (R213): Atomic swap, 8 bytes. -/
  | atomSwapD (s : BitVec 3) (o : BitVec 2) (b : Reg) (a : Reg) (d : Reg)
  /-- FATOM_FADD (R214): Floating-point atomic add. -/
  | fatomFadd (t : BitVec 2) (s : BitVec 3) (o : BitVec 2) (b : Reg) (a : Reg) (d : Reg)
  /-- FATOM_FMIN (R214): Floating-point atomic minimum. -/
  | fatomFmin (t : BitVec 2) (s : BitVec 3) (o : BitVec 2) (b : Reg) (a : Reg) (d : Reg)
  /-- FATOM_FMAX (R214): Floating-point atomic maximum. -/
  | fatomFmax (t : BitVec 2) (s : BitVec 3) (o : BitVec 2) (b : Reg) (a : Reg) (d : Reg)
  /-- FATOMP_FADD (R214): Paired floating-point atomic add. -/
  | fatompFadd (t : BitVec 2) (s : BitVec 3) (o : BitVec 2) (b : Reg) (a : Reg) (d : Reg)
  /-- FATOMP_FMIN (R214): Paired floating-point atomic minimum. -/
  | fatompFmin (t : BitVec 2) (s : BitVec 3) (o : BitVec 2) (b : Reg) (a : Reg) (d : Reg)
  /-- FATOMP_FMAX (R214): Paired floating-point atomic maximum. -/
  | fatompFmax (t : BitVec 2) (s : BitVec 3) (o : BitVec 2) (b : Reg) (a : Reg) (d : Reg)
  /-- CAS_W (R215): Compare and swap, 4 bytes. -/
  | casW (s : BitVec 3) (o : BitVec 2) (b : Reg) (a : Reg) (d : Reg)
  /-- CAS_D (R215): Compare and swap, 8 bytes. -/
  | casD (s : BitVec 3) (o : BitVec 2) (b : Reg) (a : Reg) (d : Reg)
  /-- CAS_Q (R215): Compare and swap, 16 bytes. -/
  | casQ (s : BitVec 3) (o : BitVec 2) (b : Reg) (a : Reg) (d : Reg)
  /-- WBR (R217): Write back the dirty bytes of a range. -/
  | wbr (s : BitVec 3) (b : Reg) (a : Reg)
  /-- INVR (R217): Write back and drop the copies of a range. -/
  | invr (s : BitVec 3) (b : Reg) (a : Reg)
  /-- DISC (R217): Drop the copies of a range, discarding SM lines without write-back. -/
  | disc (s : BitVec 3) (b : Reg) (a : Reg)
  /-- PREF (R217): Prefetch the lines of a range. -/
  | pref (s : BitVec 3) (b : Reg) (a : Reg)
  /-- CINV (R218): Empty the core's constant cache. -/
  | cinv
  /-- FENCE (R233): Full fence at a scope; at SYS it also waits for peers and returns a status. -/
  | fence (s : BitVec 3) (d : Reg)
  /-- REL (R233): Release fence at a scope. -/
  | rel (s : BitVec 3)
  /-- ACQ (R233): Acquire fence at a scope. -/
  | acq (s : BitVec 3)
  /-- HINT (R42): No operation. -/
  | hint (n : BitVec 24)
  /-- FADD (R157): Floating-point add per lane. -/
  | fadd (t : BitVec 4) (b : Reg) (a : Reg) (d : Reg)
  /-- FSUB (R157): Floating-point subtract per lane. -/
  | fsub (t : BitVec 4) (b : Reg) (a : Reg) (d : Reg)
  /-- FMUL (R157): Floating-point multiply per lane. -/
  | fmul (t : BitVec 4) (b : Reg) (a : Reg) (d : Reg)
  /-- FDIV (R157): Floating-point divide per lane. -/
  | fdiv (t : BitVec 4) (b : Reg) (a : Reg) (d : Reg)
  /-- FSQRT (R157): Floating-point square root per lane. -/
  | fsqrt (t : BitVec 4) (a : Reg) (d : Reg)
  /-- FMIN (R157): Floating-point minimum per lane. -/
  | fmin (t : BitVec 4) (b : Reg) (a : Reg) (d : Reg)
  /-- FMAX (R157): Floating-point maximum per lane. -/
  | fmax (t : BitVec 4) (b : Reg) (a : Reg) (d : Reg)
  /-- FCPYS (R157): Copy the sign from B. -/
  | fcpys (t : BitVec 4) (b : Reg) (a : Reg) (d : Reg)
  /-- FCPYNS (R157): Copy the inverted sign from B. -/
  | fcpyns (t : BitVec 4) (b : Reg) (a : Reg) (d : Reg)
  /-- FXORS (R157): XOR the signs of A and B. -/
  | fxors (t : BitVec 4) (b : Reg) (a : Reg) (d : Reg)
  /-- FEQ (R157): Compare equal into a lane mask. -/
  | feq (t : BitVec 4) (b : Reg) (a : Reg) (d : Reg)
  /-- FLT (R157): Compare less than into a lane mask. -/
  | flt (t : BitVec 4) (b : Reg) (a : Reg) (d : Reg)
  /-- FLE (R157): Compare less or equal into a lane mask. -/
  | fle (t : BitVec 4) (b : Reg) (a : Reg) (d : Reg)
  /-- FKIND (R158): Write a kind code for each lane. -/
  | fkind (t : BitVec 4) (a : Reg) (d : Reg)
  /-- FMADD (R159): Fused A·B + C. -/
  | fmadd (t : BitVec 4) (c : Reg) (b : Reg) (a : Reg) (d : Reg)
  /-- FMSUB (R159): Fused A·B − C. -/
  | fmsub (t : BitVec 4) (c : Reg) (b : Reg) (a : Reg) (d : Reg)
  /-- FNMADD (R159): Fused −(A·B) − C. -/
  | fnmadd (t : BitVec 4) (c : Reg) (b : Reg) (a : Reg) (d : Reg)
  /-- FNMSUB (R159): Fused −(A·B) + C. -/
  | fnmsub (t : BitVec 4) (c : Reg) (b : Reg) (a : Reg) (d : Reg)
  /-- FCVT (R160): Convert lanes between formats with an optional scale. -/
  | fcvt (u : BitVec 4) (t : BitVec 4) (b : Reg) (a : Reg) (d : Reg)
  /-- FTOG (R161): Move the low 64 bits of an f register to a g register. -/
  | ftog (a : Reg) (d : Reg)
  /-- FTOGH (R161): Move the high 64 bits of an f register to a g register. -/
  | ftogh (a : Reg) (d : Reg)
  /-- GTOF (R161): Move two g registers into an f register. -/
  | gtof (b : Reg) (a : Reg) (d : Reg)
  /-- SPLAT (R161): Copy a g value into every lane. -/
  | splat (t : BitVec 4) (a : Reg) (d : Reg)
  /-- SHUF (R161): Shuffle lanes by selectors in g_b. -/
  | shuf (t : BitVec 4) (b : Reg) (a : Reg) (d : Reg)
  /-- FLQ (R162): Load a 16-byte pack. -/
  | flq (i : BitVec 14) (a : Reg) (d : Reg)
  /-- FSQ (R162): Store a 16-byte pack. -/
  | fsq (i : BitVec 14) (b : Reg) (a : Reg)
  /-- QADD (R163): Saturating fixed-point add. -/
  | qadd (t : BitVec 4) (b : Reg) (a : Reg) (d : Reg)
  /-- QSUB (R163): Saturating fixed-point subtract. -/
  | qsub (t : BitVec 4) (b : Reg) (a : Reg) (d : Reg)
  /-- QMUL (R163): Saturating fixed-point multiply. -/
  | qmul (t : BitVec 4) (b : Reg) (a : Reg) (d : Reg)
  /-- QSHR (R163): Rounding fixed-point shift right. -/
  | qshr (t : BitVec 4) (b : Reg) (a : Reg) (d : Reg)
  /-- QSAT (R163): Narrow Q31 lanes to Q15. -/
  | qsat (a : Reg) (d : Reg)
  /-- QRNG (R163): Range-check lanes against FQLO and FQHI. -/
  | qrng (t : BitVec 4) (a : Reg) (d : Reg)
  /-- QABS (R163): Saturating absolute value. -/
  | qabs (t : BitVec 4) (a : Reg) (d : Reg)
  /-- RSADD (R164): Ring-set add. -/
  | rsadd (l : BitVec 1) (b : Reg) (a : Reg) (d : Reg)
  /-- RSSUB (R164): Ring-set subtract. -/
  | rssub (l : BitVec 1) (b : Reg) (a : Reg) (d : Reg)
  /-- RSMUL (R164): Ring-set multiply. -/
  | rsmul (l : BitVec 1) (b : Reg) (a : Reg) (d : Reg)
  /-- RSDIV (R164): Ring-set divide. -/
  | rsdiv (l : BitVec 1) (b : Reg) (a : Reg) (d : Reg)
  /-- RSNEG (R164): Ring-set negate. -/
  | rsneg (l : BitVec 1) (a : Reg) (d : Reg)
  /-- RSREC (R164): Ring-set reciprocal. -/
  | rsrec (l : BitVec 1) (a : Reg) (d : Reg)
  /-- RSSQR (R164): Ring-set square. -/
  | rssqr (l : BitVec 1) (a : Reg) (d : Reg)
  /-- RSSQRT (R164): Ring-set square root. -/
  | rssqrt (l : BitVec 1) (a : Reg) (d : Reg)
  /-- RSUNI (R164): Ring-set union. -/
  | rsuni (l : BitVec 1) (b : Reg) (a : Reg) (d : Reg)
  /-- RSINT (R164): Ring-set intersection. -/
  | rsint (l : BitVec 1) (b : Reg) (a : Reg) (d : Reg)
  /-- RSFROM (R164): Ring-sets from F32 values. -/
  | rsfrom (l : BitVec 1) (b : Reg) (a : Reg) (d : Reg)
  /-- RSLO (R164): Lower bounds of ring-sets. -/
  | rslo (l : BitVec 1) (a : Reg) (d : Reg)
  /-- RSHI (R164): Upper bounds of ring-sets. -/
  | rshi (l : BitVec 1) (a : Reg) (d : Reg)
  /-- RSPACK (R164): Pack RS16 lanes into RC8. -/
  | rspack (b : Reg) (a : Reg) (d : Reg)
  /-- RSUNPK (R164): Unpack half of the RC8 lanes into RS16. -/
  | rsunpk (b : Reg) (a : Reg) (d : Reg)
  /-- RSEMP (R164): Mask of empty ring-set lanes. -/
  | rsemp (l : BitVec 1) (a : Reg) (d : Reg)
  /-- RSLDT (R164): Load the core's ring-set tables. -/
  | rsldt (a : Reg)
  /-- RSLDG (R164): Load the core's ring. -/
  | rsldg (a : Reg)
  /-- FEXP2 (R166): 2^x through the SFU. -/
  | fexp2 (t : BitVec 4) (a : Reg) (d : Reg)
  /-- FLOG2 (R166): log2 x through the SFU. -/
  | flog2 (t : BitVec 4) (a : Reg) (d : Reg)
  /-- FRCP (R166): 1/x through the SFU. -/
  | frcp (t : BitVec 4) (a : Reg) (d : Reg)
  /-- FRSQ (R166): 1/sqrt x through the SFU. -/
  | frsq (t : BitVec 4) (a : Reg) (d : Reg)
  /-- FSINPI (R166): sin(pi x) through the SFU. -/
  | fsinpi (t : BitVec 4) (a : Reg) (d : Reg)
  /-- FCOSPI (R166): cos(pi x) through the SFU. -/
  | fcospi (t : BitVec 4) (a : Reg) (d : Reg)
  /-- FTANH (R166): tanh x through the SFU. -/
  | ftanh (t : BitVec 4) (a : Reg) (d : Reg)
  /-- FERF (R166): erf x through the SFU. -/
  | ferf (t : BitVec 4) (a : Reg) (d : Reg)
  /-- FSIGM (R166): Logistic sigmoid through the SFU. -/
  | fsigm (t : BitVec 4) (a : Reg) (d : Reg)
  /-- SBOUND (R146): Set a stream level's bound. -/
  | sbound (n : BitVec 3) (l : BitVec 2) (a : Reg)
  /-- SSTRIDE (R146): Set a stream level's stride. -/
  | sstride (n : BitVec 3) (l : BitVec 2) (a : Reg)
  /-- SBASE (R146): Set a stream's base. -/
  | sbase (n : BitVec 3) (a : Reg)
  /-- SEN (R143): Enable a stream. -/
  | sen (n : BitVec 3) (a : Reg) (d : Reg)
  /-- SDIS (R142): Disable a stream after its stores are accepted. -/
  | sdis (n : BitVec 3)
  /-- SDRAIN (R146): Wait until a write stream's stores are accepted. -/
  | sdrain (n : BitVec 3) (d : Reg)
  /-- SSTAT (R147): Read a stream's status word. -/
  | sstat (n : BitVec 3) (d : Reg)
  /-- SEQ (R150): Hand a run of words to the sequencer. -/
  | seq (a : Reg) (n : BitVec 5)
  /-- QWG (R156): Push two g registers into a queue register. -/
  | qwg (q : BitVec 5) (b : Reg) (a : Reg)
  /-- QWF (R156): Push an f register into a queue register. -/
  | qwf (q : BitVec 5) (a : Reg)
  /-- QRG (R156): Pop a queue register into a g register. -/
  | qrg (q : BitVec 5) (d : Reg)
  /-- QRF (R156): Pop a queue register into an f register. -/
  | qrf (q : BitVec 5) (d : Reg)
  /-- QCNT (R156): Read a queue register's entry count. -/
  | qcnt (q : BitVec 5) (d : Reg)
  /-- MJOB_ACC (R182): Enqueue an accumulate-mode matrix job with its parameter block. -/
  | mjobAcc (park : BitVec 1) (m : BitVec 2) (a : Reg) (p0 p1 p2 p3 : W32)
  /-- MJOB_OVR (R182): Enqueue an overwrite-first matrix job with its parameter block. -/
  | mjobOvr (park : BitVec 1) (m : BitVec 2) (a : Reg) (p0 p1 p2 p3 : W32)
  /-- MLDB (R184): Enqueue a B-tile load into CIM banks. -/
  | mldb (t : BitVec 4) (c : Reg) (b : Reg) (a : Reg) (n : BitVec 3)
  /-- MZERO (R185): Enqueue the zeroing of an accumulator. -/
  | mzero (c : Reg) (m : BitVec 2)
  /-- MRD (R185): Enqueue a read-out of accumulator rows. -/
  | mrd (c : Reg) (b : Reg) (a : Reg) (m : BitVec 2)
  /-- MSTAT (R186): Read a matrix or copy status word. -/
  | mstat (a : Reg) (d : Reg)
  /-- CPY_MEM (R188): Enqueue a 2D copy to memory. -/
  | cpyMem (follow : BitVec 1) (b a d : Reg) (p0 p1 p2 p3 : W32)
  /-- CPY_BOB (R188): Enqueue a copy into bobbin slots. -/
  | cpyBob (follow : BitVec 1) (b a d : Reg) (p0 p1 p2 p3 : W32)
  /-- CPY_CIM (R188): Enqueue a tile copy into CIM banks. -/
  | cpyCim (follow : BitVec 1) (b a d : Reg) (p0 p1 p2 p3 : W32)
  /-- EWAIT (R190): Wait for an engine entry to end and report its fault. -/
  | ewait (a : Reg) (d : Reg)
  /-- EFENCE (R190): Order the named engine queues and access sources. -/
  | efence (m : BitVec 5)
  /-- ECANCEL (R190): Cancel an engine entry and the slot's later entries. -/
  | ecancel (a : Reg) (d : Reg)
  /-- REED_ARR (R249): Arrive at a group's reed. -/
  | reedArr (a : Reg) (d : Reg)
  /-- REED_WAIT (R249): Wait for a reed phase to complete. -/
  | reedWait (b : Reg) (a : Reg) (d : Reg)
  /-- REED_SYNC (R249): Arrive at a reed and wait for the phase. -/
  | reedSync (a : Reg) (d : Reg)
  /-- REED_QRY (R249): Read a word of a group entry. -/
  | reedQry (w : BitVec 2) (a : Reg) (d : Reg)
  /-- LDE (R255): Wait for full, load and empty a tagged word. -/
  | lde (s : BitVec 3) (a : Reg) (d : Reg)
  /-- LDF (R255): Wait for full and load a tagged word. -/
  | ldf (s : BitVec 3) (a : Reg) (d : Reg)
  /-- STF (R255): Wait for empty, store and fill a tagged word. -/
  | stf (s : BitVec 3) (b : Reg) (a : Reg)
  /-- STE (R255): Store a tagged word and empty it. -/
  | ste (s : BitVec 3) (b : Reg) (a : Reg)
  /-- TAGI (R255): Set a word's tag. -/
  | tagi (s : BitVec 3) (a : Reg) (v : BitVec 1)
  /-- TAGR (R255): Read a word's tag. -/
  | tagr (s : BitVec 3) (a : Reg) (d : Reg)
  /-- BBINIT (R261): Initialise a bobbin. -/
  | bbinit (b : Reg) (a : Reg) (d : Reg)
  /-- BBRES (R261): Reserve a free bobbin slot. -/
  | bbres (a : Reg) (d : Reg)
  /-- BBCOM (R261): Commit a reserved bobbin slot. -/
  | bbcom (b : Reg) (a : Reg) (d : Reg)
  /-- BBACQ (R261): Acquire a filled bobbin slot. -/
  | bbacq (a : Reg) (d : Reg)
  /-- BBREL (R261): Release an acquired bobbin slot. -/
  | bbrel (b : Reg) (a : Reg) (d : Reg)
  /-- BBQRY (R260): Read a bobbin's status word. -/
  | bbqry (a : Reg) (d : Reg)
  /-- MSND (R265): Send a word to a thread's inbox. -/
  | msnd (b : Reg) (a : Reg) (d : Reg)
  /-- MRCV (R265): Take the oldest inbox entry. -/
  | mrcv (d : Reg)
  /-- MPOLL (R265): Read the inbox entry count. -/
  | mpoll (d : Reg)
  /-- SKW (R288): Store a state as a pick of a skein. -/
  | skw (c : Reg) (b : Reg) (a : Reg) (d : Reg)
  /-- SKR (R288): Read a skein state at an instant into memory. -/
  | skr (c : Reg) (b : Reg) (a : Reg) (d : Reg)
  /-- SKRE (R288): Read one skein element at an instant into an f register. -/
  | skre (c : Reg) (b : Reg) (a : Reg) (d : Reg)
  /-- SKBIND (R290): Register a group with a skein as writer or reader. -/
  | skbind (b : Reg) (a : Reg) (d : Reg)
  /-- SKFLR (R290): Raise a reader registration's floor. -/
  | skflr (b : Reg) (a : Reg) (d : Reg)
  /-- SKQRY (R290): Query a skein. -/
  | skqry (n : BitVec 5) (a : Reg) (d : Reg)
  /-- SKUNB (R290): End a skein registration. -/
  | skunb (b : Reg) (a : Reg) (d : Reg)
  /-- SHTL (R386): Send a shuttle to a queue on a package. -/
  | shtl (r : BitVec 1) (n : BitVec 3) (a : Reg) (d : Reg)
  /-- MCST (R389): Multicast an 8-byte write into a publication. -/
  | mcst (b : Reg) (a : Reg) (d : Reg)
  /-- PUBV (R375): Bump a publication's version at its members. -/
  | pubv (b : Reg) (a : Reg) (d : Reg)
  /-- SUBV (R389): Read a subscription's version or state word. -/
  | subv (n : BitVec 5) (a : Reg) (d : Reg)
  /-- ARED (R389): Contribute to a group all-reduce and wait for the result. -/
  | ared (p : BitVec 3) (b : Reg) (a : Reg) (d : Reg)
  /-- SHTR (R389): Send a shuttle kernel's reply. -/
  | shtr (a : Reg) (d : Reg)
  /-- LREQ (R360): Request a memory lease. -/
  | lreq (a : Reg) (d : Reg)
  /-- LREL (R360): Release a lease, keeping or discarding it. -/
  | lrel (b : Reg) (a : Reg) (d : Reg)
  /-- LQRY (R360): Query a lease. -/
  | lqry (n : BitVec 5) (a : Reg) (d : Reg)
  /-- CSRR (R103): Read a CSR. -/
  | csrr (n : BitVec 12) (d : Reg)
  /-- CSRW (R103): Write a CSR, returning the old value. -/
  | csrw (n : BitVec 12) (a : Reg) (d : Reg)
  /-- CSRS (R103): Set bits of a CSR. -/
  | csrs (n : BitVec 12) (a : Reg) (d : Reg)
  /-- CSRC (R103): Clear bits of a CSR. -/
  | csrc (n : BitVec 12) (a : Reg) (d : Reg)
  /-- TRAP (R78): Software trap, or an escalation from slot 7. -/
  | trap (a : Reg)
  /-- ERET (R78): Return from a handler to the trapped slot. -/
  | eret
  /-- KILL (R78): Kill the trapped slot. -/
  | kill
  /-- YIELD (R78): Give up the next issue turn. -/
  | yield
  /-- SLEEP (R78): Wait for the wake flag or a timeout. -/
  | sleep (a : Reg) (d : Reg)
  /-- WAKE (R78): Set another thread's wake flag. -/
  | wake (a : Reg) (d : Reg)
  /-- KEXIT (R78): End the thread once its run, stores and engine entries are done. -/
  | kexit
  /-- TWIN (R81): Start a twin pair. -/
  | twin (d : Reg)
  /-- UNTWIN (R81): End a twin pair. -/
  | untwin (d : Reg)
  /-- FOLLOW (R81): Bind as a follower at this point. -/
  | follow (d : Reg)
  /-- DETACH (R81): Detach from a follower gang. -/
  | detach (d : Reg)
  /-- JOIN (R81): Rejoin a gang after detaching. -/
  | join (d : Reg)
  /-- CHK (R69): Check a checked-mode result. -/
  | chk (d : Reg)
  /-- NEST (R83): Prepare an iteration descriptor. -/
  | nest (a : Reg) (d : Reg)
  /-- ITER (R83): Take the next iteration index, claiming a chunk if needed, and branch. -/
  | iter (f : BitVec 14) (a : Reg)
  /-- RDCYC (R107): Read CYC. -/
  | rdcyc (d : Reg)
  /-- RDTIM (R107): Read TIM. -/
  | rdtim (d : Reg)
  /-- RDSTEP (R107): Read a word of the frequency-step log. -/
  | rdstep (n : BitVec 5) (a : Reg) (d : Reg)
  /-- LAUNCH (R318): Enqueue a launch record into a work queue. -/
  | launch (b : Reg) (a : Reg) (d : Reg)
  /-- TOKW (R320): Wait for a token to reach zero. -/
  | tokw (a : Reg) (d : Reg)
  /-- TOKS (R320): Signal or set a token. -/
  | toks (b : Reg) (a : Reg) (d : Reg)
  /-- TOKQ (R320): Read a token word. -/
  | tokq (a : Reg) (d : Reg)
  /-- TOKE (R320): Set a token's ERROR and cancel the kernels waiting on it. -/
  | toke (a : Reg) (d : Reg)
  /-- SEGR (R220): Read a word of a segment register. -/
  | segr (s : BitVec 3) (w : BitVec 2) (d : Reg)
  /-- SEGW (R220): Write a word of a segment register. -/
  | segw (s : BitVec 3) (w : BitVec 2) (a : Reg) (d : Reg)
  /-- SEGN (R220): Narrow a segment. -/
  | segn (s : BitVec 3) (b : Reg) (a : Reg) (d : Reg)
  /-- SPLK (R85): Take a scratchpad lock. -/
  | splk (b : Reg) (a : Reg) (d : Reg)
  /-- SPUL (R85): Release a scratchpad lock. -/
  | spul (a : Reg) (d : Reg)
  /-- PINV (R349): Drop translations of a range, optionally flushing copies. -/
  | pinv (b : Reg) (a : Reg) (d : Reg)
  /-- PPROBE (R349): Probe the translation of an address. -/
  | pprobe (a : Reg) (d : Reg)
  /-- MIGR (R340): Start live migration of a core's context. -/
  | migr (b : Reg) (a : Reg) (d : Reg)
  /-- CTXHALT (R340): Halt a partition's context, or query its status. -/
  | ctxhalt (b : Reg) (a : Reg) (d : Reg)
  /-- CTXSAVE (R340): Save a halted context to the shadow banks or a save area. -/
  | ctxsave (b : Reg) (a : Reg) (d : Reg)
  /-- CTXREST (R340): Resume or restore a context. -/
  | ctxrest (b : Reg) (a : Reg) (d : Reg)
  /-- NOT_AN_INSTRUCTION (R39): A fetched word that no mnemonic assigns, or that breaks a fixed field, scope, format or privilege check, traps ILLOP or PRIV precisely. -/
  | notAnInstruction (word : W32) (priv : Bool) (index : Nat)
  /-- FETCH_SEGMENT_FAULT (R24): An instruction fetch outside sg0's limit or rights traps SEGV with EPC at the fetched address. -/
  | fetchSegmentFault
  /-- PCIE_COMPLETION_TIMEOUT (R196): A host load whose PCIe completion does not return in time traps ACCESS with EVAL the address. -/
  | pcieCompletionTimeout (core slot : Nat)
  /-- RTBOUND_EXPIRY (R234): A peer whose link stays RETRAINING for RTBOUND after a system fence's hold began is counted as failed, and the hold may end. -/
  | rtboundExpiry (core slot : Nat) (pkg : BitVec 10)
  /-- ACKNOWLEDGEMENT_TIMEOUT (R370): A peer store or no-return atomic not acknowledged within 500 µs of acceptance has unknown fate, and its peer is failed for the waiting fence. -/
  | acknowledgementTimeout (core slot : Nat) (pkg : BitVec 10)
  /-- VERSION_BUMP_ARRIVAL (R375): A PUBV version message, or a RESYNC copy, arrives at a member, which sets VER and clears OPEN in one step, or takes the region and clears STALE. -/
  | versionBumpArrival (pkg : BitVec 10) (part : BitVec 4) (sub : Byte) (ver : W64) (resync : Bool) (data : List Host.Cell)
  /-- SWITCH_NO_PATH (R366): A switch reports that it has no path to a destination package, and the peer becomes FAILED for fences, multicast and all-reduce. -/
  | switchNoPath (pkg : BitVec 10) (lost : Bool)
  /-- TOKEN_REQUEST (R320): A TOKW, TOKS, TOKQ or TOKE request is performed at its token's die one at a time, waking TOKW waiters and making or cancelling waiting heads. -/
  | tokenRequest (core slot : Nat)
  /-- LAUNCH_RECORD_ARRIVAL (R318): A LAUNCH record arrives at its queue's queue unit and is accepted or refused as full, closed or of the wrong kind, and the reply is sent. -/
  | launchRecordArrival (core slot : Nat)
deriving DecidableEq, Repr

end Sys2Proof
end

