-- ==== Sys2Proof/Machine/State.lean ====
section
/-! DEFINITION. The state of one KV-1280 package as plain data: every register, array, table, queue and record the
spec names, and the model's own schedule and counters (log 1, 2, 3). Sparse tables read their stated default where
nothing is listed. -/

namespace Sys2Proof.Machine

/-- Why the machine stops for good. -/
inductive Fault where
  /-- raised by `step` after THERMTRIP when nothing is scheduled: the module draws no core power (R411); safe -/
  | powerOff
deriving DecidableEq, Repr

/-- Why the model answers no next state. -/
inductive Refusal where
  /-- raised by an arm of `exec` that has no meaning yet; safe -/
  | notModelled (mnemonic : String)
deriving DecidableEq, Repr

/-! ## Threads -/

/-- The states of a slot (R49). -/
inductive SlotState where
  | empty | ready | parked | dropped | trapped | paused | following
deriving DecidableEq, Repr

/-- A segment register (R194): ATTR holds KIND [10:8], T A X W R [4:0]. -/
structure Seg where
  base : W64
  lim : W64
  attr : BitVec 11
deriving DecidableEq, Repr

/-- The states of a stream (R141). -/
inductive StreamState where
  | off | active | done
deriving DecidableEq, Repr

/-- A prefetched pack, or the fault its prefetch met (R145): cause 0 none, 0xFF page fault. -/
structure Pack where
  idx : Nat
  data : W128
  cause : Byte
  addr : W64
deriving DecidableEq, Repr

/-- A stream (R139). -/
structure Stream where
  base : W64 := 0
  bound : Tab W32 := []
  stride : Tab W64 := []
  write : Bool := false
  levels : Nat := 0
  pos : Nat := 0
  state : StreamState := .off
  packs : List Pack := []
deriving DecidableEq, Repr

/-- A sequencer run (R149-R153): its words, repeat count and position, the entry in flight and its stall. -/
structure Run where
  words : List W32
  count : Nat
  entry : Nat
  iter : Nat
  /-- entries issued that have not completed: the die cycle at which each completes, and its word -/
  flight : List (Nat × W32)
  /-- the issued entry waits for the special-function unit -/
  sfu : Option W32
  /-- start of a stall: wait kind, object, deadline -/
  stall : Option (Byte × W64 × Option Nat)
  /-- the entry is held on a page fault -/
  held : Bool
  /-- what must end before the run's first entry (R190) -/
  after : List (Nat × W32) := []
deriving DecidableEq, Repr

/-- What a request answers its parked thread with. -/
structure Reply where
  g : List (Reg × W64)
  f : List (Reg × W128)
  /-- scope code of the acquire performed when the reply arrives -/
  acquire : Option (BitVec 3)
  /-- the instruction traps instead: cause and EVAL -/
  trap : Option (Byte × W64)
  /-- poisoned data was consumed (R199) -/
  kill : Bool
  /-- the instruction issues again from its start -/
  reissue : Bool
  /-- next pc, otherwise pc + 4 -/
  pc : Option W64
  /-- thread CSR values set with the reply: ITDSC, ITCUR, ITEND, SKST, MCSTAT by CSR number -/
  csr : List (Nat × W64)
  /-- ix registers set with the reply -/
  ix : List W64
  /-- bounds of the levels of a claimed chunk (R75) -/
  itN : Option (List Nat) := none
  /-- an all-reduce's result for the buffer at a scratchpad byte, where it could not be stored at once (R377) -/
  data : Option (Nat × List Byte) := none
deriving DecidableEq, Repr

/-- A blocking wait (R55, R57): the waiting instruction, its object and its bounds. -/
structure Wait where
  kind : Byte
  eval : W64
  /-- tick at which WLIM expires -/
  deadline : Option Nat
  /-- tick at which the remote access timeout expires -/
  remote : Option Nat
  /-- the waiting instruction -/
  instr : Instr
  /-- bytes of a load taken from the store queue at issue (R198): address and byte -/
  taken : Mem
  /-- the access waits for a table walk that a relock holds, and issues again after it (R18) -/
  walk : Bool := false
  /-- address of the waiting instruction, where its thread trapped for its run and goes on past it (R62, R152) -/
  at_ : Option W64 := none
  /-- the request has been received at its unit -/
  sent : Bool
  /-- a number the unit keeps for the request: a reed arrival's REPEAT flag, a queue position -/
  aux : Nat
  reply : Option Reply
deriving DecidableEq, Repr

/-- A message held for a trapped thread (R62) or a thread of a context that is not live (R329). -/
structure Deferred where
  /-- 0 a reply, 1 an inbox entry, 2 a pager wake, 3 a pager refusal with its EVAL in `word`, 4 an acknowledgement of a store
  with its address in `word` and its package in `tid`, 5 one that refuses, 6 a late trap with its EVAL in `word` and its cause in `tid` -/
  kind : Byte
  word : W64
  tid : W64
  reply : Option Reply
deriving DecidableEq, Repr

/-- A word forwarded to a follower (R71): its address, the word with its parameters, the predecessor's next pc. -/
structure Forwarded where
  pc : W64
  words : List W32
  next : W64
  /-- die cycle from which the follower may issue it -/
  ready : Nat
deriving DecidableEq, Repr

/-- A value of a twin's load-value queue (R67): the leader's register results of one instruction. -/
structure TwinValue where
  pc : W64
  g : List (Reg × W64)
  f : List (Reg × W128)
deriving DecidableEq, Repr

/-- A fault record of an engine (R171). -/
structure EngineFault where
  fser : W32
  fcause : Byte
  faddr : W64
  unreported : Bool
deriving DecidableEq, Repr

/-- A thread's stream of stores to one peer package (R370, R371). -/
structure PeerStream where
  epoch : BitVec 16
  count : W32
  /-- address at the package of each store not yet acknowledged, with the tick of its acceptance -/
  pending : List (W64 × Nat)
  failed : Bool
deriving DecidableEq, Repr

/-- A member's write of an MCST that is not acknowledged yet (R374): the MCST's number, its publication, the member, the
DVA written there and the tick it was sent. -/
structure McstPending where
  seq : Nat
  pub : Nat
  pkg : BitVec 10
  dva : W64
  tick : Nat
deriving DecidableEq, Repr

/-- Where a store in a store queue is to be performed (R196). -/
inductive Place where
  /-- scratchpad byte of a core -/
  | spad (core off : Nat)
  /-- an element seen through a window of the own scratchpad: window number, view offset and WSCB at issue -/
  | window (core win v : Nat) (wscb : BitVec 20)
  /-- a global access that has been translated: DVA, physical address, leaf word (R344) -/
  | global (dva pa : Nat) (leaf : W64)
  | peer (pkg dva : Nat)
  | host (addr : Nat)
  /-- the inbox of a thread of this package -/
  | inbox (key : Nat)
deriving DecidableEq, Repr

/-- What an entry of a store queue does when it is performed. -/
inductive StoreOp where
  | write
  /-- SNIB: high nibble or low nibble -/
  | nibble (hi : Bool)
  /-- a no-return atomic: the instruction that made it, and the epoch and count it releases to a peer -/
  | atomic (i : Instr) (release : Option (BitVec 16 × W32))
  /-- a store-release: scope code, and the count and epoch of a peer release -/
  | release (scope : BitVec 3) (epoch : BitVec 16) (count : W32)
  /-- a posted message to the thread the address names -/
  | message
  /-- a posted shuttle, and the epoch and count of its release -/
  | shuttle (sh : Shuttle) (release : Option (BitVec 16 × W32))
  /-- a multicast write: publication number, and the number of the thread's MCST -/
  | mcst (p seq : Nat)
deriving DecidableEq, Repr

/-- An entry of a core's store queue (R197), or of a twin leader's store comparator (R67). -/
structure StoreEntry where
  /-- the slot, plus 16 once its thread has been killed -/
  slot : Nat
  /-- the store belongs to a write stream's run -/
  stream : Option Nat
  part : BitVec 4
  place : Place
  addr : W64
  bytes : List Byte
  op : StoreOp
  /-- epoch of the store stream of a store to a peer (R371) -/
  epoch : BitVec 16
  /-- the request is on its way to the host, whose completion ends the entry (R207) -/
  sent : Bool := false
deriving DecidableEq, Repr

/-- A hardware thread: the contents of one slot (R48, R76, R137, R139, R155, R194, R264). -/
structure Thread where
  state : SlotState
  pc : W64
  g : Tab W64
  /-- registers whose check bits encode another value than their data, with that value (R69) -/
  bad : Tab W64
  /-- pending check: register and the recomputed result (R69) -/
  pend : Option (Reg × W64)
  f : Tab W128
  ix : Tab W64
  q : Tab (List W128)
  sg : Tab Seg
  /-- a kernel is bound to the slot -/
  bound : Bool
  kid : W64
  rank : Nat
  gm : Tab (BitVec 16)
  wlim : W64
  ckmiss : BitVec 8
  lkx : Bool
  pse : Bool
  wakef : Bool
  det : Bool
  twt : Bool
  twl : Bool
  ck : Bool
  itcur : W64
  itend : W64
  itdsc : W64
  fcsr : BitVec 16
  fqlo : W32
  fqhi : W32
  wscb : BitVec 20
  skst : W64
  shst : W64
  fenst : W64
  mcstat : W64
  streams : Tab Stream
  run : Option Run
  wait : Option Wait
  /-- die cycle at which the instruction in flight completes (R52) -/
  busy : Option Nat
  /-- the state a pause left (R54) -/
  prior : SlotState
  forfeit : Nat
  yielded : Bool
  /-- one issue is exempt from scratchpad locks: the lock's release served this waiter (R65) -/
  pass : Bool
  inbox : List (W64 × W64)
  deferred : List Deferred
  fcred : BitVec 8
  efault : Tab EngineFault
  lvq : List TwinValue
  cmp : List StoreEntry
  /-- instructions issued since the pair was formed (R68) -/
  twinAt : Nat
  fwd : List Forwarded
  fwdTick : Nat
  /-- reed phase this thread has arrived in, by group (R246), and the all-reduce phase it contributed to and has had no result
  of (R377) -/
  arrived : Tab W32
  aredIn : Tab W32
  rangeAt : Nat
  /-- an instruction is held in flight until its earlier stores are accepted (R54, R235) -/
  flight : Bool
  /-- the widest scope of the wakes that set WAKEF (R79) -/
  wakeSc : BitVec 3
  /-- bounds of the current chunk's levels, as its claim read them (R75) -/
  itN : List Nat
  /-- sequencer entries a trailer's leader took for it (R150, R154) -/
  seqRes : Nat
  peers : Tab PeerStream
  refusedStore : Bool
  /-- start tick of a system fence's hold, and RTBOUND then (R234, R402) -/
  fenceStart : Option (Nat × Nat)
  /-- cause a killed thread's kernel receives while its bank is scrubbed (R63) -/
  killed : Option Byte
  /-- number of the thread's last MCST, member writes not acknowledged, and failed members of the last MCST (R374) -/
  mcstSeq : Nat
  mcstOpen : List McstPending
  mcstFailed : List (BitVec 10)
  /-- what later entries of a source wait for since an EFENCE (R190): source 1 matrix, 2 copy, 3 run, 4 skein; each an entry's
  engine and serial, or engine 3 and the number of the run -/
  efence : Tab (List (Nat × W32))
  /-- MODEL: runs the thread has started, which number them for EFENCE -/
  runSer : W32
deriving DecidableEq, Repr

/-! ## Cores -/

/-- A trap waiting in a core's trap queue, or being served (R59, R64). -/
structure TrapRecord where
  slot : Nat
  epc : W64
  cause : Byte
  wkind : Byte
  eval : W64
  seq : Option (Nat × Nat)
  twin : Bool
deriving DecidableEq, Repr

/-- A scratchpad lock (R65): its range, its holder slot and the die cycle at which it was taken. -/
structure Lock where
  slot : Nat
  lo : Nat
  hi : Nat
  start : Nat
deriving DecidableEq, Repr

/-- A tile made resident in CIM banks (R172). -/
structure Tile where
  first : Nat
  fmt : BitVec 4
  sB : W32
deriving DecidableEq, Repr

/-- The states of an engine entry (R181). -/
inductive EntryState where
  | queued | parked | running | paused
deriving DecidableEq, Repr

/-- What an engine entry does (R168, R184, R185, R187). -/
inductive EntryKind where
  | job (ovr : Bool) (acc : Nat) (park : Bool) (p0 p1 p2 p3 : W32)
  | mldb (fmt : BitVec 4) (bank : Nat) (src : Nat) (sB : W32)
  | mzero (acc : Nat)
  | mrd (acc first n : Nat) (b16 clr : Bool) (dst : Nat)
  | copy (kind : BitVec 2) (follow : Bool) (src dst : W64) (spitch : Int) (rows rowb : Nat) (dpitch : Int)
deriving DecidableEq, Repr

/-- The table of a validated job, level by level (R175). -/
structure NestLevel where
  count : Nat
  astr : Int
  sstr : Int
  accstr : Int
  bankstr : Int
deriving DecidableEq, Repr

/-- A step in the matrix pipe: the accumulator row, first promotion of the row, both chains' products for each column,
and the array count at which it is promoted. -/
structure Promotion where
  row : Nat
  ovr : Bool
  vals : List W64
  ofl : Bool
  at_ : Nat
deriving DecidableEq, Repr

/-- An entry of an engine queue (R169, R181). -/
structure Entry where
  serial : W32
  /-- the issuing slot, plus 16 once its thread has been killed -/
  slot : Nat
  kind : EntryKind
  state : EntryState
  released : Bool
  cancelled : Bool
  /-- array count at which a job's next step issues or another matrix entry ends; what remains of it while paused; byte of the
  current row of a copy -/
  start : Nat
  nest : List NestLevel
  /-- next step of a job, next row of a copy -/
  next : Nat
  pipe : List Promotion
  rowsDone : List Nat
  /-- fault met: cause and address -/
  fault : Option (Byte × W64)
  /-- held at the head on a page -/
  page : Bool
  /-- bobbin slot reserved for the current row -/
  bobSlot : Option Nat
  /-- what must end first: engine (1 matrix, 2 copy) and serial, or engine 3 for the thread's run (R190) -/
  after : List (Nat × W32)
deriving DecidableEq, Repr

/-- An engine queue with its serials (R168, R336). -/
structure EngineQueue where
  entries : List Entry := []
  enq : W32 := 0
  ended : W32 := 0
  /-- 2^31 entries have been enqueued: a serial that is not outstanding has ended, however old it is (R170) -/
  lap : Bool := false
deriving DecidableEq, Repr

/-- The states of a bobbin slot (R258). -/
inductive BobState where
  | free | reserved | committed | filled | acquired | released | skipped
deriving DecidableEq, Repr

/-- A bobbin (R257). Holder 8 is the copy engine, 9 none. -/
structure Bobbin where
  init : Bool := false
  abn : Bool := false
  base : Nat := 0
  slotsz : Nat := 0
  nslot : Nat := 0
  slots : Tab (BobState × Nat) := []
  resi : Nat := 0
  fili : Nat := 0
  acqi : Nat := 0
  reli : Nat := 0
  free : Nat := 0
  filled : Nat := 0
  prodw : List Nat := []
  consw : List Nat := []
deriving DecidableEq, Repr

/-- What of a core moves with its context (R323), the slots and the scratchpad apart. -/
structure CoreArch where
  evec : W64
  lockmax : W32
  trapq : List TrapRecord
  /-- the invocation slot 7 serves -/
  serving : Option TrapRecord
  eslot : BitVec 3
  epc : W64
  ecause : W64
  eval : W64
  eseq : W64
  escalated : Bool
  locks : List Lock
  /-- waiters on scratchpad locks in arrival order: thread keys -/
  lockq : List Nat
  /-- locks released by LOCKMAX: slot and start (R85) -/
  lost : List (Nat × Nat)
  /-- ring points p0-p6 (R120) -/
  ring : List W32
  /-- a loaded table image (R122); none: the reset tables of R124 -/
  tables : Option (List (BitVec 16))
  mq : EngineQueue
  cq : EngineQueue
  umq : EngineQueue
  ucq : EngineQueue
  /-- CIM arrays and scale stores: bank·8192 + byte, bank·256 + byte -/
  cim : Mem
  cimScale : Mem
  tiles : Tab Tile
  /-- accumulator pairs {odd, even} at acc·16384 + row·128 + column -/
  acc : Tab W64
  accNan : BitVec 4
  accOfl : BitVec 4
  accPoison : List Nat
  cimPoison : List Nat
  bobbins : Tab Bobbin
deriving DecidableEq, Repr

/-- A core's context held in a shadow bank or save area (R323, R330). -/
structure Saved where
  part : BitVec 4
  arch : CoreArch
  hevecPend : Option W64
  tagWait : List Nat
  threads : Tab Thread
  spad : Mem
  full : List Nat
  poison : List Nat
deriving DecidableEq, Repr

/-- A save area in use: base DVA, length, the core of its issuer, TIM at the start (R331). -/
structure SaveArea where
  base : Nat
  len : Nat
  core : Nat
  stim : Nat
  /-- number of the first of the free values that its records hold (R331, log 6) -/
  free : Nat := 0
deriving DecidableEq, Repr

/-- MODEL: what the records of a completed save area hold, under the header's digest (R331): the layout of a record is the
device's own. -/
structure SaveImage where
  digest : BitVec 256
  cores : Tab Saved
deriving DecidableEq, Repr

/-- A forwarding entry of a vacated core (R338). -/
structure ForwardEntry where
  dest : Nat
  kids : List W64
deriving DecidableEq, Repr

/-- A core (R47-R76, R168, R196-R208); cores 1280 to 1283 are the service cores of dies 0 to 3 (R10). -/
structure Core where
  arch : CoreArch
  /-- an HEVEC value waiting for the end of the invocation (R60) -/
  hevecPend : Option W64
  /-- the slot that issued last (R51) -/
  last : Nat
  /-- MODEL (log 3): the last core cycle used for an issue, and the last rotation in which a rank was bound -/
  issuedAt : Option Nat
  boundAt : Option Nat
  /-- MODEL (log 3): the last core cycle in which the stream pipe took an operation, and the slot whose run's entry it took last
  (R136, R149) -/
  pipeAt : Option Nat
  seqLast : Nat
  storeq : List StoreEntry
  /-- waiting tag operations in arrival order: thread keys (R252) -/
  tagWait : List Nat
  /-- L1 data lines and constant cache lines by line key (R196, R208) -/
  l1 : Tab (BitVec 512)
  cc : Tab (BitVec 512)
  /-- L1 instruction lines (R11, R25) -/
  l1i : Tab (BitVec 512)
  shadow : Option Saved
  forwards : List ForwardEntry
  /-- destination of a migration in progress (R337) -/
  migrating : Option Nat
  l2die : BitVec 16
  l2slice : BitVec 16
  vict : Bool
  asg : Bool
  part : BitVec 4
  /-- Treadle has been told that a kernel wants this victim core (R352) -/
  told : Bool
deriving DecidableEq, Repr

/-! ## Clusters and memory -/

/-- A staging copy of a line (R200): byte 0 in bits [7:0]; `cls` the page's class code. -/
structure Staged where
  /-- physical address of the line at home -/
  pa : Nat
  data : BitVec 512
  valid : W64
  dirty : W64
  cls : BitVec 3
  poison : BitVec 4
  /-- the line's home core (R200, R345) -/
  home : Nat
deriving DecidableEq, Repr

/-- A leaf in a translation cache: the entry word, its page size in bytes and its own physical address (R342, R344). -/
structure Leaf where
  word : W64
  size : Nat
  entry : Nat
deriving DecidableEq, Repr

/-- A request in the special-function queue (R165): the requester, number, operation, result place. -/
structure SfuRequest where
  core : Nat
  slot : Nat
  /-- none while the request waits for room in the queue -/
  number : Option W32
  /-- 0 integer stream, 1 sequencer run -/
  seq : Bool
  instr : Instr
  pack : W128
  fcsr : BitVec 16
  /-- die cycle at which the accepted request's result is ready -/
  ready : Option Nat
deriving DecidableEq, Repr

/-- A write-back on its way from a cluster to the home of its line (R200). -/
structure WriteBack where
  key : Nat
  copy : Staged
deriving DecidableEq, Repr

/-- A cluster: staging copies, translation cache, special-function unit, normaliser (R9, R200, R342). -/
structure Cluster where
  staging : Tab Staged
  tlb : Tab Leaf
  sfuq : List SfuRequest
  sfuCount : W32
  /-- requests at the normaliser: die cycle of the request and thread key; and the first core cycle at which it is free (R127) -/
  normq : List (Nat × Nat)
  normAt : Nat
  wb : List WriteBack
deriving DecidableEq, Repr

/-- Device memory and scratchpads (R11, R13): values at home, poison by 16-byte chunk, tags by 8-byte word, and the
cores each line's home records (R201). -/
structure Memory where
  /-- LPDDR by physical address -/
  ram : Mem
  ramPoison : List Nat
  /-- scratchpads at core·2^20 + byte -/
  spad : Mem
  spadPoison : List Nat
  full : List Nat
  /-- recorded releasing cores of a line, oldest first, by physical line number (R201) -/
  records : Tab (List Nat)
  /-- the 48 MiB of each die's SRAM stack that no core has, at die·2^26 + byte: firmware code and data, the dump buffer (R12) -/
  stack : Mem
deriving DecidableEq, Repr

/-! ## Partitions -/

/-- A reed group (R242). -/
structure Group where
  state : BitVec 2 := 0
  scope : BitVec 3 := 0
  hcore : BitVec 11 := 0
  exp : BitVec 16 := 0
  joined : BitVec 16 := 0
  done : BitVec 16 := 0
  phase : W32 := 0
  arrived : BitVec 16 := 0
  hpkg : BitVec 10 := 0
  wv : Bool := false
  wskein : BitVec 16 := 0
  winst : W64 := 0
  /-- the wait record is a retention wait, and the thread that set it -/
  wret : Bool := false
  wthread : Nat := 0
  /-- clusters whose member arrived in this phase, each times 8 plus the scope of the arrival (R244) -/
  narrow : List Nat := []
  /-- members the dispatched launches supply (R243) -/
  promised : Nat := 0
  /-- members on other packages that have arrived in this phase, and their threads parked on the reed: thread, phase, REPEAT flag -/
  peerIn : List W64 := []
  peerWaits : List (W64 × W32 × Bool) := []
  aphase : W32 := 0
  contribs : List (Nat × AredContrib) := []
  /-- result of the last all-reduce phase: its status bits and, where it succeeded, its bytes (R378) -/
  alast : W64 × List Byte := (0, [])
deriving DecidableEq, Repr

/-- A token (R312). -/
structure Token where
  err : Bool := false
  count : W32 := 0
deriving DecidableEq, Repr

/-- The weft engine's copy of a skein descriptor (R272, R273). -/
structure SkeinDesc where
  fmt : Nat
  p : Nat
  deg : Nat
  count : Nat
  h : Nat
  f : Nat
  hcore : Nat
  base : Nat
deriving DecidableEq, Repr

/-- A skein at its weft engine (R275-R284). -/
structure Skein where
  desc : Option SkeinDesc := none
  wgrp : Option (BitVec 16) := none
  /-- reader registrations: group and floor -/
  rgrp : List (BitVec 16 × Nat) := []
  /-- retained picks, oldest first: instant and storage slot -/
  picks : List (Nat × Nat) := []
  /-- parked requests in arrival order: thread keys -/
  parked : List Nat := []
  /-- threads whose read is marked bound-reached (R283) -/
  marks : List Nat := []
  /-- threads whose parked read has passed step 6 (R279) -/
  past6 : List Nat := []
  /-- requests that have arrived and are not taken yet, in order (R278): thread keys -/
  queue : List Nat := []
  /-- reads that are to be served and wait for a page, a lock or a lender's bytes; true for one served as CX (R283) -/
  serving : List (Nat × Bool) := []
deriving DecidableEq, Repr

/-- A subscription entry (R373). -/
structure Subscription where
  isOpen : Bool := false
  stale : Bool := false
  ver : BitVec 62 := 0
  live : Bool := false
  pnum : Byte := 0
  ppkg : BitVec 10 := 0
deriving DecidableEq, Repr

/-- A lease entry (R356, R361). -/
structure Lease where
  state : BitVec 3 := 0
  den : Bool := false
  lost : Bool := false
  lpkg : BitVec 10 := 0
  ngran : Nat := 0
  ngrant : BitVec 12 := 0
  ncopy : BitVec 12 := 0
  dva : Nat := 0
  term : W64 := 0
  termEnd : Nat := 0
  tEvict : Nat := 250
  deadline : Nat := 0
  /-- tick at which the reclaim began (R19) -/
  since : Nat := 0
  tok : BitVec 16 := 0xFFFF
  frames : List Nat := []
  accessed : List Nat := []
  copied : List Nat := []
deriving DecidableEq, Repr

/-- The states of a context (R325). -/
inductive CtxState where
  | absent | resident | halting | halted | shadowed | spilling | spilled | restoring | degraded | failed
deriving DecidableEq, Repr

/-- A partition: its context, tables and registers (R323-R327, R403). -/
structure Partition where
  ctx : CtxState := .absent
  /-- the state a halt left, and the state a spill began from -/
  prior : CtxState := .absent
  spillFrom : CtxState := .halted
  busy : Bool := false
  psm : Bool := false
  spw : Bool := false
  killed : BitVec 16 := 0
  soff : BitVec 24 := 0
  /-- save area of a spill or restore -/
  area : Option SaveArea := none
  /-- digest of the header of the area that holds the context (R331) -/
  savedDigest : BitVec 256 := 0
  /-- the partition whose context a swap exchanges -/
  exchange : Option (BitVec 4) := none
  /-- tick at which the context stopped being RESIDENT or DEGRADED, and CYC of each die then (R329) -/
  frozenAt : Option Nat := none
  frozenCyc : List Nat := []
  /-- per-die reply buffers: thread key and message (R329) -/
  replies : List (Nat × Deferred) := []
  overflow : List Nat := []
  proot : W64 := 0
  hmask : Tab W64 := []
  codeb : W64 := 0
  codel : W64 := 0
  skt : W64 := 0
  pubt : W64 := 0
  htb : W64 := 0
  hevec : W64 := 0
  groups : Tab Group := []
  tokens : Tab Token := []
  skeins : Tab Skein := []
  subs : Tab Subscription := []
  /-- STALE bits at the publisher: publication, then members (R372) -/
  pubStale : Tab (List (BitVec 10)) := []
  leases : Tab Lease := []
  /-- groups whose set wait record awaits its walk, in order (R283) -/
  walks : List Nat := []
deriving DecidableEq, Repr

/-! ## Work queues and kernels -/

/-- The states of a work queue (R296). -/
inductive QueueState where
  | closed | opened | frozen | draining
deriving DecidableEq, Repr

/-- The states of a kernel (R304). -/
inductive KernelState where
  | queued | waiting | dispatching | running | releasing | done | faulted | cancelled
deriving DecidableEq, Repr

/-- A group a launch names: number, kind, EXP of a prepare, listed ranks (R302). -/
structure GroupUse where
  num : Nat
  kind : Nat
  exp : Nat
  ranks : List Nat
deriving DecidableEq, Repr

/-- A kernel (R301-R311, R382). -/
structure Kernel where
  serial : W32
  /-- the 64-byte record; for a shuttle, zero -/
  record : BitVec 512
  shuttle : Option Shuttle
  /-- the 32-byte handler entry copied with a shuttle (R379) -/
  handler : BitVec 256
  state : KernelState
  error : Bool
  cause : Byte
  /-- validated placement: explicit cores and slots by rank; dies allowed -/
  places : List (Nat × Nat)
  pmask : BitVec 4
  groups : List GroupUse
  /-- next rank to bind, and ended threads -/
  nextRank : Nat
  ended : Nat
  /-- tick of entry into DISPATCHING, or of the last thaw, and ticks already counted -/
  wdStart : Nat
  wdRun : Nat
  replied : Bool
  /-- clusters that held a thread of the kernel (R311), and TID of rank 0 -/
  clusters : List Nat
  tid0 : W64
  /-- a store of the kernel was refused, a peer failed (R311) -/
  refused : Bool
  /-- stores of ended threads to peers, not acknowledged: thread key, package, address there, tick of acceptance -/
  unacked : List (Nat × BitVec 10 × W64 × Nat)
  /-- validation has passed (R306); it may be held on a page -/
  valid : Bool
  /-- tick at which the release at the end began to wait for peers, and RTBOUND then (R311) -/
  holdAt : Option (Nat × Nat)
  /-- the slot of the spill ring that holds the record (R300) -/
  ring : Option Nat := none
deriving DecidableEq, Repr

/-- A work queue (R296-R300, R313). -/
structure WorkQueue where
  irq : Bool := false
  vec : Byte := 0
  part : BitVec 4 := 0
  shuttle : Bool := false
  spill : Bool := false
  weight : Byte := 1
  prio : BitVec 3 := 0
  qdep : BitVec 6 := 63
  splen : BitVec 16 := 0
  spbase : BitVec 47 := 0
  state : QueueState := .closed
  prior : QueueState := .closed
  serial : W32 := 0
  qdone : W32 := 0
  ovf : BitVec 16 := 0
  badw : BitVec 16 := 0
  eser : W32 := 0
  ecause : Byte := 0
  pass : W64 := 0
  eligible : Bool := false
  /-- priority and weight in force since the last dispatch decision (R298) -/
  prioNow : BitVec 3 := 0
  weightNow : Byte := 1
  /-- the spill ring's next slot (R300) -/
  ringNext : Nat := 0
  kernels : List Kernel := []
deriving DecidableEq, Repr

/-! ## Dies, firmware, host and links -/

/-- An event record (R400), as its four 64-bit words. -/
structure EventRecord where
  w0 : W64
  stim : W64
  data0 : W64
  data1 : W64
deriving DecidableEq, Repr

/-- What waits on a page fault (R348). -/
inductive Joined where
  | thread (core slot : Nat) (eval : W64)
  | engine (core : Nat) (copy urgent : Bool)
  | run (core slot : Nat) (eval : W64)
  | stream (core slot stream : Nat)
  | weft (core slot : Nat) (eval : W64)
  | dispatch (q : Nat) (serial : W32)
  | spill (part : Nat)
  /-- requests of packages that this package holds for a page (R368) -/
  | peer
deriving DecidableEq, Repr

/-- A pager record (R348) with the accesses that joined it. -/
structure PagerRecord where
  rid : W32
  clu : Nat
  part : BitVec 4
  dva : Nat
  kind : BitVec 2
  acc : BitVec 4
  src : BitVec 5
  joined : List Joined
  /-- still in the ring, not yet read through PGPOP -/
  listed : Bool
deriving DecidableEq, Repr

/-- A die: its clock (R15-R21), event and pager rings (R400, R348), RAS registers (R403). -/
structure Die where
  cyc : Nat
  /-- fraction of a core cycle, in 20ths of 3·M per tick (log 3) -/
  frac : Nat
  /-- CYC at the last reset or relock, from which rotation boundaries are counted (R51) -/
  rotBase : Nat
  mcur : BitVec 4
  mreq : BitVec 4
  /-- relock in progress: new multiplier and start tick -/
  relock : Option (BitVec 4 × Nat)
  /-- a request by CLKCTL and a step of the power limiter that wait for the relock's end (R20) -/
  held : Option (BitVec 4)
  heldLim : Option (BitVec 4)
  stepn : W64
  /-- step log words by position (R21) -/
  log : Tab (W64 × W64 × W64)
  events : List EventRecord
  evRead : Nat
  evovf : BitVec 16
  pagers : List PagerRecord
  pgRead : Nat
  nextRid : W32
  scrub : Bool
  dected : Bool
  midx : BitVec 16
  pinvp : BitVec 4
  raskts : Tab W64
deriving DecidableEq, Repr

/-- A port of the fabric (R364). -/
inductive PortState where
  | down | training | up | retraining | failed | fenced
deriving DecidableEq, Repr

/-- A message the package has sent outside: to a peer, the host or the board controller. -/
inductive OutMsg where
  /-- a request or posted operation of a thread (R367, R370, R196) -/
  | request (pkg : BitVec 10) (part : BitVec 4) (tid : W64) (req : PeerReq)
  /-- a load, atomic or CAS of a host address over PCIe (R196, R206): addresses are the host's -/
  | hostRequest (tid : W64) (op : PeerOp)
  | message (pkg : BitVec 10) (part : BitVec 4) (target word tid : W64) (epoch : Option (BitVec 16))
  /-- a reply to a request: 0 data, 1 poison, 2 refused, 3 acknowledged, 5 status; the request's address -/
  | reply (pkg : BitVec 10) (tid : W64) (kind : Nat) (addr : W64) (bytes : List Byte)
  | shuttle (pkg : BitVec 10) (part : BitVec 4) (sh : Shuttle) (release : Option (BitVec 16 × W32))
  | shuttleReply (pkg : BitVec 10) (part : BitVec 4) (kid tid w1 w2 : W64) (rtok : BitVec 16)
  | shuttleStatus (pkg : BitVec 10) (tid desc : W64) (status : BitVec 4)
  | mcst (pkg : BitVec 10) (part : BitVec 4) (tid : W64) (sub : Byte) (dva : Nat) (v : W64)
  | bump (pkg : BitVec 10) (part : BitVec 4) (sub : Byte) (ver : W64) (resync : Bool) (data : Mem)
  | stale (pkg : BitVec 10) (part : BitVec 4) (sub : Byte)
  | ared (part : BitVec 4) (g : Nat) (thread : Nat) (c : AredContrib)
  | reed (pkg : BitVec 10) (part : BitVec 4) (g : Nat) (tid : W64) (op : ReedOp)
  | leaseRequest (part : BitVec 4) (n : Nat) (pkg : BitVec 10) (ngran : Nat) (term : W64)
  | leaseAck (part : BitVec 4) (n : Nat)
  /-- host side: posted write, read, AtomicOp, MSI-X, ATS requests and completions, read data -/
  | hostWrite (part : BitVec 4) (addr : Nat) (bytes : List Byte)
  | hostRead (fn : Nat) (v : W64)
  | hostUnsupported (fn : Nat)
  | atsRequest (page : Nat)
  | priRequest (page : Nat)
  | atsComplete (page count : Nat)
  | msix (fn : Nat) (vec : Byte)
  | quote (bytes : List Byte)
  /-- a dump at a host address (R410) -/
  | dump (addr : W64) (bytes : List Byte)
  | smbus (words : List Nat)
  /-- a step's word read by firmware through EVPOP or PGPOP -/
  | popped (die : BitVec 2) (w : W64)
deriving DecidableEq, Repr

/-- A request of a peer that this package holds: a counted release waiting for its stores (R371), or an access waiting
for this package's pager (R368), with the tick of its arrival. -/
structure PeerWait where
  pkg : BitVec 10
  part : BitVec 4
  tid : W64
  req : PeerReq
  tick : Nat
deriving DecidableEq, Repr

/-- A shuttle reply held for a sender whose inbox is full (R384). -/
structure HeldReply where
  part : BitVec 4
  kid : W64
  tid : W64
  w1 : W64
  w2 : W64
  rtok : BitVec 16
  tick : Nat
deriving DecidableEq, Repr

/-- Stores of one sender's epoch performed here (R371). -/
structure EpochCount where
  pkg : BitVec 10
  tid : W64
  epoch : BitVec 16
  count : Nat
deriving DecidableEq, Repr

/-- The ports in use of a package's route before a change, and the tick of that change: packets sent under it may be under way (R365). -/
structure Remap where
  pkg : BitVec 10
  tick : Nat
  ports : List Nat
deriving DecidableEq, Repr

/-- The links (R363-R371). -/
structure Links where
  ports : Tab PortState
  /-- route table: ports of each destination package (R365) -/
  route : Tab (BitVec 16)
  /-- packages a switch reports no path to (R366) -/
  noPath : List (BitVec 10)
  rtbound : BitVec 11
  /-- tick at which a port entered TRAINING or RETRAINING -/
  since : Tab Nat
  /-- counted releases held here (R371) -/
  held : List PeerWait
  performed : List EpochCount
  /-- peer requests waiting for this package's pager (R368) -/
  waiting : List PeerWait
  /-- shuttle replies held for a full inbox (R384) -/
  replies : List HeldReply
  /-- packets of this package to itself, which never leave it (R365), oldest first -/
  loop : List OutMsg
  /-- earlier sets of ports of a route whose packets may not all have been acknowledged (R365) -/
  remaps : List Remap := []
deriving DecidableEq, Repr

/-- The host port (R354, R404-R406, R421). -/
structure HostPort where
  wbase : Tab W64
  wpart : BitVec 4
  mailIn : List W64
  mailOut : List W64
  atsOn : Bool
  ats : List Nat
  /-- threads and entries dropped on an ATS miss: page and access (R354) -/
  atsWait : List (Nat × Joined)
  /-- pages for which a PRI Page Request is out (R354) -/
  pri : List Nat := []
deriving DecidableEq, Repr

/-- Package-wide registers and conditions. -/
structure Package where
  tim : Nat
  timLoaded : Bool
  pkg : BitVec 10
  array : Nat
  arrayFrac : Nat
  /-- MODEL (log 3): the last rotation of die 0 in which the arbiter decided -/
  dispatchedAt : Option Nat
  powerLimit : Nat
  alert : Bool
  thermtrip : Bool
  fatal : Option Byte
  /-- tick at which a dump was called for and not yet written (R410) -/
  dumpDue : Option Nat
  stage : Byte
  meas : BitVec 256
  dumpb : W64
  dumpl : W64
deriving DecidableEq, Repr

/-- Who moves at a step (log 2): a core issues, an event comes about, or a tick passes. -/
inductive Turn where
  | issue (core : Nat)
  | event (i : Instr)
  | tick
deriving DecidableEq, Repr

/-- The whole package. -/
structure State where
  pk : Package
  dies : Tab Die
  /-- threads at key core·8 + slot -/
  threads : Tab Thread
  cores : Tab Core
  clusters : Tab Cluster
  mem : Memory
  parts : Tab Partition
  queues : Tab WorkQueue
  links : Links
  host : HostPort
  images : List SaveImage
  out : List OutMsg
  /-- MODEL (log 2): turns that the environment has decided, and the core that issued last -/
  schedule : List Turn
  lastCore : Nat
  /-- MODEL (log 2): the thread an instruction acts for: key core·8 + slot -/
  cur : Nat
  /-- MODEL (log 6): counter of the free values used -/
  fresh : Nat
deriving DecidableEq, Repr

/-! ## Reset values (R3, R21, R49, R76, R120, R137, R297, R403; log 4 where the spec gives none) -/

/-- A segment of KIND NONE (R195). -/
def Seg.none : Seg := { base := 0, lim := 0, attr := 0x600 }

/-- A slot's thread after reset: EMPTY, every register zero (log 4), FCSR and format CSRs at their reset values. -/
def Thread.reset : Thread :=
  { state := .empty, pc := 0, g := [], bad := [], pend := none, f := [], ix := [], q := [], sg := [], bound := false,
    kid := 0, rank := 0, gm := [], wlim := 0, ckmiss := 0, lkx := false, pse := false, wakef := false, det := false,
    twt := false, twl := false, ck := false, itcur := 0, itend := 0, itdsc := 0, fcsr := 0, fqlo := 0x80000000,
    fqhi := 0x7FFFFFFF, wscb := 0, skst := 0, shst := 0, fenst := 0, mcstat := 0, streams := [], run := none,
    wait := none, busy := none, prior := .ready, forfeit := 0, yielded := false, pass := false, inbox := [],
    deferred := [], fcred := 0, efault := [], lvq := [], cmp := [], twinAt := 0, fwd := [], fwdTick := 0, arrived := [],
    aredIn := [], rangeAt := 0, flight := false, wakeSc := 0, itN := [], seqRes := 0, peers := [], refusedStore := false, fenceStart := none, killed := none,
    mcstSeq := 0, mcstOpen := [], mcstFailed := [], efence := [], runSer := 0 }

/-- The thread of a slot that no table entry lists: slot 7 is PARKED on its trap queue (R59), the others EMPTY. -/
def Thread.default (key : Nat) : Thread :=
  if key % 8 = 7 then { Thread.reset with state := .parked } else Thread.reset

/-- The core engine and trap state after reset (R168, R121, R122, R257). -/
def CoreArch.reset : CoreArch :=
  { evec := 0, lockmax := 65536, trapq := [], serving := none, eslot := 0, epc := 0, ecause := 0, eval := 0, eseq := 0,
    escalated := false, locks := [], lockq := [], lost := [],
    ring := [0xC0000000, 0xBF800000, 0xBF000000, 0x00000000, 0x3F000000, 0x3F800000, 0x40000000],
    tables := none, mq := {}, cq := {}, umq := {}, ucq := {}, cim := [], cimScale := [], tiles := [], acc := [],
    accNan := 0, accOfl := 0, accPoison := [], cimPoison := [], bobbins := [] }

/-- A core after reset. -/
def Core.reset : Core :=
  { arch := CoreArch.reset, hevecPend := none, last := 7, issuedAt := none, boundAt := none, pipeAt := none, seqLast := 7, storeq := [], tagWait := [], l1 := [], cc := [], l1i := [],
    shadow := none, forwards := [], migrating := none, l2die := 0x100, l2slice := 0x100, vict := false, asg := false,
    part := 0, told := false }

/-- A cluster after reset. -/
def Cluster.reset : Cluster := { staging := [], tlb := [], sfuq := [], sfuCount := 0, normq := [], normAt := 0, wb := [] }

/-- A die after reset: multiplier 4 (R15), the scrubber enabled (R403). -/
def Die.reset : Die :=
  { cyc := 0, frac := 0, rotBase := 0, mcur := 4, mreq := 4, relock := none, held := none, heldLim := none, stepn := 0, log := [],
    events := [], evRead := 0, evovf := 0, pagers := [], pgRead := 0, nextRid := 0, scrub := true, dected := false,
    midx := 0, pinvp := 0, raskts := [] }

/-- The package right after reset: nothing listed in memory, no thread bound, every queue CLOSED, every port DOWN. -/
def State.reset : State :=
  { pk := { tim := 0, timLoaded := false, pkg := 0, array := 0, arrayFrac := 0, dispatchedAt := none, powerLimit := 1600, alert := false,
            thermtrip := false, fatal := none, dumpDue := none, stage := 0, meas := 0, dumpb := 0, dumpl := 0 },
    dies := [], threads := [], cores := [], clusters := [],
    mem := { ram := [], ramPoison := [], spad := [], spadPoison := [], full := [], records := [], stack := [] },
    parts := [], queues := [],
    links := { ports := [], route := [], noPath := [], rtbound := 200, since := [], held := [], performed := [],
               waiting := [], replies := [], loop := [] },
    host := { wbase := [], wpart := 0, mailIn := [], mailOut := [], atsOn := false, ats := [], atsWait := [] },
    images := [], out := [], schedule := [], lastCore := 1283, cur := 0, fresh := 0 }

end Sys2Proof.Machine
end

