-- ==== Sys2Proof/Machine/Tab.lean ====
section
/-! DEFINITION. Operations on the sparse tables: lookup and update keep the keys strictly rising; a memory lists no
zero byte, because an unlisted byte reads zero (log 5). Sets of numbers are strictly rising lists. -/

namespace Sys2Proof.Machine

variable {α : Type}

/-- The entry of a key, if listed. -/
def tfind : Tab α → Nat → Option α
  | [], _ => none
  | (k, v) :: r, a => if k = a then some v else tfind r a

/-- The value of a key, with the value of an unlisted one. -/
def tget (d : α) (t : Tab α) (a : Nat) : α := (tfind t a).getD d

/-- Set the value of a key. -/
def tput : Tab α → Nat → α → Tab α
  | [], a, v => [(a, v)]
  | (k, w) :: r, a, v => if a < k then (a, v) :: (k, w) :: r else if k = a then (a, v) :: r else (k, w) :: tput r a v

/-- Unlist a key. -/
def tdel : Tab α → Nat → Tab α
  | [], _ => []
  | (k, w) :: r, a => if k = a then tdel r a else (k, w) :: tdel r a

/-- A byte of memory; an unlisted byte reads zero (log 5). -/
def mread (m : Mem) (a : Nat) : Byte := tget 0 m a

/-- Write a byte of memory, keeping the canonical form. -/
def mwrite (m : Mem) (a : Nat) (b : Byte) : Mem := if b = 0 then tdel m a else tput m a b

/-- The `n` bytes from address `a`. -/
def mreadN (m : Mem) : Nat → Nat → List Byte
  | _, 0 => []
  | a, n + 1 => mread m a :: mreadN m (a + 1) n

/-- Write bytes from address `a` up. -/
def mwriteN (m : Mem) : Nat → List Byte → Mem
  | _, [] => m
  | a, b :: bs => mwriteN (mwrite m a b) (a + 1) bs

/-- Keys strictly rising, all above a bound. -/
def risingFrom : Option Nat → List (Nat × α) → Bool
  | _, [] => true
  | none, (k, _) :: r => risingFrom (some k) r
  | some b, (k, _) :: r => decide (b < k) && risingFrom (some k) r

/-- The canonical form of a memory: addresses strictly rising and no listed zero. -/
def memWf (m : Mem) : Bool := risingFrom none m && m.all (fun c => c.2 != 0)

/-- Membership in a set of numbers. -/
def shas (l : List Nat) (a : Nat) : Bool := l.contains a

/-- Add a number to a strictly rising list. -/
def sadd : List Nat → Nat → List Nat
  | [], a => [a]
  | k :: r, a => if a < k then a :: k :: r else if a = k then k :: r else k :: sadd r a

/-- Remove a number. -/
def sdel (l : List Nat) (a : Nat) : List Nat := l.filter (· != a)

/-- The little-endian number of a list of bytes (R1). -/
def natOfBytes : List Byte → Nat
  | [] => 0
  | b :: bs => b.toNat + 256 * natOfBytes bs

/-- The low `n` bytes of a number, little-endian (R1). -/
def bytesOfNat : Nat → Nat → List Byte
  | 0, _ => []
  | n + 1, v => BitVec.ofNat 8 v :: bytesOfNat n (v / 256)

/-- A signed reading of the low `n` bits. -/
def signedOf (n v : Nat) : Int := if v % 2 ^ n < 2 ^ (n - 1) then (v % 2 ^ n : Int) else (v % 2 ^ n : Int) - 2 ^ n

/-- Bits [lo+n-1:lo] of a number. -/
def bitsOf (v lo n : Nat) : Nat := v / 2 ^ lo % 2 ^ n

/-- Replace the first element for which `p` holds. -/
def replaceFirst (p : α → Bool) (f : α → α) : List α → List α
  | [] => []
  | x :: r => if p x then f x :: r else x :: replaceFirst p f r

/-- Remove the element at a position. -/
def removeAt : List α → Nat → List α
  | [], _ => []
  | _ :: r, 0 => r
  | x :: r, n + 1 => x :: removeAt r n

/-- Fold a function over 0 … n-1. -/
def upTo {β : Type} (n : Nat) (f : β → Nat → β) (b : β) : β := (List.range n).foldl f b

end Sys2Proof.Machine
end

