-- ==== Sys2Proof/Machine/Ops.lean ====
section
/-! DEFINITION. The named operations every meaning is made of: numbering of cores, slots and dies (R4, R47), reads and
writes of registers (R88), the end of an instruction (R52), pauses (R54, R328), waits (R55), TAKING A TRAP as one
operation (R58-R61, R64) and the return from one beside it (R61, R78), and event records (R400). -/

namespace Sys2Proof.Machine

noncomputable section

/-- The outcome of a meaning. -/
abbrev Out := Host.Outcome State Fault Refusal

/-- Cause codes (R64). -/
abbrev ILLOP : Byte := 0x01
abbrev PRIV : Byte := 0x02
abbrev SEGV : Byte := 0x03
abbrev ALIGN : Byte := 0x04
abbrev PAGE : Byte := 0x05
abbrev ACCESS : Byte := 0x06
abbrev POISON : Byte := 0x07
abbrev WAITLIM : Byte := 0x08
abbrev SKFAR : Byte := 0x09
abbrev SKBEHIND : Byte := 0x0A
abbrev SKCYCLE : Byte := 0x0B
abbrev ENGINE : Byte := 0x0C
abbrev STREAM : Byte := 0x0D
abbrev TWINMIS : Byte := 0x0E
abbrev LEASEGONE : Byte := 0x0F
abbrev LINKDOWN : Byte := 0x10
abbrev FENCEERR : Byte := 0x11
abbrev FORMAT : Byte := 0x12
abbrev SWTRAP : Byte := 0x13
abbrev HANG : Byte := 0x14
abbrev CHKFAIL : Byte := 0x15

/-! ## Numbering -/

/-- The die of a core; core 1280 + d is die d's service core (R4, R10). -/
def dieOf (core : Nat) : Nat := if core < 1280 then core / 320 else core - 1280
/-- The cluster of a core (R4); a service core is counted as a cluster of its own, 320 + die. -/
def clusterOf (core : Nat) : Nat := if core < 1280 then core / 4 else 320 + (core - 1280)
/-- The die of a cluster. -/
def dieOfCluster (clu : Nat) : Nat := if clu < 320 then clu / 80 else clu - 320
/-- The key of a thread in the thread table. -/
def keyOf (core slot : Nat) : Nat := core * 8 + slot
def coreOf (key : Nat) : Nat := key / 8
def slotOf (key : Nat) : Nat := key % 8

/-- The mode a slot runs in (R47, R401): 0 U, 1 F, 2 M. -/
def modeOf (key : Nat) : Nat :=
  if coreOf key < 1280 then (if slotOf key = 7 then 1 else 0) else (if slotOf key = 7 then 2 else 1)

/-! ## Access to the parts of the state -/

def State.thread (s : State) (key : Nat) : Thread := (tfind s.threads key).getD (Thread.default key)
def State.setThread (s : State) (key : Nat) (t : Thread) : State := { s with threads := tput s.threads key t }
def State.core (s : State) (c : Nat) : Core := tget Core.reset s.cores c
def State.setCore (s : State) (c : Nat) (x : Core) : State := { s with cores := tput s.cores c x }
def State.arch (s : State) (c : Nat) : CoreArch := (s.core c).arch
def State.setArch (s : State) (c : Nat) (x : CoreArch) : State := s.setCore c { s.core c with arch := x }
def State.cluster (s : State) (c : Nat) : Cluster := tget Cluster.reset s.clusters c
def State.setCluster (s : State) (c : Nat) (x : Cluster) : State := { s with clusters := tput s.clusters c x }
def State.die (s : State) (d : Nat) : Die := tget Die.reset s.dies d
def State.setDie (s : State) (d : Nat) (x : Die) : State := { s with dies := tput s.dies d x }
def State.part (s : State) (p : Nat) : Partition := tget {} s.parts p
def State.setPart (s : State) (p : Nat) (x : Partition) : State := { s with parts := tput s.parts p x }
def State.queue (s : State) (q : Nat) : WorkQueue := tget {} s.queues q
def State.setQueue (s : State) (q : Nat) (x : WorkQueue) : State := { s with queues := tput s.queues q x }

/-- The thread that acts. -/
def State.me (s : State) : Thread := s.thread s.cur
/-- Set the thread that acts. -/
def State.setMe (s : State) (t : Thread) : State := s.setThread s.cur t
/-- The core of the thread that acts. -/
def State.myCore (s : State) : Nat := coreOf s.cur
/-- The core cycle count of a core's die (R106). -/
def State.cyc (s : State) (core : Nat) : Nat := (s.die (dieOf core)).cyc
/-- The partition a core works for (R323). -/
def State.partOf (s : State) (core : Nat) : Nat := (s.core core).part.toNat
/-- TIM (R106). -/
def State.tim (s : State) : Nat := s.pk.tim
/-- The package a packet of the fabric goes to. -/
def OutMsg.dest : OutMsg → Option (BitVec 10)
  | .request pkg _ _ _ | .message pkg _ _ _ _ _ | .reply pkg _ _ _ _ | .shuttle pkg _ _ _ | .shuttleReply pkg _ _ _ _ _ _
  | .shuttleStatus pkg _ _ _ | .mcst pkg _ _ _ _ _ | .bump pkg _ _ _ _ _ | .stale pkg _ _ => some pkg
  | _ => none
/-- A message leaves the package; a packet to the package itself never does (R365). -/
def State.send (s : State) (m : OutMsg) : State :=
  if m.dest = some s.pk.pkg then { s with links := { s.links with loop := s.links.loop ++ [m] } } else { s with out := s.out ++ [m] }

/-- The next free value: one the spec leaves open (log 6). -/
def State.freeWord (s : State) : W64 := Config.freeWord s.fresh
/-- Use up the free value. -/
def State.useFree (s : State) : State := { s with fresh := s.fresh + 1 }

/-- The identity of a thread, as TID holds it (R4). -/
def State.tid (s : State) (key : Nat) : W64 :=
  BitVec.ofNat 64 (s.pk.pkg.toNat * 2 ^ 16 + coreOf key * 8 + slotOf key)

/-- The slot a TID names in this package, if its reserved fields are zero and it names a core and slot here (R78). -/
def State.ofTid (s : State) (tid : W64) : Option Nat :=
  if tid.extractLsb' 26 38 = 0 ∧ tid.extractLsb' 14 2 = 0 ∧ tid.extractLsb' 16 10 = s.pk.pkg ∧
      (tid.extractLsb' 3 11).toNat < 1280 then
    some (tid.extractLsb' 0 14).toNat
  else none

/-- The core that serves a message naming `core` for a kernel: its context may have moved (R338). -/
def forwardCore (s : State) (kid : W64) (core : Nat) : Nat :=
  match (s.core core).forwards.find? (fun f => f.kids.contains kid) with
  | some f => f.dest
  | none => core

/-- The thread that a reply naming a core's slot is for: that one, or the one of a listed kernel that has moved away from there, where
only it waits for such a reply (R338). -/
def forwardedKey (s : State) (key : Nat) (waits : Nat → Bool) : Nat :=
  if waits key then key
  else
    match (s.core (coreOf key)).forwards.find? (fun f =>
        f.kids.contains (s.thread (keyOf f.dest (slotOf key))).kid && waits (keyOf f.dest (slotOf key))) with
    | some f => keyOf f.dest (slotOf key)
    | none => key

/-! ## Registers -/

/-- Read g_r; g0 reads zero (R87). -/
def Thread.rg (t : Thread) (r : Reg) : W64 := if r = 0 then 0 else tget 0 t.g r.toNat
/-- Write g_r with its check bits; a write to g0 is discarded (R87, R88, R69). -/
def Thread.wg (t : Thread) (r : Reg) (v : W64) : Thread :=
  if r = 0 then t else { t with g := tput t.g r.toNat v, bad := tdel t.bad r.toNat }
/-- Write the result of a checkable instruction: in checked mode its check bits stay pending (R69). -/
def Thread.wgChecked (t : Thread) (r : Reg) (v : W64) : Thread :=
  if r = 0 then t else if t.ck then { t.wg r v with pend := some (r, v) } else t.wg r v
/-- Read an f register's storage. -/
def Thread.rf (t : Thread) (r : Reg) : W128 := tget 0 t.f r.toNat
/-- Write an f register's storage. -/
def Thread.wf (t : Thread) (r : Reg) (v : W128) : Thread := { t with f := tput t.f r.toNat v }
/-- A segment register; an unlisted one is of KIND NONE. -/
def Thread.seg (t : Thread) (n : Nat) : Seg := tget Seg.none t.sg n
/-- A stream; an unlisted one is OFF with every field zero (R139). -/
def Thread.stream (t : Thread) (n : Nat) : Stream := tget {} t.streams n
def Thread.setStream (t : Thread) (n : Nat) (x : Stream) : Thread := { t with streams := tput t.streams n x }
/-- A queue register (R155). -/
def Thread.qreg (t : Thread) (n : Nat) : List W128 := tget [] t.q n
/-- The fault record of an engine (R171): 1 matrix, 2 copy. -/
def Thread.faultOf (t : Thread) (eng : Nat) : EngineFault :=
  tget { fser := 0, fcause := 0, faddr := 0, unreported := false } t.efault eng
/-- A group CSR; an unlisted one names no group (R243). -/
def Thread.gmOf (t : Thread) (j : Nat) : BitVec 16 := tget 0xFFFF t.gm j
/-- The thread's GM CSRs name the group (R241). -/
def Thread.memberOf (t : Thread) (g : Nat) : Bool := [0, 1, 2, 3].any (fun j => (t.gmOf j).toNat == g)

/-- The instruction is over: the next one stands at pc + 4 and may issue at core cycle `done` (R52). -/
def Thread.adv (t : Thread) (done : Nat) : Thread := { t with pc := t.pc + 4, busy := some done }
/-- As `adv`, for a control transfer. -/
def Thread.goto (t : Thread) (pc : W64) (done : Nat) : Thread := { t with pc := pc, busy := some done }

/-- The core cycle at which an instruction of latency `lat` completes. -/
def State.doneAt (s : State) (lat : Nat) : Nat := s.cyc s.myCore + lat
/-- End the instruction with a new thread state. -/
def State.finish (s : State) (t : Thread) (lat : Nat) : State := s.setMe (t.adv (s.doneAt lat))
/-- End the instruction with a result in g_d. -/
def State.finishG (s : State) (d : Reg) (v : W64) (lat : Nat) : State := s.finish (s.me.wg d v) lat

/-! ## Event records (R400) -/

/-- Add a record to a die's event ring; a full ring drops it and counts it. -/
def pushEvent (s : State) (die : Nat) (type slot part : Byte) (core : BitVec 16) (cause : Byte) (d0 d1 : W64) : State :=
  let x := s.die die
  let rec_ : EventRecord :=
    { w0 := 0#8 ++ cause ++ core ++ part ++ slot ++ BitVec.ofNat 8 die ++ type,
      stim := BitVec.ofNat 64 s.tim, data0 := d0, data1 := d1 }
  if x.events.length < 4096 then s.setDie die { x with events := x.events ++ [rec_] }
  else s.setDie die { x with evovf := if x.evovf = 0xFFFF then x.evovf else x.evovf + 1 }

/-- A record about a thread. -/
def pushThreadEvent (s : State) (key : Nat) (type cause : Byte) (d0 d1 : W64) : State :=
  pushEvent s (dieOf (coreOf key)) type (BitVec.ofNat 8 (slotOf key)) (BitVec.ofNat 8 (s.partOf (coreOf key)))
    (BitVec.ofNat 16 (coreOf key)) cause d0 d1

/-! ## Pauses (R54, R328, R337) -/

/-- The context of an assigned core is stopped. -/
def ctxStopped (s : State) (core : Nat) : Bool :=
  (s.core core).asg && decide (core < 1280) &&
    match (s.part (s.partOf core)).ctx with
    | .absent | .resident | .degraded => false
    | _ => true

/-- A slot must not issue: urgent work in slot 6, a stopped context or a migration. -/
def wantPaused (s : State) (core slot : Nat) : Bool :=
  (decide (slot < 6) && decide ((s.thread (keyOf core 6)).state = .ready)) || ctxStopped s core ||
    (s.core core).migrating.isSome

/-- A follower leaves its gang, continuing at its own pc (R73). -/
def Thread.detach (t : Thread) : Thread :=
  if t.state = .following then { t with state := .ready, det := true, fwd := [] } else t

/-- Pause or mark one slot, or let it resume (R54). -/
def pauseSlot (want : Bool) (t : Thread) : Thread :=
  if want then
    match t.state with
    | .ready => if t.busy.isNone && !t.flight then { t with state := .paused, prior := .ready } else { t with pse := true }
    | .following =>
      if t.busy.isNone && !t.flight then { t.detach with state := .paused, prior := .ready } else { t with pse := true }
    | .parked | .dropped | .trapped => { t with pse := true }
    | .paused | .empty => t
  else
    match t.state with
    | .paused => { t with state := t.prior, pse := false }
    | _ => { t with pse := false }

/-- Bring every slot of a core in line with what must be paused, slot 6 first, since the others depend on it. -/
def repause (s : State) (core : Nat) : State :=
  [6, 0, 1, 2, 3, 4, 5, 7].foldl (fun s slot =>
    let t := s.thread (keyOf core slot)
    let t' := pauseSlot (wantPaused s core slot) t
    if t' = t then s else s.setThread (keyOf core slot) t') s

/-- `repause` where slot 6 may have entered or left READY. -/
def repauseIf6 (s : State) (key : Nat) : State := if slotOf key = 6 then repause s (coreOf key) else s

/-- A thread leaves its wait or drop: READY, or PAUSED if marked (R50). -/
def Thread.resume (t : Thread) : Thread :=
  if t.pse then { t with state := .paused, prior := .ready, pse := false, wait := none, busy := none }
  else { t with state := .ready, wait := none, busy := none }

/-! ## Waits (R55-R57) -/

/-- The tick at which a wait that begins now expires. -/
def deadlineOf (s : State) (t : Thread) : Option Nat := if t.wlim = 0 then none else some (s.tim + t.wlim.toNat)

/-- Park a thread on a wait of kind `kind` for the object `eval`; a follower detaches first (R73). -/
def parkOn (s : State) (key : Nat) (kind : Byte) (eval : W64) (remote : Bool) (instr : Instr) (taken : Mem) : State :=
  let t := (s.thread key).detach
  let w : Wait :=
    { kind := kind, eval := eval, deadline := deadlineOf s t,
      remote := if remote then some (s.tim + 500000) else none, instr := instr, taken := taken, walk := false, sent := false,
      aux := 0, reply := none }
  repauseIf6 (s.setThread key { t with state := .parked, busy := none, wait := some w }) key

/-- The thread that acts parks on `instr`. -/
def parkMe (s : State) (kind : Byte) (eval : W64) (instr : Instr) : State := parkOn s s.cur kind eval false instr []

/-- An empty reply: the instruction ends at pc + 4 and writes nothing. -/
def Reply.plain : Reply :=
  { g := [], f := [], acquire := none, trap := none, kill := false, reissue := false, pc := none, csr := [], ix := [] }
/-- A reply that writes g_d. -/
def Reply.reg (d : Reg) (v : W64) : Reply := { Reply.plain with g := [(d, v)] }
/-- A reply that traps. -/
def Reply.fail (cause : Byte) (eval : W64) : Reply := { Reply.plain with trap := some (cause, eval) }
/-- A reply that lets the instruction issue again. -/
def Reply.again : Reply := { Reply.plain with reissue := true }

/-- A buffered or deferred reply. -/
def Deferred.ofReply (r : Reply) : Deferred := { kind := 0, word := 0, tid := 0, reply := some r }

/-- A parked thread's request has been answered; one whose thread has trapped for its run meanwhile is deferred (R62). -/
def answer (s : State) (key : Nat) (r : Reply) : State :=
  let t := s.thread key
  match t.state, t.wait with
  | .parked, some w => if w.reply.isSome then s else s.setThread key { t with wait := some { w with reply := some r } }
  | .trapped, some w =>
    if w.at_.isSome && t.deferred.all (·.reply.isNone) then
      s.setThread key { t with deferred := t.deferred ++ [Deferred.ofReply r] } else s
  | _, _ => s

/-- The wait of a thread that waits for an answer: parked, or trapped for its run with the instruction still in flight. -/
def Thread.unanswered (t : Thread) : Option Wait :=
  match t.state, t.wait with
  | .parked, some w => if w.reply.isNone then some w else none
  | .trapped, some w => if w.at_.isSome && t.deferred.all (·.reply.isNone) then some w else none
  | _, _ => none

/-! ## Contexts that are not live (R329) -/

/-- Records of a save area that a transfer has passed, by its progress SOFF: a record is 0x1A0 units of 4 KiB after the header (R331,
R332). -/
def recordsDone (p : Partition) : Nat := (p.soff.toNat - 1) / 0x1A0

/-- Threads of a partition's context that the live arrays do not hold: in shadow banks, or in a save area, of which a restore has
brought some back. -/
def offThreads (s : State) (part : Nat) : List (Nat × Thread) :=
  s.cores.flatMap (fun c => match c.2.shadow with
    | some x => if x.part.toNat = part then x.threads else []
    | none => []) ++
  (let p := s.part part
   if p.ctx = .spilled ∨ (p.ctx = .restoring ∧ p.area.isSome) then
    (match s.images.find? (fun x => x.digest == p.savedDigest) with
     | some x => (x.cores.drop (if p.ctx = .spilled then 0 else recordsDone p)).flatMap (fun c => c.2.threads)
     | none => [])
   else [])

/-- A message for such a thread enters the reply buffer of its die, which holds 256; a message too many is lost. -/
def bufferReply (s : State) (part key : Nat) (d : Deferred) : State :=
  let p := s.part part
  if (p.replies.filter (fun x => dieOf (coreOf x.1) == dieOf (coreOf key))).length < 256 then
    s.setPart part { p with replies := p.replies ++ [(key, d)] }
  else s.setPart part { p with overflow := if p.overflow.contains key then p.overflow else p.overflow ++ [key] }

/-- Answer the waits of threads that are not live: `f` gives what a waiting instruction receives. -/
def answerOff (s : State) (part : Nat) (f : Thread → Wait → Option Reply) : State :=
  (offThreads s part).foldl (fun s x =>
    let p := s.part part
    match x.2.unanswered with
    | some w =>
      if p.replies.any (fun y => y.1 == x.1) || p.overflow.contains x.1 then s
      else
        match f x.2 w with
        | some r => bufferReply s part x.1 (Deferred.ofReply r)
        | none => s
    | none => s) s

/-! ## Traps (R58-R61, R64, R68) -/

/-- The partner of a twin thread: slot 2i+1 of slot 2i and back. -/
def partnerOf (key : Nat) : Nat := if key % 2 = 0 then key + 1 else key - 1

/-- Slot 7 traps: it stays TRAPPED and the die's service core receives an escalation event (R61). -/
def escalate (s : State) (core : Nat) (cause : Byte) : State :=
  let a := s.arch core
  let t := s.thread (keyOf core 7)
  let s1 := s.setThread (keyOf core 7) { t with state := .trapped, busy := none, wait := none }
  let s2 := s1.setArch core { a with escalated := true }
  let served : W64 × W64 := match a.serving with
    | some _ => (a.epc, a.eval)
    | none => (0, 0)
  pushThreadEvent s2 (keyOf core 7) 0x03 cause served.1 served.2

/-- The thread leads a twin pair whose trailer has not reached its instruction yet: a trap waits for it (R68). -/
def twinLag (s : State) (key : Nat) : Bool :=
  let t := s.thread key
  t.twl && t.twinAt != (s.thread (partnerOf key)).twinAt

/-- TAKE A TRAP: the slot leaves rotation TRAPPED with EPC, cause and EVAL in its core's trap queue (R58, R59, R64); a
follower detaches first (R73); a twin pair is stopped together, its record naming the leader (R68), and a trap that the
trailer alone meets is a mismatch, with the leader's address of a store that differs (log 36); a trap of slot 7 escalates (R61).
Nothing of the trapping instruction takes effect. -/
def takeTrap (s : State) (key : Nat) (cause : Byte) (epc eval : W64) (wkind : Byte := 0)
    (seq : Option (Nat × Nat) := none) : State :=
  let core := coreOf key
  if slotOf key = 7 then escalate s core cause
  else
    let t := s.thread key
    let twin := t.twl || t.twt
    let leader := if t.twt then partnerOf key else key
    let alone := t.twt && t.twinAt != (s.thread leader).twinAt
    let stop (t : Thread) : Thread :=
      { t.detach with state := .trapped, busy := none, wait := none, flight := false, rangeAt := 0, fenceStart := none }
    let s1 := s.setThread key (stop t)
    let s2 := if twin then s1.setThread (partnerOf key) (stop (s1.thread (partnerOf key))) else s1
    let r : TrapRecord :=
      if alone then
        { slot := slotOf leader, epc := (s.thread leader).pc, cause := TWINMIS, wkind := 0,
          eval := if cause = TWINMIS then eval else 0, seq := none, twin := true }
      else { slot := slotOf leader, epc := epc, cause := cause, wkind := wkind, eval := eval, seq := seq, twin := twin }
    let a := s2.arch core
    repauseIf6 (s2.setArch core { a with trapq := a.trapq ++ [r] }) key

/-- The acting thread traps at its own instruction. -/
def trapMe (s : State) (cause : Byte) (eval : W64) : State := takeTrap s s.cur cause s.me.pc eval

/-- ECAUSE of a trap record (R64, R76). -/
def TrapRecord.ecause (r : TrapRecord) : W64 :=
  (0 : BitVec 46) ++ BitVec.ofBool r.twin ++ BitVec.ofBool r.seq.isSome ++ r.wkind ++ r.cause

/-- ESEQ of a trap record. -/
def TrapRecord.eseq (r : TrapRecord) : W64 :=
  match r.seq with
  | some (entry, iter) => BitVec.ofNat 64 (iter * 2 ^ 16 + entry)
  | none => 0

/-- A slot has stores that are not accepted. -/
def slotStores (s : State) (core slot : Nat) : Bool := (s.core core).storeq.any (fun e => e.slot == slot)

/-- START A HANDLER: an idle slot 7 takes the oldest trap-queue entry whose slot is stopped (R59), once the trapped thread's
stores are accepted: trap entry is a release at CORE scope, and the start an acquire (R230). -/
def startHandler (s : State) (core : Nat) : State :=
  let a := s.arch core
  let t := s.thread (keyOf core 7)
  match a.trapq with
  | [] => s
  | r :: rest =>
    if a.serving.isSome || a.escalated || t.state != .parked || t.wait.isSome || slotStores s core r.slot then s
    else
      let s1 := s.setArch core { a with
        trapq := rest, serving := some r, eslot := BitVec.ofNat 3 r.slot, epc := r.epc &&& ~~~3#64, ecause := r.ecause,
        eval := r.eval, eseq := r.eseq }
      s1.setThread (keyOf core 7) { t with state := (if t.pse then .paused else .ready), prior := .ready, pse := false,
                                           pc := a.evec, busy := none }

/-- END AN INVOCATION: slot 7 parks on the trap queue again, and a waiting HEVEC is copied into EVEC (R60, R61). -/
def endInvocation (s : State) (core : Nat) : State :=
  let c := s.core core
  let a := c.arch
  let s1 := s.setCore core { c with
    hevecPend := none, arch := { a with serving := none, evec := c.hevecPend.getD a.evec } }
  let t := s1.thread (keyOf core 7)
  s1.setThread (keyOf core 7) { t with state := .parked, wait := none, busy := none }

/-- RETURN FROM A TRAP, the thread's side: the trapped slot resumes at `pc` (R50, R78); where an instruction of it is still in
flight it waits for that first (R152). After a twin mismatch the leader's registers, with their check bits, are copied into the
trailer's, and the pair's queue and comparator are emptied (R68). -/
def returnTo (s : State) (core : Nat) (r : TrapRecord) (pc : W64) : State :=
  let key := keyOf core r.slot
  let t := s.thread key
  if t.state != .trapped then s
  else
    let s1 := s.setThread key (if t.wait.isSome then { t with state := .parked, pc := pc } else { t.resume with pc := pc })
    if r.twin then
      let lead := s1.thread key
      let tr := s1.thread (partnerOf key)
      let tr' : Thread :=
        if r.cause = TWINMIS then
          { tr with g := lead.g, bad := lead.bad, pend := lead.pend, f := lead.f, ix := lead.ix, q := lead.q, lvq := [],
                    run := lead.run, seqRes := (lead.run.map (·.words.length)).getD 0, twinAt := lead.twinAt }
        else tr
      let lead' : Thread := if r.cause = TWINMIS then { lead with cmp := [] } else lead
      repauseIf6 ((s1.setThread key lead').setThread (partnerOf key) { tr'.resume with pc := pc }) key
    else repauseIf6 s1 key

/-! ## Who may issue (R51) -/

/-- The slot may issue now, forfeits and yields apart. -/
def slotEligible (s : State) (core slot : Nat) : Bool :=
  let t := s.thread (keyOf core slot)
  t.killed.isNone && t.busy.isNone && t.wait.isNone &&
    (t.state == .ready || (t.state == .following && match t.fwd with
      | f :: _ => decide (f.ready ≤ s.cyc core)
      | [] => false))

/-- A slot out of the rotation whose forfeited turns pass all the same, for its run (R51, R127). -/
def slotForfeits (s : State) (core slot : Nat) : Bool :=
  let t := s.thread (keyOf core slot)
  decide (t.forfeit ≠ 0) && t.run.isSome && t.killed.isNone && !slotEligible s core slot &&
    (t.state == .parked || t.state == .dropped || t.state == .following)

/-- A core may issue in the present tick: it has a core cycle left and an eligible slot. -/
def coreCanIssue (s : State) (core : Nat) : Bool :=
  (s.die (dieOf core)).relock.isNone &&
    (match (s.core core).issuedAt with
     | some x => decide (x < s.cyc core)
     | none => true) && (List.range 8).any (fun slot => slotEligible s core slot || slotForfeits s core slot)

/-! ## How an instruction's body ends short of its effect -/

/-- Why an instruction has no effect now. -/
inductive Stop where
  /-- it traps precisely; safe -/
  | trap (cause : Byte) (eval : W64)
  /-- it is not issued yet: a hold, or a full queue; the thread is passed over; safe -/
  | hold
  /-- it consumed poison: the thread is killed (R199); safe -/
  | poison
  /-- a page fault: the thread is dropped and the access joins a pager record (R347); safe -/
  | page (dva : Nat) (kind : BitVec 2) (acc : BitVec 4) (eval : W64)
  /-- a host address misses the address-translation cache (R354); safe -/
  | ats (page : Nat) (eval : W64)
  /-- it parks: wait kind, object, whether the remote access timeout runs (R367), the bytes its load took from the store
  queue, and what it sends; safe -/
  | park (kind : Byte) (eval : W64) (remote : Bool) (taken : Mem) (msgs : List OutMsg)
  /-- a table walk reads an entry whose die relocks: it parks until the walk can be made (R18); safe -/
  | walk (dva : Nat) (eval : W64)
deriving DecidableEq, Repr

/-- Require a condition, or trap. -/
def need (c : Bool) (cause : Byte) (eval : W64) : Except Stop Unit := if c then .ok () else .error (.trap cause eval)

end

end Sys2Proof.Machine
end

