-- ==== Sys2Proof/Machine/Clock.lean ====
section
/-! DEFINITION. Clocks (R14-R21): the passing of a tick, frequency steps and their log, the power limiter. -/

namespace Sys2Proof.Machine

noncomputable section

/-! ## Ticks (log 3) -/

/-- One tick of a die's core clock: 3·M twentieths of a core cycle; none while it relocks (R17). -/
def dieTick (x : Die) : Die :=
  match x.relock with
  | some _ => x
  | none =>
    let f := x.frac + 3 * x.mcur.toNat
    { x with cyc := x.cyc + f / 20, frac := f % 20 }

/-- One tick of the reference timer, with every die's clock and the array clock (11 tenths of a cycle). -/
def tickState (s : State) : State :=
  let s1 := upTo 4 (fun s d => s.setDie d (dieTick (s.die d))) s
  let f := s1.pk.arrayFrac + 11
  { s1 with pk := { s1.pk with tim := s1.pk.tim + 1, array := s1.pk.array + f / 10, arrayFrac := f % 10 } }

/-- The first cycle of a die's present rotation (R51). -/
def rotationStart (x : Die) : Nat := x.rotBase + (x.cyc - x.rotBase) / 8 * 8

/-- A die's memory, engines and crossings can be reached (R18). -/
def dieReachable (s : State) (die : Nat) : Bool := (s.die die).relock.isNone

/-! ## Frequency steps (R16-R21) -/

/-- Request a multiplier on a die: a new step, or held behind a relock, where a later request replaces an earlier one and a
step of the limiter is held beside it (R20). -/
def requestStep (s : State) (die : Nat) (m : BitVec 4) (limiter : Bool) : State :=
  let x := s.die die
  match x.relock with
  | some _ => s.setDie die (if limiter then { x with heldLim := some m } else { x with held := some m })
  | none => if m = x.mcur then s else s.setDie die { x with relock := some (m, s.tim) }

/-- What the end of a relock to `m` starts: the lower of a held request and a limiter's step (R20); the limiter never steps a
die up (R16). -/
def heldStep (x : Die) (m : BitVec 4) : Option (BitVec 4) :=
  match x.held, x.heldLim with
  | some h, some l => some (if l < h then l else h)
  | some h, none => some h
  | none, some l => if l < m then some l else none
  | none, none => none

/-- MREQ_WRITE: outside 4 to 12 it is ignored (R20). -/
def execMreqWrite (die : BitVec 2) (m : BitVec 4) (s : State) : Out :=
  if m < 4 ∨ 12 < m then .next s
  else
    let d := die.toNat
    .next (requestStep (s.setDie d { s.die d with mreq := m }) d m false)

/-- The die with the highest multiplier, ties to the lowest number. -/
def fastestDie (s : State) : Nat := [1, 2, 3].foldl (fun b d => if (s.die b).mcur < (s.die d).mcur then d else b) 0

/-- POWER_COMPARISON (R16). -/
def execPowerComparison (draw : Nat) (s : State) : Out :=
  if draw < s.pk.powerLimit then .next { s with pk := { s.pk with alert := false } }
  else
    let d := fastestDie s
    let m := (s.die d).mcur
    if m ≤ 4 then .next { s with pk := { s.pk with alert := true } } else .next (requestStep s d (m - 1) true)

/-- A word of the step log. -/
def logEntry (x : Die) (tim : Nat) (m : BitVec 4) (start : Nat) : W64 × W64 × W64 :=
  (BitVec.ofNat 64 tim, BitVec.ofNat 64 x.cyc,
    (x.stepn + 1).extractLsb' 0 32 ++ BitVec.ofNat 16 (tim - start) ++ 0#8 ++ x.mcur ++ m)

/-- A reclaim involves a die: one that holds a frame its granules are copied to (log 105). -/
def Lease.involves (x : Lease) (die : Nat) : Bool := x.frames.any (fun f => f / 2 ^ 38 % 4 == die)

/-- T_evict of every reclaim that a relock of the die involved is lengthened by the ticks it took of it (R19). -/
def lengthenReclaims (s : State) (die start : Nat) : State :=
  { s with parts := s.parts.map (fun p => (p.1, { p.2 with leases := p.2.leases.map (fun l =>
      (l.1, if l.2.state = 3 ∧ l.2.involves die then { l.2 with deadline := l.2.deadline + (s.tim - Nat.max start l.2.since) } else l.2)) })) }

/-- RELOCK_END: STEPN, the log entry, and a held request's new step (R17, R20, R21). -/
def execRelockEnd (die : BitVec 2) (s : State) : Out :=
  let d := die.toNat
  let x := s.die d
  match x.relock with
  | none => .next s
  | some (m, start) =>
    let x1 : Die := { x with
      relock := none, held := none, heldLim := none, mcur := m, rotBase := x.cyc, frac := 0, stepn := x.stepn + 1,
      log := tput x.log ((x.stepn + 1).toNat % 16) (logEntry x s.tim m start) }
    let s1 := lengthenReclaims (s.setDie d x1) d start
    match heldStep x m with
    | some h => .next (requestStep s1 d h false)
    | none => .next s1

end

end Sys2Proof.Machine
end

