-- ==== Sys2Proof/Machine/Floats.lean ====
section
/-! DEFINITION. Exact arithmetic of the number formats (R110-R119, R157, R159, R160, R166): operands become exact
rationals, results are computed exactly and narrowed once at the end with their flags. Bit patterns are numbers. -/

namespace Sys2Proof.Machine

/-- Sticky flags as a number: NV 1, DZ 2, OF 4, UF 8, NX 16 (R137 bits 0 to 4). -/
abbrev FlagBits := Nat

/-- An IEEE format: width, exponent bits, fraction bits (R111). -/
structure FpFmt where
  width : Nat
  ebits : Nat
  mbits : Nat
deriving DecidableEq, Repr

def f64 : FpFmt := { width := 64, ebits := 11, mbits := 52 }
def f32 : FpFmt := { width := 32, ebits := 8, mbits := 23 }
def b16 : FpFmt := { width := 16, ebits := 8, mbits := 7 }

/-- The IEEE format of a format code (R32). -/
def fpFmtOf (t : Nat) : FpFmt := if t = 4 then f64 else if t = 5 then f32 else b16

def FpFmt.bias (F : FpFmt) : Nat := 2 ^ (F.ebits - 1) - 1
/-- The canonical quiet NaN (R111, R112). -/
def FpFmt.nan (F : FpFmt) : Nat := (2 ^ F.ebits - 1) * 2 ^ F.mbits + 2 ^ (F.mbits - 1)
def FpFmt.signBit (F : FpFmt) (neg : Bool) : Nat := if neg then 2 ^ (F.width - 1) else 0
def FpFmt.inf (F : FpFmt) (neg : Bool) : Nat := F.signBit neg + (2 ^ F.ebits - 1) * 2 ^ F.mbits
def FpFmt.maxFinite (F : FpFmt) (neg : Bool) : Nat := F.inf neg - 1

/-- A value: NaN (signalling or quiet), infinity, or ±num/den. -/
inductive Fp where
  | nan (signalling : Bool)
  | inf (neg : Bool)
  | fin (neg : Bool) (num den : Nat)
deriving DecidableEq, Repr

/-- num·2^e as a pair of numerator and denominator. -/
def scale2 (num : Nat) (e : Int) : Nat × Nat := if e < 0 then (num, 2 ^ e.natAbs) else (num * 2 ^ e.natAbs, 1)

/-- The value of an IEEE bit pattern (R111). -/
def fpDecode (F : FpFmt) (x : Nat) : Fp :=
  let neg := bitsOf x (F.width - 1) 1 = 1
  let e := bitsOf x F.mbits F.ebits
  let m := bitsOf x 0 F.mbits
  if e = 2 ^ F.ebits - 1 then
    (if m = 0 then .inf neg else .nan (bitsOf m (F.mbits - 1) 1 = 0))
  else
    let v := if e = 0 then scale2 m (1 - (F.bias : Int) - F.mbits)
             else scale2 (m + 2 ^ F.mbits) ((e : Int) - F.bias - F.mbits)
    .fin neg v.1 v.2

/-- The pattern is subnormal. -/
def isSubnormal (F : FpFmt) (x : Nat) : Bool := bitsOf x F.mbits F.ebits = 0 && bitsOf x 0 F.mbits != 0

/-- Round num/den to an integer in mode `rm` (R113), saying whether it changed. -/
def roundInt (rm : Nat) (neg : Bool) (num den : Nat) : Nat × Bool :=
  let q := num / den
  let r := num % den
  let up :=
    if r = 0 then false
    else if rm = 0 then (decide (den < 2 * r) || (decide (2 * r = den) && decide (q % 2 = 1)))
    else if rm = 1 then decide (den ≤ 2 * r)
    else if rm = 2 then !neg
    else if rm = 3 then neg
    else false
  (if up then q + 1 else q, r != 0)

/-- floor(log2(num/den)) for positive num and den. -/
def ilog2 (num den : Nat) : Int :=
  let l : Int := (Nat.log2 num : Int) - Nat.log2 den
  let v := scale2 den l
  if num * v.2 < v.1 then l - 1 else l

/-- num/den rounded to a multiple of 2^u: the multiple and whether it changed. -/
def roundTo (rm : Nat) (neg : Bool) (num den : Nat) (u : Int) : Nat × Bool :=
  if u < 0 then roundInt rm neg (num * 2 ^ u.natAbs) den else roundInt rm neg num (den * 2 ^ u.natAbs)

/-- num/den rounded to `p` significant bits with unit no smaller than 2^umin: multiple, unit exponent, changed. -/
def roundSig (rm : Nat) (neg : Bool) (num den p : Nat) (umin : Int) : Nat × Int × Bool :=
  let u := max (ilog2 num den - (p - 1 : Nat)) umin
  let r := roundTo rm neg num den u
  (r.1, u, r.2)

/-- The value rounded to `p` bits with unbounded exponent is below 2^emin: tiny after rounding (R113, R114). -/
def tinyAfter (rm : Nat) (neg : Bool) (num den p : Nat) (emin : Int) : Bool :=
  let u := ilog2 num den - (p - 1 : Nat)
  let r := roundTo rm neg num den u
  let v := scale2 r.1 (u - emin)
  decide (v.1 < v.2)

/-- Narrow ±num/den into an IEEE format in mode `rm` (R113, R114). -/
def fpRound (F : FpFmt) (rm : Nat) (neg : Bool) (num den : Nat) : Nat × FlagBits :=
  if num = 0 then (F.signBit neg, 0)
  else
    let emin : Int := 1 - (F.bias : Int)
    let r := roundSig rm neg num den (F.mbits + 1) (emin - F.mbits)
    let sig := r.1
    let u := r.2.1
    -- the encoding is additive: a significand of 2^(mbits+1) carries into the exponent
    let ef : Int := u - (emin - F.mbits)
    let mag := (if sig < 2 ^ F.mbits then 0 else ef.natAbs) * 2 ^ F.mbits + sig
    let nx := if r.2.2 then 16 else 0
    if (2 ^ F.ebits - 1) * 2 ^ F.mbits ≤ mag then
      let toInf := rm = 0 || rm = 1 || (rm = 2 && !neg) || (rm = 3 && neg)
      (if toInf then F.inf neg else F.maxFinite neg, 4 + 16)
    else
      (F.signBit neg + mag,
        nx + (if r.2.2 && tinyAfter rm neg num den (F.mbits + 1) emin then 8 else 0))

/-- Operands of the value ±num/den summed exactly: sign of the result, numerator, denominator; none for an exact zero. -/
def addExact (n1 : Bool) (a1 d1 : Nat) (n2 : Bool) (a2 d2 : Nat) : Bool × Nat × Nat :=
  let x : Int := (if n1 then -1 else 1) * (a1 * d2 : Nat) + (if n2 then -1 else 1) * (a2 * d1 : Nat)
  (decide (x < 0), x.natAbs, d1 * d2)

/-- NV for a signalling operand (R112). -/
def sNaN : Fp → Nat
  | .nan true => 1
  | _ => 0

/-- a + b rounded once (R157); an exact zero sum is −0 only in RDN or from two −0. -/
def fpAdd (F : FpFmt) (rm : Nat) (a b : Fp) : Nat × FlagBits :=
  let nv := if sNaN a + sNaN b = 0 then 0 else 1
  match a, b with
  | .nan _, _ => (F.nan, nv)
  | _, .nan _ => (F.nan, nv)
  | .inf x, .inf y => if x = y then (F.inf x, 0) else (F.nan, 1)
  | .inf x, _ => (F.inf x, 0)
  | _, .inf y => (F.inf y, 0)
  | .fin n1 a1 d1, .fin n2 a2 d2 =>
    let r := addExact n1 a1 d1 n2 a2 d2
    if r.2.1 = 0 then
      (F.signBit (if a1 = 0 && a2 = 0 && n1 = n2 then n1 else rm = 3), 0)
    else fpRound F rm r.1 r.2.1 r.2.2

/-- The opposite value. -/
def Fp.neg : Fp → Fp
  | .nan x => .nan x
  | .inf x => .inf (!x)
  | .fin x a d => .fin (!x) a d

/-- a · b rounded once. -/
def fpMul (F : FpFmt) (rm : Nat) (a b : Fp) : Nat × FlagBits :=
  let nv := if sNaN a + sNaN b = 0 then 0 else 1
  match a, b with
  | .nan _, _ => (F.nan, nv)
  | _, .nan _ => (F.nan, nv)
  | .inf x, .inf y => (F.inf (x != y), 0)
  | .inf x, .fin y b1 _ => if b1 = 0 then (F.nan, 1) else (F.inf (x != y), 0)
  | .fin x a1 _, .inf y => if a1 = 0 then (F.nan, 1) else (F.inf (x != y), 0)
  | .fin x a1 d1, .fin y a2 d2 => fpRound F rm (x != y) (a1 * a2) (d1 * d2)

/-- a / b rounded once; a finite non-zero value over zero sets DZ. -/
def fpDiv (F : FpFmt) (rm : Nat) (a b : Fp) : Nat × FlagBits :=
  let nv := if sNaN a + sNaN b = 0 then 0 else 1
  match a, b with
  | .nan _, _ => (F.nan, nv)
  | _, .nan _ => (F.nan, nv)
  | .inf _, .inf _ => (F.nan, 1)
  | .inf x, .fin y _ _ => (F.inf (x != y), 0)
  | .fin x _ _, .inf y => (F.signBit (x != y), 0)
  | .fin x a1 d1, .fin y a2 d2 =>
    if a2 = 0 then (if a1 = 0 then (F.nan, 1) else (F.inf (x != y), 2))
    else fpRound F rm (x != y) (a1 * d2) (d1 * a2)

/-- floor(√n): Newton's iteration from above, `fuel` bounding its steps. -/
def isqrtIter : Nat → Nat → Nat → Nat
  | 0, _, x => x
  | fuel + 1, n, x => let y := (x + n / x) / 2; if y < x then isqrtIter fuel n y else x
def isqrt (n : Nat) : Nat := if n = 0 then 0 else isqrtIter (Nat.log2 n + 8) n (2 ^ (Nat.log2 n / 2 + 1))

/-- √(num/den) to 2^-k, as numerator over 2^(k+1) with a half added when it is not exact: a value that rounds as the root
does whenever the root has more than the format's bits above 2^-k. -/
def sqrtSticky (num den k : Nat) : Nat × Nat :=
  let s := isqrt (num * 2 ^ (2 * k) / den)
  (2 * s + (if s * s * den = num * 2 ^ (2 * k) then 0 else 1), 2 ^ (k + 1))

/-- √a rounded by `rm`; √(−0) = −0, a negative value gives NaN with NV (R157). -/
def fpSqrt (F : FpFmt) (rm : Nat) (a : Fp) : Nat × FlagBits :=
  match a with
  | .nan s => (F.nan, if s then 1 else 0)
  | .inf x => if x then (F.nan, 1) else (F.inf false, 0)
  | .fin x n d =>
    if n = 0 then (F.signBit x, 0)
    else if x then (F.nan, 1)
    else
      let r := sqrtSticky n d (600 + Nat.log2 d)
      fpRound F rm false r.1 r.2

/-- ±(a·b) ± c rounded once (R159). -/
def fpFma (F : FpFmt) (rm : Nat) (negProd : Bool) (a b c : Fp) : Nat × FlagBits :=
  let nv := if sNaN a + sNaN b + sNaN c = 0 then 0 else 1
  let invalid : Bool := match a, b with
    | .inf _, .fin _ n _ => n == 0
    | .fin _ n _, .inf _ => n == 0
    | _, _ => false
  if invalid then (F.nan, 1)
  else
    match a, b, c with
    | .nan _, _, _ => (F.nan, nv)
    | _, .nan _, _ => (F.nan, nv)
    | _, _, .nan _ => (F.nan, nv)
    | .inf x, .inf y, z => fpAdd F rm (.inf ((x != y) != negProd)) z
    | .inf x, .fin y _ _, z => fpAdd F rm (.inf ((x != y) != negProd)) z
    | .fin x _ _, .inf y, z => fpAdd F rm (.inf ((x != y) != negProd)) z
    | .fin x a1 d1, .fin y a2 d2, z => fpAdd F rm (.fin ((x != y) != negProd) (a1 * a2) (d1 * d2)) z

/-- a < b as numbers, −0 and +0 equal; false when either is NaN. -/
def fpLt : Fp → Fp → Bool
  | .nan _, _ | _, .nan _ => false
  | .inf x, .inf y => x && !y
  | .inf x, _ => x
  | _, .inf y => !y
  | .fin x a d, .fin y b e =>
    decide ((if x then -1 else 1) * ((a * e : Nat) : Int) < (if y then -1 else 1) * ((b * d : Nat) : Int))

/-- a = b as numbers; false when either is NaN. -/
def fpEq : Fp → Fp → Bool
  | .inf x, .inf y => x == y
  | .fin x a d, .fin y b e =>
    decide ((if x then -1 else 1) * ((a * e : Nat) : Int) = (if y then -1 else 1) * ((b * d : Nat) : Int))
  | _, _ => false

/-- Is a NaN. -/
def Fp.isNaN : Fp → Bool
  | .nan _ => true
  | _ => false

/-- The lesser (or greater) of two patterns with −0 < +0; one NaN gives the other, two give NaN; NV for a signalling
NaN (R157). -/
def fpMinMax (F : FpFmt) (wantMax : Bool) (x y : Nat) : Nat × FlagBits :=
  let a := fpDecode F x
  let b := fpDecode F y
  let nv := if sNaN a + sNaN b = 0 then 0 else 1
  if a.isNaN && b.isNaN then (F.nan, nv)
  else if a.isNaN then (y, nv)
  else if b.isNaN then (x, nv)
  else
    let xNeg := bitsOf x (F.width - 1) 1 = 1
    let less := fpLt a b || (fpEq a b && xNeg)
    ((if wantMax then (if less then y else x) else (if less then x else y)), nv)

/-- The kind code of a lane (R158). -/
def fpKind (F : FpFmt) (x : Nat) : Nat :=
  let s := bitsOf x (F.width - 1) 1
  let k := match fpDecode F x with
    | .nan sig => if sig then 5 else 4
    | .inf _ => 3
    | .fin _ n _ => if n = 0 then 0 else if isSubnormal F x then 1 else 2
  8 * s + k

/-! ## E43, E21, Q and integer formats -/

/-- The value of an E43 byte (R115). -/
def e43Decode (x : Nat) : Fp :=
  let neg := bitsOf x 7 1 = 1
  let e := bitsOf x 3 4
  let m := bitsOf x 0 3
  if e = 15 ∧ m = 7 then .nan false
  else
    let v := if e = 0 then scale2 m (-9) else scale2 (8 + m) ((e : Int) - 10)
    .fin neg v.1 v.2

/-- The value of an E21 nibble (R117). -/
def e21Decode (x : Nat) : Fp :=
  let neg := bitsOf x 3 1 = 1
  let e := bitsOf x 1 2
  let m := bitsOf x 0 1
  if e = 0 then .fin neg m 2
  else
    let v := scale2 (2 + m) ((e : Int) - 2)
    .fin neg v.1 v.2

/-- Narrow into a small float of `mb` mantissa bits, smallest normal exponent `emin`, greatest magnitude `top` at code
`topCode`: RNE, saturating (R114, R116, R117). -/
def smallRound (mb : Nat) (emin : Int) (signAt topCode : Nat) (top : Nat) (nanCode : Nat) (nanFlag : FlagBits) (x : Fp) :
    Nat × FlagBits :=
  match x with
  | .nan _ => (nanCode, nanFlag)
  | .inf n => ((if n then 2 ^ signAt else 0) + topCode, 4 + 16)
  | .fin n num den =>
    let s := if n then 2 ^ signAt else 0
    if num = 0 then (s, 0)
    else
      let r := roundSig 0 n num den (mb + 1) (emin - mb)
      let v := scale2 r.1 r.2.1
      if top * v.2 < v.1 then (s + topCode, 4 + 16)
      else
        let ef : Int := r.2.1 - (emin - mb)
        let mag := (if r.1 < 2 ^ mb then 0 else ef.natAbs) * 2 ^ mb + r.1
        (s + mag, (if r.2.2 then 16 else 0) + (if r.2.2 && tinyAfter 0 n num den (mb + 1) emin then 8 else 0))

/-- Conversion into E43 (R116). -/
def e43Round (x : Fp) : Nat × FlagBits := smallRound 3 (-6) 7 0x7E 448 0x7F 0 x
/-- Conversion into E21 (R117): a NaN gives 0x0 and NV (R114). -/
def e21Round (x : Fp) : Nat × FlagBits := smallRound 1 0 3 0x7 6 0 1 x

/-- A signed integer over 2^k as a value. -/
def qValue (n : Int) (k : Nat) : Fp := .fin (decide (n < 0)) n.natAbs (2 ^ k)

/-- Saturate to `bits`-bit two's complement; the bit pattern and whether it changed. -/
def satSigned (bits : Nat) (v : Int) : Nat × Bool :=
  let lo : Int := -(2 ^ (bits - 1))
  let hi : Int := 2 ^ (bits - 1) - 1
  let w := if v < lo then lo else if hi < v then hi else v
  ((w % 2 ^ bits).toNat, w != v)

/-- Conversion into Q15 or Q31 (R119, R114): RNE, saturating; NaN gives 0 and NV; never UF. -/
def qRound (bits : Nat) (x : Fp) : Nat × FlagBits :=
  match x with
  | .nan _ => (0, 1)
  | .inf n => ((if n then 2 ^ (bits - 1) else 2 ^ (bits - 1) - 1), 4 + 16)
  | .fin n num den =>
    let r := roundInt 0 n (num * 2 ^ (bits - 1)) den
    let s := satSigned bits (if n then -(r.1 : Int) else r.1)
    (s.1, if s.2 then 4 + 16 else if r.2 then 16 else 0)

/-- Conversion into a `bits`-bit signed integer by mode `rm` (R160): saturation or NaN sets NV, a change NX. -/
def intRound (bits rm : Nat) (x : Fp) : Nat × FlagBits :=
  match x with
  | .nan _ => (0, 1)
  | .inf n => ((if n then 2 ^ (bits - 1) else 2 ^ (bits - 1) - 1), 1)
  | .fin n num den =>
    let r := roundInt rm n num den
    let s := satSigned bits (if n then -(r.1 : Int) else r.1)
    (s.1, (if s.2 then 1 else 0) + (if s.2 || r.2 then 16 else 0))

/-- The exact value of a lane in format code `t` (R109, R160). -/
def laneValue (t x : Nat) : Fp :=
  if t = 0 then qValue (signedOf 64 x) 0
  else if t = 1 then qValue (signedOf 32 x) 0
  else if t = 2 then qValue (signedOf 16 x) 0
  else if t = 3 then qValue (signedOf 8 x) 0
  else if t = 7 then e43Decode x
  else if t = 8 then e21Decode x
  else if t = 9 then qValue (signedOf 32 x) 31
  else if t = 10 then qValue (signedOf 16 x) 15
  else fpDecode (fpFmtOf t) x

/-- convert(y) of R160. -/
def laneRound (t rm : Nat) (y : Fp) : Nat × FlagBits :=
  if t = 0 then intRound 64 rm y
  else if t = 1 then intRound 32 rm y
  else if t = 2 then intRound 16 rm y
  else if t = 3 then intRound 8 rm y
  else if t = 7 then e43Round y
  else if t = 8 then e21Round y
  else if t = 9 then qRound 32 y
  else if t = 10 then qRound 16 y
  else
    let F := fpFmtOf t
    match y with
    | .nan _ => (F.nan, 0)
    | .inf n => (F.inf n, 0)
    | .fin n num den => fpRound F rm n num den

/-- Lane width of a format code (R109). -/
def laneWidth (t : Nat) : Nat :=
  if t = 0 ∨ t = 4 then 64 else if t = 1 ∨ t = 5 ∨ t = 9 then 32
  else if t = 2 ∨ t = 6 ∨ t = 10 ∨ t = 11 then 16 else if t = 8 then 4 else 8
/-- Lanes per pack. -/
def laneCount (t : Nat) : Nat := 128 / laneWidth t
/-- Lane i of a pack of w-bit lanes. -/
def lane (w : Nat) (p : W128) (j : Nat) : Nat := bitsOf p.toNat (w * j) w
/-- A pack from the list of its lanes. -/
def packLanes (w : Nat) : List Nat → Nat
  | [] => 0
  | x :: r => x % 2 ^ w + 2 ^ w * packLanes w r

/-- RNE32 of the sum of two F32 patterns. -/
def addF32 (x y : Nat) : Nat := (fpAdd f32 0 (fpDecode f32 x) (fpDecode f32 y)).1

/-- rha: num/den rounded to an integer, halves away from zero, with the sign of `n` (R163). -/
def rha (n : Int) (den : Nat) : Int :=
  let r := roundInt 1 false n.natAbs den
  if n < 0 then -(r.1 : Int) else r.1

/-! ## Special functions (R166): an enclosing interval in fixed point of 2^-K, rounded at both ends -/

/-- Fraction bits of the fixed-point work. -/
def sfuK : Nat := 320

/-- Σ over k < n of (−1)^(alt·k) · 1 / ((2k+1)·q^(2k+1)), scaled by 2^sfuK: atanh (alt = false) or atan of 1/q. -/
def invAtanSum (alt : Bool) (q : Nat) : Nat → Nat → Nat → Int → Int
  | 0, _, _, acc => acc
  | fuel + 1, k, pw, acc =>
    let term : Int := (pw / (2 * k + 1) : Nat)
    invAtanSum alt q fuel (k + 1) (pw / (q * q)) (if alt && k % 2 = 1 then acc - term else acc + term)

/-- ln 2 · 2^sfuK, within 2^10. -/
def ln2Fix : Nat := (2 * invAtanSum false 3 220 0 (2 ^ sfuK / 3) 0).toNat
/-- π · 2^sfuK, within 2^12 (Machin). -/
def piFix : Nat :=
  (16 * invAtanSum true 5 150 0 (2 ^ sfuK / 5) 0 - 4 * invAtanSum true 239 50 0 (2 ^ sfuK / 239) 0).toNat

/-- Σ over k of y^k/k! with y in fixed point, 0 ≤ y < 1. -/
def expSum (y : Nat) : Nat → Nat → Nat → Nat → Nat
  | 0, _, _, acc => acc
  | fuel + 1, k, term, acc => expSum y fuel (k + 1) (term * y / 2 ^ sfuK / k) (acc + term)

/-- An interval of positive rationals sharing a denominator: low, high, denominator. -/
abbrev Interval := Nat × Nat × Nat

/-- 2^(y/2^sfuK) for a signed fixed-point y, as an interval. -/
def exp2Fix (y : Int) (slack : Nat) : Interval :=
  let n := y / 2 ^ sfuK
  let r := (y % 2 ^ sfuK).toNat
  let m := expSum (r * ln2Fix / 2 ^ sfuK) 90 1 (2 ^ sfuK) 0
  let lo := m - slack
  let hi := m + slack
  if n < 0 then (lo, hi, 2 ^ sfuK * 2 ^ n.natAbs) else (lo * 2 ^ n.natAbs, hi * 2 ^ n.natAbs, 2 ^ sfuK)

/-- Alternating (or not) Σ of x^(2k+1)/((2k+1)!) and the like: `step k` divides the term for k. -/
def oddSum (x2 : Nat) (step : Nat → Nat) (out : Nat → Nat) : Nat → Nat → Nat → Int → Int
  | 0, _, _, acc => acc
  | fuel + 1, k, term, acc =>
    let v : Int := (term / out k : Nat)
    oddSum x2 step out fuel (k + 1) (term * x2 / 2 ^ sfuK / step (k + 1)) (if k % 2 = 1 then acc - v else acc + v)

/-- sin(π·t) for 0 ≤ t ≤ 1/2 given as num/den, as an interval. -/
def sinPiFix (num den : Nat) : Interval :=
  let x := piFix * num / den
  let s := oddSum (x * x / 2 ^ sfuK) (fun k => 2 * k * (2 * k + 1)) (fun _ => 1) 80 0 x 0
  ((s - 2 ^ 40).toNat, (s + 2 ^ 40).toNat, 2 ^ sfuK)

/-- erf(x) for 0 < x < 4 given as num/den, as an interval. -/
def erfFix (num den : Nat) : Interval :=
  let x := 2 ^ sfuK * num / den
  let s := oddSum (x * x / 2 ^ sfuK) (fun k => k) (fun k => 2 * k + 1) 140 0 x 0
  let rootPi := isqrt (piFix * 2 ^ sfuK)
  let v := (2 * s * 2 ^ sfuK / rootPi)
  ((v - 2 ^ 90).toNat, (v + 2 ^ 90).toNat, 2 ^ sfuK)

/-- Σ of 2·z^(2k+1)/(2k+1), z = (m−1)/(m+1): ln m for 1 ≤ m < 2 in fixed point. -/
def atanhSum (z2 : Nat) : Nat → Nat → Nat → Nat → Nat
  | 0, _, _, acc => acc
  | fuel + 1, k, term, acc => atanhSum z2 fuel (k + 1) (term * z2 / 2 ^ sfuK) (acc + term / (2 * k + 1))

/-- |log2(num/den)| with its sign, for a ratio that is no power of two. -/
def log2Fix (num den : Nat) : Bool × Interval :=
  let e := ilog2 num den
  let v := scale2 den e
  -- m = num/(den·2^e) in [1, 2)
  let m := 2 ^ sfuK * num * v.2 / v.1
  let z := (m - 2 ^ sfuK) * 2 ^ sfuK / (m + 2 ^ sfuK)
  let ln := 2 * atanhSum (z * z / 2 ^ sfuK) 110 0 z 0
  let r : Int := e * 2 ^ sfuK + (ln * 2 ^ sfuK / ln2Fix : Nat)
  (decide (r < 0), ((r.natAbs - 2 ^ 40), (r.natAbs + 2 ^ 40), 2 ^ sfuK))

/-- e^x for x = ±num/den with |x| < 256, as an interval. -/
def expFix (neg : Bool) (num den : Nat) : Interval :=
  let y : Int := (2 ^ sfuK * 2 ^ sfuK * num / (den * ln2Fix) : Nat)
  exp2Fix (if neg then -y else y) (2 ^ 60)

/-- Round an interval: the common result of both ends, or none where they differ. -/
def roundInterval (F : FpFmt) (neg : Bool) (v : Interval) : Option (Nat × FlagBits) :=
  let a := fpRound F 0 neg v.1 v.2.2
  let b := fpRound F 0 neg v.2.1 v.2.2
  if a.1 = b.1 then some (a.1, (a.2 ||| b.2) ||| 16) else none

/-- The special function `op` of R166 (0 FEXP2 … 8 FSIGM) on a lane: result and flags, or none where the interval does
not decide the rounding (log 30). -/
def sfuLane (op : Nat) (F : FpFmt) (x : Nat) : Option (Nat × FlagBits) :=
  let one := F.bias * 2 ^ F.mbits
  match fpDecode F x with
  | .nan s => some (F.nan, if s then 1 else 0)
  | .inf n =>
    if op = 0 then some (if n then 0 else F.inf false, 0)
    else if op = 1 then some (if n then (F.nan, 1) else (F.inf false, 0))
    else if op = 2 then some (F.signBit n, 0)
    else if op = 3 then some (if n then (F.nan, 1) else (0, 0))
    else if op = 4 ∨ op = 5 then some (F.nan, 1)
    else if op = 6 ∨ op = 7 then some (F.signBit n + one, 0)
    else some (if n then 0 else one, 0)
  | .fin n num den =>
    if op = 0 then
      if num = 0 then some (one, 0)
      else if num % den = 0 then
        -- an integer power is exact before it is narrowed
        let k := num / den
        if 2000 < k then some (if n then fpRound F 0 false 1 (2 ^ 2000) else fpRound F 0 false (2 ^ 2000) 1)
        else some (if n then fpRound F 0 false 1 (2 ^ k) else fpRound F 0 false (2 ^ k) 1)
      else if 2000 * den < num then
        some (if n then fpRound F 0 false 1 (2 ^ 2000) else fpRound F 0 false (2 ^ 2000) 1)
      else
        let y : Int := (2 ^ sfuK * num / den : Nat)
        roundInterval F false (exp2Fix (if n then -y else y) (2 ^ 40))
    else if op = 1 then
      if num = 0 then some (F.inf true, 2)
      else if n then some (F.nan, 1)
      else
        let e := ilog2 num den
        let v := scale2 den e
        if num * v.2 = v.1 then some (fpRound F 0 (decide (e < 0)) e.natAbs 1)
        else
          let r := log2Fix num den
          roundInterval F r.1 r.2
    else if op = 2 then
      if num = 0 then some (F.inf n, 2) else some (fpRound F 0 n den num)
    else if op = 3 then
      if num = 0 then some (F.inf n, 2)
      else if n then some (F.nan, 1)
      else
        let r := sqrtSticky den num (600 + Nat.log2 num)
        some (fpRound F 0 false r.1 r.2)
    else if op = 4 then
      -- sin(πx): reduce |x| mod 2 to [0, 1/2] with a sign
      let r := num % (2 * den)
      let half := r / den
      let q := r % den
      if q = 0 then some (F.signBit n, 0)
      else
        let sgn := n != (half = 1)
        if 2 * q = den then some (F.signBit sgn + one, 0)
        else roundInterval F sgn (sinPiFix (if den < 2 * q then den - q else q) den)
    else if op = 5 then
      -- cos(πx) = sin(π(x + 1/2))
      let r := (2 * num + den) % (4 * den)
      let half := r / (2 * den)
      let q := r % (2 * den)
      if q = 0 then some (0, 0)
      else
        let sgn := half = 1
        if q = den then some (F.signBit sgn + one, 0)
        else roundInterval F sgn (sinPiFix (if den < q then 2 * den - q else q) (2 * den))
    else if op = 6 then
      if num = 0 then some (F.signBit n, 0)
      else if 10 * den ≤ num then roundInterval F n (2 ^ 27 - 1, 2 ^ 27, 2 ^ 27)
      else
        -- tanh x = (E − 1)/(E + 1), E = e^(2x)
        let e := expFix false (2 * num) den
        roundInterval F n ((e.1 - e.2.2) * 2 ^ sfuK / (e.1 + e.2.2), ((e.2.1 - e.2.2) * 2 ^ sfuK / (e.2.1 + e.2.2)) + 1,
          2 ^ sfuK)
    else if op = 7 then
      if num = 0 then some (F.signBit n, 0)
      else if 4 * den ≤ num then roundInterval F n (2 ^ 26 * 3 - 4, 2 ^ 26 * 3, 2 ^ 26 * 3)
      else roundInterval F n (erfFix num den)
    else
      if num = 0 then some (one - 2 ^ F.mbits, 0)
      else if 200 * den ≤ num then
        (if n then some (fpRound F 0 false 1 (2 ^ 250)) else roundInterval F false (2 ^ 200 - 1, 2 ^ 200, 2 ^ 200))
      else
        -- 1/(1 + e^−x) = e^x/(e^x + 1) for negative x
        let e := expFix true num den
        if n then roundInterval F false (e.1 * 2 ^ (2 * sfuK) / (e.1 + e.2.2), e.2.1 * 2 ^ (2 * sfuK) / (e.2.1 + e.2.2) + 1,
                    2 ^ (2 * sfuK))
        else roundInterval F false (e.2.2 * 2 ^ sfuK / (e.2.1 + e.2.2), e.2.2 * 2 ^ sfuK / (e.1 + e.2.2) + 1, 2 ^ sfuK)

end Sys2Proof.Machine
end

