-- ==== Sys2Proof/Machine/Rings.lean ====
section
/-! DEFINITION. Ring-sets (R120-R126): the reset tables as the tightest enclosures over the reset ring, the binary and
unary operations on masks, and the RC8 byte. -/

namespace Sys2Proof.Machine

/-! ## The reset tables (R121, R124)

The points of the reset ring are held in halves; ∞ bounds an arc as a number far beyond every point. Every arc lies on
one side of zero, and the reciprocal or negation of an element is an element. -/

/-- A connected set of reals: a point, or an open interval; numbers in quarters. -/
structure Span where
  lo : Int
  hi : Int
deriving DecidableEq, Repr

def Span.isPoint (x : Span) : Bool := decide (x.lo = x.hi)

/-- The reset ring's points p0-p6 in halves. -/
def resetPoint (k : Nat) : Int := [-4, -2, -1, 0, 1, 2, 4].getD k 0

/-- The bound that stands for ∞ at the end of an arc. -/
def farOut : Int := 1000000

/-- Element `e` of the reset ring, without ∞ itself, in halves. -/
def resetElement (e : Nat) : Span :=
  if e = 13 then ⟨4, farOut⟩
  else if e = 15 then ⟨-farOut, -4⟩
  else if e % 2 = 0 then ⟨resetPoint (e / 2), resetPoint (e / 2)⟩
  else ⟨resetPoint (e / 2), resetPoint (e / 2 + 1)⟩

/-- The span in quarters meets element `e`. -/
def Span.meets (x : Span) (e : Nat) : Bool :=
  if e = 14 then false
  else
    let y := resetElement e
    let lo := 2 * y.lo
    let hi := 2 * y.hi
    if y.isPoint then (if x.isPoint then decide (x.lo = lo) else decide (x.lo < lo ∧ lo < x.hi))
    else if x.isPoint then decide (lo < x.lo ∧ x.lo < hi)
    else decide (x.lo < hi ∧ lo < x.hi)

/-- The mask of the elements a span meets. -/
def Span.mask (x : Span) : Nat := upTo 16 (fun m e => if x.meets e then m ||| 2 ^ e else m) 0

/-- The element of −x. -/
def negElement (e : Nat) : Nat := if e ≤ 12 then 12 - e else if e = 13 then 15 else if e = 15 then 13 else 14
/-- The element of 1/x. -/
def recElement (e : Nat) : Nat := [4, 3, 2, 1, 0, 15, 14, 13, 12, 11, 10, 9, 8, 7, 6, 5].getD e 6

/-- Entry [i][j] of the add table. -/
def addEntry (i j : Nat) : Nat :=
  if i = 14 ∧ j = 14 then 0xFFFF
  else if i = 14 ∨ j = 14 then 2 ^ 14
  else
    let x := resetElement i
    let y := resetElement j
    (Span.mk (2 * (x.lo + y.lo)) (2 * (x.hi + y.hi))).mask

/-- Entry [i][j] of the multiply table. -/
def mulEntry (i j : Nat) : Nat :=
  if (i = 14 ∧ j = 6) ∨ (i = 6 ∧ j = 14) then 0xFFFF
  else if i = 14 ∨ j = 14 then 2 ^ 14
  else
    let x := resetElement i
    let y := resetElement j
    let ps := [x.lo * y.lo, x.lo * y.hi, x.hi * y.lo, x.hi * y.hi]
    (Span.mk (ps.foldl min (x.lo * y.lo)) (ps.foldl max (x.lo * y.lo))).mask

/-- Entry [i] of the square root table: element e meets √x where its points' squares bound it. -/
def sqrtEntry (i : Nat) : Nat :=
  if i = 14 then 2 ^ 14
  else
    let x := resetElement i
    if i = 15 ∨ x.hi < 0 ∨ (x.hi = 0 ∧ x.lo < 0) then 0xFFFF
    else
      upTo 16 (fun m e =>
        let y := resetElement e
        if e = 14 ∨ y.lo < 0 then m
        else if (Span.mk (2 * x.lo) (2 * x.hi)).isPoint then
          (if y.isPoint then (if y.lo * y.lo = 2 * x.lo then m ||| 2 ^ e else m)
           else if y.lo * y.lo < 2 * x.lo ∧ 2 * x.lo < y.hi * y.hi then m ||| 2 ^ e else m)
        else if y.isPoint then (if 2 * x.lo < y.lo * y.lo ∧ y.lo * y.lo < 2 * x.hi then m ||| 2 ^ e else m)
        else if 2 * x.lo < y.hi * y.hi ∧ y.lo * y.lo < 2 * x.hi then m ||| 2 ^ e else m) 0

/-- Entry [i] of the square table. -/
def squareEntry (i : Nat) : Nat := mulEntrySelf i
where
  /-- x² over one element: the span of the products of its own ends. -/
  mulEntrySelf (i : Nat) : Nat :=
    if i = 14 then 2 ^ 14
    else
      let x := resetElement i
      (Span.mk (min (x.lo * x.lo) (x.hi * x.hi)) (max (x.lo * x.lo) (x.hi * x.hi))).mask

/-- A table's entry at index `k` of its image in 16-bit words (R122), for the reset tables. -/
def resetTable (k : Nat) : Nat :=
  let i := k / 16 % 16
  let j := k % 16
  if k < 256 then addEntry i j
  else if k < 512 then addEntry i (negElement j)
  else if k < 768 then mulEntry i j
  else if k < 1024 then mulEntry i (recElement j)
  else if k < 1040 then 2 ^ negElement j
  else if k < 1056 then 2 ^ recElement j
  else if k < 1072 then squareEntry j
  else sqrtEntry j

/-- A core's table entry: the loaded image, or the reset tables. -/
def tableEntry (t : Option (List (BitVec 16))) (k : Nat) : Nat :=
  match t with
  | some l => (l.getD k 0).toNat
  | none => resetTable k

/-! ## Operations on masks (R123) -/

/-- Binary operation `op` (0 add, 1 subtract, 2 multiply, 3 divide). -/
def rsBinary (t : Option (List (BitVec 16))) (op a b : Nat) : Nat :=
  upTo 16 (fun m i => if a.testBit i then upTo 16 (fun m j => if b.testBit j then m ||| tableEntry t (op * 256 + i * 16 + j) else m) m
    else m) 0

/-- Unary operation `op` (0 negate, 1 reciprocal, 2 square, 3 square root). -/
def rsUnary (t : Option (List (BitVec 16))) (op a : Nat) : Nat :=
  upTo 16 (fun m i => if a.testBit i then m ||| tableEntry t (1024 + op * 16 + i) else m) 0

/-! ## RC8 (R125, R126) -/

/-- The mask of the run s, …, s+l, mod 16. -/
def runMask (s l : Nat) : Nat := upTo (l + 1) (fun m k => m ||| 2 ^ ((s + k) % 16)) 0

/-- Unpack an RC8 byte. -/
def rcUnpack (c : Nat) : Nat :=
  if c = 0xFF then 0 else if c % 16 = 15 then 0xFFFF else runMask (c / 16) (c % 16)

/-- The shortest covering run, the lowest start among equals: candidates in order of length, then start. -/
def rcPack (m : Nat) : Nat :=
  if m = 0 then 0xFF
  else
    match (List.range 240).find? (fun k => m &&& runMask (k % 16) (k / 16) == m) with
    | some k => (k % 16) * 16 + k / 16
    | none => 0x0F

end Sys2Proof.Machine
end

