-- ==== Sys2Proof/Machine/Memory.lean ====
section
/-! DEFINITION. Memory: the segment check (R193-R195), translation (R342-R347), where an access is performed (R196,
R202), homes, staging copies, L1 (R196, R200), windows (R130-R134), poison (R199), locks (R65), the store queue
(R197, R198) and the arithmetic of atomics (R213-R215). -/

namespace Sys2Proof.Machine

noncomputable section

/-! ## Segment check (R193-R195) -/

abbrev rightR : Nat := 0
abbrev rightW : Nat := 1
abbrev rightX : Nat := 2
abbrev rightA : Nat := 3
abbrev rightT : Nat := 4

def Seg.kind (g : Seg) : Nat := (g.attr.extractLsb' 8 3).toNat
/-- The size of the space of a kind (R195). -/
def spaceSize (kind : Nat) : Nat :=
  if kind ≤ 1 then 2 ^ 47 else if kind = 2 then 0x2000000 else if kind = 3 then 0x50000000
  else if kind = 4 then 2 ^ 57 else if kind = 5 then 2 ^ 61 else 0

/-- SegCheck of R193: the kind and the target offset in its space. -/
def segCheck (t : Thread) (addr : W64) (n right : Nat) : Except Stop (Nat × Nat) :=
  let g := t.seg (addr.extractLsb' 61 3).toNat
  let o := (addr.extractLsb' 0 61).toNat
  if g.kind = 6 ∨ g.kind = 7 ∨ g.attr.getLsbD right = false then .error (.trap SEGV addr)
  else if g.lim.toNat < o + n then .error (.trap SEGV addr)
  else if spaceSize g.kind < g.base.toNat + o + n then .error (.trap SEGV addr)
  else .ok (g.kind, g.base.toNat + o)

/-- Base plus offset; a carry into or borrow from the segment bits traps SEGV (R193). -/
def effAddr (base off : W64) : Except Stop W64 :=
  let ea := base + off
  if ea.extractLsb' 61 3 = base.extractLsb' 61 3 then .ok ea else .error (.trap SEGV ea)

/-! ## Translation (R342-R347) -/

/-- What an access asks of a leaf: bits of the pager record's ACC (R348). -/
abbrev accRead : BitVec 4 := 1
abbrev accWrite : BitVec 4 := 2
abbrev accAtomic : BitVec 4 := 4
abbrev accExec : BitVec 4 := 8

def leafCls (w : W64) : Nat := (w.extractLsb' 61 3).toNat
def leafUC (w : W64) : Bool := w.getLsbD 60
def leafPA (w : W64) : Nat := (w.extractLsb' 18 28).toNat * 4096
def leafLease (w : W64) : Nat := (w.extractLsb' 18 8).toNat

/-- A malformed entry at a level (R344): reserved bits, a class above 4, HMODE 3, HOME or PFN bits outside their use, a
frame that is not aligned to the page, a leaf at level 3. -/
def malformed (level : Nat) (w : W64) : Bool :=
  let leaf := decide (level = 0) || w.getLsbD 10
  w.extractLsb' 12 6 != 0 || w.extractLsb' 4 2 != 0 || (decide (level = 3) && w.getLsbD 10) ||
    (decide (level = 0) && w.getLsbD 10) ||
    (leaf &&
      (decide (4 < leafCls w) ||
        (match (w.extractLsb' 57 2).toNat with
         | 0 => w.extractLsb' 46 11 != 0
         | 1 => decide (1280 ≤ (w.extractLsb' 46 11).toNat)
         | 2 => w.extractLsb' 50 7 != 0
         | _ => true) ||
        (if leafCls w = 4 then w.extractLsb' 26 20 != 0
         else
           (decide (level = 1) && w.extractLsb' 18 9 != 0) || (decide (level = 2) && w.extractLsb' 18 18 != 0) ||
             (decide (level = 0) && w.getLsbD 11 && w.extractLsb' 18 4 != 0))))

/-- The result of a walk: a leaf, or a fault kind (R347): 0 ABSENT, 1 BAD, 2 MIGRATE. -/
inductive Walk where
  | leaf (l : Leaf)
  | fault (kind : BitVec 2)
deriving DecidableEq, Repr

/-- The 64-bit word at a physical address. -/
def ramWord (s : State) (pa : Nat) : W64 := BitVec.ofNat 64 (natOfBytes (mreadN s.mem.ram pa 8))

/-- Walk from the table at `table` for a level; each entry is read at its home (R342, R343). -/
def walkFrom (s : State) (dva : Nat) : Nat → Nat → Walk
  | 0, _ => .fault 0
  | fuel + 1, table =>
    let level := fuel
    let entry := table + 8 * (dva / 2 ^ (12 + 9 * level) % (if level = 3 then 256 else 512))
    let w := ramWord s entry
    if w.getLsbD 0 = false then .fault 0
    else if malformed level w then .fault 1
    else if level = 0 then .leaf { word := w, size := if w.getLsbD 11 then 65536 else 4096, entry := entry }
    else if w.getLsbD 10 then .leaf { word := w, size := 2 ^ (12 + 9 * level), entry := entry }
    else walkFrom s dva fuel (leafPA w)

/-- Every entry that a walk from a table reads lies on a die that does not relock (R18). -/
def walkOpen (s : State) (dva : Nat) : Nat → Nat → Bool
  | 0, _ => true
  | level + 1, table =>
    let entry := table + 8 * (dva / 2 ^ (12 + 9 * level) % (if level = 3 then 256 else 512))
    let w := ramWord s entry
    (s.die (entry / 2 ^ 38 % 4)).relock.isNone &&
      (!w.getLsbD 0 || malformed level w || decide (level = 0) || w.getLsbD 10 || walkOpen s dva level (leafPA w))

/-- A partition's walk of a DVA can be made now. -/
def walkReachable (s : State) (part dva : Nat) : Bool :=
  walkOpen s dva 4 (((s.part part).proot.extractLsb' 12 28).toNat * 4096)

/-- A partition's walk of a DVA; with translation not enabled every walk is ABSENT (R403, PROOT.EN). -/
def walk (s : State) (part dva : Nat) : Walk :=
  let r := (s.part part).proot
  if r.getLsbD 0 then walkFrom s dva 4 ((r.extractLsb' 12 28).toNat * 4096) else .fault 0

/-- The key of a translation-cache entry: partition, page and size. -/
def tlbKey (part dva size : Nat) : Nat :=
  (part * 2 ^ 35 + (dva - dva % size) / 4096) * 4 +
    (if size = 4096 then 0 else if size = 65536 then 1 else if size = 2 ^ 21 then 2 else 3)

/-- Look a page up in a cluster's translation cache (R342). -/
def tlbFind (c : Cluster) (part dva : Nat) : Option Leaf :=
  [4096, 65536, 2 ^ 21, 2 ^ 30].findSome? (fun size => tfind c.tlb (tlbKey part dva size))

/-- Enter a leaf; a full cache loses its entry of the lowest key (log 15). -/
def tlbPut (c : Cluster) (part dva : Nat) (l : Leaf) : Cluster :=
  let key := tlbKey part dva l.size
  let t := if c.tlb.length < 2048 || (tfind c.tlb key).isSome then c.tlb else c.tlb.drop 1
  { c with tlb := tput t key l }

/-- Does an access of kind `acc` write. -/
def accWrites (acc : BitVec 4) : Bool := acc &&& 6 != 0

/-- Do the leaf's rights allow the access (R347). -/
def leafAllows (w : W64) (acc : BitVec 4) : Bool :=
  (acc &&& 1 = 0 || w.getLsbD 1) && (acc &&& 2 = 0 || w.getLsbD 2) && (acc &&& 4 = 0 || (w.getLsbD 1 && w.getLsbD 2)) &&
    (acc &&& 8 = 0 || w.getLsbD 3)

/-- Set A, and D for a write, in the entry at its home (R344). -/
def setAD (s : State) (l : Leaf) (acc : BitVec 4) : State :=
  let w := ramWord s l.entry ||| (if accWrites acc then 0x300 else 0x100)
  { s with mem := { s.mem with ram := mwriteN s.mem.ram l.entry (bytesOfNat 8 w.toNat) } }

/-- A granule of a lease has been read or written by the borrower (R357). -/
def noteGranule (s : State) (part n dva : Nat) : State :=
  let p := s.part part
  let x := tget {} p.leases n
  s.setPart part { p with leases := tput p.leases n { x with accessed := sadd x.accessed ((dva - x.dva) / 2 ^ 21) } }

/-- Translate for a cluster: from its cache, or by a walk that enters a valid leaf and sets A and D. The leaf's word and
the physical address. -/
def translate (s : State) (clu part dva : Nat) (acc : BitVec 4) (eval : W64) : Except Stop (State × W64 × Nat) :=
  let found : Except Stop (State × Leaf) :=
    match tlbFind (s.cluster clu) part dva with
    | some l => .ok (s, l)
    | none =>
      if !walkReachable s part dva then .error (.walk dva eval)
      else
        match walk s part dva with
        | .fault k => .error (.page dva k acc eval)
        | .leaf l => .ok (s.setCluster clu (tlbPut (s.cluster clu) part dva l), l)
  match found with
  | .error e => .error e
  | .ok (s1, l) =>
    if leafCls l.word = 2 ∧ l.word.getLsbD 7 then .error (.page dva 2 acc eval)
    else if !leafAllows l.word acc then .error (.trap ACCESS eval)
    else if leafCls l.word = 3 ∧ accWrites acc then .error (.trap ACCESS eval)
    else
      let lease := tget {} (s1.part part).leases (leafLease l.word)
      if leafCls l.word = 4 ∧ lease.state = 3 then .error (.park 0x12 eval false [] [])
      else if leafCls l.word = 4 ∧ lease.state ≠ 2 then .error (.trap LEASEGONE eval)
      else
        let l' : Leaf := { l with word := l.word ||| (if accWrites acc then 0x300 else 0x100) }
        if l' ≠ l ∧ (s1.die (l.entry / 2 ^ 38 % 4)).relock.isSome then .error (.walk dva eval) else
        let s2 := if l' = l then s1 else (setAD s1 l acc).setCluster clu (tlbPut (s1.cluster clu) part dva l')
        let s3 := if leafCls l.word = 4 then noteGranule s2 part (leafLease l.word) dva else s2
        .ok (s3, l.word, leafPA l.word + dva % l.size)

/-! ## Homes (R200, R345) -/

/-- fold(v) of R345. -/
def foldDva (v : Nat) : Nat := bitsOf v 6 11 ^^^ bitsOf v 17 11 ^^^ bitsOf v 28 11 ^^^ bitsOf v 39 8

/-- The home core of a line (R345). -/
def homeOf (s : State) (part dva pa : Nat) (leaf : W64) : Nat :=
  let hashed := pa / 2 ^ 38 % 4 * 320 + foldDva dva % 320
  match (leaf.extractLsb' 57 2).toNat with
  | 1 => (leaf.extractLsb' 46 11).toNat
  | 2 =>
    let m := tget 0 (s.part part).hmask (leaf.extractLsb' 46 4).toNat
    let n := (m.extractLsb' 16 11).toNat
    if n = 0 then hashed else (m.extractLsb' 0 11).toNat + foldDva dva % n
  | _ => hashed

/-- The line is homed in the cluster. -/
def homedIn (s : State) (clu part dva pa : Nat) (leaf : W64) : Bool := clusterOf (homeOf s part dva pa leaf) == clu

/-- The key of a line in staging copies, L1 and constant caches. -/
def lineKey (part dva : Nat) : Nat := part * 2 ^ 41 + dva / 64

/-! ## Bytes at home and in a scratchpad, with poison by 16-byte chunk (R199) -/

/-- A byte of the range lies in a poisoned chunk. -/
def anyPoison (p : List Nat) (a n : Nat) : Bool := p.any (fun c => a < 16 * c + 16 && 16 * c < a + n)

/-- Chunks a write of `n` bytes at `a` covers whole lose their poison. -/
def clearPoison (p : List Nat) (a n : Nat) : List Nat := p.filter (fun c => !(a ≤ 16 * c && 16 * c + 16 ≤ a + n))

/-- Write bytes at home. -/
def ramWrite (m : Memory) (pa : Nat) (bs : List Byte) : Memory :=
  { m with ram := mwriteN m.ram pa bs, ramPoison := clearPoison m.ramPoison pa bs.length }

/-- Write bytes of a scratchpad. -/
def spadWrite (m : Memory) (core off : Nat) (bs : List Byte) : Memory :=
  let a := core * 2 ^ 20 + off
  { m with spad := mwriteN m.spad a bs, spadPoison := clearPoison m.spadPoison a bs.length }

def spadBytes (m : Memory) (core off n : Nat) : List Byte := mreadN m.spad (core * 2 ^ 20 + off) n
def spadPoisoned (m : Memory) (core off n : Nat) : Bool := anyPoison m.spadPoison (core * 2 ^ 20 + off) n

/-- Device memory, the scratchpads and the unassigned stacks are in canonical form: addresses strictly rising, no byte listed that reads
as an unlisted one. -/
def Memory.wf (m : Memory) : Bool := memWf m.ram && memWf m.spad && memWf m.stack

/-! ## Staging copies (R200) -/

def Staged.byte (c : Staged) (i : Nat) : Byte := c.data.extractLsb' (8 * i) 8
/-- Set byte i. -/
def setByte (d : BitVec 512) (i : Nat) (b : Byte) : BitVec 512 :=
  (d &&& ~~~((0xFF#512) <<< (8 * i))) ||| ((b.setWidth 512) <<< (8 * i))
def setBit (m : W64) (i : Nat) : W64 := m ||| (1#64 <<< i)

/-- Merge the dirty bytes of a copy into its line at home; a wholly dirty chunk clears the home's poison (R199). -/
def mergeCopy (m : Memory) (c : Staged) : Memory :=
  let ram := upTo 64 (fun r i => if c.dirty.getLsbD i then mwrite r (c.pa + i) (c.byte i) else r) m.ram
  let whole (k : Nat) : Bool := (c.dirty.extractLsb' (16 * (k % 4)) 16) == 0xFFFF
  { m with ram := ram,
           ramPoison := m.ramPoison.filter (fun k => !(c.pa / 16 ≤ k && k < c.pa / 16 + 4 && whole k)) }

/-- Merge a cluster's write-backs that are still on their way, in order (R200). -/
def flushWb (s : State) (clu : Nat) : State :=
  let c := s.cluster clu
  match c.wb with
  | [] => s
  | l => { s.setCluster clu { c with wb := [] } with mem := l.foldl (fun m w => mergeCopy m w.copy) s.mem }

/-- Write back the dirty bytes of one copy and keep it clean. -/
def writeBackLine (s : State) (clu key : Nat) : State :=
  let s := flushWb s clu
  let c := s.cluster clu
  match tfind c.staging key with
  | none => s
  | some l =>
    if l.dirty = 0 then s
    else { s.setCluster clu { c with staging := tput c.staging key { l with dirty := 0 } } with mem := mergeCopy s.mem l }

/-- Drop one copy without write-back. -/
def dropLine (s : State) (clu key : Nat) : State :=
  let c := s.cluster clu
  s.setCluster clu { c with staging := tdel c.staging key }

/-- Write back every dirty line of a cluster that a release or drain moves: all classes but SM (R201). -/
def drainCluster (s : State) (clu : Nat) : State :=
  let s := flushWb s clu
  let c := s.cluster clu
  let move (l : Staged) : Bool := l.cls != 1 && l.dirty != 0
  let mem := c.staging.foldl (fun m kl => if move kl.2 then mergeCopy m kl.2 else m) s.mem
  { s.setCluster clu { c with staging := c.staging.map (fun kl => (kl.1, if move kl.2 then { kl.2 with dirty := 0 } else kl.2)) }
    with mem := mem }

/-- Drop the clean bytes of a cluster's copies, SM apart; a copy with dirty bytes keeps those (R201, log 16). -/
def dropClean (s : State) (clu : Nat) : State :=
  let c := s.cluster clu
  s.setCluster clu { c with
    staging := (c.staging.map (fun kl =>
      (kl.1, if kl.2.cls = 1 then kl.2 else { kl.2 with valid := kl.2.dirty }))).filter
        (fun kl => kl.2.cls = 1 || kl.2.valid != 0) }

/-- The lines that a cluster's slices hold: 2,048 KiB each, 1,792 KiB in DEC-TED mode (R11, R396), less the 1,536 KiB of a victim core's
slice (R352). -/
def stageCap (s : State) (clu : Nat) : Nat :=
  (if (s.die (dieOfCluster clu)).dected then 114688 else 131072) -
    24576 * (s.cores.filter (fun c => c.2.vict && clusterOf c.1 == clu)).length

/-- Put a line's copy into a cluster that holds `cap` lines; in a full cluster the copy of the lowest key is evicted (R200, log 89). -/
def stagePut (cap : Nat) (c : Cluster) (key : Nat) (l : Staged) : Cluster :=
  match c.staging with
  | (k, x) :: rest =>
    if c.staging.length < cap || (tfind c.staging key).isSome then { c with staging := tput c.staging key l }
    else { c with staging := tput rest key l, wb := if x.dirty = 0 then c.wb else c.wb ++ [{ key := k, copy := x }] }
  | [] => { c with staging := [(key, l)] }

/-- A copy's home, and the device memory that holds its line, lie on dies that do not relock (R18). -/
def homeUp (s : State) (l : Staged) : Bool :=
  (s.die (dieOf l.home)).relock.isNone && (s.die (l.pa / 2 ^ 38 % 4)).relock.isNone

/-- Every line that a drain of the cluster moves, and every write-back on its way, can reach its home (R18). -/
def drainOpen (s : State) (clu : Nat) : Bool :=
  let c := s.cluster clu
  c.wb.all (fun w => homeUp s w.copy) && c.staging.all (fun kl => kl.2.cls = 1 || kl.2.dirty = 0 || homeUp s kl.2)

/-- Fill the invalid bytes of a line's copy from home, allocating it (R200). -/
def fillLine (s : State) (clu part dva pa : Nat) (leaf : W64) : State × Staged :=
  let s := flushWb s clu
  let base := pa - pa % 64
  let c := s.cluster clu
  let l := (tfind c.staging (lineKey part dva)).getD
    { pa := base, data := 0, valid := 0, dirty := 0, cls := BitVec.ofNat 3 (leafCls leaf), poison := 0,
      home := homeOf s part dva pa leaf }
  let d := upTo 64 (fun d i => if l.valid.getLsbD i then d else setByte d i (mread s.mem.ram (base + i))) l.data
  let newPoison (k : Nat) : Bool :=
    (l.valid.extractLsb' (16 * k) 16) != 0xFFFF && s.mem.ramPoison.contains (base / 16 + k)
  let p := upTo 4 (fun p k => if newPoison k then p ||| (1#4 <<< k) else p) l.poison
  let l' : Staged := { l with data := d, valid := ~~~0#64, poison := p }
  (s.setCluster clu (stagePut (stageCap s clu) c (lineKey part dva) l'), l')

/-- The home's line, and whether a chunk of it is poisoned. -/
def homeLine (s : State) (pa : Nat) : BitVec 512 × Bool :=
  let base := pa - pa % 64
  (BitVec.ofNat 512 (natOfBytes (mreadN s.mem.ram base 64)), anyPoison s.mem.ramPoison base 64)

/-- Bytes of a line. -/
def lineBytes (d : BitVec 512) (off : Nat) : Nat → List Byte
  | 0 => []
  | n + 1 => d.extractLsb' (8 * off) 8 :: lineBytes d (off + 1) n

/-- Put a line into a table of `n` lines; a full table loses its line of the lowest key (log 89). -/
def linePut (n : Nat) (t : Tab (BitVec 512)) (key : Nat) (d : BitVec 512) : Tab (BitVec 512) :=
  tput (if t.length < n || (tfind t key).isSome then t else t.drop 1) key d

/-- Allocate a line without poison into a core's L1 of 1,536 KiB (R11, R196, log 17). -/
def l1Put (s : State) (core part dva : Nat) (d : BitVec 512) : State :=
  let c := s.core core
  s.setCore core { c with l1 := linePut 24576 c.l1 (lineKey part dva) d }
def l1Drop (s : State) (core part dva : Nat) : State :=
  let c := s.core core
  s.setCore core { c with l1 := tdel c.l1 (lineKey part dva) }
/-- Empty a core's L1. -/
def l1Clear (s : State) (core : Nat) : State := s.setCore core { s.core core with l1 := [] }

/-! ## Accesses that cross a line

An access is aligned in its segment; a segment's BASE need not be (R193, R220), so the bytes may lie in two lines, which are
accessed one after the other (log 90). -/

/-- Bytes of an access that lie in its first line. -/
def firstPart (dva n : Nat) : Nat := Nat.min n (64 - dva % 64)

/-- Physical address and leaf of the byte `m` after the first of an access; its page has been translated with the first. -/
def partAt (s : State) (clu part dva pa : Nat) (leaf : W64) (m : Nat) : Nat × W64 :=
  if dva % 4096 + m < 4096 then (pa + m, leaf)
  else
    match tlbFind (s.cluster clu) part (dva + m), walk s part (dva + m) with
    | some l, _ | none, .leaf l => (leafPA l.word + (dva + m) % l.size, l.word)
    | none, .fault _ => (pa + m, leaf)

/-- Bytes of an access at home, and poison. -/
def homeRead (s : State) (clu part dva pa n : Nat) : List Byte × Bool :=
  let m := firstPart dva n
  let q := (partAt s clu part dva pa 0 m).1
  (mreadN s.mem.ram pa m ++ mreadN s.mem.ram q (n - m), anyPoison s.mem.ramPoison pa m || anyPoison s.mem.ramPoison q (n - m))

/-- Write bytes at home. -/
def homeWrite (s : State) (clu part dva pa : Nat) (bs : List Byte) : State :=
  let m := firstPart dva bs.length
  if bs.length ≤ m then { s with mem := ramWrite s.mem pa bs }
  else { s with mem := ramWrite (ramWrite s.mem pa (bs.take m)) (partAt s clu part dva pa 0 m).1 (bs.drop m) }

/-- A byte of the range that is not taken from the store queue lies in a poisoned chunk of a copy (R198, R199). -/
def copyPoisoned (l : Staged) (dva n : Nat) (taken : Mem) : Bool :=
  (List.range n).any (fun i => l.poison.getLsbD ((dva % 64 + i) / 16) && (tfind taken (dva + i)).isNone)

/-- Where a global access to one line finds its bytes at once (R196): bytes, poison, latency; none where the thread parks. A
byte taken from the store queue need not be valid in the copy (R198). Bytes of a copy that no fill can complete while the home's
die relocks (R18) are read without a fill. -/
def tryLine (s : State) (core part dva n pa : Nat) (leaf : W64) (taken : Mem) : Option (State × List Byte × Bool × Nat) :=
  let clu := clusterOf core
  let near := homedIn s clu part dva pa leaf
  if leafUC leaf then
    if near then some (s, mreadN s.mem.ram pa n, anyPoison s.mem.ramPoison pa n, 24) else none
  else
    match tfind (s.core core).l1 (lineKey part dva) with
    | some d => some (s, lineBytes d (dva % 64) n, false, 10)
    | none =>
      if near then
        let h := homeLine s pa
        some (if h.2 then s else l1Put s core part dva h.1, mreadN s.mem.ram pa n, anyPoison s.mem.ramPoison pa n, 24)
      else
        match tfind (s.cluster clu).staging (lineKey part dva) with
        | none => none
        | some l =>
          if (List.range n).all (fun i => l.valid.getLsbD (dva % 64 + i) || (tfind taken (dva + i)).isSome) then
            if l.valid ≠ ~~~0#64 ∧ (s.die (dieOf l.home)).relock.isSome then
              some (s, lineBytes l.data (dva % 64) n, copyPoisoned l dva n taken, 24)
            else
              let f := fillLine s clu part dva pa leaf
              some (if f.2.poison = 0 then l1Put f.1 core part dva f.2.data else f.1, lineBytes f.2.data (dva % 64) n,
                copyPoisoned f.2 dva n taken, 24)
          else none

/-- The same for an access that may reach into a second line. -/
def tryLoad (s : State) (core part dva n pa : Nat) (leaf : W64) (taken : Mem) : Option (State × List Byte × Bool × Nat) :=
  let m := firstPart dva n
  match tryLine s core part dva m pa leaf taken with
  | none => none
  | some r =>
    if n ≤ m then some r
    else
      let q := partAt s (clusterOf core) part dva pa leaf m
      (tryLine r.1 core part (dva + m) (n - m) q.1 q.2 taken).map (fun x =>
        (x.1, r.2.1 ++ x.2.1, r.2.2.1 || x.2.2.1, Nat.max r.2.2.2 x.2.2.2))

/-- An access to one line performed when its reply arrives: a fill of the copy, or a read at a remote home. -/
def lateLine (s : State) (core part dva n pa : Nat) (leaf : W64) (taken : Mem) : State × List Byte × Bool :=
  match tryLine s core part dva n pa leaf taken with
  | some r => (r.1, r.2.1, r.2.2.1)
  | none =>
    if leafUC leaf then (s, mreadN s.mem.ram pa n, anyPoison s.mem.ramPoison pa n)
    else
      let f := fillLine s (clusterOf core) part dva pa leaf
      (if f.2.poison = 0 then l1Put f.1 core part dva f.2.data else f.1, lineBytes f.2.data (dva % 64) n, copyPoisoned f.2 dva n taken)

/-- The same for an access that may reach into a second line. -/
def lateLoad (s : State) (core part dva n pa : Nat) (leaf : W64) (taken : Mem) : State × List Byte × Bool :=
  let m := firstPart dva n
  let r := lateLine s core part dva m pa leaf taken
  if n ≤ m then r
  else
    let q := partAt s (clusterOf core) part dva pa leaf m
    let x := lateLine r.1 core part (dva + m) (n - m) q.1 q.2 taken
    (x.1, r.2.1 ++ x.2.1, r.2.2 || x.2.2)

/-- Write bytes of one global line at its point of R196; L1 is written through, never allocated (R200). -/
def lineWrite (s : State) (core part dva pa : Nat) (leaf : W64) (bs : List Byte) : State :=
  let clu := clusterOf core
  let k := lineKey part dva
  let off := dva % 64
  let put (d : BitVec 512) : BitVec 512 := (bs.zipIdx off).foldl (fun d x => setByte d x.2 x.1) d
  let s1 :=
    match tfind (s.core core).l1 k with
    | some d => s.setCore core { s.core core with l1 := tput (s.core core).l1 k (put d) }
    | none => s
  if leafUC leaf || homedIn s clu part dva pa leaf then { s1 with mem := ramWrite s1.mem pa bs }
  else
    let c := s1.cluster clu
    let l := (tfind c.staging k).getD
      { pa := pa - pa % 64, data := 0, valid := 0, dirty := 0, cls := BitVec.ofNat 3 (leafCls leaf), poison := 0,
        home := homeOf s part dva pa leaf }
    let mark (m : W64) : W64 := upTo bs.length (fun m i => setBit m (off + i)) m
    let l' : Staged := { l with
      data := put l.data, valid := mark l.valid, dirty := mark l.dirty,
      poison := if bs.length = 16 ∧ off % 16 = 0 then l.poison &&& ~~~(1#4 <<< (off / 16)) else l.poison }
    s1.setCluster clu (stagePut (stageCap s1 clu) c k l')

/-- Write bytes of a global access, line by line. -/
def globalWrite (s : State) (core part dva pa : Nat) (leaf : W64) (bs : List Byte) : State :=
  let m := firstPart dva bs.length
  if bs.length ≤ m then lineWrite s core part dva pa leaf bs
  else
    let q := partAt s (clusterOf core) part dva pa leaf m
    lineWrite (lineWrite s core part dva pa leaf (bs.take m)) core part (dva + m) q.1 q.2 (bs.drop m)

/-! ## Windows (R130-R134) -/

def winValid (w : Nat) : Nat := [0x100000, 0x400000, 0x200000, 0x400000, 0x200000, 0x200000, 0x400000, 0x40000].getD w 0
/-- Bytes of a view element. -/
def winView (w : Nat) : Nat := [1, 4, 4, 2, 2, 4, 4, 4].getD w 1
/-- Bytes of storage of an element. -/
def winStored (w : Nat) : Nat := [1, 1, 2, 1, 1, 2, 1, 0].getD w 1
/-- First storage byte of view offset v. -/
def winByte (w v : Nat) : Nat := if w = 0 then v else if w = 2 ∨ w = 4 ∨ w = 5 then v / 2 else v / 4

/-- The scale byte of a K64 element: WSCB + floor(s/32). -/
def scaleByte (wscb : BitVec 20) (storage : Nat) : Nat := wscb.toNat + storage / 32

/-- A float value scaled by 2^e. -/
def Fp.scaled (e : Int) : Fp → Fp
  | .fin s n d => if e < 0 then .fin s n (d * 2 ^ e.natAbs) else .fin s (n * 2 ^ e.natAbs) d
  | x => x

/-- A float as F32 or B16, rounded RNE. -/
def fpBits (F : FpFmt) (x : Fp) : Nat :=
  match x with
  | .nan _ => F.nan
  | .inf s => F.inf s
  | .fin s n d => (fpRound F 0 s n d).1

/-- One element read through a window W1-W6 of a scratchpad (R131). -/
def winElement (m : Memory) (core w v : Nat) (wscb : BitVec 20) : Nat :=
  let st := winByte w v
  let x := natOfBytes (spadBytes m core st (winStored w))
  match w with
  | 1 => fpBits f32 (e43Decode x)
  | 2 => if fpDecode b16 x |>.isNaN then 0x7FC00000 else x * 2 ^ 16
  | 3 =>
    let e := natOfBytes (spadBytes m core (scaleByte wscb st) 1)
    if e = 0xFF then 0x7FC0
    else fpBits b16 ((e21Decode (if v / 2 % 2 = 1 then x / 16 else x % 16)).scaled ((e : Int) - 127))
  | 4 => rcUnpack x
  | 5 => fpBits f32 (qValue (signedOf 16 x) 15)
  | _ => (BitVec.ofInt 32 (signedOf 8 x)).toNat

/-- One accumulator element through W7 (R133): pairs are held {odd, even}. -/
def accElement (a : CoreArch) (v : Nat) : Nat :=
  let p := tget 0 a.acc (v / 4)
  addF32 (p.extractLsb' 0 32).toNat (p.extractLsb' 32 32).toNat

/-- The chunks a window element reads: storage and, for W3, its scale byte, or the accumulator pair. -/
def winPoisoned (m : Memory) (a : CoreArch) (core w v : Nat) (wscb : BitVec 20) : Bool :=
  if w = 7 then a.accPoison.contains (v / 4)
  else spadPoisoned m core (winByte w v) (winStored w) ||
    (decide (w = 3) && spadPoisoned m core (scaleByte wscb (winByte w v)) 1)

/-- Read `n` bytes through a window, each element alone (R134): bytes and poison. -/
def winRead (m : Memory) (a : CoreArch) (core w v n : Nat) (wscb : BitVec 20) : List Byte × Bool :=
  let one (k : Nat) : List Byte × Bool :=
    let v' := v + k * winView w
    (bytesOfNat (winView w) (if w = 7 then accElement a v' else winElement m core w v' wscb),
      winPoisoned m a core w v' wscb)
  let all := (List.range (n / winView w)).map one
  (all.flatMap (·.1), all.any (·.2))

/-- Write one storage byte of a masked read-modify-write: the chunk keeps its poison (R132, R199). -/
def mergeByte (m : Memory) (core off : Nat) (b : Byte) : Memory :=
  { m with spad := mwrite m.spad (core * 2 ^ 20 + off) b }

/-- Replace one nibble of a byte. -/
def setNibble (old : Byte) (hi : Bool) (x : Nat) : Byte :=
  if hi then BitVec.ofNat 8 (x % 16 * 16 + old.toNat % 16) else BitVec.ofNat 8 (old.toNat / 16 * 16 + x % 16)

/-- Write one element through a window W1-W6 (R132). -/
def winWriteElement (m : Memory) (core w v : Nat) (wscb : BitVec 20) (x : Nat) : Memory :=
  let st := winByte w v
  match w with
  | 1 => spadWrite m core st (bytesOfNat 1 (e43Round (fpDecode f32 x)).1)
  | 2 => spadWrite m core st (bytesOfNat 2 (fpBits b16 (fpDecode f32 x)))
  | 3 =>
    let sc := scaleByte wscb st
    let e := natOfBytes (spadBytes m core sc 1)
    let y := fpDecode b16 x
    let old := (spadBytes m core st 1).headD 0
    let hi := decide (v / 2 % 2 = 1)
    if y.isNaN then spadWrite (mergeByte m core st (setNibble old hi 0)) core sc [0xFF]
    else
      let k : Int := if e = 0xFF then 0 else 127 - (e : Int)
      mergeByte m core st (setNibble old hi (e21Round (y.scaled k)).1)
  | 4 => spadWrite m core st (bytesOfNat 1 (rcPack x))
  | 5 => spadWrite m core st (bytesOfNat 2 (qRound 16 (fpDecode f32 x)).1)
  | _ => mergeByte m core st (BitVec.ofInt 8 (satSigned 8 (signedOf 32 x)).1)

/-- Write bytes through a window; the storage bytes of a multi-element access are written as one, so whole chunks lose
their poison (R134, R199). -/
def winWrite (m : Memory) (core w v : Nat) (wscb : BitVec 20) (bs : List Byte) : Memory :=
  upTo (bs.length / winView w) (fun m k =>
    winWriteElement m core w (v + k * winView w) wscb (natOfBytes ((bs.drop (k * winView w)).take (winView w)))) m

/-! ## Scratchpad locks (R65) -/

/-- The first byte of a range that another slot's lock covers; `slot` 8 is an engine or remote access. -/
def lockedByte (a : CoreArch) (slot lo n : Nat) : Option Nat :=
  (List.range n).map (lo + ·) |>.find? (fun b => a.locks.any (fun l => l.slot != slot && l.lo ≤ b && b < l.hi))

/-- Storage ranges a local access touches: first byte and count. -/
def winRanges (w v n : Nat) (wscb : BitVec 20) : List (Nat × Nat) :=
  if w = 0 then [(v, n)]
  else if w = 7 then []
  else
    let st := winByte w v
    let len := winByte w (v + n - winView w) + winStored w - st
    (st, len) :: (if w = 3 then [(scaleByte wscb st, scaleByte wscb (st + len - 1) + 1 - scaleByte wscb st)] else [])

/-! ## Arithmetic of atomics (R213-R215) -/

/-- New value of an integer atomic: operation code, bits, old value, operand. -/
def atomNew (op bits old v : Nat) : Nat :=
  match op with
  | 0 => (old + v) % 2 ^ bits
  | 1 => old &&& v
  | 2 => old ||| v
  | 3 => old ^^^ v
  | 4 => if signedOf bits v < signedOf bits old then v else old
  | 5 => if signedOf bits old < signedOf bits v then v else old
  | 6 => Nat.min old v
  | 7 => Nat.max old v
  | _ => v

/-- New value of one lane of a floating-point atomic: RNE, no flag, no flush (R214). -/
def fatomLane (op : Nat) (F : FpFmt) (x y : Nat) : Nat :=
  match op with
  | 0 => (fpAdd F 0 (fpDecode F x) (fpDecode F y)).1
  | 1 => (fpMinMax F false x y).1
  | _ => (fpMinMax F true x y).1

/-- New value of FATOM (one lane) or FATOMP (two): format 0 B16, 1 F32, 2 F64. -/
def fatomNew (op fmt lanes old v : Nat) : Nat :=
  let F := if fmt = 0 then b16 else if fmt = 1 then f32 else f64
  let w := F.width
  if lanes = 1 then fatomLane op F (old % 2 ^ w) (v % 2 ^ w)
  else fatomLane op F (old % 2 ^ w) (v % 2 ^ w) + 2 ^ w * fatomLane op F (old / 2 ^ w % 2 ^ w) (v / 2 ^ w % 2 ^ w)

/-- An atomic as data: bytes, operand, expected value of a CAS, scope, order bits (1 ACQ, 2 REL), destination. -/
structure Atomic where
  n : Nat
  scope : Nat
  acq : Bool
  rel : Bool
  a : Reg
  d : Reg
  b : Reg
  /-- 0 integer atomic, 1 floating point, 2 CAS -/
  cls : Nat
  op : Nat
  fmt : Nat
  lanes : Nat
deriving DecidableEq, Repr

/-- The new value, or none for a CAS that fails. -/
def Atomic.new (x : Atomic) (operand expected old : Nat) : Option Nat :=
  if x.cls = 2 then (if old = expected then some operand else none)
  else if x.cls = 1 then some (fatomNew x.op x.fmt x.lanes old operand)
  else some (atomNew x.op (8 * x.n) old operand)

/-- The atomic as a packet: at a target address, with its operand and expected value. -/
def Atomic.peerOp (x : Atomic) (dva v expected : Nat) (ret : Bool) : PeerOp :=
  if x.cls = 2 then .cas dva x.n expected v ret x.acq
  else if x.cls = 1 then .fatomic x.op x.fmt x.lanes dva v ret x.acq
  else .atomic x.op dva x.n v ret x.acq

/-- The value written to g_d: sign-extended 4 bytes, or zero-extended for floating point (R213-R215). -/
def Atomic.result (x : Atomic) (old : Nat) : List (Reg × W64) :=
  if x.d = 0 then []
  else if x.n = 16 then [(x.d, BitVec.ofNat 64 old), (x.d + 1, BitVec.ofNat 64 (old / 2 ^ 64))]
  else if x.cls ≠ 1 ∧ x.n = 4 then [(x.d, (BitVec.ofNat 32 old).signExtend 64)]
  else [(x.d, BitVec.ofNat 64 old)]

/-- Order field values: 0 RLX, 1 ACQ, 2 REL, 3 AR (R31). -/
def mkAtomic (n scope order : Nat) (a d b : Reg) (cls op fmt lanes : Nat) : Atomic :=
  { n := n, scope := scope, acq := order % 2 = 1, rel := 2 ≤ order, a := a, d := d, b := b, cls := cls, op := op, fmt := fmt,
    lanes := lanes }

/-- The atomic an instruction is. -/
def atomicOf : Instr → Option Atomic
  | .atomAddW s o b a d => some (mkAtomic 4 s.toNat o.toNat a d b 0 0 0 1)
  | .atomAndW s o b a d => some (mkAtomic 4 s.toNat o.toNat a d b 0 1 0 1)
  | .atomOrW s o b a d => some (mkAtomic 4 s.toNat o.toNat a d b 0 2 0 1)
  | .atomXorW s o b a d => some (mkAtomic 4 s.toNat o.toNat a d b 0 3 0 1)
  | .atomMinW s o b a d => some (mkAtomic 4 s.toNat o.toNat a d b 0 4 0 1)
  | .atomMaxW s o b a d => some (mkAtomic 4 s.toNat o.toNat a d b 0 5 0 1)
  | .atomMinuW s o b a d => some (mkAtomic 4 s.toNat o.toNat a d b 0 6 0 1)
  | .atomMaxuW s o b a d => some (mkAtomic 4 s.toNat o.toNat a d b 0 7 0 1)
  | .atomSwapW s o b a d => some (mkAtomic 4 s.toNat o.toNat a d b 0 8 0 1)
  | .atomAddD s o b a d => some (mkAtomic 8 s.toNat o.toNat a d b 0 0 0 1)
  | .atomAndD s o b a d => some (mkAtomic 8 s.toNat o.toNat a d b 0 1 0 1)
  | .atomOrD s o b a d => some (mkAtomic 8 s.toNat o.toNat a d b 0 2 0 1)
  | .atomXorD s o b a d => some (mkAtomic 8 s.toNat o.toNat a d b 0 3 0 1)
  | .atomMinD s o b a d => some (mkAtomic 8 s.toNat o.toNat a d b 0 4 0 1)
  | .atomMaxD s o b a d => some (mkAtomic 8 s.toNat o.toNat a d b 0 5 0 1)
  | .atomMinuD s o b a d => some (mkAtomic 8 s.toNat o.toNat a d b 0 6 0 1)
  | .atomMaxuD s o b a d => some (mkAtomic 8 s.toNat o.toNat a d b 0 7 0 1)
  | .atomSwapD s o b a d => some (mkAtomic 8 s.toNat o.toNat a d b 0 8 0 1)
  | .fatomFadd t s o b a d => some (mkAtomic (2 * 2 ^ t.toNat) s.toNat o.toNat a d b 1 0 t.toNat 1)
  | .fatomFmin t s o b a d => some (mkAtomic (2 * 2 ^ t.toNat) s.toNat o.toNat a d b 1 1 t.toNat 1)
  | .fatomFmax t s o b a d => some (mkAtomic (2 * 2 ^ t.toNat) s.toNat o.toNat a d b 1 2 t.toNat 1)
  | .fatompFadd t s o b a d => some (mkAtomic (4 * 2 ^ t.toNat) s.toNat o.toNat a d b 1 0 t.toNat 2)
  | .fatompFmin t s o b a d => some (mkAtomic (4 * 2 ^ t.toNat) s.toNat o.toNat a d b 1 1 t.toNat 2)
  | .fatompFmax t s o b a d => some (mkAtomic (4 * 2 ^ t.toNat) s.toNat o.toNat a d b 1 2 t.toNat 2)
  | .casW s o b a d => some (mkAtomic 4 s.toNat o.toNat a d b 2 0 0 1)
  | .casD s o b a d => some (mkAtomic 8 s.toNat o.toNat a d b 2 0 0 1)
  | .casQ s o b a d => some (mkAtomic 16 s.toNat o.toNat a d b 2 0 0 1)
  | _ => none

/-- The value of a register, or of a pair for 16 bytes, in the low `n` bytes. -/
def Thread.pairVal (t : Thread) (r : Reg) (n : Nat) : Nat :=
  if n = 16 then (t.rg r).toNat + 2 ^ 64 * (t.rg (r + 1)).toNat else (t.rg r).toNat % 2 ^ (8 * n)

/-! ## Resolving an access -/

/-- Kinds of access to check a local window for (R134). -/
inductive AccessKind where
  | load | store | nibble | atomic | tag | release
deriving DecidableEq, Repr

def AccessKind.acc : AccessKind → BitVec 4
  | .load | .tag => accRead
  | .store | .nibble | .release => accWrite
  | .atomic => 5

/-- Window checks of R134: the window, the view offset and the storage bounds. DESIGN CHOICE (log 112): a width that is no multiple of
the view element traps ALIGN before an access beyond the window's valid part traps SEGV; R134 gives no order. -/
def winCheck (k : AccessKind) (w v n : Nat) (wscb : BitVec 20) (ea : W64) : Except Stop Unit :=
  if w = 0 then need (v + n ≤ 0x100000) SEGV ea
  else if k = .atomic ∨ k = .tag ∨ k = .release then .error (.trap SEGV ea)
  else if w = 7 ∧ k ≠ .load then .error (.trap SEGV ea)
  else if k = .nibble then .error (.trap ALIGN ea)
  else if n % winView w ≠ 0 then .error (.trap ALIGN ea)
  else if winValid w < v + n then .error (.trap SEGV ea)
  else if w = 3 ∧ 0x100000 ≤ scaleByte wscb (winByte w v) then .error (.trap SEGV ea)
  else .ok ()

/-- Wait for a lock on the own scratchpad: WKIND 0x0C, EVAL the locked byte (R65). -/
def lockWait (s : State) (key w v n : Nat) (wscb : BitVec 20) (ea : W64) : Except Stop Unit :=
  let a := s.arch (coreOf key)
  if (s.thread key).pass then .ok ()
  else
    match (winRanges w v n wscb).findSome? (fun r => lockedByte a (slotOf key) r.1 r.2) with
    | none => .ok ()
    | some b => .error (.park 0x0C (if w = 0 then ea + BitVec.ofNat 64 (b - v) else ea) false [] [])

/-- The tile segment reaches only cores of the issuer's partition (R324). The scratchpad of a victim core holds victim pages, which only
the service cores reach, by message (R352): a tile access to it is refused like one to another partition's core (DESIGN CHOICE, log 114). -/
def tileAllowed (s : State) (core c : Nat) : Bool :=
  c == core || ((s.core c).asg && (s.core c).part == (s.core core).part && !(s.core c).vict)

/-- A no-return atomic of the thread with ACQ or AR has not executed: as an acquire it comes before every later access (R224, item 5). -/
def acquirePending (s : State) (key : Nat) : Bool :=
  ((s.core (coreOf key)).storeq ++ (s.thread key).cmp).any (fun e => e.slot == slotOf key && match e.op with
    | .atomic i _ => (atomicOf i).any (·.acq)
    | _ => false)

/-- Resolve a checked address of kind and target (R193) to the place where it is performed, translating at the cluster
port (R342) and waiting for locks of the own scratchpad (R65). -/
def resolve (s : State) (key : Nat) (ea : W64) (n : Nat) (k : AccessKind) (kind t : Nat) : Except Stop (State × Place) := do
  let core := coreOf key
  let wscb := (s.thread key).wscb
  if acquirePending s key then .error .hold
  if kind = 2 then
    let w := t / 0x400000
    let v := t % 0x400000
    winCheck k w v n wscb ea
    lockWait s key w v n wscb ea
    return (s, if w = 0 then .spad core v else .window core w v wscb)
  else if kind = 3 then
    let c := forwardCore s (s.thread key).kid (t / 0x100000)
    need (tileAllowed s core c) ACCESS ea
    if c = core then lockWait s key 0 (t % 0x100000) n wscb ea
    return (s, .spad c (t % 0x100000))
  else if kind = 4 then return (s, .peer (t / 2 ^ 47) (t % 2 ^ 47))
  else if kind = 5 then
    if s.host.atsOn ∧ !shas s.host.ats (t / 4096) then .error (.ats (t / 4096) ea)
    else return (s, .host t)
  else
    let r ← translate s (clusterOf core) (s.partOf core) t k.acc ea
    if t % 4096 + n ≤ 4096 then return (r.1, .global t r.2.2 r.2.1)
    let r2 ← translate r.1 (clusterOf core) (s.partOf core) ((t + n - 1) / 4096 * 4096) k.acc ea
    return (r2.1, .global t r.2.2 r.2.1)

/-- The package that performs a global BW access: the lender of its lease (R202). -/
def lenderOf (s : State) (part : Nat) (leaf : W64) : BitVec 10 := (tget {} (s.part part).leases (leafLease leaf)).lpkg

/-! ## The store queue (R197, R198) -/

/-- A store entry overlaps a range of the same space. -/
def overlaps (a m b n : Nat) : Bool := decide (a < b + n) && decide (b < a + m)

/-- Bytes a store entry writes at its place. -/
def StoreEntry.len (e : StoreEntry) : Nat := if e.bytes.isEmpty then 1 else e.bytes.length

/-- Bytes of a scratchpad that an access to a place of one touches: through W3 its scale bytes too (R132). -/
def Place.ranges (p : Place) (n : Nat) : List (Nat × Nat) :=
  match p with
  | .spad _ a => [(a, n)]
  | .window _ w v wscb => winRanges w v n wscb
  | _ => []

/-- Do two places share a byte. -/
def samePlace (p : Place) (m : Nat) (q : Place) (n : Nat) : Bool :=
  let both : Bool := (p.ranges m).any (fun x => (q.ranges n).any (fun y => overlaps x.1 x.2 y.1 y.2))
  match p, q with
  | .global a _ _, .global b _ _ => overlaps a m b n
  | .peer c a, .peer d b => c == d && overlaps a m b n
  | .host a, .host b => overlaps a m b n
  | .spad c _, .spad d _ | .spad c _, .window d _ _ _ | .window c _ _ _, .spad d _ | .window c _ _ _, .window d _ _ _ => c == d && both
  | _, _ => false

/-- An address of a place, for bytes taken from the store queue. -/
def Place.addr : Place → Nat
  | .spad c a => c * 2 ^ 20 + a
  | .window c w v _ => c * 2 ^ 20 + winByte w v
  | .global a _ _ => a
  | .peer _ a => a
  | .host a => a
  | .inbox k => k

/-- The thread's completed stores that share a byte with an access: those in its core's queue, and those in its store
comparator (R67). -/
def ownPending (s : State) (key : Nat) (p : Place) (n : Nat) : List StoreEntry :=
  ((s.core (coreOf key)).storeq ++ (s.thread key).cmp).filter (fun e => e.slot == slotOf key && samePlace e.place e.len p n)

/-- A pending entry whose bytes can be taken from the queue: a plain store, or a store-release. -/
def StoreEntry.plain (e : StoreEntry) : Bool :=
  match e.op with
  | .write | .release _ _ _ => true
  | _ => false

/-- Bytes of an access taken from the own store queue, latest first (R198). -/
def takenBytes (es : List StoreEntry) : Mem :=
  es.foldl (fun m e => (e.bytes.zipIdx e.place.addr).foldl (fun m x => tput m x.2 x.1) m) []

/-- Patch bytes read with bytes taken from the queue. -/
def patch (taken : Mem) (a : Nat) (bs : List Byte) : List Byte := (bs.zipIdx a).map (fun x => (tfind taken x.2).getD x.1)

/-- Every byte comes from the queue. -/
def allTaken (taken : Mem) (a n : Nat) : Bool := (List.range n).all (fun i => (tfind taken (a + i)).isSome)

/-- Enter a store in its core's queue; a full queue holds the instruction (R197). -/
def enqueueStore (s : State) (core : Nat) (e : StoreEntry) : Except Stop State :=
  let c := s.core core
  if c.storeq.length < 16 then .ok (s.setCore core { c with storeq := c.storeq ++ [e] }) else .error .hold

/-- A nibble or byte of a scratchpad entry performed at its scratchpad (R132, R211). -/
def spadPerform (m : Memory) (e : StoreEntry) : Memory :=
  match e.place, e.op with
  | .spad c a, .nibble hi => mergeByte m c a (setNibble ((spadBytes m c a 1).headD 0) hi (e.bytes.headD 0).toNat)
  | .spad c a, _ => spadWrite m c a e.bytes
  | .window c w v wscb, _ => winWrite m c w v wscb e.bytes
  | _, _ => m

end

end Sys2Proof.Machine
end

