-- ==== Sys2Proof/Machine/Order.lean ====
section
/-! DEFINITION. Ordering as mechanism (R201, R226): acquires, releases and drains, the points at which atomics execute
(R204), store streams to peers (R366, R370, R371), and the acceptance of store-queue entries (R197). -/

namespace Sys2Proof.Machine

noncomputable section

/-! ## Acquires and releases (R201, R226) -/

/-- The acquire actions at a scope (0 THR, 1 CORE, 2 CLU, 3 DIE, 4 DEV, 5 SYS) for a core and its cluster. -/
def acquireAt (s : State) (core scope : Nat) : State :=
  if scope < 2 then s
  else if scope = 2 then l1Clear s core
  else l1Clear (dropClean s (clusterOf core)) core

/-- The cores recorded at a line's home that an acquire drains (R201): all of them; of another die's, at DIE scope, whose release
does not synchronise with it (R225), only where the free value says so, since R236 has both outcomes of MP-DIE-XD (log 101). -/
def drained (s : State) (core scope : Nat) (l : List Nat) : List Nat :=
  l.filter (fun c => decide (scope ≠ 3) || dieOf c == dieOf core || s.freeWord.getLsbD 0)

/-- Drain the clusters of cores recorded at a line's home before the value of an acquire returns (R201). -/
def drainRecorded (s : State) (core scope pa : Nat) : State :=
  let line := pa / 64
  match tfind s.mem.records line with
  | none => s
  | some l =>
    let d := drained s core scope l
    let s1 := d.foldl (fun s c => drainCluster s (clusterOf c)) s
    let left := l.filter (fun c => !d.contains c)
    { s1 with mem := { s1.mem with records := if left.isEmpty then tdel s1.mem.records line else tput s1.mem.records line left },
              fresh := if scope = 3 then s1.fresh + 1 else s1.fresh }

/-- What an acquire at the line's home drains can reach its homes (R18). -/
def recordsOpen (s : State) (pa : Nat) : Bool := (tget [] s.mem.records (pa / 64)).all (fun c => drainOpen s (clusterOf c))

/-- A lazy release records its core at the location's home; a third drains the oldest first (R201). -/
def recordRelease (s : State) (pa core : Nat) : State :=
  let line := pa / 64
  let l := tget [] s.mem.records line
  if l.contains core then s
  else
    let s1 := if l.length < 2 then s else drainCluster s (clusterOf (l.headD 0))
    let l1 := if l.length < 2 then l else l.drop 1
    { s1 with mem := { s1.mem with records := tput s1.mem.records line (l1 ++ [core]) } }

/-- A location whose home records releases: a global line of LC, or HX while the device owns it (R226). -/
def Place.records : Place → Bool
  | .global _ _ leaf => leafCls leaf == 0 || leafCls leaf == 2
  | _ => false

/-- Write-backs of a release at a scope (R201): every dirty line of the cluster at DEV and SYS, and at DIE when eager. -/
def releaseMoves (s : State) (core scope : Nat) (lazy_ : Bool) : State :=
  if 4 ≤ scope ∨ (scope = 3 ∧ lazy_ = false) then drainCluster s (clusterOf core) else s

/-- The hold of a release (R232): the run has ended, and every earlier store of the thread is accepted. -/
def releaseHeld (s : State) (key : Nat) : Bool :=
  let t := s.thread key
  t.run.isSome || !t.cmp.isEmpty || (s.core (coreOf key)).storeq.any (fun e => e.slot == slotOf key)

/-- The release moves the cluster's dirty lines and a line's home cannot be reached (R18). -/
def movesHeld (s : State) (key scope : Nat) (lazy_ : Bool) : Bool :=
  (decide (4 ≤ scope) || (decide (scope = 3) && !lazy_)) && !drainOpen s (clusterOf (coreOf key))

/-- The hold of a release at a scope: for the thread's earlier stores, and for the lines it writes back. -/
def releaseWaits (s : State) (key scope : Nat) (lazy_ : Bool) : Bool := releaseHeld s key || movesHeld s key scope lazy_

/-! ## Points of execution (R204) -/

/-- Read and, where `f` gives a value, write `n` bytes of a scratchpad: old value and poison. -/
def atSpad (s : State) (core off n : Nat) (f : Nat → Option Nat) : State × Nat × Bool :=
  let old := natOfBytes (spadBytes s.mem core off n)
  if spadPoisoned s.mem core off n then (s, old, true)
  else
    match f old with
    | none => (s, old, false)
    | some v => ({ s with mem := spadWrite s.mem core off (bytesOfNat n v) }, old, false)

/-- At a home slice: the issuing cluster's dirty bytes are written back and its copy dropped first (R204); an acquire
drains the recorded clusters (R201). -/
def atHome (s : State) (core part dva pa n : Nat) (acq : Option Nat) (f : Nat → Option Nat) : State × Nat × Bool :=
  let clu := clusterOf core
  let leave (s : State) (dva : Nat) : State :=
    l1Drop (dropLine (writeBackLine s clu (lineKey part dva)) clu (lineKey part dva)) core part dva
  let s0 := leave s dva
  let s1 := if firstPart dva n < n then leave s0 (dva + n - 1) else s0
  let s2 := match acq with
    | some scope => drainRecorded s1 core scope pa
    | none => s1
  let r := homeRead s2 clu part dva pa n
  let old := natOfBytes r.1
  if r.2 then (s2, old, true)
  else
    match f old with
    | none => (s2, old, false)
    | some v => (homeWrite s2 clu part dva pa (bytesOfNat n v), old, false)

/-- At a global location for a scope (R204). -/
def atGlobal (s : State) (core part dva pa : Nat) (leaf : W64) (scope n : Nat) (acq : Bool) (f : Nat → Option Nat) :
    State × Nat × Bool :=
  let clu := clusterOf core
  if leafUC leaf || 3 ≤ scope || (scope = 2 && homedIn s clu part dva pa leaf) then
    atHome s core part dva pa n (if acq && 3 ≤ scope then some scope else none) f
  else if scope = 2 then
    let c := lateLoad (l1Drop (l1Drop s core part dva) core part (dva + n - 1)) core part dva n pa leaf []
    let s1 := l1Drop (l1Drop c.1 core part dva) core part (dva + n - 1)
    let old := natOfBytes c.2.1
    if c.2.2 then (s1, old, true)
    else
      match f old with
      | none => (s1, old, false)
      | some v => (globalWrite s1 core part dva pa leaf (bytesOfNat n v), old, false)
  else
    let r := lateLoad s core part dva n pa leaf []
    let old := natOfBytes r.2.1
    if r.2.2 then (r.1, old, true)
    else
      match f old with
      | none => (r.1, old, false)
      | some v => (globalWrite r.1 core part dva pa leaf (bytesOfNat n v), old, false)

/-- At any place inside the package. -/
def atPlace (s : State) (core part : Nat) (p : Place) (scope n : Nat) (acq : Bool) (f : Nat → Option Nat) :
    State × Nat × Bool :=
  match p with
  | .spad c off => atSpad s c off n f
  | .global dva pa leaf => atGlobal s core part dva pa leaf scope n acq f
  | _ => (s, 0, false)

/-- The home of a place in this package can be reached (R18); an access to a core that migrates is held (R337). -/
def placeReachable (s : State) (key : Nat) (p : Place) : Bool :=
  match p with
  | .global dva pa leaf => leafCls leaf == 4 || dieReachable s (dieOf (homeOf s (s.partOf (coreOf key)) dva pa leaf))
  | .spad c _ => dieReachable s (dieOf c) && (c == coreOf key || (s.core c).migrating.isNone)
  | _ => true

/-- An engine's access is held on a place whose home's die relocks (R18), or on bytes of another core that a lock covers (R65, R189). -/
def placeHeld (s : State) (key : Nat) (p : Place) (n : Nat) : Bool :=
  !placeReachable s key p || (match p with
    | .spad c off => c != coreOf key && (lockedByte (s.arch c) 8 off n).isSome
    | _ => false)

/-! ## Peers (R365, R366, R370, R371) -/

/-- The ports of a package's route. -/
def routePorts (s : State) (pkg : BitVec 10) : List Nat :=
  let m := tget 0 s.links.route pkg.toNat
  (List.range 16).filter (fun i => m.getLsbD i)

def portState (s : State) (i : Nat) : PortState := tget .down s.links.ports i

/-- A peer's state: UP for the package itself (R365), else the best of its route's ports; FAILED when all are FAILED or FENCED or a switch reports no path
(R366). -/
def peerState (s : State) (pkg : BitVec 10) : PortState :=
  let ps := (routePorts s pkg).map (portState s)
  if pkg = s.pk.pkg then .up
  else if s.links.noPath.contains pkg then .failed
  else if ps.contains .up then .up
  else if ps.contains .retraining then .retraining
  else if !ps.isEmpty && ps.all (fun p => p = .failed || p = .fenced) then .failed
  else .down

/-- A thread's store stream for a package. -/
def Thread.peer (t : Thread) (pkg : BitVec 10) : PeerStream :=
  tget { epoch := 0, count := 0, pending := [], failed := false } t.peers pkg.toNat

/-- The ports of a route that the hash of R365 ranges over. -/
def usedPorts (s : State) (pkg : BitVec 10) : List Nat :=
  (routePorts s pkg).filter (fun i => portState s i == .up || portState s i == .retraining)

/-- The port of an ordering key among the ports in use (R365). -/
def portFor (ps : List Nat) (k : Nat) : Option Nat :=
  match ps with
  | [] => none
  | [p] => some p
  | ps => ps[Config.routeHash ps.length k % ps.length]?

/-- The ordering key of a store-queue entry's packet: its 64-byte line, a posted message's receiver, a shuttle's queue (R365). -/
def StoreEntry.orderKey (e : StoreEntry) : Nat :=
  match e.op with
  | .message => e.place.addr
  | .shuttle sh _ => (sh.desc.extractLsb' 16 15).toNat
  | _ => e.place.addr / 64

/-- A packet of the entry's ordering key that was sent to the package by a tick is not acknowledged. -/
def keyOutstanding (s : State) (pkg : BitVec 10) (e : StoreEntry) (tick : Nat) : Bool :=
  s.threads.any (fun t => (t.2.peer pkg).pending.any (fun x => decide (x.2 ≤ tick) && (match e.op with
    | .message => x.1.toNat == e.place.addr
    | _ => x.1.toNat / 64 == e.place.addr / 64)))

/-- The entry's ordering key has been remapped to another port, and packets sent under the old mapping are under way (R365). -/
def remapHeld (s : State) (pkg : BitVec 10) (e : StoreEntry) : Bool :=
  s.links.remaps.any (fun r => r.pkg == pkg && portFor r.ports e.orderKey != portFor (usedPorts s pkg) e.orderKey &&
    keyOutstanding s pkg e r.tick)

/-- The entry's packet can leave: its port is UP, that port's die does not relock (R18, R363), and no packet of an old mapping holds
it (R365). One for a peer that is down is lost, and one for the package itself does not leave. -/
def routeOpen (s : State) (pkg : BitVec 10) (e : StoreEntry) : Bool :=
  peerState s pkg != .up || pkg == s.pk.pkg ||
    ((match portFor (usedPorts s pkg) e.orderKey with
      | some i => portState s i == .up && dieReachable s (i / 4)
      | none => false) && !remapHeld s pkg e)

/-- A change of ports or routes from `s0` to `s` is noted for every package whose ports in use it changes (R365); a change that no
packet outlives is forgotten. -/
def noteRemaps (s0 s : State) : State :=
  let now := s0.links.route.filterMap (fun x =>
    let pkg := BitVec.ofNat 10 x.1
    let ps := usedPorts s0 pkg
    if ps.isEmpty || ps == usedPorts s pkg then none else some { pkg := pkg, tick := s.tim, ports := ps })
  let kept := s.links.remaps.filter (fun r => s.threads.any (fun t => (t.2.peer r.pkg).pending.any (fun x => decide (x.2 ≤ r.tick))))
  { s with links := { s.links with remaps := kept ++ now } }

/-- A peer is failed for an operation that began waiting at a tick, with RTBOUND as it was then (R234). -/
def peerFailed (s : State) (pkg : BitVec 10) (start : Nat × Nat) : Bool :=
  match peerState s pkg with
  | .up => false
  | .retraining => decide (start.1 + start.2 * 1000 ≤ s.tim)
  | _ => true

/-- A hold that begins now: its tick, and RTBOUND in force (R402). -/
def holdStart (s : State) : Nat × Nat := (s.tim, s.links.rtbound.toNat)

/-- The package a store entry goes to, if it leaves this package. -/
def StoreEntry.pkg (s : State) (e : StoreEntry) : Option (BitVec 10) :=
  match e.place with
  | .peer p _ => some (BitVec.ofNat 10 p)
  | .global _ _ leaf => if leafCls leaf = 4 then some (lenderOf s e.part.toNat leaf) else none
  | _ => none

/-- A thread has stores to a package that are not acknowledged. -/
def peerBusy (s : State) (key : Nat) (pkg : BitVec 10) : Bool :=
  !((s.thread key).peer pkg).pending.isEmpty ||
    (s.core (coreOf key)).storeq.any (fun e => e.slot == slotOf key && e.pkg s == some pkg)

/-- A store to a ninth package is held (R370). -/
def peerFull (s : State) (key : Nat) (pkg : BitVec 10) : Bool :=
  !peerBusy s key pkg &&
    decide (8 ≤ ((s.thread key).peers.filter (fun p => peerBusy s key (BitVec.ofNat 10 p.1))).length)

/-- Count a store into the thread's stream for a package (R371). -/
def countPeer (s : State) (key : Nat) (pkg : BitVec 10) : State :=
  let t := s.thread key
  let p := t.peer pkg
  s.setThread key { t with peers := tput t.peers pkg.toNat { p with count := p.count + 1 } }

/-- Close the epoch of a stream: its epoch and count, which the release carries (R371). -/
def closeEpoch (s : State) (key : Nat) (pkg : BitVec 10) : State × BitVec 16 × W32 :=
  let t := s.thread key
  let p := t.peer pkg
  (s.setThread key { t with peers := tput t.peers pkg.toNat { p with epoch := p.epoch + 1, count := 0 } }, p.epoch, p.count)

/-! ## Counted releases at the target (R371) -/

/-- Stores of an epoch of a sender that have been performed here. -/
def performedCount (s : State) (pkg : BitVec 10) (tid : W64) (epoch : BitVec 16) : Nat :=
  match s.links.performed.find? (fun x => x.pkg == pkg && x.tid == tid && x.epoch == epoch) with
  | some x => x.count
  | none => 0

/-- One more store of an epoch has been performed, or refused. -/
def countPerformed (s : State) (pkg : BitVec 10) (tid : W64) (epoch : BitVec 16) : State :=
  let same (x : EpochCount) : Bool := x.pkg == pkg && x.tid == tid && x.epoch == epoch
  let l := s.links.performed
  let l1 := if l.any same then replaceFirst same (fun x => { x with count := x.count + 1 }) l
    else l ++ [{ pkg := pkg, tid := tid, epoch := epoch, count := 1 }]
  { s with links := { s.links with performed := l1 } }

/-- A release of an epoch has been performed: its count is no longer held. -/
def dropEpoch (s : State) (pkg : BitVec 10) (tid : W64) (epoch : BitVec 16) : State :=
  { s with links := { s.links with
      performed := s.links.performed.filter (fun x => !(x.pkg == pkg && x.tid == tid && x.epoch == epoch)) } }

/-! ## Acceptance of a store-queue entry (R197) -/

/-- An earlier entry of the queue writes the same global line, which must be accepted first (R197), or of one thread the same
line of a peer or the host (R224) or the same byte (R198). -/
def mustFollow (d e : StoreEntry) : Bool :=
  (match d.place, e.place with
   | .global a _ _, .global b _ _ => decide (a / 64 ≤ (b + e.len - 1) / 64) && decide (b / 64 ≤ (a + d.len - 1) / 64)
   | _, _ => false) ||
  (d.slot == e.slot && (samePlace d.place d.len e.place e.len || (match d.place, e.place with
    | .peer p a, .peer q b => p == q && a / 64 == b / 64
    | .host a, .host b => a / 64 == b / 64
    | _, _ => false)))

/-- A lock of another slot, or of any slot of another core, covers the bytes (R65). -/
def storeLocked (s : State) (core : Nat) (e : StoreEntry) : Bool :=
  match e.place with
  | .spad c off => (lockedByte (s.arch c) (if c = core then e.slot else 8) off e.len).isSome
  | .window c w v wscb => (winRanges w v e.len wscb).any (fun r => (lockedByte (s.arch c) e.slot r.1 r.2).isSome)
  | _ => false

/-- The entry's package can be sent to: its route has a port that is UP; nothing waits for a peer that is down. -/
def sendable (s : State) (pkg : BitVec 10) : Bool := peerState s pkg != .retraining

/-- The entry's scratchpad belongs to another core that migrates: it is held (R337). -/
def storeHeld (s : State) (core : Nat) (e : StoreEntry) : Bool :=
  match e.place with
  | .spad c _ => c != core && (s.core c).migrating.isSome
  | .inbox k => coreOf k != core && (s.core (coreOf k)).migrating.isSome
  | _ => false

/-- An entry may be accepted now. -/
def acceptable (s : State) (core index : Nat) : Bool :=
  match (s.core core).storeq[index]? with
  | none => false
  | some e =>
    !((s.core core).storeq.take index).any (fun d => mustFollow d e) && !storeLocked s core e && !storeHeld s core e &&
      (match e.pkg s with
       | some p => sendable s p
       | none => true)

/-- Send a store that leaves the package; a peer that is down loses it, and is failed for the next FENCE.SYS (R234, R364). -/
def sendStore (s : State) (core : Nat) (e : StoreEntry) (pkg : BitVec 10) (dva : Nat) : State :=
  let key := keyOf core (e.slot % 16)
  let tid := s.tid key
  let v := natOfBytes e.bytes
  let posted (op : PeerOp) (r : Option (BitVec 16 × W32)) : OutMsg :=
    .request pkg e.part tid { op := op, epoch := if r.isSome then none else some e.epoch, release := r }
  let msg : OutMsg := match e.op with
    | .atomic i r =>
      (match atomicOf i with
       | some x => posted (x.peerOp dva v 0 false) r
       | none => posted (.store dva e.bytes) r)
    | .release _ ep n => posted (.store dva e.bytes) (some (ep, n))
    | .message => .message pkg e.part e.addr (BitVec.ofNat 64 v) tid (some e.epoch)
    | .nibble hi => posted (.nibble dva hi (e.bytes.headD 0)) none
    | _ => posted (.store dva e.bytes) none
  let t := s.thread key
  let p := t.peer pkg
  if peerState s pkg = .up ∧ 16 ≤ e.slot then s.send msg
  else if peerState s pkg = .up then
    (s.setThread key { t with peers := tput t.peers pkg.toNat { p with pending := p.pending ++ [(BitVec.ofNat 64 dva, s.tim)] } }).send msg
  else if 16 ≤ e.slot then s
  else s.setThread key { t with peers := tput t.peers pkg.toNat { p with failed := true } }

/-- The atomic of an entry executed at its point, without a reply (R207). A poisoned location kills the thread (R199):
the result says so. -/
def acceptAtomic (s : State) (core : Nat) (e : StoreEntry) (i : Instr) : State × Bool :=
  match atomicOf i with
  | none => (s, false)
  | some x =>
    let r := atPlace s core e.part.toNat e.place x.scope x.n x.acq (fun old => x.new (natOfBytes e.bytes) 0 old)
    let s1 := if r.2.2 then r.1
      else if x.rel && x.scope = 3 && e.place.records && (x.cls ≠ 2 || r.2.1 = 0) then
        match e.place with
        | .global _ pa _ => recordRelease r.1 pa core
        | _ => r.1
      else r.1
    (if x.acq && !r.2.2 then acquireAt s1 core x.scope else s1, r.2.2)

/-- Perform one entry at its point of R196; the second part tells that it met poison (R199). Messages, tags and
shuttles are delivered by their own units. DESIGN CHOICE (log 103): a SNIB at a staging copy fills every invalid byte of its line,
as a load does (R200), to merge into its byte (R211). -/
def performEntry (s : State) (core : Nat) (e : StoreEntry) : State × Bool :=
  match e.op, e.place with
  | .atomic i _, .host a =>
    (match atomicOf i with
     | some x => (s.send (.hostRequest (s.tid (keyOf core (e.slot % 16))) (x.peerOp a (natOfBytes e.bytes) 0 false)), false)
     | none => (s, false))
  | _, .host a => (s.send (.hostWrite e.part a e.bytes), false)
  | .atomic i _, p =>
    match e.pkg s with
    | some pkg => (sendStore s core e pkg p.addr, false)
    | none => acceptAtomic s core e i
  | .release scope _ _, .global dva pa leaf =>
    if leafCls leaf = 4 then (sendStore s core e (lenderOf s e.part.toNat leaf) dva, false)
    else
      let r := atGlobal s core e.part.toNat dva pa leaf scope.toNat e.bytes.length false (fun _ => some (natOfBytes e.bytes))
      let s1 := if r.2.2 = false then r.1
        else if leafUC leaf || 3 ≤ scope.toNat then { r.1 with mem := ramWrite r.1.mem pa e.bytes }
        else globalWrite r.1 core e.part.toNat dva pa leaf e.bytes
      (if scope = 3 && e.place.records then recordRelease s1 pa core else s1, false)
  | .nibble hi, .global dva pa leaf =>
    if leafCls leaf = 4 then (sendStore s core e (lenderOf s e.part.toNat leaf) dva, false)
    else
      let old : Byte :=
        if leafUC leaf || homedIn s (clusterOf core) e.part.toNat dva pa leaf then mread s.mem.ram pa
        else (fillLine s (clusterOf core) e.part.toNat dva pa leaf).2.byte (dva % 64)
      let s1 := if leafUC leaf || homedIn s (clusterOf core) e.part.toNat dva pa leaf then s
        else (fillLine s (clusterOf core) e.part.toNat dva pa leaf).1
      (globalWrite s1 core e.part.toNat dva pa leaf [setNibble old hi (e.bytes.headD 0).toNat], false)
  | _, .global dva pa leaf =>
    if leafCls leaf = 4 then (sendStore s core e (lenderOf s e.part.toNat leaf) dva, false)
    else (globalWrite s core e.part.toNat dva pa leaf e.bytes, false)
  | _, .peer pkg dva => (sendStore s core e (BitVec.ofNat 10 pkg) dva, false)
  | _, .window c w v wscb =>
    let scales := winRanges w v e.len wscb
    if w = 3 ∧ (scales.drop 1).any (fun r => spadPoisoned s.mem c r.1 r.2) then (s, true)
    else ({ s with mem := spadPerform s.mem e }, false)
  | _, _ => ({ s with mem := spadPerform s.mem e }, false)

/-! ## Stores of an engine for its thread -/

/-- The epoch a store to a peer carries (R371). -/
def epochFor (s : State) (key : Nat) (pkg : Option (BitVec 10)) : BitVec 16 :=
  match pkg with
  | some p => ((s.thread key).peer p).epoch
  | none => 0

/-- Bytes written at a checked place as a store of a thread that is accepted at once; the thread's own earlier stores to them are
accepted first (R198). -/
def storeNow (s : State) (key : Nat) (ea : W64) (p : Place) (bs : List Byte) : Except Stop State := do
  let core := coreOf key
  if placeHeld s key p bs.length || !(ownPending s key p bs.length).isEmpty then .error .hold
  let e : StoreEntry :=
    { slot := slotOf key, stream := none, part := BitVec.ofNat 4 (s.partOf core), place := p, addr := ea, bytes := bs, op := .write,
      epoch := 0 }
  match e.pkg s with
  | some pkg =>
    if peerFull s key pkg || !sendable s pkg || !routeOpen s pkg e then .error .hold
    else
      let r := performEntry (countPeer s key pkg) core { e with epoch := epochFor s key (some pkg) }
      need (!r.2) POISON ea
      return r.1
  | none =>
    let r := performEntry s core e
    need (!r.2) POISON ea
    return r.1

/-- A write of an engine for its thread: the segment, the place, then the store. -/
def engineStore (s : State) (key : Nat) (ea : W64) (bs : List Byte) : Except Stop State := do
  let (kind, o) ← segCheck (s.thread key) ea bs.length rightW
  let (s, p) ← resolve s key ea bs.length .store kind o
  storeNow s key ea p bs

end

end Sys2Proof.Machine
end

