-- ==== Sys2Proof/Machine/Skein.lean ====
section
/-! DEFINITION. The weft engine (R272-R285): descriptors, registrations and floors, the served value, picks and their
retention, parked requests, wait records and the causality walk. -/

namespace Sys2Proof.Machine

noncomputable section

/-! ## Ranges of device memory, read and written at the homes of their lines -/

/-- A range cut at 4 KiB boundaries: address and length of each piece. -/
def pieces : Nat → Nat → Nat → List (Nat × Nat)
  | 0, _, _ => []
  | fuel + 1, a, n =>
    if n = 0 then []
    else
      let m := Nat.min n (4096 - a % 4096)
      (a, m) :: pieces fuel (a + m) (n - m)

/-- The pieces of a range. -/
def rangePieces (a n : Nat) : List (Nat × Nat) := pieces (n / 4096 + 2) a n

/-- Translate every page of a range: physical pieces. A home on a die that relocks holds the access (R18); a page whose home is at a
lender refuses it (log 20). -/
def translateRange (s : State) (clu part a n : Nat) (acc : BitVec 4) (eval : W64) : Except Stop (State × List (Nat × Nat)) :=
  (rangePieces a n).foldl (fun r p => do
    let (s, l) ← r
    let x ← translate s clu part p.1 acc eval
    need (leafCls x.2.1 ≠ 4) ACCESS eval
    if !dieReachable s (dieOf (homeOf s part p.1 x.2.2 x.2.1)) then .error .hold
    return (x.1, l ++ [(x.2.2, p.2)])) (.ok (s, []))

/-- Read a range at its homes: bytes and poison. -/
def homeReadRange (s : State) (clu part a n : Nat) (eval : W64) : Except Stop (State × List Byte × Bool) := do
  let (s, ps) ← translateRange s clu part a n accRead eval
  return (s, ps.flatMap (fun p => mreadN s.mem.ram p.1 p.2), ps.any (fun p => anyPoison s.mem.ramPoison p.1 p.2))

/-- Write bytes over physical pieces. -/
def writePieces (m : Memory) : List (Nat × Nat) → List Byte → Memory
  | [], _ => m
  | p :: ps, bs => writePieces (ramWrite m p.1 (bs.take p.2)) ps (bs.drop p.2)

/-- Write a range at its homes. -/
def homeWriteRange (s : State) (clu part a : Nat) (bs : List Byte) (eval : W64) : Except Stop State := do
  let (s, ps) ← translateRange s clu part a bs.length accWrite eval
  return { s with mem := writePieces s.mem ps bs }

/-! A page of class BW has its home at its lender (R202). DESIGN CHOICE (log 108): the bytes an engine reads there come with a
REMOTE_REPLY_ARRIVAL of the request's thread, and what it writes there is sent as stores of the request's thread. -/

/-- Read a range at its homes for a request, the lender's bytes from position `pos` of what has come: bytes, poison, new position. -/
def weftReadRange (s : State) (clu part a n : Nat) (eval : W64) (ext : ExtReply) (pos : Nat) :
    Except Stop (State × List Byte × Bool × Nat) :=
  (rangePieces a n).foldl (fun r p => do
    let (s, bs, bad, pos) ← r
    let x ← translate s clu part p.1 accRead eval
    if leafCls x.2.1 = 4 then
      match ext with
      | .bytes l => if pos + p.2 ≤ l.length then return (x.1, bs ++ (l.drop pos).take p.2, bad, pos + p.2) else .error .hold
      | .poison => return (x.1, bs ++ List.replicate p.2 0, true, pos + p.2)
      | .refused => .error (.trap ACCESS eval)
      | .leaseGone => .error (.trap LEASEGONE eval)
      | _ => .error .hold
    else if !dieReachable s (dieOf (homeOf s part p.1 x.2.2 x.2.1)) then .error .hold
    else return (x.1, bs ++ mreadN s.mem.ram x.2.2 p.2, bad || anyPoison s.mem.ramPoison x.2.2 p.2, pos)) (.ok (s, [], false, pos))

/-- Write a range at its homes for a thread's request. -/
def weftWriteRange (s : State) (key clu part a : Nat) (bs : List Byte) (eval : W64) : Except Stop State :=
  (rangePieces a bs.length).foldl (fun r p => do
    let s ← r
    let x ← translate s clu part p.1 accWrite eval
    let piece := (bs.drop (p.1 - a)).take p.2
    if leafCls x.2.1 = 4 then
      (List.range ((p.2 + 15) / 16)).foldl (fun r i => do
        let s ← r
        storeNow s key eval (.global (p.1 + 16 * i) (x.2.2 + 16 * i) x.2.1) ((piece.drop (16 * i)).take 16)) (.ok x.1)
    else if !dieReachable s (dieOf (homeOf s part p.1 x.2.2 x.2.1)) then .error .hold
    else return { x.1 with mem := ramWrite x.1.mem x.2.2 piece }) (.ok s)

/-- Read a range at home without a walk's effects; none where a page is missing. -/
def peekRange (s : State) (part a n : Nat) : Option (List Byte) :=
  (rangePieces a n).foldl (fun r p =>
    match r, walk s part p.1 with
    | some l, .leaf w => if leafCls w.word = 4 then none else some (l ++ mreadN s.mem.ram (leafPA w.word + p.1 % w.size) p.2)
    | _, _ => none) (some [])

/-! ## Descriptors (R272-R274) -/

/-- Bytes of an element of a skein format. -/
def skeinBytes (fmt : Nat) : Nat := if fmt = 4 then 8 else if fmt = 6 then 2 else 4

/-- The engine's copy of a descriptor image, if it is valid (R273). -/
def parseDesc (b : List Byte) : Option SkeinDesc :=
  let at_ (o n : Nat) : Nat := natOfBytes ((b.drop o).take n)
  let fmt := at_ 0 1
  if (fmt = 4 ∨ fmt = 5 ∨ fmt = 6 ∨ fmt = 9) ∧ at_ 2 1 ≤ 1 ∧ 1 ≤ at_ 1 1 ∧ at_ 1 1 ≤ 16 ∧ 1 ≤ at_ 4 4 ∧ at_ 4 4 ≤ 2 ^ 20 ∧
      at_ 8 8 ≤ at_ 16 8 ∧ at_ 24 2 ≤ 1279 ∧ at_ 32 8 % 64 = 0 ∧ at_ 3 1 = 0 ∧ at_ 26 6 = 0 then
    some { fmt := fmt, p := at_ 1 1, deg := at_ 2 1, count := at_ 4 4, h := at_ 8 8, f := at_ 16 8, hcore := at_ 24 2,
           base := at_ 32 8 }
  else none

def State.skein (s : State) (part n : Nat) : Skein := tget {} (s.part part).skeins n
def State.setSkein (s : State) (part n : Nat) (k : Skein) : State :=
  s.setPart part { s.part part with skeins := tput (s.part part).skeins n k }
def State.group (s : State) (part g : Nat) : Group := tget {} (s.part part).groups g
def State.setGroup (s : State) (part g : Nat) (x : Group) : State :=
  s.setPart part { s.part part with groups := tput (s.part part).groups g x }

/-- N of R288: bytes of a state. -/
def SkeinDesc.bytes (d : SkeinDesc) : Nat := d.count * skeinBytes d.fmt
/-- Bytes of a storage slot (R274). -/
def SkeinDesc.slotLen (d : SkeinDesc) : Nat := (d.bytes + 63) / 64 * 64
/-- T, the newest pick's instant. -/
def Skein.newest (k : Skein) : Nat := ((k.picks.getLast?).getD (0, 0)).1
/-- O, the oldest retained pick's instant. -/
def Skein.oldest (k : Skein) : Nat := ((k.picks.head?).getD (0, 0)).1
def Skein.live (k : Skein) : Bool := !k.picks.isEmpty

/-- Write the hardware fields of a descriptor in memory (R273); a table page that is not mapped, or lies at a lender, keeps them (log 18). -/
def writeHw (s : State) (part n : Nat) (k : Skein) : State :=
  let a := (s.part part).skt.toNat + 64 * n
  let r (i : Nat) : Nat := ((k.rgrp[i]?).map (fun x => x.1.toNat)).getD 0xFFFF
  match walk s part a with
  | .leaf l =>
    if leafCls l.word = 4 then s else
    let pa := leafPA l.word + a % l.size
    let m1 := ramWrite s.mem (pa + 40) (bytesOfNat 2 ((k.wgrp.map (·.toNat)).getD 0xFFFF) ++ List.replicate 6 0)
    { s with mem := upTo 8 (fun m i => ramWrite m (pa + 48 + 2 * i) (bytesOfNat 2 (r i))) m1 }
  | .fault _ => s

/-- A skein with no registration is FREE: picks and floors are discarded (R276); requests that have arrived stay. -/
def endIfFree (k : Skein) : Skein :=
  if k.wgrp.isNone && k.rgrp.isEmpty then { queue := k.queue } else k

/-- The reader registration a thread reads through: that of its lowest-numbered GM CSR (R277). -/
def readerOf (k : Skein) (t : Thread) : Option (BitVec 16 × Nat) :=
  [0, 1, 2, 3].findSome? (fun j => k.rgrp.find? (fun r => r.1 == t.gmOf j && t.gmOf j != 0xFFFF))
/-- The thread is a member of the writer group. -/
def writerIs (k : Skein) (t : Thread) : Bool :=
  match k.wgrp with
  | some g => [0, 1, 2, 3].any (fun j => t.gmOf j == g)
  | none => false

/-! ## Values (R280) -/

/-- w of R280: (τ − t0)/(t1 − t0) rounded RNE to F32. -/
def lerpWeight (tau t0 t1 : Nat) : Fp := fpDecode f32 (fpRound f32 0 false (tau - t0) (t1 - t0)).1

/-- One element interpolated in the format. -/
def lerpElement (fmt tau t0 t1 x0 x1 : Nat) : Nat :=
  let w := lerpWeight tau t0 t1
  if fmt = 9 then
    let n0 := signedOf 32 x0
    let d := signedOf 32 (satSigned 32 (signedOf 32 x1 - n0)).1
    match w with
    | .fin _ n den => (satSigned 32 (rha (n0 * den + n * d) den)).1
    | _ => x0
  else
    let F := if fmt = 4 then f64 else if fmt = 5 then f32 else b16
    let D := if fmt = 4 then f64 else f32
    let d := fpDecode D (fpAdd D 0 (fpDecode F x1) (fpDecode F x0).neg).1
    (fpFma F 0 false w d (fpDecode F x0)).1

/-- Interpolate states element by element. -/
def lerpState (d : SkeinDesc) (tau t0 t1 : Nat) (s0 s1 : List Byte) : List Byte :=
  let e := skeinBytes d.fmt
  (List.range d.count).flatMap (fun i =>
    bytesOfNat e (lerpElement d.fmt tau t0 t1 (natOfBytes ((s0.drop (i * e)).take e)) (natOfBytes ((s1.drop (i * e)).take e))))

/-- Which picks a read uses, and its kind: exact 1, interpolated 2, extrapolated 3 (R280). The second pick is absent
where one pick's bits are the value. -/
def servePicks (k : Skein) (d : SkeinDesc) (tau : Nat) : Option ((Nat × Nat) × Option (Nat × Nat) × Nat) :=
  match k.picks.find? (fun p => p.1 == tau) with
  | some p => some (p, none, 1)
  | none =>
    if tau < k.newest then
      match k.picks.reverse.find? (fun p => p.1 < tau), k.picks.find? (fun p => tau < p.1) with
      | some p, some q => some (p, if d.deg = 0 then none else some q, 2)
      | _, _ => none
    else
      match k.picks.reverse with
      | q :: p :: _ => some (if d.deg = 0 then (q, none, 3) else (p, some q, 3))
      | [q] => some (q, none, 3)
      | [] => none

/-- The state at an instant: bytes, poison, kind; pick storage is read at its homes (R274). -/
def serveState (s : State) (part : Nat) (k : Skein) (d : SkeinDesc) (tau : Nat) (eval : W64) (ext : ExtReply) :
    Except Stop (State × List Byte × Bool × Nat) := do
  let clu := clusterOf d.hcore
  match servePicks k d tau with
  | none => return (s, [], false, 0)
  | some (p, q, kind) =>
    let (s, b0, bad0, pos) ← weftReadRange s clu part (d.base + p.2 * d.slotLen) d.bytes eval ext 0
    match q with
    | none => return (s, b0, bad0, kind)
    | some q =>
      let (s, b1, bad1, _) ← weftReadRange s clu part (d.base + q.2 * d.slotLen) d.bytes eval ext pos
      return (s, lerpState d tau p.1 q.1 b0 b1, bad0 || bad1, kind)

/-! ## Wait records (R242, R283) -/

/-- Set a group's wait record and start its walk. -/
def setRecord (s : State) (part g n tau key : Nat) (ret : Bool) : State :=
  let s1 := s.setGroup part g { s.group part g with
    wv := true, wskein := BitVec.ofNat 16 n, winst := BitVec.ofNat 64 tau, wret := ret, wthread := key }
  s1.setPart part { s1.part part with walks := (s1.part part).walks ++ [g] }

/-- A member's wait has ended: the record it set is cleared. -/
def clearRecords (s : State) (part key : Nat) : State :=
  (s.part part).groups.foldl (fun s ge =>
    let x := s.group part ge.1
    if x.wv && x.wthread == key then s.setGroup part ge.1 { x with wv := false, wskein := 0, winst := 0, wret := false }
    else s) s

/-- A request leaves a skein's lists, with its record. -/
def unparkSkein (s : State) (part n key : Nat) : State :=
  let k := s.skein part n
  let s1 := s.setSkein part n { k with
    parked := k.parked.filter (· != key), marks := k.marks.filter (· != key), past6 := k.past6.filter (· != key),
    queue := k.queue.filter (· != key), serving := k.serving.filter (fun x => x.1 != key) }
  clearRecords s1 part key

/-- The engine holds a request of the thread. -/
def Skein.holds (k : Skein) (key : Nat) : Bool := k.parked.contains key || k.queue.contains key || k.serving.any (fun x => x.1 == key)

/-- Withdraw a thread's request from every skein of its partition (R286). -/
def withdrawSkein (s : State) (part key : Nat) : State :=
  (s.part part).skeins.foldl (fun s ke => if (s.skein part ke.1).holds key then unparkSkein s part ke.1 key else s) s

/-- The thread's parked read is marked bound-reached (R284). -/
def boundReached (s : State) (part key : Nat) : Bool := (s.part part).skeins.any (fun ke => ke.2.marks.contains key)

/-! ## Buffers of SKW and SKR (R288) -/

/-- The kind and target of a buffer: global, tile, or local in window W0. -/
def skeinBuffer (t : Thread) (a : W64) (n right : Nat) : Except Stop (Nat × Nat) := do
  let (kind, o) ← segCheck t a n right
  if kind = 1 ∨ kind = 3 ∨ (kind = 2 ∧ o + n ≤ 0x100000) then return (kind, o) else .error (.trap SEGV a)

/-- The scratchpad of a buffer target and its byte. -/
def bufferSpad (s : State) (key kind o : Nat) : Nat × Nat :=
  if kind = 3 then (forwardCore s (s.thread key).kid (o / 0x100000), o % 0x100000) else (coreOf key, o)

/-- A buffer in a scratchpad lies under a lock that its thread does not hold. -/
def bufferLocked (s : State) (key kind o n : Nat) : Bool :=
  if kind = 1 then false
  else
    let c := bufferSpad s key kind o
    (lockedByte (s.arch c.1) (if c.1 = coreOf key then slotOf key else 8) c.2 n).isSome

/-- Read a source: a scratchpad in that scratchpad, a global range at its homes (R285); held on a lock (R65). -/
def readBuffer (s : State) (key part hcore kind o n : Nat) (a : W64) (ext : ExtReply) : Except Stop (State × List Byte × Bool) :=
  if kind = 1 then do
    let r ← weftReadRange s (clusterOf hcore) part o n a ext 0
    return (r.1, r.2.1, r.2.2.1)
  else
    let c := bufferSpad s key kind o
    if bufferLocked s key kind o n || !placeReachable s key (.spad c.1 c.2) then .error .hold
    else .ok (s, spadBytes s.mem c.1 c.2 n, spadPoisoned s.mem c.1 c.2 n)

/-- Write a destination with stores of the issuing thread (R285), after its own earlier stores to those bytes; held on a lock. -/
def writeBuffer (s : State) (key kind o : Nat) (bs : List Byte) (a : W64) : Except Stop State :=
  if kind = 1 then
    (List.range ((bs.length + 15) / 16)).foldl (fun r i => do
      let s ← r
      engineStore s key (a + BitVec.ofNat 64 (16 * i)) ((bs.drop (16 * i)).take 16)) (.ok s)
  else
    let c := bufferSpad s key kind o
    if bufferLocked s key kind o bs.length || !placeReachable s key (.spad c.1 c.2) ||
        !(ownPending s key (.spad c.1 c.2) bs.length).isEmpty then .error .hold
    else .ok { s with mem := spadWrite s.mem c.1 c.2 bs }

/-! ## Serving -/

/-- The skein number and instant of a skein request. -/
def skeinArgs (t : Thread) : Instr → Option (Nat × Nat)
  | .skw _ b a _ | .skr _ b a _ | .skre _ b a _ => some ((t.rg a).toNat, (t.rg b).toNat)
  | _ => none

/-- SKST of a served read (R287). -/
def skstWord (n npick kind : Nat) : W64 := BitVec.ofNat 64 (n * 2 ^ 32 + npick % 16 * 16 + kind)

/-- Serve one read and answer its thread: SKR writes its buffer, SKRE its register (R288). -/
def serveRead (s : State) (part n key : Nat) (cx : Bool) (ext : ExtReply) : Except Stop State :=
  let t := s.thread key
  let k := s.skein part n
  match k.desc, t.wait with
  | some d, some w =>
    match w.instr with
    | .skr c b a dd => do
      let dst := t.rg c
      let (kind, o) ← skeinBuffer t dst d.bytes rightW
      let (s, bs, bad, vk) ← serveState s part k d (t.rg b).toNat dst ext
      if bad then return unparkSkein (answer s key { Reply.plain with kill := true }) part n key
      else
        let vk := if cx then 4 else vk
        let s ← writeBuffer s key kind o bs dst
        return unparkSkein (answer s key { Reply.plain with
          g := if dd = 0 then [] else [(dd, BitVec.ofNat 64 vk)], acquire := some 4,
          csr := [(0x030, skstWord (t.rg a).toNat k.picks.length vk)] }) part n key
    | .skre c b a dd => do
      let i := (t.rg c).toNat
      let e := skeinBytes d.fmt
      let (s, bs, bad, vk) ← serveState s part k d (t.rg b).toNat (BitVec.ofNat 64 n) ext
      if bad then return unparkSkein (answer s key { Reply.plain with kill := true }) part n key
      else
        let vk := if cx then 4 else vk
        return unparkSkein (answer s key { Reply.plain with
          f := [(dd, BitVec.ofNat 128 (natOfBytes ((bs.drop (i * e)).take e)))], acquire := some 4,
          csr := [(0x030, skstWord (t.rg a).toNat k.picks.length vk)] }) part n key
    | _ => return s
  | _, _ => return s

/-- Retirement of the oldest pick is allowed (R281). -/
def mayRetire (k : Skein) (p : Nat) : Bool :=
  k.rgrp.all (fun r =>
    if 2 ≤ p then decide (((k.picks[1]?).map (·.1)).getD 0 ≤ r.2) else decide (k.oldest < r.2))

/-- Store a pick and answer its writer (R288): retirement has been settled before. -/
def storePick (s : State) (part n key : Nat) (ext : ExtReply) : Except Stop State :=
  let t := s.thread key
  let k := s.skein part n
  match k.desc, t.wait with
  | some d, some w =>
    match w.instr with
    | .skw c b _ dd => do
      let src := t.rg c
      let tau := (t.rg b).toNat
      let (kind, o) ← skeinBuffer t src d.bytes rightR
      let (s, bs, bad) ← readBuffer s key part d.hcore kind o d.bytes src ext
      if bad then return unparkSkein (answer s key { Reply.plain with kill := true }) part n key
      else
        let retire := decide (k.picks.length = d.p)
        let slot := if retire then (k.picks.head?.getD (0, 0)).2
          else ((List.range d.p).find? (fun j => !k.picks.any (fun p => p.2 == j))).getD 0
        let s ← weftWriteRange s key (clusterOf d.hcore) part (d.base + slot * d.slotLen) bs (BitVec.ofNat 64 n)
        let rest := if retire then k.picks.drop 1 else k.picks
        let s1 := s.setSkein part n { s.skein part n with picks := rest ++ [(tau, slot)] }
        return unparkSkein (answer s1 key
          { Reply.plain with g := if dd = 0 then [] else [(dd, if retire then 1 else 0)] }) part n key
    | _ => return s
  | _, _ => return s

/-- Raise a registration's floor (R277). -/
def raiseFloor (k : Skein) (g : BitVec 16) (tau : Nat) : Skein :=
  { k with rgrp := k.rgrp.map (fun r => if r.1 = g then (r.1, Nat.max r.2 tau) else r) }

/-! ## Requests at the engine (R278, R279, R281, R288)

The engine of a skein goes on with one request at a time: a read that is to be served; else the oldest parked SKW, once retirement is
allowed; else the oldest request that has arrived. While the one it goes on with waits for a page, a lock or a lender's bytes, those
after it wait too. -/

/-- A read request is taken (R279, from step 2): it is to be served, or parks. -/
def weftRead (s : State) (part n key : Nat) : Except Stop State := do
  let t := s.thread key
  let k := s.skein part n
  match k.desc, t.wait, readerOf k t with
  | some d, some w, some reg =>
    let tau := match skeinArgs t w.instr with
      | some x => x.2
      | none => 0
    match w.instr with
    | .skre c _ _ _ => need ((t.rg c).toNat < d.count) FORMAT (t.rg c)
    | .skr c _ _ _ =>
      let _ ← skeinBuffer t (t.rg c) d.bytes rightW
    | _ => pure ()
    need (reg.2 ≤ tau ∧ (!k.live ∨ k.oldest ≤ tau)) SKBEHIND (BitVec.ofNat 64 tau)
    need (!k.live ∨ tau ≤ k.newest + d.f) SKFAR (BitVec.ofNat 64 tau)
    let k1 := raiseFloor k reg.1 tau
    if k.live ∧ tau ≤ k.newest + d.h then return s.setSkein part n { k1 with serving := k1.serving ++ [(key, false)] }
    else
      let s1 := s.setSkein part n { k1 with
        parked := k1.parked ++ [key], past6 := if k.live then k1.past6 ++ [key] else k1.past6 }
      return setRecord s1 part reg.1.toNat n tau key false
  | _, _, _ => .error (.trap ACCESS (BitVec.ofNat 64 n))

/-- A new pick lets parked reads be served, or shows one that the picks have left behind; one that parked before the first pick goes on
to step 8 (R279). -/
def pickRead (s : State) (part n key : Nat) : State :=
  let t := s.thread key
  let k := s.skein part n
  match k.desc, t.wait.bind (fun w => skeinArgs t w.instr), t.wait.map (·.kind) with
  | some d, some (_, tau), some kind =>
    let first6 := !k.past6.contains key
    let floor := ((readerOf k t).map (·.2)).getD 0
    if kind ≠ 0x08 then s
    else if tau < k.oldest ∨ (first6 ∧ tau < floor) then unparkSkein (answer s key (Reply.fail SKBEHIND (BitVec.ofNat 64 tau))) part n key
    else if tau ≤ k.newest + d.h then
      s.setSkein part n { k with parked := k.parked.filter (· != key), serving := k.serving ++ [(key, false)] }
    else if first6 then
      let s1 := s.setSkein part n { k with past6 := k.past6 ++ [key] }
      match readerOf k t with
      | some r => setRecord s1 part r.1.toNat n tau key false
      | none => s1
    else s
  | _, _, _ => s

/-- A pick is stored, its writer answered, and every parked read tried again. -/
def weftStore (s : State) (part n key : Nat) (ext : ExtReply) : Except Stop State := do
  let s1 ← storePick s part n key ext
  return (s1.skein part n).parked.foldl (fun s k => pickRead s part n k) s1

/-- A write request is taken (R288), or tried again after its park: its instant, then the pick stored, or parked on retention. -/
def weftWrite (s : State) (part n key : Nat) (ext : ExtReply) : Except Stop State := do
  let t := s.thread key
  let k := s.skein part n
  match k.desc, t.wait with
  | some d, some w =>
    match w.instr with
    | .skw c b _ _ =>
      let tau := (t.rg b).toNat
      let _ ← skeinBuffer t (t.rg c) d.bytes rightR
      need (writerIs k t) ACCESS (BitVec.ofNat 64 n)
      need (!k.live ∨ k.newest < tau) FORMAT (BitVec.ofNat 64 tau)
      if k.picks.length = d.p && !mayRetire k d.p then
        return setRecord (s.setSkein part n { k with parked := k.parked ++ [key] }) part (k.wgrp.getD 0).toNat n tau key true
      else weftStore s part n key ext
    | _ => return s
  | _, _ => .error (.trap ACCESS (BitVec.ofNat 64 n))

/-- SKBIND at the engine (R290). -/
def weftBind (s : State) (part n key : Nat) (b d : Reg) : Except Stop State := do
  let t := s.thread key
  let g := (t.rg b).extractLsb' 0 16
  let writer := (t.rg b).getLsbD 16
  need ((t.rg b).extractLsb' 17 47 = 0 ∧ g ≠ 0xFFFF ∧ t.memberOf g.toNat) ACCESS (t.rg b)
  let k := s.skein part n
  let fresh := k.desc.isNone
  let (s, img, _) ← if fresh then
      homeReadRange s (clusterOf (coreOf key)) part ((s.part part).skt.toNat + 64 * n) 64 (BitVec.ofNat 64 n)
    else pure (s, [], false)
  let desc := if fresh then parseDesc img else k.desc
  let done (s : State) (st : W64) : State := answer s key (Reply.reg d st)
  if desc.isNone then return done s 4
  else if (if writer then k.wgrp = some g else k.rgrp.any (fun r => r.1 == g)) then return done s 1
  else if writer ∧ k.wgrp.isSome then return done s 2
  else if ¬ writer ∧ k.rgrp.length = 8 then return done s 3
  else
    let k' : Skein := { k with
      desc := desc, wgrp := if writer then some g else k.wgrp,
      rgrp := if writer then k.rgrp else k.rgrp ++ [(g, if k.live then k.oldest else 0)] }
    return done (writeHw (s.setSkein part n k') part n k') 0

/-- SKUNB at the engine (R290). -/
def weftUnbind (s : State) (part n key : Nat) (b d : Reg) : Except Stop State := do
  let t := s.thread key
  let g := (t.rg b).extractLsb' 0 16
  let writer := (t.rg b).getLsbD 16
  need ((t.rg b).extractLsb' 17 47 = 0 ∧ g ≠ 0xFFFF ∧ t.memberOf g.toNat) ACCESS (t.rg b)
  let k := s.skein part n
  let through (x : Nat) : Bool :=
    match (s.thread x).wait with
    | some w =>
      (match w.instr with
       | .skw _ _ _ _ => writer && k.wgrp == some g
       | _ => !writer && ((readerOf k (s.thread x)).map (·.1)) == some g)
    | none => false
  let done (s : State) (st : W64) : State := answer s key (Reply.reg d st)
  if ¬ (if writer then k.wgrp = some g else k.rgrp.any (fun r => r.1 == g)) then return done s 1
  else if (k.parked ++ k.serving.map (·.1)).any through then return done s 2
  else
    let k' := endIfFree { k with wgrp := if writer then none else k.wgrp,
                                 rgrp := if writer then k.rgrp else k.rgrp.filter (fun r => r.1 != g) }
    return done (writeHw (s.setSkein part n k') part n k') 0

/-- A request that has left the queue of arrivals is taken. -/
def weftTake (s : State) (part n key : Nat) (w : Wait) (ext : ExtReply) : Except Stop State :=
  match w.instr with
  | .skw _ _ _ _ => weftWrite s part n key ext
  | .skr _ _ _ _ | .skre _ _ _ _ => weftRead s part n key
  | .skbind b _ d => weftBind s part n key b d
  | .skunb b _ d => weftUnbind s part n key b d
  | _ => .ok s

/-- Data from outside that has come for no thread. -/
def noExt : Nat × ExtReply := (0, .inside)
/-- What has come for a thread. -/
def extOf (x : Nat × ExtReply) (key : Nat) : ExtReply := if x.1 = key then x.2 else .inside

/-- An attempt goes nowhere: it waits for a page, a lock, a lender or a die. -/
def stuck : Except Stop State → Bool
  | .ok _ => false
  | .error (.trap _ _) | .error .poison => false
  | .error _ => true

/-- The retention of the oldest parked SKW has ended. -/
def retained (s : State) (k : Skein) : Option Nat :=
  match k.parked.find? (fun key => ((s.thread key).wait.map (·.kind)) == some 0x09), k.desc with
  | some key, some d => if k.picks.length = d.p && !mayRetire k d.p then none else some key
  | _, _ => none

/-- What the engine of a skein goes on with: a thread's request, and what comes of it now. -/
def weftNext (s : State) (part n : Nat) (x : Nat × ExtReply) : Option (Nat × Except Stop State) :=
  let k := s.skein part n
  let serve (y : Nat × Bool) : Nat × Except Stop State := (y.1, serveRead s part n y.1 y.2 (extOf x y.1))
  match k.serving, retained s k, k.queue with
  | y :: ys, _, _ => some (((y :: ys).map serve).find? (fun r => !stuck r.2) |>.getD (serve y))
  | [], some key, _ =>
    some (key, weftWrite (s.setSkein part n { k with parked := k.parked.filter (· != key) }) part n key (extOf x key))
  | [], none, key :: rest =>
    let s1 := s.setSkein part n { k with queue := rest }
    (match (s.thread key).unanswered with
     | some w => some (key, weftTake s1 part n key w (extOf x key))
     | none => some (key, .ok s1))
  | [], none, [] => none

/-- The engine of a skein goes on until it has nothing to do or must wait; a request that traps or meets poison leaves it. -/
def weftTurns : Nat → State → Nat → Nat → Nat × ExtReply → State
  | 0, s, _, _, _ => s
  | fuel + 1, s, part, n, x =>
    match weftNext s part n x with
    | none => s
    | some (_, .ok s') => weftTurns fuel s' part n x
    | some (key, .error (.trap c e)) => weftTurns fuel (unparkSkein (answer s key (Reply.fail c e)) part n key) part n x
    | some (key, .error .poison) => weftTurns fuel (unparkSkein (answer s key { Reply.plain with kill := true }) part n key) part n x
    | some _ => s

/-- The engine goes on, unless its die relocks; with turns for every request it holds. -/
def weftRun (s : State) (part n : Nat) (x : Nat × ExtReply) : State :=
  let k := s.skein part n
  if (k.desc.map (fun d => dieReachable s (dieOf d.hcore))).getD true then
    weftTurns (3 * (k.parked.length + k.queue.length + k.serving.length) + 1) s part n x
  else s

/-- A group has become FREE: its registrations end, and what they held back is re-tested (R276, R281). -/
def endRegistrations (s : State) (part g : Nat) : State :=
  (s.part part).skeins.foldl (fun s ke =>
    let n := ke.1
    let k := s.skein part n
    if k.wgrp = some (BitVec.ofNat 16 g) ∨ k.rgrp.any (fun r => r.1.toNat == g) then
      let k' := endIfFree { k with wgrp := if k.wgrp = some (BitVec.ofNat 16 g) then none else k.wgrp,
                                   rgrp := k.rgrp.filter (fun r => r.1.toNat != g) }
      let s1 := writeHw (s.setSkein part n k') part n k'
      weftRun s1 part n noExt
    else s) s

/-! ## The walk (R283) -/

/-- The successor group of a group's wait record. -/
def succOf (s : State) (part : Nat) (x : Group) : Option Nat :=
  let k := s.skein part x.wskein.toNat
  if x.wret then
    let blocking := k.rgrp.filter (fun r =>
      match k.desc with
      | some d => !mayRetire { k with rgrp := [r] } d.p
      | none => false)
    (blocking.map (fun r => r.1.toNat)).foldl (fun m g => match m with | none => some g | some h => some (Nat.min g h)) none
  else k.wgrp.map (·.toNat)

/-- Follow successors up to four hops: the path, whether it closed at G0, and whether it went on beyond them. -/
def walkPath (s : State) (part g0 : Nat) : Nat → List Nat → Option Nat → List Nat × Bool × Bool
  | 0, path, g => (path, false, g.isSome)
  | fuel + 1, path, g =>
    match g with
    | none => (path, false, false)
    | some g =>
      if g = g0 then (path, true, false)
      else if !(s.group part g).wv then (path, false, false)
      else walkPath s part g0 fuel (path ++ [g]) (succOf s part (s.group part g))

/-- The read record with the latest instant, ties to the higher skein, then the higher group. -/
def latestRead (s : State) (part : Nat) (path : List Nat) : Option Nat :=
  path.foldl (fun m g =>
    let x := s.group part g
    if x.wret then m
    else
      match m with
      | none => some g
      | some h =>
        let y := s.group part h
        if y.winst < x.winst ∨ (y.winst = x.winst ∧ (y.wskein < x.wskein ∨ (y.wskein = x.wskein ∧ h < g))) then some g
        else some h) none

/-- One walk from G0's record: serve the latest read of a closed cycle as CX, or mark the reads of a path that did not
close within four hops. -/
def causalityWalk (s : State) (part g0 : Nat) : State :=
  if !(s.group part g0).wv then s
  else
    let r := walkPath s part g0 4 [g0] (succOf s part (s.group part g0))
    if r.2.1 then
      match latestRead s part r.1 with
      | none => s
      | some g =>
        let x := s.group part g
        let n := x.wskein.toNat
        let k := s.skein part n
        if k.live && k.parked.contains x.wthread then
          weftRun (s.setSkein part n { k with
            parked := k.parked.filter (· != x.wthread), serving := k.serving ++ [(x.wthread, true)] }) part n noExt
        else s
    else if r.2.2 then
      r.1.foldl (fun s g =>
        let x := s.group part g
        if x.wret then s
        else
          let k := s.skein part x.wskein.toNat
          s.setSkein part x.wskein.toNat { k with marks := k.marks.filter (· != x.wthread) ++ [x.wthread] }) s
    else s

/-- SKFLR (R290). -/
def weftFloor (s : State) (part n key : Nat) (tau : Nat) : State × W64 :=
  let k := s.skein part n
  match readerOf k (s.thread key) with
  | none => (s, 1)
  | some r => (weftRun (s.setSkein part n (raiseFloor k r.1 tau)) part n noExt, 0)

/-- SKQRY (R290, R291). -/
def weftQuery (s : State) (part n key sel : Nat) : W64 :=
  let k := s.skein part n
  match sel with
  | 0 => if k.live then BitVec.ofNat 64 k.newest else ~~~0#64
  | 1 => if k.live then BitVec.ofNat 64 k.oldest else ~~~0#64
  | 2 =>
    let st := if k.desc.isNone then 0 else if k.live then 2 else 1
    BitVec.ofNat 64 (st * 2 ^ 62 + ((k.wgrp.map (·.toNat)).getD 0xFFFF) * 2 ^ 32 + k.rgrp.length * 2 ^ 8 + k.picks.length)
  | 3 =>
    match readerOf k (s.thread key) with
    | some r => BitVec.ofNat 64 r.2
    | none => ~~~0#64
  | _ => (s.part part).skt

end

end Sys2Proof.Machine
end

