-- ==== Sys2Proof/Machine/Groups.lean ====
section
/-! DEFINITION. Groups and reeds (R241-R249): phases, arrivals, waiters, and the end of a member. -/

namespace Sys2Proof.Machine

noncomputable section

/-- The smallest scope whose instance for core `h` contains core `c` (R30). -/
def scopeSpan (h c : Nat) : Nat :=
  if h = c then 1 else if clusterOf h = clusterOf c then 2 else if dieOf h = dieOf c then 3 else 4

/-- Keys of the listed threads of a partition. -/
def State.keysOf (s : State) (part : Nat) : List Nat :=
  (s.threads.map (·.1)).filter (fun k => s.partOf (coreOf k) == part)

/-- The reed group a parked thread waits on at its home, and the phase it waits for: none for an ARED. -/
def reedWaitOf (t : Thread) : Option (Nat × Option W32) :=
  match t.state, t.wait with
  | .parked, some w =>
    if w.reply.isSome || !w.sent then none
    else
      match w.instr with
      | .reedWait b a _ => some ((t.rg a).toNat, some ((t.rg b).extractLsb' 0 32))
      | .reedSync a _ => some ((t.rg a).toNat, some (tget 0 t.arrived (t.rg a).toNat))
      | .ared _ _ a _ => some (((t.rg a).extractLsb' 0 8).toNat, none)
      | _ => none
  | _, _ => none

/-- Past(p) of R249: phase p has completed. -/
def pastPhase (x : Group) (p : W32) : Bool := decide (1 ≤ (x.phase - p).toNat) && decide ((x.phase - p).toNat ≤ 2 ^ 31)

/-- The status of a wait (R248): bits 63 BROKEN, 62 REPEAT, 61 GONE, and PH. -/
def reedStatus (broken repeat_ gone : Bool) (ph : W32) : W64 :=
  BitVec.ofBool broken ++ BitVec.ofBool repeat_ ++ BitVec.ofBool gone ++ 0#29 ++ ph

/-- What a wait for phase p finds now: its status and whether it acquires; none if it must wait. One that was parked and ends by
BROKEN has the phase current then (R248); one that finds the group BROKEN has that bit alone (R249). -/
def reedCheck (x : Group) (p : W32) (repeat_ : Bool) (parked : Bool := false) : Option (W64 × Bool) :=
  if x.state = 0 then some (reedStatus false repeat_ true 0, false)
  else if x.state = 3 then some (reedStatus true repeat_ false (if parked then x.phase else 0), false)
  else if pastPhase x p then some (reedStatus false repeat_ false x.phase, true)
  else none

/-- The destination of a reed or ARED instruction. -/
def reedDest : Instr → Reg
  | .reedWait _ _ d | .reedSync _ d | .reedArr _ d | .ared _ _ _ d => d
  | _ => 0

/-- What a waiter of a group receives once it need not wait any longer (R246, R249, R378). -/
def reedReply (x : Group) (g : Nat) (t : Thread) (w : Wait) : Option Reply :=
  match reedWaitOf t with
  | some (g', some p) =>
    if g' = g then (reedCheck x p (w.aux = 1) true).map (fun r => { Reply.reg (reedDest w.instr) r.1 with acquire := if r.2 then some x.scope else none })
    else none
  | some (g', none) =>
    if g' = g ∧ (x.state = 0 ∨ x.state = 3) then
      some { Reply.reg (reedDest w.instr)
        (BitVec.ofBool (x.state == 3) ++ 0#2 ++ BitVec.ofBool (x.state == 0) ++ BitVec.ofBool (w.aux == 1) ++ 0#27 ++
          tget 0 t.aredIn g) with acquire := some x.scope }
    else none
  | none => none

/-- The status a reed gives a thread of another package. -/
def reedAnswer (s : State) (tid : W64) (g : Nat) (st : W64) : State :=
  s.send (.reply (tid.extractLsb' 16 10) tid 5 (BitVec.ofNat 64 g) (bytesOfNat 8 st.toNat))

/-- Answer the threads of other packages that need not wait any longer. -/
def serveReedPeers (s : State) (part g : Nat) : State :=
  let x := s.group part g
  let ended (w : W64 × W32 × Bool) : Option (W64 × Bool) := reedCheck x w.2.1 w.2.2 true
  let s1 := s.setGroup part g { x with peerWaits := x.peerWaits.filter (fun w => (ended w).isNone) }
  x.peerWaits.foldl (fun s w => match ended w with
    | some r => reedAnswer s w.1 g r.1
    | none => s) s1

/-- Wake every waiter of a group that need not wait any longer. -/
def serveReed (s : State) (part g : Nat) : State :=
  let s := serveReedPeers s part g
  let x := s.group part g
  answerOff ((s.keysOf part).foldl (fun s key =>
    let t := s.thread key
    match t.wait with
    | some w =>
      (match reedReply x g t w with
       | some r => answer s key r
       | none => s)
    | none => s) s) part (reedReply x g)

/-- An arrival would complete the phase, and a cluster that a widened scope then drains cannot reach its homes (R244, R18). -/
def phaseHeld (s : State) (x : Group) : Bool :=
  x.arrived + 1 == x.exp - x.done && !(x.narrow.filter (fun c => c % 8 < x.scope.toNat)).all (fun c => drainOpen s (c / 8))

/-- Complete the current phase if its condition holds (R246, R244). -/
def completePhase (s : State) (part g : Nat) : State :=
  let x := s.group part g
  if (x.state = 1 ∨ x.state = 2) ∧ x.arrived = x.exp - x.done ∧ x.arrived ≠ 0 then
    let s1 := (x.narrow.filter (fun c => c % 8 < x.scope.toNat)).foldl (fun s c => drainCluster s (c / 8)) s
    serveReed (s1.setGroup part g { x with phase := x.phase + 1, arrived := 0, narrow := [], peerIn := [] }) part g
  else s

/-- ARR at the home (R249): the status. -/
def reedArrive (s : State) (part g key : Nat) : State × W64 :=
  let x := s.group part g
  let t := s.thread key
  if x.state = 0 then (s, reedStatus false false true 0)
  else if x.state = 3 then (s, reedStatus true false false 0)
  else if tfind t.arrived g = some x.phase then (s, reedStatus false true false x.phase)
  else
    let s1 := s.setThread key { t with arrived := tput t.arrived g x.phase }
    let x1 : Group := { x with arrived := x.arrived + 1, narrow := sadd x.narrow (clusterOf (coreOf key) * 8 + x.scope.toNat) }
    (completePhase (s1.setGroup part g x1) part g, reedStatus false false false x.phase)

/-- ARR by a member on another package, once in a phase: the status. -/
def peerArrive (s : State) (part g : Nat) (tid : W64) : State × W64 :=
  let x := s.group part g
  if x.state = 0 then (s, reedStatus false false true 0)
  else if x.state = 3 then (s, reedStatus true false false 0)
  else if x.peerIn.contains tid then (s, reedStatus false true false x.phase)
  else (completePhase (s.setGroup part g { x with arrived := x.arrived + 1, peerIn := x.peerIn ++ [tid] }) part g, reedStatus false false false x.phase)

/-- WAIT by a thread of another package. -/
def peerWait (s : State) (part g : Nat) (tid : W64) (p : W32) (again : Bool) : State :=
  let x := s.group part g
  match reedCheck x p again with
  | some r => reedAnswer s tid g r.1
  | none => s.setGroup part g { x with peerWaits := x.peerWaits ++ [(tid, p, again)] }

/-- DONE has reached EXP: the group is FREE, its waiters are woken with GONE, and word 1 and the wait record are cleared (R245). -/
def freeGroup (s : State) (part g : Nat) : State :=
  let x := s.group part g
  endRegistrations (serveReed (s.setGroup part g { scope := x.scope, hcore := x.hcore, exp := x.exp, joined := x.joined, done := x.done,
                                                   peerWaits := x.peerWaits }) part g) part g

/-- Members end: `n` of them, `here` that had arrived in the current phase; a kill breaks the group (R245, R246). -/
def endMembers (s : State) (part g n here : Nat) (broken : Bool) : State :=
  let x := s.group part g
  if x.state = 0 then s
  else
    let x' : Group := { x with done := x.done + BitVec.ofNat 16 n, arrived := x.arrived - BitVec.ofNat 16 here,
                               state := if broken then 3 else x.state }
    let s1 := s.setGroup part g x'
    if x'.exp.toNat ≤ x'.done.toNat then freeGroup s1 part g
    else if broken then serveReed s1 part g
    else completePhase s1 part g

/-- A thread leaves its groups at its end; the home of one on another package is told. -/
def leaveGroups (s : State) (key : Nat) (killed : Bool) : State :=
  let t := s.thread key
  let part := s.partOf (coreOf key)
  let named := [0, 1, 2, 3].map (fun j => t.gmOf j)
  (named.filter (· != 0xFFFF)).dedup.foldl (fun s g =>
    let x := s.group part g.toNat
    let n := (named.filter (· == g)).length
    if x.state ≠ 0 ∧ x.hpkg ≠ s.pk.pkg then s.send (.reed x.hpkg (BitVec.ofNat 4 part) g.toNat (s.tid key) (.leave killed))
    else endMembers s part g.toNat n (if tfind t.arrived g.toNat = some x.phase then 1 else 0) killed) s

/-- One member is dispatched (R245). -/
def joinGroup (s : State) (part g : Nat) : State :=
  let x := s.group part g
  let j := x.joined + 1
  if x.state ≠ 0 ∧ x.hpkg ≠ s.pk.pkg then s.send (.reed x.hpkg (BitVec.ofNat 4 part) g 0 .join)
  else s.setGroup part g { x with joined := j, state := if x.state = 1 ∧ j = x.exp then 2 else x.state }

/-- A message about a reed from another package reaches its home (R243-R249, log 107). -/
def peerReed (s : State) (part g : Nat) (tid : W64) (op : ReedOp) : State :=
  let x := s.group part g
  match op with
  | .arr =>
    let r := peerArrive s part g tid
    reedAnswer r.1 tid g r.2
  | .wait p => peerWait s part g tid p false
  | .sync =>
    let r := peerArrive s part g tid
    if r.2.getLsbD 63 || r.2.getLsbD 61 then reedAnswer r.1 tid g r.2
    else peerWait r.1 part g tid (r.2.extractLsb' 0 32) (r.2.getLsbD 62)
  | .supply n => if x.state = 1 then s.setGroup part g { x with promised := x.promised + n, scope := 5 } else s
  | .join => if x.state = 1 then joinGroup s part g else s
  | .leave killed =>
    let here := if x.peerIn.contains tid then 1 else 0
    endMembers (s.setGroup part g { x with peerIn := x.peerIn.filter (· != tid) }) part g 1 here killed

/-- Words 0 and 1 of an entry that is homed on another package (R242, log 107). -/
def remoteEntry (s : State) (part g : Nat) (w0 w1 : W64) : State :=
  if w1.extractLsb' 0 10 = s.pk.pkg then s
  else
    s.setGroup part g { s.group part g with
      state := w0.extractLsb' 62 2, scope := w0.extractLsb' 59 3, hcore := w0.extractLsb' 48 11, exp := w0.extractLsb' 32 16,
      joined := w0.extractLsb' 16 16, done := w0.extractLsb' 0 16, phase := w1.extractLsb' 32 32, arrived := w1.extractLsb' 16 16,
      hpkg := w1.extractLsb' 0 10 }

/-- Live migration takes a member's core to `c`: the scope of a group whose instance does not hold it widens (R244). -/
def widenScope (s : State) (part c : Nat) (t : Thread) : State :=
  ([0, 1, 2, 3].map (fun j => t.gmOf j)).foldl (fun s g =>
    let x := s.group part g.toNat
    if g = 0xFFFF ∨ x.state = 0 ∨ x.hpkg ≠ s.pk.pkg then s
    else s.setGroup part g.toNat { x with scope := BitVec.ofNat 3 (Nat.max x.scope.toNat (scopeSpan x.hcore.toNat c)) }) s

end

end Sys2Proof.Machine
end

