-- ==== Sys2Proof/Machine/Sync.lean ====
section
/-! DEFINITION. Synchronising objects of a core: scratchpad locks and their waiters (R65, R85), tagged words (R251-R256)
and bobbins (R257-R261). -/

namespace Sys2Proof.Machine

noncomputable section

/-! ## Scratchpad locks -/

/-- The storage byte a lock waiter waits for, from its EVAL. -/
def lockWaitByte (eval : W64) (wscb : BitVec 20) : Nat × Nat :=
  let o := (eval.extractLsb' 0 61).toNat
  if eval.extractLsb' 61 3 = 3 then (8, o % 0x100000)
  else
    let w := o / 0x400000 % 8
    let st := winByte w (o % 0x400000)
    (if w = 3 then scaleByte wscb st else st, st)

/-- The byte of the own scratchpad an SPL address names (R85). -/
def splByte (t : Thread) (a : Reg) : Nat :=
  (t.seg ((t.rg a).extractLsb' 61 3).toNat).base.toNat + ((t.rg a).extractLsb' 0 61).toNat

/-- The range of an SPLK, rounded outward to lines. -/
def splkRange (t : Thread) (a b : Reg) : Nat × Nat :=
  let o := splByte t a
  (o - o % 64, (o + (t.rg b).toNat + 63) / 64 * 64)

/-- Another slot's lock overlaps a range. -/
def lockOverlap (a : CoreArch) (slot lo hi : Nat) : Bool := a.locks.any (fun l => l.slot != slot && l.lo < hi && lo < l.hi)

/-- Serve the lock waiters of a core in arrival order: an SPLK takes its lock, an access issues again exempt from locks
for that one issue. DESIGN CHOICE (log 102): an SPLK whose range is free while the core holds four locks ends with status 1 (R85
counts the locks before the wait only). -/
def serveLocks (s : State) (core : Nat) : State :=
  (s.arch core).lockq.foldl (fun s key =>
    let t := s.thread key
    let a := s.arch core
    match t.state, t.wait with
    | .parked, some w =>
      if w.kind ≠ 0x0C ∨ w.reply.isSome then s.setArch core { a with lockq := a.lockq.filter (· != key) }
      else
        match w.instr with
        | .splk b ra d =>
          let r := splkRange t ra b
          if lockOverlap a (slotOf key) r.1 r.2 then s
          else if a.locks.length = 4 then
            answer (s.setArch core { a with lockq := a.lockq.filter (· != key) }) key (Reply.reg d 1)
          else
            let l : Lock := { slot := slotOf key, lo := r.1, hi := r.2, start := s.cyc core }
            answer (s.setArch core { a with locks := a.locks ++ [l], lockq := a.lockq.filter (· != key) }) key
              { Reply.reg d 0 with acquire := some 1 }
        | _ =>
          let b := lockWaitByte w.eval t.wscb
          let free (x : Nat) : Bool := (lockedByte a (slotOf key) x 1).isNone
          if free b.2 && free (if b.1 = 8 then b.2 else b.1) then
            let s1 := s.setArch core { a with lockq := a.lockq.filter (· != key) }
            answer (s1.setThread key { t with pass := true }) key Reply.again
          else s
    | _, _ => s.setArch core { a with lockq := a.lockq.filter (· != key) }) s

/-! ## Tagged words -/

/-- The key of a word's tag. -/
def tagKey (core off : Nat) : Nat := core * 2 ^ 17 + off / 8

def State.isFull (s : State) (core off : Nat) : Bool := s.mem.full.contains (tagKey core off)
def State.setTag (s : State) (core off : Nat) (full : Bool) : State :=
  { s with mem := { s.mem with full := if full then sadd s.mem.full (tagKey core off) else sdel s.mem.full (tagKey core off) } }

/-- The address register of a tag operation, and the right it needs beside T (R255). -/
def tagArgs : Instr → Option (Reg × Nat)
  | .lde _ a _ | .ldf _ a _ | .tagr _ a _ => some (a, rightR)
  | .stf _ _ a | .ste _ _ a | .tagi _ a _ => some (a, rightW)
  | _ => none

/-- Checks of R255: alignment, the segment's kind and rights, window W0; the owning core and byte. -/
def tagTarget (t : Thread) (core : Nat) (forward : Nat → Nat) (i : Instr) : Except Stop (Nat × Nat) := do
  match tagArgs i with
  | none => return (core, 0)
  | some (a, right) =>
    let ea := t.rg a
    need (ea.extractLsb' 0 3 = 0) ALIGN ea
    let g := t.seg (ea.extractLsb' 61 3).toNat
    need ((g.kind = 2 ∨ g.kind = 3) ∧ g.attr.getLsbD rightT) SEGV ea
    let (kind, o) ← segCheck t ea 8 right
    need (kind = 3 ∨ o + 8 ≤ 0x100000) SEGV ea
    return if kind = 3 then (forward (o / 0x100000), o % 0x100000) else (core, o)

/-- The owning core and byte of a tag operation, with the partition's bound and, through the tile segment, forwarding (R324, R338). -/
def tagPlace (s : State) (key : Nat) (i : Instr) : Except Stop (Nat × Nat) := do
  let t := s.thread key
  let (c, o) ← tagTarget t (coreOf key) (forwardCore s t.kid) i
  need (tileAllowed s (coreOf key) c) ACCESS (match tagArgs i with
    | some x => t.rg x.1
    | none => 0)
  return (c, o)

/-- A word of a scratchpad. -/
def spadWord (m : Memory) (core off : Nat) : W64 := BitVec.ofNat 64 (natOfBytes (spadBytes m core off 8))

/-- Perform a tag operation at its scratchpad, data and tag together; none where it must wait (R255). -/
def tagTry (s : State) (core off : Nat) (t : Thread) (i : Instr) : Option (State × Reply) :=
  let full := s.isFull core off
  let v := spadWord s.mem core off
  let bad := spadPoisoned s.mem core off 8
  let put (x : W64) : State := { s with mem := spadWrite s.mem core off (bytesOfNat 8 x.toNat) }
  match i with
  | .lde sc _ d =>
    if !full then none
    else if bad then some (s, { Reply.plain with kill := true })
    else some (s.setTag core off false, { Reply.reg d v with acquire := some sc })
  | .ldf sc _ d =>
    if !full then none
    else if bad then some (s, { Reply.plain with kill := true })
    else some (s, { Reply.reg d v with acquire := some sc })
  | .stf _ b _ => if full then none else some ((put (t.rg b)).setTag core off true, Reply.plain)
  | .ste _ b _ => some ((put (t.rg b)).setTag core off false, Reply.plain)
  | .tagi _ _ x => some (s.setTag core off (x = 1), Reply.plain)
  | .tagr _ _ d => some (s, Reply.reg d (if full then 1 else 0))
  | _ => some (s, Reply.plain)

/-- A lock covers the word for the slot of a thread: one of another slot, or any for a thread of another core (R65). -/
def tagLocked (s : State) (core off key : Nat) : Bool :=
  (lockedByte (s.arch core) (if core = coreOf key then slotOf key else 8) off 8).isSome

/-- Serve the waiting operations of one word in arrival order until one must wait again (R252), or for a lock (R65). -/
def serveTag (core off : Nat) : List Nat → State → State
  | [], s => s
  | key :: rest, s =>
    let t := s.thread key
    let drop (s : State) : State :=
      s.setCore core { s.core core with tagWait := (s.core core).tagWait.filter (· != key) }
    match t.state, t.wait with
    | .parked, some w =>
      match tagPlace s key w.instr with
      | .ok (c, o) =>
        if c = core ∧ o = off ∧ w.reply.isNone then
          if tagLocked s core off key then s else
          match tagTry s core off t w.instr with
          | none => s
          | some (s1, r) => serveTag core off rest (answer (drop s1) key r)
        else serveTag core off rest s
      | .error _ => serveTag core off rest (drop s)
    | _, _ => serveTag core off rest (drop s)

/-- Serve what waits at a core for its words. -/
def serveTags (s : State) (core : Nat) : State :=
  (s.core core).tagWait.foldl (fun s key =>
    match (s.thread key).wait with
    | some w =>
      match tagPlace s key w.instr with
      | .ok (c, o) => if c = core then serveTag core o (s.core core).tagWait s else s
      | .error _ => s
    | none => s) s

/-- Release the locks of a core for which `p` holds, and serve the waiters: those parked on the lock, then the tag operations that it
delayed (R65, R252). -/
def releaseLocks (s : State) (core : Nat) (p : Lock → Bool) : State :=
  let a := s.arch core
  if a.locks.any p then serveTags (serveLocks (s.setArch core { a with locks := a.locks.filter (fun l => !p l) }) core) core else s

/-- A tag operation at the owner: performed with those it lets go, or entered in the wait list; a full list refuses it
and the request is sent again (R252): the last part is false then. -/
def tagArrive (s : State) (core off key : Nat) (i : Instr) : State × Bool :=
  match tagTry s core off (s.thread key) i with
  | some (s1, r) => (serveTag core off (s1.core core).tagWait (answer s1 key r), true)
  | none =>
    let c := s.core core
    if c.tagWait.length < 64 then (s.setCore core { c with tagWait := c.tagWait ++ [key] }, true) else (s, false)

/-- Take a thread's entry off every tag wait list. -/
def withdrawTag (s : State) (key : Nat) : State :=
  s.cores.foldl (fun s kc =>
    let c := s.core kc.1
    if c.tagWait.contains key then s.setCore kc.1 { c with tagWait := c.tagWait.filter (· != key) } else s) s

/-! ## Bobbins -/

/-- A slot's state and holder; holder 8 is the copy engine, 9 none. -/
def Bobbin.slot (b : Bobbin) (i : Nat) : BobState × Nat := tget (BobState.free, 9) b.slots i
def Bobbin.setSlot (b : Bobbin) (i : Nat) (x : BobState × Nat) : Bobbin := { b with slots := tput b.slots i x }
/-- The next index modulo NSLOT. -/
def Bobbin.next (b : Bobbin) (i : Nat) : Nat := if b.nslot = 0 then 0 else (i + 1) % b.nslot

/-- One step of an index that stands at a slot it passes (R258). -/
def bobStep (b : Bobbin) : Option Bobbin :=
  if (b.slot b.fili).1 = .committed then
    some { b.setSlot b.fili (.filled, 9) with fili := b.next b.fili, filled := b.filled + 1 }
  else if (b.slot b.fili).1 = .skipped then
    some { b.setSlot b.fili (.released, 9) with fili := b.next b.fili }
  else if b.slot b.acqi = (.released, 9) then
    some { b with acqi := b.next b.acqi, slots := tput b.slots b.acqi (.released, 10) }
  else if (b.slot b.reli).1 = .released ∧ (b.slot b.reli).2 ≠ 9 then
    some { b.setSlot b.reli (.free, 9) with reli := b.next b.reli, free := b.free + 1 }
  else none

/-- Step the indices as far as they go. -/
def bobAdvance : Nat → Bobbin → Bobbin
  | 0, b => b
  | fuel + 1, b => match bobStep b with
    | none => b
    | some b' => bobAdvance fuel b'

def State.bobbin (s : State) (core n : Nat) : Bobbin := tget {} (s.arch core).bobbins n
def State.setBobbin (s : State) (core n : Nat) (b : Bobbin) : State :=
  s.setArch core { s.arch core with bobbins := tput (s.arch core).bobbins n b }

/-- The segmented address of a slot (R261). -/
def Bobbin.addr (b : Bobbin) (i : Nat) : W64 := BitVec.ofNat 64 (0x4000000000000000 + b.base + i * b.slotsz)

/-- Reserve slot RESI for a holder. -/
def Bobbin.reserve (b : Bobbin) (holder : Nat) : Bobbin :=
  { b.setSlot b.resi (.reserved, holder) with resi := b.next b.resi, free := b.free - 1 }
/-- Acquire slot ACQI for a holder. -/
def Bobbin.take (b : Bobbin) (holder : Nat) : Bobbin :=
  { b.setSlot b.acqi (.acquired, holder) with acqi := b.next b.acqi, filled := b.filled - 1 }

/-- The copy engine as a waiting producer: the plain queue, or the urgent one. -/
def copyWaiter (urgent : Bool) : Nat := if urgent then 20001 else 20000

/-- Give a reserved slot to a copy entry at the head of its queue. -/
def giveCopySlot (s : State) (core : Nat) (urgent : Bool) (i : Nat) : State :=
  let a := s.arch core
  let give (q : EngineQueue) : EngineQueue :=
    { q with entries := match q.entries with
      | [] => []
      | e :: r => { e with bobSlot := some i } :: r }
  s.setArch core (if urgent then { a with ucq := give a.ucq } else { a with cq := give a.cq })

/-- Serve waiting producers and consumers of a bobbin in arrival order (R258). -/
def bobServe : Nat → State → Nat → Nat → State
  | 0, s, _, _ => s
  | fuel + 1, s, core, n =>
    let b := bobAdvance (4 * (s.bobbin core n).nslot + 4) (s.bobbin core n)
    let s := s.setBobbin core n b
    match b.prodw, b.consw with
    | key :: rest, _ =>
      if 0 < b.free then
        let i := b.resi
        if 20000 ≤ key then
          bobServe fuel (giveCopySlot (s.setBobbin core n { b.reserve 8 with prodw := rest }) core (key == 20001) i) core n
        else
          let d := match (s.thread key).wait with
            | some w => (match w.instr with
              | .bbres _ d => d
              | _ => 0)
            | none => 0
          bobServe fuel (answer (s.setBobbin core n { b.reserve (slotOf key) with prodw := rest }) key
            { Reply.reg d (b.addr i) with acquire := some 1 }) core n
      else bobServeConsumers s core n b
    | [], _ => bobServeConsumers s core n b
where
  /-- Consumers take filled slots. -/
  bobServeConsumers (s : State) (core n : Nat) (b : Bobbin) : State :=
    (b.consw.foldl (fun s key =>
      let b := s.bobbin core n
      if b.filled = 0 then s
      else
        let b := bobAdvance (4 * b.nslot + 4) b
        let d := match (s.thread key).wait with
          | some w => (match w.instr with
            | .bbacq _ d => d
            | _ => 0)
          | none => 0
        answer (s.setBobbin core n { b.take (slotOf key) with consw := b.consw.drop 1 }) key
          { Reply.reg d (b.addr b.acqi) with acquire := some 1 }) s)

/-- Bring a bobbin up to date after a change. -/
def bobSettle (s : State) (core n : Nat) : State := bobServe ((s.bobbin core n).prodw.length + 1) s core n

/-- A holder ends: its reserved slots are skipped and its acquired slots released, with ABN (R258); its waits go. -/
def bobHolderEnds (s : State) (core holder key : Nat) : State :=
  (s.arch core).bobbins.foldl (fun s kb =>
    let n := kb.1
    let b := s.bobbin core n
    let held := b.slots.any (fun x => x.2.2 = holder && (x.2.1 = .reserved || x.2.1 = .acquired))
    let slots := b.slots.map (fun x =>
      if x.2.2 = holder ∧ x.2.1 = .reserved then (x.1, (BobState.skipped, 9))
      else if x.2.2 = holder ∧ x.2.1 = .acquired then (x.1, (BobState.released, holder)) else x)
    let b' : Bobbin := { b with slots := slots, abn := b.abn || held, prodw := b.prodw.filter (· != key), consw := b.consw.filter (· != key) }
    if b' = b then s else bobSettle (s.setBobbin core n b') core n) s

/-- Withdraw a thread's bobbin wait. -/
def withdrawBobbin (s : State) (core key : Nat) : State :=
  (s.arch core).bobbins.foldl (fun s kb =>
    let b := s.bobbin core kb.1
    s.setBobbin core kb.1 { b with prodw := b.prodw.filter (· != key), consw := b.consw.filter (· != key) }) s

end

end Sys2Proof.Machine
end

