-- ==== Sys2Proof/Machine/Engines.lean ====
section
/-! DEFINITION. Engine queues (R168-R171, R180, R181, R336): tokens, enqueueing, fault records, cancellation, follow-on
release, and the end of an entry. -/

namespace Sys2Proof.Machine

noncomputable section

/-- A queue of an engine (1 matrix, 2 copy); slot 6 has its own urgent queue (R336). -/
def CoreArch.queue (a : CoreArch) (eng : Nat) (urgent : Bool) : EngineQueue :=
  if eng = 1 then (if urgent then a.umq else a.mq) else (if urgent then a.ucq else a.cq)
def CoreArch.setQueue (a : CoreArch) (eng : Nat) (urgent : Bool) (q : EngineQueue) : CoreArch :=
  if eng = 1 then (if urgent then { a with umq := q } else { a with mq := q })
  else (if urgent then { a with ucq := q } else { a with cq := q })
def State.engine (s : State) (core eng : Nat) (urgent : Bool) : EngineQueue := (s.arch core).queue eng urgent
def State.setEngine (s : State) (core eng : Nat) (urgent : Bool) (q : EngineQueue) : State :=
  s.setArch core ((s.arch core).setQueue eng urgent q)
/-- The slot uses the urgent queues. -/
def isUrgentSlot (slot : Nat) : Bool := slot % 16 == 6
/-- Places of a queue: two, or one for urgent work. -/
def engineSize (urgent : Bool) : Nat := if urgent then 1 else 2

/-- The token of an entry (R170). -/
def engineToken (eng slot : Nat) (serial : W32) : W64 :=
  BitVec.ofNat 64 (eng * 2 ^ 38 + slot * 2 ^ 35 + serial.toNat)

/-- A serial has ended: the ended count has reached it in a window of 2^31, or it is older than that (R170). -/
def serialEnded (q : EngineQueue) (serial : W32) : Bool :=
  decide ((q.ended - serial).toNat < 2 ^ 31) || (q.lap && decide ((q.enq - q.ended).toNat < (serial - q.ended).toNat))

/-- Write-stream stores of a slot's runs are not all performed (R228). -/
def runStores (s : State) (key : Nat) : Bool :=
  ((s.core (coreOf key)).storeq ++ (s.thread key).cmp).any (fun e => e.slot == slotOf key && e.stream.isSome)

/-- What an EFENCE made later entries of a thread wait for has ended (R190): an engine entry, or a run with its stores. -/
def barrierPassed (s : State) (key : Nat) (x : Nat × W32) : Bool :=
  if x.1 = 3 then ((s.thread key).run.isNone || (s.thread key).runSer != x.2) && !runStores s key
  else serialEnded (s.engine (coreOf key) x.1 (isUrgentSlot (slotOf key))) x.2

/-- The entry as it enters its queue. -/
def mkEntry (slot : Nat) (serial : W32) (kind : EntryKind) (released cancelled : Bool) (after : List (Nat × W32)) : Entry :=
  { serial := serial, slot := slot, kind := kind, state := .queued, released := released, cancelled := cancelled, start := 0,
    nest := [], next := 0, pipe := [], rowsDone := [], fault := none, page := false, bobSlot := none, after := after }

/-- The entry is a job that waits for its release (R180). -/
def Entry.unreleased (e : Entry) : Bool :=
  match e.kind with
  | .job _ _ park _ _ _ _ => park && !e.released
  | _ => false

/-- The slot's fault record for an engine takes a fault unless it holds an unreported one (R171). -/
def recordFault (s : State) (core slot eng : Nat) (serial : W32) (cause : Byte) (addr : W64) : State :=
  if 16 ≤ slot then s
  else
    let key := keyOf core slot
    let t := s.thread key
    if (t.faultOf eng).unreported then s
    else s.setThread key { t with
      efault := tput t.efault eng { fser := serial, fcause := cause, faddr := addr, unreported := true } }

/-- Mark entries for cancellation. -/
def cancelWhere (s : State) (core eng : Nat) (urgent : Bool) (p : Entry → Bool) : State :=
  let q := s.engine core eng urgent
  s.setEngine core eng urgent { q with entries := q.entries.map (fun e => if p e then { e with cancelled := true } else e) }

/-- A fault of an entry: its record, and the cancellation of the slot's later entries (R171). -/
def faultEntry (s : State) (core eng : Nat) (e : Entry) (cause : Byte) (addr : W64) : State :=
  let s1 := recordFault s core e.slot eng e.serial cause addr
  cancelWhere s1 core eng (isUrgentSlot e.slot) (fun x => x.slot = e.slot && x.serial != e.serial)

/-- The engine an instruction enqueues in: 1 matrix, 2 copy, 0 none. -/
def engineOf : Instr → Nat
  | .mjobAcc _ _ _ _ _ _ _ | .mjobOvr _ _ _ _ _ _ _ | .mldb _ _ _ _ _ | .mzero _ _ | .mrd _ _ _ _ => 1
  | .cpyMem _ _ _ _ _ _ _ _ | .cpyBob _ _ _ _ _ _ _ _ | .cpyCim _ _ _ _ _ _ _ _ => 2
  | _ => 0

/-- The slot's entries of an engine that have not ended. -/
def slotEntries (s : State) (key eng : Nat) : List Entry :=
  (s.engine (coreOf key) eng (isUrgentSlot (slotOf key))).entries.filter (fun e => e.slot == slotOf key)

/-- A waiting EFENCE's named queues hold no entry of the slot. -/
def efenceClear (s : State) (key : Nat) (m : BitVec 5) : Bool :=
  !(m.getLsbD 0 && !(slotEntries s key 1).isEmpty) && !(m.getLsbD 1 && !(slotEntries s key 2).isEmpty)

/-- Slots of a core whose enqueue has been let go on and has not issued again yet: they take the queue's free entries. -/
def promisedEntries (s : State) (core eng : Nat) (urgent : Bool) : Nat :=
  ((List.range 8).filter (fun slot => isUrgentSlot slot == urgent && match (s.thread (keyOf core slot)).wait with
    | some w => w.kind == 0x0A && engineOf w.instr == eng && w.reply.isSome
    | none => false)).length

/-- What a thread waits for on an engine has come about: its token has ended, its named queues are empty, or an entry of its
queue is free (R169, R190). -/
def engineWaitOver (s : State) (key : Nat) (w : Wait) : Bool :=
  let core := coreOf key
  match w.instr with
  | .ewait a _ =>
    let t := (s.thread key).rg a
    serialEnded (s.engine core (t.extractLsb' 38 2).toNat (isUrgentSlot (t.extractLsb' 35 3).toNat)) (t.extractLsb' 0 32)
  | .efence m => efenceClear s key m
  | i =>
    let u := isUrgentSlot (slotOf key)
    decide ((s.engine core (engineOf i) u).entries.length + promisedEntries s core (engineOf i) u < engineSize u)

/-- Threads parked on an engine (WKIND 0x0A) whose wait is over issue again. -/
def wakeEngine (s : State) (core : Nat) : State :=
  upTo 8 (fun s slot =>
    match (s.thread (keyOf core slot)).wait with
    | some w =>
      if w.kind = 0x0A ∧ w.reply = none ∧ engineWaitOver s (keyOf core slot) w then answer s (keyOf core slot) Reply.again else s
    | none => s) s

/-- How an entry ends. -/
inductive EntryEnd where
  | done
  | faulted (cause : Byte) (addr : W64)
  | cancelled
deriving DecidableEq, Repr

/-- A FOLLOW copy has ended DONE: it releases the slot's oldest unreleased PARK job, or adds a follow credit (R180). DESIGN CHOICE
(log 99): a job that is marked cancelled and has not left the queue yet takes no release. -/
def followRelease (s : State) (core slot : Nat) : State :=
  if 16 ≤ slot then s
  else
    let u := isUrgentSlot slot
    let q := s.engine core 1 u
    let mine (e : Entry) : Bool := e.slot == slot && e.unreleased && !e.cancelled
    if q.entries.any mine then
      s.setEngine core 1 u { q with entries := replaceFirst mine (fun e => { e with released := true, state := .queued }) q.entries }
    else
      let t := s.thread (keyOf core slot)
      s.setThread (keyOf core slot) { t with fcred := if t.fcred = 255 then 255 else t.fcred + 1 }

/-- A FOLLOW copy has ended otherwise: the job it would have released is cancelled, as a fault of cause ENGINE. -/
def followCancel (s : State) (core slot : Nat) : State :=
  if 16 ≤ slot then s
  else
    let u := isUrgentSlot slot
    match (s.engine core 1 u).entries.find? (fun e => e.slot == slot && e.unreleased && !e.cancelled) with
    | none => s
    | some e =>
      let s1 := recordFault s core slot 1 e.serial ENGINE 0
      cancelWhere s1 core 1 u (fun x => x.slot = slot && (x.serial - e.serial).toNat < 2 ^ 31)

/-- The bobbin slot a copy row had reserved is skipped (R258). -/
def skipCopySlot (s : State) (core n i : Nat) : State :=
  let b := s.bobbin core n
  bobSettle (s.setBobbin core n { b.setSlot i (.skipped, 9) with abn := true }) core n

/-- A copy that waited for a bobbin slot waits no longer. -/
def dropCopyWaiter (s : State) (core n : Nat) (urgent : Bool) : State :=
  let b := s.bobbin core n
  if b.prodw.contains (copyWaiter urgent) then
    bobSettle (s.setBobbin core n { b with prodw := b.prodw.filter (· != copyWaiter urgent) }) core n
  else s

/-- The head entry of a queue ends (R170, R171, R180). -/
def popEntry (s : State) (core eng : Nat) (urgent : Bool) (how : EntryEnd) : State :=
  let q := s.engine core eng urgent
  match q.entries with
  | [] => s
  | e :: rest =>
    let s1 := s.setEngine core eng urgent { q with entries := rest, ended := e.serial }
    let s2 := match how with
      | .faulted c a => faultEntry s1 core eng e c a
      | _ => s1
    let s3 := match e.kind with
      | .copy kind follow _ dst _ _ _ _ =>
        let s3 := match e.bobSlot with
          | some i => if kind = 1 ∧ how ≠ .done then skipCopySlot s2 core (dst.toNat % 16) i else s2
          | none => if kind = 1 then dropCopyWaiter s2 core (dst.toNat % 16) urgent else s2
        if follow then (if how = .done then followRelease s3 core e.slot else followCancel s3 core e.slot) else s3
      | _ => s2
    wakeEngine s3 core

/-- A cancelled entry that has nothing left in its pipe. -/
def Entry.reapable (e : Entry) : Bool := e.cancelled && e.pipe.isEmpty

/-- Cancelled entries at the head of a queue end CANCELLED (R171, R181). -/
def reapQueue : Nat → State → Nat → Nat → Bool → State
  | 0, s, _, _, _ => s
  | fuel + 1, s, core, eng, urgent =>
    match (s.engine core eng urgent).entries with
    | e :: _ => if e.reapable then reapQueue fuel (popEntry s core eng urgent .cancelled) core eng urgent else s
    | [] => s

/-- Reap every queue of a core; a cancelled copy may cancel a job. -/
def reapCore (s : State) (core : Nat) : State :=
  let s1 := reapQueue 2 (reapQueue 2 s core 2 false) core 2 true
  reapQueue 2 (reapQueue 2 s1 core 1 false) core 1 true

/-- End the head entry, and what that cancels. -/
def endEntry (s : State) (core eng : Nat) (urgent : Bool) (how : EntryEnd) : State := reapCore (popEntry s core eng urgent how) core

/-- Enqueue an entry for a slot (R169): the new state and its serial, none where the queue is full. A service core has no engine
(R10): DESIGN CHOICE (log 98), its queues never have a free entry. -/
def enqueueEntry (s : State) (key eng : Nat) (kind : EntryKind) : Option (State × W32) :=
  let core := coreOf key
  let slot := slotOf key
  let u := isUrgentSlot slot
  let q := s.engine core eng u
  if engineSize u ≤ q.entries.length ∨ 1280 ≤ core then none
  else
    let t := s.thread key
    let serial := q.enq + 1
    let park := match kind with
      | .job _ _ p _ _ _ _ => p
      | _ => false
    let credit := park && t.fcred != 0
    let s1 := if credit then s.setThread key { t with fcred := t.fcred - 1 } else s
    let e := mkEntry slot serial kind credit (t.faultOf eng).unreported ((tget [] t.efence eng).filter (fun x => !barrierPassed s key x))
    some (reapCore (s1.setEngine core eng u { q with
      entries := q.entries ++ [e], enq := serial, lap := q.lap || serial.getLsbD 31 }) core, serial)

/-- KILL cancels a slot's entries; what remains of them belongs to no thread (R191). -/
def killEntries (s : State) (core slot : Nat) : State :=
  let kill (q : EngineQueue) : EngineQueue :=
    { q with entries := q.entries.map (fun e => if e.slot = slot then { e with cancelled := true, slot := slot + 16 } else e) }
  let a := s.arch core
  reapCore (s.setArch core { a with mq := kill a.mq, cq := kill a.cq, umq := kill a.umq, ucq := kill a.ucq }) core

/-- The slot has entries that have not ended. -/
def hasEntries (s : State) (core slot : Nat) : Bool :=
  let a := s.arch core
  (a.mq.entries ++ a.cq.entries ++ a.umq.entries ++ a.ucq.entries).any (fun e => e.slot == slot)

end

end Sys2Proof.Machine
end

