-- ==== Sys2Proof/Machine/Queues.lean ====
section
/-! DEFINITION. Work queues, kernels and tokens (R296-R316): the launch record and its placement table, acceptance,
tokens and their waiters, cancellation, errors, the end of a kernel, and arbitration. -/

namespace Sys2Proof.Machine

noncomputable section

/-! ## Records -/

/-- A field of a launch record: first bit and width (R301). -/
def Kernel.field (k : Kernel) (lo n : Nat) : Nat := (k.record.extractLsb' lo n).toNat
/-- A field of a handler entry (R379). -/
def Kernel.hfield (k : Kernel) (lo n : Nat) : Nat := (k.handler.extractLsb' lo n).toNat
def Kernel.isShuttle (k : Kernel) : Bool := k.shuttle.isSome
def Kernel.nthr (k : Kernel) : Nat := if k.isShuttle then k.hfield 64 16 else k.field 448 16
def Kernel.wdog (k : Kernel) : Nat := if k.isShuttle then k.hfield 128 32 else k.field 416 32
def Kernel.wlim (k : Kernel) : Nat := if k.isShuttle then k.hfield 96 32 else k.field 384 32
def Kernel.entry (k : Kernel) : Nat := if k.isShuttle then k.hfield 0 48 else k.field 0 48
def Kernel.rscope (k : Kernel) : Nat := if k.isShuttle then k.hfield 48 3 else k.field 48 3
def Kernel.excl (k : Kernel) : Bool := if k.isShuttle then k.handler.getLsbD 61 else k.record.getLsbD 58
def Kernel.urgent (k : Kernel) : Bool := !k.isShuttle && k.record.getLsbD 63
def Kernel.plist (k : Kernel) : Bool := !k.isShuttle && k.record.getLsbD 59
/-- Priority of a shuttle (R380). -/
def Kernel.shuttlePrio (k : Kernel) : Nat := match k.shuttle with
  | some sh => (sh.desc.extractLsb' 10 2).toNat
  | none => 0
/-- The signal token. -/
def Kernel.signal (k : Kernel) : Option Nat := if !k.isShuttle && k.record.getLsbD 62 then some (k.field 496 16) else none
/-- The valid wait tokens. -/
def Kernel.waits (k : Kernel) : List Nat :=
  if k.isShuttle then []
  else (if k.record.getLsbD 60 then [k.field 464 16] else []) ++ (if k.record.getLsbD 61 then [k.field 480 16] else [])

/-- KID of a kernel's threads (R76). -/
def kidOf (part q : Nat) (serial : W32) : W64 := BitVec.ofNat 64 (part * 2 ^ 48 + q * 2 ^ 32 + serial.toNat)

def State.kernel (s : State) (q : Nat) (serial : W32) : Option Kernel := (s.queue q).kernels.find? (fun k => k.serial == serial)
def State.setKernel (s : State) (q : Nat) (k : Kernel) : State :=
  s.setQueue q { s.queue q with kernels := replaceFirst (fun x => x.serial == k.serial) (fun _ => k) (s.queue q).kernels }
/-- The kernel has ended: nothing of it is held any longer. -/
def State.dropKernel (s : State) (q : Nat) (serial : W32) : State :=
  s.setQueue q { s.queue q with kernels := (s.queue q).kernels.filter (fun x => x.serial != serial) }
/-- Queue and serial of a KID. -/
def kidQueue (kid : W64) : Nat := (kid.extractLsb' 32 15).toNat
def kidSerial (kid : W64) : W32 := kid.extractLsb' 0 32

/-- The partition of a queue. -/
def State.queuePart (s : State) (q : Nat) : Nat := (s.queue q).part.toNat
/-- The die of a queue's queue unit (R296). -/
def queueDie (q : Nat) : Nat := q / 8192

/-- Records held, QUEUED or WAITING, in arrival order (R300). -/
def WorkQueue.held (w : WorkQueue) : List Kernel := w.kernels.filter (fun k => k.state = .queued || k.state = .waiting)
def WorkQueue.depth (w : WorkQueue) : Nat := w.held.length
/-- A queue's capacity (R300). -/
def WorkQueue.capacity (w : WorkQueue) : Nat := w.qdep.toNat + 1 + (if w.spill then w.splen.toNat + 1 else 0)

/-- The head: the oldest record, or the oldest shuttle of the highest priority (R382). -/
def WorkQueue.head (w : WorkQueue) : Option Kernel :=
  if w.shuttle then
    w.held.foldl (fun m k => match m with
      | none => some k
      | some h => if h.shuttlePrio < k.shuttlePrio then some k else m) none
  else w.held.head?

/-! ## Tokens (R312, R320) -/

def State.token (s : State) (part t : Nat) : Token := tget {} (s.part part).tokens t
def State.setToken (s : State) (part t : Nat) (x : Token) : State :=
  s.setPart part { s.part part with tokens := tput (s.part part).tokens t x }
/-- The token word. -/
def Token.word (x : Token) : W64 := BitVec.ofNat 64 ((if x.err then 2 ^ 32 else 0) + x.count.toNat)

/-- What a TOKW parked on a token receives once the token is satisfied or in error. -/
def tokenReply (x : Token) (t : Nat) (th : Thread) (w : Wait) : Option Reply :=
  match w.instr with
  | .tokw a d =>
    if w.kind = 0x0D ∧ (th.rg a).toNat = t then some { Reply.reg d (if x.err then 1 else 0) with acquire := if x.err then none else some 4 }
    else none
  | _ => none

/-- Answer every TOKW parked on the token if it is satisfied or in error. -/
def serveToken (s : State) (part t : Nat) : State :=
  let x := s.token part t
  if x.err || x.count == 0 then
    answerOff ((s.keysOf part).foldl (fun s key =>
      match (s.thread key).state, (s.thread key).wait with
      | .parked, some w =>
        (match tokenReply x t (s.thread key) w with
         | some r => answer s key r
         | none => s)
      | _, _ => s) s) part (tokenReply x t)
  else s

/-- TOKS of a value (R320): the status. -/
def tokenSignal (s : State) (part t : Nat) (v : W64) : State × W64 :=
  let x := s.token part t
  let c := v.extractLsb' 0 32
  if v.getLsbD 63 then (serveToken (s.setToken part t { err := false, count := c }) part t, 0)
  else if x.err then (s, 2)
  else if x.count < c then (serveToken (s.setToken part t { x with count := 0 }) part t, 1)
  else (serveToken (s.setToken part t { x with count := x.count - c }) part t, 0)

/-- Set ERROR on a token. -/
def tokenError (s : State) (part t : Nat) : State :=
  serveToken (s.setToken part t { s.token part t with err := true }) part t

/-! ## Shuttle replies at a kernel's end (R383, R384) -/

/-- The second word of a reply. -/
def replyWord (err nores cncl : Bool) (cause : Byte) (tid : W64) : W64 :=
  BitVec.ofBool true ++ BitVec.ofBool err ++ BitVec.ofBool nores ++ BitVec.ofBool cncl ++ 0#12 ++ cause ++ 0#14 ++ tid.extractLsb' 0 26

/-- Send the reply of a shuttle kernel to its sender's package, once. -/
def sendReply (s : State) (q : Nat) (k : Kernel) (w1 : W64) (w2 : W64) : State :=
  match k.shuttle with
  | some sh => s.send (.shuttleReply (sh.tid.extractLsb' 16 10) (s.queue q).part sh.kid sh.tid w1 w2 (sh.desc.extractLsb' 48 16))
  | none => s

/-- The reply a kernel's end makes where SHTR has made none. -/
def replyAtEnd (s : State) (q : Nat) (k : Kernel) (faulted cancelled : Bool) : State :=
  if k.isShuttle && !k.replied then
    sendReply s q k 0 (replyWord (faulted || cancelled) true cancelled (if faulted then k.cause else 0) k.tid0)
  else s

/-! ## The placement table (R302, R306) -/

/-- A dispatcher's translation of one address: its own walk, at home, for reading (R348, log 20). -/
def dispTranslate (s : State) (part dva : Nat) : Except Stop (State × Nat) :=
  if 2 ^ 47 ≤ dva then .error (.trap ACCESS 0)
  else
    match walk s part dva with
    | .fault k => .error (.page dva k accRead 0)
    | .leaf l =>
      if leafCls l.word = 2 ∧ l.word.getLsbD 7 then .error (.page dva 2 accRead 0)
      else if !l.word.getLsbD 1 ∨ leafCls l.word = 4 then .error (.trap ACCESS 0)
      else .ok (setAD s l accRead, leafPA l.word + dva % l.size)

/-- Read a range for a dispatcher. -/
def dispRead (s : State) (part a n : Nat) : Except Stop (State × List Byte) :=
  (rangePieces a n).foldl (fun r p => do
    let (s, bs) ← r
    let x ← dispTranslate s part p.1
    return (x.1, bs ++ mreadN s.mem.ram x.2 p.2)) (.ok (s, []))

/-- A little-endian field of a list of bytes. -/
def fieldAt (b : List Byte) (o n : Nat) : Nat := natOfBytes ((b.drop o).take n)

/-- Read one group entry and its rank list. -/
def readGroup (s : State) (part gtab i : Nat) : Except Stop (State × GroupUse × Bool) := do
  let (s, b) ← dispRead s part (gtab + 16 * i) 16
  let n := fieldAt b 4 2
  let (s, l) ← dispRead s part (fieldAt b 8 8) (2 * n)
  let ranks := (List.range n).map (fun j => fieldAt l (2 * j) 2)
  return (s, { num := fieldAt b 0 2, kind := fieldAt b 2 1, exp := fieldAt b 6 2, ranks := ranks },
    fieldAt b 3 1 == 0 && decide (1 ≤ n) && decide (n ≤ 10240) && decide (fieldAt b 0 2 ≤ 255))

/-- What the placement table of a launch says, with the checks of R306 in order. -/
structure Placement where
  pmask : BitVec 4
  places : List (Nat × Nat)
  groups : List GroupUse
deriving DecidableEq, Repr

/-- Cores of a partition on the dies of a mask. -/
def coresOn (s : State) (part : Nat) (mask : BitVec 4) : List Nat :=
  (s.cores.filter (fun kc => kc.1 < 1280 && kc.2.asg && kc.2.part.toNat == part && mask.getLsbD (dieOf kc.1))).map (·.1)

/-- The core is assigned to the partition. -/
def assignedTo (s : State) (core part : Nat) : Bool :=
  decide (core < 1280) && (s.core core).asg && (s.core core).part.toNat == part

/-- A launch's group entries, one after the other (R243): a definition takes a FREE entry, and no entry takes more members than EXP. -/
def groupsOk (s : State) (part : Nat) (gs : List GroupUse) : Bool :=
  (gs.foldl (fun (r : Tab Group × Bool) g =>
    let x := (tfind r.1 g.num).getD (s.group part g.num)
    let n := g.ranks.length
    if g.kind = 1 then (tput r.1 g.num { x with promised := x.promised + n }, r.2 && x.state == 1 && decide (x.promised + n ≤ x.exp.toNat))
    else
      let exp := if g.kind = 2 then g.exp else n
      (tput r.1 g.num { state := 1, exp := BitVec.ofNat 16 exp, promised := n }, r.2 && x.state == 0 && decide (1 ≤ exp) && decide (n ≤ exp)))
    ([], true)).2

/-- Validation at DISPATCHING (R306). -/
def validate (s : State) (q : Nat) (k : Kernel) : Except Stop (State × Placement) := do
  let part := s.queuePart q
  let fmt (c : Bool) : Except Stop Unit := need c FORMAT 0
  let acc (c : Bool) : Except Stop Unit := need c ACCESS 0
  if k.isShuttle then return (s, { pmask := BitVec.ofNat 4 (k.hfield 80 4), places := [], groups := [] })
  fmt (k.field 51 7 == 0 && decide (2 ≤ k.rscope) && decide (k.rscope ≤ 5) && k.entry % 4 == 0 && decide (k.nthr ≤ 10240))
  fmt (!k.urgent || (s.queue q).prioNow == 7)
  if k.nthr = 0 then return (s, { pmask := 0, places := [], groups := [] })
  let ptab := k.field 320 64
  fmt (ptab % 8 == 0)
  let (s, h) ← dispRead s part ptab 16
  let (s, pl) ← if k.plist then dispRead s part (ptab + 16) (2 * k.nthr) else pure (s, [])
  let ngrp := fieldAt h 0 2
  let pmask := BitVec.ofNat 4 (fieldAt h 2 1)
  fmt (fieldAt h 3 5 == 0 && fieldAt h 2 1 / 16 == 0 && decide (ngrp ≤ 256) && (k.plist || pmask != 0))
  let gtab := fieldAt h 8 8
  fmt (decide (ngrp = 0) || gtab % 16 == 0)
  let (s, gs, ok) ← (List.range ngrp).foldl (fun r i => do
    let (s, l, ok) ← r
    let x ← readGroup s part gtab i
    return (x.1, l ++ [x.2.1], ok && x.2.2)) (pure (s, ([] : List GroupUse), true))
  fmt (ok && gs.all (fun g => decide (g.kind ≤ 2) && g.ranks.all (fun r => decide (r < k.nthr))))
  let raw := (List.range k.nthr).map (fun i => fieldAt pl (2 * i) 2)
  let places := if k.plist then raw.map (fun p => (p / 8 % 2048, p % 8)) else []
  acc (places.all (fun p => assignedTo s p.1 part))
  fmt (decide (!k.plist) || raw.all (fun p => decide (p < 2 ^ 14)))
  fmt (places.all (fun p => if k.urgent then p.2 == 6 else decide (p.2 ≤ 5)) && places.dedup.length == places.length)
  acc (groupsOk s part gs)
  acc ((List.range k.nthr).all (fun r => decide ((gs.filter (fun g => g.ranks.contains r)).length ≤ 4)))
  return (s, { pmask := pmask, places := places, groups := gs })

/-- Candidate cores of the listed ranks (R243). -/
def candidates (s : State) (q : Nat) (k : Kernel) (p : Placement) (g : GroupUse) : List Nat :=
  if k.plist then g.ranks.filterMap (fun r => (p.places[r]?).map (·.1)) else coresOn s (s.queuePart q) p.pmask

/-- The smallest scope for the home that contains every core. -/
def scopeOver (h : Nat) (cores : List Nat) : Nat := cores.foldl (fun m c => Nat.max m (scopeSpan h c)) 1

/-- Set up the groups of a launch at its dispatch (R243-R245): its candidate cores are this package's, so a group it defines is homed
here; one that it refers to may be homed on another package, which is told (log 107). -/
def setupGroups (s : State) (q : Nat) (k : Kernel) (p : Placement) : State :=
  let part := s.queuePart q
  p.groups.foldl (fun s g =>
    let cs := candidates s q k p g
    let x := s.group part g.num
    if g.kind = 1 ∧ x.hpkg ≠ s.pk.pkg then s.send (.reed x.hpkg (BitVec.ofNat 4 part) g.num 0 (.supply g.ranks.length))
    else if g.kind = 1 then
      s.setGroup part g.num { x with promised := x.promised + g.ranks.length,
                                     scope := BitVec.ofNat 3 (Nat.max x.scope.toNat (scopeOver x.hcore.toNat cs)) }
    else
      let h := cs.foldl Nat.min (cs.headD 0)
      s.setGroup part g.num { state := 1, scope := BitVec.ofNat 3 (scopeOver h cs), hcore := BitVec.ofNat 11 h,
                              exp := BitVec.ofNat 16 (if g.kind = 2 then g.exp else g.ranks.length),
                              hpkg := s.pk.pkg, promised := g.ranks.length, aphase := x.aphase }) s

/-- The groups a rank joins, in the launch's order (R243). -/
def ranksGroups (k : Kernel) (rank : Nat) : List Nat := (k.groups.filter (fun g => g.ranks.contains rank)).map (·.num)

/-- Unbound ranks of a kernel that ends count as ended members (R245). -/
def dropUnbound (s : State) (q : Nat) (k : Kernel) : State :=
  k.groups.foldl (fun s g =>
    let n := (g.ranks.filter (fun r => decide (k.nextRank ≤ r))).length
    if n = 0 then s else endMembers s (s.queuePart q) g.num n 0 ((s.group (s.queuePart q) g.num).state = 1)) s

/-- A launch that never dispatched ends CANCELLED: the members it was due to supply to prepared groups count as ended
(R245); a table that is not mapped names none (log 21). -/
def dropCancelled (s : State) (q : Nat) (k : Kernel) : State :=
  let part := s.queuePart q
  if k.isShuttle ∨ k.nthr = 0 then s
  else
    match peekRange s part (k.field 320 64) 16 with
    | none => s
    | some h =>
      (List.range (Nat.min 256 (fieldAt h 0 2))).foldl (fun s i =>
        match peekRange s part (fieldAt h 8 8 + 16 * i) 16 with
        | none => s
        | some b =>
          if fieldAt b 2 1 = 1 ∧ fieldAt b 0 2 ≤ 255 ∧ (s.group part (fieldAt b 0 2)).state = 1 then
            endMembers s part (fieldAt b 0 2) (fieldAt b 4 2) 0 true
          else s) s

/-! ## Ends and errors -/

/-- A kernel has ended: the host is told (R297, log 110). -/
def tellEnd (s : State) (q : Nat) : State :=
  let w := s.queue q
  if w.irq then s.send (.msix (w.part.toNat + 1) w.vec) else s

/-- A kernel ends CANCELLED: its signal token is set to ERROR and its queue is not frozen (R307). -/
def cancelKernel (s : State) (q : Nat) (serial : W32) : State :=
  match s.kernel q serial with
  | none => s
  | some k =>
    let s1 := (dropCancelled s q k).dropKernel q serial
    let s2 := match k.signal with
      | some t => tokenError s1 (s.queuePart q) t
      | none => s1
    replyAtEnd (tellEnd s2 q) q k false true

/-- Freeze a queue on the first error of a kernel (R298, R307). -/
def freezeQueue (s : State) (q : Nat) (serial : W32) (cause : Byte) : State :=
  let w := s.queue q
  let w1 := if w.state = .opened ∨ w.state = .draining then { w with state := .frozen, prior := w.state } else w
  s.setQueue q (if w1.state = .frozen ∧ w1.eser = 0 ∧ w1.ecause = 0 then { w1 with eser := serial, ecause := cause } else w1)

/-- The first error of a kernel: ERROR on its signal token, the queue frozen, an event record (R307, R383). Later errors
change nothing. -/
def flagError (s : State) (q : Nat) (serial : W32) (cause : Byte) : State :=
  match s.kernel q serial with
  | none => s
  | some k =>
    if k.error then s
    else
      let s1 := s.setKernel q { k with error := true, cause := cause }
      let s2 := match k.signal with
        | some t => tokenError s1 (s.queuePart q) t
        | none => s1
      let s3 := if k.isShuttle && !k.handler.getLsbD 62 then s2 else freezeQueue s2 q serial cause
      pushEvent s3 (queueDie q) 0x01 0xFF (BitVec.ofNat 8 (s.queuePart q)) 0xFFFF cause (BitVec.ofNat 64 q)
        (serial.setWidth 64)

/-- A kernel ends FAULTED. -/
def faultKernel (s : State) (q : Nat) (serial : W32) : State :=
  match s.kernel q serial with
  | none => s
  | some k => replyAtEnd (tellEnd ((dropUnbound s q k).dropKernel q serial) q) q k true false

/-! ## The spill ring (R300, R381)

DESIGN CHOICE (log 109): the record of slot i lies at SPBASE + 64·i, and slots are taken in turn. A shuttle's record is its descriptor,
six arguments, and a word laid out as g11 of R382. -/

/-- A record as it is stored: of a shuttle, 64 bytes made of what was sent. -/
def Kernel.stored (k : Kernel) : BitVec 512 :=
  match k.shuttle with
  | none => k.record
  | some sh =>
    let words := sh.desc :: ((List.range 6).map (fun i => sh.args.getD i 0)) ++
      [(BitVec.ofBool sh.reply ++ sh.tid.extractLsb' 0 26).setWidth 64]
    BitVec.ofNat 512 (natOfBytes (words.flatMap (fun w => bytesOfNat 8 w.toNat)))

/-- The record comes back from the ring. -/
def Kernel.reload (k : Kernel) (r : BitVec 512) : Kernel :=
  match k.shuttle with
  | none => { k with ring := none, record := r }
  | some sh =>
    let word (i : Nat) : W64 := r.extractLsb' (64 * i) 64
    { k with ring := none, shuttle := some { sh with
        desc := word 0, args := (List.range 6).map (fun i => word (i + 1)), tid := ((word 7).extractLsb' 0 26).setWidth 64,
        reply := (word 7).getLsbD 26 } }

/-- A walk for the address, or its home, meets a die that relocks (R18). -/
def dvaHeld (s : State) (part dva : Nat) : Bool :=
  !walkReachable s part dva || (match walk s part dva with
    | .leaf l => !dieReachable s (dieOf (homeOf s part dva (leafPA l.word + dva % l.size) l.word))
    | .fault _ => false)

/-- The address of a slot of the ring, if its page is resident and allows the access. -/
def ringPlace (s : State) (q i : Nat) (acc : BitVec 4) : Option (State × Nat) :=
  let w := s.queue q
  let dva := w.spbase.toNat + 64 * i
  match walk s w.part.toNat dva with
  | .leaf l =>
    if leafCls l.word = 4 ∨ (leafCls l.word = 2 ∧ l.word.getLsbD 7) ∨ !leafAllows l.word acc ∨ dvaHeld s w.part.toNat dva then none
    else some (setAD s l acc, leafPA l.word + dva % l.size)
  | .fault _ => none

/-- On-chip slots that hold a record. -/
def WorkQueue.onChip (w : WorkQueue) : Nat := (w.held.filter (fun k => k.ring.isNone)).length
/-- The next record goes to the ring: the on-chip slots are full, or records before it wait there. -/
def WorkQueue.spills (w : WorkQueue) : Bool := decide (w.qdep.toNat + 1 ≤ w.onChip) || w.held.any (fun k => k.ring.isSome)
/-- The ring's next free slot. -/
def WorkQueue.ringSlot (w : WorkQueue) : Option Nat :=
  let n := w.splen.toNat + 1
  if w.spill then
    ((List.range n).find? (fun i => !w.held.any (fun k => k.ring == some ((w.ringNext + i) % n)))).map (fun i => (w.ringNext + i) % n)
  else none

/-- A record leaves the ring. -/
def unspill (s : State) (q : Nat) (k : Kernel) : Option State :=
  match k.ring with
  | none => none
  | some i =>
    (ringPlace s q i accRead).map (fun r => r.1.setKernel q (k.reload (BitVec.ofNat 512 (natOfBytes (mreadN r.1.mem.ram r.2 64)))))

/-- The oldest record of the ring returns to an on-chip slot that is free. -/
def refill (s : State) (q : Nat) : Option State :=
  let w := s.queue q
  if w.onChip ≤ w.qdep.toNat then (w.held.find? (fun k => k.ring.isSome)).bind (unspill s q) else none

/-! ## Heads (R305) -/

/-- A wait token of a kernel is in ERROR. -/
def waitError (s : State) (q : Nat) (k : Kernel) : Bool := k.waits.any (fun t => (s.token (s.queuePart q) t).err)
/-- Every wait token of a kernel reads 0. -/
def waitsDone (s : State) (q : Nat) (k : Kernel) : Bool :=
  k.waits.all (fun t => (s.token (s.queuePart q) t).count == 0 && !(s.token (s.queuePart q) t).err)

/-- One change of state that needs no decision: a head becomes WAITING, a head whose token is in ERROR ends CANCELLED, a
DRAINING queue that holds nothing closes (R298, R305). -/
def settleHead (s : State) (q : Nat) : Option State :=
  let w := s.queue q
  if w.state = .frozen then none
  else if w.state = .draining ∧ w.kernels.isEmpty then some (s.setQueue q { w with state := .closed })
  else if w.kernels.any (fun k => k.state = .dispatching) then none
  else
    match w.head with
    | none => none
    | some k =>
      if k.ring.isSome then unspill s q k
      else if k.state = .queued then some (s.setKernel q { k with state := .waiting })
      else if waitError s q k then some (cancelKernel s q k.serial)
      else none

/-- One such change of a queue, or a record's return from the ring. -/
def settleQueue (s : State) (q : Nat) : Option State :=
  match refill s q with
  | some s' => some s'
  | none => settleHead s q

/-- Take such changes until none is left. -/
def settleFuel : Nat → State → State
  | 0, s => s
  | fuel + 1, s =>
    match (s.queues.map (·.1)).findSome? (settleQueue s) with
    | none => s
    | some s' => settleFuel fuel s'

/-- A queue is eligible (R313). -/
def eligible (s : State) (q : Nat) : Bool :=
  let w := s.queue q
  (w.state = .opened || w.state = .draining) &&
    match w.head with
    | some k => k.state = .waiting && waitsDone s q k
    | none => false

/-- A queue whose kernel is DISPATCHING has its next head yet to come: one that is eligible as soon as it is the head has stayed
eligible (R313's example, log 7). -/
def WorkQueue.between (w : WorkQueue) : Bool :=
  (w.state = .opened || w.state = .draining) && w.kernels.any (fun k => k.state = .dispatching)

/-- Note which queues are eligible; one that becomes so takes the larger of its own pass and the smallest among those that are
eligible at that moment (R313). -/
def markEligible (s : State) : State :=
  let passes := (s.queues.filter (fun x => x.2.eligible && eligible s x.1)).map (fun x => x.2.pass.toNat)
  let least := passes.foldl Nat.min (passes.headD 0)
  { s with queues := s.queues.map (fun x =>
      let e := eligible s x.1
      (x.1, { x.2 with
        eligible := e || (x.2.eligible && x.2.between),
        pass := if e && !x.2.eligible then BitVec.ofNat 64 (Nat.max x.2.pass.toNat least) else x.2.pass })) }

/-- A decision takes the priorities and weights as they stand (R298). -/
def takeWeights (s : State) : State :=
  { s with queues := s.queues.map (fun x => (x.1, { x.2 with prioNow := x.2.prio, weightNow := x.2.weight })) }

/-- Bring every queue up to date. -/
def settle (s : State) : State :=
  markEligible (settleFuel (3 * (s.queues.map (fun kq => kq.2.kernels.length + 1)).sum + 1) s)

/-! ## Acceptance (R299, R300, R318) -/

/-- A record enters its queue with the next serial, in an on-chip slot or in the ring (R300). -/
def acceptRecord (s : State) (q : Nat) (record : BitVec 512) (sh : Option Shuttle) (handler : BitVec 256) : State :=
  let w := s.queue q
  let k : Kernel :=
    { serial := w.serial, record := record, shuttle := sh, handler := handler, state := .queued, error := false, cause := 0,
      places := [], pmask := 0, groups := [], nextRank := 0, ended := 0, wdStart := 0, wdRun := 0, replied := false,
      clusters := [], tid0 := 0, refused := false, unacked := [], valid := false, holdAt := none }
  let enter (s : State) (i : Option Nat) : State :=
    settle (s.setQueue q { w with
      serial := w.serial + 1, kernels := w.kernels ++ [{ k with ring := i }],
      ringNext := match i with
        | some i => (i + 1) % (w.splen.toNat + 1)
        | none => w.ringNext })
  match (if w.spills then w.ringSlot else none) with
  | none => enter s none
  | some i =>
    match ringPlace s q i accWrite with
    | some (s1, pa) => enter { s1 with mem := ramWrite s1.mem pa (bytesOfNat 64 k.stored.toNat) } (some i)
    | none => enter s none

/-- The storage is full, or its ring refuses the record (R300). -/
def queueFull (s : State) (q : Nat) : Bool :=
  let w := s.queue q
  decide (w.capacity ≤ w.depth) || (w.spills && ((w.ringSlot.bind (fun i => ringPlace s q i accWrite)).isNone))

/-- A record waits at its sender while the queue unit's die, or that of the ring's next slot, relocks (R317). -/
def queueHeld (s : State) (q : Nat) : Bool :=
  let w := s.queue q
  !dieReachable s (queueDie q) ||
    (w.spills && (w.ringSlot.map (fun i => dvaHeld s w.part.toNat (w.spbase.toNat + 64 * i))).getD false)

/-! ## Arbitration (R313) -/

/-- The priority at which a queue enters arbitration (R382). -/
def WorkQueue.arbPrio (w : WorkQueue) : Nat :=
  if w.shuttle ∧ w.kernels.any (fun k => (k.state = .queued ∨ k.state = .waiting) ∧ k.shuttlePrio = 3) then 7 else w.prioNow.toNat

/-- The chosen queue: highest priority, smallest pass, lowest number. -/
def chooseQueue (s : State) : Option Nat :=
  (s.queues.map (·.1)).foldl (fun m q =>
    if !eligible s q then m
    else
      match m with
      | none => some q
      | some h =>
        let a := s.queue h
        let b := s.queue q
        if a.arbPrio < b.arbPrio ∨ (a.arbPrio = b.arbPrio ∧ b.pass < a.pass) then some q else m) none

end

end Sys2Proof.Machine
end

