-- ==== Sys2Proof/Machine/Lifecycle.lean ====
section
/-! DEFINITION. The life of a thread: binding (R48, R306, R314, R382), its end by KEXIT (R78) or kill (R63), followers
and gangs (R70-R73), withdrawal of a wait (R56), page faults (R347, R348), and the runner that turns the outcome of an
instruction's body into the next state. -/

namespace Sys2Proof.Machine

noncomputable section

/-! ## Gangs (R70-R73) -/

/-- The slot a thread could follow: the same slot of the previous core of its chain of eight. -/
def predecessor (key : Nat) : Option Nat :=
  let c := coreOf key
  if 1280 ≤ c ∨ c % 320 % 8 = 0 then none else some (key - 8)
/-- The slot that could follow a thread. -/
def follower (key : Nat) : Option Nat :=
  let c := coreOf key
  if 1280 ≤ c ∨ c % 320 % 8 = 7 then none else some (key + 8)

/-- The thread that follows this one now. -/
def State.followerOf (s : State) (key : Nat) : Option Nat :=
  match follower key with
  | some f => if (s.thread f).state = .following then some f else none
  | none => none

/-- The predecessor is gone: a follower that has run every forwarded word detaches; a waiter on its point is woken with
status 1 (R72, R73). -/
def orphan (s : State) (key : Nat) (exited : Bool) : State :=
  match follower key with
  | none => s
  | some f =>
    let t := s.thread f
    match t.state, t.wait with
    | .following, _ => if t.fwd.isEmpty then repauseIf6 (s.setThread f t.detach) f else s
    | .parked, some w =>
      (match w.instr with
       | .follow d => if exited then answer s f (Reply.reg d 1) else s
       | .join d => if exited then answer s f (Reply.reg d 1) else s
       | _ => s)
    | _, _ => s

/-! ## Withdrawing a wait (R56, R286, R253) -/

/-- Take a thread's request off every unit it may wait at. -/
def withdraw (s : State) (key : Nat) : State :=
  let core := coreOf key
  let a := s.arch core
  let s1 := s.setArch core { a with lockq := a.lockq.filter (· != key) }
  let s2 := withdrawBobbin (withdrawTag s1 key) core key
  let s3 := withdrawSkein s2 (s.partOf core) key
  let clu := clusterOf core
  let c := s3.cluster clu
  s3.setCluster clu { c with
    sfuq := c.sfuq.filter (fun r => !(r.core == core && r.slot == slotOf key && !r.seq)),
    normq := c.normq.filter (fun r => r.2 != key) }

/-- A parked thread, or one whose run has met a fault, traps: its wait is withdrawn first (R56); a leader waits for its
trailer (R68). Where the thread goes on past an instruction in flight, the trap is that instruction's. -/
def trapOut (s : State) (key : Nat) (cause : Byte) (eval : W64) (wkind : Byte) (seq : Option (Nat × Nat)) : State :=
  if twinLag s key then s
  else
    let s1 := withdraw s key
    let t := s1.thread key
    takeTrap s1 key cause ((t.wait.bind (·.at_)).getD t.pc) eval wkind seq

/-- A trap that a completion brings to a thread that has gone on (R206): where it stands, or on its wait; a trapped thread takes it
when it resumes (R62). -/
def lateTrap (s : State) (key : Nat) (cause : Byte) (eval : W64) : State :=
  let t := s.thread key
  if t.killed.isSome then s
  else
    match t.state with
    | .empty => s
    | .trapped => s.setThread key { t with deferred := t.deferred ++ [{ kind := 6, word := eval, tid := cause.setWidth 64, reply := none }] }
    | .parked => trapOut s key cause eval 0 none
    | _ => takeTrap s key cause t.pc eval

/-! ## Ends -/

/-- A thread of a kernel has ended (R305): the kernel moves to RELEASING or ends FAULTED. -/
def threadEnded (s : State) (kid : W64) : State :=
  let q := kidQueue kid
  match s.kernel q (kidSerial kid) with
  | none => s
  | some k =>
    let k1 : Kernel := { k with ended := k.ended + 1 }
    let s1 := s.setKernel q k1
    if k1.ended < k1.nextRank then s1
    else if k1.error then settle (faultKernel s1 q k1.serial)
    else if k1.state = .running then settle (s1.setKernel q { k1 with state := .releasing })
    else s1

/-- Unacknowledged stores to peers, and what a peer has refused or failed, pass from an ending thread to its kernel (R311). -/
def handOver (s : State) (key : Nat) : State :=
  let t := s.thread key
  let q := kidQueue t.kid
  match (if t.bound then s.kernel q (kidSerial t.kid) else none) with
  | none => s
  | some k =>
    s.setKernel q { k with
      refused := k.refused || t.refusedStore || t.peers.any (fun p => p.2.failed),
      unacked := k.unacked ++ t.peers.flatMap (fun p => p.2.pending.map (fun x => (key, BitVec.ofNat 10 p.1, x.1, x.2))) }

/-- Locks of a slot released by LOCKMAX are forgotten when its thread ends (R85). -/
def forgetLost (s : State) (core slot : Nat) : State :=
  let a := s.arch core
  s.setArch core { a with lost := a.lost.filter (fun l => l.1 != slot) }

/-- KEXIT completes (R78): locks released, streams and inbox discarded, bobbin slots given up, groups left; the slot is
EMPTY. -/
def exitThread (s : State) (key : Nat) : State :=
  let core := coreOf key
  let slot := slotOf key
  let kid := (s.thread key).kid
  let s1 := forgetLost (releaseLocks s core (fun l => l.slot == slot)) core slot
  let s2 := bobHolderEnds s1 core slot key
  let s3 := handOver (leaveGroups s2 key false) key
  let s4 := repauseIf6 (orphan (s3.setThread key Thread.reset) key true) key
  if (s.thread key).bound then threadEnded s4 kid else s4

/-- What waits for a page on behalf of a slot, its engine entries apart. -/
def Joined.ofSlot (core slot : Nat) : Joined → Bool
  | .thread c l _ | .run c l _ | .stream c l _ | .weft c l _ => c == core && l == slot
  | _ => false

/-- A killed thread loses its wakes (R348, R354). -/
def loseWakes (s : State) (core slot : Nat) : State :=
  let keep (j : Joined) : Bool := !j.ofSlot core slot
  { s with
    dies := s.dies.map (fun d => (d.1, { d.2 with pagers := d.2.pagers.map (fun r => { r with joined := r.joined.filter keep }) })),
    host := { s.host with atsWait := s.host.atsWait.filter (fun x => keep x.2) } }

/-- Kill one thread (R63), apart from what its kernel receives: its waits, locks, bobbin slots, entries and gang are
dissolved and its slot parks on a scrub. -/
def killOne (s : State) (key : Nat) (cause : Byte) : State :=
  let core := coreOf key
  let slot := slotOf key
  let t := s.thread key
  if t.state = .empty ∨ t.killed.isSome then s
  else
    let s0 := loseWakes (withdraw s key) core slot
    let c := s0.core core
    let s1 := s0.setCore core { c with
      storeq := c.storeq.filterMap (fun e =>
        if e.slot = slot then (if e.stream.isSome then none else some { e with slot := slot + 16 }) else some e),
      arch := { c.arch with trapq := c.arch.trapq.filter (fun r => r.slot != slot), lost := c.arch.lost.filter (fun l => l.1 != slot) } }
    let s2 := releaseLocks s1 core (fun l => l.slot == slot)
    let s3 := bobHolderEnds s2 core slot key
    let s4 := handOver (leaveGroups s3 key true) key
    let t4 := s4.thread key
    let s5 := s4.setThread key { t4 with
      state := .parked, killed := some cause, wait := none, busy := none, run := none, inbox := [], deferred := [], efault := [],
      fcred := 0, cmp := [], lvq := [], fwd := [], pse := false, flight := false, seqRes := 0, twl := false, twt := false,
      streams := t4.streams.map (fun x => (x.1, { x.2 with state := .off })) }
    orphan (repauseIf6 (killEntries s5 core slot) key) key false

/-- Slots bound to a kernel. -/
def boundKeys (s : State) (kid : W64) : List Nat := (s.threads.filter (fun x => x.2.bound && x.2.kid == kid)).map (·.1)

/-- The kernel of a killed thread takes its first error; a shuttle kernel's other threads are killed too (R307, R383). -/
def kernelError (s : State) (kid : W64) (cause : Byte) : State :=
  let q := kidQueue kid
  match s.kernel q (kidSerial kid) with
  | none => s
  | some k =>
    let s1 := flagError s q k.serial cause
    let s2 := if k.isShuttle && !k.error then (boundKeys s1 kid).foldl (fun s x => killOne s x cause) s1 else s1
    settle s2

/-- KILL A THREAD, with the surviving partner of a twin pair: the pair's leader stands for both (R63). -/
def killThread (s : State) (key : Nat) (cause : Byte) : State :=
  let key := if (s.thread key).twt then partnerOf key else key
  let t := s.thread key
  if t.state = .empty ∨ t.killed.isSome then s
  else
    let s1 := killOne s key cause
    let s2 := if t.twl then s1.setThread (partnerOf key) Thread.reset else s1
    if t.bound then kernelError s2 t.kid cause else s2

/-- The scrub of a killed thread's bank is over: its slot is EMPTY (R63), which wakes a waiter at its point (R72), and its kernel
counts it as ended. -/
def scrubEnd (s : State) (key : Nat) : State :=
  let t := s.thread key
  let s1 := orphan (s.setThread key { Thread.reset with peers := [] }) key true
  if t.bound then threadEnded s1 t.kid else s1

/-! ## Dispatch of a rank (R48, R306, R382) -/

/-- The segment registers at dispatch (R195). -/
def defaultSegs (p : Partition) : Tab Seg :=
  [(0, { base := p.codeb, lim := p.codel, attr := 0x004 }), (1, { base := 0, lim := 0x800000000000, attr := 0x10B }),
   (2, { base := 0, lim := 0x2000000, attr := 0x21B }), (3, { base := 0, lim := 0x50000000, attr := 0x31B }),
   (4, { base := 0, lim := 0x200000000000000, attr := 0x40B }), (5, { base := 0, lim := 0x2000000000000000, attr := 0x50B })]

/-- The registers of a rank: launch arguments, rank and count, or a handler's (R306, R382). -/
def rankRegs (k : Kernel) (rank : Nat) : Tab W64 :=
  match k.shuttle with
  | some sh =>
    let args := (sh.args.zipIdx 4).map (fun x => (x.2, x.1))
    args.filter (fun x => x.1 ≤ 9) ++
      [(10, BitVec.ofNat 64 rank), (11, BitVec.ofNat 64 ((if sh.reply then 2 ^ 26 else 0) + sh.tid.toNat % 2 ^ 26))]
  | none =>
    (List.range 4).map (fun i => (4 + i, BitVec.ofNat 64 (k.field (64 + 64 * i) 64))) ++
      [(8, BitVec.ofNat 64 rank), (9, BitVec.ofNat 64 k.nthr)]

/-- The thread a rank starts as. -/
def rankThread (s : State) (q : Nat) (k : Kernel) (rank : Nat) : Thread :=
  let part := s.queuePart q
  let gs := ranksGroups k rank
  { Thread.reset with
    state := .ready, pc := BitVec.ofNat 64 k.entry, g := rankRegs k rank, sg := defaultSegs (s.part part), bound := true,
    kid := kidOf part q k.serial, rank := rank, wlim := BitVec.ofNat 64 k.wlim,
    gm := (gs.zipIdx).map (fun x => (x.2, BitVec.ofNat 16 x.1)) }

/-- Bind the next rank of a kernel to an EMPTY slot (R314): the dispatch acquires and empties the constant cache (R208) and the
L1 instruction store (R25). -/
def bindRank (s : State) (q : Nat) (k : Kernel) (key : Nat) : State :=
  let core := coreOf key
  let part := s.queuePart q
  let rank := k.nextRank
  let s1 := acquireAt (s.setCore core { s.core core with cc := [], l1i := [] }) core (if k.isShuttle then 5 else 4)
  let s2 := s1.setThread key (rankThread s q k rank)
  let s3 := (ranksGroups k rank).foldl (fun s g => joinGroup s part g) s2
  let k' : Kernel := { k with
    nextRank := rank + 1, clusters := sadd k.clusters (clusterOf core), tid0 := if rank = 0 then s.tid key else k.tid0,
    state := if rank + 1 = k.nthr then .running else k.state }
  repause (settle (s3.setKernel q k')) core

/-! ## Page faults (R347, R348, R354) -/

/-- The die of a fault record of a cluster; a dispatcher's die. -/
def recordDie (clu : Nat) : Nat := if clu < 324 then dieOfCluster clu else clu % 4

/-- One record for each cluster and page; later accesses join it. A full ring keeps the record unlisted (log 22). -/
def joinRecords (s : State) (die clu part dva : Nat) (kind : BitVec 2) (acc : BitVec 4) (src : BitVec 5) (js : List Joined) : State :=
  let d := s.die die
  let same (r : PagerRecord) : Bool := r.clu == clu && r.part.toNat == part && r.dva / 4096 == dva / 4096
  if d.pagers.any same then
    s.setDie die { d with pagers := replaceFirst same (fun r =>
      { r with acc := r.acc ||| acc, src := r.src ||| src, joined := r.joined ++ js.filter (fun j => !r.joined.contains j) }) d.pagers }
  else
    let r : PagerRecord :=
      { rid := d.nextRid, clu := clu, part := BitVec.ofNat 4 part, dva := dva, kind := kind, acc := acc, src := src,
        joined := js, listed := decide ((d.pagers.filter (·.listed)).length < 1024) }
    s.setDie die { d with pagers := d.pagers ++ [r], nextRid := d.nextRid + 1 }

/-- One access joins. -/
def joinRecord (s : State) (die clu part dva : Nat) (kind : BitVec 2) (acc : BitVec 4) (src : BitVec 5) (j : Joined) : State :=
  joinRecords s die clu part dva kind acc src [j]

/-- A thread is DROPPED on a page fault (R50); a follower detaches first (R73). -/
def dropThread (s : State) (key dva : Nat) (kind : BitVec 2) (acc : BitVec 4) (eval : W64) : State :=
  let core := coreOf key
  let s1 := s.setThread key { (s.thread key).detach with state := .dropped, busy := none, wait := none }
  repauseIf6 (joinRecord s1 (dieOf core) (clusterOf core) (s.partOf core) dva kind acc 1 (.thread core (slotOf key) eval)) key

/-- An access waits for the translation of a host page: the port asks for it, unless an answer for that page is already awaited (R354). -/
def askAts (s : State) (page : Nat) (j : Joined) : State :=
  let asked := s.host.atsWait.any (fun x => x.1 == page) || s.host.pri.contains page
  let s1 := { s with host := { s.host with atsWait := s.host.atsWait ++ [(page, j)] } }
  if asked then s1 else s1.send (.atsRequest page)

/-- A thread is DROPPED while its host address is translated (R354). -/
def dropAts (s : State) (key page : Nat) (eval : W64) : State :=
  let s1 := s.setThread key { (s.thread key).detach with state := .dropped, busy := none, wait := none }
  repauseIf6 (askAts s1 page (.thread (coreOf key) (slotOf key) eval)) key

/-! ## The runner -/

/-- The next state of an instruction whose body has run for the acting thread. -/
def runBody (i : Instr) (s : State) (r : Except Stop State) : State :=
  match r with
  | .ok s' => s'
  | .error (.trap c e) => if twinLag s s.cur then s else trapMe s c e
  | .error .hold => s
  | .error .poison => killThread s s.cur POISON
  | .error (.page dva k acc e) => dropThread s s.cur dva k acc e
  | .error (.ats page e) => dropAts s s.cur page e
  | .error (.walk dva e) =>
    let s1 := parkOn s s.cur 0x01 e false i []
    let t := s1.me
    s1.setMe { t with wait := t.wait.map (fun w => { w with walk := true }) }
  | .error (.park k e remote taken msgs) =>
    let s1 := parkOn s s.cur k e remote i taken
    let s2 := msgs.foldl State.send s1
    if k = 0x0C then
      let a := s2.arch s2.myCore
      s2.setArch s2.myCore { a with lockq := a.lockq ++ [s2.cur] }
    else s2

/-- The outcome of an instruction's body. -/
def run (i : Instr) (s : State) (r : Except Stop State) : Out := .next (runBody i s r)

/-- An instruction that needs mode `m`: below it, PRIV with the word's address (R38, R40). -/
def privileged (i : Instr) (m : Nat) (s : State) (o : Out) : Out :=
  if modeOf s.cur < m then run i s (.error (.trap PRIV s.me.pc)) else o

end

end Sys2Proof.Machine
end

