-- ==== Sys2Proof/Machine/Operands.lean ====
section
/-! DEFINITION. Operand forms: immediates and offsets (R26), addresses of loads and stores (R193, R198), loads and
stores at their places (R196-R198), and f operands, which may be streams (R139-R145). -/

namespace Sys2Proof.Machine

noncomputable section

/-! ## Immediates (R26) -/

/-- Sext(imm, n). -/
def sx {n : Nat} (im : BitVec n) : W64 := im.signExtend 64
/-- pc + 4·Sext(off, n). -/
def branchTo {n : Nat} (pc : W64) (off : BitVec n) : W64 := pc + 4#64 * sx off

/-! ## Loads (R196, R198, R199) -/

/-- A place in the core's own scratchpad. -/
def Place.own (p : Place) (core : Nat) : Bool :=
  match p with
  | .spad c _ => c == core
  | .window _ _ _ _ => true
  | _ => false

/-- A pending entry of the own scratchpad whose bytes are not known before it is performed. -/
def StoreEntry.late (e : StoreEntry) : Bool :=
  match e.op with
  | .atomic _ _ => true
  | _ => false

/-- Bytes and poison of a load from the own scratchpad, with the thread's completed stores as if performed. -/
def ownLoad (s : State) (es : List StoreEntry) (p : Place) (n : Nat) (full : Bool) : List Byte × Bool :=
  let m := es.foldl spadPerform s.mem
  match p with
  | .spad c off => (spadBytes m c off n, !full && spadPoisoned m c off n)
  | .window c w v wscb => winRead m (s.arch c) c w v n wscb
  | _ => ([], false)

/-- Does a load's instruction run under the remote access timeout: peers, lenders and the host (R196, R367). -/
def Place.external (p : Place) : Bool :=
  match p with
  | .global _ _ leaf => leafCls leaf == 4
  | .peer _ _ | .host _ => true
  | _ => false

/-- Bytes an instruction that waits for memory reads (R162, R164, R208, R209, R231, R301, R359). -/
def readLen : Instr → Nat
  | .lb _ _ _ | .lbu _ _ _ => 1
  | .lh _ _ _ | .lhu _ _ _ => 2
  | .lw _ _ _ | .lwu _ _ _ | .ldaW _ _ _ => 4
  | .ld _ _ _ | .ldaD _ _ _ => 8
  | .lq _ _ _ | .flq _ _ _ | .ldaQ _ _ _ => 16
  | .rsldt _ => 2176
  | .rsldg _ | .lreq _ _ => 32
  | .launch _ _ _ | .ldc _ _ _ => 64
  | _ => 0

/-- The instruction is a load-acquire. -/
def readAcq : Instr → Bool
  | .ldaW _ _ _ | .ldaD _ _ _ | .ldaQ _ _ _ => true
  | _ => false

/-- What a parked load or returning atomic asks at an address; LDC asks for the whole line (R208). -/
def requestOp (t : Thread) (i : Instr) (a : Nat) : PeerOp :=
  match atomicOf i, i with
  | none, .ldc _ _ _ => if a % 64 ≤ 56 then .load (a - a % 64) 64 false else .load a 8 false
  | some x, _ => x.peerOp a (t.pairVal x.b x.n) (if x.cls = 2 then t.pairVal x.d x.n else 0) true
  | none, _ => .load a (readLen i) (readAcq i)

/-- What a parked load or returning atomic sends outside. -/
def requestMsgs (i : Instr) (s : State) (key : Nat) (p : Place) (rel : Option (BitVec 16 × W32)) : List OutMsg :=
  let part := s.partOf (coreOf key)
  let t := s.thread key
  let req (a : Nat) : PeerReq := { op := requestOp t i a, epoch := none, release := rel }
  match p with
  | .global dva _ leaf => if leafCls leaf = 4 then [.request (lenderOf s part leaf) (BitVec.ofNat 4 part) (s.tid key) (req dva)] else []
  | .peer pkg dva => [.request (BitVec.ofNat 10 pkg) (BitVec.ofNat 4 part) (s.tid key) (req dva)]
  | .host a => [.hostRequest (s.tid key) (requestOp t i a)]
  | _ => []

/-- A load of a checked place: its bytes and latency, or it parks on the reply with WKIND 0x01. -/
def loadAt (i : Instr) (s : State) (key : Nat) (ea : W64) (n : Nat) (p : Place) : Except Stop (State × List Byte × Nat) :=
  let core := coreOf key
  let own := ownPending s key p n
  let taken := takenBytes (own.filter StoreEntry.plain)
  let full := allTaken taken p.addr n
  if p.own core then
    if own.any StoreEntry.late then .error .hold
    else
      let r := ownLoad s own p n full
      if r.2 then .error .poison else .ok (s, r.1, 8)
  else if own.any (fun e => !e.plain) then .error .hold
  else if full then .ok (s, patch taken p.addr (List.replicate n 0), 8)
  else
    let wait : Except Stop (State × List Byte × Nat) := .error (.park 0x01 ea p.external taken (requestMsgs i s key p none))
    match p with
    | .global dva pa leaf =>
      if leafCls leaf = 4 then wait
      else
        match tryLoad s core (s.partOf core) dva n pa leaf taken with
        | none => wait
        | some r => if r.2.2.1 then .error .poison else .ok (r.1, patch taken dva r.2.1, r.2.2.2)
    | _ => wait

/-- A load performed now at its point inside the package: bytes and poison. -/
def loadNow (s : State) (key : Nat) (p : Place) (n : Nat) (taken : Mem) : State × List Byte × Bool :=
  let core := coreOf key
  let full := allTaken taken p.addr n
  match p with
  | .spad c off => (s, patch taken p.addr (spadBytes s.mem c off n), !full && spadPoisoned s.mem c off n)
  | .window c w v wscb =>
    let r := winRead s.mem (s.arch c) c w v n wscb
    (s, r.1, r.2)
  | .global dva pa leaf =>
    let r := lateLoad s core (s.partOf core) dva n pa leaf taken
    (r.1, patch taken dva r.2.1, !full && r.2.2)
  | _ => (s, List.replicate n 0, false)

/-- Bytes of a place inside the package read now, with the thread's completed stores (R145, R189, R198). -/
def bytesNow (s : State) (key : Nat) (p : Place) (n : Nat) : Except Stop (State × List Byte × Bool) :=
  let own := ownPending s key p n
  let taken := takenBytes (own.filter StoreEntry.plain)
  if p.own (coreOf key) then
    if own.any StoreEntry.late then .error .hold
    else
      let r := ownLoad s own p n (allTaken taken p.addr n)
      .ok (s, r.1, r.2)
  else if own.any (fun e => !e.plain) then .error .hold
  else .ok (loadNow s key p n taken)

/-- Check alignment, segment and right of an access of `n` bytes (R193, R198): kind and target. -/
def accessCheck (t : Thread) (ea : W64) (n right : Nat) : Except Stop (Nat × Nat) := do
  need (ea.toNat % n = 0) ALIGN ea
  segCheck t ea n right

/-- The load of `n` bytes at ea that the plain loads make (R209). -/
def loadCheck (i : Instr) (s : State) (key : Nat) (ea : W64) (n : Nat) : Except Stop (State × List Byte × Nat) := do
  let (kind, t) ← accessCheck (s.thread key) ea n rightR
  let (s, p) ← resolve s key ea n .load kind t
  loadAt i s key ea n p

/-! ## Stores (R197, R211) -/

/-- A store completes: it enters the store queue with its peer's epoch, and is counted there (R370, R371). -/
def storeAt (s : State) (key : Nat) (ea : W64) (p : Place) (bs : List Byte) (op : StoreOp) (stream : Option Nat) :
    Except Stop State :=
  let core := coreOf key
  let e : StoreEntry :=
    { slot := slotOf key, stream := stream, part := BitVec.ofNat 4 (s.partOf core), place := p, addr := ea, bytes := bs, op := op,
      epoch := 0 }
  match e.pkg s with
  | none => enqueueStore s core e
  | some pkg =>
    if peerFull s key pkg then .error .hold
    else enqueueStore (countPeer s key pkg) core { e with epoch := epochFor s key (some pkg) }

/-- A leader of a twin pair keeps its plain stores in its comparator (R67); any other thread's enter the queue. -/
def storeOrCompare (s : State) (key : Nat) (ea : W64) (p : Place) (bs : List Byte) (op : StoreOp) (stream : Option Nat) :
    Except Stop State :=
  let t := s.thread key
  if t.twl then
    if 8 ≤ t.cmp.length then .error (.park 0x11 0 false [] [])
    else
      let e : StoreEntry :=
        { slot := slotOf key, stream := stream, part := BitVec.ofNat 4 (s.partOf (coreOf key)), place := p, addr := ea,
          bytes := bs, op := op, epoch := 0 }
      .ok (s.setThread key { t with cmp := t.cmp ++ [e] })
  else storeAt s key ea p bs op stream

/-- The trailer's store meets the leader's oldest: released when address, width and data match, or TWINMIS with the
leader's address (R67). An empty comparator parks the trailer. -/
def trailerStore (s : State) (key : Nat) (ea : W64) (bs : List Byte) : Except Stop State :=
  let lead := partnerOf key
  let l := s.thread lead
  match l.cmp with
  | [] => .error (.park 0x11 0 false [] [])
  | e :: rest =>
    if e.addr = ea ∧ e.bytes = bs then
      storeAt (s.setThread lead { l with cmp := rest }) lead ea e.place e.bytes e.op e.stream
    else .error (.trap TWINMIS e.addr)

/-- A plain store of `n` bytes (R211): the checks, then the store queue. -/
def storeCheck (s : State) (key : Nat) (ea : W64) (bs : List Byte) : Except Stop State := do
  let (kind, t) ← accessCheck (s.thread key) ea bs.length rightW
  if (s.thread key).twt then trailerStore s key ea bs
  else
    let (s, p) ← resolve s key ea bs.length .store kind t
    storeOrCompare s key ea p bs .write none

/-! ## Streams as f operands (R140-R145) -/

/-- N of R140. -/
def Stream.total (x : Stream) : Nat := (List.range x.levels).foldl (fun n l => n * (tget 0 x.bound l).toNat) 1

/-- The offset of pack i, exactly (R140). -/
def Stream.offset (x : Stream) (i : Nat) : Int :=
  ((List.range x.levels).foldl (fun (r : Int × Nat) l =>
    let b := (tget 0 x.bound l).toNat
    (r.1 + ((r.2 % b : Nat) : Int) * (tget 0 x.stride l).toInt, r.2 / b)) (((x.base.extractLsb' 0 61).toNat : Int), i)).1

/-- The segmented address of pack i, and whether its offset is in range. -/
def Stream.addr (x : Stream) (i : Nat) : W64 × Bool :=
  let o := x.offset i
  (x.base.extractLsb' 61 3 ++ BitVec.ofInt 61 o, decide (0 ≤ o ∧ o < 2 ^ 61))

/-- The stream an f register names now: s_n of an ACTIVE or DONE stream (R141). -/
def Thread.streamOf (t : Thread) (r : Reg) : Option Nat :=
  if 24 ≤ r.toNat ∧ (t.stream (r.toNat - 24)).state ≠ .off then some (r.toNat - 24) else none

/-- Fetch pack i of a read stream now; `ext` is what a peer, lender or the host answers. Poison traps (R145). -/
def packFetch (s : State) (key : Nat) (x : Stream) (i : Nat) (ext : ExtReply) : Except Stop (State × W128) := do
  let (ea, ok) := x.addr i
  need ok SEGV ea
  let (kind, t) ← accessCheck (s.thread key) ea 16 rightR
  let (s, p) ← resolve s key ea 16 .load kind t
  if p.external then
    match ext with
    | .data v => return (s, v)
    | .poison => .error (.trap POISON ea)
    | .refused => .error (.trap ACCESS ea)
    | .leaseGone => .error (.trap LEASEGONE ea)
    | _ => .error .hold
  else
    let (s, bs, bad) ← bytesNow s key p 16
    need (!bad) POISON ea
    return (s, BitVec.ofNat 128 (natOfBytes bs))

/-- Keep a pack with its stream, in place of an older fetch of it. -/
def keepPack (s : State) (key n : Nat) (k : Pack) : State :=
  let t := s.thread key
  let x := t.stream n
  s.setThread key (t.setStream n { x with packs := x.packs.filter (fun p => p.idx != k.idx) ++ [k] })

/-- A pack that a pair reads reaches the trailer through the load-value queue (R67), under its address with bit 0 set. -/
def twinPack (s : State) (key : Nat) (ea : W64) (r : Reg) (v : W128) : Except Stop State :=
  if (s.thread key).twl then
    let p := partnerOf key
    let q := (s.thread p).lvq
    if 32 ≤ q.length then .error (.park 0x11 0 false [] [])
    else .ok (s.setThread p { s.thread p with lvq := q ++ [{ pc := ea ||| 1, g := [], f := [(r, v)] }] })
  else .ok s

/-- The trailer takes the leader's pack. -/
def trailerPack (s : State) (key : Nat) (ea : W64) : Except Stop (State × W128) :=
  let t := s.thread key
  match t.lvq.find? (fun x => x.pc.getLsbD 0) with
  | none => .error (.park 0x11 0 false [] [])
  | some x =>
    if x.pc = ea ||| 1 then
      .ok (s.setThread key { t with lvq := removeAt t.lvq ((t.lvq.findIdx? (fun x => x.pc.getLsbD 0)).getD 0) },
        ((x.f.head?).getD (0, 0)).2)
    else .error (.trap TWINMIS 0)

/-- Read an f source: the register, or the pack at the stream's position (R144). -/
def readF (s : State) (key : Nat) (r : Reg) : Except Stop (State × W128) :=
  let t := s.thread key
  match t.streamOf r with
  | none => .ok (s, t.rf r)
  | some n =>
    let x := t.stream n
    if x.state = .done ∨ x.write then .error (.trap STREAM (BitVec.ofNat 64 n))
    else if t.twt then trailerPack s key (x.addr x.pos).1
    else
      match x.packs.find? (fun p => p.idx == x.pos && p.cause != 0xFF) with
      | some p =>
        if p.cause = 0 then (twinPack s key (x.addr x.pos).1 r p.data).map (fun s => (s, p.data)) else .error (.trap p.cause p.addr)
      | none => do
        let (s, v) ← packFetch s key x x.pos .inside
        let s ← twinPack (keepPack s key n { idx := x.pos, data := v, cause := 0, addr := 0 }) key (x.addr x.pos).1 r v
        return (s, v)

/-- Read several f sources; a stream named twice reads one pack. -/
def readFs (s : State) (key : Nat) : List Reg → Except Stop (State × List W128)
  | [] => .ok (s, [])
  | r :: rs => do
    let (s, v) ← readF s key r
    let (s, vs) ← readFs s key rs
    return (s, v :: vs)

/-- A stream moves to its next pack (R142). -/
def Stream.step (x : Stream) : Stream :=
  { x with pos := x.pos + 1, packs := x.packs.filter (fun p => x.pos < p.idx),
           state := if x.pos + 1 = x.total then .done else .active }

/-- The streams among the sources of an instruction that completes move on, each once. -/
def stepStreams (s : State) (key : Nat) (rs : List Reg) : State :=
  let t := s.thread key
  let ns := (rs.filterMap t.streamOf).dedup
  if ns.isEmpty then s
  else s.setThread key (ns.foldl (fun t n => t.setStream n (t.stream n).step) t)

/-- Write an f destination: the register, or a 16-byte store of the pack at the stream's position (R144). -/
def writeF (s : State) (key : Nat) (d : Reg) (v : W128) : Except Stop State :=
  let t := s.thread key
  match t.streamOf d with
  | none => .ok (s.setThread key (t.wf d v))
  | some n =>
    let x := t.stream n
    if x.state = .done ∨ !x.write then .error (.trap STREAM (BitVec.ofNat 64 n))
    else do
      let (ea, ok) := x.addr x.pos
      need ok SEGV ea
      let (kind, o) ← accessCheck t ea 16 rightW
      let bs := bytesOfNat 16 v.toNat
      let s ← if t.twt then trailerStore s key ea bs
        else do
          let (s, p) ← resolve s key ea 16 .store kind o
          storeOrCompare s key ea p bs .write (some n)
      let t := s.thread key
      return s.setThread key (t.setStream n (t.stream n).step)

/-- Stores of a write stream that are not accepted yet (R142, R146). -/
def streamStores (s : State) (key n : Nat) : Bool :=
  (s.core (coreOf key)).storeq.any (fun e => e.slot == slotOf key && e.stream == some n) ||
    (s.thread key).cmp.any (fun e => e.stream == some n)

end

end Sys2Proof.Machine
end

