-- ==== Sys2Proof/WellFormed.lean ====
section
/-! DEFINITION. Which operands an operation admits: the reserved codes, formats, register pairs and numbers of
R30-R39 and R105 for instruction words, and the ranges of core, slot and unit numbers (R4, R47, R404) for events. -/

namespace Sys2Proof

/-- The assigned CSR numbers (R102, R403); the views 0x140-0x1C4 are assigned as a block (R77, R105). -/
def csrAssigned (n : BitVec 12) : Bool :=
  n.ult 0x006 || (!n.ult 0x010 && n.ult 0x019) || (!n.ult 0x020 && n.ult 0x023) || (!n.ult 0x030 && n.ult 0x035) ||
  (!n.ult 0x100 && n.ult 0x107) || (!n.ult 0x140 && n.ult 0x1C5) || (!n.ult 0x200 && n.ult 0x21A)

/-- The operand checks of each operation (R39, R40 step 4). -/
def Instr.wf (i : Instr) : Bool :=
  match i with
  | .mreqWrite _ _ => true
  | .powerComparison _ => true
  | .relockEnd _ => true
  | .instructionComplete core slot => decide (core < 1284) && decide (slot < 8)
  | .parkWake core slot => decide (core < 1284) && decide (slot < 8)
  | .waitLimitExpiry core slot => decide (core < 1284) && decide (slot < 8)
  | .sleepTimeout core slot => decide (core < 1284) && decide (slot < 8)
  | .handlerStart core => decide (core < 1284)
  | .scrubComplete core slot => decide (core < 1284) && decide (slot < 8)
  | .lockTimeout core _ => decide (core < 1284)
  | .hevecWrite _ _ => true
  | .cpartWrite core _ => decide (core < 1284)
  | .followerWaitExpiry core slot => decide (core < 1284) && decide (slot < 8)
  | .seqEntryIssue core slot => decide (core < 1284) && decide (slot < 8)
  | .seqEntryComplete core slot => decide (core < 1284) && decide (slot < 8)
  | .streamPrefetch core slot stream _ => decide (core < 1284) && decide (slot < 8) && decide (stream < 8)
  | .sfuAccept clu => decide (clu < 324)
  | .sfuResult clu => decide (clu < 324)
  | .normaliserService clu => decide (clu < 324)
  | .matrixEntryStart core _ => decide (core < 1284)
  | .jobStepIssue core _ => decide (core < 1284)
  | .jobPromotion core _ => decide (core < 1284)
  | .enginePause core _ _ => decide (core < 1284)
  | .engineResume core _ _ => decide (core < 1284)
  | .mldbEnd core _ => decide (core < 1284)
  | .mzeroEnd core _ => decide (core < 1284)
  | .mrdEnd core _ => decide (core < 1284)
  | .copyRow core _ _ => decide (core < 1284)
  | .copyEnd core _ => decide (core < 1284)
  | .storeAccept core _ => decide (core < 1284)
  | .remoteReplyArrival core slot _ => decide (core < 1284) && decide (slot < 8)
  | .tileAccessMessage core slot => decide (core < 1284) && decide (slot < 8)
  | .homeAtomic core slot => decide (core < 1284) && decide (slot < 8)
  | .writebackMerge clu _ => decide (clu < 324)
  | .stagingEviction clu _ => decide (clu < 324)
  | .l2effSample _ _ _ => true
  | .scrubUnit core _ _ _ _ => decide (core < 1284)
  | .reedArrivalMessage _ => true
  | .tagMessage core slot => decide (core < 1284) && decide (slot < 8)
  | .tagRequestRetry core slot => decide (core < 1284) && decide (slot < 8)
  | .inboxDelivery core slot _ => decide (core < 1284) && decide (slot < 8)
  | .weftRequest core slot => decide (core < 1284) && decide (slot < 8)
  | .causalityWalk _ => true
  | .qcfgOpen fn _ _ => decide (fn < 18)
  | .qcfgClose fn _ _ => decide (fn < 18)
  | .qcfgDrain fn _ _ => decide (fn < 18)
  | .qcfgThaw fn _ _ => decide (fn < 18)
  | .qcfgPurge fn _ _ => decide (fn < 18)
  | .qcntClear fn _ _ => decide (fn < 18)
  | .enqueueWindowWrite fn _ _ _ => decide (fn < 18)
  | .dispatchDecision => true
  | .rankBind core => decide (core < 1284)
  | .kernelReleaseEnd _ _ => true
  | .watchdogExpiry _ _ => true
  | .tokenHostWrite fn _ _ => decide (fn < 18)
  | .partitionOpen _ => true
  | .partitionClose _ => true
  | .haltComplete _ => true
  | .shadowTransferEnd _ _ => true
  | .spillEnd _ _ => true
  | .restoreEnd _ _ _ => true
  | .migrationEnd core => decide (core < 1284)
  | .tableWalkEnd clu _ _ _ _ => decide (clu < 324)
  | .pgwakeWake _ _ => true
  | .pgwakeRefuse _ _ => true
  | .evpop _ => true
  | .pgpop _ => true
  | .evstatClear _ _ => true
  | .atsResponse _ _ => true
  | .atsInvalidation _ _ => true
  | .leaseGrant _ _ _ _ _ _ => true
  | .leaseDeny _ _ => true
  | .leaseReclaim _ _ => true
  | .leaseTermEnd _ _ => true
  | .reclaimGranuleCopy _ _ _ _ => true
  | .leaseAck _ _ => true
  | .reclaimDeadline _ _ => true
  | .portcEnable _ => true
  | .portcFence _ => true
  | .portcDisable _ => true
  | .trainingComplete _ _ => true
  | .trainingTimeout _ => true
  | .linkError _ => true
  | .retrainComplete _ => true
  | .retrainTimeout _ => true
  | .partnerLost _ => true
  | .peerRequest _ _ _ _ => true
  | .peerAck core slot _ _ _ => decide (core < 1284) && decide (slot < 8)
  | .remoteAccessTimeout core slot => decide (core < 1284) && decide (slot < 8)
  | .countedReleaseTimeout _ => true
  | .countedReleasePerform _ => true
  | .mcstCopyWrite _ _ _ _ _ _ => true
  | .staleNotice _ _ _ => true
  | .aredPhaseComplete _ _ _ _ => true
  | .shuttleArrival _ _ _ _ => true
  | .shuttleReplyArrival _ _ _ _ _ _ => true
  | .replyHoldTimeout _ => true
  | .shuttleRefusal core slot _ _ _ => decide (core < 1284) && decide (slot < 8)
  | .bar2Write fn _ _ => decide (fn < 18)
  | .bar2Read fn _ _ => decide (fn < 18)
  | .bar2Atomic fn _ _ _ _ _ => decide (fn < 18)
  | .mailboxMessage fn _ => decide (fn < 18)
  | .imageSubmit fn _ => decide (fn < 18)
  | .attestRequest fn _ => decide (fn < 18)
  | .packageReset _ _ _ _ => true
  | .l2Recovery _ _ => true
  | .fatalError _ => true
  | .dumpWrite => true
  | .dumpTimeout => true
  | .escalKillServed core => decide (core < 1284)
  | .escalKillAll core => decide (core < 1284)
  | .thermtrip _ => true
  | .smbusReadTelemetry _ _ => true
  | .smbusReadStage => true
  | .smbusSetPowerLimit watts => decide (400 ≤ watts) && decide (watts ≤ 1600)
  | .registerWrite _ _ => true
  | .add _ _ _ _ => true
  | .sub _ _ _ _ => true
  | .and _ _ _ _ => true
  | .or _ _ _ _ => true
  | .xor _ _ _ _ => true
  | .andn _ _ _ _ => true
  | .orn _ _ _ _ => true
  | .xnor _ _ _ _ => true
  | .shl _ _ _ _ => true
  | .shr _ _ _ _ => true
  | .shra _ _ _ _ => true
  | .rol _ _ _ _ => true
  | .ror _ _ _ _ => true
  | .slt _ _ _ _ => true
  | .sltu _ _ _ _ => true
  | .min _ _ _ _ => true
  | .max _ _ _ _ => true
  | .minu _ _ _ _ => true
  | .maxu _ _ _ _ => true
  | .mul _ _ _ _ => true
  | .hmul _ _ _ _ => true
  | .hmulu _ _ _ _ => true
  | .hmulm _ _ _ _ => true
  | .div _ _ _ _ => true
  | .divu _ _ _ _ => true
  | .rem _ _ _ _ => true
  | .remu _ _ _ _ => true
  | .clz _ _ _ => true
  | .ctz _ _ _ => true
  | .popc _ _ _ => true
  | .brev _ _ _ => true
  | .bswap _ _ _ => true
  | .sext _ _ _ => true
  | .zext _ _ _ => true
  | .bfx _ _ _ _ => true
  | .bfi _ _ _ _ => true
  | .csel _ _ _ _ => true
  | .madd _ _ _ _ _ => true
  | .msub _ _ _ _ _ => true
  | .addi _ _ _ => true
  | .andi _ _ _ => true
  | .ori _ _ _ => true
  | .xori _ _ _ => true
  | .shli _ _ _ => true
  | .shri _ _ _ => true
  | .shrai _ _ _ => true
  | .slti _ _ _ => true
  | .sltiu _ _ _ => true
  | .ldh _ _ => true
  | .addpc _ _ => true
  | .beq _ _ _ => true
  | .bne _ _ _ => true
  | .blt _ _ _ => true
  | .bge _ _ _ => true
  | .bltu _ _ _ => true
  | .bgeu _ _ _ => true
  | .jal _ _ => true
  | .jalr _ _ _ => true
  | .lb _ _ _ => true
  | .lh _ _ _ => true
  | .lw _ _ _ => true
  | .ld _ _ _ => true
  | .lbu _ _ _ => true
  | .lhu _ _ _ => true
  | .lwu _ _ _ => true
  | .lq _ _ d => !d.getLsbD 0
  | .ldc _ _ _ => true
  | .ldaW s _ _ => s.ult 6
  | .ldaD s _ _ => s.ult 6
  | .ldaQ s _ d => s.ult 6 && !d.getLsbD 0
  | .sb _ _ _ => true
  | .sh _ _ _ => true
  | .sw _ _ _ => true
  | .sd _ _ _ => true
  | .sq _ b _ => !b.getLsbD 0
  | .snib _ _ _ => true
  | .strlW s _ _ => s.ult 6
  | .strlD s _ _ => s.ult 6
  | .strlQ s b _ => s.ult 6 && !b.getLsbD 0
  | .atomAddW s _ _ _ _ => s.ult 6
  | .atomAndW s _ _ _ _ => s.ult 6
  | .atomOrW s _ _ _ _ => s.ult 6
  | .atomXorW s _ _ _ _ => s.ult 6
  | .atomMinW s _ _ _ _ => s.ult 6
  | .atomMaxW s _ _ _ _ => s.ult 6
  | .atomMinuW s _ _ _ _ => s.ult 6
  | .atomMaxuW s _ _ _ _ => s.ult 6
  | .atomSwapW s _ _ _ _ => s.ult 6
  | .atomAddD s _ _ _ _ => s.ult 6
  | .atomAndD s _ _ _ _ => s.ult 6
  | .atomOrD s _ _ _ _ => s.ult 6
  | .atomXorD s _ _ _ _ => s.ult 6
  | .atomMinD s _ _ _ _ => s.ult 6
  | .atomMaxD s _ _ _ _ => s.ult 6
  | .atomMinuD s _ _ _ _ => s.ult 6
  | .atomMaxuD s _ _ _ _ => s.ult 6
  | .atomSwapD s _ _ _ _ => s.ult 6
  | .fatomFadd t s _ _ _ _ => s.ult 6 && t != 3
  | .fatomFmin t s _ _ _ _ => s.ult 6 && t != 3
  | .fatomFmax t s _ _ _ _ => s.ult 6 && t != 3
  | .fatompFadd t s _ _ _ _ => s.ult 6 && t.ult 2
  | .fatompFmin t s _ _ _ _ => s.ult 6 && t.ult 2
  | .fatompFmax t s _ _ _ _ => s.ult 6 && t.ult 2
  | .casW s _ _ _ _ => s.ult 6
  | .casD s _ _ _ _ => s.ult 6
  | .casQ s _ b _ d => s.ult 6 && !d.getLsbD 0 && !b.getLsbD 0 && d != 0
  | .wbr s _ _ => s.ult 6
  | .invr s _ _ => s.ult 6
  | .disc s _ _ => s.ult 6
  | .pref s _ _ => s.ult 6
  | .cinv => true
  | .fence s d => s.ult 6 && (d == 0 || s == 5)
  | .rel s => s.ult 6
  | .acq s => s.ult 6
  | .hint _ => true
  | .fadd t _ _ _ => (t == 4 || t == 5 || t == 6)
  | .fsub t _ _ _ => (t == 4 || t == 5 || t == 6)
  | .fmul t _ _ _ => (t == 4 || t == 5 || t == 6)
  | .fdiv t _ _ _ => (t == 4 || t == 5 || t == 6)
  | .fsqrt t _ _ => (t == 4 || t == 5 || t == 6)
  | .fmin t _ _ _ => (t == 4 || t == 5 || t == 6)
  | .fmax t _ _ _ => (t == 4 || t == 5 || t == 6)
  | .fcpys t _ _ _ => (t == 4 || t == 5 || t == 6)
  | .fcpyns t _ _ _ => (t == 4 || t == 5 || t == 6)
  | .fxors t _ _ _ => (t == 4 || t == 5 || t == 6)
  | .feq t _ _ _ => (t == 4 || t == 5 || t == 6)
  | .flt t _ _ _ => (t == 4 || t == 5 || t == 6)
  | .fle t _ _ _ => (t == 4 || t == 5 || t == 6)
  | .fkind t _ _ => (t == 4 || t == 5 || t == 6)
  | .fmadd t _ _ _ _ => (t == 4 || t == 5 || t == 6)
  | .fmsub t _ _ _ _ => (t == 4 || t == 5 || t == 6)
  | .fnmadd t _ _ _ _ => (t == 4 || t == 5 || t == 6)
  | .fnmsub t _ _ _ _ => (t == 4 || t == 5 || t == 6)
  | .fcvt u t _ _ _ => u.ult 11 && t.ult 11 && u != t
  | .ftog _ _ => true
  | .ftogh _ _ => true
  | .gtof _ _ _ => true
  | .splat t _ _ => t.ult 13
  | .shuf t _ _ _ => t.ult 13 && t != 8
  | .flq _ _ _ => true
  | .fsq _ _ _ => true
  | .qadd t _ _ _ => (t == 9 || t == 10)
  | .qsub t _ _ _ => (t == 9 || t == 10)
  | .qmul t _ _ _ => (t == 9 || t == 10)
  | .qshr t _ _ _ => (t == 9 || t == 10)
  | .qsat _ _ => true
  | .qrng t _ _ => (t == 9 || t == 10)
  | .qabs t _ _ => (t == 9 || t == 10)
  | .rsadd _ _ _ _ => true
  | .rssub _ _ _ _ => true
  | .rsmul _ _ _ _ => true
  | .rsdiv _ _ _ _ => true
  | .rsneg _ _ _ => true
  | .rsrec _ _ _ => true
  | .rssqr _ _ _ => true
  | .rssqrt _ _ _ => true
  | .rsuni _ _ _ _ => true
  | .rsint _ _ _ _ => true
  | .rsfrom _ _ _ _ => true
  | .rslo _ _ _ => true
  | .rshi _ _ _ => true
  | .rspack _ _ _ => true
  | .rsunpk _ _ _ => true
  | .rsemp _ _ _ => true
  | .rsldt _ => true
  | .rsldg _ => true
  | .fexp2 t _ _ => (t == 5 || t == 6)
  | .flog2 t _ _ => (t == 5 || t == 6)
  | .frcp t _ _ => (t == 5 || t == 6)
  | .frsq t _ _ => (t == 5 || t == 6)
  | .fsinpi t _ _ => (t == 5 || t == 6)
  | .fcospi t _ _ => (t == 5 || t == 6)
  | .ftanh t _ _ => (t == 5 || t == 6)
  | .ferf t _ _ => (t == 5 || t == 6)
  | .fsigm t _ _ => (t == 5 || t == 6)
  | .sbound _ _ _ => true
  | .sstride _ _ _ => true
  | .sbase _ _ => true
  | .sen _ _ _ => true
  | .sdis _ => true
  | .sdrain _ _ => true
  | .sstat _ _ => true
  | .seq _ n => n.ult 16
  | .qwg q _ _ => q.ult 4
  | .qwf q _ => !q.ult 4 && q.ult 8
  | .qrg q _ => !q.ult 4 && q.ult 8
  | .qrf q _ => q.ult 4
  | .qcnt q _ => q.ult 8
  | .mjobAcc _ _ _ _ _ _ _ => true
  | .mjobOvr _ _ _ _ _ _ _ => true
  | .mldb t _ _ _ _ => (t == 5 || t == 6 || t == 7 || t == 8 || t == 10)
  | .mzero _ _ => true
  | .mrd _ _ _ _ => true
  | .mstat _ _ => true
  | .cpyMem _ _ _ _ _ _ _ _ => true
  | .cpyBob _ _ _ _ _ _ _ _ => true
  | .cpyCim _ _ _ _ _ _ _ _ => true
  | .ewait _ _ => true
  | .efence _ => true
  | .ecancel _ _ => true
  | .reedArr _ _ => true
  | .reedWait _ _ _ => true
  | .reedSync _ _ => true
  | .reedQry _ _ _ => true
  | .lde s _ _ => s.ult 6
  | .ldf s _ _ => s.ult 6
  | .stf s _ _ => s.ult 6
  | .ste s _ _ => s.ult 6
  | .tagi s _ _ => s.ult 6
  | .tagr s _ _ => s.ult 6
  | .bbinit _ _ _ => true
  | .bbres _ _ => true
  | .bbcom _ _ _ => true
  | .bbacq _ _ => true
  | .bbrel _ _ _ => true
  | .bbqry _ _ => true
  | .msnd _ _ _ => true
  | .mrcv d => !d.getLsbD 0 && d != 0
  | .mpoll _ => true
  | .skw _ _ _ _ => true
  | .skr _ _ _ _ => true
  | .skre _ _ _ _ => true
  | .skbind _ _ _ => true
  | .skflr _ _ _ => true
  | .skqry n _ _ => n.ult 5
  | .skunb _ _ _ => true
  | .shtl _ n _ _ => n.ult 7
  | .mcst _ _ _ => true
  | .pubv _ _ _ => true
  | .subv n _ _ => n.ult 2
  | .ared p _ _ _ => p.ult 6
  | .shtr _ _ => true
  | .lreq _ _ => true
  | .lrel _ _ _ => true
  | .lqry n _ _ => n.ult 5
  | .csrr n _ => csrAssigned n
  | .csrw n _ _ => csrAssigned n
  | .csrs n _ _ => csrAssigned n
  | .csrc n _ _ => csrAssigned n
  | .trap _ => true
  | .eret => true
  | .kill => true
  | .yield => true
  | .sleep _ _ => true
  | .wake _ _ => true
  | .kexit => true
  | .twin _ => true
  | .untwin _ => true
  | .follow _ => true
  | .detach _ => true
  | .join _ => true
  | .chk _ => true
  | .nest _ _ => true
  | .iter _ _ => true
  | .rdcyc _ => true
  | .rdtim _ => true
  | .rdstep n _ _ => n.ult 3
  | .launch _ _ _ => true
  | .tokw _ _ => true
  | .toks _ _ _ => true
  | .tokq _ _ => true
  | .toke _ _ => true
  | .segr _ w _ => w.ult 3
  | .segw _ w _ _ => w.ult 3
  | .segn _ _ _ _ => true
  | .splk _ _ _ => true
  | .spul _ _ => true
  | .pinv _ _ _ => true
  | .pprobe _ _ => true
  | .migr _ _ _ => true
  | .ctxhalt _ _ _ => true
  | .ctxsave _ _ _ => true
  | .ctxrest _ _ _ => true
  | .notAnInstruction _ _ _ => true
  | .fetchSegmentFault => true
  | .pcieCompletionTimeout core slot => decide (core < 1284) && decide (slot < 8)
  | .rtboundExpiry core slot _ => decide (core < 1284) && decide (slot < 8)
  | .acknowledgementTimeout core slot _ => decide (core < 1284) && decide (slot < 8)
  | .versionBumpArrival _ _ _ _ _ _ => true
  | .switchNoPath _ _ => true
  | .tokenRequest core slot => decide (core < 1284) && decide (slot < 8)
  | .launchRecordArrival core slot => decide (core < 1284) && decide (slot < 8)

end Sys2Proof
end

