-- ==== Sys2Proof/Decode.lean ====
section
/-! DEFINITION. The decoder (R23-R41), total on any bytes and rejecting by name, and after it the encoder, both from
the layout of R23 and the opcode map R34-R38. A word is cut once into the fields k, c, b, a, d and its low byte
M·4 + Q; each major then has its own function of the fields. -/

namespace Sys2Proof

noncomputable section

/-- Why bytes are no instruction (R39). -/
inductive DecodeError where
  /-- fewer bytes than the instruction has; safe -/
  | truncated
  /-- the major is not assigned; traps ILLOP -/
  | major
  /-- a selector is not assigned or a fixed field is not zero; traps ILLOP -/
  | selector
  /-- a scope, format, register or number code is not accepted; traps ILLOP -/
  | code
deriving DecidableEq, Repr

/-- The word whose fields are k, c, b, a, d and whose low byte is `op` (R23). -/
def packWord (k : BitVec 4) (c b a d : Reg) (op : Byte) : W32 := k ++ c ++ b ++ a ++ d ++ op

/-- k, w[31:28]. -/
def fieldK (w : W32) : BitVec 4 := w.extractLsb' 28 4
/-- c, w[27:23]. -/
def fieldC (w : W32) : Reg := w.extractLsb' 23 5
/-- b, w[22:18]. -/
def fieldB (w : W32) : Reg := w.extractLsb' 18 5
/-- a, w[17:13]. -/
def fieldA (w : W32) : Reg := w.extractLsb' 13 5
/-- d, w[12:8]. -/
def fieldD (w : W32) : Reg := w.extractLsb' 8 5
/-- The low byte M·4 + Q, w[7:0]. -/
def fieldOp (w : W32) : Byte := w.extractLsb' 0 8

/-- An assignment of the map that holds when its fields do, then the code checks of R40 step 4. -/
def assigned (fits : Bool) (i : Instr) (other : Except DecodeError Instr) : Except DecodeError Instr :=
  if fits then (if i.wf then .ok i else .error .code) else other

/-- Major 0.00: ADD SUB AND OR XOR ANDN ORN XNOR SHL SHR SHRA ROL ROR SLT SLTU MIN MAX MINU MAXU MUL HMUL HMULU HMULM DIV DIVU REM REMU CLZ CTZ POPC BREV BSWAP. -/
def decode0x00 (fk : BitVec 4) (fc fb fa fd : Reg) : Except DecodeError Instr :=
  assigned (fk &&& 14 == 0 && fc == 0) (.add (fk.extractLsb' 0 1) fb fa fd) <|
  assigned (fk &&& 14 == 0 && fc == 1) (.sub (fk.extractLsb' 0 1) fb fa fd) <|
  assigned (fk &&& 14 == 0 && fc == 2) (.and (fk.extractLsb' 0 1) fb fa fd) <|
  assigned (fk &&& 14 == 0 && fc == 3) (.or (fk.extractLsb' 0 1) fb fa fd) <|
  assigned (fk &&& 14 == 0 && fc == 4) (.xor (fk.extractLsb' 0 1) fb fa fd) <|
  assigned (fk &&& 14 == 0 && fc == 5) (.andn (fk.extractLsb' 0 1) fb fa fd) <|
  assigned (fk &&& 14 == 0 && fc == 6) (.orn (fk.extractLsb' 0 1) fb fa fd) <|
  assigned (fk &&& 14 == 0 && fc == 7) (.xnor (fk.extractLsb' 0 1) fb fa fd) <|
  assigned (fk &&& 14 == 0 && fc == 8) (.shl (fk.extractLsb' 0 1) fb fa fd) <|
  assigned (fk &&& 14 == 0 && fc == 9) (.shr (fk.extractLsb' 0 1) fb fa fd) <|
  assigned (fk &&& 14 == 0 && fc == 10) (.shra (fk.extractLsb' 0 1) fb fa fd) <|
  assigned (fk &&& 14 == 0 && fc == 11) (.rol (fk.extractLsb' 0 1) fb fa fd) <|
  assigned (fk &&& 14 == 0 && fc == 12) (.ror (fk.extractLsb' 0 1) fb fa fd) <|
  assigned (fk &&& 14 == 0 && fc == 13) (.slt (fk.extractLsb' 0 1) fb fa fd) <|
  assigned (fk &&& 14 == 0 && fc == 14) (.sltu (fk.extractLsb' 0 1) fb fa fd) <|
  assigned (fk &&& 14 == 0 && fc == 15) (.min (fk.extractLsb' 0 1) fb fa fd) <|
  assigned (fk &&& 14 == 0 && fc == 16) (.max (fk.extractLsb' 0 1) fb fa fd) <|
  assigned (fk &&& 14 == 0 && fc == 17) (.minu (fk.extractLsb' 0 1) fb fa fd) <|
  assigned (fk &&& 14 == 0 && fc == 18) (.maxu (fk.extractLsb' 0 1) fb fa fd) <|
  assigned (fk &&& 14 == 0 && fc == 19) (.mul (fk.extractLsb' 0 1) fb fa fd) <|
  assigned (fk &&& 14 == 0 && fc == 20) (.hmul (fk.extractLsb' 0 1) fb fa fd) <|
  assigned (fk &&& 14 == 0 && fc == 21) (.hmulu (fk.extractLsb' 0 1) fb fa fd) <|
  assigned (fk &&& 14 == 0 && fc == 22) (.hmulm (fk.extractLsb' 0 1) fb fa fd) <|
  assigned (fk &&& 14 == 0 && fc == 23) (.div (fk.extractLsb' 0 1) fb fa fd) <|
  assigned (fk &&& 14 == 0 && fc == 24) (.divu (fk.extractLsb' 0 1) fb fa fd) <|
  assigned (fk &&& 14 == 0 && fc == 25) (.rem (fk.extractLsb' 0 1) fb fa fd) <|
  assigned (fk &&& 14 == 0 && fc == 26) (.remu (fk.extractLsb' 0 1) fb fa fd) <|
  assigned (fk &&& 14 == 0 && fc == 27 && fb == 0) (.clz (fk.extractLsb' 0 1) fa fd) <|
  assigned (fk &&& 14 == 0 && fc == 28 && fb == 0) (.ctz (fk.extractLsb' 0 1) fa fd) <|
  assigned (fk &&& 14 == 0 && fc == 29 && fb == 0) (.popc (fk.extractLsb' 0 1) fa fd) <|
  assigned (fk &&& 14 == 0 && fc == 30 && fb == 0) (.brev (fk.extractLsb' 0 1) fa fd) <|
  assigned (fk &&& 14 == 0 && fc == 31 && fb == 0) (.bswap (fk.extractLsb' 0 1) fa fd) <|
  .error .selector

/-- Major 0.01: SEXT ZEXT BFX BFI. -/
def decode0x01 (fk : BitVec 4) (fc fb fa fd : Reg) : Except DecodeError Instr :=
  assigned (fk &&& 12 == 0 && fc == 0 && fb == 0) (.sext (fk.extractLsb' 0 2) fa fd) <|
  assigned (fk &&& 12 == 0 && fc == 1 && fb == 0) (.zext (fk.extractLsb' 0 2) fa fd) <|
  assigned (fk &&& 12 == 0 && fc == 2) (.bfx (fk.extractLsb' 0 2) fb fa fd) <|
  assigned (fk &&& 12 == 0 && fc == 3) (.bfi (fk.extractLsb' 0 2) fb fa fd) <|
  .error .selector

/-- Major 0.02: CSEL. -/
def decode0x02 (fk : BitVec 4) (fc fb fa fd : Reg) : Except DecodeError Instr :=
  assigned (fk == 0) (.csel fc fb fa fd) <|
  .error .selector

/-- Major 0.03: MADD. -/
def decode0x03 (fk : BitVec 4) (fc fb fa fd : Reg) : Except DecodeError Instr :=
  assigned (fk &&& 14 == 0) (.madd (fk.extractLsb' 0 1) fc fb fa fd) <|
  .error .selector

/-- Major 0.04: MSUB. -/
def decode0x04 (fk : BitVec 4) (fc fb fa fd : Reg) : Except DecodeError Instr :=
  assigned (fk &&& 14 == 0) (.msub (fk.extractLsb' 0 1) fc fb fa fd) <|
  .error .selector

/-- Major 0.08: ADDI. -/
def decode0x08 (fk : BitVec 4) (fc fb fa fd : Reg) : Except DecodeError Instr :=
  assigned (true) (.addi (fk ++ fc ++ fb) fa fd) <|
  .error .selector

/-- Major 0.09: ANDI. -/
def decode0x09 (fk : BitVec 4) (fc fb fa fd : Reg) : Except DecodeError Instr :=
  assigned (true) (.andi (fk ++ fc ++ fb) fa fd) <|
  .error .selector

/-- Major 0.0A: ORI. -/
def decode0x0A (fk : BitVec 4) (fc fb fa fd : Reg) : Except DecodeError Instr :=
  assigned (true) (.ori (fk ++ fc ++ fb) fa fd) <|
  .error .selector

/-- Major 0.0B: XORI. -/
def decode0x0B (fk : BitVec 4) (fc fb fa fd : Reg) : Except DecodeError Instr :=
  assigned (true) (.xori (fk ++ fc ++ fb) fa fd) <|
  .error .selector

/-- Major 0.0C: SHLI. -/
def decode0x0C (fk : BitVec 4) (fc fb fa fd : Reg) : Except DecodeError Instr :=
  assigned (fk == 0 && fc &&& 30 == 0) (.shli ((fc.extractLsb' 0 1) ++ fb) fa fd) <|
  .error .selector

/-- Major 0.0D: SHRI. -/
def decode0x0D (fk : BitVec 4) (fc fb fa fd : Reg) : Except DecodeError Instr :=
  assigned (fk == 0 && fc &&& 30 == 0) (.shri ((fc.extractLsb' 0 1) ++ fb) fa fd) <|
  .error .selector

/-- Major 0.0E: SHRAI. -/
def decode0x0E (fk : BitVec 4) (fc fb fa fd : Reg) : Except DecodeError Instr :=
  assigned (fk == 0 && fc &&& 30 == 0) (.shrai ((fc.extractLsb' 0 1) ++ fb) fa fd) <|
  .error .selector

/-- Major 0.0F: SLTI. -/
def decode0x0F (fk : BitVec 4) (fc fb fa fd : Reg) : Except DecodeError Instr :=
  assigned (true) (.slti (fk ++ fc ++ fb) fa fd) <|
  .error .selector

/-- Major 0.10: SLTIU. -/
def decode0x10 (fk : BitVec 4) (fc fb fa fd : Reg) : Except DecodeError Instr :=
  assigned (true) (.sltiu (fk ++ fc ++ fb) fa fd) <|
  .error .selector

/-- Major 0.11: LDH. -/
def decode0x11 (fk : BitVec 4) (fc fb fa fd : Reg) : Except DecodeError Instr :=
  assigned (true) (.ldh (fk ++ fc ++ fb ++ fa) fd) <|
  .error .selector

/-- Major 0.12: ADDPC. -/
def decode0x12 (fk : BitVec 4) (fc fb fa fd : Reg) : Except DecodeError Instr :=
  assigned (true) (.addpc (fk ++ fc ++ fb ++ fa) fd) <|
  .error .selector

/-- Major 0.14: BEQ. -/
def decode0x14 (fk : BitVec 4) (fc fb fa fd : Reg) : Except DecodeError Instr :=
  assigned (true) (.beq (fk ++ fc ++ fd) fb fa) <|
  .error .selector

/-- Major 0.15: BNE. -/
def decode0x15 (fk : BitVec 4) (fc fb fa fd : Reg) : Except DecodeError Instr :=
  assigned (true) (.bne (fk ++ fc ++ fd) fb fa) <|
  .error .selector

/-- Major 0.16: BLT. -/
def decode0x16 (fk : BitVec 4) (fc fb fa fd : Reg) : Except DecodeError Instr :=
  assigned (true) (.blt (fk ++ fc ++ fd) fb fa) <|
  .error .selector

/-- Major 0.17: BGE. -/
def decode0x17 (fk : BitVec 4) (fc fb fa fd : Reg) : Except DecodeError Instr :=
  assigned (true) (.bge (fk ++ fc ++ fd) fb fa) <|
  .error .selector

/-- Major 0.18: BLTU. -/
def decode0x18 (fk : BitVec 4) (fc fb fa fd : Reg) : Except DecodeError Instr :=
  assigned (true) (.bltu (fk ++ fc ++ fd) fb fa) <|
  .error .selector

/-- Major 0.19: BGEU. -/
def decode0x19 (fk : BitVec 4) (fc fb fa fd : Reg) : Except DecodeError Instr :=
  assigned (true) (.bgeu (fk ++ fc ++ fd) fb fa) <|
  .error .selector

/-- Major 0.1A: JAL. -/
def decode0x1A (fk : BitVec 4) (fc fb fa fd : Reg) : Except DecodeError Instr :=
  assigned (true) (.jal (fk ++ fc ++ fb ++ fa) fd) <|
  .error .selector

/-- Major 0.1B: JALR. -/
def decode0x1B (fk : BitVec 4) (fc fb fa fd : Reg) : Except DecodeError Instr :=
  assigned (true) (.jalr (fk ++ fc ++ fb) fa fd) <|
  .error .selector

/-- Major 0.20: LB. -/
def decode0x20 (fk : BitVec 4) (fc fb fa fd : Reg) : Except DecodeError Instr :=
  assigned (true) (.lb (fk ++ fc ++ fb) fa fd) <|
  .error .selector

/-- Major 0.21: LH. -/
def decode0x21 (fk : BitVec 4) (fc fb fa fd : Reg) : Except DecodeError Instr :=
  assigned (true) (.lh (fk ++ fc ++ fb) fa fd) <|
  .error .selector

/-- Major 0.22: LW. -/
def decode0x22 (fk : BitVec 4) (fc fb fa fd : Reg) : Except DecodeError Instr :=
  assigned (true) (.lw (fk ++ fc ++ fb) fa fd) <|
  .error .selector

/-- Major 0.23: LD. -/
def decode0x23 (fk : BitVec 4) (fc fb fa fd : Reg) : Except DecodeError Instr :=
  assigned (true) (.ld (fk ++ fc ++ fb) fa fd) <|
  .error .selector

/-- Major 0.24: LBU. -/
def decode0x24 (fk : BitVec 4) (fc fb fa fd : Reg) : Except DecodeError Instr :=
  assigned (true) (.lbu (fk ++ fc ++ fb) fa fd) <|
  .error .selector

/-- Major 0.25: LHU. -/
def decode0x25 (fk : BitVec 4) (fc fb fa fd : Reg) : Except DecodeError Instr :=
  assigned (true) (.lhu (fk ++ fc ++ fb) fa fd) <|
  .error .selector

/-- Major 0.26: LWU. -/
def decode0x26 (fk : BitVec 4) (fc fb fa fd : Reg) : Except DecodeError Instr :=
  assigned (true) (.lwu (fk ++ fc ++ fb) fa fd) <|
  .error .selector

/-- Major 0.27: LQ. -/
def decode0x27 (fk : BitVec 4) (fc fb fa fd : Reg) : Except DecodeError Instr :=
  assigned (true) (.lq (fk ++ fc ++ fb) fa fd) <|
  .error .selector

/-- Major 0.28: LDC. -/
def decode0x28 (fk : BitVec 4) (fc fb fa fd : Reg) : Except DecodeError Instr :=
  assigned (true) (.ldc (fk ++ fc ++ fb) fa fd) <|
  .error .selector

/-- Major 0.29: LDA_W LDA_D LDA_Q. -/
def decode0x29 (fk : BitVec 4) (fc fb fa fd : Reg) : Except DecodeError Instr :=
  assigned (fk == 0 && fc &&& 3 == 0 && fb == 0) (.ldaW (fc.extractLsb' 2 3) fa fd) <|
  assigned (fk == 1 && fc &&& 3 == 0 && fb == 0) (.ldaD (fc.extractLsb' 2 3) fa fd) <|
  assigned (fk == 2 && fc &&& 3 == 0 && fb == 0) (.ldaQ (fc.extractLsb' 2 3) fa fd) <|
  .error .selector

/-- Major 0.30: SB. -/
def decode0x30 (fk : BitVec 4) (fc fb fa fd : Reg) : Except DecodeError Instr :=
  assigned (true) (.sb (fk ++ fc ++ fd) fb fa) <|
  .error .selector

/-- Major 0.31: SH. -/
def decode0x31 (fk : BitVec 4) (fc fb fa fd : Reg) : Except DecodeError Instr :=
  assigned (true) (.sh (fk ++ fc ++ fd) fb fa) <|
  .error .selector

/-- Major 0.32: SW. -/
def decode0x32 (fk : BitVec 4) (fc fb fa fd : Reg) : Except DecodeError Instr :=
  assigned (true) (.sw (fk ++ fc ++ fd) fb fa) <|
  .error .selector

/-- Major 0.33: SD. -/
def decode0x33 (fk : BitVec 4) (fc fb fa fd : Reg) : Except DecodeError Instr :=
  assigned (true) (.sd (fk ++ fc ++ fd) fb fa) <|
  .error .selector

/-- Major 0.34: SQ. -/
def decode0x34 (fk : BitVec 4) (fc fb fa fd : Reg) : Except DecodeError Instr :=
  assigned (true) (.sq (fk ++ fc ++ fd) fb fa) <|
  .error .selector

/-- Major 0.35: SNIB. -/
def decode0x35 (fk : BitVec 4) (fc fb fa fd : Reg) : Except DecodeError Instr :=
  assigned (fk == 0 && fc &&& 30 == 0 && fd == 0) (.snib (fc.extractLsb' 0 1) fb fa) <|
  .error .selector

/-- Major 0.36: STRL_W STRL_D STRL_Q. -/
def decode0x36 (fk : BitVec 4) (fc fb fa fd : Reg) : Except DecodeError Instr :=
  assigned (fk == 0 && fc &&& 3 == 0 && fd == 0) (.strlW (fc.extractLsb' 2 3) fb fa) <|
  assigned (fk == 1 && fc &&& 3 == 0 && fd == 0) (.strlD (fc.extractLsb' 2 3) fb fa) <|
  assigned (fk == 2 && fc &&& 3 == 0 && fd == 0) (.strlQ (fc.extractLsb' 2 3) fb fa) <|
  .error .selector

/-- Major 0.38: ATOM_ADD_W ATOM_AND_W ATOM_OR_W ATOM_XOR_W ATOM_MIN_W ATOM_MAX_W ATOM_MINU_W ATOM_MAXU_W ATOM_SWAP_W. -/
def decode0x38 (fk : BitVec 4) (fc fb fa fd : Reg) : Except DecodeError Instr :=
  assigned (fk == 0) (.atomAddW (fc.extractLsb' 2 3) (fc.extractLsb' 0 2) fb fa fd) <|
  assigned (fk == 1) (.atomAndW (fc.extractLsb' 2 3) (fc.extractLsb' 0 2) fb fa fd) <|
  assigned (fk == 2) (.atomOrW (fc.extractLsb' 2 3) (fc.extractLsb' 0 2) fb fa fd) <|
  assigned (fk == 3) (.atomXorW (fc.extractLsb' 2 3) (fc.extractLsb' 0 2) fb fa fd) <|
  assigned (fk == 4) (.atomMinW (fc.extractLsb' 2 3) (fc.extractLsb' 0 2) fb fa fd) <|
  assigned (fk == 5) (.atomMaxW (fc.extractLsb' 2 3) (fc.extractLsb' 0 2) fb fa fd) <|
  assigned (fk == 6) (.atomMinuW (fc.extractLsb' 2 3) (fc.extractLsb' 0 2) fb fa fd) <|
  assigned (fk == 7) (.atomMaxuW (fc.extractLsb' 2 3) (fc.extractLsb' 0 2) fb fa fd) <|
  assigned (fk == 8) (.atomSwapW (fc.extractLsb' 2 3) (fc.extractLsb' 0 2) fb fa fd) <|
  .error .selector

/-- Major 0.39: ATOM_ADD_D ATOM_AND_D ATOM_OR_D ATOM_XOR_D ATOM_MIN_D ATOM_MAX_D ATOM_MINU_D ATOM_MAXU_D ATOM_SWAP_D. -/
def decode0x39 (fk : BitVec 4) (fc fb fa fd : Reg) : Except DecodeError Instr :=
  assigned (fk == 0) (.atomAddD (fc.extractLsb' 2 3) (fc.extractLsb' 0 2) fb fa fd) <|
  assigned (fk == 1) (.atomAndD (fc.extractLsb' 2 3) (fc.extractLsb' 0 2) fb fa fd) <|
  assigned (fk == 2) (.atomOrD (fc.extractLsb' 2 3) (fc.extractLsb' 0 2) fb fa fd) <|
  assigned (fk == 3) (.atomXorD (fc.extractLsb' 2 3) (fc.extractLsb' 0 2) fb fa fd) <|
  assigned (fk == 4) (.atomMinD (fc.extractLsb' 2 3) (fc.extractLsb' 0 2) fb fa fd) <|
  assigned (fk == 5) (.atomMaxD (fc.extractLsb' 2 3) (fc.extractLsb' 0 2) fb fa fd) <|
  assigned (fk == 6) (.atomMinuD (fc.extractLsb' 2 3) (fc.extractLsb' 0 2) fb fa fd) <|
  assigned (fk == 7) (.atomMaxuD (fc.extractLsb' 2 3) (fc.extractLsb' 0 2) fb fa fd) <|
  assigned (fk == 8) (.atomSwapD (fc.extractLsb' 2 3) (fc.extractLsb' 0 2) fb fa fd) <|
  .error .selector

/-- Major 0.3A: FATOM_FADD FATOM_FMIN FATOM_FMAX. -/
def decode0x3A (fk : BitVec 4) (fc fb fa fd : Reg) : Except DecodeError Instr :=
  assigned (fk &&& 12 == 0) (.fatomFadd (fk.extractLsb' 0 2) (fc.extractLsb' 2 3) (fc.extractLsb' 0 2) fb fa fd) <|
  assigned (fk &&& 12 == 4) (.fatomFmin (fk.extractLsb' 0 2) (fc.extractLsb' 2 3) (fc.extractLsb' 0 2) fb fa fd) <|
  assigned (fk &&& 12 == 8) (.fatomFmax (fk.extractLsb' 0 2) (fc.extractLsb' 2 3) (fc.extractLsb' 0 2) fb fa fd) <|
  .error .selector

/-- Major 0.3B: FATOMP_FADD FATOMP_FMIN FATOMP_FMAX. -/
def decode0x3B (fk : BitVec 4) (fc fb fa fd : Reg) : Except DecodeError Instr :=
  assigned (fk &&& 12 == 0) (.fatompFadd (fk.extractLsb' 0 2) (fc.extractLsb' 2 3) (fc.extractLsb' 0 2) fb fa fd) <|
  assigned (fk &&& 12 == 4) (.fatompFmin (fk.extractLsb' 0 2) (fc.extractLsb' 2 3) (fc.extractLsb' 0 2) fb fa fd) <|
  assigned (fk &&& 12 == 8) (.fatompFmax (fk.extractLsb' 0 2) (fc.extractLsb' 2 3) (fc.extractLsb' 0 2) fb fa fd) <|
  .error .selector

/-- Major 0.3C: CAS_W CAS_D CAS_Q. -/
def decode0x3C (fk : BitVec 4) (fc fb fa fd : Reg) : Except DecodeError Instr :=
  assigned (fk == 0) (.casW (fc.extractLsb' 2 3) (fc.extractLsb' 0 2) fb fa fd) <|
  assigned (fk == 1) (.casD (fc.extractLsb' 2 3) (fc.extractLsb' 0 2) fb fa fd) <|
  assigned (fk == 2) (.casQ (fc.extractLsb' 2 3) (fc.extractLsb' 0 2) fb fa fd) <|
  .error .selector

/-- Major 0.3D: WBR INVR DISC PREF CINV. -/
def decode0x3D (fk : BitVec 4) (fc fb fa fd : Reg) : Except DecodeError Instr :=
  assigned (fk == 0 && fc &&& 3 == 0 && fd == 0) (.wbr (fc.extractLsb' 2 3) fb fa) <|
  assigned (fk == 1 && fc &&& 3 == 0 && fd == 0) (.invr (fc.extractLsb' 2 3) fb fa) <|
  assigned (fk == 2 && fc &&& 3 == 0 && fd == 0) (.disc (fc.extractLsb' 2 3) fb fa) <|
  assigned (fk == 3 && fc &&& 3 == 0 && fd == 0) (.pref (fc.extractLsb' 2 3) fb fa) <|
  assigned (fk == 4 && fc == 0 && fb == 0 && fa == 0 && fd == 0) (.cinv) <|
  .error .selector

/-- Major 0.3E: FENCE REL ACQ. -/
def decode0x3E (fk : BitVec 4) (fc fb fa fd : Reg) : Except DecodeError Instr :=
  assigned (fk == 0 && fc &&& 3 == 0 && fb == 0 && fa == 0) (.fence (fc.extractLsb' 2 3) fd) <|
  assigned (fk == 1 && fc &&& 3 == 0 && fb == 0 && fa == 0 && fd == 0) (.rel (fc.extractLsb' 2 3)) <|
  assigned (fk == 2 && fc &&& 3 == 0 && fb == 0 && fa == 0 && fd == 0) (.acq (fc.extractLsb' 2 3)) <|
  .error .selector

/-- Major 0.3F: HINT. -/
def decode0x3F (fk : BitVec 4) (fc fb fa fd : Reg) : Except DecodeError Instr :=
  assigned (true) (.hint (fk ++ fc ++ fb ++ fa ++ fd)) <|
  .error .selector

/-- Major 1.00: FADD FSUB FMUL FDIV FSQRT FMIN FMAX FCPYS FCPYNS FXORS FEQ FLT FLE FKIND. -/
def decode1x00 (fk : BitVec 4) (fc fb fa fd : Reg) : Except DecodeError Instr :=
  assigned (fc == 0) (.fadd fk fb fa fd) <|
  assigned (fc == 1) (.fsub fk fb fa fd) <|
  assigned (fc == 2) (.fmul fk fb fa fd) <|
  assigned (fc == 3) (.fdiv fk fb fa fd) <|
  assigned (fc == 4 && fb == 0) (.fsqrt fk fa fd) <|
  assigned (fc == 5) (.fmin fk fb fa fd) <|
  assigned (fc == 6) (.fmax fk fb fa fd) <|
  assigned (fc == 7) (.fcpys fk fb fa fd) <|
  assigned (fc == 8) (.fcpyns fk fb fa fd) <|
  assigned (fc == 9) (.fxors fk fb fa fd) <|
  assigned (fc == 10) (.feq fk fb fa fd) <|
  assigned (fc == 11) (.flt fk fb fa fd) <|
  assigned (fc == 12) (.fle fk fb fa fd) <|
  assigned (fc == 13 && fb == 0) (.fkind fk fa fd) <|
  .error .selector

/-- Major 1.01: FMADD. -/
def decode1x01 (fk : BitVec 4) (fc fb fa fd : Reg) : Except DecodeError Instr :=
  assigned (true) (.fmadd fk fc fb fa fd) <|
  .error .selector

/-- Major 1.02: FMSUB. -/
def decode1x02 (fk : BitVec 4) (fc fb fa fd : Reg) : Except DecodeError Instr :=
  assigned (true) (.fmsub fk fc fb fa fd) <|
  .error .selector

/-- Major 1.03: FNMADD. -/
def decode1x03 (fk : BitVec 4) (fc fb fa fd : Reg) : Except DecodeError Instr :=
  assigned (true) (.fnmadd fk fc fb fa fd) <|
  .error .selector

/-- Major 1.04: FNMSUB. -/
def decode1x04 (fk : BitVec 4) (fc fb fa fd : Reg) : Except DecodeError Instr :=
  assigned (true) (.fnmsub fk fc fb fa fd) <|
  .error .selector

/-- Major 1.05: FCVT. -/
def decode1x05 (fk : BitVec 4) (fc fb fa fd : Reg) : Except DecodeError Instr :=
  assigned (fc &&& 16 == 0) (.fcvt fk (fc.extractLsb' 0 4) fb fa fd) <|
  .error .selector

/-- Major 1.06: FTOG FTOGH GTOF SPLAT SHUF. -/
def decode1x06 (fk : BitVec 4) (fc fb fa fd : Reg) : Except DecodeError Instr :=
  assigned (fk == 0 && fc == 0 && fb == 0) (.ftog fa fd) <|
  assigned (fk == 1 && fc == 0 && fb == 0) (.ftogh fa fd) <|
  assigned (fk == 2 && fc == 0) (.gtof fb fa fd) <|
  assigned (fk == 3 && fc &&& 16 == 0 && fb == 0) (.splat (fc.extractLsb' 0 4) fa fd) <|
  assigned (fk == 4 && fc &&& 16 == 0) (.shuf (fc.extractLsb' 0 4) fb fa fd) <|
  .error .selector

/-- Major 1.07: FLQ. -/
def decode1x07 (fk : BitVec 4) (fc fb fa fd : Reg) : Except DecodeError Instr :=
  assigned (true) (.flq (fk ++ fc ++ fb) fa fd) <|
  .error .selector

/-- Major 1.08: FSQ. -/
def decode1x08 (fk : BitVec 4) (fc fb fa fd : Reg) : Except DecodeError Instr :=
  assigned (true) (.fsq (fk ++ fc ++ fd) fb fa) <|
  .error .selector

/-- Major 1.0B: QADD QSUB QMUL QSHR QSAT QRNG QABS. -/
def decode1x0B (fk : BitVec 4) (fc fb fa fd : Reg) : Except DecodeError Instr :=
  assigned (fc == 0) (.qadd fk fb fa fd) <|
  assigned (fc == 1) (.qsub fk fb fa fd) <|
  assigned (fc == 2) (.qmul fk fb fa fd) <|
  assigned (fc == 3) (.qshr fk fb fa fd) <|
  assigned (fk == 9 && fc == 4 && fb == 0) (.qsat fa fd) <|
  assigned (fc == 5 && fb == 0) (.qrng fk fa fd) <|
  assigned (fc == 6 && fb == 0) (.qabs fk fa fd) <|
  .error .selector

/-- Major 1.0C: RSADD RSSUB RSMUL RSDIV RSNEG RSREC RSSQR RSSQRT RSUNI RSINT RSFROM RSLO RSHI RSPACK RSUNPK RSEMP RSLDT RSLDG. -/
def decode1x0C (fk : BitVec 4) (fc fb fa fd : Reg) : Except DecodeError Instr :=
  assigned (fk &&& 14 == 0 && fc == 0) (.rsadd (fk.extractLsb' 0 1) fb fa fd) <|
  assigned (fk &&& 14 == 0 && fc == 1) (.rssub (fk.extractLsb' 0 1) fb fa fd) <|
  assigned (fk &&& 14 == 0 && fc == 2) (.rsmul (fk.extractLsb' 0 1) fb fa fd) <|
  assigned (fk &&& 14 == 0 && fc == 3) (.rsdiv (fk.extractLsb' 0 1) fb fa fd) <|
  assigned (fk &&& 14 == 0 && fc == 4 && fb == 0) (.rsneg (fk.extractLsb' 0 1) fa fd) <|
  assigned (fk &&& 14 == 0 && fc == 5 && fb == 0) (.rsrec (fk.extractLsb' 0 1) fa fd) <|
  assigned (fk &&& 14 == 0 && fc == 6 && fb == 0) (.rssqr (fk.extractLsb' 0 1) fa fd) <|
  assigned (fk &&& 14 == 0 && fc == 7 && fb == 0) (.rssqrt (fk.extractLsb' 0 1) fa fd) <|
  assigned (fk &&& 14 == 0 && fc == 8) (.rsuni (fk.extractLsb' 0 1) fb fa fd) <|
  assigned (fk &&& 14 == 0 && fc == 9) (.rsint (fk.extractLsb' 0 1) fb fa fd) <|
  assigned (fk &&& 14 == 0 && fc == 10) (.rsfrom (fk.extractLsb' 0 1) fb fa fd) <|
  assigned (fk &&& 14 == 0 && fc == 11 && fb == 0) (.rslo (fk.extractLsb' 0 1) fa fd) <|
  assigned (fk &&& 14 == 0 && fc == 12 && fb == 0) (.rshi (fk.extractLsb' 0 1) fa fd) <|
  assigned (fk == 0 && fc == 13) (.rspack fb fa fd) <|
  assigned (fk == 0 && fc == 14) (.rsunpk fb fa fd) <|
  assigned (fk &&& 14 == 0 && fc == 15 && fb == 0) (.rsemp (fk.extractLsb' 0 1) fa fd) <|
  assigned (fk == 0 && fc == 16 && fb == 0 && fd == 0) (.rsldt fa) <|
  assigned (fk == 0 && fc == 17 && fb == 0 && fd == 0) (.rsldg fa) <|
  .error .selector

/-- Major 1.0D: FEXP2 FLOG2 FRCP FRSQ FSINPI FCOSPI FTANH FERF FSIGM. -/
def decode1x0D (fk : BitVec 4) (fc fb fa fd : Reg) : Except DecodeError Instr :=
  assigned (fc == 0 && fb == 0) (.fexp2 fk fa fd) <|
  assigned (fc == 1 && fb == 0) (.flog2 fk fa fd) <|
  assigned (fc == 2 && fb == 0) (.frcp fk fa fd) <|
  assigned (fc == 3 && fb == 0) (.frsq fk fa fd) <|
  assigned (fc == 4 && fb == 0) (.fsinpi fk fa fd) <|
  assigned (fc == 5 && fb == 0) (.fcospi fk fa fd) <|
  assigned (fc == 6 && fb == 0) (.ftanh fk fa fd) <|
  assigned (fc == 7 && fb == 0) (.ferf fk fa fd) <|
  assigned (fc == 8 && fb == 0) (.fsigm fk fa fd) <|
  .error .selector

/-- Major 1.10: SBOUND SSTRIDE SBASE SEN SDIS SDRAIN SSTAT. -/
def decode1x10 (fk : BitVec 4) (fc fb fa fd : Reg) : Except DecodeError Instr :=
  assigned (fk == 0 && fb == 0 && fd == 0) (.sbound (fc.extractLsb' 2 3) (fc.extractLsb' 0 2) fa) <|
  assigned (fk == 1 && fb == 0 && fd == 0) (.sstride (fc.extractLsb' 2 3) (fc.extractLsb' 0 2) fa) <|
  assigned (fk == 2 && fc &&& 3 == 0 && fb == 0 && fd == 0) (.sbase (fc.extractLsb' 2 3) fa) <|
  assigned (fk == 3 && fc &&& 3 == 0 && fb == 0) (.sen (fc.extractLsb' 2 3) fa fd) <|
  assigned (fk == 4 && fc &&& 3 == 0 && fb == 0 && fa == 0 && fd == 0) (.sdis (fc.extractLsb' 2 3)) <|
  assigned (fk == 5 && fc &&& 3 == 0 && fb == 0 && fa == 0) (.sdrain (fc.extractLsb' 2 3) fd) <|
  assigned (fk == 6 && fc &&& 3 == 0 && fb == 0 && fa == 0) (.sstat (fc.extractLsb' 2 3) fd) <|
  .error .selector

/-- Major 1.11: SEQ. -/
def decode1x11 (fk : BitVec 4) (fc fb fa fd : Reg) : Except DecodeError Instr :=
  assigned (fk == 0 && fc == 0 && fb == 0) (.seq fa fd) <|
  .error .selector

/-- Major 1.12: QWG QWF QRG QRF QCNT. -/
def decode1x12 (fk : BitVec 4) (fc fb fa fd : Reg) : Except DecodeError Instr :=
  assigned (fk == 0 && fd == 0) (.qwg fc fb fa) <|
  assigned (fk == 1 && fb == 0 && fd == 0) (.qwf fc fa) <|
  assigned (fk == 2 && fb == 0 && fa == 0) (.qrg fc fd) <|
  assigned (fk == 3 && fb == 0 && fa == 0) (.qrf fc fd) <|
  assigned (fk == 4 && fb == 0 && fa == 0) (.qcnt fc fd) <|
  .error .selector

/-- Major 2.01: MLDB. -/
def decode2x01 (fk : BitVec 4) (fc fb fa fd : Reg) : Except DecodeError Instr :=
  assigned (fd &&& 24 == 0) (.mldb fk fc fb fa (fd.extractLsb' 0 3)) <|
  .error .selector

/-- Major 2.02: MZERO MRD MSTAT. -/
def decode2x02 (fk : BitVec 4) (fc fb fa fd : Reg) : Except DecodeError Instr :=
  assigned (fk == 0 && fb == 0 && fa == 0 && fd &&& 28 == 0) (.mzero fc (fd.extractLsb' 0 2)) <|
  assigned (fk == 1 && fd &&& 28 == 0) (.mrd fc fb fa (fd.extractLsb' 0 2)) <|
  assigned (fk == 2 && fc == 0 && fb == 0) (.mstat fa fd) <|
  .error .selector

/-- Major 2.04: EWAIT EFENCE ECANCEL. -/
def decode2x04 (fk : BitVec 4) (fc fb fa fd : Reg) : Except DecodeError Instr :=
  assigned (fk == 0 && fc == 0 && fb == 0) (.ewait fa fd) <|
  assigned (fk == 1 && fb == 0 && fa == 0 && fd == 0) (.efence fc) <|
  assigned (fk == 2 && fc == 0 && fb == 0) (.ecancel fa fd) <|
  .error .selector

/-- Major 2.08: REED_ARR REED_WAIT REED_SYNC REED_QRY. -/
def decode2x08 (fk : BitVec 4) (fc fb fa fd : Reg) : Except DecodeError Instr :=
  assigned (fk == 0 && fc == 0 && fb == 0) (.reedArr fa fd) <|
  assigned (fk == 1 && fc == 0) (.reedWait fb fa fd) <|
  assigned (fk == 2 && fc == 0 && fb == 0) (.reedSync fa fd) <|
  assigned (fk == 3 && fc &&& 28 == 0 && fb == 0) (.reedQry (fc.extractLsb' 0 2) fa fd) <|
  .error .selector

/-- Major 2.09: LDE LDF STF STE TAGI TAGR. -/
def decode2x09 (fk : BitVec 4) (fc fb fa fd : Reg) : Except DecodeError Instr :=
  assigned (fk == 0 && fc &&& 3 == 0 && fb == 0) (.lde (fc.extractLsb' 2 3) fa fd) <|
  assigned (fk == 1 && fc &&& 3 == 0 && fb == 0) (.ldf (fc.extractLsb' 2 3) fa fd) <|
  assigned (fk == 2 && fc &&& 3 == 0 && fd == 0) (.stf (fc.extractLsb' 2 3) fb fa) <|
  assigned (fk == 3 && fc &&& 3 == 0 && fd == 0) (.ste (fc.extractLsb' 2 3) fb fa) <|
  assigned (fk == 4 && fc &&& 3 == 0 && fb == 0 && fd &&& 30 == 0) (.tagi (fc.extractLsb' 2 3) fa (fd.extractLsb' 0 1)) <|
  assigned (fk == 5 && fc &&& 3 == 0 && fb == 0) (.tagr (fc.extractLsb' 2 3) fa fd) <|
  .error .selector

/-- Major 2.0A: BBINIT BBRES BBCOM BBACQ BBREL BBQRY. -/
def decode2x0A (fk : BitVec 4) (fc fb fa fd : Reg) : Except DecodeError Instr :=
  assigned (fk == 0 && fc == 0) (.bbinit fb fa fd) <|
  assigned (fk == 1 && fc == 0 && fb == 0) (.bbres fa fd) <|
  assigned (fk == 2 && fc == 0) (.bbcom fb fa fd) <|
  assigned (fk == 3 && fc == 0 && fb == 0) (.bbacq fa fd) <|
  assigned (fk == 4 && fc == 0) (.bbrel fb fa fd) <|
  assigned (fk == 5 && fc == 0 && fb == 0) (.bbqry fa fd) <|
  .error .selector

/-- Major 2.0B: MSND MRCV MPOLL. -/
def decode2x0B (fk : BitVec 4) (fc fb fa fd : Reg) : Except DecodeError Instr :=
  assigned (fk == 0 && fc == 0) (.msnd fb fa fd) <|
  assigned (fk == 1 && fc == 0 && fb == 0 && fa == 0) (.mrcv fd) <|
  assigned (fk == 2 && fc == 0 && fb == 0 && fa == 0) (.mpoll fd) <|
  .error .selector

/-- Major 2.10: SKW. -/
def decode2x10 (fk : BitVec 4) (fc fb fa fd : Reg) : Except DecodeError Instr :=
  assigned (fk == 0) (.skw fc fb fa fd) <|
  .error .selector

/-- Major 2.11: SKR. -/
def decode2x11 (fk : BitVec 4) (fc fb fa fd : Reg) : Except DecodeError Instr :=
  assigned (fk == 0) (.skr fc fb fa fd) <|
  .error .selector

/-- Major 2.12: SKRE. -/
def decode2x12 (fk : BitVec 4) (fc fb fa fd : Reg) : Except DecodeError Instr :=
  assigned (fk == 0) (.skre fc fb fa fd) <|
  .error .selector

/-- Major 2.13: SKBIND SKFLR SKQRY SKUNB. -/
def decode2x13 (fk : BitVec 4) (fc fb fa fd : Reg) : Except DecodeError Instr :=
  assigned (fk == 0 && fc == 0) (.skbind fb fa fd) <|
  assigned (fk == 1 && fc == 0) (.skflr fb fa fd) <|
  assigned (fk == 2 && fb == 0) (.skqry fc fa fd) <|
  assigned (fk == 3 && fc == 0) (.skunb fb fa fd) <|
  .error .selector

/-- Major 2.18: SHTL. -/
def decode2x18 (fk : BitVec 4) (fc fb fa fd : Reg) : Except DecodeError Instr :=
  assigned (fk &&& 14 == 0 && fc &&& 3 == 0 && fb == 0) (.shtl (fk.extractLsb' 0 1) (fc.extractLsb' 2 3) fa fd) <|
  .error .selector

/-- Major 2.19: MCST PUBV SUBV ARED SHTR. -/
def decode2x19 (fk : BitVec 4) (fc fb fa fd : Reg) : Except DecodeError Instr :=
  assigned (fk == 0 && fc == 0) (.mcst fb fa fd) <|
  assigned (fk == 1 && fc == 0) (.pubv fb fa fd) <|
  assigned (fk == 2 && fb == 0) (.subv fc fa fd) <|
  assigned (fk == 3 && fc &&& 3 == 0) (.ared (fc.extractLsb' 2 3) fb fa fd) <|
  assigned (fk == 4 && fc == 0 && fb == 0) (.shtr fa fd) <|
  .error .selector

/-- Major 2.1A: LREQ LREL LQRY. -/
def decode2x1A (fk : BitVec 4) (fc fb fa fd : Reg) : Except DecodeError Instr :=
  assigned (fk == 0 && fc == 0 && fb == 0) (.lreq fa fd) <|
  assigned (fk == 1 && fc == 0) (.lrel fb fa fd) <|
  assigned (fk == 2 && fb == 0) (.lqry fc fa fd) <|
  .error .selector

/-- Major 3.00: CSRR. -/
def decode3x00 (fk : BitVec 4) (fc fb fa fd : Reg) : Except DecodeError Instr :=
  assigned (fk &&& 12 == 0 && fa == 0) (.csrr ((fk.extractLsb' 0 2) ++ fc ++ fb) fd) <|
  .error .selector

/-- Major 3.01: CSRW. -/
def decode3x01 (fk : BitVec 4) (fc fb fa fd : Reg) : Except DecodeError Instr :=
  assigned (fk &&& 12 == 0) (.csrw ((fk.extractLsb' 0 2) ++ fc ++ fb) fa fd) <|
  .error .selector

/-- Major 3.02: CSRS. -/
def decode3x02 (fk : BitVec 4) (fc fb fa fd : Reg) : Except DecodeError Instr :=
  assigned (fk &&& 12 == 0) (.csrs ((fk.extractLsb' 0 2) ++ fc ++ fb) fa fd) <|
  .error .selector

/-- Major 3.03: CSRC. -/
def decode3x03 (fk : BitVec 4) (fc fb fa fd : Reg) : Except DecodeError Instr :=
  assigned (fk &&& 12 == 0) (.csrc ((fk.extractLsb' 0 2) ++ fc ++ fb) fa fd) <|
  .error .selector

/-- Major 3.04: TRAP ERET KILL YIELD SLEEP WAKE KEXIT. -/
def decode3x04 (fk : BitVec 4) (fc fb fa fd : Reg) : Except DecodeError Instr :=
  assigned (fk == 0 && fc == 0 && fb == 0 && fd == 0) (.trap fa) <|
  assigned (fk == 1 && fc == 0 && fb == 0 && fa == 0 && fd == 0) (.eret) <|
  assigned (fk == 2 && fc == 0 && fb == 0 && fa == 0 && fd == 0) (.kill) <|
  assigned (fk == 3 && fc == 0 && fb == 0 && fa == 0 && fd == 0) (.yield) <|
  assigned (fk == 4 && fc == 0 && fb == 0) (.sleep fa fd) <|
  assigned (fk == 5 && fc == 0 && fb == 0) (.wake fa fd) <|
  assigned (fk == 6 && fc == 0 && fb == 0 && fa == 0 && fd == 0) (.kexit) <|
  .error .selector

/-- Major 3.05: TWIN UNTWIN FOLLOW DETACH JOIN CHK. -/
def decode3x05 (fk : BitVec 4) (fc fb fa fd : Reg) : Except DecodeError Instr :=
  assigned (fk == 0 && fc == 0 && fb == 0 && fa == 0) (.twin fd) <|
  assigned (fk == 1 && fc == 0 && fb == 0 && fa == 0) (.untwin fd) <|
  assigned (fk == 2 && fc == 0 && fb == 0 && fa == 0) (.follow fd) <|
  assigned (fk == 3 && fc == 0 && fb == 0 && fa == 0) (.detach fd) <|
  assigned (fk == 4 && fc == 0 && fb == 0 && fa == 0) (.join fd) <|
  assigned (fk == 5 && fc == 0 && fb == 0 && fa == 0) (.chk fd) <|
  .error .selector

/-- Major 3.06: NEST. -/
def decode3x06 (fk : BitVec 4) (fc fb fa fd : Reg) : Except DecodeError Instr :=
  assigned (fk == 0 && fc == 0 && fb == 0) (.nest fa fd) <|
  .error .selector

/-- Major 3.07: ITER. -/
def decode3x07 (fk : BitVec 4) (fc fb fa fd : Reg) : Except DecodeError Instr :=
  assigned (fb == 0) (.iter (fk ++ fc ++ fd) fa) <|
  .error .selector

/-- Major 3.08: RDCYC RDTIM RDSTEP. -/
def decode3x08 (fk : BitVec 4) (fc fb fa fd : Reg) : Except DecodeError Instr :=
  assigned (fk == 0 && fc == 0 && fb == 0 && fa == 0) (.rdcyc fd) <|
  assigned (fk == 1 && fc == 0 && fb == 0 && fa == 0) (.rdtim fd) <|
  assigned (fk == 2 && fb == 0) (.rdstep fc fa fd) <|
  .error .selector

/-- Major 3.09: LAUNCH. -/
def decode3x09 (fk : BitVec 4) (fc fb fa fd : Reg) : Except DecodeError Instr :=
  assigned (fk == 0 && fc == 0) (.launch fb fa fd) <|
  .error .selector

/-- Major 3.0A: TOKW TOKS TOKQ TOKE. -/
def decode3x0A (fk : BitVec 4) (fc fb fa fd : Reg) : Except DecodeError Instr :=
  assigned (fk == 0 && fc == 0 && fb == 0) (.tokw fa fd) <|
  assigned (fk == 1 && fc == 0) (.toks fb fa fd) <|
  assigned (fk == 2 && fc == 0 && fb == 0) (.tokq fa fd) <|
  assigned (fk == 3 && fc == 0 && fb == 0) (.toke fa fd) <|
  .error .selector

/-- Major 3.0B: SEGR SEGW SEGN. -/
def decode3x0B (fk : BitVec 4) (fc fb fa fd : Reg) : Except DecodeError Instr :=
  assigned (fk == 0 && fb == 0 && fa == 0) (.segr (fc.extractLsb' 2 3) (fc.extractLsb' 0 2) fd) <|
  assigned (fk == 1 && fb == 0) (.segw (fc.extractLsb' 2 3) (fc.extractLsb' 0 2) fa fd) <|
  assigned (fk == 2 && fc &&& 3 == 0) (.segn (fc.extractLsb' 2 3) fb fa fd) <|
  .error .selector

/-- Major 3.0C: SPLK SPUL. -/
def decode3x0C (fk : BitVec 4) (fc fb fa fd : Reg) : Except DecodeError Instr :=
  assigned (fk == 0 && fc == 0) (.splk fb fa fd) <|
  assigned (fk == 1 && fc == 0 && fb == 0) (.spul fa fd) <|
  .error .selector

/-- Major 3.0D: PINV PPROBE. -/
def decode3x0D (fk : BitVec 4) (fc fb fa fd : Reg) : Except DecodeError Instr :=
  assigned (fk == 0 && fc == 0) (.pinv fb fa fd) <|
  assigned (fk == 1 && fc == 0 && fb == 0) (.pprobe fa fd) <|
  .error .selector

/-- Major 3.0E: MIGR CTXHALT CTXSAVE CTXREST. -/
def decode3x0E (fk : BitVec 4) (fc fb fa fd : Reg) : Except DecodeError Instr :=
  assigned (fk == 0 && fc == 0) (.migr fb fa fd) <|
  assigned (fk == 1 && fc == 0) (.ctxhalt fb fa fd) <|
  assigned (fk == 2 && fc == 0) (.ctxsave fb fa fd) <|
  assigned (fk == 3 && fc == 0) (.ctxrest fb fa fd) <|
  .error .selector

/-- Major 2.00 MJOB with its parameter words (R27, R37). -/
def decode2x00 (fk : BitVec 4) (fc fb fa fd : Reg) (p0 p1 p2 p3 : W32) : Except DecodeError Instr :=
  assigned (fk == 0 && fc == 0 && fb == 0 && fd &&& 12 == 0)
    (.mjobAcc (fd.extractLsb' 4 1) (fd.extractLsb' 0 2) fa p0 p1 p2 p3) <|
  assigned (fk == 1 && fc == 0 && fb == 0 && fd &&& 12 == 0)
    (.mjobOvr (fd.extractLsb' 4 1) (fd.extractLsb' 0 2) fa p0 p1 p2 p3) <|
  .error .selector

/-- Major 2.03 CPY with its parameter words (R27, R37, R187). -/
def decode2x03 (fk : BitVec 4) (fc fb fa fd : Reg) (p0 p1 p2 p3 : W32) : Except DecodeError Instr :=
  assigned (fk &&& 14 == 0 && fc == 0) (.cpyMem (fk.extractLsb' 0 1) fb fa fd p0 p1 p2 p3) <|
  assigned (fk &&& 14 == 4 && fc == 0) (.cpyBob (fk.extractLsb' 0 1) fb fa fd p0 p1 p2 p3) <|
  assigned (fk &&& 14 == 8 && fc == 0) (.cpyCim (fk.extractLsb' 0 1) fb fa fd p0 p1 p2 p3) <|
  .error .selector

/-- The opcode map (R34-R38): the assigned majors by low byte. -/
def decodeFields (fk : BitVec 4) (fc fb fa fd : Reg) (op : Byte) (p0 p1 p2 p3 : W32) : Except DecodeError Instr :=
  match op.toNat with
  | 0 => decode0x00 fk fc fb fa fd
  | 1 => decode1x00 fk fc fb fa fd
  | 2 => decode2x00 fk fc fb fa fd p0 p1 p2 p3
  | 3 => decode3x00 fk fc fb fa fd
  | 4 => decode0x01 fk fc fb fa fd
  | 5 => decode1x01 fk fc fb fa fd
  | 6 => decode2x01 fk fc fb fa fd
  | 7 => decode3x01 fk fc fb fa fd
  | 8 => decode0x02 fk fc fb fa fd
  | 9 => decode1x02 fk fc fb fa fd
  | 10 => decode2x02 fk fc fb fa fd
  | 11 => decode3x02 fk fc fb fa fd
  | 12 => decode0x03 fk fc fb fa fd
  | 13 => decode1x03 fk fc fb fa fd
  | 14 => decode2x03 fk fc fb fa fd p0 p1 p2 p3
  | 15 => decode3x03 fk fc fb fa fd
  | 16 => decode0x04 fk fc fb fa fd
  | 17 => decode1x04 fk fc fb fa fd
  | 18 => decode2x04 fk fc fb fa fd
  | 19 => decode3x04 fk fc fb fa fd
  | 21 => decode1x05 fk fc fb fa fd
  | 23 => decode3x05 fk fc fb fa fd
  | 25 => decode1x06 fk fc fb fa fd
  | 27 => decode3x06 fk fc fb fa fd
  | 29 => decode1x07 fk fc fb fa fd
  | 31 => decode3x07 fk fc fb fa fd
  | 32 => decode0x08 fk fc fb fa fd
  | 33 => decode1x08 fk fc fb fa fd
  | 34 => decode2x08 fk fc fb fa fd
  | 35 => decode3x08 fk fc fb fa fd
  | 36 => decode0x09 fk fc fb fa fd
  | 38 => decode2x09 fk fc fb fa fd
  | 39 => decode3x09 fk fc fb fa fd
  | 40 => decode0x0A fk fc fb fa fd
  | 42 => decode2x0A fk fc fb fa fd
  | 43 => decode3x0A fk fc fb fa fd
  | 44 => decode0x0B fk fc fb fa fd
  | 45 => decode1x0B fk fc fb fa fd
  | 46 => decode2x0B fk fc fb fa fd
  | 47 => decode3x0B fk fc fb fa fd
  | 48 => decode0x0C fk fc fb fa fd
  | 49 => decode1x0C fk fc fb fa fd
  | 51 => decode3x0C fk fc fb fa fd
  | 52 => decode0x0D fk fc fb fa fd
  | 53 => decode1x0D fk fc fb fa fd
  | 55 => decode3x0D fk fc fb fa fd
  | 56 => decode0x0E fk fc fb fa fd
  | 59 => decode3x0E fk fc fb fa fd
  | 60 => decode0x0F fk fc fb fa fd
  | 64 => decode0x10 fk fc fb fa fd
  | 65 => decode1x10 fk fc fb fa fd
  | 66 => decode2x10 fk fc fb fa fd
  | 68 => decode0x11 fk fc fb fa fd
  | 69 => decode1x11 fk fc fb fa fd
  | 70 => decode2x11 fk fc fb fa fd
  | 72 => decode0x12 fk fc fb fa fd
  | 73 => decode1x12 fk fc fb fa fd
  | 74 => decode2x12 fk fc fb fa fd
  | 78 => decode2x13 fk fc fb fa fd
  | 80 => decode0x14 fk fc fb fa fd
  | 84 => decode0x15 fk fc fb fa fd
  | 88 => decode0x16 fk fc fb fa fd
  | 92 => decode0x17 fk fc fb fa fd
  | 96 => decode0x18 fk fc fb fa fd
  | 98 => decode2x18 fk fc fb fa fd
  | 100 => decode0x19 fk fc fb fa fd
  | 102 => decode2x19 fk fc fb fa fd
  | 104 => decode0x1A fk fc fb fa fd
  | 106 => decode2x1A fk fc fb fa fd
  | 108 => decode0x1B fk fc fb fa fd
  | 128 => decode0x20 fk fc fb fa fd
  | 132 => decode0x21 fk fc fb fa fd
  | 136 => decode0x22 fk fc fb fa fd
  | 140 => decode0x23 fk fc fb fa fd
  | 144 => decode0x24 fk fc fb fa fd
  | 148 => decode0x25 fk fc fb fa fd
  | 152 => decode0x26 fk fc fb fa fd
  | 156 => decode0x27 fk fc fb fa fd
  | 160 => decode0x28 fk fc fb fa fd
  | 164 => decode0x29 fk fc fb fa fd
  | 192 => decode0x30 fk fc fb fa fd
  | 196 => decode0x31 fk fc fb fa fd
  | 200 => decode0x32 fk fc fb fa fd
  | 204 => decode0x33 fk fc fb fa fd
  | 208 => decode0x34 fk fc fb fa fd
  | 212 => decode0x35 fk fc fb fa fd
  | 216 => decode0x36 fk fc fb fa fd
  | 224 => decode0x38 fk fc fb fa fd
  | 228 => decode0x39 fk fc fb fa fd
  | 232 => decode0x3A fk fc fb fa fd
  | 236 => decode0x3B fk fc fb fa fd
  | 240 => decode0x3C fk fc fb fa fd
  | 244 => decode0x3D fk fc fb fa fd
  | 248 => decode0x3E fk fc fb fa fd
  | 252 => decode0x3F fk fc fb fa fd
  | _ => .error .major

/-- The instruction of a word, with the four parameter words that follow it if it is an RP word (R27). -/
def decodeWord (w p0 p1 p2 p3 : W32) : Except DecodeError Instr :=
  decodeFields (fieldK w) (fieldC w) (fieldB w) (fieldA w) (fieldD w) (fieldOp w) p0 p1 p2 p3

/-- The RP words, which four parameter words follow (R27): majors 2.00 and 2.03. -/
def isBlockWord (w : W32) : Bool := fieldOp w == 0x02 || fieldOp w == 0x0E

/-- A little-endian word (R1). -/
def wordOfBytes (b0 b1 b2 b3 : Byte) : W32 := b3 ++ b2 ++ b1 ++ b0

/-- The bytes of a word, little-endian (R1). -/
def bytesOfWord (w : W32) : List Byte :=
  [w.extractLsb' 0 8, w.extractLsb' 8 8, w.extractLsb' 16 8, w.extractLsb' 24 8]

/-- The words of a list of bytes; bytes short of a word are dropped. -/
def wordsOfBytes : List Byte → List W32
  | b0 :: b1 :: b2 :: b3 :: rest => wordOfBytes b0 b1 b2 b3 :: wordsOfBytes rest
  | _ => []

/-- The decoder on memory bytes: the instruction at their start and the words after it. -/
def decode (bytes : List Byte) : Except DecodeError (Instr × List W32) :=
  match wordsOfBytes bytes with
  | [] => .error .truncated
  | w :: rest =>
    if isBlockWord w then
      match rest with
      | p0 :: p1 :: p2 :: p3 :: rest' => (decodeWord w p0 p1 p2 p3).map (fun i => (i, rest'))
      | _ => .error .truncated
    else (decodeWord w 0 0 0 0).map (fun i => (i, rest))

/-- The instruction read from the `nbits` bits of `w`, the bits above them zero (the longest instruction has 20 bytes). -/
def decodeTableWord (nbits w : Nat) : Option Instr :=
  match decode ((List.range 20).map (fun j => if 8 * j < nbits then BitVec.ofNat 8 (w >>> (8 * j)) else 0)) with
  | .ok (i, _) => some i
  | .error _ => none

/-- The words of an instruction (R23, R26, R27); a device event has none. -/
def encode (i : Instr) : List W32 :=
  match i with
  | .mreqWrite _ _ => []
  | .powerComparison _ => []
  | .relockEnd _ => []
  | .instructionComplete _ _ => []
  | .parkWake _ _ => []
  | .waitLimitExpiry _ _ => []
  | .sleepTimeout _ _ => []
  | .handlerStart _ => []
  | .scrubComplete _ _ => []
  | .lockTimeout _ _ => []
  | .hevecWrite _ _ => []
  | .cpartWrite _ _ => []
  | .followerWaitExpiry _ _ => []
  | .seqEntryIssue _ _ => []
  | .seqEntryComplete _ _ => []
  | .streamPrefetch _ _ _ _ => []
  | .sfuAccept _ => []
  | .sfuResult _ => []
  | .normaliserService _ => []
  | .matrixEntryStart _ _ => []
  | .jobStepIssue _ _ => []
  | .jobPromotion _ _ => []
  | .enginePause _ _ _ => []
  | .engineResume _ _ _ => []
  | .mldbEnd _ _ => []
  | .mzeroEnd _ _ => []
  | .mrdEnd _ _ => []
  | .copyRow _ _ _ => []
  | .copyEnd _ _ => []
  | .storeAccept _ _ => []
  | .remoteReplyArrival _ _ _ => []
  | .tileAccessMessage _ _ => []
  | .homeAtomic _ _ => []
  | .writebackMerge _ _ => []
  | .stagingEviction _ _ => []
  | .l2effSample _ _ _ => []
  | .scrubUnit _ _ _ _ _ => []
  | .reedArrivalMessage _ => []
  | .tagMessage _ _ => []
  | .tagRequestRetry _ _ => []
  | .inboxDelivery _ _ _ => []
  | .weftRequest _ _ => []
  | .causalityWalk _ => []
  | .qcfgOpen _ _ _ => []
  | .qcfgClose _ _ _ => []
  | .qcfgDrain _ _ _ => []
  | .qcfgThaw _ _ _ => []
  | .qcfgPurge _ _ _ => []
  | .qcntClear _ _ _ => []
  | .enqueueWindowWrite _ _ _ _ => []
  | .dispatchDecision => []
  | .rankBind _ => []
  | .kernelReleaseEnd _ _ => []
  | .watchdogExpiry _ _ => []
  | .tokenHostWrite _ _ _ => []
  | .partitionOpen _ => []
  | .partitionClose _ => []
  | .haltComplete _ => []
  | .shadowTransferEnd _ _ => []
  | .spillEnd _ _ => []
  | .restoreEnd _ _ _ => []
  | .migrationEnd _ => []
  | .tableWalkEnd _ _ _ _ _ => []
  | .pgwakeWake _ _ => []
  | .pgwakeRefuse _ _ => []
  | .evpop _ => []
  | .pgpop _ => []
  | .evstatClear _ _ => []
  | .atsResponse _ _ => []
  | .atsInvalidation _ _ => []
  | .leaseGrant _ _ _ _ _ _ => []
  | .leaseDeny _ _ => []
  | .leaseReclaim _ _ => []
  | .leaseTermEnd _ _ => []
  | .reclaimGranuleCopy _ _ _ _ => []
  | .leaseAck _ _ => []
  | .reclaimDeadline _ _ => []
  | .portcEnable _ => []
  | .portcFence _ => []
  | .portcDisable _ => []
  | .trainingComplete _ _ => []
  | .trainingTimeout _ => []
  | .linkError _ => []
  | .retrainComplete _ => []
  | .retrainTimeout _ => []
  | .partnerLost _ => []
  | .peerRequest _ _ _ _ => []
  | .peerAck _ _ _ _ _ => []
  | .remoteAccessTimeout _ _ => []
  | .countedReleaseTimeout _ => []
  | .countedReleasePerform _ => []
  | .mcstCopyWrite _ _ _ _ _ _ => []
  | .staleNotice _ _ _ => []
  | .aredPhaseComplete _ _ _ _ => []
  | .shuttleArrival _ _ _ _ => []
  | .shuttleReplyArrival _ _ _ _ _ _ => []
  | .replyHoldTimeout _ => []
  | .shuttleRefusal _ _ _ _ _ => []
  | .bar2Write _ _ _ => []
  | .bar2Read _ _ _ => []
  | .bar2Atomic _ _ _ _ _ _ => []
  | .mailboxMessage _ _ => []
  | .imageSubmit _ _ => []
  | .attestRequest _ _ => []
  | .packageReset _ _ _ _ => []
  | .l2Recovery _ _ => []
  | .fatalError _ => []
  | .dumpWrite => []
  | .dumpTimeout => []
  | .escalKillServed _ => []
  | .escalKillAll _ => []
  | .thermtrip _ => []
  | .smbusReadTelemetry _ _ => []
  | .smbusReadStage => []
  | .smbusSetPowerLimit _ => []
  | .registerWrite _ _ => []
  | .add w b a d => [packWord (0#3 ++ w) 0#5 b a d 0]
  | .sub w b a d => [packWord (0#3 ++ w) 1#5 b a d 0]
  | .and w b a d => [packWord (0#3 ++ w) 2#5 b a d 0]
  | .or w b a d => [packWord (0#3 ++ w) 3#5 b a d 0]
  | .xor w b a d => [packWord (0#3 ++ w) 4#5 b a d 0]
  | .andn w b a d => [packWord (0#3 ++ w) 5#5 b a d 0]
  | .orn w b a d => [packWord (0#3 ++ w) 6#5 b a d 0]
  | .xnor w b a d => [packWord (0#3 ++ w) 7#5 b a d 0]
  | .shl w b a d => [packWord (0#3 ++ w) 8#5 b a d 0]
  | .shr w b a d => [packWord (0#3 ++ w) 9#5 b a d 0]
  | .shra w b a d => [packWord (0#3 ++ w) 10#5 b a d 0]
  | .rol w b a d => [packWord (0#3 ++ w) 11#5 b a d 0]
  | .ror w b a d => [packWord (0#3 ++ w) 12#5 b a d 0]
  | .slt w b a d => [packWord (0#3 ++ w) 13#5 b a d 0]
  | .sltu w b a d => [packWord (0#3 ++ w) 14#5 b a d 0]
  | .min w b a d => [packWord (0#3 ++ w) 15#5 b a d 0]
  | .max w b a d => [packWord (0#3 ++ w) 16#5 b a d 0]
  | .minu w b a d => [packWord (0#3 ++ w) 17#5 b a d 0]
  | .maxu w b a d => [packWord (0#3 ++ w) 18#5 b a d 0]
  | .mul w b a d => [packWord (0#3 ++ w) 19#5 b a d 0]
  | .hmul w b a d => [packWord (0#3 ++ w) 20#5 b a d 0]
  | .hmulu w b a d => [packWord (0#3 ++ w) 21#5 b a d 0]
  | .hmulm w b a d => [packWord (0#3 ++ w) 22#5 b a d 0]
  | .div w b a d => [packWord (0#3 ++ w) 23#5 b a d 0]
  | .divu w b a d => [packWord (0#3 ++ w) 24#5 b a d 0]
  | .rem w b a d => [packWord (0#3 ++ w) 25#5 b a d 0]
  | .remu w b a d => [packWord (0#3 ++ w) 26#5 b a d 0]
  | .clz w a d => [packWord (0#3 ++ w) 27#5 0#5 a d 0]
  | .ctz w a d => [packWord (0#3 ++ w) 28#5 0#5 a d 0]
  | .popc w a d => [packWord (0#3 ++ w) 29#5 0#5 a d 0]
  | .brev w a d => [packWord (0#3 ++ w) 30#5 0#5 a d 0]
  | .bswap w a d => [packWord (0#3 ++ w) 31#5 0#5 a d 0]
  | .sext w a d => [packWord (0#2 ++ w) 0#5 0#5 a d 4]
  | .zext w a d => [packWord (0#2 ++ w) 1#5 0#5 a d 4]
  | .bfx w b a d => [packWord (0#2 ++ w) 2#5 b a d 4]
  | .bfi w b a d => [packWord (0#2 ++ w) 3#5 b a d 4]
  | .csel c b a d => [packWord 0#4 c b a d 8]
  | .madd w c b a d => [packWord (0#3 ++ w) c b a d 12]
  | .msub w c b a d => [packWord (0#3 ++ w) c b a d 16]
  | .addi i a d => [packWord (i.extractLsb' 10 4) (i.extractLsb' 5 5) (i.extractLsb' 0 5) a d 32]
  | .andi i a d => [packWord (i.extractLsb' 10 4) (i.extractLsb' 5 5) (i.extractLsb' 0 5) a d 36]
  | .ori i a d => [packWord (i.extractLsb' 10 4) (i.extractLsb' 5 5) (i.extractLsb' 0 5) a d 40]
  | .xori i a d => [packWord (i.extractLsb' 10 4) (i.extractLsb' 5 5) (i.extractLsb' 0 5) a d 44]
  | .shli i a d => [packWord 0#4 (0#4 ++ (i.extractLsb' 5 1)) (i.extractLsb' 0 5) a d 48]
  | .shri i a d => [packWord 0#4 (0#4 ++ (i.extractLsb' 5 1)) (i.extractLsb' 0 5) a d 52]
  | .shrai i a d => [packWord 0#4 (0#4 ++ (i.extractLsb' 5 1)) (i.extractLsb' 0 5) a d 56]
  | .slti i a d => [packWord (i.extractLsb' 10 4) (i.extractLsb' 5 5) (i.extractLsb' 0 5) a d 60]
  | .sltiu i a d => [packWord (i.extractLsb' 10 4) (i.extractLsb' 5 5) (i.extractLsb' 0 5) a d 64]
  | .ldh i d => [packWord (i.extractLsb' 15 4) (i.extractLsb' 10 5) (i.extractLsb' 5 5) (i.extractLsb' 0 5) d 68]
  | .addpc i d => [packWord (i.extractLsb' 15 4) (i.extractLsb' 10 5) (i.extractLsb' 5 5) (i.extractLsb' 0 5) d 72]
  | .beq f b a => [packWord (f.extractLsb' 10 4) (f.extractLsb' 5 5) b a (f.extractLsb' 0 5) 80]
  | .bne f b a => [packWord (f.extractLsb' 10 4) (f.extractLsb' 5 5) b a (f.extractLsb' 0 5) 84]
  | .blt f b a => [packWord (f.extractLsb' 10 4) (f.extractLsb' 5 5) b a (f.extractLsb' 0 5) 88]
  | .bge f b a => [packWord (f.extractLsb' 10 4) (f.extractLsb' 5 5) b a (f.extractLsb' 0 5) 92]
  | .bltu f b a => [packWord (f.extractLsb' 10 4) (f.extractLsb' 5 5) b a (f.extractLsb' 0 5) 96]
  | .bgeu f b a => [packWord (f.extractLsb' 10 4) (f.extractLsb' 5 5) b a (f.extractLsb' 0 5) 100]
  | .jal f d => [packWord (f.extractLsb' 15 4) (f.extractLsb' 10 5) (f.extractLsb' 5 5) (f.extractLsb' 0 5) d 104]
  | .jalr i a d => [packWord (i.extractLsb' 10 4) (i.extractLsb' 5 5) (i.extractLsb' 0 5) a d 108]
  | .lb i a d => [packWord (i.extractLsb' 10 4) (i.extractLsb' 5 5) (i.extractLsb' 0 5) a d 128]
  | .lh i a d => [packWord (i.extractLsb' 10 4) (i.extractLsb' 5 5) (i.extractLsb' 0 5) a d 132]
  | .lw i a d => [packWord (i.extractLsb' 10 4) (i.extractLsb' 5 5) (i.extractLsb' 0 5) a d 136]
  | .ld i a d => [packWord (i.extractLsb' 10 4) (i.extractLsb' 5 5) (i.extractLsb' 0 5) a d 140]
  | .lbu i a d => [packWord (i.extractLsb' 10 4) (i.extractLsb' 5 5) (i.extractLsb' 0 5) a d 144]
  | .lhu i a d => [packWord (i.extractLsb' 10 4) (i.extractLsb' 5 5) (i.extractLsb' 0 5) a d 148]
  | .lwu i a d => [packWord (i.extractLsb' 10 4) (i.extractLsb' 5 5) (i.extractLsb' 0 5) a d 152]
  | .lq i a d => [packWord (i.extractLsb' 10 4) (i.extractLsb' 5 5) (i.extractLsb' 0 5) a d 156]
  | .ldc i a d => [packWord (i.extractLsb' 10 4) (i.extractLsb' 5 5) (i.extractLsb' 0 5) a d 160]
  | .ldaW s a d => [packWord 0#4 (s ++ 0#2) 0#5 a d 164]
  | .ldaD s a d => [packWord 1#4 (s ++ 0#2) 0#5 a d 164]
  | .ldaQ s a d => [packWord 2#4 (s ++ 0#2) 0#5 a d 164]
  | .sb i b a => [packWord (i.extractLsb' 10 4) (i.extractLsb' 5 5) b a (i.extractLsb' 0 5) 192]
  | .sh i b a => [packWord (i.extractLsb' 10 4) (i.extractLsb' 5 5) b a (i.extractLsb' 0 5) 196]
  | .sw i b a => [packWord (i.extractLsb' 10 4) (i.extractLsb' 5 5) b a (i.extractLsb' 0 5) 200]
  | .sd i b a => [packWord (i.extractLsb' 10 4) (i.extractLsb' 5 5) b a (i.extractLsb' 0 5) 204]
  | .sq i b a => [packWord (i.extractLsb' 10 4) (i.extractLsb' 5 5) b a (i.extractLsb' 0 5) 208]
  | .snib h b a => [packWord 0#4 (0#4 ++ h) b a 0#5 212]
  | .strlW s b a => [packWord 0#4 (s ++ 0#2) b a 0#5 216]
  | .strlD s b a => [packWord 1#4 (s ++ 0#2) b a 0#5 216]
  | .strlQ s b a => [packWord 2#4 (s ++ 0#2) b a 0#5 216]
  | .atomAddW s o b a d => [packWord 0#4 (s ++ o) b a d 224]
  | .atomAndW s o b a d => [packWord 1#4 (s ++ o) b a d 224]
  | .atomOrW s o b a d => [packWord 2#4 (s ++ o) b a d 224]
  | .atomXorW s o b a d => [packWord 3#4 (s ++ o) b a d 224]
  | .atomMinW s o b a d => [packWord 4#4 (s ++ o) b a d 224]
  | .atomMaxW s o b a d => [packWord 5#4 (s ++ o) b a d 224]
  | .atomMinuW s o b a d => [packWord 6#4 (s ++ o) b a d 224]
  | .atomMaxuW s o b a d => [packWord 7#4 (s ++ o) b a d 224]
  | .atomSwapW s o b a d => [packWord 8#4 (s ++ o) b a d 224]
  | .atomAddD s o b a d => [packWord 0#4 (s ++ o) b a d 228]
  | .atomAndD s o b a d => [packWord 1#4 (s ++ o) b a d 228]
  | .atomOrD s o b a d => [packWord 2#4 (s ++ o) b a d 228]
  | .atomXorD s o b a d => [packWord 3#4 (s ++ o) b a d 228]
  | .atomMinD s o b a d => [packWord 4#4 (s ++ o) b a d 228]
  | .atomMaxD s o b a d => [packWord 5#4 (s ++ o) b a d 228]
  | .atomMinuD s o b a d => [packWord 6#4 (s ++ o) b a d 228]
  | .atomMaxuD s o b a d => [packWord 7#4 (s ++ o) b a d 228]
  | .atomSwapD s o b a d => [packWord 8#4 (s ++ o) b a d 228]
  | .fatomFadd t s o b a d => [packWord (0#2 ++ t) (s ++ o) b a d 232]
  | .fatomFmin t s o b a d => [packWord (1#2 ++ t) (s ++ o) b a d 232]
  | .fatomFmax t s o b a d => [packWord (2#2 ++ t) (s ++ o) b a d 232]
  | .fatompFadd t s o b a d => [packWord (0#2 ++ t) (s ++ o) b a d 236]
  | .fatompFmin t s o b a d => [packWord (1#2 ++ t) (s ++ o) b a d 236]
  | .fatompFmax t s o b a d => [packWord (2#2 ++ t) (s ++ o) b a d 236]
  | .casW s o b a d => [packWord 0#4 (s ++ o) b a d 240]
  | .casD s o b a d => [packWord 1#4 (s ++ o) b a d 240]
  | .casQ s o b a d => [packWord 2#4 (s ++ o) b a d 240]
  | .wbr s b a => [packWord 0#4 (s ++ 0#2) b a 0#5 244]
  | .invr s b a => [packWord 1#4 (s ++ 0#2) b a 0#5 244]
  | .disc s b a => [packWord 2#4 (s ++ 0#2) b a 0#5 244]
  | .pref s b a => [packWord 3#4 (s ++ 0#2) b a 0#5 244]
  | .cinv => [packWord 4#4 0#5 0#5 0#5 0#5 244]
  | .fence s d => [packWord 0#4 (s ++ 0#2) 0#5 0#5 d 248]
  | .rel s => [packWord 1#4 (s ++ 0#2) 0#5 0#5 0#5 248]
  | .acq s => [packWord 2#4 (s ++ 0#2) 0#5 0#5 0#5 248]
  | .hint n => [packWord (n.extractLsb' 20 4) (n.extractLsb' 15 5) (n.extractLsb' 10 5) (n.extractLsb' 5 5) (n.extractLsb' 0 5) 252]
  | .fadd t b a d => [packWord t 0#5 b a d 1]
  | .fsub t b a d => [packWord t 1#5 b a d 1]
  | .fmul t b a d => [packWord t 2#5 b a d 1]
  | .fdiv t b a d => [packWord t 3#5 b a d 1]
  | .fsqrt t a d => [packWord t 4#5 0#5 a d 1]
  | .fmin t b a d => [packWord t 5#5 b a d 1]
  | .fmax t b a d => [packWord t 6#5 b a d 1]
  | .fcpys t b a d => [packWord t 7#5 b a d 1]
  | .fcpyns t b a d => [packWord t 8#5 b a d 1]
  | .fxors t b a d => [packWord t 9#5 b a d 1]
  | .feq t b a d => [packWord t 10#5 b a d 1]
  | .flt t b a d => [packWord t 11#5 b a d 1]
  | .fle t b a d => [packWord t 12#5 b a d 1]
  | .fkind t a d => [packWord t 13#5 0#5 a d 1]
  | .fmadd t c b a d => [packWord t c b a d 5]
  | .fmsub t c b a d => [packWord t c b a d 9]
  | .fnmadd t c b a d => [packWord t c b a d 13]
  | .fnmsub t c b a d => [packWord t c b a d 17]
  | .fcvt u t b a d => [packWord u (0#1 ++ t) b a d 21]
  | .ftog a d => [packWord 0#4 0#5 0#5 a d 25]
  | .ftogh a d => [packWord 1#4 0#5 0#5 a d 25]
  | .gtof b a d => [packWord 2#4 0#5 b a d 25]
  | .splat t a d => [packWord 3#4 (0#1 ++ t) 0#5 a d 25]
  | .shuf t b a d => [packWord 4#4 (0#1 ++ t) b a d 25]
  | .flq i a d => [packWord (i.extractLsb' 10 4) (i.extractLsb' 5 5) (i.extractLsb' 0 5) a d 29]
  | .fsq i b a => [packWord (i.extractLsb' 10 4) (i.extractLsb' 5 5) b a (i.extractLsb' 0 5) 33]
  | .qadd t b a d => [packWord t 0#5 b a d 45]
  | .qsub t b a d => [packWord t 1#5 b a d 45]
  | .qmul t b a d => [packWord t 2#5 b a d 45]
  | .qshr t b a d => [packWord t 3#5 b a d 45]
  | .qsat a d => [packWord 9#4 4#5 0#5 a d 45]
  | .qrng t a d => [packWord t 5#5 0#5 a d 45]
  | .qabs t a d => [packWord t 6#5 0#5 a d 45]
  | .rsadd l b a d => [packWord (0#3 ++ l) 0#5 b a d 49]
  | .rssub l b a d => [packWord (0#3 ++ l) 1#5 b a d 49]
  | .rsmul l b a d => [packWord (0#3 ++ l) 2#5 b a d 49]
  | .rsdiv l b a d => [packWord (0#3 ++ l) 3#5 b a d 49]
  | .rsneg l a d => [packWord (0#3 ++ l) 4#5 0#5 a d 49]
  | .rsrec l a d => [packWord (0#3 ++ l) 5#5 0#5 a d 49]
  | .rssqr l a d => [packWord (0#3 ++ l) 6#5 0#5 a d 49]
  | .rssqrt l a d => [packWord (0#3 ++ l) 7#5 0#5 a d 49]
  | .rsuni l b a d => [packWord (0#3 ++ l) 8#5 b a d 49]
  | .rsint l b a d => [packWord (0#3 ++ l) 9#5 b a d 49]
  | .rsfrom l b a d => [packWord (0#3 ++ l) 10#5 b a d 49]
  | .rslo l a d => [packWord (0#3 ++ l) 11#5 0#5 a d 49]
  | .rshi l a d => [packWord (0#3 ++ l) 12#5 0#5 a d 49]
  | .rspack b a d => [packWord 0#4 13#5 b a d 49]
  | .rsunpk b a d => [packWord 0#4 14#5 b a d 49]
  | .rsemp l a d => [packWord (0#3 ++ l) 15#5 0#5 a d 49]
  | .rsldt a => [packWord 0#4 16#5 0#5 a 0#5 49]
  | .rsldg a => [packWord 0#4 17#5 0#5 a 0#5 49]
  | .fexp2 t a d => [packWord t 0#5 0#5 a d 53]
  | .flog2 t a d => [packWord t 1#5 0#5 a d 53]
  | .frcp t a d => [packWord t 2#5 0#5 a d 53]
  | .frsq t a d => [packWord t 3#5 0#5 a d 53]
  | .fsinpi t a d => [packWord t 4#5 0#5 a d 53]
  | .fcospi t a d => [packWord t 5#5 0#5 a d 53]
  | .ftanh t a d => [packWord t 6#5 0#5 a d 53]
  | .ferf t a d => [packWord t 7#5 0#5 a d 53]
  | .fsigm t a d => [packWord t 8#5 0#5 a d 53]
  | .sbound n l a => [packWord 0#4 (n ++ l) 0#5 a 0#5 65]
  | .sstride n l a => [packWord 1#4 (n ++ l) 0#5 a 0#5 65]
  | .sbase n a => [packWord 2#4 (n ++ 0#2) 0#5 a 0#5 65]
  | .sen n a d => [packWord 3#4 (n ++ 0#2) 0#5 a d 65]
  | .sdis n => [packWord 4#4 (n ++ 0#2) 0#5 0#5 0#5 65]
  | .sdrain n d => [packWord 5#4 (n ++ 0#2) 0#5 0#5 d 65]
  | .sstat n d => [packWord 6#4 (n ++ 0#2) 0#5 0#5 d 65]
  | .seq a n => [packWord 0#4 0#5 0#5 a n 69]
  | .qwg q b a => [packWord 0#4 q b a 0#5 73]
  | .qwf q a => [packWord 1#4 q 0#5 a 0#5 73]
  | .qrg q d => [packWord 2#4 q 0#5 0#5 d 73]
  | .qrf q d => [packWord 3#4 q 0#5 0#5 d 73]
  | .qcnt q d => [packWord 4#4 q 0#5 0#5 d 73]
  | .mjobAcc park m a p0 p1 p2 p3 => [packWord 0 0 0 a (park ++ 0#2 ++ m) 2, p0, p1, p2, p3]
  | .mjobOvr park m a p0 p1 p2 p3 => [packWord 1 0 0 a (park ++ 0#2 ++ m) 2, p0, p1, p2, p3]
  | .mldb t c b a n => [packWord t c b a (0#2 ++ n) 6]
  | .mzero c m => [packWord 0#4 c 0#5 0#5 (0#3 ++ m) 10]
  | .mrd c b a m => [packWord 1#4 c b a (0#3 ++ m) 10]
  | .mstat a d => [packWord 2#4 0#5 0#5 a d 10]
  | .cpyMem follow b a d p0 p1 p2 p3 => [packWord (0#3 ++ follow) 0 b a d 14, p0, p1, p2, p3]
  | .cpyBob follow b a d p0 p1 p2 p3 => [packWord (2#3 ++ follow) 0 b a d 14, p0, p1, p2, p3]
  | .cpyCim follow b a d p0 p1 p2 p3 => [packWord (4#3 ++ follow) 0 b a d 14, p0, p1, p2, p3]
  | .ewait a d => [packWord 0#4 0#5 0#5 a d 18]
  | .efence m => [packWord 1#4 m 0#5 0#5 0#5 18]
  | .ecancel a d => [packWord 2#4 0#5 0#5 a d 18]
  | .reedArr a d => [packWord 0#4 0#5 0#5 a d 34]
  | .reedWait b a d => [packWord 1#4 0#5 b a d 34]
  | .reedSync a d => [packWord 2#4 0#5 0#5 a d 34]
  | .reedQry w a d => [packWord 3#4 (0#3 ++ w) 0#5 a d 34]
  | .lde s a d => [packWord 0#4 (s ++ 0#2) 0#5 a d 38]
  | .ldf s a d => [packWord 1#4 (s ++ 0#2) 0#5 a d 38]
  | .stf s b a => [packWord 2#4 (s ++ 0#2) b a 0#5 38]
  | .ste s b a => [packWord 3#4 (s ++ 0#2) b a 0#5 38]
  | .tagi s a v => [packWord 4#4 (s ++ 0#2) 0#5 a (0#4 ++ v) 38]
  | .tagr s a d => [packWord 5#4 (s ++ 0#2) 0#5 a d 38]
  | .bbinit b a d => [packWord 0#4 0#5 b a d 42]
  | .bbres a d => [packWord 1#4 0#5 0#5 a d 42]
  | .bbcom b a d => [packWord 2#4 0#5 b a d 42]
  | .bbacq a d => [packWord 3#4 0#5 0#5 a d 42]
  | .bbrel b a d => [packWord 4#4 0#5 b a d 42]
  | .bbqry a d => [packWord 5#4 0#5 0#5 a d 42]
  | .msnd b a d => [packWord 0#4 0#5 b a d 46]
  | .mrcv d => [packWord 1#4 0#5 0#5 0#5 d 46]
  | .mpoll d => [packWord 2#4 0#5 0#5 0#5 d 46]
  | .skw c b a d => [packWord 0#4 c b a d 66]
  | .skr c b a d => [packWord 0#4 c b a d 70]
  | .skre c b a d => [packWord 0#4 c b a d 74]
  | .skbind b a d => [packWord 0#4 0#5 b a d 78]
  | .skflr b a d => [packWord 1#4 0#5 b a d 78]
  | .skqry n a d => [packWord 2#4 n 0#5 a d 78]
  | .skunb b a d => [packWord 3#4 0#5 b a d 78]
  | .shtl r n a d => [packWord (0#3 ++ r) (n ++ 0#2) 0#5 a d 98]
  | .mcst b a d => [packWord 0#4 0#5 b a d 102]
  | .pubv b a d => [packWord 1#4 0#5 b a d 102]
  | .subv n a d => [packWord 2#4 n 0#5 a d 102]
  | .ared p b a d => [packWord 3#4 (p ++ 0#2) b a d 102]
  | .shtr a d => [packWord 4#4 0#5 0#5 a d 102]
  | .lreq a d => [packWord 0#4 0#5 0#5 a d 106]
  | .lrel b a d => [packWord 1#4 0#5 b a d 106]
  | .lqry n a d => [packWord 2#4 n 0#5 a d 106]
  | .csrr n d => [packWord (0#2 ++ (n.extractLsb' 10 2)) (n.extractLsb' 5 5) (n.extractLsb' 0 5) 0#5 d 3]
  | .csrw n a d => [packWord (0#2 ++ (n.extractLsb' 10 2)) (n.extractLsb' 5 5) (n.extractLsb' 0 5) a d 7]
  | .csrs n a d => [packWord (0#2 ++ (n.extractLsb' 10 2)) (n.extractLsb' 5 5) (n.extractLsb' 0 5) a d 11]
  | .csrc n a d => [packWord (0#2 ++ (n.extractLsb' 10 2)) (n.extractLsb' 5 5) (n.extractLsb' 0 5) a d 15]
  | .trap a => [packWord 0#4 0#5 0#5 a 0#5 19]
  | .eret => [packWord 1#4 0#5 0#5 0#5 0#5 19]
  | .kill => [packWord 2#4 0#5 0#5 0#5 0#5 19]
  | .yield => [packWord 3#4 0#5 0#5 0#5 0#5 19]
  | .sleep a d => [packWord 4#4 0#5 0#5 a d 19]
  | .wake a d => [packWord 5#4 0#5 0#5 a d 19]
  | .kexit => [packWord 6#4 0#5 0#5 0#5 0#5 19]
  | .twin d => [packWord 0#4 0#5 0#5 0#5 d 23]
  | .untwin d => [packWord 1#4 0#5 0#5 0#5 d 23]
  | .follow d => [packWord 2#4 0#5 0#5 0#5 d 23]
  | .detach d => [packWord 3#4 0#5 0#5 0#5 d 23]
  | .join d => [packWord 4#4 0#5 0#5 0#5 d 23]
  | .chk d => [packWord 5#4 0#5 0#5 0#5 d 23]
  | .nest a d => [packWord 0#4 0#5 0#5 a d 27]
  | .iter f a => [packWord (f.extractLsb' 10 4) (f.extractLsb' 5 5) 0#5 a (f.extractLsb' 0 5) 31]
  | .rdcyc d => [packWord 0#4 0#5 0#5 0#5 d 35]
  | .rdtim d => [packWord 1#4 0#5 0#5 0#5 d 35]
  | .rdstep n a d => [packWord 2#4 n 0#5 a d 35]
  | .launch b a d => [packWord 0#4 0#5 b a d 39]
  | .tokw a d => [packWord 0#4 0#5 0#5 a d 43]
  | .toks b a d => [packWord 1#4 0#5 b a d 43]
  | .tokq a d => [packWord 2#4 0#5 0#5 a d 43]
  | .toke a d => [packWord 3#4 0#5 0#5 a d 43]
  | .segr s w d => [packWord 0#4 (s ++ w) 0#5 0#5 d 47]
  | .segw s w a d => [packWord 1#4 (s ++ w) 0#5 a d 47]
  | .segn s b a d => [packWord 2#4 (s ++ 0#2) b a d 47]
  | .splk b a d => [packWord 0#4 0#5 b a d 51]
  | .spul a d => [packWord 1#4 0#5 0#5 a d 51]
  | .pinv b a d => [packWord 0#4 0#5 b a d 55]
  | .pprobe a d => [packWord 1#4 0#5 0#5 a d 55]
  | .migr b a d => [packWord 0#4 0#5 b a d 59]
  | .ctxhalt b a d => [packWord 1#4 0#5 b a d 59]
  | .ctxsave b a d => [packWord 2#4 0#5 b a d 59]
  | .ctxrest b a d => [packWord 3#4 0#5 b a d 59]
  | .notAnInstruction _ _ _ => []
  | .fetchSegmentFault => []
  | .pcieCompletionTimeout _ _ => []
  | .rtboundExpiry _ _ _ => []
  | .acknowledgementTimeout _ _ _ => []
  | .versionBumpArrival _ _ _ _ _ _ => []
  | .switchNoPath _ _ => []
  | .tokenRequest _ _ => []
  | .launchRecordArrival _ _ => []

end

end Sys2Proof
end

