-- ==== Sys2Proof/Machine/Flags.lean ====
section
/-! DEFINITION. The flag and mode computations of FCSR (R113, R114, R127, R128, R137, R138): rounding mode, sticky
flags, flushing, and the condition of the normaliser's service. -/

namespace Sys2Proof.Machine

/-- FCSR.RM as the rounding mode of R113. -/
def rmOf (fcsr : BitVec 16) : Nat := (fcsr.extractLsb' 13 3).toNat
/-- FCSR.FZ. -/
def fzOf (fcsr : BitVec 16) : Bool := fcsr.getLsbD 11
/-- FCSR.QT. -/
def qtOf (fcsr : BitVec 16) : Bool := fcsr.getLsbD 12
/-- The flag number of QS and QOV. -/
abbrev flagQS : FlagBits := 32
abbrev flagQOV : FlagBits := 64

/-- OR sticky flags into FCSR (R135). -/
def orFlags (fcsr : BitVec 16) (f : FlagBits) : BitVec 16 := fcsr ||| (BitVec.ofNat 7 f).setWidth 16

/-- FCSR as a write leaves it: reserved bits stay zero, and RM 5 to 7 leaves RM unchanged (R137, R138). -/
def fcsrWrite (old : BitVec 16) (v : W64) : BitVec 16 :=
  let rm := v.extractLsb' 13 3
  (if 5 ≤ rm.toNat then old.extractLsb' 13 3 else rm) ++ v.extractLsb' 11 2 ++ 0#4 ++ v.extractLsb' 0 7

/-- A lane value as an arithmetic instruction reads it: FZ reads a subnormal as a zero of its sign (R128). -/
def flushIn (fz : Bool) (F : FpFmt) (x : Nat) : Nat :=
  if fz && isSubnormal F x then F.signBit (bitsOf x (F.width - 1) 1 = 1) else x

/-- A rounded result under FZ: one that is tiny after rounding becomes a zero of its sign with UF and NX (R128). -/
def flushOut (fz : Bool) (F : FpFmt) (r : Nat × FlagBits) : Nat × FlagBits :=
  if fz && (isSubnormal F r.1 || r.2.testBit 3) then (F.signBit (bitsOf r.1 (F.width - 1) 1 = 1), r.2 ||| 24) else r

/-- A lane's result: bits, flags, and whether a subnormal was involved (R127). -/
structure LaneOut where
  bits : Nat
  flags : FlagBits
  sub : Bool
deriving DecidableEq, Repr

/-- An arithmetic lane over F of the operand patterns `xs`. -/
def arithLane (F : FpFmt) (fz : Bool) (xs : List Nat) (f : List Nat → Nat × FlagBits) : LaneOut :=
  let r := flushOut fz F (f (xs.map (flushIn fz F)))
  { bits := r.1, flags := r.2, sub := !fz && (xs.any (isSubnormal F) || isSubnormal F r.1) }

end Sys2Proof.Machine
end

