-- ==== Sys2Proof/Machine/FOps.lean ====
section
/-! DEFINITION. The operations of quadrant 1 as functions of packs (R135, R157-R166): what each computes from its f
sources and the thread's g registers and FCSR, apart from where sources come from and results go. -/

namespace Sys2Proof.Machine

noncomputable section

/-- What a stream-pipe operation produces: an f or g result, flags, whether a subnormal was served, or a trap. -/
structure FOut where
  f : Option (Reg × W128) := none
  g : Option (Reg × W64) := none
  flags : FlagBits := 0
  sub : Bool := false
  trap : Option (Byte × W64) := none

/-- A stream-pipe operation: its f sources in field order, its latency, and its function of their packs. -/
structure FOp where
  srcs : List Reg
  lat : Nat
  comp : Thread → CoreArch → List W128 → FOut

/-- The packs of an operation of one, two or three sources. -/
def pack0 (ps : List W128) : W128 := ps.getD 0 0
def pack1 (ps : List W128) : W128 := ps.getD 1 0
def pack2 (ps : List W128) : W128 := ps.getD 2 0

/-- A pack of lanes with the OR of their flags. -/
def packOut (d : Reg) (w : Nat) (ls : List LaneOut) : FOut :=
  { f := some (d, BitVec.ofNat 128 (packLanes w (ls.map (·.bits)))), flags := ls.foldl (fun f l => f ||| l.flags) 0,
    sub := ls.any (·.sub) }

/-- Lane-wise arithmetic of two sources in an IEEE format. -/
def arith2 (t : BitVec 4) (b a d : Reg) (lat32 lat64 : Nat) (f : FpFmt → Nat → Nat → Nat → Nat × FlagBits) : FOp :=
  let F := fpFmtOf t.toNat
  { srcs := [a, b], lat := if t = 4 then lat64 else lat32,
    comp := fun th _ ps => packOut d F.width ((List.range (laneCount t.toNat)).map (fun i =>
      arithLane F (fzOf th.fcsr) [lane F.width (pack0 ps) i, lane F.width (pack1 ps) i]
        (fun xs => f F (rmOf th.fcsr) (xs.getD 0 0) (xs.getD 1 0)))) }

/-- Lane-wise operation on decoded values. -/
def onValues (f : FpFmt → Nat → Fp → Fp → Nat × FlagBits) (F : FpFmt) (rm x y : Nat) : Nat × FlagBits :=
  f F rm (fpDecode F x) (fpDecode F y)

def opFadd (t : BitVec 4) (b a d : Reg) : FOp := arith2 t b a d 8 10 (onValues fpAdd)
def opFsub (t : BitVec 4) (b a d : Reg) : FOp := arith2 t b a d 8 10 (onValues (fun F rm x y => fpAdd F rm x y.neg))
def opFmul (t : BitVec 4) (b a d : Reg) : FOp := arith2 t b a d 8 10 (onValues fpMul)
def opFdiv (t : BitVec 4) (b a d : Reg) : FOp := arith2 t b a d 20 36 (onValues fpDiv)
def opFmin (t : BitVec 4) (b a d : Reg) : FOp := arith2 t b a d 8 10 (fun F _ x y => fpMinMax F false x y)
def opFmax (t : BitVec 4) (b a d : Reg) : FOp := arith2 t b a d 8 10 (fun F _ x y => fpMinMax F true x y)

/-- FSQRT. -/
def opFsqrt (t : BitVec 4) (a d : Reg) : FOp :=
  let F := fpFmtOf t.toNat
  { srcs := [a], lat := if t = 4 then 36 else 20,
    comp := fun th _ ps => packOut d F.width ((List.range (laneCount t.toNat)).map (fun i =>
      arithLane F (fzOf th.fcsr) [lane F.width (pack0 ps) i] (fun xs => fpSqrt F (rmOf th.fcsr) (fpDecode F (xs.getD 0 0))))) }

/-- A's exponent and fraction with a sign formed from both signs (FCPYS, FCPYNS, FXORS): no flag, no flush. -/
def signOp (t : BitVec 4) (b a d : Reg) (sign : Bool → Bool → Bool) : FOp :=
  let F := fpFmtOf t.toNat
  { srcs := [a, b], lat := 6,
    comp := fun _ _ ps => packOut d F.width ((List.range (laneCount t.toNat)).map (fun i =>
      let x := lane F.width (pack0 ps) i
      let y := lane F.width (pack1 ps) i
      { bits := F.signBit (sign (x.testBit (F.width - 1)) (y.testBit (F.width - 1))) + x % 2 ^ (F.width - 1), flags := 0,
        sub := false })) }

def opFcpys (t : BitVec 4) (b a d : Reg) : FOp := signOp t b a d (fun _ y => y)
def opFcpyns (t : BitVec 4) (b a d : Reg) : FOp := signOp t b a d (fun _ y => !y)
def opFxors (t : BitVec 4) (b a d : Reg) : FOp := signOp t b a d (fun x y => x != y)

/-- A comparison: g_d bit i for lane i; FEQ sets NV for a signalling NaN only, FLT and FLE for any NaN (R157). -/
def compareOp (t : BitVec 4) (b a d : Reg) (quiet : Bool) (rel : Fp → Fp → Bool) : FOp :=
  let F := fpFmtOf t.toNat
  { srcs := [a, b], lat := 6,
    comp := fun th _ ps =>
      let ls := (List.range (laneCount t.toNat)).map (fun i =>
        arithLane F (fzOf th.fcsr) [lane F.width (pack0 ps) i, lane F.width (pack1 ps) i] (fun xs =>
          let x := fpDecode F (xs.getD 0 0)
          let y := fpDecode F (xs.getD 1 0)
          let nv := if quiet then (if sNaN x + sNaN y = 0 then 0 else 1) else if x.isNaN || y.isNaN then 1 else 0
          (if rel x y then F.signBit false + 1 else 0, nv)))
      -- the lane's bit is a truth value, not a number of the format, so FZ never flushes it
      let holds (i : Nat) : Bool :=
        let g (r : W128) : Fp := fpDecode F (flushIn (fzOf th.fcsr) F (lane F.width r i))
        rel (g (pack0 ps)) (g (pack1 ps))
      let sub := !fzOf th.fcsr && (List.range (laneCount t.toNat)).any (fun i =>
        isSubnormal F (lane F.width (pack0 ps) i) || isSubnormal F (lane F.width (pack1 ps) i))
      { g := some (d, BitVec.ofNat 64 (upTo (laneCount t.toNat) (fun m i => if holds i then m + 2 ^ i else m) 0)),
        flags := (ls.foldl (fun f l => f ||| l.flags) 0) &&& 1, sub := sub } }

def opFeq (t : BitVec 4) (b a d : Reg) : FOp := compareOp t b a d true fpEq
def opFlt (t : BitVec 4) (b a d : Reg) : FOp := compareOp t b a d false fpLt
def opFle (t : BitVec 4) (b a d : Reg) : FOp := compareOp t b a d false (fun x y => fpLt x y || fpEq x y)

/-- FKIND (R158). -/
def opFkind (t : BitVec 4) (a d : Reg) : FOp :=
  let F := fpFmtOf t.toNat
  { srcs := [a], lat := 6,
    comp := fun _ _ ps =>
      { g := some (d, BitVec.ofNat 64 (packLanes 4 ((List.range (laneCount t.toNat)).map (fun i =>
          fpKind F (lane F.width (pack0 ps) i))))) } }

/-- The fused multiply-add family (R159). -/
def fmaOp (t : BitVec 4) (c b a d : Reg) (negProd negC : Bool) : FOp :=
  let F := fpFmtOf t.toNat
  { srcs := [a, b, c], lat := if t = 4 then 10 else 8,
    comp := fun th _ ps => packOut d F.width ((List.range (laneCount t.toNat)).map (fun i =>
      arithLane F (fzOf th.fcsr) [lane F.width (pack0 ps) i, lane F.width (pack1 ps) i, lane F.width (pack2 ps) i]
        (fun xs =>
          let z := fpDecode F (xs.getD 2 0)
          fpFma F (rmOf th.fcsr) negProd (fpDecode F (xs.getD 0 0)) (fpDecode F (xs.getD 1 0)) (if negC then z.neg else z)))) }

def opFmadd (t : BitVec 4) (c b a d : Reg) : FOp := fmaOp t c b a d false false
def opFmsub (t : BitVec 4) (c b a d : Reg) : FOp := fmaOp t c b a d false true
def opFnmadd (t : BitVec 4) (c b a d : Reg) : FOp := fmaOp t c b a d true true
def opFnmsub (t : BitVec 4) (c b a d : Reg) : FOp := fmaOp t c b a d true false

/-- The format code names an IEEE format. -/
def isIeee (t : Nat) : Bool := t = 4 || t = 5 || t = 6

/-- x·s exactly; an invalid product or a signalling NaN sets NV (R160). -/
def scaleValue (x y : Fp) : Fp × FlagBits :=
  let nv := if sNaN x + sNaN y = 0 then 0 else 1
  match x, y with
  | .nan _, _ => (.nan false, nv)
  | _, .nan _ => (.nan false, nv)
  | .inf m, .inf n => (.inf (m != n), nv)
  | .inf m, .fin n k _ => if k = 0 then (.nan false, 1) else (.inf (m != n), nv)
  | .fin m k _, .inf n => if k = 0 then (.nan false, 1) else (.inf (m != n), nv)
  | .fin m a c, .fin n b e => (.fin (m != n) (a * b) (c * e), nv)

/-- FCVT (R160): source format `u`, target `t`, scale from g_b. FZ flushes IEEE lanes; the scale is exact (log 35). -/
def opFcvt (u t : BitVec 4) (b a d : Reg) : FOp :=
  let L := Nat.min (laneCount u.toNat) (laneCount t.toNat)
  let narrow := decide (laneWidth u.toNat < 32) && decide (laneWidth t.toNat < 32)
  { srcs := [a], lat := 6,
    comp := fun th _ ps =>
      let fz := fzOf th.fcsr
      let sc : Fp := if b = 0 then .fin false 1 1 else fpDecode f32 ((th.rg b).extractLsb' 0 32).toNat
      packOut d (laneWidth t.toNat) ((List.range L).map (fun i =>
        let raw := lane (laneWidth u.toNat) (pack0 ps) i
        let x := if isIeee u.toNat then flushIn fz (fpFmtOf u.toNat) raw else raw
        let y := scaleValue (laneValue u.toNat x) sc
        let r := laneRound t.toNat (rmOf th.fcsr) y.1
        let r' := if isIeee t.toNat then flushOut fz (fpFmtOf t.toNat) r else r
        { bits := r'.1, flags := r'.2 ||| y.2,
          sub := !fz && !narrow && ((isIeee u.toNat && isSubnormal (fpFmtOf u.toNat) raw) ||
            (isIeee t.toNat && isSubnormal (fpFmtOf t.toNat) r'.1)) })) }

/-! ## FMV (R161) -/

def opFtog (a d : Reg) : FOp := { srcs := [a], lat := 6, comp := fun _ _ ps => { g := some (d, (pack0 ps).extractLsb' 0 64) } }
def opFtogh (a d : Reg) : FOp := { srcs := [a], lat := 6, comp := fun _ _ ps => { g := some (d, (pack0 ps).extractLsb' 64 64) } }
def opGtof (b a d : Reg) : FOp := { srcs := [], lat := 6, comp := fun t _ _ => { f := some (d, t.rg b ++ t.rg a) } }
/-- SPLAT and SHUF move bits: no lane asks the normaliser (DESIGN CHOICE, log 93: R161 and R127 do not say). -/
def opSplat (t : BitVec 4) (a d : Reg) : FOp :=
  { srcs := [], lat := 6,
    comp := fun th _ _ => { f := some (d, BitVec.ofNat 128 (packLanes (laneWidth t.toNat)
      (List.replicate (laneCount t.toNat) (th.rg a).toNat))) } }
/-- SHUF, as SPLAT: it moves bits (log 93). -/
def opShuf (t : BitVec 4) (b a d : Reg) : FOp :=
  let w := laneWidth t.toNat
  let L := laneCount t.toNat
  { srcs := [a], lat := 6,
    comp := fun th _ ps => { f := some (d, BitVec.ofNat 128 (packLanes w ((List.range L).map (fun i =>
      let k := bitsOf (th.rg b).toNat (4 * i) 4
      if k < L then lane w (pack0 ps) k else 0)))) } }

/-! ## QFX (R163) -/

/-- A lane-wise fixed-point operation on integers: sat of the result, QS where it changed. -/
def qfxOp (t : BitVec 4) (srcs : List Reg) (d : Reg) (f : Thread → Nat → Int → Int → Int) : FOp :=
  let w := laneWidth t.toNat
  { srcs := srcs, lat := 6,
    comp := fun th _ ps => packOut d w ((List.range (laneCount t.toNat)).map (fun i =>
      let r := satSigned w (f th (w - 1) (signedOf w (lane w (pack0 ps) i)) (signedOf w (lane w (pack1 ps) i)))
      { bits := r.1, flags := if r.2 then flagQS else 0, sub := false })) }

def opQadd (t : BitVec 4) (b a d : Reg) : FOp := qfxOp t [a, b] d (fun _ _ x y => x + y)
def opQsub (t : BitVec 4) (b a d : Reg) : FOp := qfxOp t [a, b] d (fun _ _ x y => x - y)
def opQmul (t : BitVec 4) (b a d : Reg) : FOp := qfxOp t [a, b] d (fun _ F x y => rha (x * y) (2 ^ F))
def opQshr (t : BitVec 4) (b a d : Reg) : FOp := qfxOp t [a] d (fun th _ x _ => rha x (2 ^ Nat.min (th.rg b).toNat 63))
def opQabs (t : BitVec 4) (a d : Reg) : FOp := qfxOp t [a] d (fun _ _ x _ => (x.natAbs : Int))

/-- QSAT. -/
def opQsat (a d : Reg) : FOp :=
  { srcs := [a], lat := 6,
    comp := fun _ _ ps => packOut d 16 ((List.range 4).map (fun i =>
      let r := satSigned 16 (rha (signedOf 32 (lane 32 (pack0 ps) i)) (2 ^ 16))
      { bits := r.1, flags := if r.2 then flagQS else 0, sub := false })) }

/-- QRNG: the mask of lanes out of the range FQLO to FQHI; a trap FORMAT where QT asks for it. -/
def opQrng (t : BitVec 4) (a d : Reg) : FOp :=
  let w := laneWidth t.toNat
  { srcs := [a], lat := 6,
    comp := fun th _ ps =>
      let out (i : Nat) : Bool :=
        let v := signedOf w (lane w (pack0 ps) i) * 2 ^ (32 - w)
        decide (v < th.fqlo.toInt) || decide (th.fqhi.toInt < v)
      let m := upTo (laneCount t.toNat) (fun m i => if out i then m + 2 ^ i else m) 0
      { g := some (d, BitVec.ofNat 64 m), flags := if m = 0 then 0 else flagQOV,
        trap := if m ≠ 0 ∧ qtOf th.fcsr then some (FORMAT, BitVec.ofNat 64 m) else none } }

/-! ## RSOP (R164) -/

/-- Lane width and count of a ring-set operation: RS16 or RC8. -/
def rsWidth (l : BitVec 1) : Nat := if l = 1 then 8 else 16
def rsIn (l : BitVec 1) (x : Nat) : Nat := if l = 1 then rcUnpack x else x
def rsOut (l : BitVec 1) (x : Nat) : Nat := if l = 1 then rcPack x else x

/-- A lane-wise operation on masks. -/
def rsOp (l : BitVec 1) (srcs : List Reg) (d : Reg) (f : CoreArch → Nat → Nat → Nat) : FOp :=
  let w := rsWidth l
  { srcs := srcs, lat := 6,
    comp := fun _ a ps => { f := some (d, BitVec.ofNat 128 (packLanes w ((List.range (128 / w)).map (fun i =>
      rsOut l (f a (rsIn l (lane w (pack0 ps) i)) (rsIn l (lane w (pack1 ps) i))))))) } }

def opRsadd (l : BitVec 1) (b a d : Reg) : FOp := rsOp l [a, b] d (fun c x y => rsBinary c.tables 0 x y)
def opRssub (l : BitVec 1) (b a d : Reg) : FOp := rsOp l [a, b] d (fun c x y => rsBinary c.tables 1 x y)
def opRsmul (l : BitVec 1) (b a d : Reg) : FOp := rsOp l [a, b] d (fun c x y => rsBinary c.tables 2 x y)
def opRsdiv (l : BitVec 1) (b a d : Reg) : FOp := rsOp l [a, b] d (fun c x y => rsBinary c.tables 3 x y)
def opRsneg (l : BitVec 1) (a d : Reg) : FOp := rsOp l [a] d (fun c x _ => rsUnary c.tables 0 x)
def opRsrec (l : BitVec 1) (a d : Reg) : FOp := rsOp l [a] d (fun c x _ => rsUnary c.tables 1 x)
def opRssqr (l : BitVec 1) (a d : Reg) : FOp := rsOp l [a] d (fun c x _ => rsUnary c.tables 2 x)
def opRssqrt (l : BitVec 1) (a d : Reg) : FOp := rsOp l [a] d (fun c x _ => rsUnary c.tables 3 x)
def opRsuni (l : BitVec 1) (b a d : Reg) : FOp := rsOp l [a, b] d (fun _ x y => x ||| y)
def opRsint (l : BitVec 1) (b a d : Reg) : FOp := rsOp l [a, b] d (fun _ x y => x &&& y)

/-- The element of the ring that holds an F32 value, as a mask. -/
def elementMask (ring : List W32) (x : Nat) : Nat :=
  let pt (k : Nat) : Fp := fpDecode f32 (ring.getD k 0).toNat
  match fpDecode f32 x with
  | .nan _ => 0xFFFF
  | .inf _ => 2 ^ 14
  | v =>
    match (List.range 7).find? (fun k => fpEq v (pt k)) with
    | some k => 2 ^ (2 * k)
    | none =>
      match (List.range 7).find? (fun k => fpLt v (pt k)) with
      | some 0 => 2 ^ 15
      | some (k + 1) => 2 ^ (2 * k + 1)
      | none => 2 ^ 13

/-- RSFROM; in RC8 lanes 8 to 15 are empty sets. A subnormal F32 lane is served by the normaliser (R127). -/
def opRsfrom (l : BitVec 1) (b a d : Reg) : FOp :=
  { srcs := [a, b], lat := 6,
    comp := fun th c ps =>
      let ms := (List.range 4).map (fun i => elementMask c.ring (lane 32 (pack0 ps) i)) ++
        (List.range 4).map (fun i => elementMask c.ring (lane 32 (pack1 ps) i))
      { f := some (d, BitVec.ofNat 128 (packLanes (rsWidth l)
          (ms.map (rsOut l) ++ (if l = 1 then List.replicate 8 0xFF else [])))),
        sub := !fzOf th.fcsr && (List.range 4).any (fun i =>
          isSubnormal f32 (lane 32 (pack0 ps) i) || isSubnormal f32 (lane 32 (pack1 ps) i)) } }

/-- The lowest or highest element of a mask among 0 to 12, as a point number. -/
def lowPoint (m : Nat) : Nat := ((List.range 13).find? (fun e => m.testBit e)).getD 0 / 2
def highPoint (m : Nat) : Nat :=
  let e := ((List.range 13).reverse.find? (fun e => m.testBit e)).getD 0
  (e + 1) / 2

/-- RSLO of a mask. A mask that holds only element 13 has its lower bound at p6. -/
def lowBound (ring : List W32) (m : Nat) : Nat :=
  if m = 0 then f32.nan
  else if m.testBit 14 || m.testBit 15 then f32.inf true
  else if m % 2 ^ 13 = 0 then (ring.getD 6 0).toNat
  else (ring.getD (lowPoint m) 0).toNat

/-- RSHI of a mask. A mask that holds only element 15 has its upper bound at p0. -/
def highBound (ring : List W32) (m : Nat) : Nat :=
  if m = 0 then f32.nan
  else if m.testBit 13 || m.testBit 14 then f32.inf false
  else if m % 2 ^ 13 = 0 then (ring.getD 0 0).toNat
  else (ring.getD (highPoint m) 0).toNat

/-- RSLO or RSHI of lanes 0 to 3. -/
def boundOp (l : BitVec 1) (a d : Reg) (f : List W32 → Nat → Nat) : FOp :=
  { srcs := [a], lat := 6,
    comp := fun _ c ps => { f := some (d, BitVec.ofNat 128 (packLanes 32 ((List.range 4).map (fun i =>
      f c.ring (rsIn l (lane (rsWidth l) (pack0 ps) i)))))) } }

/-- RSLO and RSHI give ring points: no lane asks the normaliser (DESIGN CHOICE, log 93: R164 and R127 do not say). -/
def opRslo (l : BitVec 1) (a d : Reg) : FOp := boundOp l a d lowBound
/-- RSHI, as RSLO (log 93). -/
def opRshi (l : BitVec 1) (a d : Reg) : FOp := boundOp l a d highBound
def opRspack (b a d : Reg) : FOp :=
  { srcs := [a, b], lat := 6,
    comp := fun _ _ ps => { f := some (d, BitVec.ofNat 128 (packLanes 8 ((List.range 16).map (fun i =>
      rcPack (lane 16 (if i < 8 then pack0 ps else pack1 ps) (i % 8)))))) } }
def opRsunpk (b a d : Reg) : FOp :=
  { srcs := [a], lat := 6,
    comp := fun t _ ps => { f := some (d, BitVec.ofNat 128 (packLanes 16 ((List.range 8).map (fun i =>
      rcUnpack (lane 8 (pack0 ps) (8 * ((t.rg b).toNat % 2) + i)))))) } }
def opRsemp (l : BitVec 1) (a d : Reg) : FOp :=
  let w := rsWidth l
  { srcs := [a], lat := 6,
    comp := fun _ _ ps => { g := some (d, BitVec.ofNat 64 (upTo (128 / w) (fun m i =>
      if rsIn l (lane w (pack0 ps) i) = 0 then m + 2 ^ i else m) 0)) } }

/-! ## SFU (R165, R166) -/

/-- A request's result: pack and flags; an undecided rounding is a free value of the configuration (log 30). -/
def sfuPack (op : Nat) (t : BitVec 4) (fcsr : BitVec 16) (p : W128) : W128 × FlagBits :=
  let F := fpFmtOf t.toNat
  let fz := fzOf fcsr
  let ls := (List.range (laneCount t.toNat)).map (fun i =>
    let x := flushIn fz F (lane F.width p i)
    flushOut fz F ((sfuLane op F x).getD ((Config.sfuRound op t.toNat x).toNat % 2 ^ F.width, 16)))
  (BitVec.ofNat 128 (packLanes F.width (ls.map (·.1))), ls.foldl (fun f r => f ||| r.2) 0)

/-- The operation of an SFU instruction: function code, format, source, destination. -/
def sfuOf : Instr → Option (Nat × BitVec 4 × Reg × Reg)
  | .fexp2 t a d => some (0, t, a, d)
  | .flog2 t a d => some (1, t, a, d)
  | .frcp t a d => some (2, t, a, d)
  | .frsq t a d => some (3, t, a, d)
  | .fsinpi t a d => some (4, t, a, d)
  | .fcospi t a d => some (5, t, a, d)
  | .ftanh t a d => some (6, t, a, d)
  | .ferf t a d => some (7, t, a, d)
  | .fsigm t a d => some (8, t, a, d)
  | _ => none

/-- The operation of a word that a run may hold (R152), and of every other pure quadrant-1 word. -/
def fOpOf : Instr → Option FOp
  | .fadd t b a d => some (opFadd t b a d)
  | .fsub t b a d => some (opFsub t b a d)
  | .fmul t b a d => some (opFmul t b a d)
  | .fdiv t b a d => some (opFdiv t b a d)
  | .fsqrt t a d => some (opFsqrt t a d)
  | .fmin t b a d => some (opFmin t b a d)
  | .fmax t b a d => some (opFmax t b a d)
  | .fcpys t b a d => some (opFcpys t b a d)
  | .fcpyns t b a d => some (opFcpyns t b a d)
  | .fxors t b a d => some (opFxors t b a d)
  | .fmadd t c b a d => some (opFmadd t c b a d)
  | .fmsub t c b a d => some (opFmsub t c b a d)
  | .fnmadd t c b a d => some (opFnmadd t c b a d)
  | .fnmsub t c b a d => some (opFnmsub t c b a d)
  | .fcvt u t b a d => some (opFcvt u t b a d)
  | .shuf t b a d => some (opShuf t b a d)
  | .qadd t b a d => some (opQadd t b a d)
  | .qsub t b a d => some (opQsub t b a d)
  | .qmul t b a d => some (opQmul t b a d)
  | .qshr t b a d => some (opQshr t b a d)
  | .qsat a d => some (opQsat a d)
  | .qabs t a d => some (opQabs t a d)
  | .rsadd l b a d => some (opRsadd l b a d)
  | .rssub l b a d => some (opRssub l b a d)
  | .rsmul l b a d => some (opRsmul l b a d)
  | .rsdiv l b a d => some (opRsdiv l b a d)
  | .rsneg l a d => some (opRsneg l a d)
  | .rsrec l a d => some (opRsrec l a d)
  | .rssqr l a d => some (opRssqr l a d)
  | .rssqrt l a d => some (opRssqrt l a d)
  | .rsuni l b a d => some (opRsuni l b a d)
  | .rsint l b a d => some (opRsint l b a d)
  | .rsfrom l b a d => some (opRsfrom l b a d)
  | .rslo l a d => some (opRslo l a d)
  | .rshi l a d => some (opRshi l a d)
  | .rspack b a d => some (opRspack b a d)
  | _ => none

/-- A word that a run may hold (R152). -/
def runWord (i : Instr) : Bool :=
  match i with
  | .hint _ | .qwf _ _ | .qrf _ _ => true
  | .fcvt _ _ b _ _ | .shuf _ b _ _ | .qshr _ b _ _ => b == 0
  | i => (fOpOf i).isSome || (sfuOf i).isSome

end

end Sys2Proof.Machine
end

