-- ==== Sys2Proof/Machine/Fetch.lean ====
section
/-! DEFINITION. Instruction fetch (R24, R25, R40 steps 1 and 6), the forwarded words of a follower (R71), and the
parameter words of a block with their substitution markers (R27, R28, R41). -/

namespace Sys2Proof.Machine

noncomputable section

/-- Bytes of one code line: the core's L1 instruction store of 64 KiB holds lines as they were at home when they were fetched
(R11, R25). -/
def codeLine (s : State) (core part dva n pa : Nat) : State × List Byte × Bool :=
  let c := s.core core
  match tfind c.l1i (lineKey part dva) with
  | some d => (s, lineBytes d (dva % 64) n, false)
  | none =>
    let h := homeLine s pa
    (if h.2 then s else s.setCore core { c with l1i := linePut 1024 c.l1i (lineKey part dva) h.1 }, mreadN s.mem.ram pa n,
      anyPoison s.mem.ramPoison pa n)

/-- The bytes of a code word, which may lie in two lines. -/
def codeBytes (s : State) (core part dva pa : Nat) : State × List Byte × Bool :=
  let m := firstPart dva 4
  let r := codeLine s core part dva m pa
  if 4 ≤ m then r
  else
    let x := codeLine r.1 core part (dva + m) (4 - m) (partAt s (clusterOf core) part dva pa 0 m).1
    (x.1, r.2.1 ++ x.2.1, r.2.2 || x.2.2)

/-- Fetch the word at a code address through sg0 (R24): a segment that is neither code nor global holds no paged code, its
scratchpads apart (log 34). DESIGN CHOICE (log 91): R25 allows the word as it stood at the dispatch or as any later store left
it; the model takes the bytes the home held when the core fetched the line, never a staging copy's or a store queue's. -/
def fetchWord (s : State) (key : Nat) (pc : W64) : Except Stop (State × W32) := do
  let t := s.thread key
  let core := coreOf key
  need (pc.extractLsb' 61 3 = 0) SEGV pc
  let (kind, o) ← segCheck t pc 4 rightX
  let word (bs : List Byte) : W32 := BitVec.ofNat 32 (natOfBytes bs)
  if kind ≤ 1 then
    let part := s.partOf core
    let (s, leaf, pa) ← translate s (clusterOf core) part o accExec pc
    let (s, _) ← if o % 4096 ≤ 4092 then pure (s, leaf, pa) else translate s (clusterOf core) part (o + 3) accExec pc
    need (leafCls leaf ≠ 4) ACCESS pc
    if (tfind (s.core core).l1i (lineKey part o)).isNone ∧ (s.die (dieOf (homeOf s part o pa leaf))).relock.isSome then
      .error (.walk o pc)
    else
      let r := codeBytes s core part o pa
      if r.2.2 then .error .poison else return (r.1, word r.2.1)
  else if kind = 2 ∧ o + 4 ≤ 0x100000 then
    if spadPoisoned s.mem core o 4 then .error .poison else return (s, word (spadBytes s.mem core o 4))
  else if kind = 3 then
    let c := forwardCore s t.kid (o / 0x100000)
    need (tileAllowed s core c) ACCESS pc
    if spadPoisoned s.mem c (o % 0x100000) 4 then .error .poison else return (s, word (spadBytes s.mem c (o % 0x100000) 4))
  else .error (.trap SEGV pc)

/-- Fetch consecutive words. -/
def fetchWords (s : State) (key : Nat) (pc : W64) : Nat → Except Stop (State × List W32)
  | 0 => .ok (s, [])
  | n + 1 => do
    let (s, w) ← fetchWord s key pc
    let (s, ws) ← fetchWords s key (pc + 4) n
    return (s, w :: ws)

/-- A parameter word as it acts: itself, or the low half of the register a marker names (R28). -/
def resolveParam (t : Thread) (n : Nat) (p : W32) : Except Stop W32 :=
  if p.extractLsb' 26 6 = 0x3F then
    if p.extractLsb' 0 21 = 0 then .ok ((t.rg (p.extractLsb' 21 5)).setWidth 32)
    else .error (.trap ILLOP (t.pc + BitVec.ofNat 64 (4 * (n + 1))))
  else .ok p

/-- All four parameter words, in order (R28). -/
def resolveParams (t : Thread) (p0 p1 p2 p3 : W32) : Except Stop (W32 × W32 × W32 × W32) := do
  let x0 ← resolveParam t 0 p0
  let x1 ← resolveParam t 1 p1
  let x2 ← resolveParam t 2 p2
  let x3 ← resolveParam t 3 p3
  return (x0, x1, x2, x3)

end

end Sys2Proof.Machine
end

