-- ==== Sys2Proof/Machine/Roles.lean ====
section
/-! DEFINITION. What each instruction reads and writes among the g and f registers (R34-R38), which mode it needs (R38),
and how a twin pair performs it (R67): the tables that the gates before and after an instruction look up. -/

namespace Sys2Proof.Machine

noncomputable section

/-- The register a substitution marker names (R28). -/
def markerReg (p : W32) : List Reg := if p.extractLsb' 26 6 = 0x3F ∧ p.extractLsb' 0 21 = 0 then [p.extractLsb' 21 5] else []

/-- The g registers an instruction reads. -/
def gReads : Instr → List Reg
  | .add _ b a _ => [a, b]
  | .sub _ b a _ => [a, b]
  | .and _ b a _ => [a, b]
  | .or _ b a _ => [a, b]
  | .xor _ b a _ => [a, b]
  | .andn _ b a _ => [a, b]
  | .orn _ b a _ => [a, b]
  | .xnor _ b a _ => [a, b]
  | .shl _ b a _ => [a, b]
  | .shr _ b a _ => [a, b]
  | .shra _ b a _ => [a, b]
  | .rol _ b a _ => [a, b]
  | .ror _ b a _ => [a, b]
  | .slt _ b a _ => [a, b]
  | .sltu _ b a _ => [a, b]
  | .min _ b a _ => [a, b]
  | .max _ b a _ => [a, b]
  | .minu _ b a _ => [a, b]
  | .maxu _ b a _ => [a, b]
  | .mul _ b a _ => [a, b]
  | .hmul _ b a _ => [a, b]
  | .hmulu _ b a _ => [a, b]
  | .hmulm _ b a _ => [a, b]
  | .div _ b a _ => [a, b]
  | .divu _ b a _ => [a, b]
  | .rem _ b a _ => [a, b]
  | .remu _ b a _ => [a, b]
  | .clz _ a _ => [a]
  | .ctz _ a _ => [a]
  | .popc _ a _ => [a]
  | .brev _ a _ => [a]
  | .bswap _ a _ => [a]
  | .sext _ a _ => [a]
  | .zext _ a _ => [a]
  | .bfx _ b a _ => [a, b]
  | .bfi _ b a d => [a, b, d]
  | .csel c b a _ => [a, b, c]
  | .madd _ c b a _ => [a, b, c]
  | .msub _ c b a _ => [a, b, c]
  | .addi _ a _ => [a]
  | .andi _ a _ => [a]
  | .ori _ a _ => [a]
  | .xori _ a _ => [a]
  | .shli _ a _ => [a]
  | .shri _ a _ => [a]
  | .shrai _ a _ => [a]
  | .slti _ a _ => [a]
  | .sltiu _ a _ => [a]
  | .beq _ b a => [a, b]
  | .bne _ b a => [a, b]
  | .blt _ b a => [a, b]
  | .bge _ b a => [a, b]
  | .bltu _ b a => [a, b]
  | .bgeu _ b a => [a, b]
  | .jalr _ a _ => [a]
  | .lb _ a _ => [a]
  | .lh _ a _ => [a]
  | .lw _ a _ => [a]
  | .ld _ a _ => [a]
  | .lbu _ a _ => [a]
  | .lhu _ a _ => [a]
  | .lwu _ a _ => [a]
  | .lq _ a _ => [a]
  | .ldc _ a _ => [a]
  | .ldaW _ a _ => [a]
  | .ldaD _ a _ => [a]
  | .ldaQ _ a _ => [a]
  | .sb _ b a => [a, b]
  | .sh _ b a => [a, b]
  | .sw _ b a => [a, b]
  | .sd _ b a => [a, b]
  | .sq _ b a => [a, b, b + 1]
  | .snib _ b a => [a, b]
  | .strlW _ b a => [a, b]
  | .strlD _ b a => [a, b]
  | .strlQ _ b a => [a, b, b + 1]
  | .atomAddW _ _ b a _ => [a, b]
  | .atomAndW _ _ b a _ => [a, b]
  | .atomOrW _ _ b a _ => [a, b]
  | .atomXorW _ _ b a _ => [a, b]
  | .atomMinW _ _ b a _ => [a, b]
  | .atomMaxW _ _ b a _ => [a, b]
  | .atomMinuW _ _ b a _ => [a, b]
  | .atomMaxuW _ _ b a _ => [a, b]
  | .atomSwapW _ _ b a _ => [a, b]
  | .atomAddD _ _ b a _ => [a, b]
  | .atomAndD _ _ b a _ => [a, b]
  | .atomOrD _ _ b a _ => [a, b]
  | .atomXorD _ _ b a _ => [a, b]
  | .atomMinD _ _ b a _ => [a, b]
  | .atomMaxD _ _ b a _ => [a, b]
  | .atomMinuD _ _ b a _ => [a, b]
  | .atomMaxuD _ _ b a _ => [a, b]
  | .atomSwapD _ _ b a _ => [a, b]
  | .fatomFadd _ _ _ b a _ => [a, b]
  | .fatomFmin _ _ _ b a _ => [a, b]
  | .fatomFmax _ _ _ b a _ => [a, b]
  | .fatompFadd _ _ _ b a _ => [a, b]
  | .fatompFmin _ _ _ b a _ => [a, b]
  | .fatompFmax _ _ _ b a _ => [a, b]
  | .casW _ _ b a d => [a, b, d]
  | .casD _ _ b a d => [a, b, d]
  | .casQ _ _ b a d => [a, b, d, d + 1, b + 1]
  | .wbr _ b a => [a, b]
  | .invr _ b a => [a, b]
  | .disc _ b a => [a, b]
  | .pref _ b a => [a, b]
  | .fcvt _ _ b _ _ => [b]
  | .gtof b a _ => [a, b]
  | .splat _ a _ => [a]
  | .shuf _ b _ _ => [b]
  | .flq _ a _ => [a]
  | .fsq _ _ a => [a]
  | .qshr _ b _ _ => [b]
  | .rsunpk b _ _ => [b]
  | .rsldt a => [a]
  | .rsldg a => [a]
  | .sbound _ _ a => [a]
  | .sstride _ _ a => [a]
  | .sbase _ a => [a]
  | .sen _ a _ => [a]
  | .seq a _ => [a]
  | .qwg _ b a => [a, b]
  | .mjobAcc _ _ _ p0 p1 p2 p3 => [] ++ markerReg p0 ++ markerReg p1 ++ markerReg p2 ++ markerReg p3
  | .mjobOvr _ _ _ p0 p1 p2 p3 => [] ++ markerReg p0 ++ markerReg p1 ++ markerReg p2 ++ markerReg p3
  | .mldb _ _ b a _ => [a, b]
  | .mrd _ b a _ => [a, b]
  | .mstat a _ => [a]
  | .cpyMem _ b a _ p0 p1 p2 p3 => [a, b] ++ markerReg p0 ++ markerReg p1 ++ markerReg p2 ++ markerReg p3
  | .cpyBob _ b a _ p0 p1 p2 p3 => [a, b] ++ markerReg p0 ++ markerReg p1 ++ markerReg p2 ++ markerReg p3
  | .cpyCim _ b a _ p0 p1 p2 p3 => [a, b] ++ markerReg p0 ++ markerReg p1 ++ markerReg p2 ++ markerReg p3
  | .ewait a _ => [a]
  | .ecancel a _ => [a]
  | .reedArr a _ => [a]
  | .reedWait b a _ => [a, b]
  | .reedSync a _ => [a]
  | .reedQry _ a _ => [a]
  | .lde _ a _ => [a]
  | .ldf _ a _ => [a]
  | .stf _ b a => [a, b]
  | .ste _ b a => [a, b]
  | .tagi _ a _ => [a]
  | .tagr _ a _ => [a]
  | .bbinit b a _ => [a, b]
  | .bbres a _ => [a]
  | .bbcom b a _ => [a, b]
  | .bbacq a _ => [a]
  | .bbrel b a _ => [a, b]
  | .bbqry a _ => [a]
  | .msnd b a _ => [a, b]
  | .skw c b a _ => [a, b, c]
  | .skr c b a _ => [a, b, c]
  | .skre c b a _ => [a, b, c]
  | .skbind b a _ => [a, b]
  | .skflr b a _ => [a, b]
  | .skqry _ a _ => [a]
  | .skunb b a _ => [a, b]
  | .shtl _ _ a _ => [a]
  | .mcst b a _ => [a, b]
  | .pubv b a _ => [a, b]
  | .subv _ a _ => [a]
  | .ared _ b a _ => [a, b]
  | .shtr a _ => [a]
  | .lreq a _ => [a]
  | .lrel b a _ => [a, b]
  | .lqry _ a _ => [a]
  | .csrw _ a _ => [a]
  | .csrs _ a _ => [a]
  | .csrc _ a _ => [a]
  | .trap a => [a]
  | .sleep a _ => [a]
  | .wake a _ => [a]
  | .nest a _ => [a]
  | .iter _ a => [a]
  | .rdstep _ a _ => [a]
  | .launch b a _ => [a, b]
  | .tokw a _ => [a]
  | .toks b a _ => [a, b]
  | .tokq a _ => [a]
  | .toke a _ => [a]
  | .segw _ _ a _ => [a]
  | .segn _ b a _ => [a, b]
  | .splk b a _ => [a, b]
  | .spul a _ => [a]
  | .pinv b a _ => [a, b]
  | .pprobe a _ => [a]
  | .migr b a _ => [a, b]
  | .ctxhalt b a _ => [a, b]
  | .ctxsave b a _ => [a, b]
  | .ctxrest b a _ => [a, b]
  | _ => []

/-- The g registers an instruction writes. -/
def gWrites : Instr → List Reg
  | .add _ _ _ d => [d]
  | .sub _ _ _ d => [d]
  | .and _ _ _ d => [d]
  | .or _ _ _ d => [d]
  | .xor _ _ _ d => [d]
  | .andn _ _ _ d => [d]
  | .orn _ _ _ d => [d]
  | .xnor _ _ _ d => [d]
  | .shl _ _ _ d => [d]
  | .shr _ _ _ d => [d]
  | .shra _ _ _ d => [d]
  | .rol _ _ _ d => [d]
  | .ror _ _ _ d => [d]
  | .slt _ _ _ d => [d]
  | .sltu _ _ _ d => [d]
  | .min _ _ _ d => [d]
  | .max _ _ _ d => [d]
  | .minu _ _ _ d => [d]
  | .maxu _ _ _ d => [d]
  | .mul _ _ _ d => [d]
  | .hmul _ _ _ d => [d]
  | .hmulu _ _ _ d => [d]
  | .hmulm _ _ _ d => [d]
  | .div _ _ _ d => [d]
  | .divu _ _ _ d => [d]
  | .rem _ _ _ d => [d]
  | .remu _ _ _ d => [d]
  | .clz _ _ d => [d]
  | .ctz _ _ d => [d]
  | .popc _ _ d => [d]
  | .brev _ _ d => [d]
  | .bswap _ _ d => [d]
  | .sext _ _ d => [d]
  | .zext _ _ d => [d]
  | .bfx _ _ _ d => [d]
  | .bfi _ _ _ d => [d]
  | .csel _ _ _ d => [d]
  | .madd _ _ _ _ d => [d]
  | .msub _ _ _ _ d => [d]
  | .addi _ _ d => [d]
  | .andi _ _ d => [d]
  | .ori _ _ d => [d]
  | .xori _ _ d => [d]
  | .shli _ _ d => [d]
  | .shri _ _ d => [d]
  | .shrai _ _ d => [d]
  | .slti _ _ d => [d]
  | .sltiu _ _ d => [d]
  | .ldh _ d => [d]
  | .addpc _ d => [d]
  | .jal _ d => [d]
  | .jalr _ _ d => [d]
  | .lb _ _ d => [d]
  | .lh _ _ d => [d]
  | .lw _ _ d => [d]
  | .ld _ _ d => [d]
  | .lbu _ _ d => [d]
  | .lhu _ _ d => [d]
  | .lwu _ _ d => [d]
  | .lq _ _ d => [d, d + 1]
  | .ldc _ _ d => [d]
  | .ldaW _ _ d => [d]
  | .ldaD _ _ d => [d]
  | .ldaQ _ _ d => [d, d + 1]
  | .atomAddW _ _ _ _ d => [d]
  | .atomAndW _ _ _ _ d => [d]
  | .atomOrW _ _ _ _ d => [d]
  | .atomXorW _ _ _ _ d => [d]
  | .atomMinW _ _ _ _ d => [d]
  | .atomMaxW _ _ _ _ d => [d]
  | .atomMinuW _ _ _ _ d => [d]
  | .atomMaxuW _ _ _ _ d => [d]
  | .atomSwapW _ _ _ _ d => [d]
  | .atomAddD _ _ _ _ d => [d]
  | .atomAndD _ _ _ _ d => [d]
  | .atomOrD _ _ _ _ d => [d]
  | .atomXorD _ _ _ _ d => [d]
  | .atomMinD _ _ _ _ d => [d]
  | .atomMaxD _ _ _ _ d => [d]
  | .atomMinuD _ _ _ _ d => [d]
  | .atomMaxuD _ _ _ _ d => [d]
  | .atomSwapD _ _ _ _ d => [d]
  | .fatomFadd _ _ _ _ _ d => [d]
  | .fatomFmin _ _ _ _ _ d => [d]
  | .fatomFmax _ _ _ _ _ d => [d]
  | .fatompFadd _ _ _ _ _ d => [d]
  | .fatompFmin _ _ _ _ _ d => [d]
  | .fatompFmax _ _ _ _ _ d => [d]
  | .casW _ _ _ _ d => [d]
  | .casD _ _ _ _ d => [d]
  | .casQ _ _ _ _ d => [d, d + 1]
  | .fence _ d => [d]
  | .feq _ _ _ d => [d]
  | .flt _ _ _ d => [d]
  | .fle _ _ _ d => [d]
  | .fkind _ _ d => [d]
  | .ftog _ d => [d]
  | .ftogh _ d => [d]
  | .qrng _ _ d => [d]
  | .rsemp _ _ d => [d]
  | .sen _ _ d => [d]
  | .sdrain _ d => [d]
  | .sstat _ d => [d]
  | .qrg _ d => [d]
  | .qcnt _ d => [d]
  | .mjobAcc _ _ a _ _ _ _ => [a]
  | .mjobOvr _ _ a _ _ _ _ => [a]
  | .mldb _ c _ _ _ => [c]
  | .mzero c _ => [c]
  | .mrd c _ _ _ => [c]
  | .mstat _ d => [d]
  | .cpyMem _ _ _ d _ _ _ _ => [d]
  | .cpyBob _ _ _ d _ _ _ _ => [d]
  | .cpyCim _ _ _ d _ _ _ _ => [d]
  | .ewait _ d => [d]
  | .ecancel _ d => [d]
  | .reedArr _ d => [d]
  | .reedWait _ _ d => [d]
  | .reedSync _ d => [d]
  | .reedQry _ _ d => [d]
  | .lde _ _ d => [d]
  | .ldf _ _ d => [d]
  | .tagr _ _ d => [d]
  | .bbinit _ _ d => [d]
  | .bbres _ d => [d]
  | .bbcom _ _ d => [d]
  | .bbacq _ d => [d]
  | .bbrel _ _ d => [d]
  | .bbqry _ d => [d]
  | .msnd _ _ d => [d]
  | .mrcv d => [d, d + 1]
  | .mpoll d => [d]
  | .skw _ _ _ d => [d]
  | .skr _ _ _ d => [d]
  | .skbind _ _ d => [d]
  | .skflr _ _ d => [d]
  | .skqry _ _ d => [d]
  | .skunb _ _ d => [d]
  | .shtl _ _ _ d => [d]
  | .mcst _ _ d => [d]
  | .pubv _ _ d => [d]
  | .subv _ _ d => [d]
  | .ared _ _ _ d => [d]
  | .shtr _ d => [d]
  | .lreq _ d => [d]
  | .lrel _ _ d => [d]
  | .lqry _ _ d => [d]
  | .csrr _ d => [d]
  | .csrw _ _ d => [d]
  | .csrs _ _ d => [d]
  | .csrc _ _ d => [d]
  | .sleep _ d => [d]
  | .wake _ d => [d]
  | .twin d => [d]
  | .untwin d => [d]
  | .follow d => [d]
  | .detach d => [d]
  | .join d => [d]
  | .nest _ d => [d]
  | .rdcyc d => [d]
  | .rdtim d => [d]
  | .rdstep _ _ d => [d]
  | .launch _ _ d => [d]
  | .tokw _ d => [d]
  | .toks _ _ d => [d]
  | .tokq _ d => [d]
  | .toke _ d => [d]
  | .segr _ _ d => [d]
  | .segw _ _ _ d => [d]
  | .segn _ _ _ d => [d]
  | .splk _ _ d => [d]
  | .spul _ d => [d]
  | .pinv _ _ d => [d]
  | .pprobe _ d => [d]
  | .migr _ _ d => [d]
  | .ctxhalt _ _ d => [d]
  | .ctxsave _ _ d => [d]
  | .ctxrest _ _ d => [d]
  | _ => []

/-- The f registers an instruction reads. -/
def fReads : Instr → List Reg
  | .fadd _ b a _ => [a, b]
  | .fsub _ b a _ => [a, b]
  | .fmul _ b a _ => [a, b]
  | .fdiv _ b a _ => [a, b]
  | .fsqrt _ a _ => [a]
  | .fmin _ b a _ => [a, b]
  | .fmax _ b a _ => [a, b]
  | .fcpys _ b a _ => [a, b]
  | .fcpyns _ b a _ => [a, b]
  | .fxors _ b a _ => [a, b]
  | .feq _ b a _ => [a, b]
  | .flt _ b a _ => [a, b]
  | .fle _ b a _ => [a, b]
  | .fkind _ a _ => [a]
  | .fmadd _ c b a _ => [a, b, c]
  | .fmsub _ c b a _ => [a, b, c]
  | .fnmadd _ c b a _ => [a, b, c]
  | .fnmsub _ c b a _ => [a, b, c]
  | .fcvt _ _ _ a _ => [a]
  | .ftog a _ => [a]
  | .ftogh a _ => [a]
  | .shuf _ _ a _ => [a]
  | .fsq _ b _ => [b]
  | .qadd _ b a _ => [a, b]
  | .qsub _ b a _ => [a, b]
  | .qmul _ b a _ => [a, b]
  | .qshr _ _ a _ => [a]
  | .qsat a _ => [a]
  | .qrng _ a _ => [a]
  | .qabs _ a _ => [a]
  | .rsadd _ b a _ => [a, b]
  | .rssub _ b a _ => [a, b]
  | .rsmul _ b a _ => [a, b]
  | .rsdiv _ b a _ => [a, b]
  | .rsneg _ a _ => [a]
  | .rsrec _ a _ => [a]
  | .rssqr _ a _ => [a]
  | .rssqrt _ a _ => [a]
  | .rsuni _ b a _ => [a, b]
  | .rsint _ b a _ => [a, b]
  | .rsfrom _ b a _ => [a, b]
  | .rslo _ a _ => [a]
  | .rshi _ a _ => [a]
  | .rspack b a _ => [a, b]
  | .rsunpk _ a _ => [a]
  | .rsemp _ a _ => [a]
  | .fexp2 _ a _ => [a]
  | .flog2 _ a _ => [a]
  | .frcp _ a _ => [a]
  | .frsq _ a _ => [a]
  | .fsinpi _ a _ => [a]
  | .fcospi _ a _ => [a]
  | .ftanh _ a _ => [a]
  | .ferf _ a _ => [a]
  | .fsigm _ a _ => [a]
  | .qwf _ a => [a]
  | _ => []

/-- The f registers an instruction writes. -/
def fWrites : Instr → List Reg
  | .fadd _ _ _ d => [d]
  | .fsub _ _ _ d => [d]
  | .fmul _ _ _ d => [d]
  | .fdiv _ _ _ d => [d]
  | .fsqrt _ _ d => [d]
  | .fmin _ _ _ d => [d]
  | .fmax _ _ _ d => [d]
  | .fcpys _ _ _ d => [d]
  | .fcpyns _ _ _ d => [d]
  | .fxors _ _ _ d => [d]
  | .fmadd _ _ _ _ d => [d]
  | .fmsub _ _ _ _ d => [d]
  | .fnmadd _ _ _ _ d => [d]
  | .fnmsub _ _ _ _ d => [d]
  | .fcvt _ _ _ _ d => [d]
  | .gtof _ _ d => [d]
  | .splat _ _ d => [d]
  | .shuf _ _ _ d => [d]
  | .flq _ _ d => [d]
  | .qadd _ _ _ d => [d]
  | .qsub _ _ _ d => [d]
  | .qmul _ _ _ d => [d]
  | .qshr _ _ _ d => [d]
  | .qsat _ d => [d]
  | .qabs _ _ d => [d]
  | .rsadd _ _ _ d => [d]
  | .rssub _ _ _ d => [d]
  | .rsmul _ _ _ d => [d]
  | .rsdiv _ _ _ d => [d]
  | .rsneg _ _ d => [d]
  | .rsrec _ _ d => [d]
  | .rssqr _ _ d => [d]
  | .rssqrt _ _ d => [d]
  | .rsuni _ _ _ d => [d]
  | .rsint _ _ _ d => [d]
  | .rsfrom _ _ _ d => [d]
  | .rslo _ _ d => [d]
  | .rshi _ _ d => [d]
  | .rspack _ _ d => [d]
  | .rsunpk _ _ d => [d]
  | .fexp2 _ _ d => [d]
  | .flog2 _ _ d => [d]
  | .frcp _ _ d => [d]
  | .frsq _ _ d => [d]
  | .fsinpi _ _ d => [d]
  | .fcospi _ _ d => [d]
  | .ftanh _ _ d => [d]
  | .ferf _ _ d => [d]
  | .fsigm _ _ d => [d]
  | .qrf _ d => [d]
  | .skre _ _ _ d => [d]
  | _ => []

/-- How a pair performs an instruction (R67). -/
inductive TwinClass where
  /-- each twin on its own registers -/
  | own
  /-- the leader's values reach the trailer through the load-value queue -/
  | value
  /-- compared, then performed once by the leader -/
  | once
  /-- through the store comparator -/
  | store
deriving DecidableEq, Repr

/-- The class of an instruction. -/
def twinClass : Instr → TwinClass
  | .lb _ _ _ => .value
  | .lh _ _ _ => .value
  | .lw _ _ _ => .value
  | .ld _ _ _ => .value
  | .lbu _ _ _ => .value
  | .lhu _ _ _ => .value
  | .lwu _ _ _ => .value
  | .lq _ _ _ => .value
  | .ldc _ _ _ => .value
  | .ldaW _ _ _ => .once
  | .ldaD _ _ _ => .once
  | .ldaQ _ _ _ => .once
  | .sb _ _ _ => .store
  | .sh _ _ _ => .store
  | .sw _ _ _ => .store
  | .sd _ _ _ => .store
  | .sq _ _ _ => .store
  | .snib _ _ _ => .store
  | .strlW _ _ _ => .once
  | .strlD _ _ _ => .once
  | .strlQ _ _ _ => .once
  | .atomAddW _ _ _ _ _ => .once
  | .atomAndW _ _ _ _ _ => .once
  | .atomOrW _ _ _ _ _ => .once
  | .atomXorW _ _ _ _ _ => .once
  | .atomMinW _ _ _ _ _ => .once
  | .atomMaxW _ _ _ _ _ => .once
  | .atomMinuW _ _ _ _ _ => .once
  | .atomMaxuW _ _ _ _ _ => .once
  | .atomSwapW _ _ _ _ _ => .once
  | .atomAddD _ _ _ _ _ => .once
  | .atomAndD _ _ _ _ _ => .once
  | .atomOrD _ _ _ _ _ => .once
  | .atomXorD _ _ _ _ _ => .once
  | .atomMinD _ _ _ _ _ => .once
  | .atomMaxD _ _ _ _ _ => .once
  | .atomMinuD _ _ _ _ _ => .once
  | .atomMaxuD _ _ _ _ _ => .once
  | .atomSwapD _ _ _ _ _ => .once
  | .fatomFadd _ _ _ _ _ _ => .once
  | .fatomFmin _ _ _ _ _ _ => .once
  | .fatomFmax _ _ _ _ _ _ => .once
  | .fatompFadd _ _ _ _ _ _ => .once
  | .fatompFmin _ _ _ _ _ _ => .once
  | .fatompFmax _ _ _ _ _ _ => .once
  | .casW _ _ _ _ _ => .once
  | .casD _ _ _ _ _ => .once
  | .casQ _ _ _ _ _ => .once
  | .wbr _ _ _ => .once
  | .invr _ _ _ => .once
  | .disc _ _ _ => .once
  | .pref _ _ _ => .once
  | .cinv => .once
  | .fence _ _ => .once
  | .rel _ => .once
  | .acq _ => .once
  | .flq _ _ _ => .value
  | .fsq _ _ _ => .store
  | .rsldt _ => .once
  | .rsldg _ => .once
  | .mjobAcc _ _ _ _ _ _ _ => .once
  | .mjobOvr _ _ _ _ _ _ _ => .once
  | .mldb _ _ _ _ _ => .once
  | .mzero _ _ => .once
  | .mrd _ _ _ _ => .once
  | .mstat _ _ => .value
  | .cpyMem _ _ _ _ _ _ _ _ => .once
  | .cpyBob _ _ _ _ _ _ _ _ => .once
  | .cpyCim _ _ _ _ _ _ _ _ => .once
  | .ewait _ _ => .value
  | .efence _ => .once
  | .ecancel _ _ => .once
  | .reedArr _ _ => .once
  | .reedWait _ _ _ => .once
  | .reedSync _ _ => .once
  | .reedQry _ _ _ => .value
  | .lde _ _ _ => .once
  | .ldf _ _ _ => .once
  | .stf _ _ _ => .once
  | .ste _ _ _ => .once
  | .tagi _ _ _ => .once
  | .tagr _ _ _ => .once
  | .bbinit _ _ _ => .once
  | .bbres _ _ => .once
  | .bbcom _ _ _ => .once
  | .bbacq _ _ => .once
  | .bbrel _ _ _ => .once
  | .bbqry _ _ => .value
  | .msnd _ _ _ => .once
  | .mrcv _ => .once
  | .mpoll _ => .value
  | .skw _ _ _ _ => .once
  | .skr _ _ _ _ => .once
  | .skre _ _ _ _ => .once
  | .skbind _ _ _ => .once
  | .skflr _ _ _ => .once
  | .skqry _ _ _ => .once
  | .skunb _ _ _ => .once
  | .shtl _ _ _ _ => .once
  | .mcst _ _ _ => .once
  | .pubv _ _ _ => .once
  | .subv _ _ _ => .value
  | .ared _ _ _ _ => .once
  | .shtr _ _ => .once
  | .lreq _ _ => .once
  | .lrel _ _ _ => .once
  | .lqry _ _ _ => .value
  | .csrr _ _ => .value
  | .csrw _ _ _ => .once
  | .csrs _ _ _ => .once
  | .csrc _ _ _ => .once
  | .sleep _ _ => .once
  | .wake _ _ => .once
  | .kexit => .once
  | .untwin _ => .once
  | .nest _ _ => .once
  | .iter _ _ => .once
  | .rdcyc _ => .value
  | .rdtim _ => .value
  | .rdstep _ _ _ => .value
  | .launch _ _ _ => .once
  | .tokw _ _ => .once
  | .toks _ _ _ => .once
  | .tokq _ _ => .value
  | .toke _ _ => .once
  | .segr _ _ _ => .value
  | .segw _ _ _ _ => .once
  | .segn _ _ _ _ => .once
  | .splk _ _ _ => .once
  | .spul _ _ => .once
  | .pinv _ _ _ => .once
  | .pprobe _ _ => .value
  | .migr _ _ _ => .once
  | .ctxhalt _ _ _ => .once
  | .ctxsave _ _ _ => .once
  | .ctxrest _ _ _ => .once
  | _ => .own

/-- The mode a CSR number needs: 0 U, 1 F, 2 M (R38). -/
def csrMode (n : BitVec 12) : Nat := if n.ult 0x100 then 0 else if n.ult 0x200 then 1 else 2

/-- The least privileged mode that may execute an instruction (R38). -/
def modeNeeded : Instr → Nat
  | .csrr n _ | .csrw n _ _ | .csrs n _ _ | .csrc n _ _ => csrMode n
  | .eret | .kill | .segw _ _ _ _ | .pinv _ _ _ | .migr _ _ _ | .ctxhalt _ _ _ | .ctxsave _ _ _ | .ctxrest _ _ _ => 1
  | _ => 0

end

end Sys2Proof.Machine
end

