-- ==== Sys2Proof/Machine/Stream.lean ====
section
/-! DEFINITION. The stream pipe (R127, R135-R167): the meanings of quadrant 1 apart from FLQ and FSQ, the sequencer's
entries, prefetches, the special-function unit and the normaliser. -/

namespace Sys2Proof.Machine

noncomputable section

/-! ## Pure operations -/

/-- The thread's run holds quadrant-1 instructions at issue (R151). -/
def runFree (s : State) : Except Stop Unit := if s.me.run.isSome then .error .hold else .ok ()

/-- Perform an operation for a thread: sources, destination, flags, stream positions; whether a subnormal was served. -/
def fApply (o : FOp) (s : State) (key : Nat) : Except Stop (State × Bool) := do
  let (s1, ps) ← readFs s key o.srcs
  let r := o.comp (s.thread key) (s.arch (coreOf key)) ps
  match r.trap with
  | some (c, v) => .error (.trap c v)
  | none =>
    let s2 ← match r.f with
      | some (d, v) => writeF s1 key d v
      | none => .ok s1
    let s3 := stepStreams s2 key o.srcs
    let t := s3.thread key
    let t1 := match r.g with
      | some (d, v) => t.wg d v
      | none => t
    return (s3.setThread key { t1 with fcsr := orFlags t1.fcsr r.flags }, r.sub)

/-- A subnormal is served: six forfeited turns, and a request in the cluster's normaliser (R127). -/
def noteSub (s : State) (key : Nat) (sub : Bool) : State :=
  if sub then
    let t := s.thread key
    let clu := clusterOf (coreOf key)
    let s1 := s.setThread key { t with forfeit := 6 }
    let c := s1.cluster clu
    s1.setCluster clu { c with normq := c.normq ++ [(s.cyc (coreOf key), key)] }
  else s

/-- A quadrant-1 instruction of the integer stream. -/
def fBody (o : FOp) (s : State) : Except Stop State := do
  runFree s
  let (s1, sub) ← fApply o s s.cur
  return noteSub (s1.finish s1.me o.lat) s.cur sub

def execFadd (t : BitVec 4) (b a d : Reg) (s : State) : Out := run (.fadd t b a d) s (fBody (opFadd t b a d) s)
def execFsub (t : BitVec 4) (b a d : Reg) (s : State) : Out := run (.fsub t b a d) s (fBody (opFsub t b a d) s)
def execFmul (t : BitVec 4) (b a d : Reg) (s : State) : Out := run (.fmul t b a d) s (fBody (opFmul t b a d) s)
def execFdiv (t : BitVec 4) (b a d : Reg) (s : State) : Out := run (.fdiv t b a d) s (fBody (opFdiv t b a d) s)
def execFsqrt (t : BitVec 4) (a d : Reg) (s : State) : Out := run (.fsqrt t a d) s (fBody (opFsqrt t a d) s)
def execFmin (t : BitVec 4) (b a d : Reg) (s : State) : Out := run (.fmin t b a d) s (fBody (opFmin t b a d) s)
def execFmax (t : BitVec 4) (b a d : Reg) (s : State) : Out := run (.fmax t b a d) s (fBody (opFmax t b a d) s)
def execFcpys (t : BitVec 4) (b a d : Reg) (s : State) : Out := run (.fcpys t b a d) s (fBody (opFcpys t b a d) s)
def execFcpyns (t : BitVec 4) (b a d : Reg) (s : State) : Out := run (.fcpyns t b a d) s (fBody (opFcpyns t b a d) s)
def execFxors (t : BitVec 4) (b a d : Reg) (s : State) : Out := run (.fxors t b a d) s (fBody (opFxors t b a d) s)
def execFeq (t : BitVec 4) (b a d : Reg) (s : State) : Out := run (.feq t b a d) s (fBody (opFeq t b a d) s)
def execFlt (t : BitVec 4) (b a d : Reg) (s : State) : Out := run (.flt t b a d) s (fBody (opFlt t b a d) s)
def execFle (t : BitVec 4) (b a d : Reg) (s : State) : Out := run (.fle t b a d) s (fBody (opFle t b a d) s)
def execFkind (t : BitVec 4) (a d : Reg) (s : State) : Out := run (.fkind t a d) s (fBody (opFkind t a d) s)
def execFmadd (t : BitVec 4) (c b a d : Reg) (s : State) : Out := run (.fmadd t c b a d) s (fBody (opFmadd t c b a d) s)
def execFmsub (t : BitVec 4) (c b a d : Reg) (s : State) : Out := run (.fmsub t c b a d) s (fBody (opFmsub t c b a d) s)
def execFnmadd (t : BitVec 4) (c b a d : Reg) (s : State) : Out := run (.fnmadd t c b a d) s (fBody (opFnmadd t c b a d) s)
def execFnmsub (t : BitVec 4) (c b a d : Reg) (s : State) : Out := run (.fnmsub t c b a d) s (fBody (opFnmsub t c b a d) s)
def execFcvt (u t : BitVec 4) (b a d : Reg) (s : State) : Out := run (.fcvt u t b a d) s (fBody (opFcvt u t b a d) s)
def execFtog (a d : Reg) (s : State) : Out := run (.ftog a d) s (fBody (opFtog a d) s)
def execFtogh (a d : Reg) (s : State) : Out := run (.ftogh a d) s (fBody (opFtogh a d) s)
def execGtof (b a d : Reg) (s : State) : Out := run (.gtof b a d) s (fBody (opGtof b a d) s)
def execSplat (t : BitVec 4) (a d : Reg) (s : State) : Out := run (.splat t a d) s (fBody (opSplat t a d) s)
def execShuf (t : BitVec 4) (b a d : Reg) (s : State) : Out := run (.shuf t b a d) s (fBody (opShuf t b a d) s)
def execQadd (t : BitVec 4) (b a d : Reg) (s : State) : Out := run (.qadd t b a d) s (fBody (opQadd t b a d) s)
def execQsub (t : BitVec 4) (b a d : Reg) (s : State) : Out := run (.qsub t b a d) s (fBody (opQsub t b a d) s)
def execQmul (t : BitVec 4) (b a d : Reg) (s : State) : Out := run (.qmul t b a d) s (fBody (opQmul t b a d) s)
def execQshr (t : BitVec 4) (b a d : Reg) (s : State) : Out := run (.qshr t b a d) s (fBody (opQshr t b a d) s)
def execQsat (a d : Reg) (s : State) : Out := run (.qsat a d) s (fBody (opQsat a d) s)
def execQrng (t : BitVec 4) (a d : Reg) (s : State) : Out := run (.qrng t a d) s (fBody (opQrng t a d) s)
def execQabs (t : BitVec 4) (a d : Reg) (s : State) : Out := run (.qabs t a d) s (fBody (opQabs t a d) s)
def execRsadd (l : BitVec 1) (b a d : Reg) (s : State) : Out := run (.rsadd l b a d) s (fBody (opRsadd l b a d) s)
def execRssub (l : BitVec 1) (b a d : Reg) (s : State) : Out := run (.rssub l b a d) s (fBody (opRssub l b a d) s)
def execRsmul (l : BitVec 1) (b a d : Reg) (s : State) : Out := run (.rsmul l b a d) s (fBody (opRsmul l b a d) s)
def execRsdiv (l : BitVec 1) (b a d : Reg) (s : State) : Out := run (.rsdiv l b a d) s (fBody (opRsdiv l b a d) s)
def execRsneg (l : BitVec 1) (a d : Reg) (s : State) : Out := run (.rsneg l a d) s (fBody (opRsneg l a d) s)
def execRsrec (l : BitVec 1) (a d : Reg) (s : State) : Out := run (.rsrec l a d) s (fBody (opRsrec l a d) s)
def execRssqr (l : BitVec 1) (a d : Reg) (s : State) : Out := run (.rssqr l a d) s (fBody (opRssqr l a d) s)
def execRssqrt (l : BitVec 1) (a d : Reg) (s : State) : Out := run (.rssqrt l a d) s (fBody (opRssqrt l a d) s)
def execRsuni (l : BitVec 1) (b a d : Reg) (s : State) : Out := run (.rsuni l b a d) s (fBody (opRsuni l b a d) s)
def execRsint (l : BitVec 1) (b a d : Reg) (s : State) : Out := run (.rsint l b a d) s (fBody (opRsint l b a d) s)
def execRsfrom (l : BitVec 1) (b a d : Reg) (s : State) : Out := run (.rsfrom l b a d) s (fBody (opRsfrom l b a d) s)
def execRslo (l : BitVec 1) (a d : Reg) (s : State) : Out := run (.rslo l a d) s (fBody (opRslo l a d) s)
def execRshi (l : BitVec 1) (a d : Reg) (s : State) : Out := run (.rshi l a d) s (fBody (opRshi l a d) s)
def execRspack (b a d : Reg) (s : State) : Out := run (.rspack b a d) s (fBody (opRspack b a d) s)
def execRsunpk (b a d : Reg) (s : State) : Out := run (.rsunpk b a d) s (fBody (opRsunpk b a d) s)
def execRsemp (l : BitVec 1) (a d : Reg) (s : State) : Out := run (.rsemp l a d) s (fBody (opRsemp l a d) s)

/-! ## Loads of the ring and its tables (R121, R122, R164) -/

/-- The ring of an image, if it is valid (R121). -/
def ringOf (bs : List Byte) : Option (List W32) :=
  let pt (k : Nat) : Nat := natOfBytes ((bs.drop (4 * k)).take 4)
  let val (k : Nat) : Fp := fpDecode f32 (pt k)
  let finite (k : Nat) : Bool := match val k with
    | .fin _ _ _ => true
    | _ => false
  if (List.range 7).all finite && (List.range 6).all (fun k => fpLt (val k) (val (k + 1))) && pt 7 == 0x7F800000 then
    some ((List.range 7).map (fun k => BitVec.ofNat 32 (pt k)))
  else none

/-- Resolve a range in 16-byte accesses. -/
def resolveRange (s : State) (key : Nat) (ea : W64) (kind o : Nat) : Nat → Nat → Except Stop (State × List Place)
  | 0, _ => .ok (s, [])
  | n + 1, i => do
    let (s, p) ← resolve s key (ea + BitVec.ofNat 64 (16 * i)) 16 .load kind (o + 16 * i)
    let (s, ps) ← resolveRange s key ea kind o n (i + 1)
    return (s, p :: ps)

/-- The checks of RSLDT and RSLDG, and the places of their bytes. -/
def tableRange (s : State) (key : Nat) (ea : W64) (n : Nat) : Except Stop (State × List Place) := do
  need (ea.extractLsb' 0 4 = 0) ALIGN ea
  let (kind, o) ← segCheck (s.thread key) ea n rightR
  resolveRange s key ea kind o (n / 16) 0

/-- Read the places of a range now: bytes and poison; held on a lock of another core's scratchpad (R65), or on a home that relocks. -/
def readPlaces (s : State) (key : Nat) : List Place → Except Stop (State × List Byte × Bool)
  | [] => .ok (s, [], false)
  | p :: ps => do
    if placeHeld s key p 16 then .error .hold
    let (s, bs, bad) ← bytesNow s key p 16
    let (s, bs', bad') ← readPlaces s key ps
    return (s, bs ++ bs', bad || bad')

/-- A load of `n` bytes ends at once, in 8 or 24 core cycles. -/
def placeLat (s : State) (key : Nat) (p : Place) : Option Nat :=
  let core := coreOf key
  match p with
  | .spad c _ => if c = core then some 8 else none
  | .window _ _ _ _ => some 8
  | .global dva pa leaf =>
    if leafCls leaf = 4 then none else (tryLoad s core (s.partOf core) dva 16 pa leaf []).map (fun r => r.2.2.2)
  | _ => none

/-- RSLDT and RSLDG at issue: checked, then in flight until the data has arrived (R122): the thread stays READY with its
instruction pending, or parks on a remote reply. -/
def tableBody (i : Instr) (ea : W64) (n : Nat) (s : State) : Except Stop State := do
  runFree s
  let key := s.cur
  let (s1, ps) ← tableRange s key ea n
  match ps.mapM (placeLat s1 key) with
  | some ls =>
    let (_, _, bad) ← readPlaces s1 key ps
    if bad then .error .poison
    let t := s1.me
    let w : Wait :=
      { kind := 0, eval := ea, deadline := none, remote := none, instr := i, taken := [], sent := true, aux := 0, reply := none }
    return s1.setMe { t with busy := some (s.doneAt (ls.foldl Nat.max 8)), wait := some w }
  | none =>
    .error (.park 0x01 ea (ps.any Place.external) []
      ((ps.take 1).flatMap (fun p => requestMsgs i s1 key p none)))

/-- The table or ring takes effect whole, for the core; an invalid ring image traps FORMAT with the address as EVAL. -/
def tableLoad (s : State) (key : Nat) (i : Instr) (bs : List Byte) : Except Stop State :=
  let a := s.arch (coreOf key)
  match i with
  | .rsldt _ =>
    .ok (s.setArch (coreOf key) { a with
      tables := some ((List.range 1088).map (fun k => BitVec.ofNat 16 (natOfBytes ((bs.drop (2 * k)).take 2)))) })
  | .rsldg r =>
    match ringOf bs with
    | some ring => .ok (s.setArch (coreOf key) { a with ring := ring })
    | none => .error (.trap FORMAT ((s.thread key).rg r))
  | _ => .ok s

/-- The data of a pending RSLDT or RSLDG arrives: read at its places now, or the bytes a peer or the host sent. -/
def tableArrive (s : State) (key : Nat) (i : Instr) (ext : Option (List Byte)) : Except Stop State := do
  let t := s.thread key
  let (ea, n) := match i with
    | .rsldt r => (t.rg r, 2176)
    | .rsldg r => (t.rg r, 32)
    | _ => (0, 0)
  match ext with
  | some bs => tableLoad s key i bs
  | none =>
    let (s, ps) ← tableRange s key ea n
    let (s, bs, bad) ← readPlaces s key ps
    if bad then .error .poison else tableLoad s key i bs

def execRsldt (a : Reg) (s : State) : Out := run (.rsldt a) s (tableBody (.rsldt a) (s.me.rg a) 2176 s)
def execRsldg (a : Reg) (s : State) : Out := run (.rsldg a) s (tableBody (.rsldg a) (s.me.rg a) 32 s)

/-! ## The special-function unit (R165) -/

/-- Requests enter the 32-entry queue as there is room, each taking the cluster's count as its number; a parked thread's
EVAL becomes it. -/
def sfuAdmit (s : State) (clu : Nat) : State :=
  let c := s.cluster clu
  let inside := (c.sfuq.filter (fun r => r.number.isSome && r.ready.isNone)).length
  if inside < 32 then
    match c.sfuq.find? (fun r => r.number.isNone) with
    | none => s
    | some r =>
      let n := c.sfuCount
      let s1 := s.setCluster clu { c with
        sfuCount := n + 1, sfuq := replaceFirst (fun r => r.number.isNone) (fun r => { r with number := some n }) c.sfuq }
      let key := keyOf r.core r.slot
      let t := s1.thread key
      if r.seq then
        match t.run with
        | some x => s1.setThread key { t with run := some { x with
            stall := x.stall.map (fun z => (z.1, n.setWidth 64, z.2.2)) } }
        | none => s1
      else
        match t.wait with
        | some w => s1.setThread key { t with wait := some { w with eval := n.setWidth 64 } }
        | none => s1
  else s

/-- A request is sent to the cluster's unit. -/
def sfuSend (s : State) (key : Nat) (seq : Bool) (i : Instr) (p : W128) : State :=
  let clu := clusterOf (coreOf key)
  let c := s.cluster clu
  let r : SfuRequest :=
    { core := coreOf key, slot := slotOf key, number := none, seq := seq, instr := i, pack := p, fcsr := (s.thread key).fcsr,
      ready := none }
  sfuAdmit (s.setCluster clu { c with sfuq := c.sfuq ++ [r] }) clu

/-- An SFU instruction of the integer stream: the thread parks on the return token. -/
def sfuBody (i : Instr) (a : Reg) (s : State) : Except Stop State := do
  runFree s
  let (s1, p) ← readF s s.cur a
  return sfuSend (parkMe s1 0x02 0 i) s.cur false i p

def execFexp2 (t : BitVec 4) (a d : Reg) (s : State) : Out := run (.fexp2 t a d) s (sfuBody (.fexp2 t a d) a s)
def execFlog2 (t : BitVec 4) (a d : Reg) (s : State) : Out := run (.flog2 t a d) s (sfuBody (.flog2 t a d) a s)
def execFrcp (t : BitVec 4) (a d : Reg) (s : State) : Out := run (.frcp t a d) s (sfuBody (.frcp t a d) a s)
def execFrsq (t : BitVec 4) (a d : Reg) (s : State) : Out := run (.frsq t a d) s (sfuBody (.frsq t a d) a s)
def execFsinpi (t : BitVec 4) (a d : Reg) (s : State) : Out := run (.fsinpi t a d) s (sfuBody (.fsinpi t a d) a s)
def execFcospi (t : BitVec 4) (a d : Reg) (s : State) : Out := run (.fcospi t a d) s (sfuBody (.fcospi t a d) a s)
def execFtanh (t : BitVec 4) (a d : Reg) (s : State) : Out := run (.ftanh t a d) s (sfuBody (.ftanh t a d) a s)
def execFerf (t : BitVec 4) (a d : Reg) (s : State) : Out := run (.ferf t a d) s (sfuBody (.ferf t a d) a s)
def execFsigm (t : BitVec 4) (a d : Reg) (s : State) : Out := run (.fsigm t a d) s (sfuBody (.fsigm t a d) a s)

/-! ## Stream control (R139-R148) -/

/-- Configuration of a stream: it must be OFF. -/
def configBody (n : BitVec 3) (f : Stream → Stream) (s : State) : Except Stop State := do
  runFree s
  let t := s.me
  let x := t.stream n.toNat
  need (x.state = .off) STREAM (n.setWidth 64)
  return s.finish (t.setStream n.toNat (f x)) 6

def execSbound (n : BitVec 3) (l : BitVec 2) (a : Reg) (s : State) : Out :=
  run (.sbound n l a) s (configBody n (fun x => { x with bound := tput x.bound l.toNat ((s.me.rg a).setWidth 32) }) s)
def execSstride (n : BitVec 3) (l : BitVec 2) (a : Reg) (s : State) : Out :=
  run (.sstride n l a) s (configBody n (fun x => { x with stride := tput x.stride l.toNat (s.me.rg a) }) s)
def execSbase (n : BitVec 3) (a : Reg) (s : State) : Out :=
  run (.sbase n a) s (configBody n (fun x => { x with base := s.me.rg a }) s)

/-- The configuration SEN would enable is valid (R143). -/
def senValid (x : Stream) (v : W64) : Bool :=
  let levels := (v.extractLsb' 1 2).toNat + 1
  v.extractLsb' 3 61 == 0 && x.base.extractLsb' 0 4 == 0 &&
    (List.range levels).all (fun l => (tget 0 x.stride l).toNat % 16 == 0 && tget 0 x.bound l != 0) &&
    decide ({ x with levels := levels }.total < 2 ^ 32)

/-- SEN (R142, R143). -/
def execSen (n : BitVec 3) (a d : Reg) (s : State) : Out :=
  run (.sen n a d) s (do
    runFree s
    let t := s.me
    let x := t.stream n.toNat
    let v := t.rg a
    if x.state ≠ .off then return s.finishG d 2 6
    else if senValid x v then
      let x' : Stream := { x with write := v.getLsbD 0, levels := (v.extractLsb' 1 2).toNat + 1, pos := 0, state := .active, packs := [] }
      return s.finish ((t.setStream n.toNat x').wg d 0) 6
    else return s.finishG d 1 6)

/-- SDIS: the stores of a write stream are accepted first (R142). -/
def execSdis (n : BitVec 3) (s : State) : Out :=
  run (.sdis n) s (do
    runFree s
    let t := s.me
    let x := t.stream n.toNat
    if x.state = .off then return s.finish t 8
    else if streamStores s s.cur n.toNat then .error .hold
    else return s.finish ((t.setStream n.toNat { x with state := .off, packs := [] }).wf (24 + n.setWidth 5) 0) 8)

/-- SDRAIN. -/
def execSdrain (n : BitVec 3) (d : Reg) (s : State) : Out :=
  run (.sdrain n d) s (do
    runFree s
    let x := s.me.stream n.toNat
    if x.state = .off ∨ !x.write then return s.finishG d 1 8
    else if streamStores s s.cur n.toNat then .error .hold
    else return s.finishG d 0 8)

/-- The status word (R147). -/
def sstatWord (x : Stream) : W64 :=
  let rem := if x.state = .off then 0 else x.total - x.pos
  let cause := ((x.packs.find? (fun p => p.idx == x.pos)).map (·.cause)).getD 0
  let st : BitVec 3 := match x.state with
    | .off => 0
    | .active => 1
    | .done => 2
  BitVec.ofNat 32 rem ++ 0#16 ++ (if x.state = .active then cause else 0) ++ 0#2 ++ BitVec.ofNat 2 (x.levels - 1) ++
    BitVec.ofBool x.write ++ st

/-- SSTAT. -/
def execSstat (n : BitVec 3) (d : Reg) (s : State) : Out :=
  run (.sstat n d) s (do
    runFree s
    return s.finishG d (sstatWord (s.me.stream n.toNat)) 6)

/-! ## Queue registers (R155, R156) -/

/-- The integer stream parked on a queue register issues again when the other side moves it. -/
def qWake (s : State) (key n : Nat) : State :=
  match (s.thread key).wait with
  | some w => if (w.kind = 0x03 ∨ w.kind = 0x04) ∧ w.eval = BitVec.ofNat 64 n then answer s key Reply.again else s
  | none => s

def Thread.setQreg (t : Thread) (n : Nat) (l : List W128) : Thread := { t with q := tput t.q n l }

/-- Push a value, or wait for room (WKIND 0x04). -/
def qPush (s : State) (key n : Nat) (v : W128) : Except Stop State :=
  let t := s.thread key
  if 8 ≤ (t.qreg n).length then .error (.park 0x04 (BitVec.ofNat 64 n) false [] [])
  else .ok (qWake (s.setThread key (t.setQreg n (t.qreg n ++ [v]))) key n)

/-- Pop the oldest value, or wait for one (WKIND 0x03). -/
def qPop (s : State) (key n : Nat) : Except Stop (State × W128) :=
  let t := s.thread key
  match t.qreg n with
  | [] => .error (.park 0x03 (BitVec.ofNat 64 n) false [] [])
  | v :: r => .ok (qWake (s.setThread key (t.setQreg n r)) key n, v)

def execQwg (q : BitVec 5) (b a : Reg) (s : State) : Out :=
  run (.qwg q b a) s (do
    let s1 ← qPush s s.cur q.toNat (s.me.rg b ++ s.me.rg a)
    return s1.finish s1.me 6)

/-- QWF's effect. -/
def qwfBody (s : State) (key : Nat) (q : BitVec 5) (a : Reg) : Except Stop State := do
  let (s1, v) ← readF s key a
  let s2 ← qPush s1 key q.toNat v
  return stepStreams s2 key [a]

/-- QRF's effect. -/
def qrfBody (s : State) (key : Nat) (q : BitVec 5) (d : Reg) : Except Stop State := do
  let (s1, v) ← qPop s key q.toNat
  writeF s1 key d v

def execQwf (q : BitVec 5) (a : Reg) (s : State) : Out :=
  run (.qwf q a) s (do
    runFree s
    let s1 ← qwfBody s s.cur q a
    return s1.finish s1.me 6)
def execQrg (q : BitVec 5) (d : Reg) (s : State) : Out :=
  run (.qrg q d) s (do
    let (s1, v) ← qPop s s.cur q.toNat
    return s1.finishG d (v.extractLsb' 0 64) 6)
def execQrf (q : BitVec 5) (d : Reg) (s : State) : Out :=
  run (.qrf q d) s (do
    runFree s
    let s1 ← qrfBody s s.cur q d
    return s1.finish s1.me 6)
def execQcnt (q : BitVec 5) (d : Reg) (s : State) : Out :=
  run (.qcnt q d) s (.ok (s.finishG d (BitVec.ofNat 64 (s.me.qreg q.toNat).length) 6))

/-! ## The sequencer (R149-R154) -/

/-- Entries the core's runs hold; a trailer's are those its leader took for it (R150, R154). -/
def entriesUsed (s : State) (core : Nat) : Nat :=
  upTo 8 (fun n slot =>
    let t := s.thread (keyOf core slot)
    if t.twt then n + t.seqRes
    else match t.run with
    | some r => n + r.words.length
    | none => n) 0

/-- A leader's SEQ takes entries for its trailer's run as well (R154). -/
def reserveEntries (s : State) (len : Nat) : State :=
  if s.me.twl then
    let p := partnerOf s.cur
    let tr := s.thread p
    s.setThread p { tr with seqRes := tr.seqRes + len }
  else s

/-- A word that a run may hold, at its address. -/
def checkRunWord (w : W32) (pc : W64) : Except Stop Unit :=
  match decodeWord w 0 0 0 0 with
  | .ok i => need (runWord i) ILLOP pc
  | .error _ => .error (.trap ILLOP pc)

/-- Check the words of a run in order. -/
def checkRun : List W32 → W64 → Except Stop Unit
  | [], _ => .ok ()
  | w :: ws, pc => do
    checkRunWord w pc
    checkRun ws (pc + 4)

/-- SEQ (R150): n − 1 is its d field. -/
def execSeq (a : Reg) (n : BitVec 5) (s : State) : Out :=
  run (.seq a n) s (do
    runFree s
    let t := s.me
    let len := n.toNat + 1
    let c := t.rg a
    need (c.toNat < 2 ^ 32) STREAM c
    need (!(t.twl || t.twt) || decide (len ≤ 8)) STREAM c
    let (s1, ws) ← fetchWords s s.cur (t.pc + 4) len
    checkRun ws (t.pc + 4)
    let next := t.pc + 4 + BitVec.ofNat 64 (4 * len)
    if c = 0 then return s1.setMe (s1.me.goto next (s.doneAt 6))
    else if !t.twt ∧ 16 < entriesUsed s s.myCore + (if t.twl then 2 * len else len) then .error .hold
    else
      let r : Run :=
        { words := ws, count := c.toNat, entry := 0, iter := 0, flight := [], sfu := none, stall := none, held := false,
          after := tget [] t.efence 3 }
      let s2 := reserveEntries s1 len
      return s2.setMe { s2.me.goto next (s.doneAt 6) with run := some r, runSer := s2.me.runSer + 1 })

/-- The queue register an entry uses. -/
def queueOf : Instr → Option (BitVec 5)
  | .qwf q _ | .qrf q _ => some q
  | _ => none

/-- An entry depends on an earlier one through an f register, a stream or a queue register (R149). -/
def dependsOn (t : Thread) (i j : Instr) : Bool :=
  let uses (i : Instr) : List Reg := fReads i ++ fWrites i
  (uses i).any (fun r => (fWrites j).contains r || ((t.streamOf r).isSome && (uses j).contains r)) ||
    ((queueOf i).isSome && queueOf i == queueOf j)

/-- The entry depends on none of those that have not completed. -/
def entryFree (t : Thread) (r : Run) : Bool :=
  match decodeWord (r.words.getD r.entry 0) 0 0 0 0 with
  | .error _ => true
  | .ok i => r.flight.all (fun x => match decodeWord x.2 0 0 0 0 with
    | .ok j => !dependsOn t i j
    | .error _ => true)

/-- The next entry of a run may issue; one that waits for the special-function unit stalls the run (log 23). -/
def runReady (s : State) (key : Nat) : Option Run :=
  let t := s.thread key
  match t.run with
  | some r =>
    if decide (r.iter < r.count) && entryFree t r && r.sfu.isNone && !r.held && decide (t.forfeit = 0) && t.killed.isNone &&
        !ctxStopped s (coreOf key) && (s.core (coreOf key)).migrating.isNone && (s.die (dieOf (coreOf key))).relock.isNone &&
        (t.state = .ready || t.state = .parked || t.state = .dropped || t.state = .following) &&
        (r.entry ≠ 0 || r.iter ≠ 0 || r.after.all (barrierPassed s key)) then some r
    else none
  | none => none

/-- Set a thread's run. -/
def setRun (s : State) (key : Nat) (r : Option Run) : State := s.setThread key { s.thread key with run := r }

/-- The run moves past its entry. -/
def Run.advance (r : Run) : Run :=
  if r.entry + 1 < r.words.length then { r with entry := r.entry + 1 } else { r with entry := 0, iter := r.iter + 1 }

/-- A run ends when its last entry of iteration c − 1 completes; its entries are then free (R150). -/
def settleRun (s : State) (key : Nat) (r : Run) : State :=
  if r.count ≤ r.iter ∧ r.flight = [] then
    let t := s.thread key
    s.setThread key { t with run := none, seqRes := t.seqRes - r.words.length }
  else setRun s key (some r)

/-- The entry at the run's position has completed. -/
def runNext (s : State) (key : Nat) (r : Run) : State :=
  settleRun s key { r.advance with sfu := none, stall := none, held := false }

/-- The special-function request of a run is taken back (R56). -/
def withdrawRun (s : State) (key : Nat) : State :=
  let clu := clusterOf (coreOf key)
  let c := s.cluster clu
  s.setCluster clu { c with sfuq := c.sfuq.filter (fun r => !(r.core == coreOf key && r.slot == slotOf key && r.seq)) }

/-- A waiting instruction that a message will answer: a fault of the run leaves it in flight, its reply deferred (R62, R152). -/
def staysInFlight (w : Wait) : Bool := (w.kind == 0x01 || w.kind == 0x0B) && !w.walk

/-- The answer of the thread's wait is at its core, and its instruction is about to complete. -/
def replyDue (s : State) (key : Nat) : Bool := ((s.thread key).wait.bind (·.reply)).isSome

/-- A fault of an entry stops both streams (R152): an instruction whose answer has come completes first; one that a message will
answer stays in flight; any other wait is withdrawn, as a wait limit of the run withdraws every wait (R153). -/
def runTrap (s : State) (key : Nat) (r : Run) (cause : Byte) (eval : W64) (wkind : Byte) : State :=
  let t := s.thread key
  if twinLag s key || replyDue s key then s
  else
    let s1 := setRun (withdrawRun s key) key (some { r with flight := [], sfu := none, stall := none, held := false })
    let seq := some (r.entry, r.iter)
    match t.state, t.wait with
    | .parked, some w =>
      if cause ≠ WAITLIM ∧ staysInFlight w ∧ !t.twl ∧ !t.twt then
        let s2 := takeTrap s1 key cause (t.pc + 4) eval wkind seq
        s2.setThread key { s2.thread key with wait := some { w with at_ := some (w.at_.getD t.pc) } }
      else trapOut s1 key cause eval wkind seq
    | _, _ => trapOut s1 key cause eval wkind seq

/-- What becomes of a run whose entry did not have its effect. -/
def runStop (s : State) (key : Nat) (r : Run) (e : Stop) : State :=
  let core := coreOf key
  match e with
  | .trap c v => runTrap s key r c v 0
  | .hold | .walk _ _ => s
  | .poison => killThread s key POISON
  | .page dva k acc e =>
    joinRecord (setRun s key (some { r with held := true })) (dieOf core) (clusterOf core) (s.partOf core) dva k acc 2
      (.run core (slotOf key) e)
  | .ats page e =>
    askAts (setRun s key (some { r with held := true })) page (.run core (slotOf key) e)
  | .park kind v _ _ _ =>
    if (kind = 0x03 ∨ kind = 0x04) ∧ r.stall.isNone then
      setRun s key (some { r with stall := some (kind, v, deadlineOf s (s.thread key)) })
    else s

/-- The entry at the run's position issues (R149, R153): the state after it. -/
def entryRun (s : State) (key : Nat) (r : Run) : Except Stop State :=
  let w := r.words.getD r.entry 0
  let issued (s' : State) (lat : Nat) : State :=
    setRun s' key (some { r.advance with flight := r.flight ++ [(s.cyc (coreOf key) + lat, w)], stall := none })
  match decodeWord w 0 0 0 0 with
  | .error _ => .error .hold
  | .ok i =>
    match i with
    | .hint _ => .ok (issued s 6)
    | .qwf q a => do
      let s' ← qwfBody s key q a
      return issued s' 6
    | .qrf q d => do
      let s' ← qrfBody s key q d
      return issued s' 6
    | i =>
      match sfuOf i with
      | some x => do
        let (s', p) ← readF s key x.2.2.1
        return sfuSend (setRun s' key (some { r with sfu := some 0, stall := some (0x02, 0, deadlineOf s (s.thread key)) })) key true i p
      | none =>
        match fOpOf i with
        | some o => do
          let (s', sub) ← fApply o s key
          return noteSub (issued s' o.lat) key sub
        | none => .error .hold

/-- The core cycle in which the pipe can take a sequencer entry: the next it has not used, of the present and the last, once the
barrel has had its turn in it (R136, log 3). -/
def pipeCycle (s : State) (core : Nat) : Option Nat :=
  let c := s.core core
  let now := s.cyc core
  let x := match c.pipeAt with
    | some p => Nat.max (p + 1) (now - 1)
    | none => now
  let barrel := !coreCanIssue s core || (match c.issuedAt with
    | some y => decide (x ≤ y)
    | none => false)
  if x ≤ now && barrel then some x else none

/-- The slots before this one, in rotation from the slot whose entry was taken last, have no entry that can be taken (R149). -/
def entryTurn (s : State) (core slot : Nat) : Bool :=
  (((List.range 8).map (fun k => ((s.core core).seqLast + 1 + k) % 8)).takeWhile (· != slot)).all (fun j =>
    match runReady s (keyOf core j) with
    | some r => !(entryRun s (keyOf core j) r).isOk
    | none => true)

/-- SEQ_ENTRY_ISSUE: the pipe takes the next ready entry of the runs (R136, R149, R152). -/
def execSeqEntryIssue (core slot : Nat) (s : State) : Out :=
  let key := keyOf core slot
  match runReady s key with
  | none => .next s
  | some r =>
    match entryRun s key r, pipeCycle s core with
    | .error e, _ => .next (runStop s key r e)
    | .ok _, none => .next s
    | .ok s', some x =>
      if entryTurn s core slot then .next (s'.setCore core { s'.core core with pipeAt := some x, seqLast := slot }) else .next s

/-- The normaliser still serves a request of the thread (R127). -/
def normBusy (s : State) (key : Nat) : Bool := (s.cluster (clusterOf (coreOf key))).normq.any (fun r => r.2 == key)

/-- SEQ_ENTRY_COMPLETE: an entry in flight completes (R149). -/
def execSeqEntryComplete (core slot : Nat) (s : State) : Out :=
  let key := keyOf core slot
  match (s.thread key).run with
  | some r =>
    if r.flight.any (fun x => decide (x.1 ≤ s.cyc core)) && !normBusy s key then
      .next (settleRun s key { r with flight := removeAt r.flight ((r.flight.findIdx? (fun x => decide (x.1 ≤ s.cyc core))).getD 0) })
    else .next s
  | none => .next s

/-! ## Prefetch, special functions, normaliser -/

/-- STREAM_PREFETCH: the next pack within four of the position is loaded, or the fault it meets is held (R145); nothing is
prefetched while the context is halted or moves (R139, R328). -/
def execStreamPrefetch (core slot stream : Nat) (ext : ExtReply) (s : State) : Out :=
  let key := keyOf core slot
  let t := s.thread key
  let x := t.stream stream
  if x.state ≠ .active ∨ x.write ∨ t.killed.isSome ∨ ctxStopped s core ∨ (s.core core).migrating.isSome then .next s
  else
    match (List.range 4).map (x.pos + ·) |>.find? (fun i => decide (i < x.total) && !x.packs.any (fun p => p.idx == i)) with
    | none => .next s
    | some i =>
      let keep (s : State) (c : Byte) (v : W128) : State :=
        keepPack s key stream { idx := i, data := v, cause := c, addr := (x.addr i).1 }
      match packFetch s key x i ext with
      | .ok (s', v) => .next (keep s' 0 v)
      | .error (.trap c _) => .next (keep s c 0)
      | .error (.page dva k acc _) =>
        .next (joinRecord (keep s 0xFF 0) (dieOf core) (clusterOf core) (s.partOf core) dva k acc 2 (.stream core slot stream))
      | .error _ => .next s

/-- SFU_ACCEPT: the unit takes the oldest request, one per core cycle; its result is ready 24 cycles later (R165). -/
def execSfuAccept (clu : Nat) (s : State) : Out :=
  let c := s.cluster clu
  let cyc := (s.die (dieOfCluster clu)).cyc
  if c.sfuq.any (fun r => r.ready == some (cyc + 24)) then .next s
  else
    .next (sfuAdmit (s.setCluster clu { c with
      sfuq := replaceFirst (fun r => r.number.isSome && r.ready.isNone) (fun r => { r with ready := some (cyc + 24) }) c.sfuq }) clu)

/-- A finished request answers its thread, or completes the entry of its run; none where the result waits: for a TRAPPED thread
until ERET (R62), for room in the store queue, or for an instruction in flight that completes before the run's trap. -/
def sfuServe (s : State) (clu : Nat) (r : SfuRequest) : Option State :=
  let c := s.cluster clu
  let s1 := s.setCluster clu { c with sfuq := c.sfuq.erase r }
  let key := keyOf r.core r.slot
  match sfuOf r.instr with
  | none => some s1
  | some (op, t, a, d) =>
    let v := sfuPack op t r.fcsr r.pack
    if (s.thread key).state = .trapped then none
    else if r.seq then
      match (s1.thread key).run with
      | none => some s1
      | some x =>
        match writeF s1 key d v.1 with
        | .ok s2 =>
          let s3 := stepStreams s2 key [a]
          let th := s3.thread key
          some (runNext (s3.setThread key { th with fcsr := orFlags th.fcsr v.2 }) key x)
        | .error .hold | .error (.park _ _ _ _ _) | .error (.walk _ _) => none
        | .error (.trap c e) =>
          if twinLag s key || replyDue s key then none
          else some (runStop s1 key { x with sfu := none, stall := none } (.trap c e))
        | .error e => some (runStop s1 key { x with sfu := none, stall := none } e)
    else some (answer s1 key { Reply.plain with f := [(d, v.1)], csr := [(0x010, BitVec.ofNat 64 v.2)] })

/-- SFU_RESULT: the oldest finished request that can be delivered is (R165). -/
def execSfuResult (clu : Nat) (s : State) : Out :=
  let cyc := (s.die (dieOfCluster clu)).cyc
  let due (r : SfuRequest) : Bool := match r.ready with
    | some d => decide (d ≤ cyc)
    | none => false
  .next ((((s.cluster clu).sfuq.filter due).findSome? (sfuServe s clu)).getD s)

/-- The instruction or the run's entry that waits for the normaliser completes later (R127). -/
def lengthen (t : Thread) (n : Nat) : Thread :=
  match t.run with
  | some r =>
    (match r.flight.getLast? with
     | some x => { t with run := some { r with flight := r.flight.dropLast ++ [(x.1 + n, x.2)] } }
     | none => { t with busy := t.busy.map (· + n) })
  | none => { t with busy := t.busy.map (· + n) }

/-- NORMALISER_SERVICE: one request of a cluster is served in a core cycle, the oldest first; ties go to the lower core (R127).
The requests of a cycle are all in when it has passed. -/
def execNormaliserService (clu : Nat) (s : State) : Out :=
  let c := s.cluster clu
  match c.normq with
  | [] => .next s
  | r :: rs =>
    let first := rs.foldl (fun m x => if x.1 < m.1 ∨ (x.1 = m.1 ∧ x.2 < m.2) then x else m) r
    let turn := Nat.max first.1 c.normAt
    if (s.die (dieOfCluster clu)).cyc ≤ turn then .next s
    else
      let s1 := s.setCluster clu { c with normq := removeAt c.normq ((c.normq.findIdx? (· == first)).getD 0), normAt := turn + 1 }
      .next (s1.setThread first.2 (lengthen (s1.thread first.2) (turn - first.1)))

end

end Sys2Proof.Machine
end

