-- ==== Sys2Proof/Machine/Loads.lean ====
section
/-! DEFINITION. Loads (R196-R199, R208, R209), FLQ (R162), and load-acquires (R231). -/

namespace Sys2Proof.Machine

noncomputable section

/-! ## Plain loads -/

/-- A load as data: base register, offset, size, and what its bytes make of the destination. -/
structure LoadForm where
  base : Reg
  off : W64
  n : Nat
  reg : List Byte → List (Reg × W64)
  freg : List Byte → List (Reg × W128)

/-- Sext and Zext of the bytes read. -/
def bytesS (bs : List Byte) : W64 := (BitVec.ofNat (8 * bs.length) (natOfBytes bs)).signExtend 64
def bytesZ (bs : List Byte) : W64 := BitVec.ofNat 64 (natOfBytes bs)
/-- The two registers of a 16-byte load. -/
def pairRegs (d : Reg) (bs : List Byte) : List (Reg × W64) := [(d, bytesZ (bs.take 8)), (d + 1, bytesZ (bs.drop 8))]

def signedLoad (im : BitVec 14) (a d : Reg) (n : Nat) : LoadForm :=
  { base := a, off := sx im, n := n, reg := fun bs => [(d, bytesS bs)], freg := fun _ => [] }
def unsignedLoad (im : BitVec 14) (a d : Reg) (n : Nat) : LoadForm :=
  { base := a, off := sx im, n := n, reg := fun bs => [(d, bytesZ bs)], freg := fun _ => [] }

/-- The load an instruction is (R209, R162). -/
def loadOf : Instr → Option LoadForm
  | .lb im a d => some (signedLoad im a d 1)
  | .lh im a d => some (signedLoad im a d 2)
  | .lw im a d => some (signedLoad im a d 4)
  | .ld im a d => some (unsignedLoad im a d 8)
  | .lbu im a d => some (unsignedLoad im a d 1)
  | .lhu im a d => some (unsignedLoad im a d 2)
  | .lwu im a d => some (unsignedLoad im a d 4)
  | .lq im a d => some { base := a, off := sx im, n := 16, reg := pairRegs d, freg := fun _ => [] }
  | .flq im a d => some { base := a, off := sx im, n := 16, reg := fun _ => [], freg := fun bs => [(d, BitVec.ofNat 128 (natOfBytes bs))] }
  | _ => none

/-- Write the g results of a load. -/
def Thread.wgs (t : Thread) (l : List (Reg × W64)) : Thread := l.foldl (fun t x => t.wg x.1 x.2) t

/-- Write the f results of a load. -/
def writeFs (s : State) (key : Nat) : List (Reg × W128) → Except Stop State
  | [] => .ok s
  | x :: xs => do
    let s ← writeF s key x.1 x.2
    writeFs s key xs

/-- The body of a load. -/
def loadBody (i : Instr) (f : LoadForm) (s : State) : Except Stop State := do
  let ea ← effAddr (s.me.rg f.base) f.off
  let (s1, bs, lat) ← loadCheck i s s.cur ea f.n
  let s2 ← writeFs s1 s.cur (f.freg bs)
  return s2.finish (s2.me.wgs (f.reg bs)) lat

def execLb (im : BitVec 14) (a d : Reg) (s : State) : Out := run (.lb im a d) s (loadBody (.lb im a d) (signedLoad im a d 1) s)
def execLh (im : BitVec 14) (a d : Reg) (s : State) : Out := run (.lh im a d) s (loadBody (.lh im a d) (signedLoad im a d 2) s)
def execLw (im : BitVec 14) (a d : Reg) (s : State) : Out := run (.lw im a d) s (loadBody (.lw im a d) (signedLoad im a d 4) s)
def execLd (im : BitVec 14) (a d : Reg) (s : State) : Out := run (.ld im a d) s (loadBody (.ld im a d) (unsignedLoad im a d 8) s)
def execLbu (im : BitVec 14) (a d : Reg) (s : State) : Out := run (.lbu im a d) s (loadBody (.lbu im a d) (unsignedLoad im a d 1) s)
def execLhu (im : BitVec 14) (a d : Reg) (s : State) : Out := run (.lhu im a d) s (loadBody (.lhu im a d) (unsignedLoad im a d 2) s)
def execLwu (im : BitVec 14) (a d : Reg) (s : State) : Out := run (.lwu im a d) s (loadBody (.lwu im a d) (unsignedLoad im a d 4) s)
def execLq (im : BitVec 14) (a d : Reg) (s : State) : Out :=
  run (.lq im a d) s (loadBody (.lq im a d) { base := a, off := sx im, n := 16, reg := pairRegs d, freg := fun _ => [] } s)
def execFlq (im : BitVec 14) (a d : Reg) (s : State) : Out :=
  run (.flq im a d) s (do
    runFree s
    loadBody (.flq im a d)
      { base := a, off := sx im, n := 16, reg := fun _ => [], freg := fun bs => [(d, BitVec.ofNat 128 (natOfBytes bs))] } s)

/-! ## LDC (R208) -/

/-- The checks of LDC: alignment, right R, a global segment. -/
def ldcCheck (t : Thread) (ea : W64) : Except Stop Nat := do
  let (kind, o) ← accessCheck t ea 8 rightR
  need (kind = 1) SEGV ea
  return o

/-- Fill the line of the constant cache, which holds 16 KiB, from home and read it: bytes and poison. -/
def ldcFill (s : State) (core part dva pa : Nat) : State × W64 × Bool :=
  let h := homeLine s pa
  let c := s.core core
  let s1 := if h.2 then s else s.setCore core { c with cc := linePut 256 c.cc (lineKey part dva) h.1 }
  let r := homeRead s (clusterOf core) part dva pa 8
  (s1, bytesZ r.1, r.2)

/-- LDC: from the cache in 10 cycles, from a home in the own cluster in 24, else parked on the reply. -/
def execLdc (im : BitVec 14) (a d : Reg) (s : State) : Out :=
  run (.ldc im a d) s (do
    let core := s.myCore
    let part := s.partOf core
    let ea ← effAddr (s.me.rg a) (sx im)
    let dva ← ldcCheck s.me ea
    if acquirePending s s.cur then .error .hold
    match tfind (s.core core).cc (lineKey part dva) with
    | some l =>
      if dva % 64 ≤ 56 then return s.finishG d (bytesZ (lineBytes l (dva % 64) 8)) 10
      else
        let (s1, leaf, pa) ← translate s (clusterOf core) part dva accRead ea
        let r := ldcFill s1 core part dva pa
        if leafCls leaf = 4 then .error (.park 0x01 ea true [] (requestMsgs (.ldc im a d) s s.cur (.global dva pa leaf) none))
        else if r.2.2 then .error .poison
        else if homedIn s1 (clusterOf core) part dva pa leaf then return r.1.finishG d r.2.1 24
        else .error (.park 0x01 ea false [] [])
    | none =>
      let (s1, leaf, pa) ← translate s (clusterOf core) part dva accRead ea
      if leafCls leaf = 4 then .error (.park 0x01 ea true [] (requestMsgs (.ldc im a d) s s.cur (.global dva pa leaf) none))
      else if homedIn s1 (clusterOf core) part dva pa leaf then
        let r := ldcFill s1 core part dva pa
        if r.2.2 then .error .poison
        return r.1.finishG d r.2.1 24
      else .error (.park 0x01 ea false [] []))

/-! ## Load-acquire (R231) -/

/-- A load-acquire as data: address register, size, scope, result. -/
structure LdaForm where
  base : Reg
  n : Nat
  scope : Nat
  reg : List Byte → List (Reg × W64)

def ldaOf : Instr → Option LdaForm
  | .ldaW sc a d => some { base := a, n := 4, scope := sc.toNat, reg := fun bs => [(d, bytesS bs)] }
  | .ldaD sc a d => some { base := a, n := 8, scope := sc.toNat, reg := fun bs => [(d, bytesZ bs)] }
  | .ldaQ sc a d => some { base := a, n := 16, scope := sc.toNat, reg := pairRegs d }
  | _ => none

/-- A peer or host target needs SYS scope (R204, R235). -/
def sysOnly (kind scope : Nat) (ea : W64) : Except Stop Unit := need (kind ≤ 3 ∨ scope = 5) ACCESS ea

/-- The checks of a load-acquire, and its place. -/
def ldaPlace (s : State) (key : Nat) (f : LdaForm) : Except Stop (State × W64 × Place) := do
  let ea := (s.thread key).rg f.base
  let (kind, o) ← accessCheck (s.thread key) ea f.n rightR
  sysOnly kind f.scope ea
  let (s, p) ← resolve s key ea f.n .tag kind o
  return (s, ea, p)

/-- The read at a home slice for DIE scope or wider. It sees the thread's own earlier stores as the home has them (R231): HOME-ORDER
(R229) has no read at a home that comes before the thread's own store, so it waits until those to its bytes are accepted (DEDUCED,
log 100). -/
def ldaHome (s : State) (key : Nat) (f : LdaForm) (p : Place) : Except Stop (State × List Byte) :=
  match p with
  | .global dva pa leaf =>
    if !(ownPending s key p f.n).isEmpty || !recordsOpen s pa then .error .hold
    else
      let r := atGlobal s (coreOf key) (s.partOf (coreOf key)) dva pa leaf f.scope f.n true (fun _ => none)
      if r.2.2 then .error .poison else .ok (r.1, bytesOfNat f.n r.2.1)
  | _ => .ok (s, [])

/-- The body of a load-acquire: at THR and CORE as a load; at CLU past L1; wider at the home slice. -/
def ldaBody (i : Instr) (f : LdaForm) (s : State) : Except Stop State := do
  let (s1, ea, p) ← ldaPlace s s.cur f
  let ended (s : State) (bs : List Byte) (lat : Nat) : State := acquireAt (s.finish (s.me.wgs (f.reg bs)) lat) s.myCore f.scope
  match p with
  | .global dva pa leaf =>
    if f.scope < 2 ∨ leafCls leaf = 4 then
      if leafCls leaf = 4 ∧ 3 ≤ f.scope ∧ ownPending s1 s.cur p f.n ≠ [] then .error .hold
      let (s2, bs, lat) ← loadAt i s1 s.cur ea f.n p
      return ended s2 bs lat
    else if f.scope = 2 then
      let (s2, bs, lat) ← loadAt i (l1Drop s1 s.myCore (s.partOf s.myCore) dva) s.cur ea f.n p
      return ended s2 bs lat
    else
      if homedIn s1 (clusterOf s.myCore) (s.partOf s.myCore) dva pa leaf then
        let (s2, bs) ← ldaHome s1 s.cur f p
        return ended s2 bs 24
      else .error (.park 0x01 ea false [] [])
  | .peer _ _ | .host _ =>
    if !(ownPending s1 s.cur p f.n).isEmpty then .error .hold
    let (s2, bs, lat) ← loadAt i s1 s.cur ea f.n p
    return ended s2 bs lat
  | _ =>
    let (s2, bs, lat) ← loadAt i s1 s.cur ea f.n p
    return ended s2 bs lat

def execLdaW (sc : BitVec 3) (a d : Reg) (s : State) : Out :=
  run (.ldaW sc a d) s (ldaBody (.ldaW sc a d) { base := a, n := 4, scope := sc.toNat, reg := fun bs => [(d, bytesS bs)] } s)
def execLdaD (sc : BitVec 3) (a d : Reg) (s : State) : Out :=
  run (.ldaD sc a d) s (ldaBody (.ldaD sc a d) { base := a, n := 8, scope := sc.toNat, reg := fun bs => [(d, bytesZ bs)] } s)
def execLdaQ (sc : BitVec 3) (a d : Reg) (s : State) : Out :=
  run (.ldaQ sc a d) s (ldaBody (.ldaQ sc a d) { base := a, n := 16, scope := sc.toNat, reg := pairRegs d } s)

end

end Sys2Proof.Machine
end

