-- ==== Sys2Proof/Machine/Atomics.lean ====
section
/-! DEFINITION. Atomics (R204-R207, R213-R216). -/

namespace Sys2Proof.Machine

noncomputable section

/-- The host performs this atomic: FetchAdd, Swap and CAS (R206). -/
def hostAtomic (x : Atomic) : Bool := x.cls == 2 || (x.cls == 0 && (x.op == 0 || x.op == 8))

/-- The checks of an atomic, and its place (R213, R216). -/
def atomPlace (s : State) (key : Nat) (x : Atomic) : Except Stop (State × W64 × Place) := do
  let t := s.thread key
  let ea := t.rg x.a
  need (ea.toNat % x.n = 0) ALIGN ea
  let _ ← segCheck t ea x.n rightR
  let _ ← segCheck t ea x.n rightW
  let (kind, o) ← segCheck t ea x.n rightA
  sysOnly kind x.scope ea
  need (kind ≠ 5 ∨ hostAtomic x) ACCESS ea
  let (s, p) ← resolve s key ea x.n .atomic kind o
  return (s, ea, p)

/-- The operand and the expected value of a thread. -/
def atomOperand (t : Thread) (x : Atomic) : Nat := t.pairVal x.b x.n
def atomExpected (t : Thread) (x : Atomic) : Nat := if x.cls = 2 then t.pairVal x.d x.n else 0

/-- Perform an atomic at its point inside the package: the old value. A release of DIE scope is recorded at a home that
records; a CAS that fails is no release. -/
def atomPerform (s : State) (key : Nat) (x : Atomic) (p : Place) : Except Stop (State × Nat) :=
  let core := coreOf key
  let t := s.thread key
  let e := atomExpected t x
  let r := atPlace s core (s.partOf core) p x.scope x.n x.acq (fun old => x.new (atomOperand t x) e old)
  if r.2.2 then .error .poison
  else
    match p with
    | .global _ pa _ =>
      .ok (if x.rel && x.scope == 3 && p.records && (x.cls != 2 || r.2.1 == e) then recordRelease r.1 pa core else r.1, r.2.1)
    | _ => .ok (r.1, r.2.1)

/-- The atomic executes in the own scratchpad or the L1 atomic unit, 12 core cycles (R207). -/
def atomNear (core scope : Nat) (p : Place) : Bool :=
  match p with
  | .spad c _ => c == core
  | .global _ _ leaf => decide (scope ≤ 1) && !leafUC leaf && leafCls leaf != 4
  | _ => false

/-- The package an access leaves for: a peer, or a lender. -/
def placePkg (s : State) (key : Nat) (p : Place) : Option (BitVec 10) :=
  match p with
  | .peer pkg _ => some (BitVec.ofNat 10 pkg)
  | .global _ _ leaf => if leafCls leaf = 4 then some (lenderOf s (s.partOf (coreOf key)) leaf) else none
  | _ => none

/-- The count a release at SYS scope to another package carries, closing its epoch (R371). -/
def releaseCount (s : State) (key : Nat) (rel : Bool) (scope : Nat) (p : Place) : State × Option (BitVec 16 × W32) :=
  match placePkg s key p with
  | some pkg =>
    if rel ∧ scope = 5 then
      let r := closeEpoch s key pkg
      (r.1, some (r.2.1, r.2.2))
    else (s, none)
  | none => (s, none)

/-- The body of an atomic: its release part is held for and moves copies first (R232); then at once, through the store
queue, or parked on its reply. -/
def atomBody (i : Instr) (x : Atomic) (s : State) : Except Stop State := do
  let key := s.cur
  let core := s.myCore
  let (s1, ea, p) ← atomPlace s key x
  if x.rel && releaseWaits s key x.scope p.records then .error .hold
  let s2 := if x.rel then releaseMoves s1 core x.scope p.records else s1
  let (s3, cnt) := releaseCount s2 key x.rel x.scope p
  if x.d = 0 ∧ x.n ≠ 16 then
    let s4 ← storeAt s3 key ea p (bytesOfNat x.n (atomOperand s.me x)) (.atomic i cnt) none
    return s4.finish s4.me 8
  else if !(ownPending s key p x.n).isEmpty then .error .hold
  else if atomNear core x.scope p then
    let (s4, old) ← atomPerform s3 key x p
    let s5 := s4.finish (s4.me.wgs (x.result old)) 12
    return if x.acq then acquireAt s5 core x.scope else s5
  else
    let s4 := runBody i s3 (.error (.park 0x01 ea p.external [] (requestMsgs i s3 key p cnt)))
    return s4

def execAtomAddW (sc : BitVec 3) (o : BitVec 2) (b a d : Reg) (s : State) : Out :=
  run (.atomAddW sc o b a d) s (atomBody (.atomAddW sc o b a d) (mkAtomic 4 sc.toNat o.toNat a d b 0 0 0 1) s)
def execAtomAndW (sc : BitVec 3) (o : BitVec 2) (b a d : Reg) (s : State) : Out :=
  run (.atomAndW sc o b a d) s (atomBody (.atomAndW sc o b a d) (mkAtomic 4 sc.toNat o.toNat a d b 0 1 0 1) s)
def execAtomOrW (sc : BitVec 3) (o : BitVec 2) (b a d : Reg) (s : State) : Out :=
  run (.atomOrW sc o b a d) s (atomBody (.atomOrW sc o b a d) (mkAtomic 4 sc.toNat o.toNat a d b 0 2 0 1) s)
def execAtomXorW (sc : BitVec 3) (o : BitVec 2) (b a d : Reg) (s : State) : Out :=
  run (.atomXorW sc o b a d) s (atomBody (.atomXorW sc o b a d) (mkAtomic 4 sc.toNat o.toNat a d b 0 3 0 1) s)
def execAtomMinW (sc : BitVec 3) (o : BitVec 2) (b a d : Reg) (s : State) : Out :=
  run (.atomMinW sc o b a d) s (atomBody (.atomMinW sc o b a d) (mkAtomic 4 sc.toNat o.toNat a d b 0 4 0 1) s)
def execAtomMaxW (sc : BitVec 3) (o : BitVec 2) (b a d : Reg) (s : State) : Out :=
  run (.atomMaxW sc o b a d) s (atomBody (.atomMaxW sc o b a d) (mkAtomic 4 sc.toNat o.toNat a d b 0 5 0 1) s)
def execAtomMinuW (sc : BitVec 3) (o : BitVec 2) (b a d : Reg) (s : State) : Out :=
  run (.atomMinuW sc o b a d) s (atomBody (.atomMinuW sc o b a d) (mkAtomic 4 sc.toNat o.toNat a d b 0 6 0 1) s)
def execAtomMaxuW (sc : BitVec 3) (o : BitVec 2) (b a d : Reg) (s : State) : Out :=
  run (.atomMaxuW sc o b a d) s (atomBody (.atomMaxuW sc o b a d) (mkAtomic 4 sc.toNat o.toNat a d b 0 7 0 1) s)
def execAtomSwapW (sc : BitVec 3) (o : BitVec 2) (b a d : Reg) (s : State) : Out :=
  run (.atomSwapW sc o b a d) s (atomBody (.atomSwapW sc o b a d) (mkAtomic 4 sc.toNat o.toNat a d b 0 8 0 1) s)
def execAtomAddD (sc : BitVec 3) (o : BitVec 2) (b a d : Reg) (s : State) : Out :=
  run (.atomAddD sc o b a d) s (atomBody (.atomAddD sc o b a d) (mkAtomic 8 sc.toNat o.toNat a d b 0 0 0 1) s)
def execAtomAndD (sc : BitVec 3) (o : BitVec 2) (b a d : Reg) (s : State) : Out :=
  run (.atomAndD sc o b a d) s (atomBody (.atomAndD sc o b a d) (mkAtomic 8 sc.toNat o.toNat a d b 0 1 0 1) s)
def execAtomOrD (sc : BitVec 3) (o : BitVec 2) (b a d : Reg) (s : State) : Out :=
  run (.atomOrD sc o b a d) s (atomBody (.atomOrD sc o b a d) (mkAtomic 8 sc.toNat o.toNat a d b 0 2 0 1) s)
def execAtomXorD (sc : BitVec 3) (o : BitVec 2) (b a d : Reg) (s : State) : Out :=
  run (.atomXorD sc o b a d) s (atomBody (.atomXorD sc o b a d) (mkAtomic 8 sc.toNat o.toNat a d b 0 3 0 1) s)
def execAtomMinD (sc : BitVec 3) (o : BitVec 2) (b a d : Reg) (s : State) : Out :=
  run (.atomMinD sc o b a d) s (atomBody (.atomMinD sc o b a d) (mkAtomic 8 sc.toNat o.toNat a d b 0 4 0 1) s)
def execAtomMaxD (sc : BitVec 3) (o : BitVec 2) (b a d : Reg) (s : State) : Out :=
  run (.atomMaxD sc o b a d) s (atomBody (.atomMaxD sc o b a d) (mkAtomic 8 sc.toNat o.toNat a d b 0 5 0 1) s)
def execAtomMinuD (sc : BitVec 3) (o : BitVec 2) (b a d : Reg) (s : State) : Out :=
  run (.atomMinuD sc o b a d) s (atomBody (.atomMinuD sc o b a d) (mkAtomic 8 sc.toNat o.toNat a d b 0 6 0 1) s)
def execAtomMaxuD (sc : BitVec 3) (o : BitVec 2) (b a d : Reg) (s : State) : Out :=
  run (.atomMaxuD sc o b a d) s (atomBody (.atomMaxuD sc o b a d) (mkAtomic 8 sc.toNat o.toNat a d b 0 7 0 1) s)
def execAtomSwapD (sc : BitVec 3) (o : BitVec 2) (b a d : Reg) (s : State) : Out :=
  run (.atomSwapD sc o b a d) s (atomBody (.atomSwapD sc o b a d) (mkAtomic 8 sc.toNat o.toNat a d b 0 8 0 1) s)
def execFatomFadd (t : BitVec 2) (sc : BitVec 3) (o : BitVec 2) (b a d : Reg) (s : State) : Out :=
  run (.fatomFadd t sc o b a d) s (atomBody (.fatomFadd t sc o b a d) (mkAtomic (2 * 2 ^ t.toNat) sc.toNat o.toNat a d b 1 0 t.toNat 1) s)
def execFatomFmin (t : BitVec 2) (sc : BitVec 3) (o : BitVec 2) (b a d : Reg) (s : State) : Out :=
  run (.fatomFmin t sc o b a d) s (atomBody (.fatomFmin t sc o b a d) (mkAtomic (2 * 2 ^ t.toNat) sc.toNat o.toNat a d b 1 1 t.toNat 1) s)
def execFatomFmax (t : BitVec 2) (sc : BitVec 3) (o : BitVec 2) (b a d : Reg) (s : State) : Out :=
  run (.fatomFmax t sc o b a d) s (atomBody (.fatomFmax t sc o b a d) (mkAtomic (2 * 2 ^ t.toNat) sc.toNat o.toNat a d b 1 2 t.toNat 1) s)
def execFatompFadd (t : BitVec 2) (sc : BitVec 3) (o : BitVec 2) (b a d : Reg) (s : State) : Out :=
  run (.fatompFadd t sc o b a d) s (atomBody (.fatompFadd t sc o b a d) (mkAtomic (4 * 2 ^ t.toNat) sc.toNat o.toNat a d b 1 0 t.toNat 2) s)
def execFatompFmin (t : BitVec 2) (sc : BitVec 3) (o : BitVec 2) (b a d : Reg) (s : State) : Out :=
  run (.fatompFmin t sc o b a d) s (atomBody (.fatompFmin t sc o b a d) (mkAtomic (4 * 2 ^ t.toNat) sc.toNat o.toNat a d b 1 1 t.toNat 2) s)
def execFatompFmax (t : BitVec 2) (sc : BitVec 3) (o : BitVec 2) (b a d : Reg) (s : State) : Out :=
  run (.fatompFmax t sc o b a d) s (atomBody (.fatompFmax t sc o b a d) (mkAtomic (4 * 2 ^ t.toNat) sc.toNat o.toNat a d b 1 2 t.toNat 2) s)
def execCasW (sc : BitVec 3) (o : BitVec 2) (b a d : Reg) (s : State) : Out :=
  run (.casW sc o b a d) s (atomBody (.casW sc o b a d) (mkAtomic 4 sc.toNat o.toNat a d b 2 0 0 1) s)
def execCasD (sc : BitVec 3) (o : BitVec 2) (b a d : Reg) (s : State) : Out :=
  run (.casD sc o b a d) s (atomBody (.casD sc o b a d) (mkAtomic 8 sc.toNat o.toNat a d b 2 0 0 1) s)
def execCasQ (sc : BitVec 3) (o : BitVec 2) (b a d : Reg) (s : State) : Out :=
  run (.casQ sc o b a d) s (atomBody (.casQ sc o b a d) (mkAtomic 16 sc.toNat o.toNat a d b 2 0 0 1) s)

end

end Sys2Proof.Machine
end

