-- ==== Sys2Proof/Machine/Gang.lean ====
section
/-! DEFINITION. What follows the end of an instruction: the word forwarded to a follower and the meeting point of FOLLOW
and JOIN (R71-R73), and the bookkeeping of a twin pair (R67, R68); then the delivery of a reply to a parked thread (R50,
R56, R62) and the expiry of waits (R55, R57, R284). -/

namespace Sys2Proof.Machine

noncomputable section

/-! ## Followers (R71-R73) -/

/-- The words of an instruction that its thread fetched. -/
def wordsOf : Instr → List W32
  | .notAnInstruction w _ _ => [w]
  | i => encode i

/-- The thread's word is forwarded to the slot that follows it: `next` is where this thread goes on (R71). -/
def forwardWord (s : State) (key : Nat) (i : Instr) (pc next : W64) : State :=
  match s.followerOf key, wordsOf i with
  | none, _ => s
  | _, [] => s
  | some f, ws =>
    let t := s.thread f
    s.setThread f { t with
      fwd := t.fwd ++ [{ pc := pc, words := ws, next := next, ready := s.cyc (coreOf key) + 2 }], fwdTick := s.tim }

/-- A trapping word is forwarded too; its follower detaches after it, since no follower goes on at an odd address (R73). -/
def forwardTrap (s : State) (key : Nat) (i : Instr) : State :=
  forwardWord s key i (s.thread key).pc ((s.thread key).pc ||| 1)

/-- A follower has executed its forwarded word: it goes on with the next one, or detaches where its own outcome differs (R73). -/
def popForwarded (t : Thread) : Thread :=
  match t.state, t.fwd with
  | .following, f :: rest => if t.pc = f.next then { t with fwd := rest } else { t with fwd := rest }.detach
  | _, _ => t

/-- A thread that waits at a FOLLOW or JOIN point is bound as a follower when its predecessor issues the word there. -/
def meetPoint (s : State) (key : Nat) (pc : W64) : State :=
  match follower key with
  | none => s
  | some f =>
    let t := s.thread f
    match t.state, t.wait with
    | .parked, some w =>
      if w.kind = 0x0F ∧ w.eval = pc ∧ w.reply = none ∧ t.bound ∧ t.kid = (s.thread key).kid then
        let d := match w.instr with
          | .follow d | .join d => d
          | _ => 0
        let det := match w.instr with
          | .join _ => false
          | _ => t.det
        let t1 : Thread := { (t.wg d 0) with state := .following, pc := t.pc + 4, wait := none, busy := none, fwd := [], fwdTick := s.tim, det := det }
        repauseIf6 (s.setThread f (if t.pse then pauseSlot true t1 else t1)) f
      else s
    | _, _ => s

/-! ## Twins (R67) -/

/-- A twin that waits for the other at an instruction performed once. -/
def twinWaits (t : Thread) : Option Instr :=
  match t.state, t.wait with
  | .parked, some w => if w.kind = 0x11 ∧ w.reply.isNone ∧ twinClass w.instr = .once then some w.instr else none
  | _, _ => none

/-- A twin that waits on the load-value queue or the comparator issues again. -/
def twinWake (s : State) (key : Nat) : State :=
  match (s.thread key).wait with
  | some w => if w.kind = 0x11 ∧ twinClass w.instr ≠ .once then answer s key Reply.again else s
  | none => s

/-- The trailer has come to an instruction performed once: its leader, which waits there, issues it again. -/
def twinMeet (s : State) (key : Nat) : State := if (twinWaits (s.thread key)).isSome then answer s key Reply.again else s

/-- Copy the leader's results of an instruction performed once into its trailer, which goes on beside it. -/
def twinMirror (lead tr : Thread) (i : Instr) : Thread :=
  let g := (gWrites i).foldl (fun t r => t.wg r (lead.rg r)) tr
  let f := (fWrites i).foldl (fun t r => t.wf r (lead.rf r)) g
  { f with
    state := if tr.state = .parked then lead.state else tr.state, prior := lead.prior, wait := none, busy := lead.busy, pc := lead.pc,
    ix := lead.ix, sg := lead.sg, wlim := lead.wlim, ck := lead.ck, ckmiss := lead.ckmiss, lkx := lead.lkx, itN := lead.itN,
    itcur := lead.itcur, itend := lead.itend, itdsc := lead.itdsc, fcsr := lead.fcsr, fqlo := lead.fqlo, fqhi := lead.fqhi,
    wscb := lead.wscb, skst := lead.skst, shst := lead.shst, fenst := lead.fenst, mcstat := lead.mcstat,
    twinAt := lead.twinAt }

/-- A twin has completed an instruction. -/
def twinDone (s : State) (key : Nat) (i : Instr) (pc : W64) : State :=
  let t := s.thread key
  let p := partnerOf key
  let forms := match i with
    | .twin _ => true
    | _ => false
  if (!t.twl && !t.twt) || forms then s
  else
    let t1 : Thread := { t with twinAt := t.twinAt + 1 }
    let s1 := s.setThread key t1
    if t.twl then
      let tr := s1.thread p
      match twinClass i with
      | .once => s1.setThread p (twinMirror t1 tr i)
      | .value =>
        let v : TwinValue :=
          { pc := pc, g := (gWrites i).map (fun r => (r, t.rg r)), f := (fWrites i).map (fun r => (r, t.rf r)) }
        twinWake (s1.setThread p { tr with lvq := tr.lvq ++ [v] }) p
      | _ => twinWake s1 p
    else twinWake s1 p

/-- What follows when a thread's instruction at `pc` is over. -/
def afterComplete (s : State) (key : Nat) (i : Instr) (pc : W64) : State :=
  twinDone (meetPoint (forwardWord s key i pc (s.thread key).pc) key pc) key i pc

/-! ## Replies (R50, R56) -/

/-- A thread CSR value that comes with a reply: the SFU's flags, SKST, SHST, MCSTAT and the iteration CSRs. -/
def Thread.setReplyCsr (t : Thread) (x : Nat × W64) : Thread :=
  match x.1 with
  | 0x010 => { t with fcsr := orFlags t.fcsr x.2.toNat }
  | 0x016 => { t with itcur := x.2 }
  | 0x017 => { t with itend := x.2 }
  | 0x018 => { t with itdsc := x.2 }
  | 0x030 => { t with skst := x.2 }
  | 0x031 => { t with shst := x.2 }
  | 0x033 => { t with mcstat := x.2 }
  | _ => t

/-- The f results of a reply. -/
def replyF (s : State) (key : Nat) : List (Reg × W128) → Except Stop State
  | [] => .ok s
  | x :: xs => do
    let s ← writeF s key x.1 x.2
    replyF s key xs

/-- The f sources of a waiting instruction whose streams move when it completes. -/
def waitSources (i : Instr) : List Reg :=
  match sfuOf i with
  | some x => [x.2.2.1]
  | none => []

/-- A reply's bytes are stored in the thread's own scratchpad: not under another slot's lock (R65). A completed ARED has had its part in
its group's phase. -/
def replyData (s : State) (key : Nat) (w : Wait) (r : Reply) : Except Stop State :=
  let core := coreOf key
  let x := r.data.getD (0, [])
  if (lockedByte (s.arch core) (slotOf key) x.1 x.2.length).isSome then .error .hold
  else
    let s1 : State := if x.2.isEmpty then s else { s with mem := spadWrite s.mem core x.1 x.2 }
    let t := s1.thread key
    match w.instr with
    | .ared _ _ a _ => .ok (s1.setThread key { t with aredIn := tdel t.aredIn ((t.rg a).extractLsb' 0 8).toNat })
    | _ => .ok s1

/-- The parked thread's instruction completes with its reply; a thread that has gone on past it for its run's trap stays at its
pc (R152). -/
def completeReply (s : State) (key : Nat) (w : Wait) (r : Reply) : Except Stop State := do
  let now := (s.thread key).pc
  let pc := w.at_.getD now
  let s0 ← replyData s key w r
  let s1 ← replyF s0 key r.f
  let s2 := stepStreams s1 key (waitSources w.instr)
  let t := s2.thread key
  let t1 := r.g.foldl (fun t x => t.wg x.1 x.2) t
  let t2 := r.csr.foldl Thread.setReplyCsr t1
  let t3 : Thread := { t2 with
    ix := if r.ix.isEmpty then t2.ix else (r.ix.zipIdx.map (fun x => (x.2, x.1))), itN := r.itN.getD t2.itN,
    pc := r.pc.getD (if w.at_.isSome then now else pc + 4) }
  let s3 := s2.setThread key t3.resume
  let s4 := match r.acquire with
    | some sc => acquireAt s3 (coreOf key) sc.toNat
    | none => s3
  return afterComplete (repauseIf6 s4 key) key w.instr pc

/-- A thread that has gone on past its waiting instruction comes back to it, where that does not complete. -/
def backTo (s : State) (key : Nat) (w : Wait) : State :=
  match w.at_ with
  | some a => s.setThread key { s.thread key with pc := a }
  | none => s

/-- The wait kind that a trap of a parked thread's reply reports: that of an expired wait (R55), else none. -/
def replyKind (w : Wait) (cause : Byte) : Byte := if cause = WAITLIM ∨ cause = SKCYCLE then w.kind else 0

/-- The event a parked thread waits for has reached its core: it becomes READY, or PAUSED if it is marked. -/
def deliver (s : State) (key : Nat) : State :=
  let t := s.thread key
  match t.state, t.wait with
  | .parked, some w =>
    match w.reply with
    | none => s
    | some r =>
      let s0 := backTo s key w
      if r.kill then killThread s0 key POISON
      else
        match r.trap with
        | some (c, e) => if twinLag s key then s else trapOut (forwardTrap s0 key w.instr) key c e (replyKind w c) none
        | none =>
          if r.reissue then repauseIf6 (s0.setThread key (s0.thread key).resume) key
          else
            match completeReply s key w r with
            | .ok s' => s'
            | .error (.trap c e) => trapOut (forwardTrap s0 key w.instr) key c e 0 none
            | .error .poison => killThread s0 key POISON
            | .error (.page dva k acc e) => dropThread (withdraw s0 key) key dva k acc e
            | .error _ => s
  | _, _ => s

/-- PARK_WAKE (R50). -/
def execParkWake (core slot : Nat) (s : State) : Out := .next (deliver s (keyOf core slot))

/-! ## Ends of waits (R55, R79, R73) -/

/-- A deadline has passed; while a context or a migration stops the thread no deadline passes (R329, R337). -/
def due (s : State) (core : Nat) (d : Option Nat) : Bool :=
  match d with
  | some x => decide (x ≤ s.tim) && !ctxStopped s core && (s.core core).migrating.isNone
  | none => false

/-- A thread's integer wait traps WAITLIM: a stall of its run is withdrawn with it (R153). -/
def withdrawStall (s : State) (key : Nat) : State :=
  match (s.thread key).run with
  | some r => if r.stall.isSome then setRun (withdrawRun s key) key (some { r with sfu := none, stall := none }) else s
  | none => s

/-- The stall of a run counts and expires while the run may issue: not while its thread is TRAPPED or PAUSED (R153). -/
def stallCounts (t : Thread) : Bool := t.state == .ready || t.state == .parked || t.state == .dropped || t.state == .following

/-- WAIT_LIMIT_EXPIRY: the thread, or its run, traps WAITLIM; a skein read marked bound-reached traps SKCYCLE. An atomic whose
reply is on its way has executed, and its reply is discarded (R216). A leader's wait ends at its expiry, and the pair traps once
the trailer has reached it (R68). -/
def execWaitLimitExpiry (core slot : Nat) (s : State) : Out :=
  let key := keyOf core slot
  let t := s.thread key
  match t.run with
  | some r =>
    (match r.stall with
     | some (kind, v, d) =>
       if due s core d && stallCounts t then
         .next (runTrap s key r WAITLIM v kind)
       else .next (waitExpiry s key t)
     | none => .next (waitExpiry s key t))
  | none => .next (waitExpiry s key t)
where
  /-- The wait of the thread itself. -/
  waitExpiry (s : State) (key : Nat) (t : Thread) : State :=
    match t.state, t.wait with
    | .parked, some w =>
      let open_ : Bool := match w.reply with
        | none => true
        | some r => (atomicOf w.instr).isSome && r.trap.isNone && !r.kill
      if open_ ∧ due s (coreOf key) w.deadline ∧ !t.twt then
        let cause := if w.kind = 0x08 ∧ boundReached s (s.partOf (coreOf key)) key then SKCYCLE else WAITLIM
        if twinLag s key then answer (withdraw s key) key (Reply.fail cause w.eval)
        else trapOut (forwardTrap (withdrawStall (backTo s key w) key) key w.instr) key cause w.eval w.kind none
      else s
    | _, _ => s

/-- REMOTE_ACCESS_TIMEOUT: the wait is withdrawn and the thread traps LINKDOWN (R367); an MSND ends with status 4 (R265). -/
def execRemoteAccessTimeout (core slot : Nat) (s : State) : Out :=
  let key := keyOf core slot
  let t := s.thread key
  match t.state, t.wait with
  | .parked, some w =>
    if w.reply = none ∧ due s core w.remote ∧ !twinLag s key then
      .next (match w.instr with
        | .msnd _ _ d => answer s key (Reply.reg d 4)
        | i => trapOut (forwardTrap (backTo s key w) key i) key LINKDOWN w.eval 0 none)
    else .next s
  | _, _ => .next s

/-- FOLLOWER_WAIT_EXPIRY: a follower that has waited past its WLIM for a forwarded word, while its predecessor is PARKED,
DROPPED or PAUSED, detaches (R73). -/
def execFollowerWaitExpiry (core slot : Nat) (s : State) : Out :=
  let key := keyOf core slot
  let t := s.thread key
  match predecessor key with
  | none => .next s
  | some p =>
    let st := (s.thread p).state
    if t.state = .following ∧ t.fwd = [] ∧ t.wlim ≠ 0 ∧ t.fwdTick + t.wlim.toNat ≤ s.tim ∧
        (st = .parked ∨ st = .dropped ∨ st = .paused) then
      .next (repauseIf6 (s.setThread key t.detach) key)
    else .next s

/-- A follower whose predecessor has trapped, was killed or is EMPTY, and which has run every forwarded word, detaches. -/
def settleFollower (s : State) (key : Nat) : State :=
  let t := s.thread key
  match predecessor key with
  | none => s
  | some p =>
    let x := s.thread p
    if t.state = .following ∧ t.fwd = [] ∧ (x.state = .trapped ∨ x.state = .empty ∨ x.killed ≠ none ∨ x.kid ≠ t.kid) then
      repauseIf6 (s.setThread key t.detach) key
    else s

end

end Sys2Proof.Machine
end

