-- ==== Sys2Proof/Machine/Matrix.lean ====
section
/-! DEFINITION. The matrix engine (R168-R186, R336, R420): tiles in CIM banks, job cards and nest tables, the exact
arithmetic of a step, accumulators, and the instructions and events of the matrix queue. -/

namespace Sys2Proof.Machine

noncomputable section

/-! ## Formats and tiles (R172) -/

/-- A format code the engine accepts. -/
def engFmt (t : Nat) : Bool := [5, 6, 7, 8, 10].contains t
/-- Banks of a tile. -/
def tileBanks (t : Nat) : Nat := if t = 5 then 8 else if t = 6 ∨ t = 10 then 4 else if t = 7 then 2 else 1
/-- Bytes of a tile image. -/
def tileSize (t : Nat) : Nat := if t = 8 then 8448 else 8192 * tileBanks t
/-- Bytes of an A row-vector, and its alignment (R176). -/
def rowBytes (t : Nat) : Nat := if t = 5 then 512 else if t = 6 ∨ t = 10 then 256 else if t = 7 then 128 else 64
def rowAlign (t : Nat) : Nat := if t = 8 then 32 else 16
/-- Array cycles per step (R178). -/
def stepCycles (t : Nat) : Nat := if t = 8 then 2 else if t = 7 then 4 else if t = 6 then 8 else if t = 10 then 16 else 24

/-- The local-segment address of a W0 byte, as FADDR gives it. -/
def localAddr (o : Int) : W64 := 0x4000000000000000#64 ||| ((BitVec.ofInt 61 o).setWidth 64)

/-- The banks `first … first + n - 1`. -/
def bankRange (first n : Nat) : List Nat := (List.range n).map (first + ·)

/-- Banks a load writes: an MLDB's, or a tile copy's. -/
def loadBanks (e : Entry) : List Nat :=
  match e.kind with
  | .mldb fmt bank _ _ => bankRange bank (tileBanks fmt.toNat)
  | .copy kind _ _ dst _ _ _ _ =>
    if kind = 2 then bankRange (dst.toNat % 8) (tileBanks (bitsOf dst.toNat 4 4)) else []
  | _ => []

/-- Every tile that overlaps the banks becomes invalid, with the scale stores of its banks (R172, R173). -/
def invalidate (a : CoreArch) (banks : List Nat) : CoreArch :=
  let hit : List Tile := (a.tiles.filter (fun x => banks.contains x.1)).map (·.2)
  let gone : List Nat := hit.flatMap (fun t => bankRange t.first (tileBanks t.fmt.toNat))
  let clear (m : Mem) (b : Nat) : Mem := m.filter (fun c => !(256 * b ≤ c.1 && c.1 < 256 * b + 256))
  { a with tiles := a.tiles.filter (fun x => !hit.any (fun t => t.first == x.2.first)),
           cimScale := (gone ++ banks).foldl clear a.cimScale }

/-- Write image bytes from position `o` of a tile: data into the arrays, E21 scales into the scale store. -/
def placeImage (a : CoreArch) (fmt first o : Nat) (bs : List Byte) : CoreArch :=
  let data := 8192 * tileBanks fmt
  let inData := bs.take (data - o)
  let inScale := bs.drop (data - o)
  { a with
    cim := mwriteN a.cim (8192 * first + o) inData,
    cimScale := if inScale.isEmpty then a.cimScale else mwriteN a.cimScale (256 * first + (Nat.max o data - data)) inScale,
    cimPoison := clearPoison a.cimPoison (8192 * first + o) inData.length }

/-- A tile becomes valid in its banks. -/
def validTile (a : CoreArch) (fmt : BitVec 4) (first : Nat) (sB : W32) : CoreArch :=
  { a with tiles := (bankRange first (tileBanks fmt.toNat)).foldl (fun t b => tput t b { first := first, fmt := fmt, sB := sB }) a.tiles }

/-- A bank of the tile holds poison (R395): array chunks, then scale stores. -/
def tilePoisoned (a : CoreArch) (t : Tile) : Bool :=
  anyPoison a.cimPoison (8192 * t.first) (8192 * tileBanks t.fmt.toNat) ||
    (t.fmt == 8 && anyPoison a.cimPoison (65536 + 256 * t.first) 256)

/-! ## Elements and chains (R177) -/

/-- Element `i` of an array of bytes in an engine format; `sc` is the E21 block scale. -/
def elemOf (fmt : Nat) (byte : Nat → Nat) (i sc : Nat) : Fp :=
  match fmt with
  | 5 => fpDecode f32 (byte (4 * i) + 2 ^ 8 * byte (4 * i + 1) + 2 ^ 16 * byte (4 * i + 2) + 2 ^ 24 * byte (4 * i + 3))
  | 6 => fpDecode b16 (byte (2 * i) + 2 ^ 8 * byte (2 * i + 1))
  | 7 => e43Decode (byte i)
  | 8 =>
    if sc = 0xFF then .nan false
    else (e21Decode (if i % 2 = 0 then byte (i / 2) % 16 else byte (i / 2) / 16)).scaled ((sc : Int) - 127)
  | _ => qValue (signedOf 16 (byte (2 * i) + 2 ^ 8 * byte (2 * i + 1))) 15

/-- A chain of exact products summed exactly and rounded once. -/
def exactChain (ps : List (Fp × Fp)) : Nat × FlagBits :=
  let r := ps.foldl (fun (acc : Option (Bool × Nat × Nat)) p =>
    match acc, p.1, p.2 with
    | some (n, x, d), .fin s1 a1 d1, .fin s2 a2 d2 => some (addExact n x d (s1 != s2) (a1 * a2) (d1 * d2))
    | _, _, _ => none) (some (false, 0, 1))
  match r with
  | none => (f32.nan, 0)
  | some (n, x, d) => fpRound f32 0 (n && x != 0) x d

/-- A chain from +0 with one rounding for each term. -/
def roundedChain (ps : List (Fp × Fp)) : Nat × FlagBits :=
  ps.foldl (fun (r : Nat × FlagBits) p =>
    let x := fpFma f32 0 false p.1 p.2 (fpDecode f32 r.1)
    (x.1, r.2 ||| x.2)) (0, 0)

/-- One chain of a column: h = 0 even, 1 odd. -/
def chainOf (fmt : Nat) (A B : Nat → Fp) (h : Nat) : Nat × FlagBits :=
  let ps := (List.range 64).map (fun j => (A (2 * j + h), B (2 * j + h)))
  if fmt = 7 ∨ fmt = 8 ∨ fmt = 10 then exactChain ps else roundedChain ps

/-- Both chains' products of one column, {odd, even}, and whether a rounding overflowed. -/
def columnProducts (fmt : Nat) (A B : Nat → Fp) (sc : Nat) : W64 × Bool :=
  let one (h : Nat) : Nat × FlagBits :=
    let c := chainOf fmt A B h
    let p := fpMul f32 0 (fpDecode f32 c.1) (fpDecode f32 sc)
    (p.1, c.2 ||| p.2)
  let e := one 0
  let o := one 1
  (BitVec.ofNat 64 (o.1 * 2 ^ 32 + e.1), (e.2 ||| o.2).testBit 2)

/-- The products of a step for its 128 columns. -/
def stepProducts (a : CoreArch) (t : Tile) (A : Nat → Fp) (sA : Nat) : List W64 × Bool :=
  let fmt := t.fmt.toNat
  let s := fpMul f32 0 (fpDecode f32 sA) (fpDecode f32 t.sB.toNat)
  let byte (i : Nat) : Nat := (mread a.cim (8192 * t.first + i)).toNat
  let B (n k : Nat) : Fp := elemOf fmt byte (n * 128 + k) (mread a.cimScale (256 * t.first + 2 * n + k / 64)).toNat
  let cs := (List.range 128).map (fun n => columnProducts fmt A (B n) s.1)
  (cs.map (·.1), s.2.testBit 2 || cs.any (·.2))

/-! ## Accumulators (R177, R179) -/

/-- The key of an accumulator pair. -/
def accKey (acc row col : Nat) : Nat := acc * 16384 + row * 128 + col

/-- One half promoted: overwritten, or added to with one rounding. -/
def promoteHalf (fresh : Bool) (old p : Nat) : Nat × FlagBits :=
  if fresh then (p, 0) else fpAdd f32 0 (fpDecode f32 old) (fpDecode f32 p)

/-- Promote a step's products into a row of an accumulator. -/
def promoteRow (a : CoreArch) (acc : Nat) (p : Promotion) (fresh : Bool) : CoreArch :=
  let r := (p.vals.zipIdx).foldl (fun (r : Tab W64 × Bool × Bool) x =>
    let k := accKey acc p.row x.2
    let old := tget 0 r.1 k
    let e := promoteHalf fresh (old.extractLsb' 0 32).toNat (x.1.extractLsb' 0 32).toNat
    let o := promoteHalf fresh (old.extractLsb' 32 32).toNat (x.1.extractLsb' 32 32).toNat
    let nan := (fpDecode f32 e.1).isNaN || (fpDecode f32 o.1).isNaN
    (tput r.1 k (BitVec.ofNat 64 (o.1 * 2 ^ 32 + e.1)), r.2.1 || nan, r.2.2 || (e.2 ||| o.2).testBit 2)) (a.acc, false, p.ofl)
  let bit : BitVec 4 := 1#4 <<< acc
  { a with acc := r.1,
           accNan := if r.2.1 then a.accNan ||| bit else a.accNan,
           accOfl := if r.2.2 then a.accOfl ||| bit else a.accOfl,
           accPoison := if fresh then a.accPoison.filter (fun k => !(accKey acc p.row 0 ≤ k && k < accKey acc p.row 128)) else a.accPoison }

/-- A pair of the row is poisoned. -/
def rowPoisoned (a : CoreArch) (acc row : Nat) : Bool := a.accPoison.any (fun k => accKey acc row 0 ≤ k && k < accKey acc row 128)

/-! ## The job card (R174-R176) -/

/-- A job's parameters, decoded. -/
structure JobCard where
  fmt : Nat
  row0 : Nat
  abase : Nat
  bank0 : Nat
  usa : Bool
  sbase : Nat
  levels : Nat
  nbase : Nat
  kbase : Nat
deriving DecidableEq, Repr

def jobCard (p0 p1 p2 p3 : W32) : JobCard :=
  { fmt := bitsOf p0.toNat 28 4, row0 := bitsOf p0.toNat 20 7, abase := bitsOf p0.toNat 0 20, bank0 := bitsOf p1.toNat 25 3,
    usa := p1.getLsbD 20, sbase := bitsOf p1.toNat 0 20, levels := bitsOf p2.toNat 20 3, nbase := bitsOf p2.toNat 0 20,
    kbase := bitsOf p3.toNat 0 20 }

/-- The card of an entry. -/
def cardOf (e : Entry) : JobCard :=
  match e.kind with
  | .job _ _ _ p0 p1 p2 p3 => jobCard p0 p1 p2 p3
  | _ => jobCard 0 0 0 0

/-- A level of the nest table, and whether its reserved bytes are zero. -/
def nestLevel (b : List Byte) : NestLevel × Bool :=
  let f (o n : Nat) : Nat := natOfBytes ((b.drop o).take n)
  ({ count := f 0 4, astr := signedOf 32 (f 4 4), sstr := signedOf 32 (f 8 4), accstr := signedOf 8 (f 12 1),
     bankstr := signedOf 8 (f 13 1) }, f 14 2 == 0)

/-- Least and greatest value of an affine quantity over the coordinates. -/
def extremes (base : Int) (f : NestLevel → Int) (nest : List NestLevel) : Int × Int :=
  nest.foldl (fun r l =>
    let d := ((l.count : Int) - 1) * f l
    (r.1 + min 0 d, r.2 + max 0 d)) (base, base)

/-- The value of an affine quantity at step i; level 0 is innermost. -/
def stepValue (base : Int) (f : NestLevel → Int) (nest : List NestLevel) (i : Nat) : Int :=
  (nest.foldl (fun (r : Int × Nat) l => (r.1 + ((r.2 % l.count : Nat) : Int) * f l, r.2 / l.count)) (base, i)).1

/-- S, the steps of a job. -/
def stepCount (nest : List NestLevel) : Nat := nest.foldl (fun n l => n * l.count) 1

/-- Banks the steps of a job name. -/
def namedBanks (bank0 : Nat) (nest : List NestLevel) : List Nat :=
  ((nest.foldl (fun (bs : List Int) l =>
    if l.bankstr = 0 then bs else bs.flatMap (fun b => (List.range (Nat.min l.count 8)).map (fun (i : Nat) => b + (i : Int) * l.bankstr)))
    [(bank0 : Int)]).map Int.toNat).dedup

/-- The banks a job that has started uses. -/
def jobBanks (e : Entry) : List Nat :=
  match e.kind with
  | .job _ _ _ _ _ _ _ => (namedBanks (cardOf e).bank0 e.nest).flatMap (fun b => bankRange b (tileBanks (cardOf e).fmt))
  | _ => []

/-- A range that leaves the scratchpad faults SEGV with its first address outside. -/
def insideSpad (lo hi : Int) : Except (Byte × W64) Unit :=
  if lo < 0 ∨ 0x100000 ≤ lo then .error (SEGV, localAddr lo)
  else if 0x100000 < hi then .error (SEGV, localAddr 0x100000)
  else .ok ()

/-- The affine quantity at the first step, in R140's order, at which it is below 0 or at least `lim`; levels outermost first, of
which one such step is known to exist. -/
def firstOutside (lim : Int) (f : NestLevel → Int) : List NestLevel → Int → Int
  | [], v => v
  | l :: inner, v =>
    let r := extremes 0 f inner
    let c : Int :=
      if v + r.1 < 0 ∨ lim ≤ v + r.2 then 0
      else if 0 < f l then (lim - 1 - r.2 - v) / f l + 1
      else if f l < 0 then (v + r.1) / (-f l) + 1
      else 0
    firstOutside lim f inner (v + c * f l)

/-- `n` bytes at every value of an affine address lie in the scratchpad, or the fault SEGV with the first address outside of the
first step that leaves it (R176). -/
def insideNest (base n : Int) (f : NestLevel → Int) (nest : List NestLevel) : Except (Byte × W64) Unit :=
  let r := extremes base f nest
  if 0 ≤ r.1 ∧ r.2 + n ≤ 0x100000 then .ok ()
  else
    let v := firstOutside (0x100001 - n) f nest.reverse base
    insideSpad v (v + n)

/-- The same for the two scale bytes of each E21 row, at KBASE + o/32 for a row at o. -/
def insideScales (kbase abase : Int) (f : NestLevel → Int) (nest : List NestLevel) : Except (Byte × W64) Unit :=
  if kbase + (extremes abase f nest).2 / 32 + 2 ≤ 0x100000 then .ok ()
  else
    let k := kbase + firstOutside (32 * (0xFFFFF - kbase)) f nest.reverse abase / 32
    insideSpad k (k + 2)

/-- Every value of an affine address is a multiple of `al`, or the fault ALIGN with a misaligned one. -/
def alignedNest (base al : Int) (f : NestLevel → Int) (nest : List NestLevel) : Except (Byte × W64) Unit :=
  if base % al ≠ 0 then .error (ALIGN, localAddr base)
  else
    match nest.find? (fun l => decide (1 < l.count) && decide (f l % al ≠ 0)) with
    | some l => .error (ALIGN, localAddr (base + f l))
    | none => .ok ()

def guardF (c : Bool) (cause : Byte) (addr : W64) : Except (Byte × W64) Unit := if c then .ok () else .error (cause, addr)

/-- Bytes an engine entry of a slot reads from its scratchpad as RLX reads of the issuing thread, with that thread's completed
stores (R184, R189, R229): bytes and poison; none where they must wait for a store to be accepted. -/
def engineBytes (s : State) (core slot off n : Nat) : Option (List Byte × Bool) :=
  if 8 ≤ slot then some (spadBytes s.mem core off n, spadPoisoned s.mem core off n)
  else
    match bytesNow s (keyOf core slot) (.spad core off) n with
    | .ok r => some r.2
    | .error _ => none

/-- The first three checks of R176: the card, and the place of the nest table. -/
def checkCard (c : JobCard) : Except (Byte × W64) Unit := do
  let tab := localAddr c.nbase
  guardF (engFmt c.fmt && decide (1 ≤ c.levels) && decide (c.levels ≤ 5) && (decide (c.fmt = 8) || decide (c.kbase = 0))) FORMAT tab
  guardF (decide (c.nbase % 16 = 0)) ALIGN tab
  insideSpad c.nbase (c.nbase + 16 * c.levels)

/-- The nest table read, and the fourth check. -/
def readNest (c : JobCard) (table : List Byte × Bool) : Except (Byte × W64) (List NestLevel) := do
  let tab := localAddr c.nbase
  guardF (!table.2) POISON tab
  let ls := (List.range c.levels).map (fun l => nestLevel ((table.1.drop (16 * l)).take 16))
  guardF (ls.all (fun l => decide (1 ≤ l.1.count) && decide (l.1.count ≤ 65535) && l.2)) FORMAT tab
  return ls.map (·.1)

/-- The other checks of R176, in their order. -/
def checkNest (s : State) (core : Nat) (c : JobCard) (nest : List NestLevel) : Except (Byte × W64) Unit := do
  let tab := localAddr c.nbase
  let rows := extremes c.row0 (·.accstr) nest
  guardF (decide (0 ≤ rows.1) && decide (rows.2 ≤ 127)) FORMAT tab
  let banks := extremes c.bank0 (·.bankstr) nest
  guardF (decide (0 ≤ banks.1) && decide (banks.2 ≤ 7)) FORMAT tab
  guardF ((namedBanks c.bank0 nest).all (fun b =>
    match tfind (s.arch core).tiles b with
    | some t => t.first == b && t.fmt.toNat == c.fmt
    | none => false)) FORMAT tab
  insideNest c.abase (rowBytes c.fmt) (·.astr) nest
  if !c.usa then insideNest c.sbase 4 (·.sstr) nest
  if c.fmt = 8 then insideScales c.kbase c.abase (·.astr) nest
  alignedNest c.abase (rowAlign c.fmt) (·.astr) nest
  if !c.usa then alignedNest c.sbase 4 (·.sstr) nest

/-! ## Enqueueing instructions (R182-R185) -/

/-- Enqueue an entry and write its token; a full queue parks on WKIND 0x0A with the token register (R169). -/
def enqueueBody (s : State) (eng : Nat) (kind : EntryKind) (d : Reg) (words : Nat) : Except Stop State :=
  match enqueueEntry s s.cur eng kind with
  | none => .error (.park 0x0A (d.setWidth 64) false [] [])
  | some (s1, serial) =>
    let t := (s1.me.wg d (engineToken eng (slotOf s.cur) serial))
    .ok (s1.setMe { t with pc := t.pc + BitVec.ofNat 64 (4 * words), busy := some (s.doneAt 6) })

/-- The body of MJOB: markers, fixed-zero bits, then the queue. -/
def mjobBody (ovr : Bool) (park : BitVec 1) (m : BitVec 2) (a : Reg) (p0 p1 p2 p3 : W32) (s : State) : Except Stop State := do
  let (x0, x1, x2, x3) ← resolveParams s.me p0 p1 p2 p3
  let word (n : Nat) : W64 := s.me.pc + BitVec.ofNat 64 (4 * (n + 1))
  need (x0.getLsbD 27 = false) FORMAT (word 0)
  need (x1.extractLsb' 28 4 = 0 ∧ x1.extractLsb' 21 4 = 0) FORMAT (word 1)
  need (x2.extractLsb' 23 9 = 0) FORMAT (word 2)
  need (x3.extractLsb' 20 12 = 0) FORMAT (word 3)
  enqueueBody s 1 (.job ovr m.toNat (park == 1) x0 x1 x2 x3) a 5

def execMjobAcc (park : BitVec 1) (m : BitVec 2) (a : Reg) (p0 p1 p2 p3 : W32) (s : State) : Out :=
  run (.mjobAcc park m a p0 p1 p2 p3) s (mjobBody false park m a p0 p1 p2 p3 s)
def execMjobOvr (park : BitVec 1) (m : BitVec 2) (a : Reg) (p0 p1 p2 p3 : W32) (s : State) : Out :=
  run (.mjobOvr park m a p0 p1 p2 p3) s (mjobBody true park m a p0 p1 p2 p3 s)

/-- A range of the own scratchpad through a local segment and window W0: its byte offset (R184, R185). -/
def localRange (t : Thread) (ea : W64) (n right : Nat) : Except Stop Nat := do
  let g := t.seg (ea.extractLsb' 61 3).toNat
  need (g.kind = 2) SEGV ea
  need (ea.toNat % 16 = 0) ALIGN ea
  let (_, o) ← segCheck t ea n right
  need (o + n ≤ 0x100000) SEGV ea
  return o

/-- MLDB (R184). -/
def execMldb (t : BitVec 4) (c b a : Reg) (n : BitVec 3) (s : State) : Out :=
  run (.mldb t c b a n) s (do
    need (n.toNat % tileBanks t.toNat = 0) FORMAT (n.setWidth 64)
    let o ← localRange s.me (s.me.rg a) (tileSize t.toNat) rightR
    let sB : W32 := if b = 0 then 0x3F800000 else (s.me.rg b).extractLsb' 0 32
    enqueueBody s 1 (.mldb t n.toNat o sB) c 1)

/-- MZERO (R185). -/
def execMzero (c : Reg) (m : BitVec 2) (s : State) : Out := run (.mzero c m) s (enqueueBody s 1 (.mzero m.toNat) c 1)

/-- MRD (R185). -/
def execMrd (c b a : Reg) (m : BitVec 2) (s : State) : Out :=
  run (.mrd c b a m) s (do
    let v := s.me.rg b
    let first := (v.extractLsb' 0 7).toNat
    let n := (v.extractLsb' 8 7).toNat + 1
    need (v.getLsbD 7 = false ∧ v.getLsbD 15 = false ∧ v.extractLsb' 18 46 = 0 ∧ first + n ≤ 128) FORMAT v
    let w := if v.getLsbD 16 then 256 else 512
    let o ← localRange s.me (s.me.rg a) (n * w) rightW
    enqueueBody s 1 (.mrd m.toNat first n (v.getLsbD 16) (v.getLsbD 17) o) c 1)

/-! ## The interlock (R173) -/

/-- An entry that has begun its work. -/
def Entry.begun (e : Entry) : Bool := e.state = .running || e.state = .paused || e.page || (e.state = .parked && !e.unreleased)

/-- A begun entry of a list of queues' heads that uses one of the banks. -/
def bankConflict (heads : List Entry) (banks : List Nat) (jobsToo : Bool) : Bool :=
  heads.any (fun e => e.begun && (loadBanks e ++ (if jobsToo then jobBanks e else [])).any (fun b => banks.contains b))

/-- Heads of queues as a list. -/
def headOf (q : EngineQueue) : List Entry := q.entries.head?.toList

/-- A tile copy that the interlock of R173 keeps from starting. -/
def copyBlocked (a : CoreArch) (urgent : Bool) (e : Entry) : Bool :=
  !e.begun && bankConflict (headOf a.mq ++ headOf a.umq ++ headOf (a.queue 2 (!urgent))) (loadBanks e) true

/-! ## MSTAT (R186) -/

/-- The state code of a queue's head: running, held (a parked job, a held copy) or paused. -/
def headState (q : EngineQueue) : Nat :=
  match q.entries with
  | [] => 0
  | e :: _ => if e.state = .paused then 3 else if e.state = .parked || e.page then 2 else if e.state = .running then 1 else 0

def headSlot (q : EngineQueue) : Nat := ((q.entries.head?).map (fun e => e.slot % 16)).getD 0

/-- Entries that load banks now: started loads of both engines. -/
def loadingEntries (a : CoreArch) : List Entry :=
  ([a.mq, a.umq, a.cq, a.ucq].filterMap (fun q => q.entries.head?)).filter (fun e => e.begun && !(loadBanks e).isEmpty)

/-- A bit for each bank of a list. -/
def bankBits (l : List Nat) : Nat := upTo 8 (fun m b => if l.contains b then m + 2 ^ b else m) 0

/-- The status word a selector names. -/
def mstatWord (s : State) (key : Nat) (sel : W64) : W64 :=
  let t := s.thread key
  let a := s.arch (coreOf key)
  let record (eng : Nat) : W64 :=
    let r := t.faultOf eng
    r.fser ++ 0#23 ++ BitVec.ofBool r.unreported ++ r.fcause
  match sel.toNat with
  | 0 =>
    BitVec.ofNat 64 (t.fcred.toNat * 2 ^ 40 + a.accOfl.toNat * 2 ^ 36 + a.accNan.toNat * 2 ^ 32 +
      bankBits (a.tiles.map (·.1)) * 2 ^ 24 + bankBits ((loadingEntries a).flatMap loadBanks) * 2 ^ 16 +
      headSlot a.mq * 16 + a.mq.entries.length * 4 + headState a.mq)
  | 1 => BitVec.ofNat 64 (headSlot a.cq * 16 + a.cq.entries.length * 4 +
      (if (headOf a.cq).any (copyBlocked a false) then 2 else headState a.cq))
  | 2 => record 1
  | 3 => record 2
  | 4 => (t.faultOf 1).faddr
  | 5 => (t.faultOf 2).faddr
  | _ => 0

def execMstat (a d : Reg) (s : State) : Out := .next (s.finishG d (mstatWord s s.cur (s.me.rg a)) 6)

/-! ## ENG (R190-R192) -/

/-- A token's fields, or FORMAT: engine, slot, serial. -/
def readToken (t : W64) : Except Stop (Nat × Nat × W32) := do
  let eng := (t.extractLsb' 38 2).toNat
  need (t.extractLsb' 40 24 = 0 ∧ t.extractLsb' 32 3 = 0 ∧ (eng = 1 ∨ eng = 2)) FORMAT t
  return (eng, (t.extractLsb' 35 3).toNat, t.extractLsb' 0 32)

/-- EWAIT: what an ended entry reports to its own slot. -/
def execEwait (a d : Reg) (s : State) : Out :=
  run (.ewait a d) s (do
    let (eng, slot, serial) ← readToken (s.me.rg a)
    if !serialEnded (s.engine s.myCore eng (isUrgentSlot slot)) serial then .error (.park 0x0A (a.setWidth 64) false [] [])
    else
      let s1 := acquireAt s s.myCore 1
      let t := s1.me
      let r := t.faultOf eng
      if slot = slotOf s.cur ∧ r.unreported ∧ (serial - r.fser).toNat < 2 ^ 31 then
        let t1 : Thread := { t with efault := tput t.efault eng { r with unreported := false } }
        if d ≠ 0 then return s1.finish (t1.wg d (r.fser ++ 0#22 ++ BitVec.ofNat 2 eng ++ r.fcause)) 6
        else if twinLag s s.cur then .error .hold
        else return trapMe (s1.setMe t1) ENGINE r.faddr
      else return s1.finish (t.wg d 0) 6)

/-- What is earlier than an EFENCE in its named queues and run. -/
def efenceEarlier (s : State) (key : Nat) (m : BitVec 5) : List (Nat × W32) :=
  (if m.getLsbD 0 then (slotEntries s key 1).map (fun e => (1, e.serial)) else []) ++
  (if m.getLsbD 1 then (slotEntries s key 2).map (fun e => (2, e.serial)) else []) ++
  (if m.getLsbD 2 then [(3, (s.thread key).runSer)] else [])

/-- EFENCE: with bit 4 the thread waits; without it, later entries of the named sources do. -/
def execEfence (m : BitVec 5) (s : State) : Out :=
  run (.efence m) s (do
    let key := s.cur
    let t := s.me
    if m.getLsbD 4 then
      if !efenceClear s key m then
        .error (.park 0x0A 0 false [] [])
      else if (m.getLsbD 2 && t.run.isSome) || !t.cmp.isEmpty || (s.core s.myCore).storeq.any (fun e => e.slot == slotOf key) then .error .hold
      else return s.finish t 6
    else
      let named := (if m.getLsbD 0 then [1] else []) ++ (if m.getLsbD 1 then [2] else []) ++ (if m.getLsbD 2 then [3] else []) ++
        (if m.getLsbD 3 then [4] else [])
      let before := efenceEarlier s key m
      let ef := named.foldl (fun f src =>
        let old := (tget [] f src).filter (fun x => !barrierPassed s key x)
        tput f src (old ++ before.filter (fun x => !old.contains x))) t.efence
      return s.finish { t with efence := ef } 6)

/-- ECANCEL: the entries stop, and the instruction completes when each has (R190). -/
def execEcancel (a d : Reg) (s : State) : Out :=
  run (.ecancel a d) s (do
    let (eng, slot, serial) ← readToken (s.me.rg a)
    if slot ≠ slotOf s.cur then return s.finishG d 0 6
    else
      let mine (e : Entry) : Bool := e.slot == slot && decide ((e.serial - serial).toNat < 2 ^ 31)
      let u := isUrgentSlot slot
      let n := ((s.engine s.myCore eng u).entries.filter mine).length
      let s1 := reapCore (cancelWhere s s.myCore eng u mine) s.myCore
      if (s1.engine s.myCore eng u).entries.any (fun e => mine e && !e.pipe.isEmpty) then
        let w : Wait :=
          { kind := 0, eval := 0, deadline := none, remote := none, instr := .ecancel a d, taken := [], sent := true, aux := n, reply := none }
        return s1.setMe { s1.me with wait := some w, busy := some (s.doneAt 6) }
      else return s1.finishG d (BitVec.ofNat 64 n) 6)

/-- The cancelled entries of a slot have stopped: none has a step in the pipe (R181). One that has none stops at once, and leaves
its queue when it is at the head. -/
def cancelStopped (s : State) (key : Nat) : Bool :=
  !(slotEntries s key 1 ++ slotEntries s key 2).any (fun e => e.cancelled && !e.pipe.isEmpty)

/-! ## Starts (R173, R176, R178, R336) -/

/-- The engine may take up work for a core now: a service core has none (R10), and a relock stops a die's engines (R17). -/
def engineMayRun (s : State) (core : Nat) : Bool :=
  decide (core < 1280) && !ctxStopped s core && (s.core core).migrating.isNone && dieReachable s (dieOf core)

/-- The head of a queue may start as far as the other queue of its engine goes: urgent work waits for the running entry to
pause, other work for the urgent queue. -/
def turnOf (a : CoreArch) (eng : Nat) (urgent : Bool) : Bool :=
  if urgent then (headOf (a.queue eng false)).all (fun e => e.state != .running) else (a.queue eng true).entries.isEmpty

/-- Replace the head of a queue. -/
def setHead (s : State) (core eng : Nat) (urgent : Bool) (e : Entry) : State :=
  let q := s.engine core eng urgent
  s.setEngine core eng urgent { q with entries := e :: q.entries.drop 1 }

/-- What becomes of a job at the head: held on a lock, an unaccepted store or the interlock of R173, faulted by R176, or started
with its table. The interlock is clear before a check that looks at the banks decides (R173, R181). -/
inductive JobStart where
  | wait
  | fault (cause : Byte) (addr : W64)
  | begin_ (nest : List NestLevel)
deriving DecidableEq, Repr

def jobStart (s : State) (core : Nat) (e : Entry) (other copies : List Entry) : JobStart :=
  let c := cardOf e
  match checkCard c with
  | .error (x, f) => .fault x f
  | .ok _ =>
    if (lockedByte (s.arch core) (e.slot % 16) c.nbase (16 * c.levels)).isSome then .wait
    else
      match engineBytes s core e.slot c.nbase (16 * c.levels) with
      | none => .wait
      | some table =>
        match readNest c table with
        | .error (x, f) => .fault x f
        | .ok nest =>
          let banks := jobBanks { e with nest := nest }
          if bankConflict other banks false then .fault ENGINE 0
          else if bankConflict copies banks false then .wait
          else
            match checkNest s core c nest with
            | .error (x, f) => .fault x f
            | .ok _ => .begin_ nest

/-- MATRIX_ENTRY_START: a head that may start is validated, and starts or faults. -/
def execMatrixEntryStart (core : Nat) (urgent : Bool) (s : State) : Out :=
  let a := s.arch core
  match (a.queue 1 urgent).entries with
  | [] => .next s
  | e :: _ =>
    if e.unreleased ∧ e.state = .queued ∧ !e.cancelled then .next (setHead s core 1 urgent { e with state := .parked })
    else if e.unreleased ∨ e.cancelled ∨ !(e.state == .queued || e.state == .parked) ∨ e.fault.isSome ∨ !engineMayRun s core ∨ !turnOf a 1 urgent ∨
        !e.after.all (barrierPassed s (keyOf core (e.slot % 16))) then .next s
    else
      let other := if urgent then headOf a.mq else []
      let copies := headOf a.cq ++ headOf a.ucq
      let begin_ (e : Entry) (end_ : Nat) : State := setHead s core 1 urgent { e with state := .running, start := end_ }
      match e.kind with
      | .job _ _ _ _ _ _ _ =>
        (match jobStart s core e other copies with
         | .wait => .next s
         | .fault c f => .next (endEntry s core 1 urgent (.faulted c f))
         | .begin_ nest => .next (begin_ { e with nest := nest, next := 0 } (s.pk.array + 32)))
      | .mldb fmt _ _ _ =>
        if bankConflict other (loadBanks e) true then .next (endEntry s core 1 urgent (.faulted ENGINE 0))
        else if bankConflict copies (loadBanks e) false then .next s
        else
          let s1 := begin_ e (s.pk.array + 16 + tileSize fmt.toNat / 256)
          .next (s1.setArch core (invalidate (s1.arch core) (loadBanks e)))
      | .mzero _ => .next (begin_ e (s.pk.array + 128))
      | .mrd _ _ n b16 _ _ => .next (begin_ e (s.pk.array + 16 + n * (if b16 then 256 else 512) / 256))
      | .copy _ _ _ _ _ _ _ _ => .next s

/-- The running head of the matrix queue: with urgent work waiting, it goes no further (R335). -/
def runningHead (s : State) (core : Nat) (urgent : Bool) : Option Entry :=
  match (s.engine core 1 urgent).entries with
  | e :: _ => if e.state = .running ∧ e.fault = none ∧ engineMayRun s core ∧ turnOf (s.arch core) 1 urgent then some e else none
  | [] => none

/-! ## Steps and promotions (R177-R179) -/

/-- JOB_STEP_ISSUE: the step's operands are read and its products formed; poison stops the job, a lock holds it. -/
def execJobStepIssue (core : Nat) (urgent : Bool) (s : State) : Out :=
  match runningHead s core urgent with
  | none => .next s
  | some e =>
    match e.kind with
    | .job ovr _ _ _ _ _ _ =>
      let c := cardOf e
      let a := s.arch core
      if e.cancelled ∨ stepCount e.nest ≤ e.next ∨ s.pk.array < e.start then .next s
      else
        let ao := (stepValue c.abase (·.astr) e.nest e.next).toNat
        let so := (stepValue c.sbase (·.sstr) e.nest e.next).toNat
        let ko := c.kbase + ao / 32
        let row := (stepValue c.row0 (·.accstr) e.nest e.next).toNat
        let bank := (stepValue c.bank0 (·.bankstr) e.nest e.next).toNat
        let n := rowBytes c.fmt
        let ranges := [(ao, n)] ++ (if c.usa then [] else [(so, 4)]) ++ (if c.fmt = 8 then [(ko, 2)] else [])
        if ranges.any (fun r => (lockedByte a (e.slot % 16) r.1 r.2).isSome) then .next s
        else
          let read (r : Nat × Nat) : Option (List Byte × Bool) := engineBytes s core e.slot r.1 r.2
          let got (o n : Nat) : List Byte := ((read (o, n)).map (·.1)).getD []
          if ranges.any (fun r => (read r).isNone) then .next s
          else
          match ranges.find? (fun r => ((read r).map (·.2)).getD false), tfind a.tiles bank with
          | some r, _ => .next (setHead s core 1 urgent { e with fault := some (POISON, localAddr r.1) })
          | none, none => .next (setHead s core 1 urgent { e with fault := some (FORMAT, localAddr c.nbase) })
          | none, some t =>
            if tilePoisoned a t then .next (setHead s core 1 urgent { e with fault := some (POISON, 0) })
            else
              let bs := got ao n
              let ks := if c.fmt = 8 then got ko 2 else []
              let A (k : Nat) : Fp := elemOf c.fmt (fun i => (bs.getD i 0).toNat) k (ks.getD (k / 64) 0).toNat
              let sA := if c.usa then 0x3F800000 else natOfBytes (got so 4)
              let p := stepProducts a t A sA
              let pr : Promotion := { row := row, ovr := ovr, vals := p.1, ofl := p.2, at_ := s.pk.array + 40 }
              .next (setHead s core 1 urgent { e with
                next := e.next + 1, pipe := e.pipe ++ [pr], start := s.pk.array + stepCycles c.fmt })
    | _ => .next s

/-- The head job ends where its pipe is empty: faulted, cancelled or done. -/
def settleJob (s : State) (core : Nat) (urgent : Bool) : State :=
  match (s.engine core 1 urgent).entries with
  | e :: _ =>
    if !e.pipe.isEmpty then s
    else
      match e.fault with
      | some (c, f) => endEntry s core 1 urgent (.faulted c f)
      | none =>
        if e.cancelled then reapCore s core
        else if e.state = .running ∧ e.next = stepCount e.nest ∧ e.next ≠ 0 then endEntry s core 1 urgent .done else s
  | [] => s

/-- JOB_PROMOTION: the oldest step in the pipe is promoted, 40 array cycles after its issue; the last one ends the job. -/
def execJobPromotion (core : Nat) (urgent : Bool) (s : State) : Out :=
  match (s.engine core 1 urgent).entries with
  | [] => .next s
  | e :: _ =>
    match e.kind, e.pipe with
    | .job _ acc _ _ _ _ _, p :: rest =>
      let a := s.arch core
      if s.pk.array < p.at_ ∨ !dieReachable s (dieOf core) then .next s
      else
        let fresh := p.ovr && !e.rowsDone.contains p.row
        if !fresh && rowPoisoned a acc p.row then
          .next (settleJob (setHead s core 1 urgent { e with pipe := [], fault := some (e.fault.getD (POISON, 0)) }) core urgent)
        else
          let s1 := s.setArch core (promoteRow a acc p fresh)
          .next (settleJob (setHead s1 core 1 urgent { e with pipe := rest, rowsDone := sadd e.rowsDone p.row }) core urgent)
    | .job _ _ _ _ _ _ _, [] => .next (if dieReachable s (dieOf core) then settleJob s core urgent else s)
    | _, _ => .next s

/-! ## Pauses (R181, R336) -/

/-- A running entry of the queue must stop: urgent work, or a halt or migration. -/
def mustPause (s : State) (core eng : Nat) (urgent : Bool) : Bool :=
  (!urgent && !(s.engine core eng true).entries.isEmpty) || ctxStopped s core || (s.core core).migrating.isSome

/-- ENGINE_PAUSE: the running entry stops between two steps or two 4 KiB units; what remains of its array cycles is kept. -/
def execEnginePause (core : Nat) (copy urgent : Bool) (s : State) : Out :=
  let eng := if copy then 2 else 1
  match (s.engine core eng urgent).entries with
  | e :: _ =>
    if (e.state = .running ∨ (copy ∧ e.state = .parked)) ∧ mustPause s core eng urgent then
      .next (setHead s core eng urgent { e with state := .paused, start := if copy then e.start else e.start - s.pk.array })
    else .next s
  | [] => .next s

/-- ENGINE_RESUME: it continues with its next step. -/
def execEngineResume (core : Nat) (copy urgent : Bool) (s : State) : Out :=
  let eng := if copy then 2 else 1
  match (s.engine core eng urgent).entries with
  | e :: _ =>
    if e.state = .paused ∧ !mustPause s core eng urgent then
      .next (setHead s core eng urgent { e with state := .running, start := if copy then e.start else e.start + s.pk.array })
    else .next s
  | [] => .next s

/-! ## MLDB, MZERO, MRD (R184, R185, R420) -/

/-- MLDB_END: the image is read and placed, and the tile is valid; poison in the scratchpad faults it. -/
def execMldbEnd (core : Nat) (urgent : Bool) (s : State) : Out :=
  match runningHead s core urgent with
  | none => .next s
  | some e =>
    match e.kind with
    | .mldb fmt bank src sB =>
      let n := tileSize fmt.toNat
      if s.pk.array < e.start ∨ (lockedByte (s.arch core) (e.slot % 16) src n).isSome then .next s
      else
        match engineBytes s core e.slot src n, (List.range (n / 16)).find? (fun k =>
          ((engineBytes s core e.slot (src + 16 * k) 16).map (·.2)).getD false) with
        | none, _ => .next s
        | some _, some k => .next (endEntry s core 1 urgent (.faulted POISON (localAddr (src + 16 * k : Nat))))
        | some r, none =>
          let a := placeImage (s.arch core) fmt.toNat bank 0 r.1
          .next (endEntry (s.setArch core (validTile a fmt bank sB)) core 1 urgent .done)
    | _ => .next s

/-- MZERO_END: every pair of the accumulator is (+0, +0), and its sticky bits are clear. -/
def execMzeroEnd (core : Nat) (urgent : Bool) (s : State) : Out :=
  match runningHead s core urgent with
  | none => .next s
  | some e =>
    match e.kind with
    | .mzero acc =>
      if s.pk.array < e.start then .next s
      else
        let a := s.arch core
        let inside (k : Nat) : Bool := k / 16384 == acc
        .next (endEntry (s.setArch core { a with
          acc := a.acc.filter (fun x => !inside x.1), accPoison := a.accPoison.filter (fun k => !inside k),
          accNan := a.accNan &&& ~~~(1#4 <<< acc), accOfl := a.accOfl &&& ~~~(1#4 <<< acc) }) core 1 urgent .done)
    | _ => .next s

/-- One element of an MRD: even + odd rounded once from the exact sum. -/
def mrdElement (b16_ : Bool) (p : W64) : Nat :=
  let F := if b16_ then b16 else f32
  (fpAdd F 0 (fpDecode f32 (p.extractLsb' 0 32).toNat) (fpDecode f32 (p.extractLsb' 32 32).toNat)).1

/-- MRD_END: the rows are written to the scratchpad, after the issuing thread's own earlier stores to their bytes (R185, R198), and
the pairs cleared where asked. -/
def execMrdEnd (core : Nat) (urgent : Bool) (s : State) : Out :=
  match runningHead s core urgent with
  | none => .next s
  | some e =>
    match e.kind with
    | .mrd acc first n b clr dst =>
      let w := if b then 2 else 4
      let a := s.arch core
      if s.pk.array < e.start ∨ (lockedByte a (e.slot % 16) dst (n * 128 * w)).isSome ∨
          (e.slot < 8 ∧ ownPending s (keyOf core e.slot) (.spad core dst) (n * 128 * w) ≠ []) then .next s
      else if (List.range n).any (fun r => rowPoisoned a acc (first + r)) then .next (endEntry s core 1 urgent (.faulted POISON 0))
      else
        let row (r : Nat) : List Byte :=
          (List.range 128).flatMap (fun j => bytesOfNat w (mrdElement b (tget 0 a.acc (accKey acc (first + r) j))))
        let mem := upTo n (fun m r => spadWrite m core (dst + r * 128 * w) (row r)) s.mem
        let inside (k : Nat) : Bool := accKey acc first 0 ≤ k && k < accKey acc (first + n) 0
        let a1 : CoreArch := if clr then { a with acc := a.acc.filter (fun x => !inside x.1) } else a
        .next (endEntry ({ s with mem := mem }.setArch core a1) core 1 urgent .done)
    | _ => .next s

end

end Sys2Proof.Machine
end

