-- ==== Sys2Proof/Machine/Control.lean ====
section
/-! DEFINITION. Thread control (R78-R86): CTRL, GANG, NEST and ITER, SPL, and the events of threads: completion, sleep,
handler start, scrub, lock timeout. -/

namespace Sys2Proof.Machine

noncomputable section

/-! ## CTRL (R78-R80) -/

/-- TRAP: SWTRAP with g_a as EVAL; in slot 7 it escalates, and EVAL takes g_a (R61, R78). -/
def execTrap (a : Reg) (s : State) : Out :=
  run (.trap a) s
    (if slotOf s.cur = 7 then
      let v := s.me.rg a
      .ok (trapMe (s.setArch s.myCore { s.arch s.myCore with eval := v }) SWTRAP v)
    else .error (.trap SWTRAP (s.me.rg a)))

/-- A handler invocation runs in the acting slot. -/
def inInvocation (s : State) : Option TrapRecord := if slotOf s.cur = 7 then (s.arch s.myCore).serving else none

/-- Messages deferred while a slot was trapped reach its inbox, and a deferred reply its instruction in flight (R62). -/
def deliverDeferred (s : State) (key : Nat) : State :=
  let t := s.thread key
  let words := t.deferred.filter (fun d => d.reply.isNone && d.kind != 6)
  s.setThread key { t with
    inbox := t.inbox ++ words.map (fun d => (d.word, d.tid)), deferred := [],
    wait := t.wait.map (fun w => { w with reply := w.reply.or (t.deferred.findSome? (·.reply)) }) }

/-- The trapped thread goes on: an instruction of it that is still in flight completes with its deferred reply, or is waited
for (R62, R152). -/
def resumeTrapped (s : State) (core : Nat) (r : TrapRecord) (pc : W64) : State :=
  let key := keyOf core r.slot
  let s1 := acquireAt (returnTo (deliverDeferred s key) core r pc) core 1
  let s2 := if replyDue s1 key then deliver s1 key else s1
  match (s.thread key).deferred.find? (·.kind == 6) with
  | some d => lateTrap s2 key (d.tid.setWidth 8) d.word
  | none => s2

/-- ERET: the return from a trap: a release at CORE scope by slot 7, and an acquire by the resumed thread (R230). -/
def execEret (s : State) : Out :=
  privileged .eret 1 s (
    run .eret s
      (match inInvocation s with
       | none => .error (.trap ILLOP s.me.pc)
       | some r =>
         if releaseHeld s s.cur then .error .hold
         else .ok (endInvocation (resumeTrapped s s.myCore r (s.arch s.myCore).epc) s.myCore)))

/-- KILL: the trapped slot is killed with its trap's cause (R63, R307). -/
def execKill (s : State) : Out :=
  privileged .kill 1 s (
    run .kill s
      (match inInvocation s with
       | none => .error (.trap ILLOP s.me.pc)
       | some r => .ok (endInvocation (killThread s (keyOf s.myCore r.slot) r.cause) s.myCore)))

/-- YIELD. -/
def execYield (s : State) : Out := .next (s.finish { s.me with yielded := true } 6)

/-- SLEEP: with a timeout it has no WLIM deadline; where it returns 0 it acquires at the widest scope of the wakes it answers
(R79). -/
def execSleep (a d : Reg) (s : State) : Out :=
  run (.sleep a d) s
    (if s.me.wakef then
      .ok (acquireAt (s.finish ({ s.me with wakef := false, wakeSc := 0 }.wg d 0) 6) s.myCore s.me.wakeSc.toNat)
    else
      let v := s.me.rg a
      let s1 := parkMe s 0x0E 0 (.sleep a d)
      let t := s1.me
      .ok (if v = 0 then s1
        else s1.setMe { t with wait := t.wait.map (fun w => { w with deadline := none, aux := s.tim + v.toNat }) }))

/-- SLEEP_TIMEOUT. -/
def execSleepTimeout (core slot : Nat) (s : State) : Out :=
  let key := keyOf core slot
  match (s.thread key).wait with
  | some w =>
    (match w.instr with
     | .sleep _ d => if w.aux ≠ 0 ∧ w.aux ≤ s.tim then .next (answer s key (Reply.reg d 1)) else .next s
     | _ => .next s)
  | none => .next s

/-- Set a thread's wake flag, with the wake's scope; a sleeping thread leaves its wait. -/
def wakeThread (s : State) (key sc : Nat) : State :=
  let t := s.thread key
  let flagged := s.setThread key { t with wakef := true, wakeSc := if t.wakeSc.toNat < sc then BitVec.ofNat 3 sc else t.wakeSc }
  match t.state, t.wait with
  | .parked, some w =>
    (match w.instr with
     | .sleep _ d => if w.kind = 0x0E ∧ w.reply.isNone then answer s key { Reply.reg d 0 with acquire := some (BitVec.ofNat 3 sc) }
                     else flagged
     | _ => flagged)
  | _, _ => flagged

/-- WAKE: a release at the smallest scope that spans both threads, eager at DIE (R79); a name of a vacated core is forwarded (R338). -/
def execWake (a d : Reg) (s : State) : Out :=
  run (.wake a d) s (do
    match s.ofTid (s.me.rg a) with
    | none => return s.finishG d 3 6
    | some named =>
      let key := keyOf (forwardCore s s.me.kid (coreOf named)) (slotOf named)
      if (s.thread key).state = .empty then return s.finishG d 1 6
      else if s.partOf (coreOf key) ≠ s.partOf s.myCore then return s.finishG d 2 6
      else if releaseWaits s s.cur (scopeSpan s.myCore (coreOf key)) false then .error .hold
      else
        let sc := scopeSpan s.myCore (coreOf key)
        let s1 := wakeThread (releaseMoves s s.myCore sc false) key sc
        return s1.finish (s1.me.wg d 0) 6)

/-- KEXIT: held until the run and every engine entry have ended; the locks are released; then held until the stores are
accepted (R78, R191). R78 writes 'wait until the thread's sequencer is empty', which R6 makes a park; R151 and R191 hold KEXIT at
issue, and R57 has no wait kind for it: the model holds (DESIGN CHOICE, log 92). -/
def execKexit (s : State) : Out :=
  run .kexit s
    (if s.me.run.isSome || hasEntries s s.myCore (slotOf s.cur) then .error .hold
    else
      let s1 := releaseLocks s s.myCore (fun l => l.slot == slotOf s.cur)
      if releaseHeld s1 s.cur then .ok s1
      else
        let s2 := forwardWord s1 s.cur .kexit s.me.pc (s.me.pc + 4)
        let s3 := exitThread s2 s.cur
        .ok (if s.me.twl then s3.setThread (partnerOf s.cur) Thread.reset else s3))

/-! ## GANG (R81, R82) -/

/-- The trailer bound beside a leader: a copy of its registers and CSRs. -/
def trailerOf (t : Thread) : Thread :=
  { t with twt := true, twl := false, bound := false, inbox := [], deferred := [], fcred := 0, efault := [], lvq := [], cmp := [],
           fwd := [], arrived := [], aredIn := [], peers := [], mcstOpen := [], mcstFailed := [] }

/-- TWIN. -/
def execTwin (d : Reg) (s : State) : Out :=
  let t := s.me
  let slot := slotOf s.cur
  if t.twl || t.twt || t.state == .following || (s.followerOf s.cur).isSome then .next (s.finishG d 3 6)
  else if slot % 2 = 1 ∨ 6 ≤ slot then .next (s.finishG d 2 6)
  else if (s.thread (partnerOf s.cur)).state ≠ .empty then .next (s.finishG d 1 6)
  else
    let lead : Thread := ({ t with twl := true, twinAt := 0, lvq := [], cmp := [] }.wg d 0).adv (s.doneAt 6)
    .next ((s.setMe lead).setThread (partnerOf s.cur) (trailerOf lead))

/-- UNTWIN: the gate before it has let the trailer reach it (R67). -/
def execUntwin (d : Reg) (s : State) : Out :=
  run (.untwin d) s
    (if s.me.twl then
      if !s.me.cmp.isEmpty then .error .hold
      else
        let s1 := s.setThread (partnerOf s.cur) Thread.reset
        .ok (s1.finish ({ s1.me with twl := false, lvq := [], cmp := [], twinAt := 0 }.wg d 0) 6)
    else .ok (s.finishG d 1 6))

/-- Status 2 or 3 of FOLLOW and JOIN, if the thread cannot follow. JOIN takes FOLLOW's 3 for a twinned thread or predecessor
(DESIGN CHOICE, log 39: its row names 0, 1, 2 and 'conditions as for FOLLOW'). -/
def cannotFollow (s : State) : Option W64 :=
  match predecessor s.cur with
  | none => if s.me.twl || s.me.twt then some 3 else some 2
  | some p =>
    let x := s.thread p
    if s.me.twl || s.me.twt || x.twl || x.twt then some 3
    else if x.state = .empty ∨ ¬ x.bound ∨ ¬ s.me.bound ∨ x.kid ≠ s.me.kid then some 2
    else none

/-- Wait at the point of FOLLOW or JOIN, or the status that ends it. -/
def followBody (i : Instr) (d : Reg) (s : State) : Except Stop State :=
  match cannotFollow s with
  | some st => .ok (s.finishG d st 6)
  | none => .error (.park 0x0F s.me.pc false [] [])

/-- FOLLOW: in a FOLLOWING thread it binds nothing. -/
def execFollow (d : Reg) (s : State) : Out :=
  run (.follow d) s (if s.me.state = .following then .ok (s.finishG d 0 6) else followBody (.follow d) d s)

/-- JOIN. -/
def execJoin (d : Reg) (s : State) : Out :=
  run (.join d) s (if s.me.det then followBody (.join d) d s else .ok (s.finishG d 2 6))

/-- DETACH. -/
def execDetach (d : Reg) (s : State) : Out :=
  if s.me.state = .following then .next (s.finish ((s.me.detach).wg d 0) 6) else .next (s.finishG d 1 6)

/-- CHK: check bits are written for the recomputed result (R69). -/
def execChk (d : Reg) (s : State) : Out :=
  let t := s.me
  let t1 : Thread := match t.pend with
    | some (r, v) =>
      if t.ck ∧ r = d then
        { t with pend := none, bad := if v = t.rg d then tdel t.bad d.toNat else tput t.bad d.toNat v }
      else t
    | none => t
  .next (s.finish t1 6)

/-! ## NEST and ITER (R74, R75, R83) -/

/-- The descriptor's checks: alignment, and rights R, W and A; its DVA. A segment that is not global traps SEGV (DESIGN CHOICE,
log 54: R74 puts the descriptor in global memory, and R84 names no trap for another kind). -/
def nestSeg (t : Thread) (dsc : W64) : Except Stop Nat := do
  need (dsc.extractLsb' 0 6 = 0) ALIGN dsc
  let _ ← segCheck t dsc 64 rightW
  let _ ← segCheck t dsc 64 rightA
  let (kind, o) ← segCheck t dsc 64 rightR
  need (kind = 1) SEGV dsc
  return o

/-- The descriptor's place, with the page's checks. -/
def nestPlace (s : State) (key : Nat) (dsc : W64) : Except Stop (State × Nat × Nat × W64) := do
  let o ← nestSeg (s.thread key) dsc
  let (s, leaf, pa) ← translate s (clusterOf (coreOf key)) (s.partOf (coreOf key)) o 7 dsc
  need (leafCls leaf ≠ 4) ACCESS dsc
  return (s, o, pa, leaf)

/-- The bytes of a descriptor at its home; poison kills. A home, or lines that an acquire drains, on a die that relocks hold it (R18). -/
def nestRead (s : State) (key dva pa : Nat) (leaf : W64) (acq : Bool) : Except Stop (State × List Byte) :=
  if !placeReachable s key (.global dva pa leaf) || (acq && !recordsOpen s pa) then .error .hold
  else
  let r := atHome s (coreOf key) (s.partOf (coreOf key)) dva pa 64 (if acq then some 4 else none) (fun _ => none)
  if r.2.2 then .error .poison else .ok (r.1, mreadN r.1.mem.ram pa 64)

/-- Levels, participants, minimum chunk and bounds. -/
structure NestDesc where
  next : Nat
  total : Nat
  bounds : List Nat
  levels : Nat
  p : Nat
  minch : Nat
deriving DecidableEq, Repr

def parseNest (b : List Byte) : NestDesc :=
  { next := fieldAt b 0 8, total := fieldAt b 8 8, bounds := (List.range 5).map (fun i => fieldAt b (16 + 4 * i) 4),
    levels := fieldAt b 36 1, p := fieldAt b 38 2, minch := fieldAt b 40 4 }

/-- NEST at the descriptor's home: the status. -/
def nestPerform (s : State) (key : Nat) (dsc : W64) : Except Stop (State × W64) := do
  let (s, dva, pa, leaf) ← nestPlace s key dsc
  if !drainOpen s (clusterOf (coreOf key)) then .error .hold
  let (s, b) ← nestRead s key dva pa leaf false
  let x := parseNest b
  let total := (x.bounds.take x.levels).foldl (· * ·) 1
  if x.levels < 1 ∨ 5 < x.levels ∨ x.p = 0 ∨ x.minch = 0 ∨ 2 ^ 63 ≤ total then return (s, 1)
  else
    let s1 := drainCluster s (clusterOf (coreOf key))
    return ({ s1 with mem := ramWrite s1.mem pa (bytesOfNat 8 0 ++ bytesOfNat 8 total) }, 0)

/-- NEST: a release at DEV; performed at once at a home in the own cluster, else parked until the home has performed it. -/
def execNest (a d : Reg) (s : State) : Out :=
  run (.nest a d) s (do
    let dsc := s.me.rg a
    let (s1, dva, pa, leaf) ← nestPlace s s.cur dsc
    if releaseWaits s s.cur 4 false then .error .hold
    else if homedIn s1 (clusterOf s.myCore) (s.partOf s.myCore) dva pa leaf then
      let (s2, st) ← nestPerform s1 s.cur dsc
      return s2.finish (s2.me.wg d st) 24
    else .error (.park 0x01 dsc false [] []))

/-- The indices of a linear index in the bounds of a descriptor's levels (R83); a level of bound 0 gives 0 (log 94). -/
def nestIndices (bounds : List Nat) (lin : Nat) : List W64 :=
  ((List.range 5).foldl (fun (r : List W64 × Nat) i =>
    match bounds[i]? with
    | some n => (r.1 ++ [BitVec.ofNat 64 (if n = 0 then 0 else r.2 % n)], if n = 0 then r.2 else r.2 / n)
    | none => (r.1 ++ [0], r.2)) ([], lin)).1

/-- The size of the next claim (R75). A descriptor that no NEST has validated may hold P = 0: the quotient is then 0 (DESIGN
CHOICE, log 94: the formula divides by zero). -/
def claimSize (x : NestDesc) : Nat :=
  let rem := x.total - x.next
  Nat.min rem (Nat.max x.minch ((rem + 2 * x.p - 1) / (2 * x.p)))

/-- A claim at the home: what the parked ITER receives; the descriptor's fields are read here, and kept for the chunk (R75). -/
def claimPerform (s : State) (key : Nat) (dsc : W64) (off : BitVec 14) : Except Stop (State × Reply) := do
  let (s, dva, pa, leaf) ← nestPlace s key dsc
  let (s, b) ← nestRead s key dva pa leaf true
  let x := parseNest b
  if x.total ≤ x.next then return (s, { Reply.plain with acquire := some 4 })
  else
    let t := s.thread key
    let target := branchTo ((t.wait.bind (·.at_)).getD t.pc) off
    need (target.extractLsb' 61 3 = 0) SEGV target
    let n := claimSize x
    let bounds := x.bounds.take x.levels
    let s1 := { s with mem := ramWrite s.mem pa (bytesOfNat 8 (x.next + n)) }
    return (s1, { Reply.plain with
      acquire := some 4, ix := nestIndices bounds x.next, itN := some bounds, pc := some target,
      csr := [(0x018, dsc), (0x016, BitVec.ofNat 64 (x.next + 1)), (0x017, BitVec.ofNat 64 (x.next + n))] })

/-- ITER: from the current chunk, or parked on a claim. -/
def execIter (f : BitVec 14) (a : Reg) (s : State) : Out :=
  run (.iter f a) s (do
    let t := s.me
    let dsc := t.rg a
    let _ ← nestSeg t dsc
    if t.itdsc = dsc ∧ t.itcur < t.itend then
      let target := branchTo t.pc f
      need (target.extractLsb' 61 3 = 0) SEGV target
      let ix := (nestIndices t.itN t.itcur.toNat).zipIdx.map (fun v => (v.2, v.1))
      return s.setMe { t.goto target (s.doneAt 6) with ix := ix, itcur := t.itcur + 1 }
    else
      let _ ← nestPlace s s.cur dsc
      .error (.park 0x10 dsc false [] []))

/-! ## SPL (R85, R86) -/

/-- The checks of SPL: the local segment, window W0, the scratchpad's end. -/
def splCheck (t : Thread) (a : Reg) (len : Nat) : Except Stop Unit := do
  let ea := t.rg a
  let g := t.seg (ea.extractLsb' 61 3).toNat
  need (g.kind = 2 ∧ (ea.extractLsb' 0 61).toNat + len ≤ g.lim.toNat ∧ splByte t a + len ≤ 0x100000 ∧ len ≠ 0) SEGV ea

/-- SPLK. -/
def execSplk (b a d : Reg) (s : State) : Out :=
  run (.splk b a d) s (do
    let t := s.me
    let slot := slotOf s.cur
    splCheck t a (t.rg b).toNat
    let r := splkRange t a b
    let x := s.arch s.myCore
    if x.locks.any (fun l => l.slot == slot && l.lo < r.2 && r.1 < l.hi) then return s.finishG d 2 6
    else if 4 ≤ x.locks.length then return s.finishG d 1 6
    else
      match (List.range (r.2 - r.1)).find? (fun k => x.locks.any (fun l => l.slot != slot && l.lo ≤ r.1 + k && r.1 + k < l.hi)) with
      | some k => .error (.park 0x0C (t.rg a + BitVec.ofNat 64 (r.1 + k) - BitVec.ofNat 64 (splByte t a)) false [] [])
      | none =>
        let l : Lock := { slot := slot, lo := r.1, hi := r.2, start := s.cyc s.myCore }
        let s1 := s.setArch s.myCore { x with locks := x.locks ++ [l], lost := x.lost.filter (· != (slot, r.1)) }
        return acquireAt (s1.finishG d 0 6) s.myCore 1)

/-- SPUL: a release at CORE scope. -/
def execSpul (a d : Reg) (s : State) : Out :=
  run (.spul a d) s (do
    let t := s.me
    let slot := slotOf s.cur
    splCheck t a 1
    let lo := splByte t a - splByte t a % 64
    let x := s.arch s.myCore
    if x.locks.any (fun l => l.slot == slot && l.lo == lo) then
      if releaseHeld s s.cur then .error .hold
      else
        let s1 := releaseLocks s s.myCore (fun l => l.slot == slot && l.lo == lo)
        return s1.finishG d 0 6
    else return s.finishG d (if x.lost.contains (slot, lo) then 1 else 2) 6)

/-! ## Events of threads -/

/-- INSTRUCTION_COMPLETE: the thread is eligible again, or pauses if it is marked (R52, R54); a pending table load takes
effect (R122). -/
def execInstructionComplete (core slot : Nat) (s : State) : Out :=
  let key := keyOf core slot
  let t := s.thread key
  match t.busy with
  | none => .next s
  | some d =>
    if s.cyc core < d ∨ normBusy s key then .next s
    else
      let ended (t : Thread) : Thread :=
        if t.pse ∧ (t.state = .ready ∨ t.state = .following) then pauseSlot true { t with busy := none, pse := false }
        else { t with busy := none }
      match t.wait, (t.state = .ready ∨ t.state = .following : Bool) with
      | some w, true =>
        (match w.instr with
         | .ecancel _ d =>
           if cancelStopped s key then
             .next (repauseIf6 (afterComplete (s.setThread key (ended (popForwarded { (t.wg d (BitVec.ofNat 64 w.aux)) with wait := none, pc := t.pc + 4 })))
               key w.instr t.pc) key)
           else .next s
         | _ =>
         match tableArrive (s.setThread key { t with wait := none }) key w.instr none with
         | .ok s1 =>
           let t1 := s1.thread key
           .next (repauseIf6 (afterComplete (s1.setThread key (ended (popForwarded { t1 with pc := t.pc + 4 }))) key w.instr t.pc) key)
         | .error .hold => .next s
         | .error e =>
           let s1 := { s.setThread key { t with wait := none, busy := none } with cur := key }
           .next { runBody w.instr (match e with
             | .trap _ _ => forwardTrap s1 key w.instr
             | _ => s1) (.error e) with cur := s.cur })
      | _, _ => .next (repauseIf6 (s.setThread key (ended t)) key)

/-- HANDLER_START (R59). -/
def execHandlerStart (core : Nat) (s : State) : Out := .next (startHandler s core)

/-- SCRUB_COMPLETE (R63). -/
def execScrubComplete (core slot : Nat) (s : State) : Out :=
  let key := keyOf core slot
  if (s.thread key).killed.isSome then .next (repauseIf6 (scrubEnd s key) key) else .next s

/-- LOCK_TIMEOUT: a lock held for longer than LOCKMAX core cycles is released; LKX is set and Treadle told (R66). -/
def execLockTimeout (core lo : Nat) (s : State) : Out :=
  let x := s.arch core
  match x.locks.find? (fun l => l.lo == lo) with
  | none => .next s
  | some l =>
    if s.cyc core ≤ l.start + x.lockmax.toNat ∨ ctxStopped s core ∨ (s.core core).migrating.isSome then .next s
    else
      let key := keyOf core l.slot
      let s1 := s.setArch core { x with lost := x.lost ++ [(l.slot, l.lo)] }
      let s2 := s1.setThread key { s1.thread key with lkx := true }
      let s3 := pushThreadEvent s2 key 0x04 0 (BitVec.ofNat 64 l.lo) (BitVec.ofNat 64 (l.hi - l.lo))
      .next (releaseLocks s3 core (fun y => y == l))

end

end Sys2Proof.Machine
end

