-- ==== Sys2Proof/Machine/MemEvents.lean ====
section
/-! DEFINITION. Events of memory: requests performed at a home or a scratchpad (R196, R204), write-backs and evictions
(R200), L2EFF samples (R203). -/

namespace Sys2Proof.Machine

noncomputable section

/-- Answer a parked thread with what came of its request: a page fault lets the instruction issue again, and drop. -/
def answerWith (s : State) (key : Nat) (r : Except Stop (State × Reply)) : State :=
  match r with
  | .ok (s', x) => answer s' key x
  | .error (.trap c e) => answer s key (Reply.fail c e)
  | .error .poison => answer s key { Reply.plain with kill := true }
  | .error .hold | .error (.walk _ _) => s
  | .error _ => answer s key Reply.again

/-- The acquire part of a scope. -/
def acqIf (acq : Bool) (scope : Nat) : Option (BitVec 3) := if acq then some (BitVec.ofNat 3 scope) else none

/-- A parked atomic performed at its point inside the package. -/
def lateAtomic (s : State) (key : Nat) (x : Atomic) : Except Stop (State × Reply) := do
  let (s1, _, p) ← atomPlace s key x
  if p.external || !placeReachable s1 key p then .error .hold
  else
    match p with
    | .spad c off => if (lockedByte (s1.arch c) (if c = coreOf key then slotOf key else 8) off x.n).isSome then .error .hold
    | .global _ pa _ => if x.acq && !recordsOpen s1 pa then .error .hold
    | _ => pure ()
    let (s2, old) ← atomPerform s1 key x p
    return (s2, { Reply.plain with g := x.result old, acquire := acqIf x.acq x.scope })

/-- A parked load-acquire performed at its home slice or scratchpad. -/
def lateLda (s : State) (key : Nat) (f : LdaForm) (taken : Mem) : Except Stop (State × Reply) := do
  let (s1, _, p) ← ldaPlace s key f
  if p.external || !placeReachable s1 key p then .error .hold
  else
    match p with
    | .global dva _ leaf =>
      if 3 ≤ f.scope then
        let (s2, bs) ← ldaHome s1 key f p
        return (s2, { Reply.plain with g := f.reg bs, acquire := acqIf true f.scope })
      else
        let s2 := if f.scope = 2 ∧ ¬ leafUC leaf then l1Drop s1 (coreOf key) (s.partOf (coreOf key)) dva else s1
        let r := loadNow s2 key p f.n taken
        if r.2.2 then .error .poison
        return (r.1, { Reply.plain with g := f.reg r.2.1, acquire := acqIf true f.scope })
    | .spad c off =>
      if (lockedByte (s1.arch c) 8 off f.n).isSome then .error .hold
      let r := loadNow s1 key p f.n taken
      if r.2.2 then .error .poison
      return (r.1, { Reply.plain with g := f.reg r.2.1, acquire := acqIf true f.scope })
    | _ => .error .hold

/-- The waiting instruction of a thread whose request has no answer yet; one that waits for a table walk has made none. -/
def waiting (s : State) (key : Nat) : Option Wait := (s.thread key).unanswered.filter (fun w => !w.walk)

/-- HOME_ATOMIC: an atomic, CAS, LDA, claim or NEST is performed at its home slice (R204, R75, R83). -/
def execHomeAtomic (core slot : Nat) (s : State) : Out :=
  let key := keyOf core slot
  match waiting s key with
  | none => .next s
  | some w =>
    if w.kind ≠ 0x01 ∧ w.kind ≠ 0x10 then .next s
    else
    match w.instr with
    | .iter f a => .next (answerWith s key (claimPerform s key ((s.thread key).rg a) f))
    | .nest a d => .next (answerWith s key ((nestPerform s key ((s.thread key).rg a)).map (fun r => (r.1, Reply.reg d r.2))))
    | i =>
      match atomicOf i, ldaOf i with
      | some x, _ => .next (answerWith s key (lateAtomic s key x))
      | none, some f => .next (answerWith s key (lateLda s key f w.taken))
      | none, none => .next s

/-- A parked load of another core's scratchpad. -/
def tileLoad (s : State) (key : Nat) (i : Instr) (f : LoadForm) (taken : Mem) : Except Stop (State × Reply) := do
  let ea ← effAddr ((s.thread key).rg f.base) f.off
  let (kind, o) ← accessCheck (s.thread key) ea f.n rightR
  let (s1, p) ← resolve s key ea f.n .load kind o
  match p with
  | .spad c off =>
    if !placeReachable s1 key p || (lockedByte (s1.arch c) 8 off f.n).isSome then .error .hold
    else
      let r := loadNow s1 key p f.n taken
      if r.2.2 then .error .poison
      return (r.1, { Reply.plain with g := f.reg r.2.1, f := f.freg r.2.1 })
  | _ => .error .hold

/-- TILE_ACCESS_MESSAGE: an access arrives at the owning core's scratchpad and is performed there; a lock holds it. -/
def execTileAccessMessage (core slot : Nat) (s : State) : Out :=
  let key := keyOf core slot
  match waiting s key with
  | none => .next s
  | some w =>
    if w.kind ≠ 0x01 then .next s
    else
    match loadOf w.instr, atomicOf w.instr, ldaOf w.instr with
    | some f, _, _ => .next (answerWith s key (tileLoad s key w.instr f w.taken))
    | none, some x, _ => .next (answerWith s key (lateAtomic s key x))
    | none, none, some f => .next (answerWith s key (lateLda s key f w.taken))
    | none, none, none => .next s

/-- WRITEBACK_MERGE: a write-back arrives at its home; one line's write-backs arrive in order. -/
def execWritebackMerge (clu index : Nat) (s : State) : Out :=
  let c := s.cluster clu
  match c.wb[index]? with
  | none => .next s
  | some w =>
    if (c.wb.take index).any (fun x => x.key == w.key) ∨ !homeUp s w.copy ∨ !dieReachable s (dieOfCluster clu) then .next s
    else .next { s.setCluster clu { c with wb := removeAt c.wb index } with mem := mergeCopy s.mem w.copy }

/-- STAGING_EVICTION: a copy leaves its cluster, its dirty bytes on their way to the home. -/
def execStagingEviction (clu key : Nat) (s : State) : Out :=
  let c := s.cluster clu
  match tfind c.staging key with
  | none => .next s
  | some l =>
    .next (s.setCluster clu { c with
      staging := tdel c.staging key, wb := if l.dirty = 0 then c.wb else c.wb ++ [{ key := key, copy := l }] })

/-- A ratio in the range of R203. -/
def ratioOk (r : BitVec 16) : Bool := decide (0x100 ≤ r.toNat) && decide (r.toNat ≤ 0x200)

/-- The mean of the slices' ratios of a die (R203), rounded down. -/
def l2Mean (s : State) (die : Nat) : BitVec 16 :=
  BitVec.ofNat 16 (((List.range 320).foldl (fun n k => n + (s.core (die * 320 + k)).l2slice.toNat) 0) / 320)

/-- L2EFF_SAMPLE: the slices' ratios as the coding of their lines gives them, and the die's mean, which is theirs. The ratios are the
event's, for R203 gives no count of the lines a slice holds (DESIGN CHOICE, log 113). -/
def execL2effSample (die : BitVec 2) (mean : BitVec 16) (slices : List (Nat × BitVec 16)) (s : State) : Out :=
  if !ratioOk mean || slices.any (fun x => !ratioOk x.2) then .next s
  else
    let onDie (c : Nat) : Bool := dieOf c == die.toNat && decide (c < 1280)
    let s1 := slices.foldl (fun s x => if onDie x.1 then s.setCore x.1 { s.core x.1 with l2slice := x.2 } else s) s
    if l2Mean s1 die.toNat ≠ mean then .next s
    else
      .next (upTo 320 (fun s k =>
        let c := die.toNat * 320 + k
        s.setCore c { s.core c with l2die := mean }) s1)

end

end Sys2Proof.Machine
end

