-- ==== Sys2Proof/Machine/GroupOps.lean ====
section
/-! DEFINITION. Reeds, tagged words, bobbins and inboxes (R241-R267): their instructions and the messages that reach
their homes. -/

namespace Sys2Proof.Machine

noncomputable section

/-! ## Reeds (R246-R250) -/

/-- A word of a group entry (R242). -/
def groupWord (x : Group) (n : Nat) : W64 :=
  match n with
  | 0 => x.state ++ x.scope ++ x.hcore ++ x.exp ++ x.joined ++ x.done
  | 1 => x.phase ++ x.arrived ++ 0#6 ++ x.hpkg
  | 2 => BitVec.ofBool x.wv ++ 0#47 ++ x.wskein
  | _ => x.winst

/-- The group number in g_a, or ACCESS. -/
def groupNum (t : Thread) (a : Reg) : Except Stop Nat := do
  need (decide ((t.rg a).toNat ≤ 255)) ACCESS (t.rg a)
  return (t.rg a).toNat

/-- The reed is held by the acting thread's core. -/
def reedHere (s : State) (x : Group) (core : Nat) : Bool := x.hpkg == s.pk.pkg && x.hcore.toNat == core

/-- What a request to a reed on another core sends, if that core is on another package. -/
def reedMsgs (s : State) (x : Group) (g : Nat) (i : Instr) : List OutMsg :=
  let op : ReedOp := match i with
    | .reedWait b _ _ => .wait ((s.me.rg b).extractLsb' 0 32)
    | .reedSync _ _ => .sync
    | _ => .arr
  if x.hpkg = s.pk.pkg then [] else [.reed x.hpkg (BitVec.ofNat 4 (s.partOf s.myCore)) g (s.tid s.cur) op]

/-- The acting thread parks on the reed; `sent` tells that its home has the request already. -/
def reedPark (i : Instr) (s : State) (x : Group) (g : Nat) (sent : Bool) (aux : Nat) : State :=
  let s1 := (reedMsgs s x g i).foldl State.send (parkOn s s.cur 0x06 (BitVec.ofNat 64 g) (x.hpkg != s.pk.pkg) i [])
  let t := s1.me
  s1.setMe { t with wait := t.wait.map (fun w => { w with sent := sent, aux := aux }) }

/-- The release of an arrival (R247), eager at DIE. -/
def reedRelease (s : State) (x : Group) : Except Stop State :=
  if releaseWaits s s.cur x.scope.toNat false || (reedHere s x s.myCore && phaseHeld s x) then .error .hold else .ok (releaseMoves s s.myCore x.scope.toNat false)

/-- REED.ARR. -/
def execReedArr (a d : Reg) (s : State) : Out :=
  run (.reedArr a d) s (do
    let g ← groupNum s.me a
    need (s.me.memberOf g) ACCESS (BitVec.ofNat 64 g)
    let part := s.partOf s.myCore
    let x := s.group part g
    if x.state = 0 then return s.finishG d (reedStatus false false true 0) 6
    else if x.state = 3 then return s.finishG d (reedStatus true false false 0) 6
    else
      let s1 ← reedRelease s x
      if reedHere s x s.myCore then
        let r := reedArrive s1 part g s.cur
        return r.1.finishG d r.2 6
      else return reedPark (.reedArr a d) s1 x g false 0)

/-- The status of a completed wait ends the instruction, with its acquire. -/
def reedDone (s : State) (x : Group) (d : Reg) (r : W64 × Bool) : State :=
  let s1 := s.finishG d r.1 6
  if r.2 then acquireAt s1 s.myCore x.scope.toNat else s1

/-- REED.WAIT. -/
def execReedWait (b a d : Reg) (s : State) : Out :=
  run (.reedWait b a d) s (do
    let g ← groupNum s.me a
    let x := s.group (s.partOf s.myCore) g
    let p := (s.me.rg b).extractLsb' 0 32
    let here := reedHere s x s.myCore || decide (x.state = 0) || decide (x.state = 3)
    match (if here then reedCheck x p false else none) with
    | some r => return reedDone s x d r
    | none => return reedPark (.reedWait b a d) s x g here 0)

/-- REED.SYNC. -/
def execReedSync (a d : Reg) (s : State) : Out :=
  run (.reedSync a d) s (do
    let g ← groupNum s.me a
    need (s.me.memberOf g) ACCESS (BitVec.ofNat 64 g)
    let part := s.partOf s.myCore
    let x := s.group part g
    if x.state = 0 then return s.finishG d (reedStatus false false true 0) 6
    else if x.state = 3 then return s.finishG d (reedStatus true false false 0) 6
    else
      let s1 ← reedRelease s x
      if reedHere s x s.myCore then
        let r := reedArrive s1 part g s.cur
        let x1 := r.1.group part g
        let again := r.2.getLsbD 62
        match reedCheck x1 (r.2.extractLsb' 0 32) again with
        | some st => return reedDone r.1 x1 d st
        | none => return reedPark (.reedSync a d) r.1 x1 g true (if again then 1 else 0)
      else return reedPark (.reedSync a d) s1 x g false 0)

/-- REED.QRY. -/
def execReedQry (w : BitVec 2) (a d : Reg) (s : State) : Out :=
  run (.reedQry w a d) s (do
    let g ← groupNum s.me a
    return s.finishG d (groupWord (s.group (s.partOf s.myCore) g) w.toNat) 6)

/-- A request of a parked thread reaches its reed: an arrival is counted, a wait is entered. -/
def reedMessage (s : State) (key : Nat) (w : Wait) : State :=
  let part := s.partOf (coreOf key)
  let t := s.thread key
  let enter (s : State) (aux : Nat) : State :=
    let t := s.thread key
    s.setThread key { t with wait := t.wait.map (fun w => { w with sent := true, aux := aux }) }
  let check (s : State) (g : Nat) (p : W32) (again : Bool) (d : Reg) : State :=
    let x := s.group part g
    match reedCheck x p again with
    | some r => answer s key { Reply.reg d r.1 with acquire := if r.2 then some x.scope else none }
    | none => s
  match w.instr with
  | .reedArr a d =>
    let r := reedArrive s part (t.rg a).toNat key
    answer r.1 key (Reply.reg d r.2)
  | .reedWait b a d => check (enter s 0) (t.rg a).toNat ((t.rg b).extractLsb' 0 32) false d
  | .reedSync a d =>
    let g := (t.rg a).toNat
    let r := reedArrive s part g key
    if r.2.getLsbD 63 || r.2.getLsbD 61 then answer r.1 key (Reply.reg d r.2)
    else check (enter r.1 (if r.2.getLsbD 62 then 1 else 0)) g (r.2.extractLsb' 0 32) (r.2.getLsbD 62) d
  | _ => s

/-- A REED that arrives, and a peer's. -/
def reedArrives : Instr → Bool
  | .reedArr _ _ | .reedSync _ _ => true
  | _ => false
def opArrives : ReedOp → Bool
  | .arr | .sync => true
  | _ => false

/-- REED_ARRIVAL_MESSAGE: from a parked thread here, or about a group that spans packages. A home on a die that relocks, or lines
that the phase's end drains to one, hold it (R18). -/
def execReedArrivalMessage (src : ReedSource) (s : State) : Out :=
  match src with
  | .peer part g tid op =>
    let x := s.group part.toNat g.toNat
    if (x.state ≠ 0 ∧ x.hpkg ≠ s.pk.pkg) ∨ !dieReachable s (dieOf x.hcore.toNat) ∨ (opArrives op ∧ phaseHeld s x) then .next s else .next (peerReed s part.toNat g.toNat tid op)
  | .entry part g w0 w1 => .next (remoteEntry s part.toNat g.toNat w0 w1)
  | .thread core slot =>
    let key := keyOf core slot
    match waiting s key with
    | none => .next s
    | some w =>
      let x := s.group (s.partOf core) w.eval.toNat
      if w.kind = 0x06 ∧ !w.sent ∧ x.hpkg = s.pk.pkg ∧ dieReachable s (dieOf x.hcore.toNat) ∧ !(reedArrives w.instr && phaseHeld s x) then
        .next (reedMessage s key w)
      else .next s

/-! ## Tagged words (R251-R256) -/

/-- The scope of the release a tag operation makes, if it is one. -/
def tagRelease : Instr → Option Nat
  | .stf sc _ _ | .ste sc _ _ => some sc.toNat
  | _ => none

/-- The acting thread parks on a word of `core`; `retry` is the core cycle at which a refused request is sent again. -/
def tagPark (i : Instr) (s : State) (ea : W64) (sent : Bool) (retry : Nat) : State :=
  let s1 := parkMe s 0x05 ea i
  let t := s1.me
  s1.setMe { t with wait := t.wait.map (fun w => { w with sent := sent, aux := retry }) }

/-- The body of a tag operation: performed here in the own scratchpad, else a message to the owner. -/
def tagBody (i : Instr) (s : State) : Except Stop State := do
  let key := s.cur
  let ea := match tagArgs i with
    | some x => s.me.rg x.1
    | none => 0
  let (c, o) ← tagPlace s key i
  if acquirePending s key then .error .hold
  if !(ownPending s key (.spad c o) 8).isEmpty then .error .hold
  let s1 ← match tagRelease i with
    | some sc => if releaseWaits s key sc false then .error .hold else pure (releaseMoves s s.myCore sc false)
    | none => pure s
  if c ≠ s.myCore then return tagPark i s1 ea false 0
  else
    lockWait s1 key 0 o 8 s.me.wscb ea
    match tagTry s1 c o s.me i with
    | some (s2, r) =>
      if r.kill then .error .poison
      else
        let s3 := serveTag c o (s2.core c).tagWait s2
        let t := r.g.foldl (fun t x => t.wg x.1 x.2) s3.me
        let s4 := s3.finish t 8
        return match r.acquire with
          | some sc => acquireAt s4 s.myCore sc.toNat
          | none => s4
    | none =>
      let x := s1.core c
      if x.tagWait.length < 64 then return (tagPark i s1 ea true 0).setCore c { x with tagWait := x.tagWait ++ [key] }
      else return tagPark i s1 ea false (s.cyc c + 256)

def execLde (sc : BitVec 3) (a d : Reg) (s : State) : Out := run (.lde sc a d) s (tagBody (.lde sc a d) s)
def execLdf (sc : BitVec 3) (a d : Reg) (s : State) : Out := run (.ldf sc a d) s (tagBody (.ldf sc a d) s)
def execStf (sc : BitVec 3) (b a : Reg) (s : State) : Out := run (.stf sc b a) s (tagBody (.stf sc b a) s)
def execSte (sc : BitVec 3) (b a : Reg) (s : State) : Out := run (.ste sc b a) s (tagBody (.ste sc b a) s)
def execTagi (sc : BitVec 3) (a : Reg) (v : BitVec 1) (s : State) : Out := run (.tagi sc a v) s (tagBody (.tagi sc a v) s)
def execTagr (sc : BitVec 3) (a d : Reg) (s : State) : Out := run (.tagr sc a d) s (tagBody (.tagr sc a d) s)

/-- A tag request arrives at the owner: performed, entered in the wait list, or refused until the next retry. -/
def tagRequest (s : State) (key : Nat) (w : Wait) : State :=
  match tagPlace s key w.instr with
  | .error _ => answer s key Reply.again
  | .ok (c, o) =>
    if tagLocked s c o key || !dieReachable s (dieOf c) || (s.core c).migrating.isSome then s
    else
      let r := tagArrive s c o key w.instr
      let t := r.1.thread key
      r.1.setThread key { t with wait := t.wait.map (fun w => { w with sent := r.2, aux := if r.2 then 0 else r.1.cyc (coreOf key) + 256 }) }

/-- TAG_MESSAGE. -/
def execTagMessage (core slot : Nat) (s : State) : Out :=
  let key := keyOf core slot
  match waiting s key with
  | some w => if w.kind = 0x05 ∧ !w.sent ∧ w.aux = 0 then .next (tagRequest s key w) else .next s
  | none => .next s

/-- TAG_REQUEST_RETRY: a refused request is sent again after 256 core cycles. -/
def execTagRequestRetry (core slot : Nat) (s : State) : Out :=
  let key := keyOf core slot
  match waiting s key with
  | some w => if w.kind = 0x05 ∧ !w.sent ∧ w.aux ≠ 0 ∧ w.aux ≤ s.cyc core then .next (tagRequest s key w) else .next s
  | none => .next s

/-! ## Bobbins (R257-R262) -/

/-- The bobbin number in g_a, or FORMAT. -/
def bobNum (t : Thread) (a : Reg) : Except Stop Nat := do
  need (decide ((t.rg a).toNat ≤ 15)) FORMAT (t.rg a)
  return (t.rg a).toNat

/-- An initialised bobbin. -/
def bobReady (s : State) (a : Reg) : Except Stop (Nat × Bobbin) := do
  let n ← bobNum s.me a
  need (s.bobbin s.myCore n).init FORMAT (s.me.rg a)
  return (n, s.bobbin s.myCore n)

/-- BBINIT. -/
def execBbinit (b a d : Reg) (s : State) : Out :=
  run (.bbinit b a d) s (do
    let n ← bobNum s.me a
    let v := s.me.rg b
    let base := (v.extractLsb' 0 20).toNat
    let sz := (v.extractLsb' 20 20).toNat
    let ns := (v.extractLsb' 40 13).toNat
    let x := s.bobbin s.myCore n
    if v.extractLsb' 53 11 ≠ 0 ∨ base % 64 ≠ 0 ∨ sz % 16 ≠ 0 ∨ sz = 0 ∨ ns = 0 ∨ 4096 < ns ∨ 0x100000 < base + ns * sz then
      return s.finishG d 1 6
    else if x.slots.any (fun y => y.2.1 = .reserved || y.2.1 = .committed || y.2.1 = .acquired) || !x.prodw.isEmpty || !x.consw.isEmpty then
      return s.finishG d 2 6
    else
      let y : Bobbin := { init := true, base := base, slotsz := sz, nslot := ns, free := ns }
      return (s.setBobbin s.myCore n y).finishG d 0 6)

/-- BBRES: slot RESI, in arrival order among waiting producers. -/
def execBbres (a d : Reg) (s : State) : Out :=
  run (.bbres a d) s (do
    let (n, x) ← bobReady s a
    if 0 < x.free ∧ x.prodw = [] then
      return acquireAt ((s.setBobbin s.myCore n (x.reserve (slotOf s.cur))).finishG d (x.addr x.resi) 6) s.myCore 1
    else return (parkMe s 0x07 (BitVec.ofNat 64 n) (.bbres a d)).setBobbin s.myCore n { x with prodw := x.prodw ++ [s.cur] })

/-- The slot whose address a value is, held by the acting thread in a state. -/
def heldSlot (x : Bobbin) (slot : Nat) (st : BobState) (v : W64) : Option Nat :=
  (x.slots.find? (fun y => y.2.1 = st && y.2.2 == slot && decide (y.1 < x.nslot) && x.addr y.1 == v)).map (·.1)

/-- BBCOM and BBREL: the slot takes a new state, as a release at CORE scope. -/
def bobGive (b a d : Reg) (old : BobState) (new : BobState × Nat) (s : State) : Except Stop State := do
  let (n, x) ← bobReady s a
  match heldSlot x (slotOf s.cur) old (s.me.rg b) with
  | none => return s.finishG d 1 6
  | some i =>
    if releaseHeld s s.cur then .error .hold
    else
      let s1 := bobSettle (s.setBobbin s.myCore n (x.setSlot i new)) s.myCore n
      return s1.finishG d 0 6

def execBbcom (b a d : Reg) (s : State) : Out := run (.bbcom b a d) s (bobGive b a d .reserved (.committed, 9) s)
def execBbrel (b a d : Reg) (s : State) : Out := run (.bbrel b a d) s (bobGive b a d .acquired (.released, slotOf s.cur) s)

/-- BBACQ: the next filled slot. -/
def execBbacq (a d : Reg) (s : State) : Out :=
  run (.bbacq a d) s (do
    let (n, x) ← bobReady s a
    let x := bobAdvance (4 * x.nslot + 4) x
    if 0 < x.filled ∧ x.consw = [] then
      return acquireAt ((s.setBobbin s.myCore n (x.take (slotOf s.cur))).finishG d (x.addr x.acqi) 6) s.myCore 1
    else return (parkMe s 0x07 (BitVec.ofNat 64 n) (.bbacq a d)).setBobbin s.myCore n { x with consw := x.consw ++ [s.cur] })

/-- BBQRY (R260). -/
def bobWord (x : Bobbin) : W64 :=
  BitVec.ofBool x.init ++ BitVec.ofBool x.abn ++ 0#4 ++ BitVec.ofNat 13 x.free ++ BitVec.ofNat 13 x.filled ++ 0#3 ++
    BitVec.ofNat 13 x.nslot ++ BitVec.ofNat 8 x.prodw.length ++ BitVec.ofNat 8 x.consw.length

def execBbqry (a d : Reg) (s : State) : Out :=
  run (.bbqry a d) s (do
    let n ← bobNum s.me a
    return s.finishG d (bobWord (s.bobbin s.myCore n)) 6)

/-! ## Inboxes (R264-R266) -/

/-- The scope that spans a receiver's core and a sender's TID. -/
def spanOf (s : State) (core : Nat) (tid : W64) : Nat :=
  if tid.getLsbD 63 then 5 else if tid.extractLsb' 16 10 = s.pk.pkg then scopeSpan core (tid.extractLsb' 3 11).toNat else 5

/-- Entries of an inbox, deferred messages among them (R62). -/
def inboxCount (t : Thread) : Nat := t.inbox.length + t.deferred.length

/-- A word enters a thread's inbox, or the registers of its waiting MRCV. -/
def inboxPut (s : State) (key : Nat) (word tid : W64) : State :=
  let t := s.thread key
  match waiting s key with
  | some w =>
    (match w.instr with
     | .mrcv d =>
       if t.inbox = [] then
         answer s key { Reply.plain with g := [(d, word), (d + 1, tid)], acquire := some (BitVec.ofNat 3 (spanOf s (coreOf key) tid)) }
       else s.setThread key { t with inbox := t.inbox ++ [(word, tid)] }
     | _ => s.setThread key { t with inbox := t.inbox ++ [(word, tid)] })
  | none => s.setThread key { t with inbox := t.inbox ++ [(word, tid)] }

/-- A message for a thread of a partition arrives: its status. A message to a trailer goes to its leader. -/
def inboxArrive (s : State) (part key : Nat) (word tid : W64) : State × W64 :=
  let key := if (s.thread key).twt then partnerOf key else key
  if (offThreads s part).any (fun x => x.1 == key && x.2.state != .empty) then
    (bufferReply s part key { kind := 1, word := word, tid := tid, reply := none }, 0)
  else if (s.thread key).state = .empty then (s, 2)
  else if s.partOf (coreOf key) ≠ part ∨ !(s.core (coreOf key)).asg then (s, 3)
  else if 16 ≤ inboxCount (s.thread key) then (s, 1)
  else (inboxPut s key word tid, 0)

/-- Where an MSND goes: none names no thread; a thread here; or a package. -/
def msndTarget (s : State) (v : W64) : Option (Nat ⊕ BitVec 10) :=
  if v.extractLsb' 26 38 ≠ 0 ∨ v.extractLsb' 14 2 ≠ 0 ∨ 1280 ≤ (v.extractLsb' 3 11).toNat then none
  else if v.extractLsb' 16 10 = s.pk.pkg then
    some (.inl (keyOf (forwardCore s s.me.kid (v.extractLsb' 3 11).toNat) (v.extractLsb' 0 3).toNat))
  else some (.inr (v.extractLsb' 16 10))

/-- A posted message enters the store queue. -/
def postMessage (s : State) (v : W64) (p : Place) (word : W64) : Except Stop State :=
  storeAt s s.cur v p (bytesOfNat 8 word.toNat) .message none

/-- MSND. -/
def execMsnd (b a d : Reg) (s : State) : Out :=
  run (.msnd b a d) s (do
    let v := s.me.rg a
    let word := s.me.rg b
    match msndTarget s v with
    | none => return s.finishG d 2 6
    | some (.inl key) =>
      if releaseWaits s s.cur (scopeSpan s.myCore (coreOf key)) false then .error .hold
      let s1 := releaseMoves s s.myCore (scopeSpan s.myCore (coreOf key)) false
      if coreOf key = s.myCore then
        let r := inboxArrive s1 (s.partOf s.myCore) key word (s.tid s.cur)
        return r.1.finishG d r.2 6
      else if d = 0 then
        let s2 ← postMessage s1 v (.inbox key) word
        return s2.finish s2.me 8
      else return parkMe s1 0x01 v (.msnd b a d)
    | some (.inr pkg) =>
      if releaseWaits s s.cur 5 false then .error .hold
      let s1 := releaseMoves s s.myCore 5 false
      if d = 0 then
        let s2 ← postMessage s1 v (.peer pkg.toNat (v.extractLsb' 0 14).toNat) word
        return s2.finish s2.me 8
      else if peerState s pkg = .failed ∨ peerState s pkg = .down then return s1.finishG d 4 6
      else
        let s2 := parkOn s1 s.cur 0x01 v true (.msnd b a d) []
        return s2.send (.message pkg (BitVec.ofNat 4 (s.partOf s.myCore)) v word (s.tid s.cur) none))

/-- INBOX_DELIVERY: a message reaches the receiving thread; its sender is answered. -/
def execInboxDelivery (core slot : Nat) (src : InboxSource) (s : State) : Out :=
  let key := keyOf core slot
  match src with
  | .peer part word tid epoch =>
    let pkg := tid.extractLsb' 16 10
    let r := inboxArrive s part.toNat key word tid
    .next (match epoch with
      | none => r.1.send (.reply pkg tid 5 (s.tid key) (bytesOfNat 8 r.2.toNat))
      | some ep => (countPerformed r.1 pkg tid ep).send (.reply pkg tid 3 (BitVec.ofNat 64 (key % 2 ^ 14)) []))
  | .sender c sl =>
    let from_ := keyOf c sl
    match waiting s from_ with
    | none => .next s
    | some w =>
      match w.instr with
      | .msnd b _ d =>
        (match msndTarget { s with cur := from_ } w.eval with
         | some (.inl k) =>
           if w.kind = 0x01 ∧ k = key ∧ dieReachable s (dieOf core) then
             let r := inboxArrive s (s.partOf c) key ((s.thread from_).rg b) (s.tid from_)
             .next (answer r.1 from_ (Reply.reg d r.2))
           else .next s
         | _ => .next s)
      | _ => .next s

/-! ## Shuttle replies at the sender (R384) -/

/-- The reply has been stored or discarded: TOKS of 1 on RTOK. -/
def signalRtok (s : State) (part : Nat) (rtok : BitVec 16) : State :=
  if rtok = 0xFFFF then s else settle (tokenSignal s part rtok.toNat 1).1

/-- The thread that sent a shuttle, if it is still bound to the kernel that sent it. -/
def replyTarget (s : State) (kid tid : W64) : Option Nat :=
  if tid.extractLsb' 16 10 ≠ s.pk.pkg ∨ 1280 ≤ (tid.extractLsb' 3 11).toNat then none
  else
    let key := keyOf (forwardCore s kid (tid.extractLsb' 3 11).toNat) (tid.extractLsb' 0 3).toNat
    let t := s.thread key
    if t.state != .empty ∧ t.killed = none ∧ t.bound ∧ t.kid = kid then some key else none

/-- Replies held for a thread enter its inbox while it has room. -/
def serveHeld (s : State) (key : Nat) : State :=
  match s.links.replies.find? (fun r => replyTarget s r.kid r.tid == some key) with
  | none => s
  | some r =>
    if inboxCount (s.thread key) < 16 then
      let s1 := { s with links := { s.links with replies := s.links.replies.erase r } }
      signalRtok (inboxPut s1 key r.w1 r.w2) r.part.toNat r.rtok
    else s

/-- MRCV. -/
def execMrcv (d : Reg) (s : State) : Out :=
  run (.mrcv d) s
    (match s.me.inbox with
     | [] => .error (.park 0x0B 0 false [] [])
     | (w, tid) :: rest =>
       let t := ({ s.me with inbox := rest }.wg d w).wg (d + 1) tid
       .ok (serveHeld (acquireAt (s.finish t 6) s.myCore (spanOf s s.myCore tid)) s.cur))

/-- MPOLL. -/
def execMpoll (d : Reg) (s : State) : Out := .next (s.finishG d (BitVec.ofNat 64 (inboxCount s.me)) 6)

end

end Sys2Proof.Machine
end

