-- ==== Sys2Proof/Machine/Peer.lean ====
section
/-! DEFINITION. What packets ask of this package (R368, R371, R374, R379, R381): requests performed under the partition's
own tables, counted releases, multicast writes to a copy, and shuttles. -/

namespace Sys2Proof.Machine

noncomputable section

/-! ## Packets of the package to itself (R365) -/

/-- The ordering key of a packet: its sender, and its line, receiver or queue. -/
def OutMsg.order : OutMsg → W64 × Nat × Nat
  | .request _ _ tid r =>
    (match r.op with
     | .load a _ _ | .store a _ | .nibble a _ _ | .atomic _ a _ _ _ _ | .fatomic _ _ _ a _ _ _ | .cas a _ _ _ _ _ | .mcst _ a _ =>
       (tid, 0, a / 64)
     | .shuttle sh => (tid, 1, (sh.desc.extractLsb' 16 15).toNat))
  | .mcst _ _ tid _ a _ => (tid, 0, a / 64)
  | .shuttle _ _ sh _ => (sh.tid, 1, (sh.desc.extractLsb' 16 15).toNat)
  | .message _ _ target _ tid _ => (tid, 2, target.toNat)
  | .reply _ tid _ _ _ | .shuttleReply _ _ _ tid _ _ _ | .shuttleStatus _ tid _ _ => (tid, 3, 0)
  | .bump _ part sub _ _ _ | .stale _ part sub => (0, 4, part.toNat * 256 + sub.toNat)
  | _ => (0, 5, 0)

/-- The sender of a multicast write: the writes of one thread to a member are performed in program order (R374). -/
def OutMsg.mcstTid : OutMsg → Option W64
  | .mcst _ _ tid _ _ _ => some tid
  | _ => none

/-- A packet of the package to itself may be delivered: none of its ordering key, and no multicast write of its sender, was sent before
it. -/
def loopNext (s : State) (m : OutMsg) : Bool :=
  s.links.loop.find? (fun x => x.order == m.order || (m.mcstTid.isSome && x.mcstTid == m.mcstTid)) == some m

/-- A packet arrives: one of this package is taken off its way; one of another package comes from outside. -/
def takePacket (s : State) (pkg : BitVec 10) (m : OutMsg) : Option State :=
  if pkg ≠ s.pk.pkg then some s
  else if loopNext s m then some { s with links := { s.links with loop := s.links.loop.erase m } }
  else none

/-! ## Performing a request (R368) -/

/-- The target address of an operation. -/
def opAddr : PeerOp → W64
  | .load a _ _ | .store a _ | .nibble a _ _ | .atomic _ a _ _ _ _ | .fatomic _ _ _ a _ _ _ | .cas a _ _ _ _ _ | .mcst _ a _ =>
    BitVec.ofNat 64 a
  | .shuttle sh => sh.desc

/-- Bytes of its target. -/
def opLen : PeerOp → Nat
  | .load _ n _ | .atomic _ _ n _ _ _ | .cas _ n _ _ _ _ => n
  | .store _ bs => bs.length
  | .nibble _ _ _ => 1
  | .fatomic _ fmt lanes _ _ _ _ => 2 * 2 ^ fmt * lanes
  | .mcst _ _ _ => 8
  | .shuttle _ => 0

/-- A page of the target's tables: a class BW page is not the partition's own (log 45). -/
def peerPlace (s : State) (part dva : Nat) (acc : BitVec 4) : Except Stop (State × Nat) :=
  match walk s part dva with
  | .leaf l =>
    if 2 ^ 47 ≤ dva ∨ leafCls l.word = 4 then .error (.trap ACCESS 0)
    else (translate s 0 part dva acc 0).map (fun r => (r.1, r.2.2))
  | .fault k => if 2 ^ 47 ≤ dva then .error (.trap ACCESS 0) else .error (.page dva k acc 0)

/-- Bytes of a range at home, and poison. -/
def peerRead (s : State) (part dva n : Nat) : Except Stop (State × List Byte × Bool) :=
  (rangePieces dva n).foldl (fun r p => do
    let (s, bs, bad) ← r
    let x ← peerPlace s part p.1 accRead
    return (x.1, bs ++ mreadN s.mem.ram x.2 p.2, bad || anyPoison s.mem.ramPoison x.2 p.2)) (.ok (s, [], false))

/-- A read-modify-write at home: an acquire drains the recorded clusters (R201). -/
def peerAtomic (s : State) (part dva n : Nat) (ret acq : Bool) (f : Nat → Option Nat) : Except Stop (State × Nat × List Byte) := do
  need (decide (dva % n = 0)) ALIGN 0
  let (s1, pa) ← peerPlace s part dva accAtomic
  let s2 := if acq then drainRecorded s1 0 5 pa else s1
  if anyPoison s2.mem.ramPoison pa n then return (s2, 1, [])
  else
    let old := natOfBytes (mreadN s2.mem.ram pa n)
    let s3 := match f old with
      | some v => { s2 with mem := ramWrite s2.mem pa (bytesOfNat n v) }
      | none => s2
    return if ret then (s3, 0, bytesOfNat n old) else (s3, 3, [])

/-! ## Copies of a publication (R373, R374) -/

/-- A subscription entry. -/
def State.sub (s : State) (part n : Nat) : Subscription := tget {} (s.part part).subs n
def State.setSub (s : State) (part n : Nat) (x : Subscription) : State :=
  s.setPart part { s.part part with subs := tput (s.part part).subs n x }

/-- A multicast write at a member: OPEN, then the value at the line's home. -/
def memberWrite (s : State) (pkg : BitVec 10) (part sub dva : Nat) (v : W64) : Except Stop State :=
  let x := s.sub part sub
  if !x.live || x.ppkg != pkg then .error (.trap ACCESS 0)
  else
    match walk s part dva with
    | .fault k => if 2 ^ 47 ≤ dva then .error (.trap ACCESS 0) else .error (.page dva k accWrite 0)
    | .leaf l =>
      if leafCls l.word ≠ 3 ∨ dva % 8 ≠ 0 ∨ 2 ^ 47 ≤ dva then .error (.trap ACCESS 0)
      else
        let s1 := s.setSub part sub { x with isOpen := true }
        .ok { s1 with mem := ramWrite s1.mem (leafPA l.word + dva % l.size) (bytesOfNat 8 v.toNat) }

/-! ## Shuttles (R379-R381) -/

/-- A handler entry, 32 bytes at HTB + 32·h; one that is not mapped is not valid (log 46). -/
def handlerAt (s : State) (part h : Nat) : Option (BitVec 256) :=
  (peekRange s part ((s.part part).htb.toNat + 32 * h) 32).map (fun b => BitVec.ofNat 256 (natOfBytes b))

/-- Its validity. -/
def handlerValid (e : BitVec 256) : Bool :=
  let f (lo n : Nat) : Nat := (e.extractLsb' lo n).toNat
  f 63 1 == 1 && f 51 10 == 0 && decide (2 ≤ f 48 3) && decide (f 48 3 ≤ 5) && f 0 2 == 0 && decide (1 ≤ f 64 16) && decide (f 64 16 ≤ 64) &&
    f 80 4 != 0 && f 84 4 == 0 && f 88 8 == 0 && f 160 96 == 0

/-- The acceptance status of a shuttle of a partition, with its handler entry. -/
def shuttleStatus (s : State) (part : Nat) (sh : Shuttle) : Nat × BitVec 256 :=
  let q := (sh.desc.extractLsb' 16 15).toNat
  let w := s.queue q
  if w.part.toNat ≠ part then (3, 0)
  else if !w.shuttle then (4, 0)
  else if w.state = .closed ∨ w.state = .draining then (2, 0)
  else
    match handlerAt s part (sh.desc.extractLsb' 32 12).toNat with
    | none => (5, 0)
    | some e => if !handlerValid e then (5, 0) else if queueFull s q then (1, 0) else (0, e)

/-- A shuttle is accepted as a kernel or refused, and its sender told where it asked or was refused. -/
def shuttlePerform (s : State) (pkg : BitVec 10) (part : Nat) (sh : Shuttle) : State :=
  let r := shuttleStatus s part sh
  let s1 := if r.1 = 0 then acceptRecord s (sh.desc.extractLsb' 16 15).toNat 0 (some sh) r.2 else s
  if sh.reply ∨ r.1 ≠ 0 then s1.send (.shuttleStatus pkg sh.tid sh.desc (BitVec.ofNat 4 r.1)) else s1

/-! ## Arrival, holds and answers -/

/-- Perform one operation: the kind of its reply and its bytes. A shuttle answers for itself: kind 8. -/
def peerPerform (s : State) (pkg : BitVec 10) (part : Nat) (op : PeerOp) : Except Stop (State × Nat × List Byte) :=
  match op with
  | .load dva n acq => do
    let (s1, bs, bad) ← peerRead s part dva n
    let s2 ← if acq then (do
      let x ← peerPlace s1 part dva accRead
      return drainRecorded s1 0 5 x.2) else pure s1
    if acq then
      let (s3, bs3, bad3) ← peerRead s2 part dva n
      return if bad3 then (s3, 1, []) else (s3, 0, bs3)
    else return if bad then (s2, 1, []) else (s2, 0, bs)
  | .store dva bs => do
    let (s1, pa) ← peerPlace s part dva accWrite
    return ({ s1 with mem := ramWrite s1.mem pa bs }, 3, [])
  | .nibble dva hi v => do
    let (s1, pa) ← peerPlace s part dva accWrite
    return ({ s1 with mem := ramWrite s1.mem pa [setNibble (mread s1.mem.ram pa) hi v.toNat] }, 3, [])
  | .atomic op dva n v ret acq => peerAtomic s part dva n ret acq (fun old => some (atomNew op (8 * n) old v))
  | .fatomic op fmt lanes dva v ret acq =>
    peerAtomic s part dva (2 * 2 ^ fmt * lanes) ret acq (fun old => some (fatomNew op fmt lanes old v))
  | .cas dva n e v ret acq => peerAtomic s part dva n ret acq (fun old => if old = e then some v else none)
  | .mcst sub dva v => (memberWrite s pkg part sub.toNat dva v).map (fun s => (s, 3, []))
  | .shuttle sh => .ok (shuttlePerform s pkg part sh, 8, [])

/-- Answer a request; a posted one counts in its epoch, a release ends its epoch's count. -/
def peerAnswer (s : State) (pkg : BitVec 10) (tid : W64) (r : PeerReq) (kind : Nat) (bs : List Byte) : State :=
  let s1 := match r.epoch with
    | some ep => countPerformed s pkg tid ep
    | none => s
  let s2 := match r.release with
    | some (ep, _) => dropEpoch s1 pkg tid ep
    | none => s1
  if kind = 8 then s2 else s2.send (.reply pkg tid kind (opAddr r.op) bs)

/-- The kind of a refusal: 2 of a request that waits for its reply, 6 of a posted operation. -/
def opRefusal : PeerOp → Nat
  | .load _ _ _ => 2
  | .atomic _ _ _ _ ret _ | .fatomic _ _ _ _ _ ret _ | .cas _ _ _ _ ret _ => if ret then 2 else 6
  | _ => 6

/-- Perform a request now: answered, refused, or held for the pager. -/
def peerNow (s : State) (w : PeerWait) : State :=
  let part := w.part.toNat
  match (if (s.part part).ctx = .absent then .error (.trap ACCESS 0) else peerPerform s w.pkg part w.req.op) with
  | .ok (s1, kind, bs) => peerAnswer s1 w.pkg w.tid w.req kind bs
  | .error (.page dva k acc _) =>
    joinRecord { s with links := { s.links with waiting := s.links.waiting ++ [w] } } 0 0 part dva k acc 1 .peer
  | .error _ => peerAnswer s w.pkg w.tid w.req (opRefusal w.req.op) []

/-- A request arrives: a release waits until the stores it counts have been performed (R371). -/
def requestArrive (s : State) (w : PeerWait) : State :=
  match w.req.release with
  | some (ep, n) =>
    if n.toNat ≤ performedCount s w.pkg w.tid ep then peerNow s w
    else { s with links := { s.links with held := s.links.held ++ [w] } }
  | none => peerNow s w

/-- An operation touches a page. -/
def opOnPage (op : PeerOp) (dva : Nat) : Bool :=
  let a := (opAddr op).toNat
  decide (a / 4096 ≤ dva / 4096) && decide (dva / 4096 ≤ (a + opLen op - 1) / 4096)

/-- The pager has ended a record: the requests that wait for the page are performed again, or refused. -/
def peerPage (s : State) (part dva : Nat) (refuse : Bool) : State :=
  let here (w : PeerWait) : Bool := w.part.toNat == part && opOnPage w.req.op dva
  let ws := s.links.waiting.filter here
  let s1 : State := { s with links := { s.links with waiting := s.links.waiting.filter (fun w => !here w) } }
  ws.foldl (fun s w => if refuse then peerAnswer s w.pkg w.tid w.req (opRefusal w.req.op) [] else peerNow s w) s1

/-- A request waits outside while the die of its home, of a table its walk reads, or of its queue unit relocks (R18, R317). -/
def requestHeld (s : State) (part : Nat) (op : PeerOp) : Bool :=
  match op with
  | .shuttle sh => queueHeld s (sh.desc.extractLsb' 16 15).toNat
  | op => dvaHeld s part (opAddr op).toNat

/-- PEER_REQUEST. -/
def execPeerRequest (pkg : BitVec 10) (part : BitVec 4) (tid : W64) (req : PeerReq) (s : State) : Out :=
  if requestHeld s part.toNat req.op then .next s
  else
  match takePacket s pkg (.request pkg part tid req) with
  | none => .next s
  | some s1 => .next (requestArrive s1 { pkg := pkg, part := part, tid := tid, req := req, tick := s.tim })

/-- MCST_COPY_WRITE. -/
def execMcstCopyWrite (pkg : BitVec 10) (part : BitVec 4) (tid : W64) (sub : Byte) (dva : Nat) (v : W64) (s : State) : Out :=
  if dvaHeld s part.toNat dva then .next s
  else
  match takePacket s pkg (.mcst pkg part tid sub dva v) with
  | none => .next s
  | some s1 =>
    .next (requestArrive s1
      { pkg := pkg, part := part, tid := tid, req := { op := .mcst sub dva v, epoch := none, release := none }, tick := s.tim })

/-- SHUTTLE_ARRIVAL. -/
def execShuttleArrival (pkg : BitVec 10) (part : BitVec 4) (sh : Shuttle) (release : Option (BitVec 16 × W32)) (s : State) : Out :=
  if requestHeld s part.toNat (.shuttle sh) then .next s
  else
  match takePacket s pkg (.shuttle pkg part sh release) with
  | none => .next s
  | some s1 =>
    .next (requestArrive s1
      { pkg := pkg, part := part, tid := sh.tid, req := { op := .shuttle sh, epoch := none, release := release }, tick := s.tim })

/-- COUNTED_RELEASE_PERFORM. -/
def execCountedReleasePerform (index : Nat) (s : State) : Out :=
  match s.links.held[index]? with
  | none => .next s
  | some w =>
    match w.req.release with
    | some (ep, n) =>
      if n.toNat ≤ performedCount s w.pkg w.tid ep ∧ !requestHeld s w.part.toNat w.req.op then
        .next (peerNow { s with links := { s.links with held := removeAt s.links.held index } } w)
      else .next s
    | none => .next s

/-- COUNTED_RELEASE_TIMEOUT: a held release whose stores have not arrived within 500 µs is discarded. -/
def execCountedReleaseTimeout (index : Nat) (s : State) : Out :=
  match s.links.held[index]? with
  | none => .next s
  | some w =>
    if w.tick + 500000 ≤ s.tim then .next { s with links := { s.links with held := removeAt s.links.held index } } else .next s

/-- STALE_NOTICE. -/
def execStaleNotice (pkg : BitVec 10) (part : BitVec 4) (sub : Byte) (s : State) : Out :=
  match takePacket s pkg (.stale pkg part sub) with
  | none => .next s
  | some s1 => .next (s1.setSub part.toNat sub.toNat { s1.sub part.toNat sub.toNat with stale := true })

/-- The leading bytes of a region that form one aligned 16-byte chunk, or its first byte. -/
def regionChunk (l : List (Nat × Byte)) : List (Nat × Byte) :=
  let c := l.take 16
  let a := (c.headD (0, 0)).1
  if a % 16 = 0 ∧ c.map (·.1) = (List.range 16).map (a + ·) then c else l.take 1

/-- Write a RESYNC's region to the copy, in 16-byte chunks, if all of it lies in PS pages: none otherwise. -/
def copyRegion (part : Nat) : Nat → State → List (Nat × Byte) → Option State
  | 0, s, _ => some s
  | n + 1, s, l =>
    match regionChunk l with
    | [] => some s
    | (a, b) :: c =>
      match walk s part a with
      | .leaf x =>
        if leafCls x.word = 3 ∧ a < 2 ^ 47 then
          copyRegion part n { s with mem := ramWrite s.mem (leafPA x.word + a % x.size) (b :: c.map (·.2)) } (l.drop (c.length + 1))
        else none
      | .fault _ => none

/-- VERSION_BUMP_ARRIVAL: VER and OPEN in one step; a RESYNC takes the region and clears STALE first. -/
def execVersionBumpArrival (pkg : BitVec 10) (part : BitVec 4) (sub : Byte) (ver : W64) (resync : Bool) (data : List Host.Cell) (s : State) :
    Out :=
  match takePacket s pkg (.bump pkg part sub ver resync data) with
  | none => .next s
  | some s1 =>
    let x := s1.sub part.toNat sub.toNat
    if !x.live ∨ x.ppkg ≠ pkg then .next s1
    else if resync then
      match copyRegion part.toNat data.length s1 data with
      | some s2 => .next (s2.setSub part.toNat sub.toNat { x with stale := false, ver := ver.setWidth 62, isOpen := false })
      | none => .next s1
    else .next (s1.setSub part.toNat sub.toNat { x with ver := ver.setWidth 62, isOpen := false })

end

end Sys2Proof.Machine
end

