-- ==== Sys2Proof/Machine/Stores.lean ====
section
/-! DEFINITION. Stores (R211), FSQ (R162), store-releases and fences (R232-R235), range operations (R217, R218) and segment
registers (R220). -/

namespace Sys2Proof.Machine

noncomputable section

/-! ## Stores -/

/-- The body of a store of the low `n` bytes of a value. -/
def storeBody (im : BitVec 14) (a : Reg) (n v : Nat) (s : State) : Except Stop State := do
  let ea ← effAddr (s.me.rg a) (sx im)
  let s1 ← storeCheck s s.cur ea (bytesOfNat n v)
  return s1.finish s1.me 8

def execSb (im : BitVec 14) (b a : Reg) (s : State) : Out := run (.sb im b a) s (storeBody im a 1 (s.me.rg b).toNat s)
def execSh (im : BitVec 14) (b a : Reg) (s : State) : Out := run (.sh im b a) s (storeBody im a 2 (s.me.rg b).toNat s)
def execSw (im : BitVec 14) (b a : Reg) (s : State) : Out := run (.sw im b a) s (storeBody im a 4 (s.me.rg b).toNat s)
def execSd (im : BitVec 14) (b a : Reg) (s : State) : Out := run (.sd im b a) s (storeBody im a 8 (s.me.rg b).toNat s)
def execSq (im : BitVec 14) (b a : Reg) (s : State) : Out := run (.sq im b a) s (storeBody im a 16 (s.me.pairVal b 16) s)

/-- FSQ: a pack of an f register, or of a read stream. -/
def execFsq (im : BitVec 14) (b a : Reg) (s : State) : Out :=
  run (.fsq im b a) s (do
    runFree s
    let ea ← effAddr (s.me.rg a) (sx im)
    let (s1, v) ← readF s s.cur b
    let s2 ← storeCheck s1 s.cur ea (bytesOfNat 16 v.toNat)
    let s3 := stepStreams s2 s.cur [b]
    return s3.finish s3.me 8)

/-- SNIB: one nibble, merged at the point of the store. -/
def execSnib (h : BitVec 1) (b a : Reg) (s : State) : Out :=
  run (.snib h b a) s (do
    let ea := s.me.rg a
    let hi := h == 1
    let bs : List Byte := [BitVec.ofNat 8 ((s.me.rg b).toNat % 16 + (if hi then 16 else 0))]
    let (kind, o) ← segCheck s.me ea 1 rightW
    need (kind ≠ 5) ACCESS ea
    let s1 ← if s.me.twt then trailerStore s s.cur ea bs
      else do
        let (s1, p) ← resolve s s.cur ea 1 .nibble kind o
        storeOrCompare s1 s.cur ea p bs (.nibble hi) none
    return s1.finish s1.me 8)

/-! ## Store-release and fences -/

/-- The body of a store-release (R232). -/
def strlBody (sc : BitVec 3) (b a : Reg) (n : Nat) (s : State) : Except Stop State := do
  let key := s.cur
  let ea := s.me.rg a
  let bs := bytesOfNat n (s.me.pairVal b n)
  let (kind, o) ← accessCheck s.me ea n rightW
  sysOnly kind sc.toNat ea
  let (s1, p) ← resolve s key ea n .release kind o
  if releaseWaits s key sc.toNat p.records then .error .hold
  let s2 := releaseMoves s1 s.myCore sc.toNat p.records
  let (s3, cnt) := releaseCount s2 key true sc.toNat p
  let s4 ← match cnt with
    | some (ep, k) =>
      enqueueStore s3 s.myCore
        { slot := slotOf key, stream := none, part := BitVec.ofNat 4 (s.partOf s.myCore), place := p, addr := ea, bytes := bs,
          op := .release sc ep k, epoch := ep }
    | none => storeAt s3 key ea p bs (if (placePkg s key p).isSome then .write else .release sc 0 0) none
  return s4.finish s4.me 8

def execStrlW (sc : BitVec 3) (b a : Reg) (s : State) : Out := run (.strlW sc b a) s (strlBody sc b a 4 s)
def execStrlD (sc : BitVec 3) (b a : Reg) (s : State) : Out := run (.strlD sc b a) s (strlBody sc b a 8 s)
def execStrlQ (sc : BitVec 3) (b a : Reg) (s : State) : Out := run (.strlQ sc b a) s (strlBody sc b a 16 s)

/-- REL (R233): eager. -/
def execRel (sc : BitVec 3) (s : State) : Out :=
  run (.rel sc) s
    (if releaseWaits s s.cur sc.toNat false then .error .hold
    else
      let s1 := releaseMoves s s.myCore sc.toNat false
      .ok (s1.finish s1.me 6))

/-- ACQ. -/
def execAcq (sc : BitVec 3) (s : State) : Out :=
  let s1 := acquireAt s s.myCore sc.toNat
  .next (s1.finish s1.me 6)

/-- Stores of a thread for a package that its core has not accepted. -/
def unsent (s : State) (key pkg : Nat) : Bool :=
  (s.core (coreOf key)).storeq.any (fun e => e.slot == slotOf key && e.pkg s == some (BitVec.ofNat 10 pkg))

/-- Packages with stores of a thread that are not acknowledged, or whose stores were lost. -/
def fencePeers (s : State) (key : Nat) : List (Nat × PeerStream) :=
  (s.thread key).peers.filter (fun p => !p.2.pending.isEmpty || p.2.failed || unsent s key p.1)

/-- A package counts as failed for a hold that began at `start` (R234). -/
def fenceFailed (s : State) (start : Nat × Nat) (p : Nat × PeerStream) : Bool :=
  p.2.failed || peerFailed s (BitVec.ofNat 10 p.1) start

/-- The hold of a system fence for its release: as `releaseHeld`, but for stores to a peer that has failed, which is not waited for
(R234). -/
def fenceWaits (s : State) (key : Nat) (start : Nat × Nat) : Bool :=
  let t := s.thread key
  t.run.isSome || !t.cmp.isEmpty || movesHeld s key 5 false ||
    (s.core (coreOf key)).storeq.any (fun e => e.slot == slotOf key && match e.pkg s with
      | some p => !fenceFailed s start (p.toNat, t.peer p)
      | none => true)

/-- The status word of R234 from the failed packages. -/
def fenceWord (failed : List Nat) (refused : Bool) : W64 :=
  BitVec.ofBool (!failed.isEmpty) ++ BitVec.ofBool refused ++ 0#35 ++ BitVec.ofNat 11 failed.length ++ 0#6 ++
    BitVec.ofNat 10 (failed.foldl Nat.min (failed.headD 0))

/-- FENCE.SYS (R233): its hold begins at its first issue, for the thread's stores, then for its peers; then its status goes to FENST
and g_d, or traps FENCEERR. -/
def fenceSys (d : Reg) (s : State) : Except Stop State :=
  let start := s.me.fenceStart.getD (holdStart s)
  let s0 := s.setMe { s.me with fenceStart := some start }
  if fenceWaits s0 s.cur start then .ok s0
  else
    let s1 := releaseMoves s0 s.myCore 5 false
    let t := s1.me
    let ps := fencePeers s1 s.cur
    let failed := (ps.filter (fenceFailed s1 start)).map (·.1)
    if failed.length ≠ ps.length then .ok s1
    else
      let w := fenceWord failed t.refusedStore
      let peers := t.peers.map (fun p => (p.1, { p.2 with pending := [], failed := false }))
      let t1 : Thread := { t with fenceStart := none, fenst := w, refusedStore := false, peers := peers }
      let s2 := acquireAt (s1.setMe t1) s.myCore 5
      if d ≠ 0 then .ok (s2.finishG d w 6)
      else if w.extractLsb' 62 2 ≠ 0 then .ok (trapMe s2 FENCEERR w)
      else .ok (s2.finish s2.me 6)

/-- FENCE (R233): REL and ACQ as one event; at SYS it waits for peers as well. -/
def execFence (sc : BitVec 3) (d : Reg) (s : State) : Out :=
  run (.fence sc d) s
    (if sc = 5 then fenceSys d s
    else if releaseWaits s s.cur sc.toNat false then .error .hold
    else
      let s1 := releaseMoves s s.myCore sc.toNat false
      let s2 := acquireAt s1 s.myCore sc.toNat
      .ok (s2.finish s2.me 6))

/-! ## CCTL (R217, R218) -/

/-- The segment check of a range operation and its target, none where the range is empty or not global. -/
def rangeTarget (a b : Reg) (right : Nat) (s : State) : Except Stop (Option (Nat × Nat)) := do
  let len := s.me.rg b
  need (len.toNat ≤ 2 ^ 32) FORMAT len
  if len = 0 then return none
  let (kind, o) ← segCheck s.me (s.me.rg a) len.toNat right
  return if kind = 1 then some (o, len.toNat) else none

/-- The thread's earlier stores to a range are not all accepted. -/
def rangePending (s : State) (o n : Nat) : Bool :=
  (s.core s.myCore).storeq.any (fun e => e.slot == slotOf s.cur && match e.place with
    | .global dva _ _ => decide (o / 64 ≤ dva / 64) && decide (dva / 64 ≤ (o + n - 1) / 64)
    | _ => false)

/-- Keys of lines of the acting core's partition in a range, among those of a table. -/
def keysIn {α : Type} (s : State) (t : Tab α) (o n : Nat) : List Nat :=
  let base := s.partOf s.myCore * 2 ^ 41
  (t.filter (fun x => base + o / 64 ≤ x.1 ∧ x.1 ≤ base + (o + n - 1) / 64)).map (·.1)

/-- Drop the issuing core's L1 lines in a range. -/
def rangeL1 (s : State) (o n : Nat) : State :=
  let c := s.core s.myCore
  s.setCore s.myCore { c with l1 := (keysIn s c.l1 o n).foldl tdel c.l1 }

/-- Treat the cluster's copies in a range. -/
def rangeCopies (s : State) (o n : Nat) (f : State → Nat → State) : State :=
  (keysIn s (s.cluster (clusterOf s.myCore)).staging o n).foldl f s

/-- The unit of a range that comes next, from position `done` of it: to the next 4 KiB boundary, or the range's end (R218). -/
def rangeUnit (o n done : Nat) : Nat × Nat :=
  let lo := o + done
  (lo, Nat.min (o + n - lo) (4096 - lo % 4096))

/-- An atomic of some thread of the cluster is pending on a line of the range: it executes before an INVR (R219). -/
def rangeAtomics (s : State) (o n : Nat) : Bool :=
  (List.range 4).any (fun k =>
    let c := clusterOf s.myCore * 4 + k
    (s.core c).storeq.any (fun e => (s.core c).part == (s.core s.myCore).part && match e.op, e.place with
      | .atomic _ _, .global dva _ _ => decide (o / 64 ≤ dva / 64) && decide (dva / 64 ≤ (o + n - 1) / 64)
      | _, _ => false))

/-- What a range operation writes back can reach its homes (R18). -/
def rangeOpen (s : State) (o n : Nat) : Bool :=
  let c := s.cluster (clusterOf s.myCore)
  c.wb.all (fun w => homeUp s w.copy) &&
    (keysIn s c.staging o n).all (fun k => match tfind c.staging k with
      | some l => decide (l.dirty = 0) || homeUp s l
      | none => true)

/-- A range operation ends, or has done a unit and stands between two (R218): it is then not in flight, and its next turn goes on
from there. -/
def rangeStep (s : State) (n done : Nat) : State :=
  if n ≤ done then s.finish { s.me with rangeAt := 0 } 6 else s.setMe { s.me with rangeAt := done }

/-- The body of WBR, INVR and DISC: one unit of 4 KiB; write-backs on their way are merged first. -/
def rangeBody (sc : BitVec 3) (b a : Reg) (right : Nat) (l1 : Bool) (f : Nat → Nat → State → Nat → State) (s : State) :
    Except Stop State := do
  match ← rangeTarget a b right s with
  | none => return s.finish { s.me with rangeAt := 0 } 6
  | some (o, n) =>
    let u := rangeUnit o n s.me.rangeAt
    if rangePending s u.1 u.2 || (l1 && rangeAtomics s u.1 u.2) || (3 ≤ sc.toNat && !rangeOpen s u.1 u.2) then .error .hold
    else
      let s1 := if l1 then rangeL1 s u.1 u.2 else s
      let s2 := if 3 ≤ sc.toNat then rangeCopies (flushWb s1 (clusterOf s.myCore)) u.1 u.2 (f o n) else s1
      return rangeStep s2 n (u.1 + u.2 - o)

/-- Write back one copy, and drop it. -/
def invLine (s : State) (key : Nat) : State := dropLine (writeBackLine s (clusterOf s.myCore) key) (clusterOf s.myCore) key
/-- DISC of one copy: an SM line wholly inside the range is dropped without write-back. -/
def discLine (o n : Nat) (s : State) (key : Nat) : State :=
  let line := key % 2 ^ 41 * 64
  let sm : Bool := match tfind (s.cluster (clusterOf s.myCore)).staging key with
    | some l => l.cls == 1
    | none => false
  if sm ∧ o ≤ line ∧ line + 64 ≤ o + n then dropLine s (clusterOf s.myCore) key else invLine s key

def execWbr (sc : BitVec 3) (b a : Reg) (s : State) : Out :=
  run (.wbr sc b a) s (rangeBody sc b a rightR false (fun _ _ s k => writeBackLine s (clusterOf s.myCore) k) s)
def execInvr (sc : BitVec 3) (b a : Reg) (s : State) : Out :=
  run (.invr sc b a) s (rangeBody sc b a rightR true (fun _ _ s k => invLine s k) s)
def execDisc (sc : BitVec 3) (b a : Reg) (s : State) : Out := run (.disc sc b a) s (rangeBody sc b a rightW true discLine s)

/-- PREF of line `k` of a range: filled into L1, or into the staging copy; a line that fails a check is skipped, and one whose home's
die relocks is waited for (R18). -/
def prefLine (sc : BitVec 3) (ea : W64) (n : Nat) (s : State) (k : Nat) : Except Stop State :=
  let core := s.myCore
  let part := s.partOf core
  let first := ea.toNat / 64 * 64 + 64 * k
  let lo := Nat.max ea.toNat first
  let len := Nat.min (ea.toNat + n) (first + 64) - lo
  match segCheck s.me (BitVec.ofNat 64 lo) len rightR with
  | .error _ => .ok s
  | .ok (kind, o) =>
    if kind ≠ 1 then .ok s
    else
      match translate s (clusterOf core) part o accRead (BitVec.ofNat 64 lo) with
      | .error (.walk _ _) => .error .hold
      | .error _ => .ok s
      | .ok (s1, leaf, pa) =>
        if leafUC leaf ∨ leafCls leaf = 4 then .ok s1
        else if !placeReachable s1 s.cur (.global o pa leaf) then .error .hold
        else if sc.toNat < 3 then .ok (lateLoad s1 core part o 1 pa leaf []).1
        else if homedIn s1 (clusterOf core) part o pa leaf then .ok s1
        else .ok (fillLine s1 (clusterOf core) part o pa leaf).1

/-- PREF: it never traps on its lines, and goes by units of 4 KiB. -/
def execPref (sc : BitVec 3) (b a : Reg) (s : State) : Out :=
  run (.pref sc b a) s (do
    let len := s.me.rg b
    need (len.toNat ≤ 2 ^ 32) FORMAT len
    if len = 0 then return s.finish { s.me with rangeAt := 0 } 6
    else
      let ea := s.me.rg a
      let u := rangeUnit ea.toNat len.toNat s.me.rangeAt
      let lines := (u.1 + u.2 - 1) / 64 - u.1 / 64 + 1
      let s1 ← (List.range lines).foldlM (prefLine sc (BitVec.ofNat 64 u.1) u.2) s
      return rangeStep s1 len.toNat (u.1 + u.2 - ea.toNat))

/-- CINV. -/
def execCinv (s : State) : Out :=
  let s1 := s.setCore s.myCore { s.core s.myCore with cc := [] }
  .next (s1.finish s1.me 6)

/-! ## SEG (R220) -/

/-- A word of a segment register. -/
def segWord (g : Seg) (w : BitVec 2) : W64 := if w = 0 then g.base else if w = 1 then g.lim else g.attr.setWidth 64

def execSegr (sg : BitVec 3) (w : BitVec 2) (d : Reg) (s : State) : Out := .next (s.finishG d (segWord (s.me.seg sg.toNat) w) 6)

/-- SEGW's value is refused. -/
def segwBad (w : BitVec 2) (v : W64) : Bool :=
  (w == 2 && (v.extractLsb' 11 53 != 0 || v.extractLsb' 8 3 == 7 || v.extractLsb' 5 3 != 0)) || (w == 1 && decide (2 ^ 61 < v.toNat))

def execSegw (sg : BitVec 3) (w : BitVec 2) (a d : Reg) (s : State) : Out :=
  privileged (.segw sg w a d) 1 s (
    let t := s.me
    let v := t.rg a
    if segwBad w v then .next (s.finishG d 1 6)
    else
      let g := t.seg sg.toNat
      let g1 : Seg := if w = 0 then { g with base := v } else if w = 1 then { g with lim := v } else { g with attr := v.setWidth 11 }
      .next (s.finish ({ t with sg := tput t.sg sg.toNat g1 }.wg d 0) 6))

def execSegn (sg : BitVec 3) (b a d : Reg) (s : State) : Out :=
  let t := s.me
  let g := t.seg sg.toNat
  let lo := t.rg a
  let raw := (t.rg b).extractLsb' 0 59
  let len : Nat := if raw = ~~~0#59 then g.lim.toNat else raw.toNat
  if g.lim < lo then .next (s.finishG d 1 6)
  else
    let g1 : Seg :=
      { base := g.base + lo, lim := BitVec.ofNat 64 (Nat.min (g.lim.toNat - lo.toNat) len),
        attr := g.attr &&& (0x3F#6 ++ (t.rg b).extractLsb' 59 5) }
    .next (s.finish ({ t with sg := tput t.sg sg.toNat g1 }.wg d 0) 6)

end

end Sys2Proof.Machine
end

