-- ==== Sys2Proof/Machine/Fabric.lean ====
section
/-! DEFINITION. The services of the fabric (R372-R390): multicast and versions, the all-reduce, shuttles and their replies. -/

namespace Sys2Proof.Machine

noncomputable section

/-! ## Publications (R372) -/

/-- A publication entry. -/
structure Publication where
  psrc : Nat
  pdst : Nat
  npage : Nat
  sub : Nat
  live : Bool
  v : Nat
  memb : Nat
deriving DecidableEq, Repr

/-- The entry of a number, read at home from PUBT; one that is not mapped is not LIVE (log 46). -/
def pubAt (s : State) (part p : Nat) : Option Publication :=
  (peekRange s part ((s.part part).pubt.toNat + 192 * p) 192).map (fun b =>
    { psrc := fieldAt b 0 8, pdst := fieldAt b 8 8, npage := fieldAt b 16 2, sub := fieldAt b 18 1, live := fieldAt b 19 1 % 2 == 1,
      v := fieldAt b 32 8, memb := fieldAt b 64 128 })

/-- The lowest-numbered LIVE publication whose source contains an address. -/
def pubOf (s : State) (part dva : Nat) : Option Nat :=
  (List.range 256).find? (fun p => match pubAt s part p with
    | some x => x.live && decide (x.psrc ≤ dva) && decide (dva < x.psrc + 4096 * x.npage)
    | none => false)

/-- Its member packages, lowest first. -/
def Publication.members (x : Publication) : List Nat := (List.range 1024).filter (fun m => x.memb.testBit m)

/-- STALE bits of a publication's members. -/
def staleOf (s : State) (part p : Nat) : List (BitVec 10) := tget [] (s.part part).pubStale p
/-- Set or clear a member's STALE bit at the publisher. -/
def setStale (s : State) (part p : Nat) (m : BitVec 10) (on : Bool) : State :=
  let l := (staleOf s part p).filter (· != m)
  s.setPart part { s.part part with pubStale := tput (s.part part).pubStale p (if on then l ++ [m] else l) }

/-- A package that is DOWN or FAILED (R234, R366). -/
def pkgFailed (s : State) (pkg : BitVec 10) : Bool := peerState s pkg == .failed || peerState s pkg == .down

/-! ## MCST (R374, R389) -/

/-- The thread's last MCST ends once its write is accepted and every member has acknowledged or failed. -/
def mcstSettle (s : State) (key : Nat) : State :=
  let t := s.thread key
  match waiting s key with
  | some w =>
    (match w.instr with
     | .mcst _ _ d =>
       if w.sent ∧ t.mcstOpen.all (fun x => x.seq != w.aux) then
         let v := fenceWord (t.mcstFailed.map (·.toNat)) false
         answer s key { Reply.reg d v with csr := [(0x033, v)] }
       else s
     | _ => s)
  | none => s

/-- A member fails an MCST: its STALE bit is set at the publisher. -/
def mcstFail (s : State) (key : Nat) (x : McstPending) : State :=
  let s1 := setStale s (s.partOf (coreOf key)) x.pub x.pkg true
  let t := s1.thread key
  let t1 : Thread := { t with
    mcstOpen := t.mcstOpen.erase x,
    mcstFailed := if x.seq = t.mcstSeq ∧ !t.mcstFailed.contains x.pkg then t.mcstFailed ++ [x.pkg] else t.mcstFailed }
  mcstSettle (s1.setThread key t1) key

/-- The write has been performed in the source: it is sent to every member. -/
def mcstSend (s : State) (core : Nat) (e : StoreEntry) (p seq : Nat) : State :=
  let key := keyOf core (e.slot % 16)
  let part := e.part.toNat
  match pubAt s part p with
  | none => s
  | some x =>
    let s1 := x.members.foldl (fun s m =>
      let pkg := BitVec.ofNat 10 m
      let dva := x.pdst + (e.place.addr - x.psrc)
      let pend : McstPending := { seq := seq, pub := p, pkg := pkg, dva := BitVec.ofNat 64 dva, tick := s.tim }
      let t := s.thread key
      let s1 := if 16 ≤ e.slot then s else s.setThread key { t with mcstOpen := t.mcstOpen ++ [pend] }
      if pkgFailed s pkg then (if 16 ≤ e.slot then setStale s1 part p pkg true else mcstFail s1 key pend)
      else s1.send (.mcst pkg e.part (s.tid key) (BitVec.ofNat 8 x.sub) dva (BitVec.ofNat 64 (natOfBytes e.bytes)))) s
    let t := s1.thread key
    let s2 := match t.wait with
      | some w => if 16 ≤ e.slot ∨ w.aux ≠ seq then s1 else
        (match w.instr with
         | .mcst _ _ _ => s1.setThread key { t with wait := some { w with sent := true } }
         | _ => s1)
      | none => s1
    mcstSettle s2 key

/-- MCST. -/
def execMcst (b a d : Reg) (s : State) : Out :=
  run (.mcst b a d) s (do
    let key := s.cur
    let ea := s.me.rg a
    need (decide (ea.toNat % 8 = 0)) ALIGN ea
    let (kind, o) ← segCheck s.me ea 8 rightW
    need (decide (kind = 1)) SEGV ea
    match pubOf s (s.partOf s.myCore) o with
    | none => .error (.trap ACCESS ea)
    | some p =>
      let (s1, place) ← resolve s key ea 8 .store kind o
      let seq := s1.me.mcstSeq + 1
      let s2 ← storeAt s1 key ea place (bytesOfNat 8 (s.me.rg b).toNat) (.mcst p seq) none
      let s3 := s2.setMe { s2.me with mcstSeq := seq, mcstFailed := [] }
      if d = 0 then return s3.finish s3.me 8
      else
        let s4 := parkMe s3 0x01 ea (.mcst b a d)
        let t := s4.me
        return s4.setMe { t with wait := t.wait.map (fun w => { w with aux := seq }) })

/-! ## PUBV, SUBV (R373, R375, R376, R389) -/

/-- The source region of a RESYNC, byte by byte with its address in the copies. -/
def resyncData (s : State) (part : Nat) (x : Publication) (eval : W64) : Except Stop (State × List (Nat × Byte)) := do
  let n := 4096 * x.npage
  need ((rangePieces x.psrc n).all (fun p => match walk s part p.1 with
    | .leaf l => leafCls l.word != 4
    | .fault _ => true)) ACCESS eval
  let (s1, ps) ← translateRange s (clusterOf s.myCore) part x.psrc n accRead eval
  if ps.any (fun p => anyPoison s1.mem.ramPoison p.1 p.2) then .error .poison
  else
    let bs := ps.flatMap (fun p => mreadN s1.mem.ram p.1 p.2)
    return (s1, (bs.zipIdx x.pdst).map (fun y => (y.2, y.1)))

/-- PUBV at one member: bumped, or left unbumped. -/
def bumpMember (part p : Nat) (x : Publication) (data : Option (List (Nat × Byte))) (ver : W64) (r : State × List Nat) (m : Nat) :
    State × List Nat :=
  let s := r.1
  let pkg := BitVec.ofNat 10 m
  let sub := BitVec.ofNat 8 x.sub
  let part4 := BitVec.ofNat 4 part
  match data with
  | some l =>
    if pkgFailed s pkg then (s, r.2 ++ [m]) else ((setStale s part p pkg false).send (.bump pkg part4 sub ver true l), r.2)
  | none =>
    if pkgFailed s pkg then (s, r.2 ++ [m])
    else if (staleOf s part p).contains pkg then (s.send (.stale pkg part4 sub), r.2 ++ [m])
    else (s.send (.bump pkg part4 sub ver false []), r.2)

/-- PUBV. -/
def execPubv (b a d : Reg) (s : State) : Out :=
  run (.pubv b a d) s (do
    let key := s.cur
    let part := s.partOf s.myCore
    let v := s.me.rg a
    let p := v.toNat
    let g := s.me.rg b
    need (decide (p ≤ 255) && decide (g.toNat ≤ 1)) FORMAT v
    match pubAt s part p with
    | none => .error (.trap ACCESS v)
    | some x =>
      need x.live ACCESS v
      if releaseWaits s key 5 false ∨ s.me.mcstOpen.any (fun y => y.pub == p) then .error .hold
      else
        let s1 := releaseMoves s s.myCore 5 false
        let (s2, data) ← if g = 1 then (do
          let r ← resyncData s1 part x v
          return (r.1, some r.2)) else pure (s1, none)
        let ver := BitVec.ofNat 64 (x.v + 1)
        let s3 := match walk s2 part ((s2.part part).pubt.toNat + 192 * p + 32) with
          | .leaf l =>
            { s2 with mem := ramWrite s2.mem (leafPA l.word + ((s2.part part).pubt.toNat + 192 * p + 32) % l.size) (bytesOfNat 8 ver.toNat) }
          | .fault _ => s2
        let r := x.members.foldl (bumpMember part p x data ver) (s3, [])
        let w := fenceWord r.2 false
        return r.1.finish ({ r.1.me with mcstat := w }.wg d w) 6)

/-- The version word and the state word of a subscription. -/
def Subscription.word (x : Subscription) : W64 := BitVec.ofBool x.isOpen ++ BitVec.ofBool x.stale ++ x.ver
def Subscription.stateWord (x : Subscription) : W64 :=
  BitVec.ofBool x.live ++ BitVec.ofBool x.stale ++ 0#38 ++ x.pnum ++ 0#6 ++ x.ppkg

/-- SUBV. -/
def execSubv (n : BitVec 5) (a d : Reg) (s : State) : Out :=
  run (.subv n a d) s (do
    let v := s.me.rg a
    need (decide (v.toNat ≤ 255)) FORMAT v
    let x := s.sub (s.partOf s.myCore) v.toNat
    if n = 0 then return acquireAt (s.finishG d x.word 6) s.myCore 5 else return s.finishG d x.stateWord 6)

/-! ## All-reduce (R377, R378) -/

/-- The exact sum of floating lanes, rounded once; a zero sum is negative only when every lane is −0 (log 47). -/
def exactSum (F : FpFmt) (xs : List Nat) : Nat :=
  let vs := xs.map (fpDecode F)
  let pos := vs.any (fun v => v == .inf false)
  let neg := vs.any (fun v => v == .inf true)
  if vs.any Fp.isNaN || (pos && neg) then F.nan
  else if pos || neg then F.inf neg
  else
    let add (r : Int × Nat) (v : Fp) : Int × Nat :=
      match v with
      | .fin s n d =>
        let k : Int := if s then -(n : Int) else n
        if r.2 ≤ d then (r.1 * (d / r.2 : Nat) + k, d) else (r.1 + k * (r.2 / d : Nat), r.2)
      | _ => r
    let r := vs.foldl add (0, 1)
    if r.1 = 0 then (if xs.all (fun x => x == F.signBit true) then F.signBit true else 0)
    else (fpRound F 0 (decide (r.1 < 0)) r.1.natAbs r.2).1

/-- Bits of a lane of format code 0 I64, 1 I32, 4 F64, 5 F32, 6 B16. -/
def aredWidth (f : Nat) : Nat := if f = 0 ∨ f = 4 then 64 else if f = 6 then 16 else 32

/-- One lane reduced over the members: op 0 SUM, 1 MIN, 2 MAX, 3 AND, 4 OR, 5 XOR. -/
def aredLane (op f : Nat) (xs : List Nat) : Nat :=
  let w := aredWidth f
  if f < 4 then
    match op with
    | 0 => xs.sum % 2 ^ w
    | 1 => xs.foldl (atomNew 4 w) (xs.headD 0)
    | 2 => xs.foldl (atomNew 5 w) (xs.headD 0)
    | 3 => xs.foldl (· &&& ·) (xs.headD 0)
    | 4 => xs.foldl (· ||| ·) 0
    | _ => xs.foldl (· ^^^ ·) 0
  else
    let F := if f = 4 then f64 else if f = 5 then f32 else b16
    match op with
    | 0 => exactSum F xs
    | 1 => (xs.drop 1).foldl (fun m x => (fpMinMax F false m x).1) (xs.headD 0)
    | _ => (xs.drop 1).foldl (fun m x => (fpMinMax F true m x).1) (xs.headD 0)

/-- The reduced buffer. -/
def aredResult (cs : List AredContrib) : List Byte :=
  match cs with
  | [] => []
  | c :: _ =>
    let f := c.fmt.toNat
    let n := aredWidth f / 8
    (List.range (c.data.length / n)).flatMap (fun i =>
      bytesOfNat n (aredLane c.op.toNat f (cs.map (fun x => fieldAt x.data (i * n) n))))

/-- Members agree on op, format and length. -/
def aredAgree (cs : List AredContrib) : Bool :=
  match cs with
  | [] => true
  | c :: r => r.all (fun x => x.op == c.op && x.fmt == c.fmt && x.data.length == c.data.length)

/-- Status bits of an ARED; `bits` holds BROKEN 16, MISMATCH 8, FAIL 4, GONE 2, REPEAT 1. -/
def aredWord (bits : BitVec 5) (ph : W32) : W64 := bits ++ 0#27 ++ ph

/-- The argument checks of ARED. -/
def aredArgsOk (v : W64) (p : BitVec 3) : Bool :=
  let f := (v.extractLsb' 8 4).toNat
  let l := (v.extractLsb' 16 9).toNat
  v.extractLsb' 25 39 == 0 && v.extractLsb' 12 4 == 0 && [0, 1, 4, 5, 6].contains f && decide (8 ≤ l) && decide (l ≤ 256) && l % 8 == 0 &&
    !(decide (3 ≤ p.toNat) && decide (4 ≤ f))

/-- The buffer of an ARED: local segment, W0, 8-byte aligned. -/
def aredBuffer (t : Thread) (ea : W64) (n : Nat) : Except Stop Nat := do
  need (decide (ea.toNat % 8 = 0)) ALIGN ea
  let (kind, o) ← segCheck t ea n rightR
  let _ ← segCheck t ea n rightW
  need (decide (kind = 2) && decide (o + n ≤ 0x100000)) SEGV ea
  return o

/-- The acting thread waits for the phase's end. -/
def aredPark (i : Instr) (s : State) (g aux : Nat) : State :=
  let s1 := parkMe s 0x06 (BitVec.ofNat 64 g) i
  let t := s1.me
  s1.setMe { t with wait := t.wait.map (fun w => { w with sent := true, aux := aux }) }

/-- ARED. -/
def execAred (p : BitVec 3) (b a d : Reg) (s : State) : Out :=
  run (.ared p b a d) s (do
    let key := s.cur
    let core := s.myCore
    let part := s.partOf core
    let v := s.me.rg a
    let g := (v.extractLsb' 0 8).toNat
    let n := (v.extractLsb' 16 9).toNat
    let ea := s.me.rg b
    need (aredArgsOk v p) FORMAT v
    need (s.me.memberOf g) ACCESS (BitVec.ofNat 64 g)
    let o ← aredBuffer s.me ea n
    let x := s.group part g
    if x.state = 0 then return s.finishG d (aredWord 2 0) 6
    else if x.state = 3 then return s.finishG d (aredWord 16 x.aphase) 6
    else
      let s1 ← if releaseWaits s key x.scope.toNat false then .error .hold else pure (releaseMoves s core x.scope.toNat false)
      lockWait s1 key 0 o n s.me.wscb ea
      match tfind s.me.aredIn g with
      | some ph =>
        if ph = x.aphase then return aredPark (.ared p b a d) s1 g 1
        else
          let s2 := if x.alast.2.isEmpty then s1 else { s1 with mem := spadWrite s1.mem core o (x.alast.2.take n) }
          let s3 := s2.setMe { s2.me with aredIn := tdel s2.me.aredIn g }
          return acquireAt (s3.finishG d (x.alast.1 ||| aredWord 1 0) 6) core x.scope.toNat
      | none =>
        let (s2, bs, bad) ← bytesNow s1 key (.spad core o) n
        if bad then .error .poison
        let c : AredContrib := { op := p, fmt := v.extractLsb' 8 4, data := bs }
        let s3 := s2.setGroup part g { x with contribs := x.contribs ++ [(key, c)] }
        let s4 := s3.setMe { s3.me with aredIn := tput s3.me.aredIn g x.aphase }
        let s5 := if x.scope = 5 then s4.send (.ared (BitVec.ofNat 4 part) g key c) else s4
        return aredPark (.ared p b a d) s5 g 0)

/-- What a member's parked ARED receives: its status, and a result where it is to be stored later. -/
def aredReply (x : Group) (st : W64) (w : Wait) (data : Option (Nat × List Byte)) : Reply :=
  { Reply.reg (reedDest w.instr) (if w.aux = 1 then st ||| aredWord 1 0 else st) with acquire := some x.scope, data := data }

/-- The scratchpad byte of a parked ARED's buffer. -/
def aredPlace (t : Thread) (w : Wait) (n : Nat) : Nat :=
  match aredBuffer t (match w.instr with
    | .ared _ b _ _ => t.rg b
    | _ => 0) n with
  | .ok o => o
  | .error _ => 0

/-- A phase ends: every member still waiting receives the status and, on success, the result, which one whose buffer is locked (R65) or
whose context is not live stores when it goes on; the others find it later. -/
def aredEnd (s : State) (part g : Nat) (bits : BitVec 5) (result : List Byte) : State :=
  let x := s.group part g
  let st := aredWord bits x.aphase
  let s1 := s.setGroup part g { x with aphase := x.aphase + 1, contribs := [], alast := (st, result) }
  let give (s : State) (key : Nat) : State :=
    let t := s.thread key
    match reedWaitOf t, t.wait with
    | some (g', none), some w =>
      if g' ≠ g then s
      else
        let o := aredPlace t w result.length
        let done := s.setThread key { t with aredIn := tdel t.aredIn g }
        if (lockedByte (s.arch (coreOf key)) (slotOf key) o result.length).isSome then
          answer done key (aredReply x st w (some (o, result)))
        else
          answer (if result.isEmpty then done else { done with mem := spadWrite s.mem (coreOf key) o result }) key (aredReply x st w none)
    | _, _ => s
  answerOff ((s1.keysOf part).foldl give s1) part (fun t w => match reedWaitOf t with
    | some (g', none) => if g' = g ∧ w.reply.isNone then some (aredReply x st w (if result.isEmpty then none else some (aredPlace t w result.length, result))) else none
    | _ => none)

/-- A package that members of a SYS group could stand on has failed. -/
def somePeerFailed (s : State) : Bool :=
  s.links.noPath != [] || s.links.route.any (fun r => r.2 != 0 && pkgFailed s (BitVec.ofNat 10 r.1))

/-- ARED_PHASE_COMPLETE. -/
def execAredPhaseComplete (part : BitVec 4) (g : Byte) (peers : List AredContrib) (failed : Bool) (s : State) : Out :=
  let p := part.toNat
  let n := g.toNat
  let x := s.group p n
  let cs := x.contribs.map (·.2) ++ peers
  let want := x.exp.toNat - x.done.toNat
  if x.state = 0 ∨ x.state = 3 ∨ (x.scope ≠ 5 ∧ (failed ∨ peers ≠ [])) then .next s
  else if failed then
    .next (if somePeerFailed s ∧ x.contribs ≠ [] then aredEnd s p n 4 [] else s)
  else if cs = [] ∨ cs.length ≠ want then .next s
  else if aredAgree cs then .next (aredEnd s p n 0 (aredResult cs))
  else .next (aredEnd s p n 8 [])

/-! ## SHTL (R386, R388) -/

/-- The reserved fields of a descriptor are zero. -/
def descOk (v : W64) : Bool := v.extractLsb' 44 4 == 0 && !v.getLsbD 31 && v.extractLsb' 12 4 == 0

/-- SHTL. -/
def execShtl (r : BitVec 1) (n : BitVec 3) (a d : Reg) (s : State) : Out :=
  run (.shtl r n a d) s (do
    let key := s.cur
    let v := s.me.rg a
    need (descOk v) FORMAT v
    if releaseWaits s key 5 false then .error .hold
    else
      let pkg := v.extractLsb' 0 10
      let part := BitVec.ofNat 4 (s.partOf s.myCore)
      let sh : Shuttle :=
        { desc := v, args := (List.range n.toNat).map (fun i => s.me.rg (BitVec.ofNat 5 (4 + i))), tid := s.tid key, reply := r == 1,
          kid := s.me.kid }
      let c := closeEpoch (releaseMoves s s.myCore 5 false) key pkg
      if r = 1 then
        if pkgFailed s pkg then return c.1.finishG d 6 6
        else return (parkOn c.1 key 0x01 v true (.shtl r n a d) []).send (.shuttle pkg part sh (some c.2))
      else
        let s2 ← enqueueStore c.1 s.myCore
          { slot := slotOf key, stream := none, part := part, place := .peer pkg.toNat (2 ^ 47), addr := v, bytes := [],
            op := .shuttle sh (some c.2), epoch := c.2.1 }
        return s2.finish s2.me 8)

/-! ## SHTR and shuttle messages to the sender (R384, R385, R389) -/

/-- SHTR. -/
def execShtr (a d : Reg) (s : State) : Out :=
  run (.shtr a d) s
    (let t := s.me
     let q := kidQueue t.kid
     match (if t.bound then s.kernel q (kidSerial t.kid) else none) with
     | none => .ok (s.finishG d 3 6)
     | some k =>
       match k.shuttle with
       | none => .ok (s.finishG d 3 6)
       | some sh =>
         if !sh.reply then .ok (s.finishG d 2 6)
         else if k.replied then .ok (s.finishG d 1 6)
         else if releaseWaits s s.cur 5 false then .error .hold
         else
           let s1 := releaseMoves s s.myCore 5 false
           let s2 := sendReply s1 q k (t.rg a) (replyWord false false false 0 (s.tid s.cur))
           .ok ((s2.setKernel q { k with replied := true }).finishG d 0 6))

/-- Saturating increment of a field of SHST. -/
def shstInc (v : W64) (lo n : Nat) : W64 :=
  let x := (v.extractLsb' lo n).toNat
  if x + 1 < 2 ^ n then v + BitVec.ofNat 64 (2 ^ lo) else v

/-- A posted shuttle has been refused (R385). -/
def shuttleRefused (s : State) (key : Nat) (kid desc : W64) (status : BitVec 4) : State :=
  let t := s.thread key
  if t.bound ∧ t.kid = kid ∧ t.state ≠ .empty then
    let v := shstInc t.shst 48 16
    s.setThread key { t with
      shst := v.extractLsb' 32 32 ++ status ++ desc.extractLsb' 32 12 ++ 0#1 ++ desc.extractLsb' 16 15 }
  else s

/-- SHUTTLE_REFUSAL. -/
def execShuttleRefusal (core slot : Nat) (kid : W64) (desc : W64) (status : BitVec 4) (s : State) : Out :=
  let key := keyOf core slot
  match takePacket s (desc.extractLsb' 0 10) (.shuttleStatus s.pk.pkg (s.tid key) desc status) with
  | none => .next s
  | some s1 => .next (shuttleRefused s1 key kid desc status)

/-- A reply of a kernel of this package is on its way here; another comes from outside. -/
def takeReply (s : State) (m : OutMsg) (w2 : W64) : Option State :=
  if s.links.loop.contains m then takePacket s s.pk.pkg m
  else if w2.extractLsb' 0 26 ≠ 0 ∧ w2.extractLsb' 16 10 = s.pk.pkg then none
  else some s

/-- Keys of a context that is not live, bound to a kernel. -/
def offBound (s : State) (part key : Nat) (kid : W64) : Bool :=
  (offThreads s part).any (fun x => x.1 == key && x.2.state != .empty && x.2.bound && x.2.kid == kid)

/-- SHUTTLE_REPLY_ARRIVAL: stored, discarded, or held for a full inbox. -/
def execShuttleReplyArrival (part : BitVec 4) (kid : W64) (tid : W64) (w1 w2 : W64) (rtok : BitVec 16) (s : State) : Out :=
  match takeReply s (.shuttleReply s.pk.pkg part kid tid w1 w2 rtok) w2 with
  | none => .next s
  | some s1 =>
    let p := part.toNat
    let old := (tid.extractLsb' 0 14).toNat
    if offBound s1 p old kid then
      .next (signalRtok (bufferReply s1 p old { kind := 1, word := w1, tid := w2, reply := none }) p rtok)
    else
      match replyTarget s1 kid tid with
      | none => .next (signalRtok s1 p rtok)
      | some key =>
        if inboxCount (s1.thread key) < 16 then .next (signalRtok (inboxPut s1 key w1 w2) p rtok)
        else
          .next { s1 with links := { s1.links with replies := s1.links.replies ++
            [{ part := part, kid := kid, tid := tid, w1 := w1, w2 := w2, rtok := rtok, tick := s.tim }] } }

/-- REPLY_HOLD_TIMEOUT: the reply is discarded; NLOST counts it where its sender still waits for it. -/
def execReplyHoldTimeout (index : Nat) (s : State) : Out :=
  match s.links.replies[index]? with
  | none => .next s
  | some r =>
    let s1 := { s with links := { s.links with replies := removeAt s.links.replies index } }
    match replyTarget s r.kid r.tid with
    | none => .next (signalRtok s1 r.part.toNat r.rtok)
    | some key =>
      if r.tick + 500000 ≤ s.tim then
        let t := s1.thread key
        .next (signalRtok (s1.setThread key { t with shst := shstInc t.shst 40 8 }) r.part.toNat r.rtok)
      else .next s

end

end Sys2Proof.Machine
end

