-- ==== Sys2Proof/Machine/Acks.lean ====
section
/-! DEFINITION. Acknowledgements of stores and multicast writes, and the peers that count as failed without them (R234, R368,
R370, R374). -/

namespace Sys2Proof.Machine

noncomputable section

/-! ## Acknowledgements of stores (R234, R368, R370) -/

/-- A store or no-return atomic was refused: an event of type 0x0A on the issuing die (R400). -/
def refusalEvent (s : State) (key : Nat) (pkg : BitVec 10) (addr : W64) : State :=
  pushThreadEvent s key 0x0A 0 addr (pkg.setWidth 64)

/-- Take the oldest entry of an address off a list. -/
def takePending (l : List (W64 × Nat)) (addr : W64) : Option (List (W64 × Nat)) :=
  match l.find? (fun x => x.1 == addr) with
  | some x => some (l.erase x)
  | none => none

/-- A kernel that keeps an ended thread's store of an address. -/
def unackedKernel (s : State) (key : Nat) (pkg : BitVec 10) (addr : W64) : Option (Nat × Kernel) :=
  s.queues.findSome? (fun x => (x.2.kernels.find? (fun k => k.unacked.any (fun u => u.1 == key && u.2.1 == pkg && u.2.2.1 == addr))).map
    (fun k => (x.1, k)))

/-- An acknowledgement reaches the issuing package: for an ended thread's store, the thread's own, or an MCST's copy. -/
def peerAck (s : State) (key : Nat) (pkg : BitVec 10) (refused : Bool) (addr : W64) : State :=
  match unackedKernel s key pkg addr with
  | some (q, k) =>
    let hit (u : Nat × BitVec 10 × W64 × Nat) : Bool := u.1 == key && u.2.1 == pkg && u.2.2.1 == addr
    let un := match k.unacked.find? hit with
      | some u => k.unacked.erase u
      | none => k.unacked
    let s1 := s.setKernel q { k with unacked := un, refused := k.refused || refused }
    if refused then refusalEvent s1 key pkg addr else s1
  | none =>
    let t := s.thread key
    let p := t.peer pkg
    match takePending p.pending addr with
    | some l =>
      let s1 := s.setThread key { t with
        peers := tput t.peers pkg.toNat { p with pending := l }, refusedStore := t.refusedStore || refused }
      if refused then refusalEvent s1 key pkg addr else s1
    | none =>
      match t.mcstOpen.find? (fun x => x.pkg == pkg && x.dva == addr) with
      | some x =>
        if refused then mcstFail s key x else mcstSettle (s.setThread key { t with mcstOpen := t.mcstOpen.erase x }) key
      | none => s

/-- The thread keeps a write to the package of this address that is not acknowledged. -/
def Thread.expects (t : Thread) (pkg : BitVec 10) (addr : W64) : Bool :=
  (t.peer pkg).pending.any (fun x => x.1 == addr) || t.mcstOpen.any (fun x => x.pkg == pkg && x.dva == addr)

/-- The partition of a context that is not live and whose thread expects the acknowledgement (R329). -/
def offExpects (s : State) (key : Nat) (pkg : BitVec 10) (addr : W64) : Option Nat :=
  (List.range 16).find? (fun part => (offThreads s part).any (fun x => x.1 == key && x.2.expects pkg addr))

/-- PEER_ACK: for a context that is not live it waits in the reply buffer; one that names a vacated core follows its thread (R338). -/
def execPeerAck (core slot : Nat) (pkg : BitVec 10) (refused : Bool) (address : W64) (s : State) : Out :=
  let key := keyOf core slot
  match takePacket s pkg (.reply pkg (s.tid key) (if refused then 6 else 3) address []) with
  | none => .next s
  | some s1 =>
    let key := forwardedKey s1 key (fun k => (s1.thread k).expects pkg address)
    match (if (s1.thread key).expects pkg address then none else offExpects s1 key pkg address) with
    | some part =>
      .next (bufferReply s1 part key
        { kind := if refused then 5 else 4, word := address, tid := pkg.setWidth 64, reply := none })
    | none => .next (peerAck s1 key pkg refused address)

/-- A peer counts as failed for a thread's fence, its MCSTs, and the kernels that keep stores of the thread, where `old` holds
for the tick of acceptance. -/
def failPeer (s : State) (key : Nat) (pkg : BitVec 10) (old : Nat → Bool) : State :=
  let t := s.thread key
  let p := t.peer pkg
  let s1 :=
    if p.pending.any (fun x => old x.2) then
      s.setThread key { t with peers := tput t.peers pkg.toNat { p with pending := p.pending.filter (fun x => !old x.2), failed := true } }
    else s
  let s2 := ((s1.thread key).mcstOpen.filter (fun x => x.pkg == pkg && old x.tick)).foldl (fun s x => mcstFail s key x) s1
  let hit (u : Nat × BitVec 10 × W64 × Nat) : Bool := u.1 == key && u.2.1 == pkg && old u.2.2.2
  { s2 with queues := s2.queues.map (fun x => (x.1, { x.2 with kernels := x.2.kernels.map (fun k =>
      if k.unacked.any hit then { k with unacked := k.unacked.filter (fun u => !hit u), refused := true } else k) })) }

/-- ACKNOWLEDGEMENT_TIMEOUT. -/
def execAcknowledgementTimeout (core slot : Nat) (pkg : BitVec 10) (s : State) : Out :=
  .next (failPeer s (keyOf core slot) pkg (fun t => decide (t + 500000 ≤ s.tim)))

/-- RTBOUND_EXPIRY: the fence's hold, or the wait for an MCST's member, counts the peer as failed. -/
def execRtboundExpiry (core slot : Nat) (pkg : BitVec 10) (s : State) : Out :=
  let key := keyOf core slot
  if peerState s pkg ≠ .retraining then .next s
  else
    let t := s.thread key
    let p := t.peer pkg
    let s1 := match t.fenceStart with
      | some h =>
        if peerFailed s pkg h ∧ (!p.pending.isEmpty || unsent s key pkg.toNat) then s.setThread key { t with peers := tput t.peers pkg.toNat { p with failed := true } } else s
      | none => s
    .next (((s1.thread key).mcstOpen.filter (fun x => x.pkg == pkg && peerFailed s pkg (x.tick, s.links.rtbound.toNat))).foldl
      (fun s x => mcstFail s key x) s1)

end

end Sys2Proof.Machine
end

