-- ==== Sys2Proof/Machine/Alu.lean ====
section
/-! DEFINITION. The scalar instructions (R88-R101): ALU, bit fields, three-source operations, immediates, upper
immediates, branches and jumps; HINT (R42) and the counter reads (R107). -/

namespace Sys2Proof.Machine

noncomputable section

/-! ## Results (R88, R91) -/

/-- An operation on the low n bits of its operands, n = 64 or, for .W, 32 with the result sign-extended. -/
def aluOp (w : BitVec 1) (f : (n : Nat) → BitVec n → BitVec n → BitVec n) (a b : W64) : W64 :=
  if w = 1 then (f 32 (a.setWidth 32) (b.setWidth 32)).signExtend 64 else f 64 a b

/-- A scalar instruction ends: its result, which is checkable (R69), in g_d. -/
def aluDone (s : State) (d : Reg) (v : W64) (lat : Nat) : State := s.finish (s.me.wgChecked d v) lat

/-- The time of a division (R89). -/
def divLat (w : BitVec 1) : Nat := if w = 1 then 24 else 40

/-- Zero bits above the highest one. -/
def clzOf {n : Nat} (x : BitVec n) : Nat := if x = 0#n then n else n - 1 - Nat.log2 x.toNat
/-- Zero bits below the lowest one. -/
def ctzOf {n : Nat} (x : BitVec n) : Nat := ((List.range n).find? (fun i => x.getLsbD i)).getD n
/-- One bits. -/
def popcOf {n : Nat} (x : BitVec n) : Nat := ((List.range n).filter (fun i => x.getLsbD i)).length
/-- Bytes in reverse order. -/
def bswapOf {n : Nat} (x : BitVec n) : BitVec n := BitVec.ofNat n (natOfBytes (bytesOfNat (n / 8) x.toNat).reverse)

/-! ## ALU (R91, R92) -/

/-- The operation of ADD. -/
def opAdd (n : Nat) (x y : BitVec n) : BitVec n := x + y
/-- The operation of SUB. -/
def opSub (n : Nat) (x y : BitVec n) : BitVec n := x - y
/-- The operation of AND. -/
def opAnd (n : Nat) (x y : BitVec n) : BitVec n := x &&& y
/-- The operation of OR. -/
def opOr (n : Nat) (x y : BitVec n) : BitVec n := x ||| y
/-- The operation of XOR. -/
def opXor (n : Nat) (x y : BitVec n) : BitVec n := x ^^^ y
/-- The operation of ANDN. -/
def opAndn (n : Nat) (x y : BitVec n) : BitVec n := x &&& ~~~y
/-- The operation of ORN. -/
def opOrn (n : Nat) (x y : BitVec n) : BitVec n := x ||| ~~~y
/-- The operation of XNOR. -/
def opXnor (n : Nat) (x y : BitVec n) : BitVec n := ~~~(x ^^^ y)
/-- The operation of SHL. -/
def opShl (n : Nat) (x y : BitVec n) : BitVec n := x <<< (y.toNat % n)
/-- The operation of SHR. -/
def opShr (n : Nat) (x y : BitVec n) : BitVec n := x >>> (y.toNat % n)
/-- The operation of SHRA. -/
def opShra (n : Nat) (x y : BitVec n) : BitVec n := x.sshiftRight (y.toNat % n)
/-- The operation of ROL. -/
def opRol (n : Nat) (x y : BitVec n) : BitVec n := x.rotateLeft (y.toNat % n)
/-- The operation of ROR. -/
def opRor (n : Nat) (x y : BitVec n) : BitVec n := x.rotateRight (y.toNat % n)
/-- The operation of SLT. -/
def opSlt (n : Nat) (x y : BitVec n) : BitVec n := if x.slt y then 1#n else 0#n
/-- The operation of SLTU. -/
def opSltu (n : Nat) (x y : BitVec n) : BitVec n := if x.ult y then 1#n else 0#n
/-- The operation of MIN. -/
def opMin (n : Nat) (x y : BitVec n) : BitVec n := if x.slt y then x else y
/-- The operation of MAX. -/
def opMax (n : Nat) (x y : BitVec n) : BitVec n := if x.slt y then y else x
/-- The operation of MINU. -/
def opMinu (n : Nat) (x y : BitVec n) : BitVec n := if x.ult y then x else y
/-- The operation of MAXU. -/
def opMaxu (n : Nat) (x y : BitVec n) : BitVec n := if x.ult y then y else x
/-- The operation of MUL. -/
def opMul (n : Nat) (x y : BitVec n) : BitVec n := x * y
/-- The operation of HMUL. -/
def opHmul (n : Nat) (x y : BitVec n) : BitVec n := BitVec.ofInt n (x.toInt * y.toInt / 2 ^ n)
/-- The operation of HMULU. -/
def opHmulu (n : Nat) (x y : BitVec n) : BitVec n := BitVec.ofNat n (x.toNat * y.toNat / 2 ^ n)
/-- The operation of HMULM. -/
def opHmulm (n : Nat) (x y : BitVec n) : BitVec n := BitVec.ofInt n (x.toInt * (y.toNat : Int) / 2 ^ n)
/-- The operation of DIV (R92). -/
def opDiv (n : Nat) (x y : BitVec n) : BitVec n := if y = 0#n then ~~~0#n else x.sdiv y
/-- The operation of DIVU (R92). -/
def opDivu (n : Nat) (x y : BitVec n) : BitVec n := if y = 0#n then ~~~0#n else x / y
/-- The operation of REM (R92). -/
def opRem (n : Nat) (x y : BitVec n) : BitVec n := if y = 0#n then x else x.srem y
/-- The operation of REMU (R92). -/
def opRemu (n : Nat) (x y : BitVec n) : BitVec n := if y = 0#n then x else x % y

def execAdd (w : BitVec 1) (b a d : Reg) (s : State) : Out := .next (aluDone s d (aluOp w opAdd (s.me.rg a) (s.me.rg b)) 6)
def execSub (w : BitVec 1) (b a d : Reg) (s : State) : Out := .next (aluDone s d (aluOp w opSub (s.me.rg a) (s.me.rg b)) 6)
def execAnd (w : BitVec 1) (b a d : Reg) (s : State) : Out := .next (aluDone s d (aluOp w opAnd (s.me.rg a) (s.me.rg b)) 6)
def execOr (w : BitVec 1) (b a d : Reg) (s : State) : Out := .next (aluDone s d (aluOp w opOr (s.me.rg a) (s.me.rg b)) 6)
def execXor (w : BitVec 1) (b a d : Reg) (s : State) : Out := .next (aluDone s d (aluOp w opXor (s.me.rg a) (s.me.rg b)) 6)
def execAndn (w : BitVec 1) (b a d : Reg) (s : State) : Out := .next (aluDone s d (aluOp w opAndn (s.me.rg a) (s.me.rg b)) 6)
def execOrn (w : BitVec 1) (b a d : Reg) (s : State) : Out := .next (aluDone s d (aluOp w opOrn (s.me.rg a) (s.me.rg b)) 6)
def execXnor (w : BitVec 1) (b a d : Reg) (s : State) : Out := .next (aluDone s d (aluOp w opXnor (s.me.rg a) (s.me.rg b)) 6)
def execShl (w : BitVec 1) (b a d : Reg) (s : State) : Out := .next (aluDone s d (aluOp w opShl (s.me.rg a) (s.me.rg b)) 6)
def execShr (w : BitVec 1) (b a d : Reg) (s : State) : Out := .next (aluDone s d (aluOp w opShr (s.me.rg a) (s.me.rg b)) 6)
def execShra (w : BitVec 1) (b a d : Reg) (s : State) : Out := .next (aluDone s d (aluOp w opShra (s.me.rg a) (s.me.rg b)) 6)
def execRol (w : BitVec 1) (b a d : Reg) (s : State) : Out := .next (aluDone s d (aluOp w opRol (s.me.rg a) (s.me.rg b)) 6)
def execRor (w : BitVec 1) (b a d : Reg) (s : State) : Out := .next (aluDone s d (aluOp w opRor (s.me.rg a) (s.me.rg b)) 6)
def execSlt (w : BitVec 1) (b a d : Reg) (s : State) : Out := .next (aluDone s d (aluOp w opSlt (s.me.rg a) (s.me.rg b)) 6)
def execSltu (w : BitVec 1) (b a d : Reg) (s : State) : Out := .next (aluDone s d (aluOp w opSltu (s.me.rg a) (s.me.rg b)) 6)
def execMin (w : BitVec 1) (b a d : Reg) (s : State) : Out := .next (aluDone s d (aluOp w opMin (s.me.rg a) (s.me.rg b)) 6)
def execMax (w : BitVec 1) (b a d : Reg) (s : State) : Out := .next (aluDone s d (aluOp w opMax (s.me.rg a) (s.me.rg b)) 6)
def execMinu (w : BitVec 1) (b a d : Reg) (s : State) : Out := .next (aluDone s d (aluOp w opMinu (s.me.rg a) (s.me.rg b)) 6)
def execMaxu (w : BitVec 1) (b a d : Reg) (s : State) : Out := .next (aluDone s d (aluOp w opMaxu (s.me.rg a) (s.me.rg b)) 6)
def execMul (w : BitVec 1) (b a d : Reg) (s : State) : Out := .next (aluDone s d (aluOp w opMul (s.me.rg a) (s.me.rg b)) 6)
def execHmul (w : BitVec 1) (b a d : Reg) (s : State) : Out := .next (aluDone s d (aluOp w opHmul (s.me.rg a) (s.me.rg b)) 6)
def execHmulu (w : BitVec 1) (b a d : Reg) (s : State) : Out := .next (aluDone s d (aluOp w opHmulu (s.me.rg a) (s.me.rg b)) 6)
def execHmulm (w : BitVec 1) (b a d : Reg) (s : State) : Out := .next (aluDone s d (aluOp w opHmulm (s.me.rg a) (s.me.rg b)) 6)
def execDiv (w : BitVec 1) (b a d : Reg) (s : State) : Out := .next (aluDone s d (aluOp w opDiv (s.me.rg a) (s.me.rg b)) (divLat w))
def execDivu (w : BitVec 1) (b a d : Reg) (s : State) : Out := .next (aluDone s d (aluOp w opDivu (s.me.rg a) (s.me.rg b)) (divLat w))
def execRem (w : BitVec 1) (b a d : Reg) (s : State) : Out := .next (aluDone s d (aluOp w opRem (s.me.rg a) (s.me.rg b)) (divLat w))
def execRemu (w : BitVec 1) (b a d : Reg) (s : State) : Out := .next (aluDone s d (aluOp w opRemu (s.me.rg a) (s.me.rg b)) (divLat w))
def execClz (w : BitVec 1) (a d : Reg) (s : State) : Out :=
  .next (aluDone s d (aluOp w (fun n x _ => BitVec.ofNat n (clzOf x)) (s.me.rg a) 0) 6)
def execCtz (w : BitVec 1) (a d : Reg) (s : State) : Out :=
  .next (aluDone s d (aluOp w (fun n x _ => BitVec.ofNat n (ctzOf x)) (s.me.rg a) 0) 6)
def execPopc (w : BitVec 1) (a d : Reg) (s : State) : Out :=
  .next (aluDone s d (aluOp w (fun n x _ => BitVec.ofNat n (popcOf x)) (s.me.rg a) 0) 6)
def execBrev (w : BitVec 1) (a d : Reg) (s : State) : Out :=
  .next (aluDone s d (aluOp w (fun n x _ => x.reverse) (s.me.rg a) 0) 6)
def execBswap (w : BitVec 1) (a d : Reg) (s : State) : Out :=
  .next (aluDone s d (aluOp w (fun n x _ => bswapOf x) (s.me.rg a) 0) 6)

/-! ## BITS (R94) -/

/-- The container width. -/
def bitsWidth (w : BitVec 2) : Nat := 8 * 2 ^ w.toNat
/-- Zext(x, n). -/
def zextOf (n : Nat) (x : W64) : W64 := (x.setWidth n).setWidth 64
/-- Position and cut length of a field. -/
def fieldPos (b : W64) : Nat := (b.extractLsb' 0 6).toNat
def fieldLen (w : BitVec 2) (b : W64) : Nat :=
  if fieldPos b < bitsWidth w then Nat.min (b.extractLsb' 8 7).toNat (bitsWidth w - fieldPos b) else 0
/-- BFX's value. -/
def bfxOf (w : BitVec 2) (a b : W64) : W64 := zextOf (fieldLen w b) (zextOf (bitsWidth w) a >>> fieldPos b)
/-- BFI's value over the base `d`. -/
def bfiOf (w : BitVec 2) (a b d : W64) : W64 :=
  let mask : W64 := zextOf (fieldLen w b) (~~~0#64) <<< fieldPos b
  (zextOf (bitsWidth w) d &&& ~~~mask) ||| ((a <<< fieldPos b) &&& mask)

def execSext (w : BitVec 2) (a d : Reg) (s : State) : Out :=
  .next (aluDone s d (((s.me.rg a).setWidth (bitsWidth w)).signExtend 64) 6)
def execZext (w : BitVec 2) (a d : Reg) (s : State) : Out := .next (aluDone s d (zextOf (bitsWidth w) (s.me.rg a)) 6)
def execBfx (w : BitVec 2) (b a d : Reg) (s : State) : Out := .next (aluDone s d (bfxOf w (s.me.rg a) (s.me.rg b)) 6)
def execBfi (w : BitVec 2) (b a d : Reg) (s : State) : Out :=
  .next (aluDone s d (bfiOf w (s.me.rg a) (s.me.rg b) (s.me.rg d)) 6)

/-! ## Three sources (R96) -/

def execCsel (c b a d : Reg) (s : State) : Out := .next (aluDone s d (if s.me.rg c ≠ 0 then s.me.rg a else s.me.rg b) 6)
def execMadd (w : BitVec 1) (c b a d : Reg) (s : State) : Out :=
  .next (aluDone s d (aluOp w (fun n z p => z + p) (s.me.rg c) (aluOp w opMul (s.me.rg a) (s.me.rg b))) 6)
def execMsub (w : BitVec 1) (c b a d : Reg) (s : State) : Out :=
  .next (aluDone s d (aluOp w (fun n z p => z - p) (s.me.rg c) (aluOp w opMul (s.me.rg a) (s.me.rg b))) 6)

/-! ## Immediates (R97, R98) -/

def execAddi (im : BitVec 14) (a d : Reg) (s : State) : Out := .next (aluDone s d (s.me.rg a + sx im) 6)
def execAndi (im : BitVec 14) (a d : Reg) (s : State) : Out := .next (aluDone s d (s.me.rg a &&& sx im) 6)
def execOri (im : BitVec 14) (a d : Reg) (s : State) : Out := .next (aluDone s d (s.me.rg a ||| sx im) 6)
def execXori (im : BitVec 14) (a d : Reg) (s : State) : Out := .next (aluDone s d (s.me.rg a ^^^ sx im) 6)
def execShli (im : BitVec 6) (a d : Reg) (s : State) : Out := .next (aluDone s d (s.me.rg a <<< im.toNat) 6)
def execShri (im : BitVec 6) (a d : Reg) (s : State) : Out := .next (aluDone s d (s.me.rg a >>> im.toNat) 6)
def execShrai (im : BitVec 6) (a d : Reg) (s : State) : Out := .next (aluDone s d ((s.me.rg a).sshiftRight im.toNat) 6)
def execSlti (im : BitVec 14) (a d : Reg) (s : State) : Out :=
  .next (aluDone s d (if (s.me.rg a).slt (sx im) then 1 else 0) 6)
def execSltiu (im : BitVec 14) (a d : Reg) (s : State) : Out :=
  .next (aluDone s d (if (s.me.rg a).ult (sx im) then 1 else 0) 6)
def execLdh (im : BitVec 19) (d : Reg) (s : State) : Out := .next (aluDone s d (sx im <<< 13) 6)
def execAddpc (im : BitVec 19) (d : Reg) (s : State) : Out := .next (aluDone s d (s.me.pc + (sx im <<< 13)) 6)

/-! ## Branches and jumps (R99, R100) -/

/-- A control transfer to `t`, writing the return address to a link register; nothing happens where it traps. -/
def transfer (s : State) (t : W64) (link : Option Reg) : Except Stop State := do
  need (t.extractLsb' 61 3 = 0) SEGV t
  let th := match link with
    | some d => s.me.wg d (s.me.pc + 4)
    | none => s.me
  return s.setMe (th.goto t (s.doneAt 6))

/-- A jump's body: its target must be a word address. -/
def jumpBody (t : W64) (d : Reg) (s : State) : Except Stop State := do
  need (t.extractLsb' 61 3 = 0) SEGV t
  need (t.extractLsb' 0 2 = 0) ALIGN t
  transfer s t (some d)

/-- A branch's body: to its target where the condition holds, else to the next word. -/
def branchBody (cond : Bool) (f : BitVec 14) (s : State) : Except Stop State :=
  transfer s (if cond then branchTo s.me.pc f else s.me.pc + 4) none

def execBeq (f : BitVec 14) (b a : Reg) (s : State) : Out :=
  run (.beq f b a) s (branchBody (s.me.rg a == s.me.rg b) f s)
def execBne (f : BitVec 14) (b a : Reg) (s : State) : Out :=
  run (.bne f b a) s (branchBody (s.me.rg a != s.me.rg b) f s)
def execBlt (f : BitVec 14) (b a : Reg) (s : State) : Out :=
  run (.blt f b a) s (branchBody ((s.me.rg a).slt (s.me.rg b)) f s)
def execBge (f : BitVec 14) (b a : Reg) (s : State) : Out :=
  run (.bge f b a) s (branchBody (!(s.me.rg a).slt (s.me.rg b)) f s)
def execBltu (f : BitVec 14) (b a : Reg) (s : State) : Out :=
  run (.bltu f b a) s (branchBody ((s.me.rg a).ult (s.me.rg b)) f s)
def execBgeu (f : BitVec 14) (b a : Reg) (s : State) : Out :=
  run (.bgeu f b a) s (branchBody (!(s.me.rg a).ult (s.me.rg b)) f s)
def execJal (f : BitVec 19) (d : Reg) (s : State) : Out := run (.jal f d) s (jumpBody (branchTo s.me.pc f) d s)
def execJalr (im : BitVec 14) (a d : Reg) (s : State) : Out := run (.jalr im a d) s (jumpBody (s.me.rg a + sx im) d s)

/-! ## HINT and counters (R42, R107) -/

def execHint (n : BitVec 24) (s : State) : Out := .next (s.finish s.me 6)

/-- The die of the acting thread. -/
def State.myDie (s : State) : Die := s.die (dieOf s.myCore)

/-- A word of the step log, zero where the step is not current (R107). -/
def stepWord (x : Die) (step : W64) (n : Nat) : W64 :=
  if step = 0 ∨ x.stepn < step ∨ 16 ≤ (x.stepn - step).toNat then 0
  else
    let e := tget (0, 0, 0) x.log (step.toNat % 16)
    if n = 0 then e.1 else if n = 1 then e.2.1 else e.2.2

def execRdcyc (d : Reg) (s : State) : Out := .next (s.finishG d (BitVec.ofNat 64 s.myDie.cyc) 6)
def execRdtim (d : Reg) (s : State) : Out := .next (s.finishG d (BitVec.ofNat 64 s.tim) 6)
def execRdstep (n : BitVec 5) (a d : Reg) (s : State) : Out := .next (s.finishG d (stepWord s.myDie (s.me.rg a) n.toNat) 6)

end

end Sys2Proof.Machine
end

