-- ==== Sys2Proof/Machine/Sha.lean ====
section
/-! DEFINITION. SHA-256 (R331, R408, R409), as FIPS 180-4 defines it. -/

namespace Sys2Proof.Machine

/-- The round constants. -/
def shaK : List Nat :=
  [0x428a2f98, 0x71374491, 0xb5c0fbcf, 0xe9b5dba5, 0x3956c25b, 0x59f111f1, 0x923f82a4, 0xab1c5ed5] ++
  [0xd807aa98, 0x12835b01, 0x243185be, 0x550c7dc3, 0x72be5d74, 0x80deb1fe, 0x9bdc06a7, 0xc19bf174] ++
  [0xe49b69c1, 0xefbe4786, 0x0fc19dc6, 0x240ca1cc, 0x2de92c6f, 0x4a7484aa, 0x5cb0a9dc, 0x76f988da] ++
  [0x983e5152, 0xa831c66d, 0xb00327c8, 0xbf597fc7, 0xc6e00bf3, 0xd5a79147, 0x06ca6351, 0x14292967] ++
  [0x27b70a85, 0x2e1b2138, 0x4d2c6dfc, 0x53380d13, 0x650a7354, 0x766a0abb, 0x81c2c92e, 0x92722c85] ++
  [0xa2bfe8a1, 0xa81a664b, 0xc24b8b70, 0xc76c51a3, 0xd192e819, 0xd6990624, 0xf40e3585, 0x106aa070] ++
  [0x19a4c116, 0x1e376c08, 0x2748774c, 0x34b0bcb5, 0x391c0cb3, 0x4ed8aa4a, 0x5b9cca4f, 0x682e6ff3] ++
  [0x748f82ee, 0x78a5636f, 0x84c87814, 0x8cc70208, 0x90befffa, 0xa4506ceb, 0xbef9a3f7, 0xc67178f2]

/-- The eight chaining words at the start. -/
def shaInit : List W32 :=
  [0x6a09e667, 0xbb67ae85, 0x3c6ef372, 0xa54ff53a, 0x510e527f, 0x9b05688c, 0x1f83d9ab, 0x5be0cd19]

/-- Big-endian 32-bit words of a list of bytes. -/
def beWords : List Byte → List W32
  | a :: b :: c :: d :: r => (a ++ b ++ c ++ d) :: beWords r
  | _ => []

/-- The padded message. -/
def shaPad (m : List Byte) : List Byte :=
  m ++ [0x80] ++ List.replicate ((119 - m.length % 64) % 64) 0 ++ (bytesOfNat 8 (8 * m.length)).reverse

/-- Extend the schedule by one word; the newest word stands first. -/
def shaExtend (w : List W32) : List W32 :=
  let x := w.getD 1 0
  let y := w.getD 14 0
  let s1 := x.rotateRight 17 ^^^ x.rotateRight 19 ^^^ (x >>> 10)
  let s0 := y.rotateRight 7 ^^^ y.rotateRight 18 ^^^ (y >>> 3)
  (w.getD 15 0 + s0 + w.getD 6 0 + s1) :: w

/-- The 64 words of a block's schedule. -/
def shaSchedule (block : List W32) : List W32 := (upTo 48 (fun w _ => shaExtend w) block.reverse).reverse

/-- One round on the working variables. -/
def shaRound (v : List W32) (kw : Nat × W32) : List W32 :=
  let x (i : Nat) : W32 := v.getD i 0
  let s1 := (x 4).rotateRight 6 ^^^ (x 4).rotateRight 11 ^^^ (x 4).rotateRight 25
  let ch := (x 4 &&& x 5) ^^^ (~~~(x 4) &&& x 6)
  let t1 := x 7 + s1 + ch + BitVec.ofNat 32 kw.1 + kw.2
  let s0 := (x 0).rotateRight 2 ^^^ (x 0).rotateRight 13 ^^^ (x 0).rotateRight 22
  let maj := (x 0 &&& x 1) ^^^ (x 0 &&& x 2) ^^^ (x 1 &&& x 2)
  [t1 + s0 + maj, x 0, x 1, x 2, x 3 + t1, x 4, x 5, x 6]

/-- One block. -/
def shaBlock (h : List W32) (block : List W32) : List W32 :=
  let v := (shaK.zip (shaSchedule block)).foldl shaRound h
  (h.zip v).map (fun x => x.1 + x.2)

/-- Blocks of 16 words. -/
def shaBlocks : Nat → List W32 → List W32 → List W32
  | 0, h, _ => h
  | n + 1, h, w => shaBlocks n (shaBlock h (w.take 16)) (w.drop 16)

/-- The digest; its first byte is the most significant. -/
def sha256 (m : List Byte) : BitVec 256 :=
  let w := beWords (shaPad m)
  let h := shaBlocks (w.length / 16) shaInit w
  BitVec.ofNat 256 (h.foldl (fun n x => n * 2 ^ 32 + x.toNat) 0)

/-- A digest as stored: its first byte at the lowest address. -/
def digestBytes (d : BitVec 256) : List Byte := (bytesOfNat 32 d.toNat).reverse

end Sys2Proof.Machine
end

