-- ==== Sys2Proof/Machine/WorkQueue.lean ====
section
/-! DEFINITION. Work queues, dispatch and tokens (R296-R322): LAUNCH and TOK, the control blocks and enqueue windows,
dispatch decisions, the binding of ranks, and the ends of kernels. -/

namespace Sys2Proof.Machine

noncomputable section

/-! ## LAUNCH (R318, R319) -/

/-- A launch record's source: W0 of the local segment or another segment that is no code segment. -/
def launchSource (s : State) (key : Nat) (ea : W64) : Except Stop (Nat × Nat) := do
  need (ea.extractLsb' 0 6 = 0) ALIGN ea
  let (kind, o) ← segCheck (s.thread key) ea 64 rightR
  need (kind ≠ 0 ∧ (kind ≠ 2 ∨ o < 0x400000)) SEGV ea
  return (kind, o)

/-- The queue is one of the thread's partition. -/
def ownQueue (s : State) (key : Nat) (q : W64) : Bool :=
  decide (q.toNat ≤ 32767) && (s.queue q.toNat).part.toNat == s.partOf (coreOf key)

/-- The parked LAUNCH holds its record: on its way to the queue unit, or answered where there is no such queue. -/
def launchHas (s : State) (key : Nat) (rec_ : List Byte) (q : W64) (d : Reg) : State :=
  if ownQueue s key q then
    let t := s.thread key
    s.setThread key { t with wait := t.wait.map (fun w => { w with taken := mwriteN [] 0 rec_, sent := true, remote := none }) }
  else answer s key (Reply.reg d 3)

/-- LAUNCH: the record is read, the release moves, and the thread parks on the queue unit's reply; status 3 needs none. A
record in a peer or at the host is asked for first. -/
def execLaunch (b a d : Reg) (s : State) : Out :=
  run (.launch b a d) s (do
    let key := s.cur
    let ea := s.me.rg a
    let q := s.me.rg b
    let (kind, o) ← launchSource s key ea
    let (s1, ps) ← resolveRange s key ea kind o 4 0
    if releaseWaits s key 4 false then .error .hold
    else if ps.any Place.external then
      let s2 := releaseMoves s1 s.myCore 4 false
      let s3 := parkOn s2 key 0x01 ea true (.launch b a d) []
      return ((ps.take 1).flatMap (fun p => requestMsgs (.launch b a d) s1 key p none)).foldl State.send s3
    else
      let (s2, bs, bad) ← readPlaces s1 key ps
      if bad then .error .poison
      let s3 := releaseMoves s2 s.myCore 4 false
      if ownQueue s key q then return launchHas (parkMe s3 0x01 ea (.launch b a d)) key bs q d
      else return s3.finishG d 3 6)

/-- The queue unit's answer to a LAUNCH. -/
def launchStatus (s : State) (q : Nat) : W64 :=
  let w := s.queue q
  if w.shuttle then 4 else if w.state = .closed ∨ w.state = .draining then 2 else if queueFull s q then 1 else 0

/-- A 64-byte record as stored. -/
def recordOf (bs : List Byte) : BitVec 512 := BitVec.ofNat 512 (natOfBytes bs)

/-- LAUNCH_RECORD_ARRIVAL: the record is accepted or refused at its queue unit, and the reply sent. -/
def execLaunchRecordArrival (core slot : Nat) (s : State) : Out :=
  let key := keyOf core slot
  match waiting s key with
  | none => .next s
  | some w =>
    match w.instr with
    | .launch b _ d =>
      let q := ((s.thread key).rg b).toNat
      if w.kind = 0x01 ∧ w.sent ∧ !queueHeld s q then
        let st := launchStatus s q
        let s1 := if st = 0 then acceptRecord s q (recordOf (mreadN w.taken 0 64)) none 0 else s
        .next (answer s1 key (Reply.reg d st))
      else .next s
    | _ => .next s

/-! ## Tokens (R320, R321) -/

/-- The token of a TOK instruction. -/
def tokNum (t : Thread) (a : Reg) : Except Stop W64 := do
  need (decide ((t.rg a).toNat ≤ 65535)) FORMAT (t.rg a)
  return t.rg a

/-- TOKW: the thread parks on the token's die. -/
def execTokw (a d : Reg) (s : State) : Out :=
  run (.tokw a d) s (do
    let t ← tokNum s.me a
    return parkMe s 0x01 t (.tokw a d))

/-- TOKS: a release at DEV, then parked on the token's die. -/
def execToks (b a d : Reg) (s : State) : Out :=
  run (.toks b a d) s (do
    let t ← tokNum s.me a
    if releaseWaits s s.cur 4 false then .error .hold
    else return parkMe (releaseMoves s s.myCore 4 false) 0x01 t (.toks b a d))

def execTokq (a d : Reg) (s : State) : Out :=
  run (.tokq a d) s (do
    let t ← tokNum s.me a
    return parkMe s 0x01 t (.tokq a d))

def execToke (a d : Reg) (s : State) : Out :=
  run (.toke a d) s (do
    let t ← tokNum s.me a
    return parkMe s 0x01 t (.toke a d))

/-- The die that holds a token (R312). -/
def tokenDie (t : Nat) : Nat := t / 16384

/-- A token request performed at its die. -/
def tokenPerform (s : State) (key : Nat) (w : Wait) : State :=
  let part := s.partOf (coreOf key)
  let t := w.eval.toNat
  let x := s.token part t
  match w.instr with
  | .tokw _ d =>
    if x.err then answer s key (Reply.reg d 1)
    else if x.count = 0 then answer s key { Reply.reg d 0 with acquire := some 4 }
    else s.setThread key { s.thread key with wait := some { w with kind := 0x0D } }
  | .toks b _ d =>
    let r := tokenSignal s part t (if b = 0 then 1 else (s.thread key).rg b)
    answer (settle r.1) key (Reply.reg d r.2)
  | .tokq _ d => answer s key (Reply.reg d x.word)
  | .toke _ d =>
    if x.err then answer s key (Reply.reg d 1) else answer (settle (tokenError s part t)) key (Reply.reg d 0)
  | _ => s

/-- TOKEN_REQUEST. -/
def execTokenRequest (core slot : Nat) (s : State) : Out :=
  let key := keyOf core slot
  match waiting s key with
  | none => .next s
  | some w => if w.kind = 0x01 ∧ dieReachable s (tokenDie w.eval.toNat) then .next (tokenPerform s key w) else .next s

/-- The partition that a function's accesses name: its own, or the physical function's WPART (R312, R405). -/
def functionPart (s : State) (fn : Nat) : Option Nat :=
  if fn = 0 then some s.host.wpart.toNat else if fn ≤ 16 then some (fn - 1) else none

/-- TOKEN_HOST_WRITE (R312); held while the token's die relocks (R18). -/
def execTokenHostWrite (fn : Nat) (tok : BitVec 16) (v : W64) (s : State) : Out :=
  match functionPart s fn with
  | none => .next s
  | some part =>
    if !dieReachable s (tokenDie tok.toNat) then .next s
    else .next (settle (serveToken (s.setToken part tok.toNat { err := false, count := v.extractLsb' 0 32 }) part tok.toNat))

/-! ## Control blocks (R297, R298) -/

/-- The physical function and Treadle write every RW field. -/
def fullRights (fn : Nat) : Bool := fn == 0 || fn == 17
/-- The function of the queue's partition writes CMD, PRIO, WEIGHT, IRQ and VEC. -/
def someRights (s : State) (fn q : Nat) : Bool := fullRights fn || fn == s.queuePart q + 1

/-- The RW fields of a write to QCFG. -/
def writeQcfg (s : State) (fn q : Nat) (v : W64) : State :=
  if !someRights s fn q then s
  else
    let w := s.queue q
    let weight := v.extractLsb' 32 8
    let w1 : WorkQueue :=
      { w with irq := v.getLsbD 56, vec := v.extractLsb' 48 8, weight := if weight = 0 then 1 else weight, prio := v.extractLsb' 24 3 }
    let w2 : WorkQueue :=
      if fullRights fn ∧ w.state = .closed then
        { w1 with part := v.extractLsb' 44 4, shuttle := v.getLsbD 43, spill := v.getLsbD 42, qdep := v.extractLsb' 0 6 }
      else w1
    s.setQueue q w2

/-- A write to QCFG with a command: the fields first, then the command on the state that results (R297). -/
def qcfgCommand (s : State) (fn : Nat) (q : BitVec 15) (v : W64) (cmd : State → Nat → State) : State :=
  if someRights s fn q.toNat then settle (cmd (writeQcfg s fn q.toNat v) q.toNat) else s

/-- QCFG_OPEN. -/
def execQcfgOpen (fn : Nat) (q : BitVec 15) (v : W64) (s : State) : Out :=
  .next (qcfgCommand s fn q v (fun s q =>
    if (s.queue q).state = .closed then s.setQueue q { s.queue q with state := .opened } else s))

/-- QCFG_CLOSE: only a queue that holds nothing and runs no kernel. -/
def execQcfgClose (fn : Nat) (q : BitVec 15) (v : W64) (s : State) : Out :=
  .next (qcfgCommand s fn q v (fun s q =>
    let w := s.queue q
    if (w.state = .opened ∨ w.state = .draining) ∧ w.kernels = [] then s.setQueue q { w with state := .closed } else s))

/-- QCFG_DRAIN. -/
def execQcfgDrain (fn : Nat) (q : BitVec 15) (v : W64) (s : State) : Out :=
  .next (qcfgCommand s fn q v (fun s q =>
    if (s.queue q).state = .opened then s.setQueue q { s.queue q with state := .draining } else s))

/-- QCFG_THAW. -/
def execQcfgThaw (fn : Nat) (q : BitVec 15) (v : W64) (s : State) : Out :=
  .next (qcfgCommand s fn q v (fun s q =>
    let w := s.queue q
    if w.state = .frozen then s.setQueue q { w with state := w.prior, eser := 0, ecause := 0 } else s))

/-- QCFG_PURGE: every QUEUED and WAITING record ends CANCELLED. -/
def execQcfgPurge (fn : Nat) (q : BitVec 15) (v : W64) (s : State) : Out :=
  .next (qcfgCommand s fn q v (fun s q =>
    let w := s.queue q
    if w.state = .closed then s
    else ((w.kernels.filter (fun k => k.state = .queued || k.state = .waiting)).map (·.serial)).foldl (fun s n => cancelKernel s q n) s))

/-- QCNT_CLEAR: any write sets OVF and BADW to 0. -/
def execQcntClear (fn : Nat) (q : BitVec 15) (_v : W64) (s : State) : Out :=
  .next (if fullRights fn then s.setQueue q.toNat { s.queue q.toNat with ovf := 0, badw := 0 } else s)

/-- Saturating increment. -/
def satInc (x : BitVec 16) : BitVec 16 := if x = 0xFFFF then x else x + 1

/-- ENQUEUE_WINDOW_WRITE (R299); held while the queue unit cannot take it (R317). -/
def execEnqueueWindowWrite (fn : Nat) (q : BitVec 15) (bytes : List Byte) (aligned : Bool) (s : State) : Out :=
  let n := q.toNat
  let w := s.queue n
  if queueHeld s n then .next s
  else if !aligned || bytes.length != 64 || !(fn == 0 || fn == s.queuePart n + 1) || w.shuttle || w.state == .closed || w.state == .draining then
    .next (s.setQueue n { w with badw := satInc w.badw })
  else if queueFull s n then .next (s.setQueue n { w with ovf := satInc w.ovf })
  else .next (acceptRecord s n (recordOf bytes) none 0)

/-! ## Dispatch (R313, R306) -/

/-- A die is at a rotation boundary in which nothing was decided yet: its rotation (log 3). -/
def atBoundary (s : State) (die : Nat) (last : Option Nat) : Option Nat :=
  let x := s.die die
  if x.relock.isNone ∧ (x.cyc - x.rotBase) % 8 ≤ 1 ∧ last ≠ some (rotationStart x) then some (rotationStart x) else none

/-- The kernel ends FAULTED (R305-R307); where it has not passed its validation, the members it was due to supply to prepared groups
count as ended (R245). -/
def failValidation (s : State) (q : Nat) (serial : W32) (cause : Byte) : State :=
  let s1 := match s.kernel q serial with
    | some k => if k.valid then s else dropCancelled s q k
    | none => s
  settle (faultKernel (flagError s1 q serial cause) q serial)

/-- Validate a DISPATCHING kernel: it may bind ranks, goes on to its release, is held on a page, or fails. -/
def validateKernel (s : State) (q : Nat) (serial : W32) : State :=
  match s.kernel q serial with
  | none => s
  | some k =>
    match validate s q k with
    | .ok (s1, p) =>
      let s2 := setupGroups s1 q k p
      settle (s2.setKernel q { k with
        valid := true, places := p.places, pmask := p.pmask, groups := p.groups,
        state := if k.nthr = 0 then .releasing else .dispatching })
    | .error (.page dva kind acc _) =>
      joinRecord s (queueDie q) (324 + queueDie q) (s.queuePart q) dva kind acc 16 (.dispatch q serial)
    | .error (.trap cause _) => failValidation s q serial cause
    | .error _ => s

/-- DISPATCH_DECISION: one decision at a rotation boundary of D0. A fatal error stops dispatch (R399). -/
def execDispatchDecision (s : State) : Out :=
  match atBoundary s 0 s.pk.dispatchedAt with
  | none => .next s
  | some r =>
    if s.pk.fatal.isSome then .next s
    else
      let s0 := markEligible (takeWeights s)
      match chooseQueue s0 with
      | none => .next s0
      | some q =>
        let s1 := { s0 with pk := { s0.pk with dispatchedAt := some r } }
        let w := s1.queue q
        match w.head with
        | none => .next s1
        | some k =>
          let s2 := s1.setQueue q { w with pass := w.pass + BitVec.ofNat 64 (2 ^ 20 / w.weight.toNat) }
          let s3 := s2.setKernel q { k with state := .dispatching, wdStart := s.tim, wdRun := 0 }
          .next (validateKernel (settle s3) q k.serial)

/-! ## Binding (R314-R316, R382) -/

/-- The thread of a slot belongs to a shuttle kernel. -/
def shuttleThread (s : State) (key : Nat) : Bool :=
  let t := s.thread key
  t.bound && match s.kernel (kidQueue t.kid) (kidSerial t.kid) with
    | some k => k.isShuttle
    | none => false

/-- Dispatch binds ranks to the cores of a RESIDENT or DEGRADED context (R325). -/
def ctxRuns (s : State) (part : Nat) : Bool := (s.part part).ctx = .resident || (s.part part).ctx = .degraded

/-- The core may take new threads: assigned, no victim core, its context running, no end of a migration (R323, R325, R337,
R352). -/
def coreTakes (s : State) (core part : Nat) : Bool :=
  assignedTo s core part && !(s.core core).vict && (s.core core).migrating.isNone && ctxRuns s part &&
    !s.cores.any (fun c => c.2.migrating == some core)

/-- Threads of other kernels on a core: slot and KID. -/
def otherThreads (s : State) (core : Nat) (kid : W64) : List (Nat × W64) :=
  (List.range 7).filterMap (fun slot =>
    let t := s.thread (keyOf core slot)
    if t.bound && t.kid != kid then some (slot, t.kid) else none)

/-- A kernel with EXCL is bound only to a core whose slots 0-5 hold no thread of another kernel (R316). -/
def exclOwn (s : State) (core : Nat) (k : Kernel) (kid : W64) : Bool := !k.excl || (otherThreads s core kid).all (fun x => x.1 == 6)

/-- Slots 0-5 of a core are kept from a kernel by its own EXCL, or by that of a kernel which holds a slot there (R316). -/
def exclAllows (s : State) (core : Nat) (k : Kernel) (kid : W64) : Bool :=
  exclOwn s core k kid && (otherThreads s core kid).all (fun x => match s.kernel (kidQueue x.2) (kidSerial x.2) with
    | some o => !o.excl
    | none => true)

/-- A general slot may be bound: EMPTY, and no half of a twin pair (R314). -/
def slotFree (s : State) (core slot : Nat) : Bool :=
  (s.thread (keyOf core slot)).state == .empty && !(slot % 2 == 1 && (s.thread (keyOf core (slot - 1))).twl)

/-- A core qualifies for slot 6 of a priority-3 shuttle of one thread (R382). -/
def sixQualifies (s : State) (part : Nat) (core : Nat) : Bool :=
  coreTakes s core part && (s.thread (keyOf core 6)).state == .empty &&
    (List.range 6).all (fun slot => !shuttleThread s (keyOf core slot))

/-- The kernel is a shuttle of priority 3 with one thread. -/
def Kernel.urgentShuttle (k : Kernel) : Bool := k.isShuttle && k.shuttlePrio == 3 && k.nthr == 1

/-- The kernel's next rank may be bound to the slot of a core. -/
def wantsSlot (s : State) (q : Nat) (k : Kernel) (core slot : Nat) : Bool :=
  let part := s.queuePart q
  let kid := kidOf part q k.serial
  k.state == .dispatching && k.valid && !k.error && decide (k.nextRank < k.nthr) && coreTakes s core part && slotFree s core slot &&
    (if k.plist then
      k.places[k.nextRank]? == some (core, slot) && (if slot = 6 then exclOwn s core k kid else exclAllows s core k kid)
    else
      k.pmask.getLsbD (dieOf core) &&
        (if k.urgent then slot == 6 && exclOwn s core k kid
         else if k.urgentShuttle then
           match (coresOn s part k.pmask).find? (fun c => sixQualifies s part c && exclOwn s c k kid) with
           | some c => c == core && slot == 6
           | none => decide (slot < 6) && exclAllows s core k kid
         else decide (slot < 6) && exclAllows s core k kid))

/-- Slots 0-5 of a core held by kernels of a queue. -/
def slotsHeld (s : State) (core q : Nat) : Nat :=
  ((List.range 6).filter (fun slot =>
    let t := s.thread (keyOf core slot)
    t.bound && kidQueue t.kid == q)).length

/-- The kernel that takes a slot: highest priority, fewest slots per weight, lowest queue. -/
def slotTaker (s : State) (core slot : Nat) : Option (Nat × Kernel) :=
  let cands := s.queues.flatMap (fun x => (x.2.kernels.filter (fun k => wantsSlot s x.1 k core slot)).map (fun k => (x.1, k)))
  cands.foldl (fun m c => match m with
    | none => some c
    | some b =>
      let wb := s.queue b.1
      let wc := s.queue c.1
      let hb := slotsHeld s core b.1 * wc.weightNow.toNat
      let hc := slotsHeld s core c.1 * wb.weightNow.toNat
      if wb.prioNow < wc.prioNow ∨ (wb.prioNow = wc.prioNow ∧ hc < hb) then some c else m) none

/-- The first slot of a core that a kernel takes now. -/
def nextBind (s : State) (core : Nat) : Option (Nat × Kernel × Nat) :=
  (List.range 7).findSome? (fun slot => (slotTaker s core slot).map (fun x => (x.1, x.2, slot)))

/-- Bind ranks to the core's slots until none is taken. -/
def bindLoop : Nat → State → Nat → State
  | 0, s, _ => s
  | n + 1, s, core =>
    match nextBind s core with
    | none => s
    | some (q, k, slot) => bindLoop n (bindRank s q k (keyOf core slot)) core

/-- A lower-numbered core, of any die, is at a boundary now with a slot to fill (R314: slots in increasing order of global core). -/
def lowerWaits (s : State) (core : Nat) : Bool :=
  s.cores.any (fun c => decide (c.1 < core) && decide (c.1 < 1280) && (atBoundary s (dieOf c.1) c.2.boundAt).isSome && (nextBind s c.1).isSome)

/-- Treadle is told once that a kernel wants a slot of a victim core (R352). -/
def tellVictim (s : State) (core : Nat) : State :=
  let c := s.core core
  if c.vict ∧ !c.told then
    match nextBind (s.setCore core { c with vict := false }) core with
    | some (q, _, _) =>
      pushEvent (s.setCore core { c with told := true }) (dieOf core) 0x07 0xFF (BitVec.ofNat 8 (s.partOf core)) (BitVec.ofNat 16 core) 0
        (BitVec.ofNat 64 core) (BitVec.ofNat 64 q)
    | none => s
  else s

/-- RANK_BIND. -/
def execRankBind (core : Nat) (s : State) : Out :=
  if 1280 ≤ core then .next s
  else
    match atBoundary s (dieOf core) (s.core core).boundAt with
    | none => .next s
    | some rot =>
      if lowerWaits s core ∨ s.pk.fatal.isSome then .next s
      else if (nextBind s core).isNone then .next (tellVictim s core)
      else .next (tellVictim (bindLoop 7 (s.setCore core { s.core core with boundAt := some rot }) core) core)

/-! ## Ends (R309, R311) -/

/-- The packages a kernel's end has to wait for, and those that count as failed. -/
def kernelPeers (s : State) (k : Kernel) (start : Nat × Nat) : List (BitVec 10) × List (BitVec 10) :=
  let ps := (k.unacked.map (fun x => x.2.1)).dedup
  (ps, ps.filter (fun p => peerFailed s p start))

/-- The kernel ends DONE: its token is signalled, QDONE counts, the host is told (R311). -/
def kernelDone (s : State) (q : Nat) (k : Kernel) : State :=
  let part := s.queuePart q
  let s1 := match k.signal with
    | some t => (tokenSignal s part t 1).1
    | none => s
  let w := s1.queue q
  let s2 := s1.setQueue q { w with qdone := w.qdone + 1 }
  settle (replyAtEnd ((tellEnd s2 q).dropKernel q k.serial) q k false false)

/-- KERNEL_RELEASE_END: eager write-backs of the kernel's clusters; at SYS it waits for its peers. -/
def execKernelReleaseEnd (q : BitVec 15) (serial : W32) (s : State) : Out :=
  let n := q.toNat
  match s.kernel n serial with
  | none => .next s
  | some k =>
    if k.state ≠ .releasing ∨ !(k.clusters.all (fun c => dieReachable s (dieOfCluster c) && (decide (k.rscope < 3) || drainOpen s c))) then .next s
    else
      let s1 := if 3 ≤ k.rscope then k.clusters.foldl drainCluster s else s
      if k.rscope ≠ 5 then .next (kernelDone s1 n k)
      else
        let start := k.holdAt.getD (holdStart s)
        let ps := kernelPeers s k start
        if ps.1.length ≠ ps.2.length then .next (s1.setKernel n { k with holdAt := some start })
        else if ps.2 ≠ [] ∨ k.refused then .next (failValidation s1 n serial FENCEERR)
        else .next (kernelDone s1 n k)

/-- Ticks the watchdog has counted; while the context is not RESIDENT or DEGRADED it does not count (R309, R329). -/
def watchdogTicks (s : State) (q : Nat) (k : Kernel) : Nat :=
  if ctxRuns s (s.queuePart q) then k.wdRun + (s.tim - k.wdStart) else k.wdRun

/-- WATCHDOG_EXPIRY: every bound thread is killed; the kernel ends FAULTED when they have ended. -/
def execWatchdogExpiry (q : BitVec 15) (serial : W32) (s : State) : Out :=
  let n := q.toNat
  match s.kernel n serial with
  | none => .next s
  | some k =>
    if (k.state = .dispatching ∨ k.state = .running ∨ k.state = .releasing) ∧ k.wdog ≠ 0 ∧ k.wdog ≤ watchdogTicks s n k then
      let s1 := flagError s n serial HANG
      let keys := boundKeys s1 (kidOf (s.queuePart n) n serial)
      if keys = [] then .next (settle (faultKernel s1 n serial))
      else .next (settle (keys.foldl (fun s x => killThread s x HANG) s1))
    else .next s

end

end Sys2Proof.Machine
end

