-- ==== Sys2Proof/Machine/Context.lean ====
section
/-! DEFINITION. Contexts (R323-R341): opening and closing a partition, assignment of cores, halting, swap with the shadow
banks, spill to and restore from a save area, live migration, and the CTX instructions. -/

namespace Sys2Proof.Machine

noncomputable section

/-! ## The status word (R327) -/

def CtxState.code : CtxState → Nat
  | .absent => 0
  | .resident => 1
  | .halting => 2
  | .halted => 3
  | .shadowed => 4
  | .spilling => 5
  | .spilled => 6
  | .restoring => 7
  | .degraded => 8
  | .failed => 9

/-- Cores assigned to a partition. -/
def coresOf (s : State) (part : Nat) : List Nat := ((List.range 1280).filter (fun c => assignedTo s c part))

/-- A core of the partition is migrating. -/
def partMigrates (s : State) (part : Nat) : Bool := s.cores.any (fun c => c.2.migrating.isSome && assignedTo s c.1 part)

/-- The status word of a partition, with the STATE it had and a RESULT. -/
def ctxWord (s : State) (part : Nat) (st : CtxState) (res : Nat) : W64 :=
  let p := s.part part
  BitVec.ofNat 4 st.code ++ BitVec.ofBool (p.busy || partMigrates s part) ++ BitVec.ofBool p.psm ++ BitVec.ofBool p.spw ++ 0#9 ++
    p.killed ++ p.soff ++ BitVec.ofNat 8 res

/-- The event record of a transfer's end, on the die of the partition's first core (R326, R400). -/
def ctxEvent (s : State) (part : Nat) : State :=
  pushEvent s (dieOf ((coresOf s part).headD 0)) 0x02 0xFF (BitVec.ofNat 8 part) 0xFFFF 0 (ctxWord s part (s.part part).ctx 0) 0

/-! ## Assignment, opening, closing (R60, R323, R326) -/

/-- Slot 7 as its partition gives it (R60). -/
def slot7Of (p : Partition) : Thread := { Thread.reset with state := .parked, sg := defaultSegs p }

/-- A core takes slot 7, EVEC and LOCKMAX from its partition. -/
def initSlot7 (s : State) (core : Nat) : State :=
  let p := s.part (s.partOf core)
  let c := s.core core
  (s.setCore core { c with
    hevecPend := none, arch := { c.arch with evec := p.hevec, lockmax := 65536, serving := none, trapq := [], escalated := false } }).setThread
      (keyOf core 7) (slot7Of p)

/-- Remove every listed byte of a core's scratchpad. -/
def clearSpad (m : Memory) (core : Nat) : Memory :=
  let mine (lo a : Nat) : Bool := decide (core * lo ≤ a) && decide (a < (core + 1) * lo)
  { m with spad := m.spad.filter (fun c => !mine (2 ^ 20) c.1), spadPoison := m.spadPoison.filter (fun c => !mine (2 ^ 16) c),
           full := m.full.filter (fun c => !mine (2 ^ 17) c) }

/-- What waits outside a core for its threads and engines goes: special-function and normaliser requests, and pager wakes. -/
def dropRequests (s : State) (core : Nat) : State :=
  let clu := clusterOf core
  let c := s.cluster clu
  let s1 := s.setCluster clu { c with
    sfuq := c.sfuq.filter (fun r => r.core != core), normq := c.normq.filter (fun r => coreOf r.2 != core) }
  let keep : Joined → Bool
    | .thread c _ _ | .engine c _ _ | .run c _ _ | .stream c _ _ | .weft c _ _ => c != core
    | _ => true
  { s1 with
    dies := s1.dies.map (fun d => (d.1, { d.2 with pagers := d.2.pagers.map (fun r => { r with joined := r.joined.filter keep }) })),
    host := { s1.host with atsWait := s1.host.atsWait.filter (fun x => keep x.2) } }

/-- Free the live arrays of a core: every slot EMPTY, engines idle, scratchpad empty; slot 7 as its partition gives it. -/
def freeCore (s : State) (core : Nat) : State :=
  let s1 := upTo 7 (fun s slot => s.setThread (keyOf core slot) Thread.reset) s
  let c := s1.core core
  initSlot7 { s1.setCore core { c with arch := CoreArch.reset, storeq := [], tagWait := [] } with mem := clearSpad s1.mem core } core

/-- The partition's tables are cleared; the registers set by Selvedge and Treadle stay. -/
def clearTables (p : Partition) : Partition :=
  { p with
    groups := [], tokens := [], skeins := [], subs := [], pubStale := [], leases := [], walks := [], replies := [], overflow := [],
    busy := false, psm := false, spw := false, killed := 0, soff := 0, area := none, exchange := none, frozenAt := none,
    frozenCyc := [], prior := .absent }

/-- The records of a partition's queues are discarded; the queues' own states change only as R298 lists (log 97). -/
def dropRecords (s : State) (part : Nat) : State :=
  { s with queues := s.queues.map (fun x => (x.1, if x.2.part.toNat = part then { x.2 with kernels := [] } else x.2)) }

/-- PARTITION_OPEN: the partition's tables are cleared, the records of its queues with them. -/
def execPartitionOpen (part : BitVec 4) (s : State) : Out :=
  let n := part.toNat
  let p := s.part n
  if p.ctx ≠ .absent then .next s
  else
    let s1 := (dropRecords s n).setPart n { clearTables p with ctx := .resident }
    .next (settle ((coresOf s1 n).foldl freeCore s1))

/-- Kernels of a partition with bound threads: queue and serial. -/
def boundKernels (s : State) (part : Nat) : List (Nat × W32) :=
  let held (t : Thread) : Bool := t.bound && (t.kid.extractLsb' 48 4).toNat == part
  (((s.threads ++ offThreads s part).filter (fun x => held x.2)).map (fun x => (kidQueue x.2.kid, kidSerial x.2.kid))).dedup

/-- Every such kernel ends FAULTED with a cause. -/
def faultBound (s : State) (part : Nat) (cause : Byte) : State :=
  (boundKernels s part).foldl (fun s k => faultKernel (flagError s k.1 k.2 cause) k.1 k.2) s

/-- PARTITION_CLOSE: kernels with bound threads end FAULTED, ACCESS; everything the partition holds is discarded,
its transfers and migrations with it. -/
def execPartitionClose (part : BitVec 4) (s : State) : Out :=
  let n := part.toNat
  let p := s.part n
  if p.ctx = .halting ∨ p.ctx = .spilling ∨ p.ctx = .restoring ∨ p.ctx = .absent then .next s
  else
    let s1 := faultBound s n ACCESS
    let s2 := (coresOf s1 n).foldl (fun s c =>
      freeCore (dropRequests (s.setCore c { s.core c with migrating := none, forwards := [] }) c) c) s1
    let s3 := s2.cores.foldl (fun s c =>
      match c.2.shadow with
      | some x => if x.part = part then s.setCore c.1 { c.2 with shadow := none } else s
      | none => s) s2
    .next (settle ((dropRecords s3 n).setPart n { clearTables (s3.part n) with ctx := .absent }))

/-- HEVEC_WRITE: EVEC of each core of the partition, at once outside an invocation, else at its end (R60). -/
def execHevecWrite (part : BitVec 4) (v : W64) (s : State) : Out :=
  let n := part.toNat
  let x := v &&& ~~~3#64
  let s1 := s.setPart n { s.part n with hevec := x }
  .next ((coresOf s1 n).foldl (fun s core =>
    let c := s.core core
    s.setCore core (if c.arch.serving.isSome || c.arch.escalated then { c with hevecPend := some x }
      else { c with arch := { c.arch with evec := x } })) s1)

/-- The victim flag may be set: slots 0-6 EMPTY and both engine queues empty (R352). -/
def victimReady (s : State) (core : Nat) : Bool :=
  (List.range 7).all (fun slot => (s.thread (keyOf core slot)).state == .empty) &&
    (s.arch core).mq.entries.isEmpty && (s.arch core).cq.entries.isEmpty

/-- CPART_WRITE: an assignment initialises slot 7 from the partition (R60); the victim flag (R352). -/
def execCpartWrite (core : Nat) (v : W64) (s : State) : Out :=
  if 1280 ≤ core then .next s
  else
    let c := s.core core
    let vict := v.getLsbD 9 && (c.vict || victimReady s core)
    let asg := v.getLsbD 8
    let part := v.extractLsb' 0 4
    let s1 := s.setCore core { c with vict := vict, asg := asg, part := part, told := c.told && vict }
    .next (if asg ∧ (!c.asg ∨ c.part ≠ part) then initSlot7 s1 core else s1)

/-! ## Halting (R328, R329) -/

/-- A wait is for the answer of a unit inside the package. -/
def inPackage (w : Wait) : Bool :=
  (match w.instr with
   | .mcst _ _ _ => false
   | _ => true) && w.remote.isNone && w.reply.isNone &&
    (w.kind == 0x01 || w.kind == 0x10 || ((w.kind == 0x05 || w.kind == 0x06) && !w.sent && w.aux == 0) ||
      (w.kind == 0x08 && !w.sent) || (sfuOf w.instr).isSome)

/-- A slot is at rest: it issues nothing, nothing of it is in flight, and no request inside the package is unanswered. -/
def slotQuiet (t : Thread) : Bool :=
  t.state != .ready && t.state != .following && t.busy.isNone && t.killed.isNone &&
    (match t.run with
     | some r => r.flight.isEmpty && r.sfu.isNone
     | none => true) &&
    (match t.wait with
     | some w => (!inPackage w || (w.at_.isSome && !t.deferred.isEmpty)) && w.reply.isNone
     | none => true)

/-- A core meets R329: slots, engines and store queue. -/
def coreQuiet (s : State) (core : Nat) : Bool :=
  let a := s.arch core
  (List.range 8).all (fun slot => slotQuiet (s.thread (keyOf core slot))) && (s.core core).storeq.isEmpty &&
    (a.mq.entries ++ a.cq.entries ++ a.umq.entries ++ a.ucq.entries).all (fun e => e.state != .running)

/-- What a halt takes from a thread: prefetched packs, and a fence's hold (R139, R235). -/
def haltThread (t : Thread) : Thread :=
  { t with streams := t.streams.map (fun x => (x.1, { x.2 with packs := [] })), fenceStart := none, flight := false }

/-- A halt or a migration begins on a core (R328, R337). -/
def haltCore (s : State) (core : Nat) : State :=
  upTo 8 (fun s slot =>
    match tfind s.threads (keyOf core slot) with
    | some t => s.setThread (keyOf core slot) (haltThread t)
    | none => s) s

/-- Add to the watchdog count of every kernel of a partition that runs. -/
def countWatchdogs (s : State) (part : Nat) : State :=
  { s with queues := s.queues.map (fun x => (x.1,
      if x.2.part.toNat = part then
        { x.2 with kernels := x.2.kernels.map (fun k => { k with wdRun := k.wdRun + (s.tim - k.wdStart), wdStart := s.tim }) }
      else x.2)) }

/-- CTXHALT begins: slots are to pause, limits freeze (R328, R329). -/
def startHalt (s : State) (part : Nat) : State :=
  let p := s.part part
  let s1 := (countWatchdogs s part).setPart part { p with
    ctx := .halting, prior := p.ctx, frozenAt := some s.tim, frozenCyc := (List.range 4).map (fun d => (s.die d).cyc) }
  (coresOf s1 part).foldl (fun s core => repause (haltCore s core) core) s1

/-- HALT_COMPLETE: every core of the HALTING context is halted; its dirty lines are written back (R230,
R328), to homes that no relock keeps from it (R18). -/
def execHaltComplete (part : BitVec 4) (s : State) : Out :=
  let n := part.toNat
  let p := s.part n
  if p.ctx ≠ .halting ∨ partMigrates s n ∨ !((coresOf s n).all (fun c => coreQuiet s c && drainOpen s (clusterOf c))) then .next s
  else
    let s1 := ((coresOf s n).map clusterOf).dedup.foldl drainCluster s
    .next (ctxEvent (s1.setPart n { p with ctx := .halted }) n)

/-- Add to a deadline. -/
def shift (k : Nat) (d : Option Nat) : Option Nat := d.map (· + k)

/-- A thread's limits continue from the values they had (R329). -/
def thawThread (k : Nat) (t : Thread) : Thread :=
  { t with
    wait := t.wait.map (fun w => { w with deadline := shift k w.deadline, remote := shift k w.remote }),
    run := t.run.map (fun r => { r with stall := r.stall.map (fun x => (x.1, x.2.1, shift k x.2.2)) }) }

/-- The context runs again: limits continue, watchdogs count, each core's threads acquire at DEV, slots resume (R230). -/
def thaw (s : State) (part : Nat) (st : CtxState) : State :=
  let p := s.part part
  let k := s.tim - p.frozenAt.getD s.tim
  let s1 := s.setPart part { p with ctx := st, frozenAt := none, frozenCyc := [] }
  let s2 : State := { s1 with queues := s1.queues.map (fun x => (x.1,
    if x.2.part.toNat = part then { x.2 with kernels := x.2.kernels.map (fun n => { n with wdStart := s1.tim }) } else x.2)) }
  (coresOf s2 part).foldl (fun s core =>
    let d := s.cyc core - p.frozenCyc.getD (dieOf core) (s.cyc core)
    let a := s.arch core
    let s1 := s.setArch core { a with locks := a.locks.map (fun l => { l with start := l.start + d }) }
    let s2 := upTo 8 (fun s slot =>
      match tfind s.threads (keyOf core slot) with
      | some t => s.setThread (keyOf core slot) (thawThread k t)
      | none => s) s1
    repause (acquireAt s2 core 4) core) s2

/-! ## What a core's context is (R323) -/

/-- Bytes of a scratchpad by offset, with tags and poison. -/
def spadOf (m : Memory) (core : Nat) : Mem × List Nat × List Nat :=
  let part (n : Nat) (l : List Nat) : List Nat := (l.filter (fun a => core * n ≤ a && a < (core + 1) * n)).map (· - core * n)
  ((m.spad.filter (fun c => core * 2 ^ 20 ≤ c.1 && c.1 < (core + 1) * 2 ^ 20)).map (fun c => (c.1 - core * 2 ^ 20, c.2)),
    part (2 ^ 17) m.full, part (2 ^ 16) m.spadPoison)

/-- Put bytes, tags and poison back into a scratchpad. -/
def putSpad (m : Memory) (core : Nat) (x : Mem × List Nat × List Nat) : Memory :=
  let m1 := clearSpad m core
  { m1 with
    spad := x.1.foldl (fun r c => mwrite r (core * 2 ^ 20 + c.1) c.2) m1.spad,
    full := x.2.1.foldl (fun r a => sadd r (core * 2 ^ 17 + a)) m1.full,
    spadPoison := x.2.2.foldl (fun r a => sadd r (core * 2 ^ 16 + a)) m1.spadPoison }

/-- The context of a core. -/
def saveCore (s : State) (core : Nat) : Saved :=
  let m := spadOf s.mem core
  { part := (s.core core).part, arch := s.arch core, hevecPend := (s.core core).hevecPend, tagWait := (s.core core).tagWait,
    threads := (List.range 8).map (fun slot => (keyOf core slot, s.thread (keyOf core slot))),
    spad := m.1, full := m.2.1, poison := m.2.2 }

/-- Put a context into a core's live arrays; the core works for its partition. -/
def loadCore (s : State) (core : Nat) (x : Saved) : State :=
  let c := s.core core
  let s1 := s.setCore core { c with arch := x.arch, hevecPend := x.hevecPend, tagWait := x.tagWait, part := x.part, asg := true }
  let s2 := x.threads.foldl (fun s t => s.setThread (keyOf core (slotOf t.1)) t.2) s1
  { s2 with mem := putSpad s2.mem core (x.spad, x.full, x.poison) }

/-! ## Losses at a restore (R333) -/

/-- Kill a thread for a restore. -/
def lossKill (s : State) (part core slot : Nat) : State :=
  if (s.thread (keyOf core slot)).state = .empty then s
  else
    let s1 := killThread s (keyOf core slot) POISON
    s1.setPart part { s1.part part with killed := satInc (s1.part part).killed }

/-- Slot 7 restarts at EVEC with the invocation it had; with EVEC lost too the core escalates. -/
def lossSlot7 (s : State) (core : Nat) (evec : Bool) : State :=
  let a := s.arch core
  let back := match a.serving with
    | some r => r :: a.trapq
    | none => a.trapq
  let s1 := s.setArch core { a with serving := none, trapq := back }
  let s2 := s1.setThread (keyOf core 7) (slot7Of (s.part (s.partOf core)))
  if evec then escalate s2 core POISON else s2

/-- One loss. -/
def applyLoss (s : State) (part : Nat) (l : Loss) : State :=
  match l with
  | .thread core slot => lossKill s part core slot
  | .scratch core chunk => { s with mem := { s.mem with spadPoison := sadd s.mem.spadPoison (core * 2 ^ 16 + chunk) } }
  | .accPair core pair => s.setArch core { s.arch core with accPoison := sadd (s.arch core).accPoison pair }
  | .cimChunk core chunk => s.setArch core { s.arch core with cimPoison := sadd (s.arch core).cimPoison chunk }
  | .bobbin core n => s.setBobbin core n {}
  | .lock core lo =>
    (match (s.arch core).locks.find? (fun x => x.lo == lo) with
     | some x =>
       let key := keyOf core x.slot
       releaseLocks (s.setThread key { s.thread key with lkx := true }) core (fun y => y == x)
     | none => s)
  | .entry core copy serial =>
    let eng := if copy then 2 else 1
    upTo 2 (fun s k =>
      let q := s.engine core eng (k == 1)
      match q.entries.find? (fun e => e.serial == serial) with
      | some e =>
        let s1 := s.setEngine core eng (k == 1) { q with entries := q.entries.filter (fun x => x.serial != serial),
                                                         ended := if q.entries.head? = some e then serial else q.ended }
        wakeEngine (faultEntry s1 core eng e POISON 0) core
      | none => s) s
  | .slot7 core evec => lossSlot7 s core evec
  | .digest core =>
    let a := s.arch core
    let s1 := s.setArch core { a with accPoison := List.range 131072, cimPoison := List.range 32768 }
    let s2 : State := { s1 with mem := { s1.mem with spadPoison := (List.range 65536).foldl (fun l k => sadd l (core * 2 ^ 16 + k)) s1.mem.spadPoison } }
    lossSlot7 (upTo 7 (fun s slot => lossKill s part core slot) s2) core false

/-- A thread whose message found the reply buffer full traps LINKDOWN: on its wait, or where it stands (R329). -/
def lostMessage (s : State) (key : Nat) : State :=
  let t := s.thread key
  match t.state, t.wait with
  | .trapped, _ | .empty, _ => s
  | _, some w => answer s key (Reply.fail LINKDOWN w.eval)
  | _, none => if t.killed.isSome then s else takeTrap s key LINKDOWN t.pc 0

/-- Messages that waited for a context that was not live (R329). -/
def deliverBuffered (s : State) (part : Nat) : State :=
  let p := s.part part
  let s1 := s.setPart part { p with replies := [], overflow := [] }
  let s2 := p.replies.foldl (fun s x =>
    let t := s.thread x.1
    match x.2.reply with
    | some r => answer s x.1 r
    | none =>
      if x.2.kind = 1 then inboxPut s x.1 x.2.word x.2.tid
      else if 4 ≤ x.2.kind then peerAck s x.1 (x.2.tid.setWidth 10) (decide (x.2.kind = 5)) x.2.word
      else if t.state ≠ .dropped then s
      else if x.2.kind = 2 then s.setThread x.1 t.resume
      else takeTrap s x.1 PAGE t.pc x.2.word) s1
  p.overflow.foldl lostMessage s2

/-- The context is back: losses, held messages, and its new state. -/
def finishRestore (s : State) (part : Nat) (lost : List Loss) : State :=
  let s1 := lost.foldl (fun s l => applyLoss s part l) s
  let s2 := deliverBuffered s1 part
  let p := s2.part part
  let s3 := s2.setPart part { p with busy := false, spw := false, area := none, exchange := none }
  ctxEvent (thaw s3 part (if p.killed = 0 then .resident else .degraded)) part

/-! ## Shadow banks (R330) -/

/-- Cores whose shadow banks hold a partition's context. -/
def shadowCores (s : State) (part : Nat) : List Nat :=
  (s.cores.filter (fun c => match c.2.shadow with
    | some x => x.part.toNat == part
    | none => false)).map (·.1)

/-- The live arrays of a core hold a context. -/
def holdsLive (s : State) (core : Nat) : Bool :=
  decide (core < 1280) && (s.core core).asg &&
    match (s.part (s.partOf core)).ctx with
    | .resident | .degraded | .halting | .halted | .restoring | .failed => true
    | .spilling => (s.part (s.partOf core)).spillFrom != .shadowed
    | _ => false

/-- The partition that an exchange of p's shadowed context would move out, if the exchange may be made: every core of p
free or holding q, which is HALTED, and every core of q among them. -/
def exchangeWith (s : State) (part : Nat) : Option (Option (BitVec 4)) :=
  let cs := shadowCores s part
  let live := cs.filter (fun c => holdsLive s c)
  if !(cs.all (fun c => live.contains c || assignedTo s c part)) then none
  else
    match live.head? with
    | none => some none
    | some c =>
      let q := s.partOf c
      if q ≠ part ∧ (s.part q).ctx = .halted ∧ (s.part q).busy = false ∧ live.all (fun x => s.partOf x == q) ∧
          (coresOf s q).all (fun x => cs.contains x) then some (some (BitVec.ofNat 4 q))
      else none

/-- SHADOW_TRANSFER_END: a save, a restore or an exchange is complete (R330, R333); a context closed meanwhile stays ABSENT. -/
def execShadowTransferEnd (part : BitVec 4) (lost : List Loss) (s : State) : Out :=
  let n := part.toNat
  let p := s.part n
  if !p.busy then .next s
  else if p.ctx = .halted ∧ p.exchange = none then
    let cs := coresOf s n
    let s1 := cs.foldl (fun s c =>
      let x := saveCore s c
      let s1 := freeCore s c
      s1.setCore c { s1.core c with shadow := some x }) s
    .next (ctxEvent (s1.setPart n { s1.part n with ctx := .shadowed, busy := false }) n)
  else if p.ctx = .restoring ∧ p.area = none then
    let s1 := (shadowCores s n).foldl (fun s c =>
      match (s.core c).shadow with
      | none => s
      | some x =>
        let out : Option Saved := if p.exchange.isSome ∧ holdsLive s c then some (saveCore s c) else none
        let s1 := loadCore s c x
        s1.setCore c { s1.core c with shadow := out, storeq := [] }) s
    let s2 := match p.exchange with
      | some q =>
        let x := s1.part q.toNat
        if x.ctx = .halted ∧ x.exchange = some part then
          ctxEvent (s1.setPart q.toNat { x with ctx := .shadowed, busy := false, exchange := none }) q.toNat
        else s1
      | none => s1
    .next (finishRestore s2 n lost)
  else .next s

/-! ## Save areas (R331-R334) -/

abbrev recordSize : Nat := 0x1A0000

/-- A record as stored: bytes of a layout that is the device's own (free values), the core number, and the digest (R331). -/
def recordBytes (free core : Nat) : List Byte :=
  let body := ((List.range ((recordSize - 64) / 8)).map (fun i => bytesOfNat 8 (Config.freeWord (free + i)).toNat)).flatten
  body ++ bytesOfNat 2 core ++ List.replicate 30 0 ++ digestBytes (sha256 body)

/-- A header without its digest (R331). -/
def headerBytes (s : State) (part : Nat) (cores : List Nat) (stim : Nat) (shadow : Bool) (digest : List Byte) : List Byte :=
  let head := bytesOfNat 4 0x5843564B ++ bytesOfNat 2 1 ++ bytesOfNat 1 part ++ bytesOfNat 1 (if shadow then 3 else 1) ++
    bytesOfNat 2 cores.length ++ bytesOfNat 2 s.pk.pkg.toNat ++ bytesOfNat 4 recordSize ++ bytesOfNat 8 stim
  let list := cores.flatMap (bytesOfNat 2)
  head ++ digest ++ list ++ List.replicate (4096 - 56 - list.length) 0

/-- HDIG: the digest of bytes 0-23 and 56-4,095. -/
def headerDigest (b : List Byte) : BitVec 256 := sha256 (b.take 24 ++ b.drop 56)

/-- The spill is abandoned: PSM is set and nothing is lost (R332). -/
def abandonSpill (s : State) (part : Nat) (soff : BitVec 24) : State :=
  let p := s.part part
  ctxEvent (s.setPart part { p with ctx := p.spillFrom, busy := false, psm := true, spw := false, soff := soff, area := none }) part

/-- The transfer pauses on a page of its area, with its progress (R332). -/
def pauseArea (s : State) (part : Nat) (a : SaveArea) (soff : Nat) (dva : Nat) (kind : BitVec 2) (acc : BitVec 4) : State :=
  let p := s.part part
  joinRecord (s.setPart part { p with spw := true, soff := BitVec.ofNat 24 soff }) (dieOf a.core) (clusterOf a.core)
    (s.partOf a.core) dva kind acc 2 (.spill part)

/-- Write the 4 KiB units of a record from one on: the unit that could not be written, with the reason, or the end. -/
def spillUnits (s : State) (a : SaveArea) (bs : List Byte) (u : Nat) : Nat → State × Option (Nat × Stop)
  | 0 => (s, none)
  | n + 1 =>
    match homeWriteRange s (clusterOf a.core) (s.partOf a.core) (a.base + 4096 * u) (bs.take 4096) 0 with
    | .ok s1 => spillUnits s1 a (bs.drop 4096) (u + 1) n
    | .error e => (s, some (u, e))

/-- The cores a spill saves, in record order. -/
def spillCores (s : State) (part : Nat) : List Nat :=
  if (s.part part).spillFrom = .shadowed then shadowCores s part else coresOf s part

/-- The header is written: the context is SPILLED, and the arrays or shadow banks it was read from are freed (R332). -/
def spillHeader (s : State) (part : Nat) (a : SaveArea) : State :=
  let shadow := decide ((s.part part).spillFrom = .shadowed)
  let cores := spillCores s part
  let soff := 1 + 0x1A0 * cores.length
  let dig := headerDigest (headerBytes s part cores a.stim shadow (List.replicate 32 0))
  match homeWriteRange s (clusterOf a.core) (s.partOf a.core) a.base (headerBytes s part cores a.stim shadow (digestBytes dig)) 0 with
  | .error (.page dva k acc _) => pauseArea s part a soff dva k acc
  | .error .hold => s
  | .error _ => abandonSpill s part (BitVec.ofNat 24 soff)
  | .ok s2 =>
    let saved := cores.filterMap (fun c => if shadow then (s.core c).shadow.map (fun x => (c, x)) else some (c, saveCore s c))
    let s3 := if shadow then cores.foldl (fun s c => s.setCore c { s.core c with shadow := none }) s2 else cores.foldl freeCore s2
    let s4 : State := { s3 with images := s3.images ++ [{ digest := dig, cores := saved }] }
    ctxEvent (s4.setPart part { s4.part part with
      ctx := .spilled, busy := false, spw := false, area := none, savedDigest := dig, soff := BitVec.ofNat 24 soff }) part

/-- The save engine writes what is left of its next record, SOFF counting it; after the last one the header (R332). -/
def spillStep (s : State) (part : Nat) (a : SaveArea) : State :=
  let p := s.part part
  let cores := spillCores s part
  let i := recordsDone p
  let u := Nat.max p.soff.toNat 1
  let first := 1 + 0x1A0 * i
  match cores[i]? with
  | none => spillHeader s part a
  | some core =>
    if a.len < 4096 + (i + 1) * recordSize then abandonSpill s part (BitVec.ofNat 24 first)
    else
      let bs := (recordBytes (a.free + i * (recordSize / 8)) core).drop (4096 * (u - first))
      match spillUnits s a bs u (first + 0x1A0 - u) with
      | (s1, some (v, .page dva k acc _)) => pauseArea s1 part a v dva k acc
      | (s1, some (v, .hold)) => s1.setPart part { s1.part part with soff := BitVec.ofNat 24 v }
      | (s1, some (v, _)) => abandonSpill s1 part (BitVec.ofNat 24 v)
      | (s1, none) =>
        let s2 := s1.setPart part { s1.part part with soff := BitVec.ofNat 24 (first + 0x1A0) }
        if i + 1 = cores.length then spillHeader s2 part a else s2

/-- SPILL_END: the save engine writes its next record, with the last one the header; or the spill is abandoned (R332). -/
def execSpillEnd (part : BitVec 4) (ok : Bool) (s : State) : Out :=
  let n := part.toNat
  let p := s.part n
  match p.area with
  | none => .next s
  | some a =>
    if p.ctx ≠ .spilling ∨ p.spw then .next s
    else if !ok then .next (abandonSpill s n p.soff)
    else .next (spillStep s n a)

/-- The core a loss names. -/
def lossCore : Loss → Nat
  | .thread c _ | .digest c | .scratch c _ | .accPair c _ | .cimChunk c _ | .bobbin c _ | .lock c _ | .entry c _ _ | .slot7 c _ => c

/-- What one record of an area has lost, or the fault of reading it (R333): a digest that does not match loses the whole record;
so does poison of which the losses name no unit, since the record's layout is the device's own (log 96). -/
def checkRecord (s : State) (a : SaveArea) (core i : Nat) (lost : List Loss) : Except Stop (State × List Loss) := do
  let (s1, bs, poison) ← homeReadRange s (clusterOf a.core) (s.partOf a.core) (a.base + 4096 + i * recordSize) recordSize 0
  let mine := lost.filter (fun l => lossCore l == core)
  let good := decide (bs.drop (recordSize - 32) = digestBytes (sha256 (bs.take (recordSize - 64)))) && (!poison || !mine.isEmpty)
  return (s1, if good then mine else .digest core :: mine)

/-- A restore fails: the kernels with bound threads end FAULTED; the cores already written keep what they hold (R334). -/
def failRestore (s : State) (part : Nat) (cause : Byte) : State :=
  let s1 := faultBound s part cause
  ctxEvent (settle (s1.setPart part { s1.part part with ctx := .failed, busy := false, spw := false, area := none })) part

/-- One record goes back to its core, with what it lost; after the last one the context is back (R333). -/
def restoreStep (s : State) (part : Nat) (a : SaveArea) (lost : List Loss) : State :=
  let p := s.part part
  let cores := match s.images.find? (fun x => x.digest == p.savedDigest) with
    | some x => x.cores
    | none => []
  let i := recordsDone p
  match cores[i]? with
  | none => finishRestore s part lost
  | some c =>
    match checkRecord s a c.1 i lost with
    | .error (.page dva k acc _) => pauseArea s part a (Nat.max (1 + 0x1A0 * i) ((dva - a.base) / 4096)) dva k acc
    | .error .hold => s
    | .error _ => failRestore s part PAGE
    | .ok (s1, ls) =>
      let s2 := loadCore s1 c.1 c.2
      let s3 := s2.setPart part { s2.part part with soff := BitVec.ofNat 24 (1 + 0x1A0 * (i + 1)) }
      if i + 1 = cores.length then finishRestore s3 part (ls ++ lost.filter (fun l => lossCore l != c.1))
      else ls.foldl (fun s l => applyLoss s part l) s3

/-- RESTORE_END: the next record goes back to its core, with what it lost, and with the last one the context; or an uncorrectable
error of the partition's tables ends the restore (R333, R334). -/
def execRestoreEnd (part : BitVec 4) (lost : List Loss) (fatal : Option Byte) (s : State) : Out :=
  let n := part.toNat
  let p := s.part n
  match p.area with
  | none => .next s
  | some a =>
    if p.ctx ≠ .restoring ∨ p.spw then .next s
    else
      match fatal with
      | some cause => .next (failRestore s n (if cause = POISON then POISON else PAGE))
      | none => .next (restoreStep s n a lost)

/-! ## Live migration (R337, R338) -/

/-- A core is free to take a context: slots 0-6 EMPTY, engine queues empty, no bobbin, no lock. -/
def migrationFree (s : State) (core : Nat) : Bool :=
  let a := s.arch core
  (List.range 7).all (fun slot => (s.thread (keyOf core slot)).state == .empty) &&
    (a.mq.entries ++ a.cq.entries ++ a.umq.entries ++ a.ucq.entries).isEmpty && a.bobbins.all (fun b => !b.2.init) && a.locks.isEmpty

/-- The entry still names a kernel that has not ended. -/
def ForwardEntry.live (s : State) (f : ForwardEntry) : Bool := f.kids.any (fun k => (s.kernel (kidQueue k) (kidSerial k)).isSome)

/-- A thread's key after a move from core c to core t. -/
def moveKey (c t key : Nat) : Nat := if coreOf key = c then keyOf t (slotOf key) else key
def moveCoreNum (c t x : Nat) : Nat := if x = c then t else x

def moveJoined (c t : Nat) : Joined → Joined
  | .thread x sl e => .thread (moveCoreNum c t x) sl e
  | .engine x k u => .engine (moveCoreNum c t x) k u
  | .run x sl e => .run (moveCoreNum c t x) sl e
  | .stream x sl n => .stream (moveCoreNum c t x) sl n
  | .weft x sl e => .weft (moveCoreNum c t x) sl e
  | j => j

/-- A store of another core that names the moved scratchpad or inbox is redirected. -/
def moveEntry (c t : Nat) (e : StoreEntry) : StoreEntry :=
  { e with place := match e.place with
    | .spad x o => .spad (moveCoreNum c t x) o
    | .inbox k => .inbox (moveKey c t k)
    | p => p }

/-- A thread identity after a move. -/
def moveTid (s : State) (c t : Nat) (tid : W64) : W64 :=
  match s.ofTid tid with
  | some k => if coreOf k = c then s.tid (keyOf t (slotOf k)) else tid
  | none => tid

/-- A packet of the package to itself names the moved thread at its new place. -/
def movePacket (f : W64 → W64) : OutMsg → OutMsg
  | .request pkg part tid r => .request pkg part (f tid) r
  | .reply pkg tid kind a bs => .reply pkg (f tid) kind a bs
  | .mcst pkg part tid sub a v => .mcst pkg part (f tid) sub a v
  | .shuttleStatus pkg tid desc st => .shuttleStatus pkg (f tid) desc st
  | m => m

/-- Every record that names a thread of the moved core names it at its new place. -/
def renameKeys (s : State) (part c t : Nat) (kids : List W64) : State :=
  let mv := moveKey c t
  let p := s.part part
  let s1 := s.setPart part { p with
    skeins := p.skeins.map (fun x => (x.1, { x.2 with
      parked := x.2.parked.map mv, marks := x.2.marks.map mv, past6 := x.2.past6.map mv, queue := x.2.queue.map mv, serving := x.2.serving.map (fun y => (mv y.1, y.2)) })),
    groups := p.groups.map (fun x => (x.1, { x.2 with wthread := mv x.2.wthread, contribs := x.2.contribs.map (fun y => (mv y.1, y.2)) })),
    replies := p.replies.map (fun x => (mv x.1, x.2)), overflow := p.overflow.map mv }
  let f (w : PeerWait) : PeerWait := if w.pkg = s.pk.pkg then { w with tid := moveTid s c t w.tid } else w
  { s1 with
    links := { s1.links with
      loop := s1.links.loop.map (movePacket (moveTid s c t)), waiting := s1.links.waiting.map f, held := s1.links.held.map f,
      performed := s1.links.performed.map (fun e => if e.pkg = s.pk.pkg then { e with tid := moveTid s c t e.tid } else e) },
    cores := s1.cores.map (fun x => (x.1, { x.2 with tagWait := x.2.tagWait.map mv, storeq := x.2.storeq.map (moveEntry c t) })),
    dies := s1.dies.map (fun x => (x.1, { x.2 with pagers := x.2.pagers.map (fun r => { r with joined := r.joined.map (moveJoined c t) }) })),
    queues := s1.queues.map (fun x => (x.1, { x.2 with kernels := x.2.kernels.map (fun k => { k with
      unacked := k.unacked.map (fun u => (mv u.1, u.2)),
      clusters := if kids.contains (kidOf x.2.part.toNat x.1 k.serial) then sadd k.clusters (clusterOf t) else k.clusters }) })),
    host := { s1.host with atsWait := s1.host.atsWait.map (fun x => (x.1, moveJoined c t x.2)) } }

/-- The context of a core streams to its destination, and the forwarding entries follow. -/
def moveContext (s : State) (c t : Nat) : State :=
  let part := s.partOf c
  let kids := ((List.range 7).filterMap (fun slot =>
    let x := s.thread (keyOf c slot)
    if x.bound then some x.kid else none)).dedup
  let x := saveCore s c
  let d (st : Nat) : Nat := s.cyc t - (s.cyc c - st)
  let x1 : Saved := { x with threads := x.threads.map (fun t => (t.1, haltThread t.2)), arch := { x.arch with
    locks := x.arch.locks.map (fun l => { l with start := d l.start }), lockq := x.arch.lockq.map (moveKey c t),
    bobbins := x.arch.bobbins.map (fun b => (b.1, { b.2 with prodw := b.2.prodw.map (moveKey c t), consw := b.2.consw.map (moveKey c t) })) } }
  let s1 := loadCore s t x1
  let s2 := upTo 8 (fun s slot => widenScope s part t (s.thread (keyOf t slot))) s1
  let s3 := renameKeys (freeCore s2 c) part c t kids
  let s4 : State := { s3 with cores := s3.cores.map (fun y => (y.1, { y.2 with
    forwards := (y.2.forwards.map (fun f => if f.dest = c then { f with dest := t } else f)).filter (fun f => f.dest != y.1) })) }
  let c4 := s4.core c
  s4.setCore c { c4 with
    migrating := none, forwards := if kids.isEmpty then c4.forwards else c4.forwards.filter (ForwardEntry.live s4) ++ [{ dest := t, kids := kids }] }

/-- MIGRATION_END. -/
def execMigrationEnd (core : Nat) (s : State) : Out :=
  match (s.core core).migrating with
  | none => .next s
  | some t =>
    if !coreQuiet s core ∨ !dieReachable s (dieOf core) ∨ !dieReachable s (dieOf t) then .next s
    else
      let s1 := moveContext s core t
      .next (ctxEvent (repause (repause s1 t) core) (s.partOf core))

/-! ## The instructions (R340, R341) -/

/-- The issuer is slot 7 of a core of the partition. -/
def ownHandler (s : State) (part : Nat) : Bool := slotOf s.cur == 7 && assignedTo s s.myCore part
/-- The issuer may name the partition: a service core, or a handler of its own (log 40). -/
def mayName (s : State) (part : Nat) : Bool := decide (1280 ≤ s.myCore) || s.partOf s.myCore == part

/-- The instruction ends with a partition's word: the STATE found at issue, and RESULT. -/
def ctxDone (s s0 : State) (d : Reg) (part res : Nat) : State := s.finishG d (ctxWord s part (s0.part part).ctx res) 6
/-- No partition of that number exists. -/
def ctxBad (s : State) (d : Reg) : State := s.finishG d 2 6

/-- MIGR: the result. -/
def migrResult (s : State) (src dst : W64) : Nat :=
  let c := src.toNat
  let t := dst.toNat
  if 1280 ≤ c ∨ 1280 ≤ t ∨ c = t ∨ !(s.core c).asg ∨ !assignedTo s t (s.partOf c) ∨ !mayName s (s.partOf c) then 2
  else if s.cur = keyOf c 7 ∨ s.cur = keyOf t 7 then 4
  else if (s.part (s.partOf c)).ctx ≠ .resident ∧ (s.part (s.partOf c)).ctx ≠ .degraded then 1
  else if (s.core c).migrating.isSome ∨ (s.core t).migrating.isSome ∨ s.cores.any (fun x => x.2.migrating = some t ∨ x.2.migrating = some c) ∨
      !migrationFree s t ∨ 2 ≤ ((s.core c).forwards.filter (ForwardEntry.live s)).length then 3
  else 0

/-- MIGR. -/
def execMigr (b a d : Reg) (s : State) : Out :=
  privileged (.migr b a d) 1 s (
    let src := s.me.rg a
    let dst := s.me.rg b
    let res := migrResult s src dst
    if 1280 ≤ src.toNat ∨ !(s.core src.toNat).asg then .next (ctxBad s d)
    else
      let c := src.toNat
      let s1 := if res = 0 then repause (haltCore (s.setCore c { s.core c with migrating := some dst.toNat }) c) c else s
      .next (ctxDone s1 s d (s.partOf c) res))

/-- CTXHALT: a halt, or a query. -/
def execCtxhalt (b a d : Reg) (s : State) : Out :=
  privileged (.ctxhalt b a d) 1 s (
    let p := s.me.rg a
    let q := s.me.rg b
    let n := p.toNat
    if 15 < n then .next (ctxBad s d)
    else if 1 < q.toNat ∨ !mayName s n then .next (ctxDone s s d n 2)
    else if q = 1 then .next (ctxDone s s d n 0)
    else if ownHandler s n then .next (ctxDone s s d n 4)
    else if (s.part n).ctx ≠ .resident ∧ (s.part n).ctx ≠ .degraded then .next (ctxDone s s d n 1)
    else .next (ctxDone (startHalt s n) s d n 0))

/-- An 8-byte word read with right R through the issuer's segments, as a load that ends at once. -/
def readNow (s : State) (key : Nat) (ea : W64) : Except Stop (State × W64) := do
  let (kind, o) ← accessCheck (s.thread key) ea 8 rightR
  let (s1, p) ← resolve s key ea 8 .load kind o
  need (!p.external) ACCESS ea
  let (s2, bs, bad) ← bytesNow s1 key p 8
  if bad then .error .poison
  return (s2, BitVec.ofNat 64 (natOfBytes bs))

/-- The descriptor of a save area: BASE as a DVA of the issuer's sg1 space, and LEN (R331). -/
def readArea (s : State) (key : Nat) (ea : W64) : Except Stop (State × Nat × Nat) := do
  let (s1, base) ← readNow s key ea
  let (s2, len) ← readNow s1 key (ea + 8)
  return (s2, base.toNat, len.toNat)

/-- The area's base as an address through sg1. -/
def areaAddr (base off : Nat) : W64 := BitVec.ofNat 64 (2 ^ 61 + (base + off) % 2 ^ 61)

/-- CTXSAVE. -/
def execCtxsave (b a d : Reg) (s : State) : Out :=
  privileged (.ctxsave b a d) 1 s (
    run (.ctxsave b a d) s (do
      let n := (s.me.rg a).toNat
      let p := s.part n
      if 15 < n then return ctxBad s d
      else if ownHandler s n then return ctxDone s s d n 4
      else if !mayName s n then return ctxDone s s d n 2
      else if p.busy then return ctxDone s s d n 1
      else if s.me.rg b = 0 then
        if p.ctx ≠ .halted then return ctxDone s s d n 1
        else if (coresOf s n).any (fun c => (s.core c).shadow.isSome) then return ctxDone s s d n 3
        else return ctxDone (s.setPart n { p with busy := true }) s d n 0
      else if p.ctx ≠ .halted ∧ p.ctx ≠ .shadowed then return ctxDone s s d n 1
      else
        let (s1, base, len) ← readArea s s.cur (s.me.rg b)
        if len < 4096 ∨ base % 4096 ≠ 0 then return ctxDone s1 s d n 2
        else
          let dva := (s.me.seg 1).base.toNat + base
          let s2 : State := { s1 with fresh := s1.fresh + 1280 * (recordSize / 8) }
          return ctxDone (s2.setPart n { s2.part n with
            ctx := .spilling, spillFrom := p.ctx, busy := true, psm := false, spw := false, soff := 0,
            area := some { base := dva, len := len, core := s.myCore, stim := s.tim, free := s1.fresh } }) s d n 0))

/-- The 4 KiB header, through the issuer's sg1. -/
def readHeader (s : State) (key base : Nat) : Except Stop (State × List Byte) := do
  let (s1, ws) ← (List.range 512).foldl (fun r i => do
    let (s, ws) ← r
    let (s1, w) ← readNow s key (areaAddr base (8 * i))
    return (s1, bytesOfNat 8 w.toNat :: ws)) (.ok (s, []))
  return (s1, ws.reverse.flatten)

/-- The cores a header lists. -/
def headerCores (h : List Byte) : List Nat := (List.range (fieldAt h 8 2)).map (fun i => fieldAt h (56 + 2 * i) 2)

/-- The checks of R333: 0, 2 or 3. -/
def headerResult (s : State) (part : Nat) (h : List Byte) : Nat :=
  if fieldAt h 0 4 ≠ 0x5843564B ∨ fieldAt h 4 2 ≠ 1 ∨ fieldAt h 6 1 ≠ part ∨ (fieldAt h 7 1) % 2 = 0 ∨ fieldAt h 10 2 ≠ s.pk.pkg.toNat ∨
      (h.drop 24).take 32 ≠ digestBytes (headerDigest h) then 2
  else if (headerCores h).any (fun c => !assignedTo s c part || holdsLive s c) then 3
  else 0

/-- CTXREST: resume, exchange or restore. -/
def execCtxrest (b a d : Reg) (s : State) : Out :=
  privileged (.ctxrest b a d) 1 s (
    run (.ctxrest b a d) s (do
      let n := (s.me.rg a).toNat
      let p := s.part n
      if 15 < n then return ctxBad s d
      else if ownHandler s n then return ctxDone s s d n 4
      else if !mayName s n then return ctxDone s s d n 2
      else if p.busy then return ctxDone s s d n 1
      else if s.me.rg b = 0 then
        if p.ctx = .halted then return ctxDone (thaw (s.setPart n { p with psm := false }) n p.prior) s d n 0
        else if p.ctx ≠ .shadowed then return ctxDone s s d n 1
        else
          match exchangeWith s n with
          | none => return ctxDone s s d n 3
          | some q =>
            let s1 := match q with
              | some q => s.setPart q.toNat { s.part q.toNat with busy := true, exchange := some (BitVec.ofNat 4 n) }
              | none => s
            return ctxDone (s1.setPart n { p with ctx := .restoring, busy := true, killed := 0, exchange := q }) s d n 0
      else if p.ctx ≠ .spilled then return ctxDone s s d n 1
      else
        let (s1, base, len) ← readArea s s.cur (s.me.rg b)
        if len < 4096 ∨ base % 4096 ≠ 0 then return ctxDone s1 s d n 2
        else
          let (s2, h) ← readHeader s1 s.cur base
          let res := headerResult s2 n h
          if res ≠ 0 then return ctxDone s2 s d n res
          else
            let dva := (s.me.seg 1).base.toNat + base
            let dig : BitVec 256 := headerDigest h
            return ctxDone (s2.setPart n { s2.part n with
              ctx := .restoring, busy := true, spw := false, soff := 0, killed := 0, savedDigest := dig,
              area := some { base := dva, len := len, core := s.myCore, stim := s.tim } }) s d n 0))

end

end Sys2Proof.Machine
end

