-- ==== Sys2Proof/Machine/Copy.lean ====
section
/-! DEFINITION. The copy engine (R187-R189): CPY in its three kinds, rows copied in units of at most 4 KiB, and the end
of a copy. -/

namespace Sys2Proof.Machine

noncomputable section

/-! ## CPY (R187, R188) -/

/-- A signed pitch, where 0 means ROWB. -/
def pitchOf (p rowb : W32) : Int := if p = 0 then (rowb.toNat : Int) else p.toInt

/-- The body of CPY: markers, the value rules of R187, then the queue. -/
def cpyBody (kind : BitVec 2) (follow : BitVec 1) (b a d : Reg) (p0 p1 p2 p3 : W32) (s : State) : Except Stop State := do
  let (sp, rows, rowb, dp) ← resolveParams s.me p0 p1 p2 p3
  let v := s.me.rg b
  let pc := s.me.pc
  need (decide (rows.toNat ≤ 65535) && decide (1 ≤ rowb.toNat) && decide (rowb.toNat ≤ 0x100000)) FORMAT pc
  if kind = 1 then need (decide (v.extractLsb' 4 60 = 0) && decide (dp = 0)) FORMAT pc
  let fmt := (v.extractLsb' 4 4).toNat
  if kind = 2 then
    need (decide (v.extractLsb' 8 24 = 0) && !v.getLsbD 3 && engFmt fmt && decide (v.toNat % 8 % tileBanks fmt = 0) &&
      decide (rows = 1) && decide (rowb.toNat = tileSize fmt) && decide (sp = 0) && decide (dp = 0)) FORMAT pc
  enqueueBody s 2 (.copy kind (follow == 1) (s.me.rg a) v (pitchOf sp rowb) rows.toNat rowb.toNat (pitchOf dp rowb)) d 5

def execCpyMem (follow : BitVec 1) (b a d : Reg) (p0 p1 p2 p3 : W32) (s : State) : Out :=
  run (.cpyMem follow b a d p0 p1 p2 p3) s (cpyBody 0 follow b a d p0 p1 p2 p3 s)
def execCpyBob (follow : BitVec 1) (b a d : Reg) (p0 p1 p2 p3 : W32) (s : State) : Out :=
  run (.cpyBob follow b a d p0 p1 p2 p3) s (cpyBody 1 follow b a d p0 p1 p2 p3 s)
def execCpyCim (follow : BitVec 1) (b a d : Reg) (p0 p1 p2 p3 : W32) (s : State) : Out :=
  run (.cpyCim follow b a d p0 p1 p2 p3) s (cpyBody 2 follow b a d p0 p1 p2 p3 s)

/-! ## Pieces (R188, R189) -/

/-- The view element of an address: that of a local alias window, else 1 (R134). -/
def viewElement (t : Thread) (ea : W64) : Nat :=
  let g := t.seg (ea.extractLsb' 61 3).toNat
  if g.kind = 2 then winView ((g.base.toNat + (ea.extractLsb' 0 61).toNat) / 0x400000) else 1

/-- Where a copy's bytes go. -/
inductive CopySink where
  | mem (row : W64)
  | spad (off : Nat)
  | cim (fmt first : Nat)
deriving DecidableEq, Repr

/-- Base plus a signed displacement, inside the segment. -/
def rowAddr (base : W64) (disp : Int) : Except Stop W64 := effAddr base (BitVec.ofInt 64 disp)

/-- Read a piece; bytes of a peer, a lender or the host come with the event, from position `pos` of the unit. -/
def copyRead (s : State) (key : Nat) (ea : W64) (n pos : Nat) (ext : ExtReply) : Except Stop (State × List Byte) := do
  let (kind, o) ← segCheck (s.thread key) ea n rightR
  let (s, p) ← resolve s key ea n .load kind o
  if placeHeld s key p n then .error .hold
  if p.external then
    match ext with
    | .bytes bs => if pos + n ≤ bs.length then return (s, (bs.drop pos).take n) else .error .hold
    | .poison => .error (.trap POISON ea)
    | .refused => .error (.trap ACCESS ea)
    | .leaseGone => .error (.trap LEASEGONE ea)
    | _ => .error .hold
  else
    let (s, bs, bad) ← bytesNow s key p n
    need (!bad) POISON ea
    return (s, bs)

/-- Put a piece at position `pos` of its row. -/
def sinkPiece (s : State) (key slot : Nat) (sink : CopySink) (pos : Nat) (bs : List Byte) : Except Stop State :=
  let core := coreOf key
  match sink with
  | .mem row => do
    let ea ← rowAddr row pos
    engineStore s key ea bs
  | .spad off =>
    if (lockedByte (s.arch core) slot (off + pos) bs.length).isSome then .error .hold
    else .ok { s with mem := spadWrite s.mem core (off + pos) bs }
  | .cim fmt first => .ok (s.setArch core (placeImage (s.arch core) fmt first pos bs))

/-- The length of the next piece: within an aligned 16-byte chunk on both sides, whole view elements. -/
def pieceLen (src : W64) (sink : CopySink) (pos rest el : Nat) : Nat :=
  let d := match sink with
    | .mem row => row.toNat + pos
    | .spad off => off + pos
    | .cim _ _ => pos
  let k := Nat.min rest (Nat.min (16 - (src.toNat + pos) % 16) (16 - d % 16))
  if k < el then Nat.min rest el else k - k % el

/-- Copy pieces of a row from position `pos` to `stop`: where it got to, and what stopped it. A piece that meets a fault is copied
element by element, so that the fault has the first failing address (R188). -/
def copyPieces : Nat → State → Nat → W64 → CopySink → Nat → ExtReply → Nat → Nat → Nat → State × Nat × Option Stop
  | 0, s, _, _, _, _, _, _, pos, _ => (s, pos, none)
  | fuel + 1, s, key, src, sink, el, ext, first, pos, stop =>
    if stop ≤ pos then (s, pos, none)
    else
      let n := pieceLen src sink pos (stop - pos) el
      let piece (n : Nat) : Except Stop State := do
        let ea ← rowAddr src pos
        let (s, bs) ← copyRead s key ea n (pos - first) ext
        sinkPiece s key (slotOf key) sink pos bs
      match piece n, piece el with
      | .ok s', _ => copyPieces fuel s' key src sink el ext first (pos + n) stop
      | .error (.trap _ _), .ok s' => copyPieces fuel s' key src sink el ext first (pos + el) stop
      | .error (.trap _ _), .error e => (s, pos, some e)
      | .error e, _ => (s, pos, some e)

/-! ## Rows -/

/-- The head of a copy queue if it may go on. -/
def copyHead (s : State) (core : Nat) (urgent : Bool) : Option Entry :=
  match (s.engine core 2 urgent).entries with
  | e :: _ =>
    if e.state ≠ .paused ∧ !e.cancelled ∧ e.fault = none ∧ !e.page ∧ engineMayRun s core ∧ turnOf (s.arch core) 2 urgent ∧
        e.after.all (barrierPassed s (keyOf core (e.slot % 16))) then some e else none
  | [] => none

/-- Both addresses, ROWB and both pitches are multiples of the view element (R188): the element, or the fault. -/
def copyAligned (t : Thread) (kind : BitVec 2) (src dst : W64) (sp dp : Int) (rowb : Nat) : Except (Byte × W64) Nat :=
  let el := Nat.max (viewElement t src) (if kind = 0 then viewElement t dst else 1)
  if src.toNat % el ≠ 0 then .error (ALIGN, src)
  else if kind = 0 ∧ dst.toNat % el ≠ 0 then .error (ALIGN, dst)
  else if rowb % el ≠ 0 ∨ sp % el ≠ 0 ∨ (kind = 0 ∧ dp % el ≠ 0) then .error (ALIGN, src)
  else .ok el

/-- A page fault of a copy: the entry is held at the head, and a refusal ends it with the lowest address of the row on the
page (R188). -/
def copyPage (s : State) (core : Nat) (urgent : Bool) (e : Entry) (row : W64) (dva : Nat) (kind : BitVec 2) (acc : BitVec 4) (ea : W64) :
    State :=
  let low := ea - BitVec.ofNat 64 (dva % 4096)
  let addr := if low.toNat < row.toNat then row else low
  let s1 := setHead s core 2 urgent { e with page := true, fault := some (PAGE, addr) }
  joinRecord s1 (dieOf core) (clusterOf core) (s.partOf core) dva kind acc 2 (.engine core true urgent)

/-- A host page is not translated yet (R354). -/
def copyAts (s : State) (core : Nat) (urgent : Bool) (e : Entry) (page : Nat) (ea : W64) : State :=
  askAts (setHead s core 2 urgent { e with page := true, fault := some (ACCESS, ea) }) page (.engine core true urgent)

/-- The entry after a unit that got to `pos` of its row: held, faulted, or at its next unit or row. -/
def copyAfter (s : State) (core : Nat) (urgent : Bool) (e : Entry) (srcRow : W64) (sink : CopySink) (rowb pos : Nat) (stop : Option Stop) :
    State :=
  let here (s : State) (e : Entry) : State := setHead s core 2 urgent e
  let at_ : Entry := { e with state := .running, start := pos }
  match stop with
  | some (.trap c a) => here s { at_ with fault := some (c, a) }
  | some .poison => here s { at_ with fault := some (POISON, srcRow + BitVec.ofNat 64 pos) }
  | some (.page dva k acc ea) =>
    let row := match sink with
      | .mem r => if accWrites acc then r else srcRow
      | _ => srcRow
    copyPage s core urgent at_ row dva k acc ea
  | some (.ats page ea) => copyAts s core urgent at_ page ea
  | some _ => here s { at_ with state := .parked }
  | none =>
    if pos < rowb then here s at_
    else
      let s1 := match e.kind, e.bobSlot with
        | .copy _ _ _ dst _ _ _ _, some i =>
          let b := s.bobbin core (dst.toNat % 16)
          bobSettle (s.setBobbin core (dst.toNat % 16) (b.setSlot i (.committed, 9))) core (dst.toNat % 16)
        | _, _ => s
      here s1 { at_ with next := e.next + 1, start := 0, bobSlot := none }

/-- Copy the next unit of the current row. -/
def copyUnit (s : State) (core : Nat) (urgent : Bool) (e : Entry) (kind : BitVec 2) (src dst : W64) (sp dp : Int) (rowb el : Nat)
    (sink : CopySink) (ext : ExtReply) : State :=
  let key := keyOf core (e.slot % 16)
  match rowAddr src ((e.next : Int) * sp), (if kind = 0 then rowAddr dst ((e.next : Int) * dp) else .ok dst) with
  | .error (.trap c a), _ => setHead s core 2 urgent { e with fault := some (c, a) }
  | _, .error (.trap c a) => setHead s core 2 urgent { e with fault := some (c, a) }
  | .ok srow, .ok drow =>
    let sink := match sink with
      | .mem _ => CopySink.mem drow
      | x => x
    let stop := Nat.min rowb (e.start - e.start % 4096 + 4096)
    let r := copyPieces (stop - e.start) s key srow sink el ext e.start e.start stop
    copyAfter r.1 core urgent e srow sink rowb r.2.1 r.2.2
  | _, _ => s

/-- COPY_ROW: a copy's next unit; the first settles its alignment and its sink. `ext` brings the bytes of a source outside
the package. -/
def execCopyRow (core : Nat) (urgent : Bool) (ext : ExtReply) (s : State) : Out :=
  match copyHead s core urgent with
  | none => .next s
  | some e =>
    let t := s.thread (keyOf core (e.slot % 16))
    match e.kind with
    | .copy kind _ src dst sp rows rowb dp =>
      if rows ≤ e.next then .next s
      else
        match copyAligned t kind src dst sp dp rowb with
        | .error f => .next (setHead s core 2 urgent { e with fault := some f })
        | .ok el =>
          let go (s : State) (e : Entry) (sink : CopySink) : Out := .next (copyUnit s core urgent e kind src dst sp dp rowb el sink ext)
          if kind = 0 then go s e (.mem dst)
          else if kind = 1 then
            let n := dst.toNat % 16
            let b := s.bobbin core n
            (match e.bobSlot with
             | some i => go s e (.spad (b.base + i * b.slotsz))
             | none =>
               if !b.init || b.slotsz != rowb then
                 .next (setHead s core 2 urgent { e with fault := some (FORMAT, src + BitVec.ofInt 64 ((e.next : Int) * sp)) })
               else if 0 < b.free ∧ b.prodw = [] then
                 let i := b.resi
                 go (s.setBobbin core n (b.reserve 8)) { e with bobSlot := some i } (.spad (b.base + i * b.slotsz))
               else
                 let s1 := if b.prodw.contains (copyWaiter urgent) then s
                   else s.setBobbin core n { b with prodw := b.prodw ++ [copyWaiter urgent] }
                 .next (setHead s1 core 2 urgent { e with state := .parked }))
          else
            let fmt := (dst.extractLsb' 4 4).toNat
            let first := dst.toNat % 8
            let a := s.arch core
            if copyBlocked a urgent e then
              (if urgent ∧ bankConflict (headOf a.cq) (loadBanks e) false then .next (setHead s core 2 urgent { e with fault := some (ENGINE, 0) })
              else .next s)
            else
              let s1 := if e.begun then s else s.setArch core (invalidate a (loadBanks e))
              go s1 e (.cim fmt first)
    | _ => .next s

/-- COPY_END: a copy whose rows are done ends DONE, and makes its tile valid; one that met a fault ends FAULTED. -/
def execCopyEnd (core : Nat) (urgent : Bool) (s : State) : Out :=
  match (s.engine core 2 urgent).entries with
  | [] => .next s
  | e :: _ =>
    match e.fault, e.kind with
    | some (c, a), _ =>
      if e.page ∨ !dieReachable s (dieOf core) then .next s else .next (endEntry s core 2 urgent (.faulted c a))
    | none, .copy kind _ _ dst _ rows _ _ =>
      if (copyHead s core urgent).isSome ∧ rows ≤ e.next then
        let fmt : BitVec 4 := dst.extractLsb' 4 4
        let s1 := if kind = 2 then s.setArch core (validTile (s.arch core) fmt (dst.toNat % 8) (dst.extractLsb' 32 32)) else s
        .next (endEntry s1 core 2 urgent .done)
      else .next s
    | none, _ => .next s

end

end Sys2Proof.Machine
end

