-- ==== Sys2Proof/Machine/Page.lean ====
section
/-! DEFINITION. Pages (R342-R355): PINV and PPROBE, table walks, the pager's wakes and refusals, and ATS. -/

namespace Sys2Proof.Machine

noncomputable section

/-! ## Translation caches (R346, R349) -/

/-- Page size of a translation-cache key. -/
def tlbSize (key : Nat) : Nat := if key % 4 = 0 then 4096 else if key % 4 = 1 then 65536 else if key % 4 = 2 then 2 ^ 21 else 2 ^ 30
/-- The entry is of the partition and overlaps a range; a range of no length is every page. -/
def tlbOverlaps (part v len key : Nat) : Bool :=
  decide (key / 4 / 2 ^ 35 = part) &&
    (decide (len = 0) || overlaps (key / 4 % 2 ^ 35 * 4096) (tlbSize key) v len)

/-- Drop a range from the translation cache of every cluster. -/
def dropPages (s : State) (part v len : Nat) : State :=
  { s with clusters := s.clusters.map (fun c => (c.1, { c.2 with tlb := c.2.tlb.filter (fun e => !tlbOverlaps part v len e.1) })) }

/-- A line key is of the partition and its line overlaps the range. -/
def lineIn (part v len key : Nat) : Bool :=
  decide (key / 2 ^ 41 = part) && (decide (len = 0) || overlaps (key % 2 ^ 41 * 64) 64 v len)

/-- Write back and drop the staging copies and L1 data and instruction lines of a range everywhere, and empty every constant cache. -/
def flushPages (s : State) (part v len : Nat) : State :=
  let s1 := (s.clusters.map (·.1)).foldl (fun s clu =>
    (((s.cluster clu).staging.map (·.1)).filter (lineIn part v len)).foldl (fun s k => dropLine (writeBackLine s clu k) clu k)
      (flushWb s clu)) s
  { s1 with cores := s1.cores.map (fun c => (c.1, { c.2 with l1 := c.2.l1.filter (fun x => !lineIn part v len x.1), l1i := c.2.l1i.filter (fun x => !lineIn part v len x.1), cc := [] })) }

/-- What a PINV with fl writes back can reach its homes (R18). -/
def pagesOpen (s : State) (part v len : Nat) : Bool :=
  s.clusters.all (fun c => c.2.wb.all (fun w => homeUp s w.copy) &&
    c.2.staging.all (fun kl => !lineIn part v len kl.1 || kl.2.dirty = 0 || homeUp s kl.2))

/-- An address of a thread falls into a range of its partition's DVA space. -/
def addrIn (t : Thread) (v len : Nat) (ea : W64) : Bool :=
  let g := t.seg (ea.extractLsb' 61 3).toNat
  let a := g.base.toNat + (ea.extractLsb' 0 61).toNat
  (g.kind == 1 || g.kind == 0) && (decide (len = 0) || (decide (v ≤ a) && decide (a < v + len)))

/-- An access translated through an entry of the range is still under way (R349). -/
def pagesPending (s : State) (part v len : Nat) : Bool :=
  let mine (e : StoreEntry) : Bool := e.part.toNat == part && match e.place with
    | .global dva _ _ => decide (len = 0) || (decide (v ≤ dva) && decide (dva < v + len))
    | _ => false
  s.cores.any (fun c => c.2.storeq.any mine) || s.threads.any (fun x =>
    (s.partOf (coreOf x.1) == part && x.2.cmp.any mine) ||
      (s.partOf (coreOf x.1) == part && match waiting s x.1 with
        | some w => w.kind == 0x01 && ((loadOf w.instr).isSome || (atomicOf w.instr).isSome || (ldaOf w.instr).isSome) && addrIn x.2 v len w.eval
        | none => false))

/-- The partition a PINV names: the issuer's, or PINVP's on a service core. -/
def pinvPart (s : State) : Nat :=
  if 1280 ≤ s.myCore then (s.die (dieOf s.myCore)).pinvp.toNat else s.partOf s.myCore

/-- PINV: in flight until every access translated through a dropped entry has been performed. -/
def execPinv (b a d : Reg) (s : State) : Out :=
  privileged (.pinv b a d) 1 s (
    run (.pinv b a d) s (do
      let v := (s.me.rg a).toNat
      let w := s.me.rg b
      let len := (w.extractLsb' 0 62).toNat
      if w.getLsbD 62 ∨ v % 4096 ≠ 0 ∨ len % 4096 ≠ 0 ∨ 2 ^ 47 < v + len then return s.finishG d 1 6
      else
        let part := pinvPart s
        let s1 := dropPages s part v len
        if pagesPending s1 part v len || (w.getLsbD 63 && !pagesOpen s1 part v len) then return s1
        else
          let s2 := if w.getLsbD 63 then flushPages s1 part v len else s1
          return s2.finishG d 0 6))

/-! ## Probes (R350, R351) -/

/-- The probe word of a leaf for a DVA. -/
def probeWord (s : State) (part dva : Nat) (l : Leaf) : W64 :=
  let w := l.word
  let cls := leafCls w
  let size : BitVec 2 := if l.size = 4096 then 0 else if l.size = 65536 then 1 else if l.size = 2 ^ 21 then 2 else 3
  let home := if cls = 4 then 0 else homeOf s part dva (leafPA w + dva % l.size) w
  BitVec.ofBool true ++ BitVec.ofNat 3 cls ++ w.extractLsb' 60 1 ++ w.extractLsb' 59 1 ++ size ++
    BitVec.ofBool (cls == 2 && w.getLsbD 7) ++ w.extractLsb' 6 1 ++ w.extractLsb' 3 1 ++ w.extractLsb' 2 1 ++ w.extractLsb' 1 1 ++
    0#8 ++ BitVec.ofNat 11 home ++ BitVec.ofNat 8 (if cls = 4 then leafLease w else 0) ++ 0#24

/-- The DVA a probe names, none where the segment is not global or the offset lies outside. -/
def probeDva (t : Thread) (ea : W64) : Option Nat :=
  let g := t.seg (ea.extractLsb' 61 3).toNat
  let o := (ea.extractLsb' 0 61).toNat
  if g.kind = 1 ∧ o < g.lim.toNat ∧ g.base.toNat + o < 2 ^ 47 then some (g.base.toNat + o) else none

/-- A fault of the page is outstanding in the cluster. -/
def recordOpen (s : State) (clu part dva : Nat) : Bool :=
  (s.die (recordDie clu)).pagers.any (fun r => r.clu == clu && r.part.toNat == part && r.dva / 4096 == dva / 4096)

/-- PPROBE. -/
def execPprobe (a d : Reg) (s : State) : Out :=
  run (.pprobe a d) s
    (match probeDva s.me (s.me.rg a) with
     | none => .ok (s.finishG d 0 10)
     | some dva =>
       let part := s.partOf s.myCore
       match tlbFind (s.cluster (clusterOf s.myCore)) part dva with
       | some l => .ok (s.finishG d (probeWord s part dva l) 10)
       | none =>
         if recordOpen s (clusterOf s.myCore) part dva then .ok (s.finishG d 0 10)
         else .error (.park 0x01 (s.me.rg a) false [] []))

/-- Probes of a cluster that wait for the walk of a page are answered. -/
def answerProbes (s : State) (clu part dva : Nat) (r : Option Leaf) : State :=
  (s.threads.map (·.1)).foldl (fun s key =>
    if clusterOf (coreOf key) ≠ clu ∨ s.partOf (coreOf key) ≠ part then s
    else
      match waiting s key with
      | some w =>
        if w.kind ≠ 0x01 then s else
        (match w.instr with
         | .pprobe _ d =>
           (match probeDva (s.thread key) w.eval with
            | some v =>
              if v / 4096 = dva / 4096 then
                answer s key (Reply.reg d (match r with
                  | some l => probeWord s part v l
                  | none => 0))
              else s
            | none => s)
         | _ => s)
      | none => s) s

/-- TABLE_WALK_END: a walk of a cluster ends with a leaf, which enters the cache, or with a fault, whose record is made where
an access asked (R342, R344, R347). It reads no table on a die that relocks (R18). -/
def execTableWalkEnd (clu : Nat) (part : BitVec 4) (dva : Nat) (acc : BitVec 4) (src : BitVec 5) (s : State) : Out :=
  if 324 ≤ clu ∨ 2 ^ 47 ≤ dva ∨ !walkReachable s part.toNat dva then .next s
  else
    let p := part.toNat
    match walk s p dva with
    | .leaf l =>
      let ok : Bool := acc != 0 && leafAllows l.word acc && !(leafCls l.word == 2 && l.word.getLsbD 7)
      let l' : Leaf := { l with word := l.word ||| (if ok then (if accWrites acc then 0x300 else 0x100) else 0) }
      let s1 := if ok then setAD s l acc else s
      .next (answerProbes (s1.setCluster clu (tlbPut (s1.cluster clu) p dva l')) clu p dva (some l))
    | .fault k =>
      let s1 := if acc = 0 then s else joinRecords s (recordDie clu) clu p dva k acc src []
      .next (answerProbes s1 clu p dva none)

/-! ## The pager's messages (R348) -/

/-- The context that a slot's partition has here is live. -/
def liveFor (s : State) (part : Nat) (key : Nat) : Bool := !(offThreads s part).any (fun x => x.1 == key)

/-- A dropped thread is woken: it issues again from its start. -/
def wakeDropped (s : State) (part key : Nat) : State :=
  if liveFor s part key then
    if (s.thread key).state = .dropped then repauseIf6 (s.setThread key (s.thread key).resume) key else s
  else bufferReply s part key { kind := 2, word := 0, tid := 0, reply := none }

/-- A dropped thread traps PAGE. -/
def refuseDropped (s : State) (part key : Nat) (eval : W64) : State :=
  if liveFor s part key then
    if (s.thread key).state = .dropped then trapOut s key PAGE eval 0 none else s
  else bufferReply s part key { kind := 3, word := eval, tid := 0, reply := none }

/-- The head of a copy queue that is held on a page. -/
def heldHead (s : State) (core : Nat) (copy urgent : Bool) (f : Entry → Entry) : State :=
  let eng := if copy then 2 else 1
  match (s.engine core eng urgent).entries with
  | e :: _ => if e.page then setHead s core eng urgent (f e) else s
  | [] => s

/-- Drop the held pack of a stream, or let it trap. -/
def streamPage (s : State) (core slot n : Nat) (dva : Nat) (refuse : Bool) : State :=
  let key := keyOf core slot
  let t := s.thread key
  let x := t.stream n
  let here (p : Pack) : Bool := p.cause == 0xFF && decide (((t.seg (p.addr.extractLsb' 61 3).toNat).base.toNat + (p.addr.extractLsb' 0 61).toNat) / 4096 = dva / 4096)
  s.setThread key (t.setStream n { x with
    packs := if refuse then x.packs.map (fun p => if here p then { p with cause := PAGE } else p) else x.packs.filter (fun p => !here p) })

/-- One joined access is woken. -/
def wakeJoined (part dva : Nat) (s : State) (j : Joined) : State :=
  match j with
  | .thread core slot _ => wakeDropped s part (keyOf core slot)
  | .engine core copy urgent => heldHead s core copy urgent (fun e => { e with page := false, fault := none })
  | .run core slot _ =>
    let key := keyOf core slot
    (match (s.thread key).run with
     | some r => setRun s key (some { r with held := false })
     | none => s)
  | .stream core slot n => streamPage s core slot n dva false
  | .weft _ _ _ => s
  | .dispatch q serial => validateKernel s q serial
  | .spill p => s.setPart p { s.part p with spw := false }
  | .peer => peerPage s part dva false

/-- One joined access is refused. -/
def refuseJoined (part dva : Nat) (s : State) (j : Joined) : State :=
  match j with
  | .thread core slot eval => refuseDropped s part (keyOf core slot) eval
  | .engine core copy urgent => heldHead s core copy urgent (fun e => { e with page := false })
  | .run core slot eval =>
    let key := keyOf core slot
    (match (s.thread key).run with
     | some r =>
       let s1 := if replyDue s key then deliver s key else s
       if stallCounts (s1.thread key) && !twinLag s1 key && !replyDue s1 key then runTrap s1 key { r with held := false } PAGE eval 0
       else setRun s1 key (some { r with held := false })
     | none => s)
  | .stream core slot n => streamPage s core slot n dva true
  | .weft core slot eval =>
    let key := keyOf core slot
    let r := Reply.fail PAGE eval
    if !(s.part part).skeins.any (fun x => x.2.holds key) then s
    else
      let s1 := withdrawSkein s part key
      if liveFor s part key then answer s1 key r else bufferReply s1 part key (Deferred.ofReply r)
  | .dispatch q serial => failValidation s q serial PAGE
  | .peer => peerPage s part dva true
  | .spill p => if (s.part p).ctx = .restoring then failRestore s p PAGE else abandonSpill s p (s.part p).soff

/-- End a record of a die's pager with `f` for each joined access. -/
def endRecord (s : State) (die : Nat) (rid : W32) (f : Nat → Nat → State → Joined → State) : State :=
  let x := s.die die
  match x.pagers.find? (fun r => r.rid == rid) with
  | none => s
  | some r =>
    let s1 := s.setDie die { x with pagers := x.pagers.filter (fun y => y.rid != rid) }
    r.joined.foldl (f r.part.toNat r.dva) s1

/-- PGWAKE_WAKE. -/
def execPgwakeWake (die : BitVec 2) (rid : W32) (s : State) : Out := .next (endRecord s die.toNat rid wakeJoined)
/-- PGWAKE_REFUSE. -/
def execPgwakeRefuse (die : BitVec 2) (rid : W32) (s : State) : Out := .next (endRecord s die.toNat rid refuseJoined)

/-! ## ATS (R354, R355) -/

/-- The address of a thread's dropped access. -/
def atsWake (page : Nat) (s : State) (j : Joined) : State :=
  match j with
  | .thread core slot _ => wakeDropped s (s.partOf core) (keyOf core slot)
  | j => wakeJoined 0 (page * 4096) s j

def atsRefuse (page : Nat) (s : State) (j : Joined) : State :=
  match j with
  | .thread core slot eval => refuseDropped s (s.partOf core) (keyOf core slot) eval
  | .engine core copy urgent => heldHead s core copy urgent (fun e => { e with page := false, fault := e.fault.map (fun f => (PAGE, f.2)) })
  | j => refuseJoined 0 (page * 4096) s j

/-- ATS_RESPONSE: what the host answers for a page, to the port's translation request or, once that was answered `not present`, to its
PRI Page Request. A translation enters the 512-entry cache; it or a successful Page Response lets the waiting accesses issue again; a
failed Page Response traps them PAGE (R354). -/
def execAtsResponse (page : Nat) (ok : Bool) (s : State) : Out :=
  let js := (s.host.atsWait.filter (fun x => x.1 == page)).map (·.2)
  let paged := s.host.pri.contains page
  if !ok && !paged then
    .next (if js.isEmpty then s else { s with host := { s.host with pri := s.host.pri ++ [page] } }.send (.priRequest page))
  else
    let room := s.host.ats.length < 512 ∨ s.host.ats.contains page
    let ats := if ok && !paged then sadd (if room then s.host.ats else s.host.ats.drop 1) page else s.host.ats
    let s1 := { s with host := { s.host with
      atsWait := s.host.atsWait.filter (fun x => x.1 != page), ats := ats, pri := s.host.pri.filter (· != page) } }
    .next (js.foldl (if ok then atsWake page else atsRefuse page) s1)

/-- A host access translated through an entry of a range has not left the port. -/
def atsPending (s : State) (page count : Nat) : Bool :=
  let hit (a : Nat) : Bool := decide (page ≤ a / 4096) && decide (a / 4096 < page + count)
  s.cores.any (fun c => c.2.storeq.any (fun e => match e.place with
    | .host a => hit a
    | _ => false)) ||
  s.threads.any (fun x => match waiting s x.1 with
    | some w =>
      let g := x.2.seg (w.eval.extractLsb' 61 3).toNat
      w.kind == 0x01 && w.remote.isSome && g.kind == 5 && hit (g.base.toNat + (w.eval.extractLsb' 0 61).toNat)
    | none => false)

/-- ATS_INVALIDATION: matching entries are dropped, so new accesses that match wait; the completion is sent once every
affected access has left (log 41). -/
def execAtsInvalidation (page count : Nat) (s : State) : Out :=
  let s1 := { s with host := { s.host with ats := s.host.ats.filter (fun p => p < page || page + count ≤ p) } }
  .next (if atsPending s1 page count then s1 else s1.send (.atsComplete page count))

end

end Sys2Proof.Machine
end

