-- ==== Sys2Proof/Machine/Lease.lean ====
section
/-! DEFINITION. Leases (R356-R362): request, grant, reclaim granule by granule, revocation, and the LEASE instructions. -/

namespace Sys2Proof.Machine

noncomputable section

/-- A lease entry; an unlisted one is FREE. -/
def State.lease (s : State) (part n : Nat) : Lease := tget {} (s.part part).leases n
def State.setLease (s : State) (part n : Nat) (x : Lease) : State :=
  s.setPart part { s.part part with leases := tput (s.part part).leases n x }

/-- The LQRY status word (R361). -/
def Lease.word (x : Lease) : W64 :=
  x.state ++ BitVec.ofBool x.den ++ BitVec.ofBool x.lost ++ 0#11 ++ x.lpkg ++ 0#6 ++ x.ngrant ++ x.ncopy ++ 0#8

/-- The event of a lease returned or revoked (R400), on die 0 (log 42). -/
def leaseEvent (s : State) (part n : Nat) : State :=
  pushEvent s 0 0x06 0xFF (BitVec.ofNat 8 part) 0xFFFF 0 (BitVec.ofNat 64 n) (s.lease part n).word

/-! ## Granules (R357) -/

/-- Rewrite the leaves by which a partition maps a granule through its lease. -/
def rewriteLeaves (s : State) (part n base : Nat) (f : Nat → W64 → W64) : State :=
  upTo 512 (fun s j =>
    match walk s part (base + 4096 * j) with
    | .leaf l =>
      if leafCls l.word = 4 ∧ leafLease l.word = n then
        { s with mem := { s.mem with ram := mwriteN s.mem.ram l.entry (bytesOfNat 8 (f j l.word).toNat) } }
      else s
    | .fault _ => s) s

/-- A leaf demoted to its fallback frame: CLS LC, HMODE 0, DMT, the same rights. -/
def demoted (frame j : Nat) (w : W64) : W64 :=
  let off := if w.getLsbD 10 then 0 else if w.getLsbD 11 then j / 16 * 65536 else j * 4096
  let keep : W64 := w &&& 0x1800000000000F0F
  keep ||| (BitVec.ofNat 64 ((frame + off) / 4096 % 2 ^ 28)) <<< 18 ||| 0x40

/-- Put a granule into its frame: the lender's bytes, or zeros. -/
def fillFrame (m : Memory) (frame : Nat) (data : Mem) : Memory :=
  let out (a : Nat) : Bool := decide (a < frame) || decide (frame + 2 ^ 21 ≤ a)
  let ram := m.ram.filter (fun c => out c.1)
  { m with ram := data.foldl (fun r c => if c.1 < 2 ^ 21 then mwrite r (frame + c.1) c.2 else r) ram,
           ramPoison := m.ramPoison.filter (fun k => out (16 * k)) }

/-- Threads parked on the lease's pages from `base` for `len` bytes issue again, or trap LEASEGONE. -/
def wakeLease (s : State) (part base len : Nat) (gone : Bool) : State :=
  let reply (t : Thread) (w : Wait) : Option Reply :=
    if w.kind = 0x12 ∧ addrIn t base len w.eval then some (if gone then Reply.fail LEASEGONE w.eval else Reply.again) else none
  answerOff ((s.keysOf part).foldl (fun s key =>
    match waiting s key with
    | some w =>
      (match reply (s.thread key) w with
       | some r => answer s key r
       | none => s)
    | none => s) s) part reply

/-- Steps 3 to 5 for one granule: its frame is filled, its leaves rewritten and dropped, its waiters woken. -/
def demoteGranule (s : State) (part n g : Nat) (data : Mem) (count : Bool) : State :=
  let x := s.lease part n
  let base := x.dva + g * 2 ^ 21
  let frame := x.frames.getD g 0
  let s1 := { s with mem := fillFrame s.mem frame data }
  let s2 := dropPages (rewriteLeaves s1 part n base (demoted frame)) part base (2 ^ 21)
  let x1 := s2.lease part n
  let s3 := s2.setLease part n { x1 with copied := sadd x1.copied g, ncopy := if count then x1.ncopy + 1 else x1.ncopy }
  wakeLease s3 part base (2 ^ 21) false

/-- Accesses already sent to the lender for a granule are not complete yet (step 2). -/
def granuleBusy (s : State) (part base : Nat) : Bool := pagesPending s part base (2 ^ 21)

/-- An ACTIVE lease begins its reclaim (R356). -/
def beginReclaim (s : State) (part n : Nat) : State :=
  let x := s.lease part n
  if x.state = 2 then s.setLease part n { x with
    state := 3, deadline := s.tim + x.tEvict * 1000, since := s.tim, copied := [], ncopy := 0 } else s

/-- A lease is REVOKED (R358): granules never accessed are demoted with zeroed frames; the others that were not copied are
lost. -/
def revokeLease (s : State) (part n : Nat) : State :=
  let x0 := s.lease part n
  let s0 := if x0.state = 2 then s.setLease part n { x0 with copied := [], ncopy := 0 } else s
  let x := s0.lease part n
  let gs := List.range x.ngrant.toNat
  let s1 := (gs.filter (fun g => !x.accessed.contains g && !x.copied.contains g)).foldl (fun s g => demoteGranule s part n g [] true) s0
  let lost := gs.filter (fun g => x.accessed.contains g && !x.copied.contains g)
  let s2 := s1.setLease part n { s1.lease part n with state := 5, lost := !lost.isEmpty }
  leaseEvent (lost.foldl (fun s g => wakeLease s part (x.dva + g * 2 ^ 21) (2 ^ 21) true) s2) part n

/-! ## Events -/

/-- LEASE_GRANT: ACTIVE, and TOKS on its token; Treadle has mapped the granules BW before it (log 43). -/
def execLeaseGrant (part : BitVec 4) (n : Byte) (ngrant : BitVec 12) (tEvict termEnd : Nat) (frames : List Nat) (s : State) : Out :=
  let p := part.toNat
  let x := s.lease p n.toNat
  if x.state ≠ 1 ∨ x.ngran < ngrant.toNat then .next s
  else
    let s1 := s.setLease p n.toNat { x with
      state := 2, ngrant := ngrant, tEvict := if tEvict < 20 ∨ 2000 < tEvict then 250 else tEvict, termEnd := termEnd, frames := frames,
      accessed := [], copied := [], ncopy := 0, lost := false }
    .next (if x.tok = 0xFFFF then s1 else settle (tokenSignal s1 p x.tok.toNat 1).1)

/-- LEASE_DENY: RETURNED with DEN, and TOKE on its token. -/
def execLeaseDeny (part : BitVec 4) (n : Byte) (s : State) : Out :=
  let p := part.toNat
  let x := s.lease p n.toNat
  if x.state ≠ 1 then .next s
  else
    let s1 := leaseEvent (s.setLease p n.toNat { x with state := 4, den := true }) p n.toNat
    .next (if x.tok = 0xFFFF then s1 else settle (tokenError s1 p x.tok.toNat))

/-- LEASE_RECLAIM: a second reclaim changes nothing. -/
def execLeaseReclaim (part : BitVec 4) (n : Byte) (s : State) : Out := .next (beginReclaim s part.toNat n.toNat)

/-- LEASE_TERM_END. -/
def execLeaseTermEnd (part : BitVec 4) (n : Byte) (s : State) : Out :=
  let x := s.lease part.toNat n.toNat
  if x.termEnd ≠ 0 ∧ x.termEnd ≤ s.tim then .next (beginReclaim s part.toNat n.toNat) else .next s

/-- RECLAIM_GRANULE_COPY: an accessed granule takes the lender's bytes; one never accessed takes zeros, after those. -/
def execReclaimGranuleCopy (part : BitVec 4) (n : Byte) (granule : Nat) (data : List Host.Cell) (s : State) : Out :=
  let p := part.toNat
  let x := s.lease p n.toNat
  let touched := x.accessed.contains granule
  if x.state ≠ 3 ∨ x.ngrant.toNat ≤ granule ∨ x.copied.contains granule ∨ granuleBusy s p (x.dva + granule * 2 ^ 21) ∨
      (!touched ∧ x.accessed.any (fun g => !x.copied.contains g)) then .next s
  else .next (demoteGranule s p n.toNat granule (if touched then data else []) touched)

/-- LEASE_ACK: every granule is demoted. -/
def execLeaseAck (part : BitVec 4) (n : Byte) (s : State) : Out :=
  let p := part.toNat
  let x := s.lease p n.toNat
  if x.state = 3 ∧ (List.range x.ngrant.toNat).all (fun g => x.copied.contains g) then
    .next (leaseEvent ((s.setLease p n.toNat { x with state := 4 }).send (.leaseAck part n.toNat)) p n.toNat)
  else .next s

/-- RECLAIM_DEADLINE: not while a die involved relocks, which lengthens it (R19). -/
def execReclaimDeadline (part : BitVec 4) (n : Byte) (s : State) : Out :=
  let x := s.lease part.toNat n.toNat
  if x.state = 3 ∧ x.deadline ≤ s.tim ∧ (List.range 4).all (fun d => dieReachable s d || !x.involves d) then .next (revokeLease s part.toNat n.toNat) else .next s

/-- Leases whose lender's link is FAILED are revoked (R356). -/
def revokeFailed (s : State) : State :=
  s.parts.foldl (fun s p => p.2.leases.foldl (fun s l =>
    let x := s.lease p.1 l.1
    if (x.state = 2 ∨ x.state = 3) ∧ peerState s x.lpkg = .failed then revokeLease s p.1 l.1 else s) s) s

/-! ## LREQ, LREL, LQRY (R359, R360) -/

/-- The places of a request block, checked. -/
def leaseBlock (s : State) (key : Nat) (ea : W64) : Except Stop (State × List Place) := do
  need (ea.extractLsb' 0 5 = 0) ALIGN ea
  let (kind, o) ← segCheck (s.thread key) ea 32 rightR
  need (kind ≠ 2 ∨ o < 0x400000) SEGV ea
  resolveRange s key ea kind o 2 0

/-- The thread's request is on its way with its block. -/
def leaseSent (s : State) (key : Nat) (bs : List Byte) : State :=
  let t := s.thread key
  s.setThread key { t with wait := t.wait.map (fun w => { w with taken := mwriteN [] 0 bs, sent := true }) }

/-- LREQ: the block is read, and the thread parks on the lease unit; a block that a lock of another core holds is read when the lock
is released (R65). -/
def execLreq (a d : Reg) (s : State) : Out :=
  run (.lreq a d) s (do
    let key := s.cur
    let ea := s.me.rg a
    let (s1, ps) ← leaseBlock s key ea
    if ps.any Place.external then .error (.park 0x01 ea true [] ((ps.take 1).flatMap (fun p => requestMsgs (.lreq a d) s1 key p none)))
    else if ps.any (fun p => placeHeld s1 key p 16) then return parkMe s1 0x01 ea (.lreq a d)
    else
      let (s2, bs, bad) ← readPlaces s1 key ps
      if bad then .error .poison
      return leaseSent (parkMe s2 0x01 ea (.lreq a d)) key bs)

/-- The block of a parked request that a lock held is read now. -/
def leaseRead (s : State) (key : Nat) (ea : W64) : Except Stop State := do
  let (s1, ps) ← leaseBlock s key ea
  let (s2, bs, bad) ← readPlaces s1 key ps
  if bad then .error .poison
  return leaseSent s2 key bs

/-- The status of a request block for a partition, with the entry it takes (R360). -/
def leaseRequestResult (s : State) (part : Nat) (b : List Byte) : Nat × Nat :=
  let f (o n : Nat) : Nat := fieldAt b o n
  let len := 2 ^ 21 * f 2 2
  if f 6 2 ≠ 0 ∨ f 24 8 ≠ 0 ∨ 1023 < f 0 2 ∨ f 0 2 = s.pk.pkg.toNat ∨ f 2 2 = 0 ∨ 2048 < f 2 2 ∨ f 8 8 % 2 ^ 21 ≠ 0 ∨
      2 ^ 47 < f 8 8 + len then (2, 0)
  else if (List.range 256).any (fun i =>
      let x := s.lease part i
      x.state != 0 && overlaps (f 8 8) len x.dva (2 ^ 21 * x.ngran)) then (3, 0)
  else
    match (List.range 256).find? (fun i => (s.lease part i).state == 0) with
    | none => (1, 0)
    | some n => (0, n)

/-- The request is performed at the lease unit: an accepted one is REQUESTED and Treadle is told. -/
def leaseRequest (s : State) (key : Nat) (w : Wait) (d : Reg) : State :=
  let part := s.partOf (coreOf key)
  let b := mreadN w.taken 0 32
  let r := leaseRequestResult s part b
  let s1 :=
    if r.1 = 0 then
      let x : Lease :=
        { state := 1, lpkg := BitVec.ofNat 10 (fieldAt b 0 2), ngran := fieldAt b 2 2, tok := BitVec.ofNat 16 (fieldAt b 4 2),
          dva := fieldAt b 8 8, term := BitVec.ofNat 64 (fieldAt b 16 8) }
      (s.setLease part r.2 x).send (.leaseRequest (BitVec.ofNat 4 part) r.2 x.lpkg x.ngran x.term)
    else s
  answer s1 key (Reply.reg d (BitVec.ofNat 64 (r.1 * 2 ^ 56 + r.2)))

/-- LREL: keep begins a reclaim; discard returns the lease with its pages absent. -/
def execLrel (b a d : Reg) (s : State) : Out :=
  run (.lrel b a d) s
    (let n := (s.me.rg a).toNat
     let m := (s.me.rg b).toNat
     let part := s.partOf s.myCore
     let x := s.lease part n
     if 255 < n ∨ 1 < m then .ok (s.finishG d 2 6)
     else if x.state = 4 ∨ x.state = 5 then .ok ((s.setLease part n {}).finishG d 0 6)
     else if x.state ≠ 2 then .ok (s.finishG d 1 6)
     else if m = 1 then .ok ((beginReclaim s part n).finishG d 0 6)
     else
       let s1 := (List.range x.ngrant.toNat).foldl (fun s g =>
         rewriteLeaves s part n (x.dva + g * 2 ^ 21) (fun _ w => w &&& ~~~1#64)) s
       let s2 := dropPages s1 part x.dva (2 ^ 21 * x.ngrant.toNat)
       .ok ((leaseEvent (s2.setLease part n { x with state := 4 }) part n).finishG d 0 6))

/-- LQRY. -/
def leaseWord (x : Lease) (n : Nat) : W64 :=
  match n with
  | 0 => x.word
  | 1 => BitVec.ofNat 64 x.dva
  | 2 => if x.state = 3 then BitVec.ofNat 64 x.deadline else 0
  | 3 => BitVec.ofNat 64 x.termEnd
  | _ => BitVec.ofNat 64 x.tEvict

def execLqry (n : BitVec 5) (a d : Reg) (s : State) : Out :=
  let k := (s.me.rg a).toNat
  .next (s.finishG d (if 255 < k then 0 else leaseWord (s.lease (s.partOf s.myCore) k) n.toNat) 6)

end

end Sys2Proof.Machine
end

