-- ==== Sys2Proof/Machine/Link.lean ====
section
/-! DEFINITION. The ports of the fabric (R363-R366), what follows a change of a peer's state (R234, R356, R374, R375), and the
load of the domain's time (R106). -/

namespace Sys2Proof.Machine

noncomputable section

/-- The number of a port's state (R403). -/
def PortState.code : PortState → Nat
  | .down => 0
  | .training => 1
  | .up => 2
  | .retraining => 3
  | .failed => 4
  | .fenced => 5

/-! ## What follows a change of a peer's state -/

/-- LIVE subscriptions whose publisher's route is DOWN or FAILED become STALE (R375). -/
def staleSubs (s : State) : State :=
  { s with parts := s.parts.map (fun p => (p.1, { p.2 with subs := p.2.subs.map (fun x =>
      (x.1, if x.2.live && pkgFailed s x.2.ppkg then { x.2 with stale := true } else x.2)) })) }

/-- Fences that hold count a peer as failed whose link has become FAILED or DOWN (R234). -/
def failFences (s : State) : State :=
  { s with threads := s.threads.map (fun x => (x.1, { x.2 with peers := x.2.peers.map (fun p =>
      (p.1, if x.2.fenceStart.isSome && !p.2.pending.isEmpty && pkgFailed s (BitVec.ofNat 10 p.1) then { p.2 with failed := true } else p.2)) })) }

/-- So do kernels that wait at their end (R311). -/
def failKernels (s : State) : State :=
  { s with queues := s.queues.map (fun x => (x.1, { x.2 with kernels := x.2.kernels.map (fun k =>
      if k.holdAt.isSome && k.unacked.any (fun u => pkgFailed s u.2.1) then
        { k with unacked := k.unacked.filter (fun u => !pkgFailed s u.2.1), refused := true }
      else k) })) }

/-- MCST members that have failed (R374). -/
def failMcsts (s : State) : State :=
  (s.threads.flatMap (fun x => (x.2.mcstOpen.filter (fun y => pkgFailed s y.pkg)).map (fun y => (x.1, y)))).foldl
    (fun s y => mcstFail s y.1 y.2) s

/-- A peer's state may have changed. -/
def peersChanged (s : State) : State := revokeFailed (staleSubs (failMcsts (failKernels (failFences s))))

/-! ## Ports (R364) -/

/-- Put a port into a state, since now. -/
def setPort (s : State) (port : BitVec 4) (st : PortState) : State :=
  peersChanged (noteRemaps s { s with links := { s.links with
    ports := tput s.links.ports port.toNat st, since := tput s.links.since port.toNat s.tim } })

/-- The event to Treadle of a port's change (R364, R400). -/
def portEvent (s : State) (port : BitVec 4) (st : PortState) : State :=
  pushEvent s (port.toNat / 4) 0x05 0xFF 0xFF 0xFFFF 0 (port.setWidth 64) (BitVec.ofNat 64 st.code)

/-- Move a port from a state where `p` holds. -/
def movePort (s : State) (port : BitVec 4) (p : PortState → Bool) (st : PortState) (event : Bool) : State :=
  if p (portState s port.toNat) then
    (if event then portEvent (setPort s port st) port st else setPort s port st)
  else s

/-- Ticks since a port entered its state. -/
def portAge (s : State) (port : BitVec 4) : Nat := s.tim - tget 0 s.links.since port.toNat

def execPortcEnable (port : BitVec 4) (s : State) : Out := .next (movePort s port (· == .down) .training false)
def execPortcFence (port : BitVec 4) (s : State) : Out := .next (movePort s port (fun _ => true) .fenced false)
def execPortcDisable (port : BitVec 4) (s : State) : Out := .next (movePort s port (fun st => st == .failed || st == .fenced) .down false)

/-- TRAINING_TIMEOUT: 10 ms. -/
def execTrainingTimeout (port : BitVec 4) (s : State) : Out :=
  if portAge s port < 10000000 then .next s else .next (movePort s port (· == .training) .failed true)

def execLinkError (port : BitVec 4) (s : State) : Out := .next (movePort s port (· == .up) .retraining false)
def execRetrainComplete (port : BitVec 4) (s : State) : Out := .next (movePort s port (· == .retraining) .up false)

/-- RETRAIN_TIMEOUT: 2 ms. -/
def execRetrainTimeout (port : BitVec 4) (s : State) : Out :=
  if portAge s port < 2000000 then .next s else .next (movePort s port (· == .retraining) .failed true)

def execPartnerLost (port : BitVec 4) (s : State) : Out :=
  .next (movePort s port (fun st => st == .training || st == .up || st == .retraining) .down true)

/-- SWITCH_NO_PATH: a switch has lost its path to a package, or has found it again. -/
def execSwitchNoPath (pkg : BitVec 10) (lost : Bool) (s : State) : Out :=
  let l := s.links.noPath.filter (· != pkg)
  .next (peersChanged { s with links := { s.links with noPath := if lost then l ++ [pkg] else l } })

/-! ## The load of TIM (R106) -/

/-- A deadline in ticks moves. -/
def later (k : Nat) (d : Option Nat) : Option Nat := d.map (· + k)

/-- Ticks of a thread that count whether or not its context runs. -/
def shiftTicks (k : Nat) (t : Thread) : Thread :=
  { t with
    fwdTick := t.fwdTick + k, fenceStart := t.fenceStart.map (fun h => (h.1 + k, h.2)),
    peers := t.peers.map (fun p => (p.1, { p.2 with pending := p.2.pending.map (fun x => (x.1, x.2 + k)) })),
    mcstOpen := t.mcstOpen.map (fun x => { x with tick := x.tick + k }),
    wait := t.wait.map (fun w => match w.instr with
      | .sleep _ _ => { w with aux := if w.aux = 0 then 0 else w.aux + k }
      | _ => w) }

/-- Deadlines that stand still while a context does not run (R329). -/
def shiftLimits (k : Nat) (t : Thread) : Thread :=
  { t with
    wait := t.wait.map (fun w => { w with deadline := later k w.deadline, remote := later k w.remote }),
    run := t.run.map (fun r => { r with stall := r.stall.map (fun x => (x.1, x.2.1, later k x.2.2)) }) }

/-- A live thread's deadlines: those of a context that does not run move when it runs again. -/
def shiftThread (s : State) (k key : Nat) (t : Thread) : Thread :=
  let c := coreOf key
  if decide (c < 1280) && (s.core c).asg && (s.part (s.partOf c)).frozenAt.isSome then shiftTicks k t else shiftLimits k (shiftTicks k t)

/-- A held context's deadlines. -/
def shiftSaved (k : Nat) (x : Saved) : Saved := { x with threads := x.threads.map (fun t => (t.1, shiftTicks k t.2)) }

/-- A kernel's deadlines. -/
def shiftKernel (k : Nat) (x : Kernel) : Kernel :=
  { x with wdStart := x.wdStart + k, holdAt := x.holdAt.map (fun h => (h.1 + k, h.2)),
           unacked := x.unacked.map (fun u => (u.1, u.2.1, u.2.2.1, u.2.2.2 + k)) }

/-- Every deadline counting in ticks moves by the same amount. -/
def shiftAll (s : State) (k : Nat) : State :=
  let at_ (w : PeerWait) : PeerWait := { w with tick := w.tick + k }
  { s with
    pk := { s.pk with dumpDue := later k s.pk.dumpDue },
    threads := s.threads.map (fun x => (x.1, shiftThread s k x.1 x.2)),
    cores := s.cores.map (fun c => (c.1, { c.2 with shadow := c.2.shadow.map (shiftSaved k) })),
    images := s.images.map (fun i => { i with cores := i.cores.map (fun c => (c.1, shiftSaved k c.2)) }),
    dies := s.dies.map (fun d => (d.1, { d.2 with relock := d.2.relock.map (fun r => (r.1, r.2 + k)) })),
    queues := s.queues.map (fun q => (q.1, { q.2 with kernels := q.2.kernels.map (shiftKernel k) })),
    parts := s.parts.map (fun p => (p.1, { p.2 with leases := p.2.leases.map (fun l =>
      (l.1, { l.2 with deadline := if l.2.state = 3 then l.2.deadline + k else l.2.deadline,
                       since := if l.2.state = 3 then l.2.since + k else l.2.since,
                       termEnd := if l.2.termEnd = 0 then 0 else l.2.termEnd + k })) })),
    links := { s.links with
      since := s.links.since.map (fun x => (x.1, x.2 + k)), held := s.links.held.map at_, waiting := s.links.waiting.map at_,
      replies := s.links.replies.map (fun r => { r with tick := r.tick + k }),
      remaps := s.links.remaps.map (fun r => { r with tick := r.tick + k }) } }

/-- The first time after reset that a port reaches UP, TIM takes the domain's time if that is not below it. -/
def loadTim (s : State) (domain : Nat) : State :=
  if s.pk.timLoaded then s
  else
    let s1 := if s.pk.tim < domain then shiftAll s (domain - s.pk.tim) else s
    { s1 with pk := { s1.pk with timLoaded := true, tim := Nat.max s.pk.tim domain } }

/-- TRAINING_COMPLETE. -/
def execTrainingComplete (port : BitVec 4) (domain : W64) (s : State) : Out :=
  if portState s port.toNat = .training then .next (setPort (loadTim s domain.toNat) port .up) else .next s

end

end Sys2Proof.Machine
end

