-- ==== Sys2Proof/Machine/Csr.lean ====
section
/-! DEFINITION. Control and status registers: the thread CSRs and the views of a trapped slot (R76, R77, R102-R106, R137), the
M-mode registers of the service cores (R403), the registers that BAR0 shows (R297, R405), and the instructions and events
that read and write them. -/

namespace Sys2Proof.Machine

noncomputable section

/-! ## Thread CSRs -/

/-- The TSTAT of a thread (R76). -/
def tstatOf (key : Nat) (t : Thread) : W64 :=
  0#40 ++ t.ckmiss ++ 0#5 ++ BitVec.ofNat 2 (modeOf key) ++ 0#1 ++ BitVec.ofBool t.lkx ++ BitVec.ofBool t.pse ++ BitVec.ofBool t.wakef ++
    BitVec.ofBool t.det ++ BitVec.ofBool (t.state == .following) ++ BitVec.ofBool t.twt ++ BitVec.ofBool t.twl ++ BitVec.ofBool t.ck

/-- L2EFF of a core (R203). -/
def l2effOf (c : Core) : W64 := 0#32 ++ c.l2die ++ c.l2slice

/-- The value of a thread's CSR below 0x100; an unassigned number has none. -/
def threadCsr (s : State) (key n : Nat) : Option W64 :=
  let t := s.thread key
  match n with
  | 0x000 => some (s.tid key)
  | 0x001 => some t.kid
  | 0x002 => some ((t.gmOf 0).setWidth 64)
  | 0x003 => some ((t.gmOf 1).setWidth 64)
  | 0x004 => some ((t.gmOf 2).setWidth 64)
  | 0x005 => some ((t.gmOf 3).setWidth 64)
  | 0x010 => some (t.fcsr.setWidth 64)
  | 0x011 => some (t.fqlo.setWidth 64)
  | 0x012 => some (t.fqhi.setWidth 64)
  | 0x013 => some (t.wscb.setWidth 64)
  | 0x014 => some t.wlim
  | 0x015 => some (tstatOf key t)
  | 0x016 => some t.itcur
  | 0x017 => some t.itend
  | 0x018 => some t.itdsc
  | 0x020 => some (BitVec.ofNat 64 (s.cyc (coreOf key)))
  | 0x021 => some (BitVec.ofNat 64 s.tim)
  | 0x022 => some (s.die (dieOf (coreOf key))).stepn
  | 0x030 => some t.skst
  | 0x031 => some t.shst
  | 0x032 => some t.fenst
  | 0x033 => some t.mcstat
  | 0x034 => some (l2effOf (s.core (coreOf key)))
  | _ => none

/-- The RW bits of SHST (R385). -/
abbrev shstMask : W64 := 0xFFFFFF00FFFF7FFF

/-- Write a thread's CSR: its RW fields under their rules; none where it has no RW field. -/
def Thread.setCsr (t : Thread) (n : Nat) (v : W64) : Option Thread :=
  match n with
  | 0x010 => some { t with fcsr := fcsrWrite t.fcsr v }
  | 0x011 => some { t with fqlo := v.extractLsb' 0 32 }
  | 0x012 => some { t with fqhi := v.extractLsb' 0 32 }
  | 0x013 => some { t with wscb := v.extractLsb' 0 20 }
  | 0x014 => some { t with wlim := v }
  | 0x015 => some { t with ckmiss := v.extractLsb' 16 8, lkx := v.getLsbD 7, ck := v.getLsbD 0 }
  | 0x016 => some { t with itcur := v }
  | 0x017 => some { t with itend := v }
  | 0x018 => some { t with itdsc := v }
  | 0x031 => some { t with shst := v &&& shstMask }
  | _ => none

/-- A CSR access that waits for the end of a sequencer run (R138). -/
def waitsForRun (n : Nat) : Bool := decide (0x010 ≤ n) && decide (n ≤ 0x013)

/-! ## Event and pager rings (R400, R348, R403) -/

/-- Word `k` of an event record. -/
def EventRecord.word (r : EventRecord) (k : Nat) : W64 := [r.w0, r.stim, r.data0, r.data1].getD k 0

/-- Word `k` of a pager record (R348). -/
def PagerRecord.word (r : PagerRecord) (k : Nat) : W64 :=
  match k with
  | 0 => BitVec.ofNat 64 r.dva
  | 1 => BitVec.ofNat 8 r.kind.toNat ++ BitVec.ofNat 8 r.part.toNat ++ (if r.clu < 324 then BitVec.ofNat 16 r.clu else 0xFFFF) ++ r.rid
  | 2 => 0#48 ++ BitVec.ofNat 8 r.src.toNat ++ BitVec.ofNat 8 r.acc.toNat
  | _ => 0

/-- Read EVPOP on a die: the next word of the oldest record; its fourth word removes the record. -/
def popEvent (s : State) (die : Nat) : State × W64 :=
  let x := s.die die
  match x.events with
  | [] => (s, 0)
  | r :: rest =>
    (s.setDie die (if x.evRead = 3 then { x with events := rest, evRead := 0 } else { x with evRead := x.evRead + 1 }), r.word x.evRead)

/-- Read PGPOP on a die: a record whose fourth word has been read is no longer listed, and stays open until PGWAKE. -/
def popPager (s : State) (die : Nat) : State × W64 :=
  let x := s.die die
  match x.pagers.find? (·.listed) with
  | none => (s, 0)
  | some r =>
    (s.setDie die (if x.pgRead = 3 then
        { x with pagers := replaceFirst (·.listed) (fun r => { r with listed := false }) x.pagers, pgRead := 0 }
      else { x with pgRead := x.pgRead + 1 }), r.word x.pgRead)

/-- EVSTAT: the count of a full ring, 4,096 records, does not fit EVCNT, and is a free value (log 6, 49). -/
def readEvstat (s : State) (die : Nat) : State × W64 :=
  let x := s.die die
  let word (n : BitVec 12) : W64 := x.evovf ++ 0#20 ++ n ++ BitVec.ofNat 16 (x.pagers.filter (·.listed)).length
  if x.events.length < 4096 then (s, word (BitVec.ofNat 12 x.events.length))
  else (s.useFree, word (s.freeWord.extractLsb' 0 12))

/-- EVPOP: the word that firmware reads. -/
def execEvpop (die : BitVec 2) (s : State) : Out :=
  let r := popEvent s die.toNat
  .next (r.1.send (.popped die r.2))

/-- PGPOP. -/
def execPgpop (die : BitVec 2) (s : State) : Out :=
  let r := popPager s die.toNat
  .next (r.1.send (.popped die r.2))

/-- EVSTAT_CLEAR: any write sets EVOVF to 0. -/
def execEvstatClear (die : BitVec 2) (_v : W64) (s : State) : Out :=
  .next (s.setDie die.toNat { s.die die.toNat with evovf := 0 })

/-! ## Escalations (R61, R403) -/

/-- Slot 7 leaves its invocation and serves its trap queue again. -/
def restartSlot7 (s : State) (core : Nat) : State :=
  endInvocation (s.setArch core { s.arch core with escalated := false }) core

/-- ESCAL_KILL_SERVED: the slot being served is killed with its trap's cause. -/
def execEscalKillServed (core : Nat) (s : State) : Out :=
  match (s.arch core).serving with
  | some r => .next (restartSlot7 (killThread s (keyOf core r.slot) r.cause) core)
  | none => .next (if (s.arch core).escalated then restartSlot7 s core else s)

/-- The cause a slot is killed with: its trap's, else one the spec leaves open (log 6, 50). -/
def killCause (s : State) (core slot : Nat) : Byte :=
  match ((s.arch core).serving.toList ++ (s.arch core).trapq).find? (fun r => r.slot == slot) with
  | some r => r.cause
  | none => s.freeWord.extractLsb' 0 8

/-- ESCAL_KILL_ALL: slots 0-6 are killed and slot 7 restarts. -/
def execEscalKillAll (core : Nat) (s : State) : Out :=
  let s1 := upTo 7 (fun s slot => (killThread s (keyOf core slot) (killCause s core slot)).useFree) s
  .next (restartSlot7 s1 core)

/-! ## M-mode registers (R403) -/

/-- The state an outcome leaves, or the state before. -/
def stateOf (s : State) (o : Out) : State :=
  match o with
  | .next t => t
  | _ => s

/-- Read an M-mode register at an index from a die's service core; an index out of range reads 0, a WO field reads 0. -/
def readM (s : State) (die n idx : Nat) : State × W64 :=
  let p := s.part idx
  let inPart (v : W64) : State × W64 := (s, if idx < 16 then v else 0)
  match n with
  | 0x200 => (s, (s.die die).midx.setWidth 64)
  | 0x201 =>
    let c := s.core idx
    (s, if idx < 1280 then 0#54 ++ BitVec.ofBool c.vict ++ BitVec.ofBool c.asg ++ 0#4 ++ c.part else 0)
  | 0x202 => inPart p.proot
  | 0x203 => (s, if idx < 256 then tget 0 (s.part (idx / 16)).hmask (idx % 16) else 0)
  | 0x204 => inPart p.codeb
  | 0x205 => inPart p.codel
  | 0x206 => inPart p.skt
  | 0x207 => inPart p.pubt
  | 0x208 => inPart p.htb
  | 0x209 => (s, if idx < 4 then 0#56 ++ (s.die idx).mcur ++ (s.die idx).mreq else 0)
  | 0x20A => (s, s.links.rtbound.setWidth 64)
  | 0x20B => (s, if idx < 1024 then (tget 0 s.links.route idx).setWidth 64 else 0)
  | 0x20C => (s, if idx < 16 then BitVec.ofNat 3 (portState s idx).code ++ 0#61 else 0)
  | 0x20D => popEvent s die
  | 0x20E => popPager s die
  | 0x210 => readEvstat s die
  | 0x211 => (s, if idx < 32 then tget 0 (s.die (idx / 8)).raskts (idx % 8) else 0)
  | 0x212 => (s, if idx < 4 then 0#62 ++ BitVec.ofBool (s.die idx).scrub ++ BitVec.ofBool (s.die idx).dected else 0)
  | 0x213 => (s, (s.die die).pinvp.setWidth 64)
  | 0x214 => (s, if idx < 1280 then BitVec.ofBool (s.arch idx).escalated ++ 0#63 else 0)
  | 0x215 => (s, if idx < 4 then s.pk.meas.extractLsb' (64 * idx) 64 else 0)
  | 0x216 => (s, s.pk.dumpb)
  | 0x217 => (s, s.pk.dumpl)
  | 0x218 => (s, s.pk.stage.setWidth 64)
  | 0x219 => inPart p.hevec
  | _ => (s, 0)

/-- The register has a field that software writes. -/
def writableM (n : Nat) : Bool := !(n == 0x20D || n == 0x20E || n == 0x215 || n == 0x218)

/-- Set a partition's registers, for an index in range. -/
def setPartIf (s : State) (idx : Nat) (f : Partition → Partition) : State := if idx < 16 then s.setPart idx (f (s.part idx)) else s
/-- Set a die's registers, for an index in range. -/
def setDieIf (s : State) (idx : Nat) (f : Die → Die) : State := if idx < 4 then s.setDie idx (f (s.die idx)) else s

/-- Bits of a route. -/
def routeBits (v : W64) : Nat := ((List.range 16).filter (fun i => v.getLsbD i)).length

/-- Write an M-mode register at an index from a die's service core: its fields under their rules. -/
def writeM (s : State) (die n idx : Nat) (v : W64) : State :=
  let low47 := v &&& 0x7FFFFFFFFFFF
  let port : BitVec 4 := BitVec.ofNat 4 idx
  let cmd := v.extractLsb' 0 2
  match n with
  | 0x200 => s.setDie die { s.die die with midx := v.extractLsb' 0 16 }
  | 0x201 => if idx < 1280 then stateOf s (execCpartWrite idx v s) else s
  | 0x202 => setPartIf s idx (fun p => { p with proot := v &&& 0xFFFFFFF001 })
  | 0x203 =>
    if idx < 256 then
      s.setPart (idx / 16) { s.part (idx / 16) with hmask := tput (s.part (idx / 16)).hmask (idx % 16) (v &&& 0x7FF07FF) }
    else s
  | 0x204 => setPartIf s idx (fun p => { p with codeb := low47 })
  | 0x205 => setPartIf s idx (fun p => { p with codel := low47 })
  | 0x206 => setPartIf s idx (fun p => { p with skt := low47 })
  | 0x207 => setPartIf s idx (fun p => { p with pubt := low47 })
  | 0x208 => setPartIf s idx (fun p => { p with htb := low47 })
  | 0x209 => if idx < 4 then stateOf s (execMreqWrite (BitVec.ofNat 2 idx) (v.extractLsb' 0 4) s) else s
  | 0x20A =>
    let r := (v.extractLsb' 0 11).toNat
    { s with links := { s.links with rtbound := BitVec.ofNat 11 (Nat.min 2000 (Nat.max 1 r)) } }
  | 0x20B =>
    if idx < 1024 ∧ routeBits v ≤ 4 then
      peersChanged (noteRemaps s { s with links := { s.links with route := tput s.links.route idx (v.extractLsb' 0 16) } })
    else s
  | 0x20C =>
    if 16 ≤ idx then s
    else if cmd = 1 then stateOf s (execPortcEnable port s)
    else if cmd = 2 then stateOf s (execPortcFence port s)
    else if cmd = 3 then stateOf s (execPortcDisable port s)
    else s
  | 0x20F =>
    if v.getLsbD 32 then stateOf s (execPgwakeRefuse (BitVec.ofNat 2 die) (v.extractLsb' 0 32) s)
    else stateOf s (execPgwakeWake (BitVec.ofNat 2 die) (v.extractLsb' 0 32) s)
  | 0x210 => stateOf s (execEvstatClear (BitVec.ofNat 2 die) v s)
  | 0x211 => if idx < 32 then setDieIf s (idx / 8) (fun x => { x with raskts := tput x.raskts (idx % 8) v }) else s
  | 0x212 => setDieIf s idx (fun x => { x with scrub := v.getLsbD 1 })
  | 0x213 => s.setDie die { s.die die with pinvp := v.extractLsb' 0 4 }
  | 0x214 =>
    if 1280 ≤ idx then s
    else if cmd = 1 then stateOf s (execEscalKillServed idx s)
    else if cmd = 2 then stateOf s (execEscalKillAll idx s)
    else s
  | 0x216 => { s with pk := { s.pk with dumpb := v } }
  | 0x217 => { s with pk := { s.pk with dumpl := v } }
  | 0x219 => if idx < 16 then stateOf s (execHevecWrite (BitVec.ofNat 4 idx) v s) else s
  | _ => s

/-! ## A CSR number seen from a thread -/

/-- The register that a CSR number names. -/
inductive CsrRef where
  | thread (key n : Nat)
  /-- views of the trapped slot: g register, half of an f register, ix register -/
  | viewG (key : Nat) (r : Reg)
  | viewF (key : Nat) (r : Reg) (hi : Bool)
  | viewIx (key j : Nat)
  /-- registers of the core, 0x100 to 0x106 -/
  | core (n : Nat)
  | mmode (n : Nat)
deriving DecidableEq, Repr

/-- The register that number `n` names in the acting thread's mode, or the trap (R77, R102, R105). -/
def csrRef (s : State) (n : BitVec 12) : Except Stop CsrRef :=
  let k := n.toNat
  let ill : Except Stop CsrRef := .error (.trap ILLOP s.me.pc)
  let assigned (key m : Nat) : Except Stop CsrRef := if (threadCsr s key m).isSome then .ok (.thread key m) else ill
  if modeOf s.cur < csrMode n then .error (.trap PRIV s.me.pc)
  else if k < 0x100 then assigned s.cur k
  else if k < 0x107 then .ok (.core k)
  else if 0x200 ≤ k then (if k < 0x21A then .ok (.mmode k) else ill)
  else if k < 0x140 ∨ 0x1C5 ≤ k ∨ slotOf s.cur ≠ 7 then ill
  else
    match (s.arch s.myCore).serving with
    | none => ill
    | some _ =>
      let key := keyOf s.myCore (s.arch s.myCore).eslot.toNat
      if k < 0x160 then .ok (.viewG key (BitVec.ofNat 5 (k - 0x140)))
      else if k < 0x1A0 then .ok (.viewF key (BitVec.ofNat 5 ((k - 0x160) / 2)) (k % 2 == 1))
      else if k < 0x1C0 then assigned key (k - 0x1A0)
      else .ok (.viewIx key (k - 0x1C0))

/-- The die whose rings and registers the acting thread's core names. -/
def myDie (s : State) : Nat := dieOf s.myCore

/-- Read a register; the rings lose the word read. -/
def readCsr (s : State) (r : CsrRef) : State × W64 :=
  let x := s.arch s.myCore
  match r with
  | .thread key n => (s, (threadCsr s key n).getD 0)
  | .viewG key r => (s, (s.thread key).rg r)
  | .viewF key r hi => (s, ((s.thread key).rf r).extractLsb' (if hi then 64 else 0) 64)
  | .viewIx key j => (s, tget 0 (s.thread key).ix j)
  | .core 0x100 => (s, x.epc)
  | .core 0x101 => (s, x.ecause)
  | .core 0x102 => (s, x.eval)
  | .core 0x103 => (s, x.eslot.setWidth 64)
  | .core 0x104 => (s, x.eseq)
  | .core 0x105 => (s, x.evec)
  | .core 0x106 => (s, x.lockmax.setWidth 64)
  | .core _ => (s, 0)
  | .mmode n => readM s (myDie s) n (s.die (myDie s)).midx.toNat

/-- Write a register's RW fields; none where it has none. -/
def writeCsr (s : State) (r : CsrRef) (v : W64) : Option State :=
  let x := s.arch s.myCore
  match r with
  | .thread key n => ((s.thread key).setCsr n v).map (s.setThread key)
  | .viewG key r => some (s.setThread key ((s.thread key).wg r v))
  | .viewF key r hi =>
    let t := s.thread key
    let old := t.rf r
    some (s.setThread key (t.wf r (if hi then v ++ old.extractLsb' 0 64 else old.extractLsb' 64 64 ++ v)))
  | .viewIx key j => some (s.setThread key { s.thread key with ix := tput (s.thread key).ix j v })
  | .core 0x100 => some (s.setArch s.myCore { x with epc := v &&& ~~~3#64 })
  | .core 0x105 => some (s.setArch s.myCore { x with evec := v &&& ~~~3#64 })
  | .core 0x106 =>
    some (s.setArch s.myCore { x with lockmax := if (v.extractLsb' 0 32).toNat < 256 then 256 else v.extractLsb' 0 32 })
  | .core _ => none
  | .mmode n => if writableM n then some (writeM s (myDie s) n (s.die (myDie s)).midx.toNat v) else none

/-- A CSR access waits for the run of the thread it names (R138). -/
def csrHeld (s : State) (r : CsrRef) : Bool :=
  match r with
  | .thread key n => waitsForRun n && (s.thread key).run.isSome
  | _ => false

/-- One indivisible access (R103): the old value to g_d; `f` gives what is written. -/
def csrAccess (n : BitVec 12) (d : Reg) (f : Option (W64 → W64)) (s : State) : Except Stop State := do
  let r ← csrRef s n
  if csrHeld s r then .error .hold
  else
    match f with
    | none =>
      let x := readCsr s r
      return x.1.finishG d x.2 6
    | some f =>
      let x := readCsr s r
      match writeCsr x.1 r (f x.2) with
      | none => .error (.trap ILLOP s.me.pc)
      | some s1 => return s1.finishG d x.2 6

/-- CSRR. -/
def execCsrr (n : BitVec 12) (d : Reg) (s : State) : Out := run (.csrr n d) s (csrAccess n d none s)
/-- CSRW. -/
def execCsrw (n : BitVec 12) (a d : Reg) (s : State) : Out := run (.csrw n a d) s (csrAccess n d (some (fun _ => s.me.rg a)) s)
/-- CSRS. -/
def execCsrs (n : BitVec 12) (a d : Reg) (s : State) : Out := run (.csrs n a d) s (csrAccess n d (some (fun v => v ||| s.me.rg a)) s)
/-- CSRC. -/
def execCsrc (n : BitVec 12) (a d : Reg) (s : State) : Out := run (.csrc n a d) s (csrAccess n d (some (fun v => v &&& ~~~(s.me.rg a))) s)

/-! ## Registers written from outside a thread -/

/-- QSPILL: fields of a CLOSED queue, by the physical function or Treadle (R297). -/
def writeQspill (s : State) (fn q : Nat) (v : W64) : State :=
  let w := s.queue q
  if fullRights fn ∧ w.state = .closed then
    s.setQueue q { w with splen := v.extractLsb' 48 16, spbase := v.extractLsb' 6 41 ++ 0#6 }
  else s

/-- WBASE: 1 GiB aligned. -/
def writeWbase (s : State) (fn : Nat) (v : W64) : State :=
  if fn ≤ 16 then { s with host := { s.host with wbase := tput s.host.wbase fn (v &&& 0x7FFFC0000000) } } else s

/-- A subscription's state word, as Treadle sets it (R373, log 51). -/
def writeSubscription (s : State) (part n : Nat) (v : W64) : State :=
  s.setSub part n { s.sub part n with live := v.getLsbD 63, stale := v.getLsbD 62, pnum := v.extractLsb' 16 8, ppkg := v.extractLsb' 0 10 }

/-- REGISTER_WRITE: a register with no row of its own takes its RW fields. -/
def execRegisterWrite (reg : RegAddr) (v : W64) (s : State) : Out :=
  match reg with
  | .mcsr die n idx => .next (if writableM n.toNat then writeM s die.toNat n.toNat idx.toNat v else s)
  | .qcfg fn q => .next (settle (writeQcfg s fn q.toNat v))
  | .qspill fn q => .next (writeQspill s fn q.toNat v)
  | .wbase fn => .next (writeWbase s fn v)
  | .wpart fn => .next (if fn = 0 then { s with host := { s.host with wpart := v.extractLsb' 0 4 } } else s)
  | .atsEnable fn => .next (if fn ≤ 16 then { s with host := { s.host with atsOn := v.getLsbD 0, ats := if v.getLsbD 0 then s.host.ats else [] } } else s)
  | .subscription part n => .next (writeSubscription s part.toNat n.toNat v)

end

end Sys2Proof.Machine
end

