-- ==== Sys2Proof/Machine/Gate.lean ====
section
/-! DEFINITION. What stands between a fetched word and its meaning: decoding and privilege (R39-R41), register check bits
(R69), the gate of a twin pair (R67), and the rotation that picks a slot (R51). The two outcomes of a fetch that is no
instruction have their meanings here. -/

namespace Sys2Proof.Machine

noncomputable section

/-! ## Words that are not instructions (R24, R39-R41) -/

/-- NOT_AN_INSTRUCTION: ILLOP, or PRIV, with the address of the failing word in EVAL: index 0 the word itself, i + 1
parameter word i. -/
def execNotAnInstruction (word : W32) (priv : Bool) (index : Nat) (s : State) : Out :=
  run (.notAnInstruction word priv index) s
    (.error (.trap (if priv then PRIV else ILLOP) (s.me.pc + BitVec.ofNat 64 (4 * index))))

/-- FETCH_SEGMENT_FAULT: SEGV at the fetched address. -/
def execFetchSegmentFault (s : State) : Out := run .fetchSegmentFault s (.error (.trap SEGV s.me.pc))

/-- What a fetched word makes the acting thread do: the instruction, or the operation that traps (R39, R40). -/
def decodeFor (key : Nat) (w p0 p1 p2 p3 : W32) : Instr :=
  match decodeWord w p0 p1 p2 p3 with
  | .error _ => .notAnInstruction w false 0
  | .ok i => if modeOf key < modeNeeded i then .notAnInstruction w true 0 else i

/-- A fetch that fails ends in this operation, where the word itself lies outside sg0 (R24). -/
def fetchFault (pc : W64) : Stop → Instr
  | .trap c e => if c = SEGV ∧ e = pc then .fetchSegmentFault else .notAnInstruction 0 false 0
  | _ => .notAnInstruction 0 false 0

/-- Fetch and decode the next instruction of the acting thread: a follower's from its forwarded words (R71). -/
def nextInstr (s : State) : Except Stop (State × Instr) :=
  let key := s.cur
  let t := s.me
  match t.state, t.fwd with
  | .following, f :: _ =>
    let p (n : Nat) : W32 := f.words.getD n 0
    .ok (s.setMe { t with pc := f.pc }, decodeFor key (p 0) (p 1) (p 2) (p 3) (p 4))
  | _, _ => do
    let (s, w) ← fetchWord s key t.pc
    match decodeFor key w 0 0 0 0 with
    | .notAnInstruction x p n => return (s, .notAnInstruction x p n)
    | i =>
      if isBlockWord w then
        let (s, ps) ← fetchWords s key (t.pc + 4) 4
        return (s, decodeFor key w (ps.getD 0 0) (ps.getD 1 0) (ps.getD 2 0) (ps.getD 3 0))
      else return (s, i)

/-! ## Check bits (R69) -/

/-- Registers differ in exactly one bit. -/
def oneBitApart (x y : W64) : Bool := ((List.range 64).filter (fun i => (x ^^^ y).getLsbD i)).length == 1

/-- Read a register through its check bits: a single-bit difference is corrected in place; any other traps CHKFAIL. -/
def checkReg (t : Thread) (r : Reg) : Except Stop Thread :=
  match tfind t.bad r.toNat with
  | none => .ok t
  | some v =>
    if oneBitApart (t.rg r) v then .ok (t.wg r v) else .error (.trap CHKFAIL (r.setWidth 64))

/-- Check every register an instruction reads. -/
def checkRegs : List Reg → Thread → Except Stop Thread
  | [], t => .ok t
  | r :: rs, t => do
    let t ← checkReg t r
    checkRegs rs t

/-- A pending check that the next instruction does not make is missed. -/
def missCheck (t : Thread) (i : Instr) : Thread :=
  match t.pend, i with
  | none, _ => t
  | some (r, _), .chk d =>
    if d = r then t else { t with pend := none, ckmiss := if t.ckmiss = 255 then 255 else t.ckmiss + 1 }
  | some _, _ => { t with pend := none, ckmiss := if t.ckmiss = 255 then 255 else t.ckmiss + 1 }

/-! ## The gate of a twin pair (R67) -/

/-- What a pair does with an instruction before its meaning. -/
inductive TwinGate where
  | go
  | stop (e : Stop)
  /-- the trailer takes the leader's results -/
  | take (s : State)
deriving DecidableEq, Repr

/-- Its own registers agree with its leader's on what the instruction reads. -/
def twinAgree (lead tr : Thread) (i : Instr) : Bool := (gReads i).all (fun r => lead.rg r == tr.rg r)

/-- The address a mismatch reports: the leader's for an access, else 0. -/
def twinEval (lead : Thread) (i : Instr) : W64 :=
  match atomicOf i, tagArgs i with
  | some x, _ => lead.rg x.a
  | none, some (a, _) => lead.rg a
  | none, none =>
    match i with
    | .ldaW _ a _ | .ldaD _ a _ | .ldaQ _ a _ | .strlW _ _ a | .strlD _ _ a | .strlQ _ _ a => lead.rg a
    | _ => 0

def twinPark : Stop := .park 0x11 0 false [] []

/-- A trailer does not pass its leader: it parks where it needs a value of the queue; where the leader waits to perform another instruction once, they differ. -/
def twinAhead (lead : Thread) (wait : Stop) : Stop :=
  match twinWaits lead with
  | some i => .trap TWINMIS (twinEval lead i)
  | none => wait

/-- The gate for the acting thread. -/
def twinGate (s : State) (i : Instr) : TwinGate :=
  let t := s.me
  let p := s.thread (partnerOf s.cur)
  if t.twl then
    match twinClass i with
    | .value => if 32 ≤ p.lvq.length then .stop twinPark else .go
    | .once =>
      match p.state, p.wait with
      | .parked, some w =>
        if w.kind = 0x11 ∧ p.twinAt = t.twinAt ∧ twinClass w.instr = .once then
          if w.instr = i ∧ p.pc = t.pc ∧ twinAgree t p i then .go else .stop (.trap TWINMIS (twinEval t i))
        else .stop twinPark
      | _, _ => .stop twinPark
    | _ => .go
  else if t.twt then
    match twinClass i with
    | .once =>
      if t.twinAt < p.twinAt then .stop (.trap TWINMIS (twinEval p i))
      else .take (twinMeet (parkMe s 0x11 0 i) (partnerOf s.cur))
    | .value =>
      if p.twinAt ≤ t.twinAt then .stop (twinAhead p twinPark)
      else
        match t.lvq.find? (fun x => !x.pc.getLsbD 0) with
        | none => .stop twinPark
        | some v =>
          if v.pc = t.pc then
            let g := v.g.foldl (fun t x => t.wg x.1 x.2) { t with
              lvq := removeAt t.lvq ((t.lvq.findIdx? (fun x => !x.pc.getLsbD 0)).getD 0) }
            let f := v.f.foldl (fun t x => t.wf x.1 x.2) g
            .take (s.finish f 6)
          else .stop (.trap TWINMIS 0)
    | _ => if p.twinAt ≤ t.twinAt then .stop (twinAhead p .hold) else .go
  else .go

/-! ## Rotation (R51, R78, R127) -/

/-- Slots of a core in rotation order. -/
def rotation (s : State) (core : Nat) : List Nat := (List.range 8).map (fun k => ((s.core core).last + 1 + k) % 8)

/-- Pick the slot that issues: forfeited turns and a yielded turn pass. -/
def pickFrom (s : State) (core : Nat) (others : Bool) : List Nat → State × Option Nat
  | [] => (s, none)
  | slot :: rest =>
    let key := keyOf core slot
    let t := s.thread key
    if slotForfeits s core slot then pickFrom (s.setThread key { t with forfeit := t.forfeit - 1 }) core others rest
    else if !slotEligible s core slot then pickFrom s core others rest
    else if t.forfeit ≠ 0 then pickFrom (s.setThread key { t with forfeit := t.forfeit - 1 }) core others rest
    else if t.yielded ∧ others then pickFrom (s.setThread key { t with yielded := false }) core others rest
    else (s.setThread key { t with yielded := false }, some slot)

/-- Pick a slot of a core. -/
def pickSlot (s : State) (core : Nat) : State × Option Nat :=
  let n := ((List.range 8).filter (slotEligible s core)).length
  pickFrom s core (decide (1 < n)) (rotation s core)

/-- A core cycle of the core is used. -/
def useCycle (s : State) (core : Nat) : State :=
  let c := s.core core
  let now := s.cyc core
  let at_ := match c.issuedAt with
    | some x => Nat.max (x + 1) (now - 1)
    | none => now
  s.setCore core { c with issuedAt := some at_ }

end

end Sys2Proof.Machine
end

