-- ==== Sys2Proof/Machine/Ras.lean ====
section
/-! DEFINITION. Reliability, host attachment and firmware (R395-R411): scrubbers, fatal errors and dumps, BAR2, the mailbox,
boot, attestation and the board interface. -/

namespace Sys2Proof.Machine

noncomputable section

/-! ## Scrubbers (R397) and L2 (R396) -/

/-- A 32-bit count grows and saturates. -/
def satAdd (x : W32) (n : Nat) : W32 := if 2 ^ 32 ≤ x.toNat + n then 0xFFFFFFFF else x + BitVec.ofNat 32 n

/-- Count errors of an array on a die in RASCNT. -/
def countErrors (s : State) (die array uncorr corr : Nat) : State :=
  let x := s.die die
  let v := tget 0 x.raskts array
  s.setDie die { x with raskts := tput x.raskts array (satAdd (v.extractLsb' 32 32) uncorr ++ satAdd (v.extractLsb' 0 32) corr) }

/-- Poison a staging copy's chunk. -/
def poisonCopy (s : State) (clu key k : Nat) : State :=
  let c := s.cluster clu
  match tfind c.staging key with
  | none => s
  | some l => s.setCluster clu { c with staging := tput c.staging key { l with poison := l.poison ||| (1#4 <<< k) } }

/-- A chunk whose error cannot be corrected: its poison and its event record. Array 2 counts units of the scratchpad, array 4
units of the scratchpad image in the shadow bank; array 3 holds a staging copy of key `unit / 2`, or, for an odd
`unit`, the line at home at PA 64·(unit / 2) (log 52). -/
def scrubChunk (s : State) (core array unit k : Nat) : State :=
  let ev (s : State) (a : Nat) : State :=
    pushEvent s (dieOf core) 0x08 0xFF (if (s.core core).asg then BitVec.ofNat 8 (s.partOf core) else 0xFF) (BitVec.ofNat 16 core) 0
      (BitVec.ofNat 64 a) (BitVec.ofNat 64 array)
  if array = 2 then
    let ch := core * 2 ^ 16 + unit * 4 + k
    ev { s with mem := { s.mem with spadPoison := sadd s.mem.spadPoison ch } } (16 * ch)
  else if array = 3 then
    if unit % 2 = 1 then
      let ch := unit / 2 * 4 + k
      ev { s with mem := { s.mem with ramPoison := sadd s.mem.ramPoison ch } } (16 * ch)
    else
      match tfind (s.cluster (clusterOf core)).staging (unit / 2) with
      | some l => ev (poisonCopy s (clusterOf core) (unit / 2) k) (l.pa + 16 * k)
      | none => s
  else
    match (s.core core).shadow with
    | some x => ev (s.setCore core { s.core core with shadow := some { x with poison := sadd x.poison (unit * 4 + k) } }) (64 * unit + 16 * k)
    | none => s

/-- FATAL_ERROR: dispatch stops on every die and a dump is called for (R399). -/
def fatalError (s : State) (kind : Byte) : State :=
  { s with pk := { s.pk with fatal := some (s.pk.fatal.getD kind), dumpDue := some (s.pk.dumpDue.getD s.tim) } }

/-- An uncorrectable error in a register of a slot: of a g register it shows in its check bits (R69); of an f or q register or a CSR it
kills the thread (R63); in a service core's own slot it is fatal (R399). -/
def registerError (s : State) (core slot reg : Nat) : State :=
  let key := keyOf core slot
  let t := s.thread key
  if 1280 ≤ core then fatalError s 0
  else if t.state = .empty then s
  else if reg < 32 then
    (if reg = 0 then s else s.setThread key { t with bad := tput t.bad reg (t.rg (BitVec.ofNat 5 reg) ^^^ 3) })
  else killThread s key POISON

/-- An uncorrectable error in an array that no scrubber reads, as the access that meets it finds it (R395): array 0 an L1 line, which is
fetched again; 1 register `unit / 8` of slot `unit % 8`; 5 an accumulator pair `unit / 2` or, for an odd `unit`, a CIM chunk; 6 the
chunks of a 64-byte unit of LPDDR; 7 firmware in the unassigned stack (log 115). -/
def arrayError (s : State) (core array unit : Nat) (chunks : List Nat) : State :=
  let ev (s : State) (a : Nat) : State :=
    pushEvent s (dieOf core) 0x08 0xFF (if (s.core core).asg then BitVec.ofNat 8 (s.partOf core) else 0xFF) (BitVec.ofNat 16 core) 0
      (BitVec.ofNat 64 a) (BitVec.ofNat 64 array)
  let a := s.arch core
  match array with
  | 0 => s.setCore core { s.core core with l1 := tdel (s.core core).l1 unit }
  | 1 => registerError s core (unit % 8) (unit / 8)
  | 5 => ev (s.setArch core (if unit % 2 = 0 then { a with accPoison := sadd a.accPoison (unit / 2) }
      else { a with cimPoison := sadd a.cimPoison (unit / 2) })) unit
  | 6 => chunks.foldl (fun s k => ev { s with mem := { s.mem with ramPoison := sadd s.mem.ramPoison (unit * 4 + k) } } (64 * unit + 16 * k)) s
  | _ => fatalError s 0

/-- SCRUB_UNIT: single errors are corrected in place; the chunks of `bad` are poisoned. An error of an array that no scrubber reads comes
by this event too, whether or not the scrubber is enabled (DESIGN CHOICE, log 115: the table has no event of its own for it). -/
def execScrubUnit (core array unit : Nat) (bad : List Nat) (corrected : Nat) (s : State) : Out :=
  let scrubbed : Bool := decide (2 ≤ array) && decide (array ≤ 4)
  if 7 < array || (decide (array = 2) && decide (16384 ≤ unit)) || (scrubbed && !(s.die (dieOf core)).scrub) then .next s
  else if !scrubbed then
    let chunks := (bad.filter (fun k => decide (k < 4))).dedup
    let n := if array = 6 then chunks.length else if chunks = [] then 0 else 1
    let s1 := countErrors s (dieOf core) array n corrected
    .next (if chunks = [] then s1 else arrayError s1 core array unit chunks)
  else
    let chunks := (bad.filter (fun k => decide (k < 4))).dedup
    .next (chunks.foldl (fun s k => scrubChunk s core array unit k) (countErrors s (dieOf core) array chunks.length corrected))

/-- A die holds a core of a context that is RESIDENT, DEGRADED or HALTING. -/
def dieInUse (s : State) (die : Nat) : Bool :=
  s.cores.any (fun c => decide (c.1 < 1280) && dieOf c.1 == die && c.2.asg &&
    match (s.part c.2.part.toNat).ctx with
    | .resident | .degraded | .halting => true
    | _ => false)

/-- A cluster's copies leave it, written back (R200, log 48). -/
def emptyCluster (s : State) (clu : Nat) : State :=
  let s1 := flushWb s clu
  let c := s1.cluster clu
  { s1.setCluster clu { c with staging := [] } with mem := c.staging.foldl (fun m kl => mergeCopy m kl.2) s1.mem }

/-- L2_RECOVERY: a die's L2 is initialised again in the mode its rail calls for (R396). -/
def execL2Recovery (die : BitVec 2) (railLow : Bool) (s : State) : Out :=
  let d := die.toNat
  if dieInUse s d ∨ !(List.range 80).all (fun k =>
      drainOpen s (d * 80 + k) && (s.cluster (d * 80 + k)).staging.all (fun kl => homeUp s kl.2)) then .next s
  else
    let s1 := upTo 80 (fun s k => emptyCluster s (d * 80 + k)) s
    .next (s1.setDie d { s1.die d with dected := railLow })

/-! ## Fatal errors and dumps (R399, R410) -/

/-- FATAL_ERROR. -/
def execFatalError (kind : Byte) (s : State) : Out := .next (fatalError s kind)

def SlotState.code : SlotState → Nat
  | .empty => 0
  | .ready => 1
  | .parked => 2
  | .dropped => 3
  | .trapped => 4
  | .paused => 5
  | .following => 6

def QueueState.code : QueueState → Nat
  | .closed => 0
  | .opened => 1
  | .frozen => 2
  | .draining => 3

/-- What a dump says of a slot: state, pc, its trap's EPC, ECAUSE, EVAL and ESEQ, WKIND. -/
def slotValues (s : State) (key : Nat) : List Nat :=
  let t := s.thread key
  let a := s.arch (coreOf key)
  let trap := match (a.serving.toList ++ a.trapq).find? (fun r => r.slot == slotOf key) with
    | some r => [r.epc.toNat, r.ecause.toNat, r.eval.toNat, r.eseq.toNat]
    | none => [0, 0, 0, 0]
  [t.state.code, t.pc.toNat] ++ trap ++ [(t.wait.map (·.kind.toNat)).getD 0]

/-- The sections of a dump, in order; their layouts are open (log 6, 53). -/
def dumpSections (s : State) : List (List Byte) :=
  (List.range (1284 * 8)).map (fun key => Config.layout 1 (slotValues s key)) ++
  [Config.layout 2 (s.queues.flatMap (fun q => [q.1, q.2.state.code]) ++
      s.parts.flatMap (fun p => p.2.tokens.flatMap (fun t => [p.1, t.1, if t.2.err then 1 else 0, t.2.count.toNat]))),
    Config.layout 3 ((List.range 16).map (fun p => (ctxWord s p (s.part p).ctx 0).toNat)),
    Config.layout 4 ((List.range 4).flatMap (fun d =>
      (s.die d).events.flatMap (fun r => [r.w0.toNat, r.stim.toNat, r.data0.toNat, r.data1.toNat]) ++
      ((s.die d).pagers.filter (·.listed)).flatMap (fun r => (List.range 4).map (fun k => (r.word k).toNat)))),
    Config.layout 5 ((List.range 32).map (fun i => (tget 0 (s.die (i / 8)).raskts (i % 8)).toNat))]

/-- The whole sections that fit into `room` bytes. -/
def fitting (room : Nat) : List (List Byte) → List (List Byte)
  | [] => []
  | b :: r => if b.length ≤ room then b :: fitting (room - b.length) r else []

/-- Exactly `n` bytes. -/
def sized (n : Nat) (b : List Byte) : List Byte := (b ++ List.replicate n 0).take n

/-- The bytes of a dump by a writer: 0 Treadle, 1 Selvedge. -/
def dumpBytes (s : State) (writer : Nat) : List Byte :=
  let body := fitting (s.pk.dumpl.toNat - 64 - 7856) (dumpSections s)
  let data := body.flatten
  let head := bytesOfNat 4 0x504D5544 ++ sized 60 (Config.layout 6
    [1, 64 + data.length + 7856, writer, (s.pk.fatal.getD 0).toNat, s.tim, s.pk.pkg.toNat, body.length])
  head ++ data ++ sized 7856 (Config.signature (head ++ data))

/-- Places in the 48 MiB of a die's stack that no core has (R12): Selvedge's image, Treadle's image, the dump (DESIGN CHOICE, log
106: the spec gives none). -/
abbrev stackSelvedge : Nat := 0
abbrev stackTreadle : Nat := 0x1000000
abbrev stackDump : Nat := 0x2000000

/-- Write bytes of a die's unassigned stack. -/
def stackWrite (s : State) (die off : Nat) (bs : List Byte) : State :=
  { s with mem := { s.mem with stack := mwriteN s.mem.stack (die * 2 ^ 26 + off) bs } }

/-- A dump is written, or the buffer does not hold its header and signature: STAGE becomes 0x88. It is made in die 0's dump buffer
(R12) and sent to the host address DUMPB (R403, R410). -/
def writeDump (s : State) (writer : Nat) : State :=
  let s1 := { s with pk := { s.pk with dumpDue := none } }
  if s.pk.dumpl.toNat < 64 + 7856 then { s1 with pk := { s1.pk with stage := 0x88 } }
  else (stackWrite s1 0 stackDump (dumpBytes s writer)).send (.dump s.pk.dumpb (dumpBytes s writer))

/-- DUMP_WRITE: Treadle's. -/
def execDumpWrite (s : State) : Out := .next (writeDump s 0)

/-- DUMP_TIMEOUT: Selvedge's, 10 ms after the dump was called for. -/
def execDumpTimeout (s : State) : Out :=
  match s.pk.dumpDue with
  | none => .next s
  | some t => if s.tim < t + 10000000 then .next s else .next (writeDump s 1)

/-! ## BAR2 (R353, R406) -/

/-- The DVA of an offset in a function's window, with its partition. -/
def bar2Target (s : State) (fn offset : Nat) : Option (Nat × Nat) :=
  (functionPart s fn).map (fun p => (p, (tget 0 s.host.wbase fn).toNat + offset))

/-- A host access to a page of the partition's tables: a physical address, none for a fault, a refused right or a
device-owned HX page. -/
def hostPlace (s : State) (part dva n : Nat) (acc : BitVec 4) : Option (State × Nat) :=
  if 2 ^ 47 < dva + n then none
  else
    match walk s part dva with
    | .fault _ => none
    | .leaf l =>
      let cls := leafCls l.word
      if cls = 4 ∨ (cls = 2 ∧ !l.word.getLsbD 7) ∨ (cls = 3 ∧ accWrites acc) ∨ !leafAllows l.word acc then none
      else some (setAD s l acc, leafPA l.word + dva % l.size)

/-- The record of a refused access. -/
def bar2Refused (s : State) (fn part dva : Nat) : State :=
  pushEvent s 0 0x09 0xFF (BitVec.ofNat 8 part) 0xFFFF 0 (BitVec.ofNat 64 dva) (BitVec.ofNat 64 fn)

/-- BAR2_WRITE. -/
def execBar2Write (fn offset : Nat) (bytes : List Byte) (s : State) : Out :=
  match bar2Target s fn offset with
  | none => .next s
  | some (part, dva) =>
    if dvaHeld s part dva then .next s else
    match hostPlace s part dva bytes.length accWrite with
    | none => .next (bar2Refused s fn part dva)
    | some (s1, pa) => .next { s1 with mem := ramWrite s1.mem pa bytes }

/-- A completion with all ones. -/
def onesOf (n : Nat) : W64 := BitVec.ofNat 64 (2 ^ (8 * n) - 1)

/-- BAR2_READ. -/
def execBar2Read (fn offset n : Nat) (s : State) : Out :=
  match bar2Target s fn offset with
  | none => .next s
  | some (part, dva) =>
    if dvaHeld s part dva then .next s else
    match hostPlace s part dva n accRead with
    | none => .next ((bar2Refused s fn part dva).send (.hostRead fn (onesOf n)))
    | some (s1, pa) => .next (s1.send (.hostRead fn (BitVec.ofNat 64 (natOfBytes (mreadN s1.mem.ram pa n)))))

/-- The new value of a host AtomicOp: 0 FetchAdd, 1 Swap, 2 CAS. -/
def hostAtomicNew (op : BitVec 2) (n old operand compare : Nat) : Nat :=
  if op = 0 then (old + operand) % 2 ^ (8 * n)
  else if op = 1 then operand % 2 ^ (8 * n)
  else if old = compare % 2 ^ (8 * n) then operand % 2 ^ (8 * n) else old

/-- BAR2_ATOMIC: FetchAdd, Swap or CAS of 32 or 64 bits; any other completes with Unsupported Request. -/
def execBar2Atomic (fn offset : Nat) (op : BitVec 2) (n : Nat) (operand compare : W64) (s : State) : Out :=
  if op = 3 ∨ (n ≠ 4 ∧ n ≠ 8) ∨ offset % n ≠ 0 then .next (s.send (.hostUnsupported fn))
  else
    match bar2Target s fn offset with
    | none => .next s
    | some (part, dva) =>
      if dvaHeld s part dva then .next s else
      match hostPlace s part dva n accAtomic with
      | none => .next ((bar2Refused s fn part dva).send (.hostRead fn (onesOf n)))
      | some (s1, pa) =>
        let old := natOfBytes (mreadN s1.mem.ram pa n)
        let s2 := { s1 with mem := ramWrite s1.mem pa (bytesOfNat n (hostAtomicNew op n old operand.toNat compare.toNat)) }
        .next (s2.send (.hostRead fn (BitVec.ofNat 64 old)))

/-! ## Mailbox, boot and attestation (R405, R407-R409) -/

/-- MAILBOX_MESSAGE: 4 KiB, physical function only. -/
def execMailboxMessage (fn : Nat) (words : List W64) (s : State) : Out :=
  .next (if fn = 0 then { s with host := { s.host with mailIn := words.take 512 } } else s)

/-- The stage accepts an image. -/
def imageOk (treadle : Bool) (x : Image) : Bool :=
  x.treadle == treadle && x.sigOk && x.keyDigest == Config.keyDigest && decide (Config.minVersion ≤ x.version) && x.digest == sha256 x.body

/-- MEAS takes a verified image's digest. -/
def extendMeas (m d : BitVec 256) : BitVec 256 := sha256 (digestBytes m ++ digestBytes d)

def setStage (s : State) (stage : Byte) : State := { s with pk := { s.pk with stage := stage } }

/-- A verified image is firmware code and data of every die's stack (R12, R407). -/
def placeFirmware (s : State) (off : Nat) (x : Image) : State := upTo 4 (fun s d => stackWrite s d off x.body) s

/-- Stages 2 and 3: Selvedge's image. -/
def bootSelvedge (s : State) (x : Image) : State :=
  if imageOk false x then
    let s1 := placeFirmware s stackSelvedge x
    { s1 with pk := { s1.pk with stage := 3, meas := extendMeas 0 x.digest } }
  else setStage s 0x82

/-- Stages 4 and 5: Treadle's image. -/
def bootTreadle (s : State) (x : Image) : State :=
  if imageOk true x then
    let s1 := placeFirmware s stackTreadle x
    { s1 with pk := { s1.pk with stage := 5, meas := extendMeas s1.pk.meas x.digest } }
  else setStage s 0x84

/-- IMAGE_SUBMIT: the stage that waits for an image takes it. -/
def execImageSubmit (fn : Nat) (img : Image) (s : State) : Out :=
  if fn ≠ 0 then .next s
  else if s.pk.stage = 0x82 then .next (bootSelvedge s img)
  else if s.pk.stage = 3 ∨ s.pk.stage = 0x84 then .next (bootTreadle s img)
  else .next s

/-- The partition configuration: CPART and PROOT. -/
def configBytes (s : State) : List Byte :=
  Config.layout 8 ((List.range 1280).map (fun c => (readM s 0 0x201 c).2.toNat) ++ (List.range 16).map (fun p => (s.part p).proot.toNat))

/-- ATTEST_REQUEST: the signed quote, once Selvedge runs; its layout is open (log 6, 53). -/
def execAttestRequest (fn : Nat) (nonce : List Byte) (s : State) : Out :=
  if fn ≠ 0 ∨ nonce.length ≠ 32 ∨ !(s.pk.stage == 3 || s.pk.stage == 0x84 || s.pk.stage == 5) then .next s
  else
    let q := Config.layout 7
      [natOfBytes nonce, s.pk.meas.toNat, (sha256 (configBytes s)).toNat, s.tim, s.pk.pkg.toNat]
    .next (s.send (.quote (q ++ sized 7856 (Config.signature q))))

/-- PACKAGE_RESET: every register at its reset value, L2 and LPDDR initialised, then the boot stages. What the model keeps is its
own: its schedule, its count of free values, and what has left the package. -/
def execPackageReset (pkgNumber : BitVec 10) (railLow : BitVec 4) (romOk : Bool) (img : Option Image) (s : State) : Out :=
  let s1 : State := { State.reset with
    schedule := s.schedule, fresh := s.fresh, out := s.out, pk := { State.reset.pk with pkg := pkgNumber, stage := 1 } }
  let s2 := upTo 4 (fun s d => s.setDie d { s.die d with dected := railLow.getLsbD d }) s1
  if !romOk then .next (setStage s2 0x81)
  else
    match img with
    | none => .next (setStage s2 0x82)
    | some x => .next (bootSelvedge s2 x)

/-! ## Board interface (R411) -/

/-- THERMTRIP: the module stops drawing core power. -/
def execThermtrip (_die : BitVec 2) (s : State) : Out := .next { s with pk := { s.pk with thermtrip := true } }

/-- SMBUS_READ_TELEMETRY: die temperatures and module power. -/
def execSmbusReadTelemetry (temps : List Nat) (draw : Nat) (s : State) : Out := .next (s.send (.smbus (temps ++ [draw])))

/-- SMBUS_READ_STAGE. -/
def execSmbusReadStage (s : State) : Out := .next (s.send (.smbus [s.pk.stage.toNat]))

/-- SMBUS_SET_POWER_LIMIT: from 400 W to 1,600 W. -/
def execSmbusSetPowerLimit (watts : Nat) (s : State) : Out :=
  .next (if 400 ≤ watts ∧ watts ≤ 1600 then { s with pk := { s.pk with powerLimit := watts } } else s)

/-- The identity block (R421): a 64-bit word of BAR0 at an offset below 0x1_0000. -/
def identityWord (s : State) (offset : Nat) : W64 :=
  if offset = 0 then 0#32 ++ 0x1280#16 ++ Config.revision
  else if offset = 8 then 0#38 ++ s.pk.pkg ++ 0#8 ++ s.pk.stage
  else 0

end

end Sys2Proof.Machine
end

