-- ==== Sys2Proof/Machine/Weft.lean ====
section
/-! DEFINITION. Skein instructions (R278, R279, R288-R292) and the events of the weft engine: a request performed at its
engine, and the walk of the causality rule (R283). -/

namespace Sys2Proof.Machine

noncomputable section

/-! ## SKW, SKR, SKRE (R279, R288) -/

/-- The skein number in g_a, or FORMAT. -/
def skeinNum (t : Thread) (a : Reg) : Except Stop Nat := do
  need (decide ((t.rg a).toNat ≤ 65535)) FORMAT (t.rg a)
  return (t.rg a).toNat

/-- The checks made at issue: number, instant, and a buffer's alignment and kind. -/
def skeinIssue (s : State) (a b : Reg) (buf : Option Reg) : Except Stop Nat := do
  let t := s.me
  let n ← skeinNum t a
  need (t.rg b ≠ ~~~0#64) FORMAT (t.rg b)
  match buf with
  | none => return n
  | some c =>
    let v := t.rg c
    need (v.extractLsb' 0 4 = 0) ALIGN v
    let g := t.seg (v.extractLsb' 61 3).toNat
    let o := g.base.toNat + (v.extractLsb' 0 61).toNat
    need (g.kind = 1 ∨ g.kind = 3 ∨ (g.kind = 2 ∧ o < 0x100000)) SEGV v
    need (g.kind ≠ 3 ∨ tileAllowed s s.myCore (forwardCore s t.kid (o / 0x100000))) ACCESS v
    return n

/-- SKW: an eager release at DEV, then the engine's reply (R285). -/
def execSkw (c b a d : Reg) (s : State) : Out :=
  run (.skw c b a d) s (do
    let n ← skeinIssue s a b (some c)
    if releaseWaits s s.cur 4 false then .error .hold
    else return parkMe (drainCluster s (clusterOf s.myCore)) 0x09 (BitVec.ofNat 64 n) (.skw c b a d))

/-- SKR. -/
def execSkr (c b a d : Reg) (s : State) : Out :=
  run (.skr c b a d) s (do
    let n ← skeinIssue s a b (some c)
    return parkMe s 0x08 (BitVec.ofNat 64 n) (.skr c b a d))

/-- SKRE. -/
def execSkre (c b a d : Reg) (s : State) : Out :=
  run (.skre c b a d) s (do
    let n ← skeinIssue s a b none
    return parkMe s 0x08 (BitVec.ofNat 64 n) (.skre c b a d))

/-! ## SKCTL (R290) -/

def execSkbind (b a d : Reg) (s : State) : Out :=
  run (.skbind b a d) s (do
    let n ← skeinNum s.me a
    return parkMe s 0x08 (BitVec.ofNat 64 n) (.skbind b a d))

def execSkunb (b a d : Reg) (s : State) : Out :=
  run (.skunb b a d) s (do
    let n ← skeinNum s.me a
    return parkMe s 0x08 (BitVec.ofNat 64 n) (.skunb b a d))

def execSkflr (b a d : Reg) (s : State) : Out :=
  run (.skflr b a d) s (do
    let n ← skeinNum s.me a
    let r := weftFloor s (s.partOf s.myCore) n s.cur (s.me.rg b).toNat
    return r.1.finishG d r.2 6)

def execSkqry (n : BitVec 5) (a d : Reg) (s : State) : Out :=
  run (.skqry n a d) s (do
    let k ← skeinNum s.me a
    return s.finishG d (weftQuery s (s.partOf s.myCore) k s.cur n.toNat) 6)

/-! ## The engine (R278) -/

/-- The core of a skein's weft engine, for a request of a thread. -/
def weftCore (s : State) (part n key : Nat) : Nat :=
  match (s.skein part n).desc with
  | some d => d.hcore
  | none => coreOf key

/-- The address in the thread's instruction of an access that faults: in its buffer, or its skein for the pick storage (R348, log 68). -/
def weftEval (s : State) (part n key dva : Nat) : W64 :=
  let t := s.thread key
  let buffer (c : Reg) : W64 :=
    let g := t.seg ((t.rg c).extractLsb' 61 3).toNat
    let o := g.base.toNat + ((t.rg c).extractLsb' 0 61).toNat
    let len := ((s.skein part n).desc.map (·.bytes)).getD 0
    if g.kind = 1 ∧ o ≤ dva ∧ dva < o + len then t.rg c + BitVec.ofNat 64 (dva - o) else BitVec.ofNat 64 n
  match t.wait.map (fun w : Wait => w.instr) with
  | some (Instr.skw c _ _ _) | some (Instr.skr c _ _ _) => buffer c
  | _ => BitVec.ofNat 64 n

/-- A page fault of a request: the thread stays parked while its page is fetched. -/
def weftPage (s : State) (part n core slot dva : Nat) (kind : BitVec 2) (acc : BitVec 4) : State :=
  let c := weftCore s part n (keyOf core slot)
  joinRecord s (dieOf c) (clusterOf c) part dva kind acc 8 (.weft core slot (weftEval s part n (keyOf core slot) dva))

/-- A request arrives at its engine. -/
def weftArrive (s : State) (part n key : Nat) : State :=
  let t := s.thread key
  let s1 := s.setThread key { t with wait := t.wait.map (fun w => { w with sent := true }) }
  let k := s1.skein part n
  s1.setSkein part n { k with queue := k.queue ++ [key] }

/-- The engine of a skein goes on; a request that meets a page fault there waits for its page. -/
def weftGo (s : State) (part n : Nat) (x : Nat × ExtReply) : State :=
  let s1 := weftRun s part n x
  match weftNext s1 part n x with
  | some (key, .error (.page dva k acc _)) => weftPage s1 part n (coreOf key) (slotOf key) dva k acc
  | _ => s1

/-- Whether a reply from outside is what the engine is waiting for, for a thread's request. -/
def weftAwaits (s : State) (part n key : Nat) (ext : ExtReply) : Bool :=
  match weftNext s part n noExt, weftNext s part n (key, ext) with
  | some (_, r), some (k, r') => stuck r && k == key && !stuck r'
  | _, _ => false

/-- The engine goes on with what a lender has answered for a thread's request; none where it waits for no such reply (log 108). -/
def weftReply (s : State) (key : Nat) (w : Wait) (ext : ExtReply) : Option State :=
  let part := s.partOf (coreOf key)
  let n := w.eval.toNat
  if (w.kind = 0x08 ∨ w.kind = 0x09) ∧ w.sent ∧ dieReachable s (dieOf (weftCore s part n key)) ∧ weftAwaits s part n key ext then
    some (weftGo s part n (key, ext))
  else none

/-- WEFT_REQUEST: a thread's request arrives at its engine, which goes on. -/
def execWeftRequest (core slot : Nat) (s : State) : Out :=
  let key := keyOf core slot
  let part := s.partOf core
  match waiting s key with
  | none => .next s
  | some w =>
    let n := w.eval.toNat
    if (w.kind ≠ 0x08 ∧ w.kind ≠ 0x09) ∨ !dieReachable s (dieOf (weftCore s part n key)) then .next s
    else if w.sent then .next (weftGo s part n noExt)
    else if (tget [] (s.thread key).efence 4).all (barrierPassed s key) then .next (weftGo (weftArrive s part n key) part n noExt)
    else .next s

/-- CAUSALITY_WALK: the partition's next walk, in the order the records were set, while its context is live (R286, R329). -/
def execCausalityWalk (part : BitVec 4) (s : State) : Out :=
  let p := s.part part.toNat
  match p.walks, p.ctx with
  | [], _ | _, .shadowed | _, .spilling | _, .spilled | _, .restoring | _, .failed => .next s
  | g :: rest, _ => .next (causalityWalk (s.setPart part.toNat { p with walks := rest }) part.toNat g)

end

end Sys2Proof.Machine
end

