-- ==== Sys2Proof/Machine/Replies.lean ====
section
/-! DEFINITION. The acceptance of stores (R197), replies to parked requests (R196, R367-R369). -/

namespace Sys2Proof.Machine

noncomputable section

/-! ## STORE_ACCEPT (R197) -/

/-- The point where an entry is performed can be reached (R18). -/
def entryReachable (s : State) (core : Nat) (e : StoreEntry) : Bool :=
  let atHome_ : Bool := match e.op with
    | .atomic _ _ | .release _ _ _ | .nibble _ => true
    | _ => false
  match e.place with
  | .spad c _ | .window c _ _ _ => dieReachable s (dieOf c)
  | .inbox k => dieReachable s (dieOf (coreOf k))
  | .global dva pa leaf =>
    dieReachable s (dieOf core) && match e.pkg s with
      | some pkg => routeOpen s pkg e
      | none => !(leafUC leaf || atHome_ || homedIn s (clusterOf core) e.part.toNat dva pa leaf) ||
          dieReachable s (dieOf (homeOf s e.part.toNat dva pa leaf))
  | .peer pkg _ => dieReachable s (dieOf core) && routeOpen s (BitVec.ofNat 10 pkg) e
  | .host _ => dieReachable s (dieOf core)

/-- The entry is performed at its point of R196: posted messages at their receiver, shuttles on their way. -/
def acceptEntry (s : State) (core : Nat) (e : StoreEntry) : State :=
  let key := keyOf core (e.slot % 16)
  match e.op, e.place with
  | .message, .inbox k => (inboxArrive s e.part.toNat k (BitVec.ofNat 64 (natOfBytes e.bytes)) (s.tid key)).1
  | .shuttle sh rel, _ =>
    let pkg := sh.desc.extractLsb' 0 10
    if pkgFailed s pkg then shuttleRefused s key sh.kid sh.desc 6 else s.send (.shuttle pkg e.part sh rel)
  | .mcst p seq, _ => mcstSend (performEntry s core e).1 core e p seq
  | _, _ =>
    let r := performEntry s core e
    if r.2 ∧ e.slot < 16 then killThread r.1 key POISON else r.1

/-- An AtomicOp of a host address stays in its queue until its completion has come (R206, R207). -/
def StoreEntry.hostAtomic (e : StoreEntry) : Bool :=
  match e.op, e.place with
  | .atomic _ _, .host _ => true
  | _, _ => false

/-- STORE_ACCEPT. -/
def execStoreAccept (core index : Nat) (s : State) : Out :=
  let c := s.core core
  match c.storeq[index]? with
  | none => .next s
  | some e =>
    if e.sent then .next s
    else if acceptable s core index ∧ entryReachable s core e then
      if e.hostAtomic then
        .next (performEntry (s.setCore core { c with storeq := c.storeq.set index { e with sent := true } }) core e).1
      else .next (acceptEntry (s.setCore core { c with storeq := removeAt c.storeq index }) core e)
    else .next s

/-! ## Replies to parked requests (R196, R367) -/

/-- The offset a waiting instruction's address has in its space, for bytes taken from the store queue. -/
def waitTarget (t : Thread) (eval : W64) : Nat :=
  let g := t.seg (eval.extractLsb' 61 3).toNat
  let o := g.base.toNat + (eval.extractLsb' 0 61).toNat
  if g.kind = 4 then o % 2 ^ 47 else o

/-- The destination of an instruction that waits for a status. -/
def statusDest : Instr → Option Reg
  | .msnd _ _ d | .shtl _ _ _ d | .reedArr _ d | .reedWait _ _ d | .reedSync _ d => some d
  | _ => none

/-- The acquire of a wait on a reed of another package that a phase has ended (R247). -/
def statusAcquire (i : Instr) (v : W64) : Option (BitVec 3) :=
  match i with
  | .reedWait _ _ _ | .reedSync _ _ => if v.getLsbD 63 || v.getLsbD 61 then none else some 5
  | _ => none

/-- What the bytes of a reply give a waiting load or atomic. -/
def dataReply (t : Thread) (w : Wait) (bs : List Byte) : Option Reply :=
  let got := patch w.taken (waitTarget t w.eval) (bs.take (readLen w.instr))
  match w.instr with
  | .ldc _ _ d =>
    some (Reply.reg d (bytesZ (if 64 ≤ bs.length then (bs.drop (waitTarget t w.eval % 64)).take 8 else bs.take 8)))
  | i =>
    match loadOf i, ldaOf i, atomicOf i with
    | some f, _, _ => some { Reply.plain with g := f.reg got, f := f.freg got }
    | none, some f, _ => some { Reply.plain with g := f.reg got, acquire := acqIf true f.scope }
    | none, none, some x => some { Reply.plain with g := x.result (natOfBytes (bs.take x.n)), acquire := acqIf x.acq x.scope }
    | none, none, none => none

/-- What a reply from outside gives a waiting thread. -/
def replyOf (t : Thread) (w : Wait) (ext : ExtReply) : Option Reply :=
  match ext with
  | .data v => dataReply t w (bytesOfNat 16 v.toNat)
  | .bytes bs => dataReply t w bs
  | .poison => some { Reply.plain with kill := true }
  | .refused => some (Reply.fail ACCESS w.eval)
  | .leaseGone => if (t.seg (w.eval.extractLsb' 61 3).toNat).kind ≤ 1 then some (Reply.fail LEASEGONE w.eval) else none
  | .status v => (statusDest w.instr).map (fun d => { Reply.reg d v with acquire := statusAcquire w.instr v })
  | .inside => none

/-- The bytes a table load, a LAUNCH or an LREQ was waiting for. -/
def blockReply (s : State) (key : Nat) (w : Wait) (bs : List Byte) : State :=
  let t := s.thread key
  match w.instr with
  | .rsldt _ | .rsldg _ =>
    answerWith s key ((tableArrive s key w.instr (some (bs.take (readLen w.instr)))).map (fun s => (s, Reply.plain)))
  | .launch b _ d => launchHas s key (bs.take 64) (t.rg b) d
  | .lreq _ _ =>
    s.setThread key { t with wait := some { w with taken := mwriteN [] 0 (bs.take 32), sent := true, remote := none } }
  | _ => s

/-- The line of a lender that an LDC has asked for fills the constant cache (R208). -/
def fillConstant (s : State) (key : Nat) (w : Wait) (ext : ExtReply) : State :=
  match w.instr, ext with
  | .ldc _ _ _, .bytes bs =>
    if bs.length < 64 then s
    else
      let core := coreOf key
      let c := s.core core
      s.setCore core { c with
        cc := linePut 256 c.cc (lineKey (s.partOf core) (waitTarget (s.thread key) w.eval)) (BitVec.ofNat 512 (natOfBytes (bs.take 64))) }
  | _, _ => s

/-- A reply from outside reaches its thread. -/
def outsideReply (s : State) (key : Nat) (w : Wait) (ext : ExtReply) : State :=
  let s := fillConstant s key w ext
  match replyOf (s.thread key) w ext, ext with
  | some r, _ => answer s key r
  | none, .bytes bs => blockReply s key w bs
  | none, .data v => blockReply s key w (bytesOfNat 16 v.toNat)
  | none, _ => s

/-- The partition of a context that is not live and whose thread waits for a reply from outside (R329). -/
def offWaits (s : State) (key : Nat) : Option (Nat × Thread × Wait) :=
  (List.range 16).findSome? (fun part => (offThreads s part).findSome? (fun x =>
    match x.2.unanswered with
    | some w =>
      if x.1 = key ∧ (w.kind = 0x01 ∨ w.kind = 0x06) ∧ w.remote.isSome ∧ !(s.part part).replies.any (fun y => y.1 == key) then
        some (part, x.2, w) else none
    | none => none))

/-- A fill or a load performed at its point inside the package when its reply comes. -/
def insideLoad (s : State) (key : Nat) (w : Wait) : Except Stop (State × Reply) :=
  match w.instr with
  | .rsldt _ | .rsldg _ => (tableArrive s key w.instr none).map (fun s => (s, Reply.plain))
  | .ldc im a d => do
    let ea ← effAddr ((s.thread key).rg a) (sx im)
    let dva ← ldcCheck (s.thread key) ea
    let (s1, leaf, pa) ← translate s (clusterOf (coreOf key)) (s.partOf (coreOf key)) dva accRead ea
    if leafCls leaf = 4 then return (s1, Reply.again)
    else if !placeReachable s1 key (.global dva pa leaf) then .error .hold
    else
      let r := ldcFill s1 (coreOf key) (s.partOf (coreOf key)) dva pa
      if r.2.2 then .error .poison
      return (r.1, Reply.reg d r.2.1)
  | i =>
    match loadOf i with
    | none => .error .hold
    | some f => do
      let ea ← effAddr ((s.thread key).rg f.base) f.off
      let (kind, o) ← accessCheck (s.thread key) ea f.n rightR
      let (s1, p) ← resolve s key ea f.n .load kind o
      match p with
      | .global dva pa leaf =>
        if leafCls leaf = 4 then return (s1, Reply.again)
        else if !placeReachable s1 key (.global dva pa leaf) then .error .hold
        else
          let r := loadNow s1 key (.global dva pa leaf) f.n w.taken
          if r.2.2 then .error .poison
          return (r.1, { Reply.plain with g := f.reg r.2.1, f := f.freg r.2.1 })
      | _ => .error .hold

/-- A reply of this package to itself, as a reply from outside. -/
def loopReply (kind : Nat) (bs : List Byte) : ExtReply :=
  match kind with
  | 0 => .bytes bs
  | 1 | 7 => .poison
  | 2 => .refused
  | 5 => .status (BitVec.ofNat 64 (natOfBytes bs))
  | _ => .inside

/-- The reply on its way inside the package to a thread. -/
def loopFor (s : State) (key : Nat) : Option (OutMsg × ExtReply) :=
  s.links.loop.findSome? (fun m => match m with
    | .reply _ tid kind _ bs => if tid = s.tid key ∧ kind ≤ 5 ∧ kind ≠ 3 then some (m, loopReply kind bs) else none
    | .shuttleStatus _ tid desc st =>
      (match waiting s key with
       | some w =>
         if tid = s.tid key ∧ w.eval = desc then
           (match w.instr with
            | .shtl _ _ _ _ => some (m, .status (st.setWidth 64))
            | _ => none)
         else none
       | none => none)
    | _ => none)

/-- A reply inside the package. -/
def insideReply (s : State) (key : Nat) (w : Wait) : State :=
  match loopFor s key with
  | some (m, ext) => outsideReply { s with links := { s.links with loop := s.links.loop.erase m } } key w ext
  | none =>
    match w.instr with
    | .lreq _ d =>
      if w.sent then leaseRequest s key w d
      else if w.remote.isSome then s
      else
        match leaseRead s key w.eval with
        | .ok s1 => s1
        | .error e => answerWith s key (.error e)
    | _ => if w.remote.isSome then s else answerWith s key (insideLoad s key w)

/-- The thread's oldest AtomicOp on its way to the host. -/
def hostSent (s : State) (key : Nat) : Option StoreEntry :=
  (s.core (coreOf key)).storeq.find? (fun e => e.sent && e.slot % 16 == slotOf key)

/-- The completion of a no-return AtomicOp: it has executed and leaves the queue, or it traps ACCESS with its address (R206, R207). -/
def hostAtomicDone (s : State) (key : Nat) (e : StoreEntry) (ext : ExtReply) : State :=
  let c := s.core (coreOf key)
  let s1 := s.setCore (coreOf key) { c with storeq := c.storeq.erase e }
  if 16 ≤ e.slot then s1
  else if ext = .refused ∧ twinLag s key then s
  else
    match ext with
    | .refused => lateTrap s1 key ACCESS e.addr
    | .poison => killThread s1 key POISON
    | _ => s1

/-- The completion of a no-return AtomicOp comes before a reply of the host that the thread waits for (log 104). -/
def hostFirst (s : State) (key : Nat) : Option StoreEntry :=
  match waiting s key with
  | some w =>
    if w.kind = 0x01 ∧ w.remote.isSome ∧ ((s.thread key).seg (w.eval.extractLsb' 61 3).toNat).kind ≠ 5 then none else hostSent s key
  | none => hostSent s key

/-- A reply that no live thread waits for: buffered for a context that is not live, or lost (R329, R369); poison of a posted
operation kills its thread. -/
def strayReply (s : State) (key : Nat) (e : ExtReply) : State :=
  match offWaits s key with
  | some (part, t, w) => bufferReply s part key (Deferred.ofReply ((replyOf t w e).getD Reply.again))
  | none =>
    if e = .poison ∧ (s.thread key).peers.any (fun p => !p.2.pending.isEmpty) then killThread s key POISON else s

/-- A thread waits for a table walk, and no die relocks: its access issues again (R18). -/
def walkDone (s : State) (key : Nat) : Bool :=
  (match (s.thread key).unanswered with
   | some w => w.walk
   | none => false) && (List.range 4).all (dieReachable s)

/-- A thread waits for a reply from outside: a parked access, a host atomic in the store queue, or a skein request. -/
def awaitsReply (s : State) (key : Nat) : Bool :=
  (hostFirst s key).isSome || match waiting s key with
    | some w => w.remote.isSome || w.kind == 0x08 || w.kind == 0x09
    | none => false

/-- REMOTE_REPLY_ARRIVAL: a reply from outside that names a vacated core follows its thread (R338). -/
def execRemoteReplyArrival (core slot : Nat) (ext : ExtReply) (s : State) : Out :=
  let key := if ext = .inside then keyOf core slot else forwardedKey s (keyOf core slot) (awaitsReply s)
  if walkDone s key then .next (answer s key Reply.again)
  else
  match (if ext = .inside then none else hostFirst s key) with
  | some e => .next (hostAtomicDone s key e ext)
  | none =>
  match waiting s key, ext with
  | some w, .inside => if w.kind = 0x01 then .next (insideReply s key w) else .next s
  | some w, e => if (w.kind = 0x01 ∨ w.kind = 0x06) ∧ w.remote.isSome then .next (outsideReply s key w e)
    else .next ((weftReply s key w e).getD (strayReply s key e))
  | none, .inside =>
    (match loopFor s key with
     | some (m, e) => .next (strayReply { s with links := { s.links with loop := s.links.loop.erase m } } key e)
     | none => .next s)
  | none, e => .next (strayReply s key e)

/-- PCIE_COMPLETION_TIMEOUT. -/
def execPcieCompletionTimeout (core slot : Nat) (s : State) : Out :=
  let key := keyOf core slot
  match hostFirst s key, waiting s key with
  | some e, _ => .next (hostAtomicDone s key e .refused)
  | none, none => .next s
  | none, some w =>
    if w.kind = 0x01 ∧ w.remote.isSome ∧ ((s.thread key).seg (w.eval.extractLsb' 61 3).toNat).kind = 5 ∧ (statusDest w.instr).isNone then
      .next (answer s key (Reply.fail ACCESS w.eval))
    else .next s

end

end Sys2Proof.Machine
end

