-- ==== Sys2Proof/Machine/Dispatch.lean ====
section
/-! DEFINITION. The meaning of every constructor of Instr: one arm each, one call each. -/

namespace Sys2Proof.Machine

open Host in noncomputable
def exec (i : Instr) (s : State) : Host.Outcome State Fault Refusal :=
  match i with
  | .mreqWrite die m => Sys2Proof.Machine.execMreqWrite die m s
  | .powerComparison draw => Sys2Proof.Machine.execPowerComparison draw s
  | .relockEnd die => Sys2Proof.Machine.execRelockEnd die s
  | .instructionComplete core slot => Sys2Proof.Machine.execInstructionComplete core slot s
  | .parkWake core slot => Sys2Proof.Machine.execParkWake core slot s
  | .waitLimitExpiry core slot => Sys2Proof.Machine.execWaitLimitExpiry core slot s
  | .sleepTimeout core slot => Sys2Proof.Machine.execSleepTimeout core slot s
  | .handlerStart core => Sys2Proof.Machine.execHandlerStart core s
  | .scrubComplete core slot => Sys2Proof.Machine.execScrubComplete core slot s
  | .lockTimeout core lo => Sys2Proof.Machine.execLockTimeout core lo s
  | .hevecWrite part v => Sys2Proof.Machine.execHevecWrite part v s
  | .cpartWrite core v => Sys2Proof.Machine.execCpartWrite core v s
  | .followerWaitExpiry core slot => Sys2Proof.Machine.execFollowerWaitExpiry core slot s
  | .seqEntryIssue core slot => Sys2Proof.Machine.execSeqEntryIssue core slot s
  | .seqEntryComplete core slot => Sys2Proof.Machine.execSeqEntryComplete core slot s
  | .streamPrefetch core slot stream ext => Sys2Proof.Machine.execStreamPrefetch core slot stream ext s
  | .sfuAccept clu => Sys2Proof.Machine.execSfuAccept clu s
  | .sfuResult clu => Sys2Proof.Machine.execSfuResult clu s
  | .normaliserService clu => Sys2Proof.Machine.execNormaliserService clu s
  | .matrixEntryStart core urgent => Sys2Proof.Machine.execMatrixEntryStart core urgent s
  | .jobStepIssue core urgent => Sys2Proof.Machine.execJobStepIssue core urgent s
  | .jobPromotion core urgent => Sys2Proof.Machine.execJobPromotion core urgent s
  | .enginePause core copy urgent => Sys2Proof.Machine.execEnginePause core copy urgent s
  | .engineResume core copy urgent => Sys2Proof.Machine.execEngineResume core copy urgent s
  | .mldbEnd core urgent => Sys2Proof.Machine.execMldbEnd core urgent s
  | .mzeroEnd core urgent => Sys2Proof.Machine.execMzeroEnd core urgent s
  | .mrdEnd core urgent => Sys2Proof.Machine.execMrdEnd core urgent s
  | .copyRow core urgent ext => Sys2Proof.Machine.execCopyRow core urgent ext s
  | .copyEnd core urgent => Sys2Proof.Machine.execCopyEnd core urgent s
  | .storeAccept core index => Sys2Proof.Machine.execStoreAccept core index s
  | .remoteReplyArrival core slot ext => Sys2Proof.Machine.execRemoteReplyArrival core slot ext s
  | .tileAccessMessage core slot => Sys2Proof.Machine.execTileAccessMessage core slot s
  | .homeAtomic core slot => Sys2Proof.Machine.execHomeAtomic core slot s
  | .writebackMerge clu index => Sys2Proof.Machine.execWritebackMerge clu index s
  | .stagingEviction clu key => Sys2Proof.Machine.execStagingEviction clu key s
  | .l2effSample die mean slices => Sys2Proof.Machine.execL2effSample die mean slices s
  | .scrubUnit core array unit bad corrected => Sys2Proof.Machine.execScrubUnit core array unit bad corrected s
  | .reedArrivalMessage src => Sys2Proof.Machine.execReedArrivalMessage src s
  | .tagMessage core slot => Sys2Proof.Machine.execTagMessage core slot s
  | .tagRequestRetry core slot => Sys2Proof.Machine.execTagRequestRetry core slot s
  | .inboxDelivery core slot src => Sys2Proof.Machine.execInboxDelivery core slot src s
  | .weftRequest core slot => Sys2Proof.Machine.execWeftRequest core slot s
  | .causalityWalk part => Sys2Proof.Machine.execCausalityWalk part s
  | .qcfgOpen fn q v => Sys2Proof.Machine.execQcfgOpen fn q v s
  | .qcfgClose fn q v => Sys2Proof.Machine.execQcfgClose fn q v s
  | .qcfgDrain fn q v => Sys2Proof.Machine.execQcfgDrain fn q v s
  | .qcfgThaw fn q v => Sys2Proof.Machine.execQcfgThaw fn q v s
  | .qcfgPurge fn q v => Sys2Proof.Machine.execQcfgPurge fn q v s
  | .qcntClear fn q v => Sys2Proof.Machine.execQcntClear fn q v s
  | .enqueueWindowWrite fn q bytes aligned => Sys2Proof.Machine.execEnqueueWindowWrite fn q bytes aligned s
  | .dispatchDecision => Sys2Proof.Machine.execDispatchDecision s
  | .rankBind core => Sys2Proof.Machine.execRankBind core s
  | .kernelReleaseEnd q serial => Sys2Proof.Machine.execKernelReleaseEnd q serial s
  | .watchdogExpiry q serial => Sys2Proof.Machine.execWatchdogExpiry q serial s
  | .tokenHostWrite fn tok v => Sys2Proof.Machine.execTokenHostWrite fn tok v s
  | .partitionOpen part => Sys2Proof.Machine.execPartitionOpen part s
  | .partitionClose part => Sys2Proof.Machine.execPartitionClose part s
  | .haltComplete part => Sys2Proof.Machine.execHaltComplete part s
  | .shadowTransferEnd part lost => Sys2Proof.Machine.execShadowTransferEnd part lost s
  | .spillEnd part ok => Sys2Proof.Machine.execSpillEnd part ok s
  | .restoreEnd part lost fatal => Sys2Proof.Machine.execRestoreEnd part lost fatal s
  | .migrationEnd core => Sys2Proof.Machine.execMigrationEnd core s
  | .tableWalkEnd clu part dva acc src => Sys2Proof.Machine.execTableWalkEnd clu part dva acc src s
  | .pgwakeWake die rid => Sys2Proof.Machine.execPgwakeWake die rid s
  | .pgwakeRefuse die rid => Sys2Proof.Machine.execPgwakeRefuse die rid s
  | .evpop die => Sys2Proof.Machine.execEvpop die s
  | .pgpop die => Sys2Proof.Machine.execPgpop die s
  | .evstatClear die v => Sys2Proof.Machine.execEvstatClear die v s
  | .atsResponse page ok => Sys2Proof.Machine.execAtsResponse page ok s
  | .atsInvalidation page count => Sys2Proof.Machine.execAtsInvalidation page count s
  | .leaseGrant part n ngrant tEvict termEnd frames => Sys2Proof.Machine.execLeaseGrant part n ngrant tEvict termEnd frames s
  | .leaseDeny part n => Sys2Proof.Machine.execLeaseDeny part n s
  | .leaseReclaim part n => Sys2Proof.Machine.execLeaseReclaim part n s
  | .leaseTermEnd part n => Sys2Proof.Machine.execLeaseTermEnd part n s
  | .reclaimGranuleCopy part n granule data => Sys2Proof.Machine.execReclaimGranuleCopy part n granule data s
  | .leaseAck part n => Sys2Proof.Machine.execLeaseAck part n s
  | .reclaimDeadline part n => Sys2Proof.Machine.execReclaimDeadline part n s
  | .portcEnable port => Sys2Proof.Machine.execPortcEnable port s
  | .portcFence port => Sys2Proof.Machine.execPortcFence port s
  | .portcDisable port => Sys2Proof.Machine.execPortcDisable port s
  | .trainingComplete port domain => Sys2Proof.Machine.execTrainingComplete port domain s
  | .trainingTimeout port => Sys2Proof.Machine.execTrainingTimeout port s
  | .linkError port => Sys2Proof.Machine.execLinkError port s
  | .retrainComplete port => Sys2Proof.Machine.execRetrainComplete port s
  | .retrainTimeout port => Sys2Proof.Machine.execRetrainTimeout port s
  | .partnerLost port => Sys2Proof.Machine.execPartnerLost port s
  | .peerRequest pkg part tid req => Sys2Proof.Machine.execPeerRequest pkg part tid req s
  | .peerAck core slot pkg refused address => Sys2Proof.Machine.execPeerAck core slot pkg refused address s
  | .remoteAccessTimeout core slot => Sys2Proof.Machine.execRemoteAccessTimeout core slot s
  | .countedReleaseTimeout index => Sys2Proof.Machine.execCountedReleaseTimeout index s
  | .countedReleasePerform index => Sys2Proof.Machine.execCountedReleasePerform index s
  | .mcstCopyWrite pkg part tid sub dva v => Sys2Proof.Machine.execMcstCopyWrite pkg part tid sub dva v s
  | .staleNotice pkg part sub => Sys2Proof.Machine.execStaleNotice pkg part sub s
  | .aredPhaseComplete part g peers failed => Sys2Proof.Machine.execAredPhaseComplete part g peers failed s
  | .shuttleArrival pkg part sh release => Sys2Proof.Machine.execShuttleArrival pkg part sh release s
  | .shuttleReplyArrival part kid tid w1 w2 rtok => Sys2Proof.Machine.execShuttleReplyArrival part kid tid w1 w2 rtok s
  | .replyHoldTimeout index => Sys2Proof.Machine.execReplyHoldTimeout index s
  | .shuttleRefusal core slot kid desc status => Sys2Proof.Machine.execShuttleRefusal core slot kid desc status s
  | .bar2Write fn offset bytes => Sys2Proof.Machine.execBar2Write fn offset bytes s
  | .bar2Read fn offset n => Sys2Proof.Machine.execBar2Read fn offset n s
  | .bar2Atomic fn offset op n operand compare => Sys2Proof.Machine.execBar2Atomic fn offset op n operand compare s
  | .mailboxMessage fn words => Sys2Proof.Machine.execMailboxMessage fn words s
  | .imageSubmit fn img => Sys2Proof.Machine.execImageSubmit fn img s
  | .attestRequest fn nonce => Sys2Proof.Machine.execAttestRequest fn nonce s
  | .packageReset pkgNumber railLow romOk img => Sys2Proof.Machine.execPackageReset pkgNumber railLow romOk img s
  | .l2Recovery die railLow => Sys2Proof.Machine.execL2Recovery die railLow s
  | .fatalError kind => Sys2Proof.Machine.execFatalError kind s
  | .dumpWrite => Sys2Proof.Machine.execDumpWrite s
  | .dumpTimeout => Sys2Proof.Machine.execDumpTimeout s
  | .escalKillServed core => Sys2Proof.Machine.execEscalKillServed core s
  | .escalKillAll core => Sys2Proof.Machine.execEscalKillAll core s
  | .thermtrip die => Sys2Proof.Machine.execThermtrip die s
  | .smbusReadTelemetry temps draw => Sys2Proof.Machine.execSmbusReadTelemetry temps draw s
  | .smbusReadStage => Sys2Proof.Machine.execSmbusReadStage s
  | .smbusSetPowerLimit watts => Sys2Proof.Machine.execSmbusSetPowerLimit watts s
  | .registerWrite reg v => Sys2Proof.Machine.execRegisterWrite reg v s
  | .add w b a d => Sys2Proof.Machine.execAdd w b a d s
  | .sub w b a d => Sys2Proof.Machine.execSub w b a d s
  | .and w b a d => Sys2Proof.Machine.execAnd w b a d s
  | .or w b a d => Sys2Proof.Machine.execOr w b a d s
  | .xor w b a d => Sys2Proof.Machine.execXor w b a d s
  | .andn w b a d => Sys2Proof.Machine.execAndn w b a d s
  | .orn w b a d => Sys2Proof.Machine.execOrn w b a d s
  | .xnor w b a d => Sys2Proof.Machine.execXnor w b a d s
  | .shl w b a d => Sys2Proof.Machine.execShl w b a d s
  | .shr w b a d => Sys2Proof.Machine.execShr w b a d s
  | .shra w b a d => Sys2Proof.Machine.execShra w b a d s
  | .rol w b a d => Sys2Proof.Machine.execRol w b a d s
  | .ror w b a d => Sys2Proof.Machine.execRor w b a d s
  | .slt w b a d => Sys2Proof.Machine.execSlt w b a d s
  | .sltu w b a d => Sys2Proof.Machine.execSltu w b a d s
  | .min w b a d => Sys2Proof.Machine.execMin w b a d s
  | .max w b a d => Sys2Proof.Machine.execMax w b a d s
  | .minu w b a d => Sys2Proof.Machine.execMinu w b a d s
  | .maxu w b a d => Sys2Proof.Machine.execMaxu w b a d s
  | .mul w b a d => Sys2Proof.Machine.execMul w b a d s
  | .hmul w b a d => Sys2Proof.Machine.execHmul w b a d s
  | .hmulu w b a d => Sys2Proof.Machine.execHmulu w b a d s
  | .hmulm w b a d => Sys2Proof.Machine.execHmulm w b a d s
  | .div w b a d => Sys2Proof.Machine.execDiv w b a d s
  | .divu w b a d => Sys2Proof.Machine.execDivu w b a d s
  | .rem w b a d => Sys2Proof.Machine.execRem w b a d s
  | .remu w b a d => Sys2Proof.Machine.execRemu w b a d s
  | .clz w a d => Sys2Proof.Machine.execClz w a d s
  | .ctz w a d => Sys2Proof.Machine.execCtz w a d s
  | .popc w a d => Sys2Proof.Machine.execPopc w a d s
  | .brev w a d => Sys2Proof.Machine.execBrev w a d s
  | .bswap w a d => Sys2Proof.Machine.execBswap w a d s
  | .sext w a d => Sys2Proof.Machine.execSext w a d s
  | .zext w a d => Sys2Proof.Machine.execZext w a d s
  | .bfx w b a d => Sys2Proof.Machine.execBfx w b a d s
  | .bfi w b a d => Sys2Proof.Machine.execBfi w b a d s
  | .csel c b a d => Sys2Proof.Machine.execCsel c b a d s
  | .madd w c b a d => Sys2Proof.Machine.execMadd w c b a d s
  | .msub w c b a d => Sys2Proof.Machine.execMsub w c b a d s
  | .addi im a d => Sys2Proof.Machine.execAddi im a d s
  | .andi im a d => Sys2Proof.Machine.execAndi im a d s
  | .ori im a d => Sys2Proof.Machine.execOri im a d s
  | .xori im a d => Sys2Proof.Machine.execXori im a d s
  | .shli im a d => Sys2Proof.Machine.execShli im a d s
  | .shri im a d => Sys2Proof.Machine.execShri im a d s
  | .shrai im a d => Sys2Proof.Machine.execShrai im a d s
  | .slti im a d => Sys2Proof.Machine.execSlti im a d s
  | .sltiu im a d => Sys2Proof.Machine.execSltiu im a d s
  | .ldh im d => Sys2Proof.Machine.execLdh im d s
  | .addpc im d => Sys2Proof.Machine.execAddpc im d s
  | .beq f b a => Sys2Proof.Machine.execBeq f b a s
  | .bne f b a => Sys2Proof.Machine.execBne f b a s
  | .blt f b a => Sys2Proof.Machine.execBlt f b a s
  | .bge f b a => Sys2Proof.Machine.execBge f b a s
  | .bltu f b a => Sys2Proof.Machine.execBltu f b a s
  | .bgeu f b a => Sys2Proof.Machine.execBgeu f b a s
  | .jal f d => Sys2Proof.Machine.execJal f d s
  | .jalr im a d => Sys2Proof.Machine.execJalr im a d s
  | .lb im a d => Sys2Proof.Machine.execLb im a d s
  | .lh im a d => Sys2Proof.Machine.execLh im a d s
  | .lw im a d => Sys2Proof.Machine.execLw im a d s
  | .ld im a d => Sys2Proof.Machine.execLd im a d s
  | .lbu im a d => Sys2Proof.Machine.execLbu im a d s
  | .lhu im a d => Sys2Proof.Machine.execLhu im a d s
  | .lwu im a d => Sys2Proof.Machine.execLwu im a d s
  | .lq im a d => Sys2Proof.Machine.execLq im a d s
  | .ldc im a d => Sys2Proof.Machine.execLdc im a d s
  | .ldaW sc a d => Sys2Proof.Machine.execLdaW sc a d s
  | .ldaD sc a d => Sys2Proof.Machine.execLdaD sc a d s
  | .ldaQ sc a d => Sys2Proof.Machine.execLdaQ sc a d s
  | .sb im b a => Sys2Proof.Machine.execSb im b a s
  | .sh im b a => Sys2Proof.Machine.execSh im b a s
  | .sw im b a => Sys2Proof.Machine.execSw im b a s
  | .sd im b a => Sys2Proof.Machine.execSd im b a s
  | .sq im b a => Sys2Proof.Machine.execSq im b a s
  | .snib h b a => Sys2Proof.Machine.execSnib h b a s
  | .strlW sc b a => Sys2Proof.Machine.execStrlW sc b a s
  | .strlD sc b a => Sys2Proof.Machine.execStrlD sc b a s
  | .strlQ sc b a => Sys2Proof.Machine.execStrlQ sc b a s
  | .atomAddW sc o b a d => Sys2Proof.Machine.execAtomAddW sc o b a d s
  | .atomAndW sc o b a d => Sys2Proof.Machine.execAtomAndW sc o b a d s
  | .atomOrW sc o b a d => Sys2Proof.Machine.execAtomOrW sc o b a d s
  | .atomXorW sc o b a d => Sys2Proof.Machine.execAtomXorW sc o b a d s
  | .atomMinW sc o b a d => Sys2Proof.Machine.execAtomMinW sc o b a d s
  | .atomMaxW sc o b a d => Sys2Proof.Machine.execAtomMaxW sc o b a d s
  | .atomMinuW sc o b a d => Sys2Proof.Machine.execAtomMinuW sc o b a d s
  | .atomMaxuW sc o b a d => Sys2Proof.Machine.execAtomMaxuW sc o b a d s
  | .atomSwapW sc o b a d => Sys2Proof.Machine.execAtomSwapW sc o b a d s
  | .atomAddD sc o b a d => Sys2Proof.Machine.execAtomAddD sc o b a d s
  | .atomAndD sc o b a d => Sys2Proof.Machine.execAtomAndD sc o b a d s
  | .atomOrD sc o b a d => Sys2Proof.Machine.execAtomOrD sc o b a d s
  | .atomXorD sc o b a d => Sys2Proof.Machine.execAtomXorD sc o b a d s
  | .atomMinD sc o b a d => Sys2Proof.Machine.execAtomMinD sc o b a d s
  | .atomMaxD sc o b a d => Sys2Proof.Machine.execAtomMaxD sc o b a d s
  | .atomMinuD sc o b a d => Sys2Proof.Machine.execAtomMinuD sc o b a d s
  | .atomMaxuD sc o b a d => Sys2Proof.Machine.execAtomMaxuD sc o b a d s
  | .atomSwapD sc o b a d => Sys2Proof.Machine.execAtomSwapD sc o b a d s
  | .fatomFadd t sc o b a d => Sys2Proof.Machine.execFatomFadd t sc o b a d s
  | .fatomFmin t sc o b a d => Sys2Proof.Machine.execFatomFmin t sc o b a d s
  | .fatomFmax t sc o b a d => Sys2Proof.Machine.execFatomFmax t sc o b a d s
  | .fatompFadd t sc o b a d => Sys2Proof.Machine.execFatompFadd t sc o b a d s
  | .fatompFmin t sc o b a d => Sys2Proof.Machine.execFatompFmin t sc o b a d s
  | .fatompFmax t sc o b a d => Sys2Proof.Machine.execFatompFmax t sc o b a d s
  | .casW sc o b a d => Sys2Proof.Machine.execCasW sc o b a d s
  | .casD sc o b a d => Sys2Proof.Machine.execCasD sc o b a d s
  | .casQ sc o b a d => Sys2Proof.Machine.execCasQ sc o b a d s
  | .wbr sc b a => Sys2Proof.Machine.execWbr sc b a s
  | .invr sc b a => Sys2Proof.Machine.execInvr sc b a s
  | .disc sc b a => Sys2Proof.Machine.execDisc sc b a s
  | .pref sc b a => Sys2Proof.Machine.execPref sc b a s
  | .cinv => Sys2Proof.Machine.execCinv s
  | .fence sc d => Sys2Proof.Machine.execFence sc d s
  | .rel sc => Sys2Proof.Machine.execRel sc s
  | .acq sc => Sys2Proof.Machine.execAcq sc s
  | .hint n => Sys2Proof.Machine.execHint n s
  | .fadd t b a d => Sys2Proof.Machine.execFadd t b a d s
  | .fsub t b a d => Sys2Proof.Machine.execFsub t b a d s
  | .fmul t b a d => Sys2Proof.Machine.execFmul t b a d s
  | .fdiv t b a d => Sys2Proof.Machine.execFdiv t b a d s
  | .fsqrt t a d => Sys2Proof.Machine.execFsqrt t a d s
  | .fmin t b a d => Sys2Proof.Machine.execFmin t b a d s
  | .fmax t b a d => Sys2Proof.Machine.execFmax t b a d s
  | .fcpys t b a d => Sys2Proof.Machine.execFcpys t b a d s
  | .fcpyns t b a d => Sys2Proof.Machine.execFcpyns t b a d s
  | .fxors t b a d => Sys2Proof.Machine.execFxors t b a d s
  | .feq t b a d => Sys2Proof.Machine.execFeq t b a d s
  | .flt t b a d => Sys2Proof.Machine.execFlt t b a d s
  | .fle t b a d => Sys2Proof.Machine.execFle t b a d s
  | .fkind t a d => Sys2Proof.Machine.execFkind t a d s
  | .fmadd t c b a d => Sys2Proof.Machine.execFmadd t c b a d s
  | .fmsub t c b a d => Sys2Proof.Machine.execFmsub t c b a d s
  | .fnmadd t c b a d => Sys2Proof.Machine.execFnmadd t c b a d s
  | .fnmsub t c b a d => Sys2Proof.Machine.execFnmsub t c b a d s
  | .fcvt u t b a d => Sys2Proof.Machine.execFcvt u t b a d s
  | .ftog a d => Sys2Proof.Machine.execFtog a d s
  | .ftogh a d => Sys2Proof.Machine.execFtogh a d s
  | .gtof b a d => Sys2Proof.Machine.execGtof b a d s
  | .splat t a d => Sys2Proof.Machine.execSplat t a d s
  | .shuf t b a d => Sys2Proof.Machine.execShuf t b a d s
  | .flq im a d => Sys2Proof.Machine.execFlq im a d s
  | .fsq im b a => Sys2Proof.Machine.execFsq im b a s
  | .qadd t b a d => Sys2Proof.Machine.execQadd t b a d s
  | .qsub t b a d => Sys2Proof.Machine.execQsub t b a d s
  | .qmul t b a d => Sys2Proof.Machine.execQmul t b a d s
  | .qshr t b a d => Sys2Proof.Machine.execQshr t b a d s
  | .qsat a d => Sys2Proof.Machine.execQsat a d s
  | .qrng t a d => Sys2Proof.Machine.execQrng t a d s
  | .qabs t a d => Sys2Proof.Machine.execQabs t a d s
  | .rsadd l b a d => Sys2Proof.Machine.execRsadd l b a d s
  | .rssub l b a d => Sys2Proof.Machine.execRssub l b a d s
  | .rsmul l b a d => Sys2Proof.Machine.execRsmul l b a d s
  | .rsdiv l b a d => Sys2Proof.Machine.execRsdiv l b a d s
  | .rsneg l a d => Sys2Proof.Machine.execRsneg l a d s
  | .rsrec l a d => Sys2Proof.Machine.execRsrec l a d s
  | .rssqr l a d => Sys2Proof.Machine.execRssqr l a d s
  | .rssqrt l a d => Sys2Proof.Machine.execRssqrt l a d s
  | .rsuni l b a d => Sys2Proof.Machine.execRsuni l b a d s
  | .rsint l b a d => Sys2Proof.Machine.execRsint l b a d s
  | .rsfrom l b a d => Sys2Proof.Machine.execRsfrom l b a d s
  | .rslo l a d => Sys2Proof.Machine.execRslo l a d s
  | .rshi l a d => Sys2Proof.Machine.execRshi l a d s
  | .rspack b a d => Sys2Proof.Machine.execRspack b a d s
  | .rsunpk b a d => Sys2Proof.Machine.execRsunpk b a d s
  | .rsemp l a d => Sys2Proof.Machine.execRsemp l a d s
  | .rsldt a => Sys2Proof.Machine.execRsldt a s
  | .rsldg a => Sys2Proof.Machine.execRsldg a s
  | .fexp2 t a d => Sys2Proof.Machine.execFexp2 t a d s
  | .flog2 t a d => Sys2Proof.Machine.execFlog2 t a d s
  | .frcp t a d => Sys2Proof.Machine.execFrcp t a d s
  | .frsq t a d => Sys2Proof.Machine.execFrsq t a d s
  | .fsinpi t a d => Sys2Proof.Machine.execFsinpi t a d s
  | .fcospi t a d => Sys2Proof.Machine.execFcospi t a d s
  | .ftanh t a d => Sys2Proof.Machine.execFtanh t a d s
  | .ferf t a d => Sys2Proof.Machine.execFerf t a d s
  | .fsigm t a d => Sys2Proof.Machine.execFsigm t a d s
  | .sbound n l a => Sys2Proof.Machine.execSbound n l a s
  | .sstride n l a => Sys2Proof.Machine.execSstride n l a s
  | .sbase n a => Sys2Proof.Machine.execSbase n a s
  | .sen n a d => Sys2Proof.Machine.execSen n a d s
  | .sdis n => Sys2Proof.Machine.execSdis n s
  | .sdrain n d => Sys2Proof.Machine.execSdrain n d s
  | .sstat n d => Sys2Proof.Machine.execSstat n d s
  | .seq a n => Sys2Proof.Machine.execSeq a n s
  | .qwg q b a => Sys2Proof.Machine.execQwg q b a s
  | .qwf q a => Sys2Proof.Machine.execQwf q a s
  | .qrg q d => Sys2Proof.Machine.execQrg q d s
  | .qrf q d => Sys2Proof.Machine.execQrf q d s
  | .qcnt q d => Sys2Proof.Machine.execQcnt q d s
  | .mjobAcc park m a p0 p1 p2 p3 => Sys2Proof.Machine.execMjobAcc park m a p0 p1 p2 p3 s
  | .mjobOvr park m a p0 p1 p2 p3 => Sys2Proof.Machine.execMjobOvr park m a p0 p1 p2 p3 s
  | .mldb t c b a n => Sys2Proof.Machine.execMldb t c b a n s
  | .mzero c m => Sys2Proof.Machine.execMzero c m s
  | .mrd c b a m => Sys2Proof.Machine.execMrd c b a m s
  | .mstat a d => Sys2Proof.Machine.execMstat a d s
  | .cpyMem follow b a d p0 p1 p2 p3 => Sys2Proof.Machine.execCpyMem follow b a d p0 p1 p2 p3 s
  | .cpyBob follow b a d p0 p1 p2 p3 => Sys2Proof.Machine.execCpyBob follow b a d p0 p1 p2 p3 s
  | .cpyCim follow b a d p0 p1 p2 p3 => Sys2Proof.Machine.execCpyCim follow b a d p0 p1 p2 p3 s
  | .ewait a d => Sys2Proof.Machine.execEwait a d s
  | .efence m => Sys2Proof.Machine.execEfence m s
  | .ecancel a d => Sys2Proof.Machine.execEcancel a d s
  | .reedArr a d => Sys2Proof.Machine.execReedArr a d s
  | .reedWait b a d => Sys2Proof.Machine.execReedWait b a d s
  | .reedSync a d => Sys2Proof.Machine.execReedSync a d s
  | .reedQry w a d => Sys2Proof.Machine.execReedQry w a d s
  | .lde sc a d => Sys2Proof.Machine.execLde sc a d s
  | .ldf sc a d => Sys2Proof.Machine.execLdf sc a d s
  | .stf sc b a => Sys2Proof.Machine.execStf sc b a s
  | .ste sc b a => Sys2Proof.Machine.execSte sc b a s
  | .tagi sc a v => Sys2Proof.Machine.execTagi sc a v s
  | .tagr sc a d => Sys2Proof.Machine.execTagr sc a d s
  | .bbinit b a d => Sys2Proof.Machine.execBbinit b a d s
  | .bbres a d => Sys2Proof.Machine.execBbres a d s
  | .bbcom b a d => Sys2Proof.Machine.execBbcom b a d s
  | .bbacq a d => Sys2Proof.Machine.execBbacq a d s
  | .bbrel b a d => Sys2Proof.Machine.execBbrel b a d s
  | .bbqry a d => Sys2Proof.Machine.execBbqry a d s
  | .msnd b a d => Sys2Proof.Machine.execMsnd b a d s
  | .mrcv d => Sys2Proof.Machine.execMrcv d s
  | .mpoll d => Sys2Proof.Machine.execMpoll d s
  | .skw c b a d => Sys2Proof.Machine.execSkw c b a d s
  | .skr c b a d => Sys2Proof.Machine.execSkr c b a d s
  | .skre c b a d => Sys2Proof.Machine.execSkre c b a d s
  | .skbind b a d => Sys2Proof.Machine.execSkbind b a d s
  | .skflr b a d => Sys2Proof.Machine.execSkflr b a d s
  | .skqry n a d => Sys2Proof.Machine.execSkqry n a d s
  | .skunb b a d => Sys2Proof.Machine.execSkunb b a d s
  | .shtl r n a d => Sys2Proof.Machine.execShtl r n a d s
  | .mcst b a d => Sys2Proof.Machine.execMcst b a d s
  | .pubv b a d => Sys2Proof.Machine.execPubv b a d s
  | .subv n a d => Sys2Proof.Machine.execSubv n a d s
  | .ared p b a d => Sys2Proof.Machine.execAred p b a d s
  | .shtr a d => Sys2Proof.Machine.execShtr a d s
  | .lreq a d => Sys2Proof.Machine.execLreq a d s
  | .lrel b a d => Sys2Proof.Machine.execLrel b a d s
  | .lqry n a d => Sys2Proof.Machine.execLqry n a d s
  | .csrr n d => Sys2Proof.Machine.execCsrr n d s
  | .csrw n a d => Sys2Proof.Machine.execCsrw n a d s
  | .csrs n a d => Sys2Proof.Machine.execCsrs n a d s
  | .csrc n a d => Sys2Proof.Machine.execCsrc n a d s
  | .trap a => Sys2Proof.Machine.execTrap a s
  | .eret => Sys2Proof.Machine.execEret s
  | .kill => Sys2Proof.Machine.execKill s
  | .yield => Sys2Proof.Machine.execYield s
  | .sleep a d => Sys2Proof.Machine.execSleep a d s
  | .wake a d => Sys2Proof.Machine.execWake a d s
  | .kexit => Sys2Proof.Machine.execKexit s
  | .twin d => Sys2Proof.Machine.execTwin d s
  | .untwin d => Sys2Proof.Machine.execUntwin d s
  | .follow d => Sys2Proof.Machine.execFollow d s
  | .detach d => Sys2Proof.Machine.execDetach d s
  | .join d => Sys2Proof.Machine.execJoin d s
  | .chk d => Sys2Proof.Machine.execChk d s
  | .nest a d => Sys2Proof.Machine.execNest a d s
  | .iter f a => Sys2Proof.Machine.execIter f a s
  | .rdcyc d => Sys2Proof.Machine.execRdcyc d s
  | .rdtim d => Sys2Proof.Machine.execRdtim d s
  | .rdstep n a d => Sys2Proof.Machine.execRdstep n a d s
  | .launch b a d => Sys2Proof.Machine.execLaunch b a d s
  | .tokw a d => Sys2Proof.Machine.execTokw a d s
  | .toks b a d => Sys2Proof.Machine.execToks b a d s
  | .tokq a d => Sys2Proof.Machine.execTokq a d s
  | .toke a d => Sys2Proof.Machine.execToke a d s
  | .segr sc w d => Sys2Proof.Machine.execSegr sc w d s
  | .segw sc w a d => Sys2Proof.Machine.execSegw sc w a d s
  | .segn sc b a d => Sys2Proof.Machine.execSegn sc b a d s
  | .splk b a d => Sys2Proof.Machine.execSplk b a d s
  | .spul a d => Sys2Proof.Machine.execSpul a d s
  | .pinv b a d => Sys2Proof.Machine.execPinv b a d s
  | .pprobe a d => Sys2Proof.Machine.execPprobe a d s
  | .migr b a d => Sys2Proof.Machine.execMigr b a d s
  | .ctxhalt b a d => Sys2Proof.Machine.execCtxhalt b a d s
  | .ctxsave b a d => Sys2Proof.Machine.execCtxsave b a d s
  | .ctxrest b a d => Sys2Proof.Machine.execCtxrest b a d s
  | .notAnInstruction word priv index => Sys2Proof.Machine.execNotAnInstruction word priv index s
  | .fetchSegmentFault => Sys2Proof.Machine.execFetchSegmentFault s
  | .pcieCompletionTimeout core slot => Sys2Proof.Machine.execPcieCompletionTimeout core slot s
  | .rtboundExpiry core slot pkg => Sys2Proof.Machine.execRtboundExpiry core slot pkg s
  | .acknowledgementTimeout core slot pkg => Sys2Proof.Machine.execAcknowledgementTimeout core slot pkg s
  | .versionBumpArrival pkg part sub ver resync data => Sys2Proof.Machine.execVersionBumpArrival pkg part sub ver resync data s
  | .switchNoPath pkg lost => Sys2Proof.Machine.execSwitchNoPath pkg lost s
  | .tokenRequest core slot => Sys2Proof.Machine.execTokenRequest core slot s
  | .launchRecordArrival core slot => Sys2Proof.Machine.execLaunchRecordArrival core slot s

end Sys2Proof.Machine
end

