-- ==== Sys2Proof/Machine/Auto.lean ====
section
/-! DEFINITION. What the package does when the environment has scheduled nothing (log 2): the events that may be due, the first
of them that comes about, and the core that issues next. -/

namespace Sys2Proof.Machine

noncomputable section

/-! ## Events that may be due -/

/-- Events that a waiting thread's request may cause; the one its instruction calls for comes about. -/
def waitEvents (s : State) (key : Nat) (t : Thread) (w : Wait) : List Instr :=
  let c := coreOf key
  let sl := slotOf key
  if w.reply.isSome then [.parkWake c sl]
  else
    let sent : List Instr := match w.instr with
      | .msnd _ _ _ =>
        (match msndTarget { s with cur := key } w.eval with
         | some (.inl k) => [.inboxDelivery (coreOf k) (slotOf k) (.sender c sl)]
         | _ => [])
      | .pprobe _ _ =>
        (match probeDva t w.eval with
         | some v => [.tableWalkEnd (clusterOf c) (BitVec.ofNat 4 (s.partOf c)) v 0 0]
         | none => [])
      | _ => []
    sent ++
    [.homeAtomic c sl, .tileAccessMessage c sl, .tagMessage c sl, .tagRequestRetry c sl, .reedArrivalMessage (.thread c sl), .weftRequest c sl,
      .tokenRequest c sl, .launchRecordArrival c sl, .remoteReplyArrival c sl .inside, .sleepTimeout c sl, .remoteAccessTimeout c sl,
      .waitLimitExpiry c sl]

/-- Events of a thread. -/
def threadEvents (s : State) (key : Nat) (t : Thread) : List Instr :=
  let c := coreOf key
  let sl := slotOf key
  (match t.busy with
   | some d => if d ≤ s.cyc c then [.instructionComplete c sl] else []
   | none => []) ++
  (match t.wait with
   | some w => waitEvents s key t w
   | none => []) ++
  (if t.killed.isSome then [.scrubComplete c sl] else []) ++
  (if t.run.isSome then [.seqEntryComplete c sl, .seqEntryIssue c sl, .waitLimitExpiry c sl] else []) ++
  (if t.state = .following then [.followerWaitExpiry c sl] else []) ++
  t.peers.flatMap (fun p => [.acknowledgementTimeout c sl (BitVec.ofNat 10 p.1), .rtboundExpiry c sl (BitVec.ofNat 10 p.1)])

/-- Events of an engine queue. -/
def engineEvents (core : Nat) (copy : Bool) (q : EngineQueue) (urgent : Bool) : List Instr :=
  if q.entries.isEmpty then []
  else if copy then [.copyRow core urgent .inside, .copyEnd core urgent, .enginePause core true urgent, .engineResume core true urgent]
  else
    [.matrixEntryStart core urgent, .jobStepIssue core urgent, .jobPromotion core urgent, .mldbEnd core urgent, .mzeroEnd core urgent,
      .mrdEnd core urgent, .enginePause core false urgent, .engineResume core false urgent]

/-- A kernel waits for ranks to be bound. -/
def someDispatching (s : State) : Bool := s.queues.any (fun q => q.2.kernels.any (fun k => k.state == .dispatching))

/-- Events of a core. -/
def coreEvents (s : State) (core : Nat) (c : Core) : List Instr :=
  let a := c.arch
  (if a.trapq.isEmpty then [] else [.handlerStart core]) ++
  (List.range c.storeq.length).map (fun i => .storeAccept core i) ++
  engineEvents core false a.umq true ++ engineEvents core true a.ucq true ++ engineEvents core false a.mq false ++
  engineEvents core true a.cq false ++
  a.locks.map (fun l => .lockTimeout core l.lo) ++
  (if someDispatching s then [.rankBind core] else []) ++
  (if c.migrating.isSome then [.migrationEnd core] else [])

/-- Events of a cluster. -/
def clusterEvents (clu : Nat) (c : Cluster) : List Instr :=
  (if c.sfuq.isEmpty then [] else [.sfuAccept clu, .sfuResult clu]) ++ (if c.normq.isEmpty then [] else [.normaliserService clu]) ++
    (if c.wb.isEmpty then [] else [.writebackMerge clu 0])

/-- Events of a partition. -/
def partEvents (part : Nat) (p : Partition) : List Instr :=
  let n : BitVec 4 := BitVec.ofNat 4 part
  (if p.walks.isEmpty then [] else [.causalityWalk n]) ++
  (match p.ctx with
   | .halting => [.haltComplete n]
   | .halted => if p.busy then [.shadowTransferEnd n []] else []
   | .spilling => [.spillEnd n true]
   | .restoring => [.shadowTransferEnd n [], .restoreEnd n [] none]
   | _ => []) ++
  p.groups.flatMap (fun g => if g.2.contribs.isEmpty then [] else [.aredPhaseComplete n (BitVec.ofNat 8 g.1) [] false]) ++
  p.leases.flatMap (fun l => if l.2.state = 2 ∨ l.2.state = 3 then
    [.leaseTermEnd n (BitVec.ofNat 8 l.1), .reclaimDeadline n (BitVec.ofNat 8 l.1)] else [])

/-- Events of a queue's kernels. -/
def queueEvents (q : Nat) (w : WorkQueue) : List Instr :=
  w.kernels.flatMap (fun k => [.kernelReleaseEnd (BitVec.ofNat 15 q) k.serial, .watchdogExpiry (BitVec.ofNat 15 q) k.serial])

/-- The arrival of a packet of the package to itself. -/
def packetEvents (s : State) (m : OutMsg) : List Instr :=
  let at_ (tid : W64) (f : Nat → Nat → List Instr) : List Instr :=
    let key := (tid.extractLsb' 0 14).toNat
    f (coreOf key) (slotOf key)
  match m with
  | .request pkg part tid r => [.peerRequest pkg part tid r]
  | .reply pkg tid kind a _ =>
    at_ tid (fun c sl => if kind = 3 ∨ kind = 6 then [.peerAck c sl pkg (kind == 6) a] else [.remoteReplyArrival c sl .inside])
  | .shuttle pkg part sh r => [.shuttleArrival pkg part sh r]
  | .shuttleReply _ part kid tid w1 w2 rtok => [.shuttleReplyArrival part kid tid w1 w2 rtok]
  | .shuttleStatus _ tid desc st =>
    at_ tid (fun c sl => [.remoteReplyArrival c sl .inside, .shuttleRefusal c sl (s.thread (keyOf c sl)).kid desc st])
  | .mcst pkg part tid sub a v => [.mcstCopyWrite pkg part tid sub a v]
  | .bump pkg part sub ver r d => [.versionBumpArrival pkg part sub ver r d]
  | .stale pkg part sub => [.staleNotice pkg part sub]
  | _ => []

/-- Events of the links and of the package. DESIGN CHOICE (log 111): with no event from outside, a relock ends 2,000 ticks after it began,
the most that R17 allows. -/
def packageEvents (s : State) : List Instr :=
  s.links.loop.flatMap (packetEvents s) ++
  (List.range s.links.held.length).flatMap (fun i => [.countedReleasePerform i, .countedReleaseTimeout i]) ++
  (List.range s.links.replies.length).map (fun i => .replyHoldTimeout i) ++
  (if s.queues.any (fun q => q.2.eligible || !q.2.kernels.isEmpty) then [.dispatchDecision] else []) ++
  s.dies.flatMap (fun d => match d.2.relock with
    | some (_, start) => if start + 2000 ≤ s.tim then [.relockEnd (BitVec.ofNat 2 d.1)] else []
    | none => []) ++
  (if s.pk.dumpDue.isSome then [.dumpTimeout] else [])

/-- Events that may be due now, in the order in which they are tried. -/
def dueEvents (s : State) : List Instr :=
  s.threads.flatMap (fun x => threadEvents s x.1 x.2) ++ s.cores.flatMap (fun x => coreEvents s x.1 x.2) ++
    s.clusters.flatMap (fun x => clusterEvents x.1 x.2) ++ packageEvents s ++ s.parts.flatMap (fun x => partEvents x.1 x.2) ++
    s.queues.flatMap (fun x => queueEvents x.1 x.2)

/-- The first of these events that comes about: one that changes the state. -/
def firstEvent (s : State) : List Instr → Option State
  | [] => none
  | i :: r =>
    match exec i s with
    | .next t => if t = s then firstEvent s r else some t
    | _ => firstEvent s r

/-- The next core after the one that issued last that can issue now. -/
def nextCore (s : State) : Option Nat :=
  let l := (s.threads.map (fun x => coreOf x.1)).dedup
  let can := l.filter (coreCanIssue s)
  match can.find? (fun c => decide (s.lastCore < c)) with
  | some c => some c
  | none => can.head?

end

end Sys2Proof.Machine
end

