-- ==== Sys2Proof/Machine/Issue.lean ====
section
/-! DEFINITION. The issue of one instruction (R51, R52, R40): rotation, fetch, gates, its meaning, and what follows it. -/

namespace Sys2Proof.Machine

noncomputable section

/-- An instruction that is held in flight until its thread's earlier stores are accepted: the releases (R224). -/
def heldInFlight (i : Instr) : Bool :=
  match i with
  | .strlW _ _ _ | .strlD _ _ _ | .strlQ _ _ _ | .fence _ _ | .rel _ | .wake _ _ | .nest _ _ | .spul _ _ | .stf _ _ _ | .reedArr _ _
  | .reedSync _ _ | .bbcom _ _ _ | .bbrel _ _ _ | .msnd _ _ _ | .skw _ _ _ _ | .shtl _ _ _ _ | .shtr _ _ | .mcst _ _ _ | .pubv _ _ _
  | .ared _ _ _ _ | .launch _ _ _ | .toks _ _ _ | .efence _ | .pinv _ _ _ => true
  | i => match atomicOf i with
    | some x => x.rel
    | none => false

/-- The stream pipe takes a quadrant-1 instruction that the barrel issues, in its core cycle (R136). -/
def takePipe (s : State) (core : Nat) (i : Instr) : State :=
  if ((wordsOf i).headD 0).extractLsb' 0 2 = 1 then s.setCore core { s.core core with pipeAt := (s.core core).issuedAt } else s

/-- What follows the meaning of `i`: `t0` is the thread as it was before the gates, `pc` the address of the word. A thread
that was held keeps its pending check, and is in flight where it waits to release; one that has completed forwards its word; a trapping word is forwarded too. -/
def afterExec (t0 : Thread) (i : Instr) (pc : W64) (s : State) : State :=
  let key := s.cur
  let t := s.thread key
  let running := t.state = .ready ∨ t.state = .following
  if running ∧ t.busy = none ∧ t.wait = none then
    s.setThread key { t with pend := t0.pend, ckmiss := t0.ckmiss, flight := heldInFlight i && t.run.isNone }
  else if running ∧ t.wait = none then
    let t1 : Thread := { t with pass := false, flight := false }
    let t2 : Thread := if t0.state = .following then popForwarded t1 else t1
    takePipe (afterComplete (s.setThread key t2) key i pc) (coreOf key) i
  else if t.state = .trapped then forwardTrap (s.setThread key { t with pass := false, flight := false }) key i
  else
    let s1 := takePipe (s.setThread key { t with pass := false, flight := false }) (coreOf key) i
    if t.twl && t.state = .parked then twinWake s1 (partnerOf key) else s1

/-- Run an instruction of the acting thread through its gates: check bits, then the pair, then its meaning. A word that traps is
the next instruction of R69 too: it drops a pending check and counts it missed, with the word's own checks (DESIGN CHOICE,
log 95: R40 and R69 do not say which comes first). -/
def execGated (t0 : Thread) (i : Instr) (s : State) : Out :=
  let t := s.me
  match checkRegs (gReads i) (missCheck t i) with
  | .error e => .next (afterExec t0 i t.pc (runBody i s (.error e)))
  | .ok t1 =>
    let s1 := s.setMe t1
    match twinGate s1 i with
    | .stop e => .next (afterExec t0 i t.pc (runBody i s1 (.error e)))
    | .take s2 => .next (afterExec t0 i t.pc s2)
    | .go =>
      match exec i s1 with
      | .next s2 => .next (afterExec t0 i t.pc s2)
      | .fault r => .fault r
      | .refused r => .refused r

/-- The acting thread issues its next instruction. -/
def issueThread (s : State) : Out :=
  let t0 := s.me
  match nextInstr s with
  | .ok (s1, i) => execGated t0 i s1
  | .error e =>
    match fetchFault t0.pc e with
    | .fetchSegmentFault => exec .fetchSegmentFault s
    | i => .next (runBody i s (.error e))

/-- A core uses one core cycle: the first eligible slot of its rotation issues. A die that relocks has no core cycles (R17). -/
def issueCore (s : State) (core : Nat) : Out :=
  if (s.die (dieOf core)).relock.isSome then .next s else
  let s1 := upTo 8 (fun s slot => settleFollower s (keyOf core slot)) s
  let r := pickSlot s1 core
  let s2 := useCycle r.1 core
  match r.2 with
  | none => .next s2
  | some slot =>
    let s3 := s2.setCore core { s2.core core with last := slot }
    issueThread { s3 with cur := keyOf core slot, lastCore := core }

end

end Sys2Proof.Machine
end

