-- ==== Sys2Proof/Machine/Place.lean ====
section
/-! DEFINITION. A program placed from outside the machine (log 55): the load that firmware and a dispatch make before a
program's first instruction runs. -/

namespace Sys2Proof.Machine

noncomputable section

/-- A leaf that maps the 4 KiB page at DVA 0 to PA 0 for reading, writing and execution, class LC, with A and D set (R344). -/
def placedLeaf : Leaf := { word := 0x30F, size := 4096, entry := 4096 }

/-- Segments of the placed thread: sg0 holds that page as code (R195). -/
def placedSegs : Tab Seg := [(0, { base := 0, lim := 4096, attr := 0x004 })]

/-- Word `n` of a placed instruction. -/
def placedWord (w n : Nat) : W32 := BitVec.ofNat 32 (w / 2 ^ (32 * n))

/-- The mode that the placed instruction needs: 0 for what is no instruction. -/
def placedMode (w : Nat) : Nat :=
  match decodeWord (placedWord w 0) (placedWord w 1) (placedWord w 2) (placedWord w 3) (placedWord w 4) with
  | .ok i => modeNeeded i
  | .error _ => 0

/-- The thread that fetches it: slot 0 of core 0 in U mode, slot 7 of core 0 in F mode, slot 7 of die 0's service core in M mode. -/
def placedKey (w : Nat) : Nat := if placedMode w = 0 then keyOf 0 0 else if placedMode w = 1 then keyOf 0 7 else keyOf 1280 7

/-- In F mode slot 7 serves a trap of slot 0. -/
def placedTrap : TrapRecord := { slot := 0, epc := 0, cause := SWTRAP, wkind := 0, eval := 0, seq := none, twin := false }

/-- The state in which that thread is READY at pc 0, its core assigned to partition 0, whose context is RESIDENT, its code page in
the cluster's translation cache, and the instruction's words at the start of that page. -/
def placeProgram (s : State) (w : Nat) : State :=
  let key := placedKey w
  let core := coreOf key
  let c := s.core core
  let served : Option TrapRecord := if placedMode w = 1 then some placedTrap else none
  let s1 := s.setCore core { c with l1i := [], asg := decide (core < 1280), part := 0, arch := { c.arch with serving := served } }
  let s2 := s1.setThread key { Thread.reset with state := .ready, sg := placedSegs }
  let s3 := if placedMode w = 1 then s2.setThread (keyOf 0 0) { Thread.reset with state := .trapped, sg := placedSegs } else s2
  let s4 := s3.setPart 0 { s3.part 0 with ctx := .resident }
  let clu := clusterOf core
  let s5 := s4.setCluster clu { s4.cluster clu with tlb := tput (s4.cluster clu).tlb (tlbKey 0 0 4096) placedLeaf }
  { s5 with mem := { s5.mem with ram := mwriteN s5.mem.ram 0 (bytesOfNat 20 w) }, schedule := [], lastCore := 1283 }

end

end Sys2Proof.Machine
end

