-- ==== Sys2Proof/Machine/Step.lean ====
section
/-! DEFINITION. One step of the package (log 1, 2), and a state whose next step runs a given instruction (log 55). -/

namespace Sys2Proof.Machine

noncomputable section

/-- A turn of the schedule. -/
def runTurn (t : Turn) (s : State) : Host.Outcome State Fault Refusal :=
  match t with
  | .issue core => issueCore s core
  | .event i => exec i s
  | .tick => .next (tickState s)

/-- What the package does by itself: an event that is due, else an issue, else a tick. -/
def ownTurn (s : State) : Host.Outcome State Fault Refusal :=
  match firstEvent s (dueEvents s) with
  | some t => .next t
  | none =>
    match nextCore s with
    | some core => issueCore s core
    | none => .next (tickState s)

/-- One step: the turn the environment has scheduled, else the package's own. A module that draws no core power stops. -/
def step (s : State) : Host.Outcome State Fault Refusal :=
  match s.schedule with
  | t :: rest => runTurn t { s with schedule := rest }
  | [] => if s.pk.thermtrip then .fault .powerOff else ownTurn s

/-- `s` with an instruction placed where the next step fetches: its bits above `nbits` are zero. -/
def State.withFetchWord (s : State) (nbits w : Nat) : State := placeProgram s (w % 2 ^ nbits)

end

end Sys2Proof.Machine
end

