-- ==== Sys2Proof/Laws/State.lean ====
section
/-! SUPPORT. What an update of the state, or of a thread, leaves unchanged: one lemma for each field of each update. -/

namespace Sys2Proof.Laws

open Sys2Proof Sys2Proof.Machine

/-! ## State.setThread: every field but `threads` -/

@[simp] theorem setThread_pk (s : State) (k : Nat) (t : Thread) : (s.setThread k t).pk = s.pk := rfl
@[simp] theorem setThread_dies (s : State) (k : Nat) (t : Thread) : (s.setThread k t).dies = s.dies := rfl
@[simp] theorem setThread_cores (s : State) (k : Nat) (t : Thread) : (s.setThread k t).cores = s.cores := rfl
@[simp] theorem setThread_clusters (s : State) (k : Nat) (t : Thread) : (s.setThread k t).clusters = s.clusters := rfl
@[simp] theorem setThread_mem (s : State) (k : Nat) (t : Thread) : (s.setThread k t).mem = s.mem := rfl
@[simp] theorem setThread_parts (s : State) (k : Nat) (t : Thread) : (s.setThread k t).parts = s.parts := rfl
@[simp] theorem setThread_queues (s : State) (k : Nat) (t : Thread) : (s.setThread k t).queues = s.queues := rfl
@[simp] theorem setThread_links (s : State) (k : Nat) (t : Thread) : (s.setThread k t).links = s.links := rfl
@[simp] theorem setThread_host (s : State) (k : Nat) (t : Thread) : (s.setThread k t).host = s.host := rfl
@[simp] theorem setThread_images (s : State) (k : Nat) (t : Thread) : (s.setThread k t).images = s.images := rfl
@[simp] theorem setThread_out (s : State) (k : Nat) (t : Thread) : (s.setThread k t).out = s.out := rfl
@[simp] theorem setThread_schedule (s : State) (k : Nat) (t : Thread) : (s.setThread k t).schedule = s.schedule := rfl
@[simp] theorem setThread_lastCore (s : State) (k : Nat) (t : Thread) : (s.setThread k t).lastCore = s.lastCore := rfl
@[simp] theorem setThread_cur (s : State) (k : Nat) (t : Thread) : (s.setThread k t).cur = s.cur := rfl
@[simp] theorem setThread_fresh (s : State) (k : Nat) (t : Thread) : (s.setThread k t).fresh = s.fresh := rfl

/-! ## State.setMe: every field but `threads` -/

@[simp] theorem setMe_pk (s : State) (t : Thread) : (s.setMe t).pk = s.pk := rfl
@[simp] theorem setMe_dies (s : State) (t : Thread) : (s.setMe t).dies = s.dies := rfl
@[simp] theorem setMe_cores (s : State) (t : Thread) : (s.setMe t).cores = s.cores := rfl
@[simp] theorem setMe_clusters (s : State) (t : Thread) : (s.setMe t).clusters = s.clusters := rfl
@[simp] theorem setMe_mem (s : State) (t : Thread) : (s.setMe t).mem = s.mem := rfl
@[simp] theorem setMe_parts (s : State) (t : Thread) : (s.setMe t).parts = s.parts := rfl
@[simp] theorem setMe_queues (s : State) (t : Thread) : (s.setMe t).queues = s.queues := rfl
@[simp] theorem setMe_links (s : State) (t : Thread) : (s.setMe t).links = s.links := rfl
@[simp] theorem setMe_host (s : State) (t : Thread) : (s.setMe t).host = s.host := rfl
@[simp] theorem setMe_images (s : State) (t : Thread) : (s.setMe t).images = s.images := rfl
@[simp] theorem setMe_out (s : State) (t : Thread) : (s.setMe t).out = s.out := rfl
@[simp] theorem setMe_schedule (s : State) (t : Thread) : (s.setMe t).schedule = s.schedule := rfl
@[simp] theorem setMe_lastCore (s : State) (t : Thread) : (s.setMe t).lastCore = s.lastCore := rfl
@[simp] theorem setMe_cur (s : State) (t : Thread) : (s.setMe t).cur = s.cur := rfl
@[simp] theorem setMe_fresh (s : State) (t : Thread) : (s.setMe t).fresh = s.fresh := rfl

/-! ## State.setCore: every field but `cores` -/

@[simp] theorem setCore_pk (s : State) (c : Nat) (x : Core) : (s.setCore c x).pk = s.pk := rfl
@[simp] theorem setCore_dies (s : State) (c : Nat) (x : Core) : (s.setCore c x).dies = s.dies := rfl
@[simp] theorem setCore_threads (s : State) (c : Nat) (x : Core) : (s.setCore c x).threads = s.threads := rfl
@[simp] theorem setCore_clusters (s : State) (c : Nat) (x : Core) : (s.setCore c x).clusters = s.clusters := rfl
@[simp] theorem setCore_mem (s : State) (c : Nat) (x : Core) : (s.setCore c x).mem = s.mem := rfl
@[simp] theorem setCore_parts (s : State) (c : Nat) (x : Core) : (s.setCore c x).parts = s.parts := rfl
@[simp] theorem setCore_queues (s : State) (c : Nat) (x : Core) : (s.setCore c x).queues = s.queues := rfl
@[simp] theorem setCore_links (s : State) (c : Nat) (x : Core) : (s.setCore c x).links = s.links := rfl
@[simp] theorem setCore_host (s : State) (c : Nat) (x : Core) : (s.setCore c x).host = s.host := rfl
@[simp] theorem setCore_images (s : State) (c : Nat) (x : Core) : (s.setCore c x).images = s.images := rfl
@[simp] theorem setCore_out (s : State) (c : Nat) (x : Core) : (s.setCore c x).out = s.out := rfl
@[simp] theorem setCore_schedule (s : State) (c : Nat) (x : Core) : (s.setCore c x).schedule = s.schedule := rfl
@[simp] theorem setCore_lastCore (s : State) (c : Nat) (x : Core) : (s.setCore c x).lastCore = s.lastCore := rfl
@[simp] theorem setCore_cur (s : State) (c : Nat) (x : Core) : (s.setCore c x).cur = s.cur := rfl
@[simp] theorem setCore_fresh (s : State) (c : Nat) (x : Core) : (s.setCore c x).fresh = s.fresh := rfl

/-! ## State.setArch: every field but `cores` -/

@[simp] theorem setArch_pk (s : State) (c : Nat) (x : CoreArch) : (s.setArch c x).pk = s.pk := rfl
@[simp] theorem setArch_dies (s : State) (c : Nat) (x : CoreArch) : (s.setArch c x).dies = s.dies := rfl
@[simp] theorem setArch_threads (s : State) (c : Nat) (x : CoreArch) : (s.setArch c x).threads = s.threads := rfl
@[simp] theorem setArch_clusters (s : State) (c : Nat) (x : CoreArch) : (s.setArch c x).clusters = s.clusters := rfl
@[simp] theorem setArch_mem (s : State) (c : Nat) (x : CoreArch) : (s.setArch c x).mem = s.mem := rfl
@[simp] theorem setArch_parts (s : State) (c : Nat) (x : CoreArch) : (s.setArch c x).parts = s.parts := rfl
@[simp] theorem setArch_queues (s : State) (c : Nat) (x : CoreArch) : (s.setArch c x).queues = s.queues := rfl
@[simp] theorem setArch_links (s : State) (c : Nat) (x : CoreArch) : (s.setArch c x).links = s.links := rfl
@[simp] theorem setArch_host (s : State) (c : Nat) (x : CoreArch) : (s.setArch c x).host = s.host := rfl
@[simp] theorem setArch_images (s : State) (c : Nat) (x : CoreArch) : (s.setArch c x).images = s.images := rfl
@[simp] theorem setArch_out (s : State) (c : Nat) (x : CoreArch) : (s.setArch c x).out = s.out := rfl
@[simp] theorem setArch_schedule (s : State) (c : Nat) (x : CoreArch) : (s.setArch c x).schedule = s.schedule := rfl
@[simp] theorem setArch_lastCore (s : State) (c : Nat) (x : CoreArch) : (s.setArch c x).lastCore = s.lastCore := rfl
@[simp] theorem setArch_cur (s : State) (c : Nat) (x : CoreArch) : (s.setArch c x).cur = s.cur := rfl
@[simp] theorem setArch_fresh (s : State) (c : Nat) (x : CoreArch) : (s.setArch c x).fresh = s.fresh := rfl

/-! ## State.setCluster: every field but `clusters` -/

@[simp] theorem setCluster_pk (s : State) (c : Nat) (x : Cluster) : (s.setCluster c x).pk = s.pk := rfl
@[simp] theorem setCluster_dies (s : State) (c : Nat) (x : Cluster) : (s.setCluster c x).dies = s.dies := rfl
@[simp] theorem setCluster_threads (s : State) (c : Nat) (x : Cluster) : (s.setCluster c x).threads = s.threads := rfl
@[simp] theorem setCluster_cores (s : State) (c : Nat) (x : Cluster) : (s.setCluster c x).cores = s.cores := rfl
@[simp] theorem setCluster_mem (s : State) (c : Nat) (x : Cluster) : (s.setCluster c x).mem = s.mem := rfl
@[simp] theorem setCluster_parts (s : State) (c : Nat) (x : Cluster) : (s.setCluster c x).parts = s.parts := rfl
@[simp] theorem setCluster_queues (s : State) (c : Nat) (x : Cluster) : (s.setCluster c x).queues = s.queues := rfl
@[simp] theorem setCluster_links (s : State) (c : Nat) (x : Cluster) : (s.setCluster c x).links = s.links := rfl
@[simp] theorem setCluster_host (s : State) (c : Nat) (x : Cluster) : (s.setCluster c x).host = s.host := rfl
@[simp] theorem setCluster_images (s : State) (c : Nat) (x : Cluster) : (s.setCluster c x).images = s.images := rfl
@[simp] theorem setCluster_out (s : State) (c : Nat) (x : Cluster) : (s.setCluster c x).out = s.out := rfl
@[simp] theorem setCluster_schedule (s : State) (c : Nat) (x : Cluster) : (s.setCluster c x).schedule = s.schedule := rfl
@[simp] theorem setCluster_lastCore (s : State) (c : Nat) (x : Cluster) : (s.setCluster c x).lastCore = s.lastCore := rfl
@[simp] theorem setCluster_cur (s : State) (c : Nat) (x : Cluster) : (s.setCluster c x).cur = s.cur := rfl
@[simp] theorem setCluster_fresh (s : State) (c : Nat) (x : Cluster) : (s.setCluster c x).fresh = s.fresh := rfl

/-! ## State.setDie: every field but `dies` -/

@[simp] theorem setDie_pk (s : State) (d : Nat) (x : Die) : (s.setDie d x).pk = s.pk := rfl
@[simp] theorem setDie_threads (s : State) (d : Nat) (x : Die) : (s.setDie d x).threads = s.threads := rfl
@[simp] theorem setDie_cores (s : State) (d : Nat) (x : Die) : (s.setDie d x).cores = s.cores := rfl
@[simp] theorem setDie_clusters (s : State) (d : Nat) (x : Die) : (s.setDie d x).clusters = s.clusters := rfl
@[simp] theorem setDie_mem (s : State) (d : Nat) (x : Die) : (s.setDie d x).mem = s.mem := rfl
@[simp] theorem setDie_parts (s : State) (d : Nat) (x : Die) : (s.setDie d x).parts = s.parts := rfl
@[simp] theorem setDie_queues (s : State) (d : Nat) (x : Die) : (s.setDie d x).queues = s.queues := rfl
@[simp] theorem setDie_links (s : State) (d : Nat) (x : Die) : (s.setDie d x).links = s.links := rfl
@[simp] theorem setDie_host (s : State) (d : Nat) (x : Die) : (s.setDie d x).host = s.host := rfl
@[simp] theorem setDie_images (s : State) (d : Nat) (x : Die) : (s.setDie d x).images = s.images := rfl
@[simp] theorem setDie_out (s : State) (d : Nat) (x : Die) : (s.setDie d x).out = s.out := rfl
@[simp] theorem setDie_schedule (s : State) (d : Nat) (x : Die) : (s.setDie d x).schedule = s.schedule := rfl
@[simp] theorem setDie_lastCore (s : State) (d : Nat) (x : Die) : (s.setDie d x).lastCore = s.lastCore := rfl
@[simp] theorem setDie_cur (s : State) (d : Nat) (x : Die) : (s.setDie d x).cur = s.cur := rfl
@[simp] theorem setDie_fresh (s : State) (d : Nat) (x : Die) : (s.setDie d x).fresh = s.fresh := rfl

/-! ## State.setPart: every field but `parts` -/

@[simp] theorem setPart_pk (s : State) (p : Nat) (x : Partition) : (s.setPart p x).pk = s.pk := rfl
@[simp] theorem setPart_dies (s : State) (p : Nat) (x : Partition) : (s.setPart p x).dies = s.dies := rfl
@[simp] theorem setPart_threads (s : State) (p : Nat) (x : Partition) : (s.setPart p x).threads = s.threads := rfl
@[simp] theorem setPart_cores (s : State) (p : Nat) (x : Partition) : (s.setPart p x).cores = s.cores := rfl
@[simp] theorem setPart_clusters (s : State) (p : Nat) (x : Partition) : (s.setPart p x).clusters = s.clusters := rfl
@[simp] theorem setPart_mem (s : State) (p : Nat) (x : Partition) : (s.setPart p x).mem = s.mem := rfl
@[simp] theorem setPart_queues (s : State) (p : Nat) (x : Partition) : (s.setPart p x).queues = s.queues := rfl
@[simp] theorem setPart_links (s : State) (p : Nat) (x : Partition) : (s.setPart p x).links = s.links := rfl
@[simp] theorem setPart_host (s : State) (p : Nat) (x : Partition) : (s.setPart p x).host = s.host := rfl
@[simp] theorem setPart_images (s : State) (p : Nat) (x : Partition) : (s.setPart p x).images = s.images := rfl
@[simp] theorem setPart_out (s : State) (p : Nat) (x : Partition) : (s.setPart p x).out = s.out := rfl
@[simp] theorem setPart_schedule (s : State) (p : Nat) (x : Partition) : (s.setPart p x).schedule = s.schedule := rfl
@[simp] theorem setPart_lastCore (s : State) (p : Nat) (x : Partition) : (s.setPart p x).lastCore = s.lastCore := rfl
@[simp] theorem setPart_cur (s : State) (p : Nat) (x : Partition) : (s.setPart p x).cur = s.cur := rfl
@[simp] theorem setPart_fresh (s : State) (p : Nat) (x : Partition) : (s.setPart p x).fresh = s.fresh := rfl

/-! ## State.setQueue: every field but `queues` -/

@[simp] theorem setQueue_pk (s : State) (q : Nat) (x : WorkQueue) : (s.setQueue q x).pk = s.pk := rfl
@[simp] theorem setQueue_dies (s : State) (q : Nat) (x : WorkQueue) : (s.setQueue q x).dies = s.dies := rfl
@[simp] theorem setQueue_threads (s : State) (q : Nat) (x : WorkQueue) : (s.setQueue q x).threads = s.threads := rfl
@[simp] theorem setQueue_cores (s : State) (q : Nat) (x : WorkQueue) : (s.setQueue q x).cores = s.cores := rfl
@[simp] theorem setQueue_clusters (s : State) (q : Nat) (x : WorkQueue) : (s.setQueue q x).clusters = s.clusters := rfl
@[simp] theorem setQueue_mem (s : State) (q : Nat) (x : WorkQueue) : (s.setQueue q x).mem = s.mem := rfl
@[simp] theorem setQueue_parts (s : State) (q : Nat) (x : WorkQueue) : (s.setQueue q x).parts = s.parts := rfl
@[simp] theorem setQueue_links (s : State) (q : Nat) (x : WorkQueue) : (s.setQueue q x).links = s.links := rfl
@[simp] theorem setQueue_host (s : State) (q : Nat) (x : WorkQueue) : (s.setQueue q x).host = s.host := rfl
@[simp] theorem setQueue_images (s : State) (q : Nat) (x : WorkQueue) : (s.setQueue q x).images = s.images := rfl
@[simp] theorem setQueue_out (s : State) (q : Nat) (x : WorkQueue) : (s.setQueue q x).out = s.out := rfl
@[simp] theorem setQueue_schedule (s : State) (q : Nat) (x : WorkQueue) : (s.setQueue q x).schedule = s.schedule := rfl
@[simp] theorem setQueue_lastCore (s : State) (q : Nat) (x : WorkQueue) : (s.setQueue q x).lastCore = s.lastCore := rfl
@[simp] theorem setQueue_cur (s : State) (q : Nat) (x : WorkQueue) : (s.setQueue q x).cur = s.cur := rfl
@[simp] theorem setQueue_fresh (s : State) (q : Nat) (x : WorkQueue) : (s.setQueue q x).fresh = s.fresh := rfl

/-! ## State.useFree: every field but `fresh` -/

@[simp] theorem useFree_pk (s : State) : (s.useFree).pk = s.pk := rfl
@[simp] theorem useFree_dies (s : State) : (s.useFree).dies = s.dies := rfl
@[simp] theorem useFree_threads (s : State) : (s.useFree).threads = s.threads := rfl
@[simp] theorem useFree_cores (s : State) : (s.useFree).cores = s.cores := rfl
@[simp] theorem useFree_clusters (s : State) : (s.useFree).clusters = s.clusters := rfl
@[simp] theorem useFree_mem (s : State) : (s.useFree).mem = s.mem := rfl
@[simp] theorem useFree_parts (s : State) : (s.useFree).parts = s.parts := rfl
@[simp] theorem useFree_queues (s : State) : (s.useFree).queues = s.queues := rfl
@[simp] theorem useFree_links (s : State) : (s.useFree).links = s.links := rfl
@[simp] theorem useFree_host (s : State) : (s.useFree).host = s.host := rfl
@[simp] theorem useFree_images (s : State) : (s.useFree).images = s.images := rfl
@[simp] theorem useFree_out (s : State) : (s.useFree).out = s.out := rfl
@[simp] theorem useFree_schedule (s : State) : (s.useFree).schedule = s.schedule := rfl
@[simp] theorem useFree_lastCore (s : State) : (s.useFree).lastCore = s.lastCore := rfl
@[simp] theorem useFree_cur (s : State) : (s.useFree).cur = s.cur := rfl

/-! ## Thread.adv: every field but `pc`, `busy` -/

@[simp] theorem adv_state (t : Thread) (n : Nat) : (t.adv n).state = t.state := rfl
@[simp] theorem adv_g (t : Thread) (n : Nat) : (t.adv n).g = t.g := rfl
@[simp] theorem adv_bad (t : Thread) (n : Nat) : (t.adv n).bad = t.bad := rfl
@[simp] theorem adv_pend (t : Thread) (n : Nat) : (t.adv n).pend = t.pend := rfl
@[simp] theorem adv_f (t : Thread) (n : Nat) : (t.adv n).f = t.f := rfl
@[simp] theorem adv_ix (t : Thread) (n : Nat) : (t.adv n).ix = t.ix := rfl
@[simp] theorem adv_q (t : Thread) (n : Nat) : (t.adv n).q = t.q := rfl
@[simp] theorem adv_sg (t : Thread) (n : Nat) : (t.adv n).sg = t.sg := rfl
@[simp] theorem adv_bound (t : Thread) (n : Nat) : (t.adv n).bound = t.bound := rfl
@[simp] theorem adv_kid (t : Thread) (n : Nat) : (t.adv n).kid = t.kid := rfl
@[simp] theorem adv_rank (t : Thread) (n : Nat) : (t.adv n).rank = t.rank := rfl
@[simp] theorem adv_gm (t : Thread) (n : Nat) : (t.adv n).gm = t.gm := rfl
@[simp] theorem adv_wlim (t : Thread) (n : Nat) : (t.adv n).wlim = t.wlim := rfl
@[simp] theorem adv_ckmiss (t : Thread) (n : Nat) : (t.adv n).ckmiss = t.ckmiss := rfl
@[simp] theorem adv_lkx (t : Thread) (n : Nat) : (t.adv n).lkx = t.lkx := rfl
@[simp] theorem adv_pse (t : Thread) (n : Nat) : (t.adv n).pse = t.pse := rfl
@[simp] theorem adv_wakef (t : Thread) (n : Nat) : (t.adv n).wakef = t.wakef := rfl
@[simp] theorem adv_det (t : Thread) (n : Nat) : (t.adv n).det = t.det := rfl
@[simp] theorem adv_twt (t : Thread) (n : Nat) : (t.adv n).twt = t.twt := rfl
@[simp] theorem adv_twl (t : Thread) (n : Nat) : (t.adv n).twl = t.twl := rfl
@[simp] theorem adv_ck (t : Thread) (n : Nat) : (t.adv n).ck = t.ck := rfl
@[simp] theorem adv_itcur (t : Thread) (n : Nat) : (t.adv n).itcur = t.itcur := rfl
@[simp] theorem adv_itend (t : Thread) (n : Nat) : (t.adv n).itend = t.itend := rfl
@[simp] theorem adv_itdsc (t : Thread) (n : Nat) : (t.adv n).itdsc = t.itdsc := rfl
@[simp] theorem adv_fcsr (t : Thread) (n : Nat) : (t.adv n).fcsr = t.fcsr := rfl
@[simp] theorem adv_fqlo (t : Thread) (n : Nat) : (t.adv n).fqlo = t.fqlo := rfl
@[simp] theorem adv_fqhi (t : Thread) (n : Nat) : (t.adv n).fqhi = t.fqhi := rfl
@[simp] theorem adv_wscb (t : Thread) (n : Nat) : (t.adv n).wscb = t.wscb := rfl
@[simp] theorem adv_skst (t : Thread) (n : Nat) : (t.adv n).skst = t.skst := rfl
@[simp] theorem adv_shst (t : Thread) (n : Nat) : (t.adv n).shst = t.shst := rfl
@[simp] theorem adv_fenst (t : Thread) (n : Nat) : (t.adv n).fenst = t.fenst := rfl
@[simp] theorem adv_mcstat (t : Thread) (n : Nat) : (t.adv n).mcstat = t.mcstat := rfl
@[simp] theorem adv_streams (t : Thread) (n : Nat) : (t.adv n).streams = t.streams := rfl
@[simp] theorem adv_run (t : Thread) (n : Nat) : (t.adv n).run = t.run := rfl
@[simp] theorem adv_wait (t : Thread) (n : Nat) : (t.adv n).wait = t.wait := rfl
@[simp] theorem adv_prior (t : Thread) (n : Nat) : (t.adv n).prior = t.prior := rfl
@[simp] theorem adv_forfeit (t : Thread) (n : Nat) : (t.adv n).forfeit = t.forfeit := rfl
@[simp] theorem adv_yielded (t : Thread) (n : Nat) : (t.adv n).yielded = t.yielded := rfl
@[simp] theorem adv_pass (t : Thread) (n : Nat) : (t.adv n).pass = t.pass := rfl
@[simp] theorem adv_inbox (t : Thread) (n : Nat) : (t.adv n).inbox = t.inbox := rfl
@[simp] theorem adv_deferred (t : Thread) (n : Nat) : (t.adv n).deferred = t.deferred := rfl
@[simp] theorem adv_fcred (t : Thread) (n : Nat) : (t.adv n).fcred = t.fcred := rfl
@[simp] theorem adv_efault (t : Thread) (n : Nat) : (t.adv n).efault = t.efault := rfl
@[simp] theorem adv_lvq (t : Thread) (n : Nat) : (t.adv n).lvq = t.lvq := rfl
@[simp] theorem adv_cmp (t : Thread) (n : Nat) : (t.adv n).cmp = t.cmp := rfl
@[simp] theorem adv_twinAt (t : Thread) (n : Nat) : (t.adv n).twinAt = t.twinAt := rfl
@[simp] theorem adv_fwd (t : Thread) (n : Nat) : (t.adv n).fwd = t.fwd := rfl
@[simp] theorem adv_fwdTick (t : Thread) (n : Nat) : (t.adv n).fwdTick = t.fwdTick := rfl
@[simp] theorem adv_arrived (t : Thread) (n : Nat) : (t.adv n).arrived = t.arrived := rfl
@[simp] theorem adv_aredIn (t : Thread) (n : Nat) : (t.adv n).aredIn = t.aredIn := rfl
@[simp] theorem adv_rangeAt (t : Thread) (n : Nat) : (t.adv n).rangeAt = t.rangeAt := rfl
@[simp] theorem adv_flight (t : Thread) (n : Nat) : (t.adv n).flight = t.flight := rfl
@[simp] theorem adv_wakeSc (t : Thread) (n : Nat) : (t.adv n).wakeSc = t.wakeSc := rfl
@[simp] theorem adv_itN (t : Thread) (n : Nat) : (t.adv n).itN = t.itN := rfl
@[simp] theorem adv_seqRes (t : Thread) (n : Nat) : (t.adv n).seqRes = t.seqRes := rfl
@[simp] theorem adv_peers (t : Thread) (n : Nat) : (t.adv n).peers = t.peers := rfl
@[simp] theorem adv_refusedStore (t : Thread) (n : Nat) : (t.adv n).refusedStore = t.refusedStore := rfl
@[simp] theorem adv_fenceStart (t : Thread) (n : Nat) : (t.adv n).fenceStart = t.fenceStart := rfl
@[simp] theorem adv_killed (t : Thread) (n : Nat) : (t.adv n).killed = t.killed := rfl
@[simp] theorem adv_mcstSeq (t : Thread) (n : Nat) : (t.adv n).mcstSeq = t.mcstSeq := rfl
@[simp] theorem adv_mcstOpen (t : Thread) (n : Nat) : (t.adv n).mcstOpen = t.mcstOpen := rfl
@[simp] theorem adv_mcstFailed (t : Thread) (n : Nat) : (t.adv n).mcstFailed = t.mcstFailed := rfl
@[simp] theorem adv_efence (t : Thread) (n : Nat) : (t.adv n).efence = t.efence := rfl
@[simp] theorem adv_runSer (t : Thread) (n : Nat) : (t.adv n).runSer = t.runSer := rfl

/-! ## Thread.goto: every field but `pc`, `busy` -/

@[simp] theorem goto_state (t : Thread) (p : W64) (n : Nat) : (t.goto p n).state = t.state := rfl
@[simp] theorem goto_g (t : Thread) (p : W64) (n : Nat) : (t.goto p n).g = t.g := rfl
@[simp] theorem goto_bad (t : Thread) (p : W64) (n : Nat) : (t.goto p n).bad = t.bad := rfl
@[simp] theorem goto_pend (t : Thread) (p : W64) (n : Nat) : (t.goto p n).pend = t.pend := rfl
@[simp] theorem goto_f (t : Thread) (p : W64) (n : Nat) : (t.goto p n).f = t.f := rfl
@[simp] theorem goto_ix (t : Thread) (p : W64) (n : Nat) : (t.goto p n).ix = t.ix := rfl
@[simp] theorem goto_q (t : Thread) (p : W64) (n : Nat) : (t.goto p n).q = t.q := rfl
@[simp] theorem goto_sg (t : Thread) (p : W64) (n : Nat) : (t.goto p n).sg = t.sg := rfl
@[simp] theorem goto_bound (t : Thread) (p : W64) (n : Nat) : (t.goto p n).bound = t.bound := rfl
@[simp] theorem goto_kid (t : Thread) (p : W64) (n : Nat) : (t.goto p n).kid = t.kid := rfl
@[simp] theorem goto_rank (t : Thread) (p : W64) (n : Nat) : (t.goto p n).rank = t.rank := rfl
@[simp] theorem goto_gm (t : Thread) (p : W64) (n : Nat) : (t.goto p n).gm = t.gm := rfl
@[simp] theorem goto_wlim (t : Thread) (p : W64) (n : Nat) : (t.goto p n).wlim = t.wlim := rfl
@[simp] theorem goto_ckmiss (t : Thread) (p : W64) (n : Nat) : (t.goto p n).ckmiss = t.ckmiss := rfl
@[simp] theorem goto_lkx (t : Thread) (p : W64) (n : Nat) : (t.goto p n).lkx = t.lkx := rfl
@[simp] theorem goto_pse (t : Thread) (p : W64) (n : Nat) : (t.goto p n).pse = t.pse := rfl
@[simp] theorem goto_wakef (t : Thread) (p : W64) (n : Nat) : (t.goto p n).wakef = t.wakef := rfl
@[simp] theorem goto_det (t : Thread) (p : W64) (n : Nat) : (t.goto p n).det = t.det := rfl
@[simp] theorem goto_twt (t : Thread) (p : W64) (n : Nat) : (t.goto p n).twt = t.twt := rfl
@[simp] theorem goto_twl (t : Thread) (p : W64) (n : Nat) : (t.goto p n).twl = t.twl := rfl
@[simp] theorem goto_ck (t : Thread) (p : W64) (n : Nat) : (t.goto p n).ck = t.ck := rfl
@[simp] theorem goto_itcur (t : Thread) (p : W64) (n : Nat) : (t.goto p n).itcur = t.itcur := rfl
@[simp] theorem goto_itend (t : Thread) (p : W64) (n : Nat) : (t.goto p n).itend = t.itend := rfl
@[simp] theorem goto_itdsc (t : Thread) (p : W64) (n : Nat) : (t.goto p n).itdsc = t.itdsc := rfl
@[simp] theorem goto_fcsr (t : Thread) (p : W64) (n : Nat) : (t.goto p n).fcsr = t.fcsr := rfl
@[simp] theorem goto_fqlo (t : Thread) (p : W64) (n : Nat) : (t.goto p n).fqlo = t.fqlo := rfl
@[simp] theorem goto_fqhi (t : Thread) (p : W64) (n : Nat) : (t.goto p n).fqhi = t.fqhi := rfl
@[simp] theorem goto_wscb (t : Thread) (p : W64) (n : Nat) : (t.goto p n).wscb = t.wscb := rfl
@[simp] theorem goto_skst (t : Thread) (p : W64) (n : Nat) : (t.goto p n).skst = t.skst := rfl
@[simp] theorem goto_shst (t : Thread) (p : W64) (n : Nat) : (t.goto p n).shst = t.shst := rfl
@[simp] theorem goto_fenst (t : Thread) (p : W64) (n : Nat) : (t.goto p n).fenst = t.fenst := rfl
@[simp] theorem goto_mcstat (t : Thread) (p : W64) (n : Nat) : (t.goto p n).mcstat = t.mcstat := rfl
@[simp] theorem goto_streams (t : Thread) (p : W64) (n : Nat) : (t.goto p n).streams = t.streams := rfl
@[simp] theorem goto_run (t : Thread) (p : W64) (n : Nat) : (t.goto p n).run = t.run := rfl
@[simp] theorem goto_wait (t : Thread) (p : W64) (n : Nat) : (t.goto p n).wait = t.wait := rfl
@[simp] theorem goto_prior (t : Thread) (p : W64) (n : Nat) : (t.goto p n).prior = t.prior := rfl
@[simp] theorem goto_forfeit (t : Thread) (p : W64) (n : Nat) : (t.goto p n).forfeit = t.forfeit := rfl
@[simp] theorem goto_yielded (t : Thread) (p : W64) (n : Nat) : (t.goto p n).yielded = t.yielded := rfl
@[simp] theorem goto_pass (t : Thread) (p : W64) (n : Nat) : (t.goto p n).pass = t.pass := rfl
@[simp] theorem goto_inbox (t : Thread) (p : W64) (n : Nat) : (t.goto p n).inbox = t.inbox := rfl
@[simp] theorem goto_deferred (t : Thread) (p : W64) (n : Nat) : (t.goto p n).deferred = t.deferred := rfl
@[simp] theorem goto_fcred (t : Thread) (p : W64) (n : Nat) : (t.goto p n).fcred = t.fcred := rfl
@[simp] theorem goto_efault (t : Thread) (p : W64) (n : Nat) : (t.goto p n).efault = t.efault := rfl
@[simp] theorem goto_lvq (t : Thread) (p : W64) (n : Nat) : (t.goto p n).lvq = t.lvq := rfl
@[simp] theorem goto_cmp (t : Thread) (p : W64) (n : Nat) : (t.goto p n).cmp = t.cmp := rfl
@[simp] theorem goto_twinAt (t : Thread) (p : W64) (n : Nat) : (t.goto p n).twinAt = t.twinAt := rfl
@[simp] theorem goto_fwd (t : Thread) (p : W64) (n : Nat) : (t.goto p n).fwd = t.fwd := rfl
@[simp] theorem goto_fwdTick (t : Thread) (p : W64) (n : Nat) : (t.goto p n).fwdTick = t.fwdTick := rfl
@[simp] theorem goto_arrived (t : Thread) (p : W64) (n : Nat) : (t.goto p n).arrived = t.arrived := rfl
@[simp] theorem goto_aredIn (t : Thread) (p : W64) (n : Nat) : (t.goto p n).aredIn = t.aredIn := rfl
@[simp] theorem goto_rangeAt (t : Thread) (p : W64) (n : Nat) : (t.goto p n).rangeAt = t.rangeAt := rfl
@[simp] theorem goto_flight (t : Thread) (p : W64) (n : Nat) : (t.goto p n).flight = t.flight := rfl
@[simp] theorem goto_wakeSc (t : Thread) (p : W64) (n : Nat) : (t.goto p n).wakeSc = t.wakeSc := rfl
@[simp] theorem goto_itN (t : Thread) (p : W64) (n : Nat) : (t.goto p n).itN = t.itN := rfl
@[simp] theorem goto_seqRes (t : Thread) (p : W64) (n : Nat) : (t.goto p n).seqRes = t.seqRes := rfl
@[simp] theorem goto_peers (t : Thread) (p : W64) (n : Nat) : (t.goto p n).peers = t.peers := rfl
@[simp] theorem goto_refusedStore (t : Thread) (p : W64) (n : Nat) : (t.goto p n).refusedStore = t.refusedStore := rfl
@[simp] theorem goto_fenceStart (t : Thread) (p : W64) (n : Nat) : (t.goto p n).fenceStart = t.fenceStart := rfl
@[simp] theorem goto_killed (t : Thread) (p : W64) (n : Nat) : (t.goto p n).killed = t.killed := rfl
@[simp] theorem goto_mcstSeq (t : Thread) (p : W64) (n : Nat) : (t.goto p n).mcstSeq = t.mcstSeq := rfl
@[simp] theorem goto_mcstOpen (t : Thread) (p : W64) (n : Nat) : (t.goto p n).mcstOpen = t.mcstOpen := rfl
@[simp] theorem goto_mcstFailed (t : Thread) (p : W64) (n : Nat) : (t.goto p n).mcstFailed = t.mcstFailed := rfl
@[simp] theorem goto_efence (t : Thread) (p : W64) (n : Nat) : (t.goto p n).efence = t.efence := rfl
@[simp] theorem goto_runSer (t : Thread) (p : W64) (n : Nat) : (t.goto p n).runSer = t.runSer := rfl

/-! ## Thread.wf: every field but `f` -/

@[simp] theorem wf_state (t : Thread) (r : Reg) (v : W128) : (t.wf r v).state = t.state := rfl
@[simp] theorem wf_pc (t : Thread) (r : Reg) (v : W128) : (t.wf r v).pc = t.pc := rfl
@[simp] theorem wf_g (t : Thread) (r : Reg) (v : W128) : (t.wf r v).g = t.g := rfl
@[simp] theorem wf_bad (t : Thread) (r : Reg) (v : W128) : (t.wf r v).bad = t.bad := rfl
@[simp] theorem wf_pend (t : Thread) (r : Reg) (v : W128) : (t.wf r v).pend = t.pend := rfl
@[simp] theorem wf_ix (t : Thread) (r : Reg) (v : W128) : (t.wf r v).ix = t.ix := rfl
@[simp] theorem wf_q (t : Thread) (r : Reg) (v : W128) : (t.wf r v).q = t.q := rfl
@[simp] theorem wf_sg (t : Thread) (r : Reg) (v : W128) : (t.wf r v).sg = t.sg := rfl
@[simp] theorem wf_bound (t : Thread) (r : Reg) (v : W128) : (t.wf r v).bound = t.bound := rfl
@[simp] theorem wf_kid (t : Thread) (r : Reg) (v : W128) : (t.wf r v).kid = t.kid := rfl
@[simp] theorem wf_rank (t : Thread) (r : Reg) (v : W128) : (t.wf r v).rank = t.rank := rfl
@[simp] theorem wf_gm (t : Thread) (r : Reg) (v : W128) : (t.wf r v).gm = t.gm := rfl
@[simp] theorem wf_wlim (t : Thread) (r : Reg) (v : W128) : (t.wf r v).wlim = t.wlim := rfl
@[simp] theorem wf_ckmiss (t : Thread) (r : Reg) (v : W128) : (t.wf r v).ckmiss = t.ckmiss := rfl
@[simp] theorem wf_lkx (t : Thread) (r : Reg) (v : W128) : (t.wf r v).lkx = t.lkx := rfl
@[simp] theorem wf_pse (t : Thread) (r : Reg) (v : W128) : (t.wf r v).pse = t.pse := rfl
@[simp] theorem wf_wakef (t : Thread) (r : Reg) (v : W128) : (t.wf r v).wakef = t.wakef := rfl
@[simp] theorem wf_det (t : Thread) (r : Reg) (v : W128) : (t.wf r v).det = t.det := rfl
@[simp] theorem wf_twt (t : Thread) (r : Reg) (v : W128) : (t.wf r v).twt = t.twt := rfl
@[simp] theorem wf_twl (t : Thread) (r : Reg) (v : W128) : (t.wf r v).twl = t.twl := rfl
@[simp] theorem wf_ck (t : Thread) (r : Reg) (v : W128) : (t.wf r v).ck = t.ck := rfl
@[simp] theorem wf_itcur (t : Thread) (r : Reg) (v : W128) : (t.wf r v).itcur = t.itcur := rfl
@[simp] theorem wf_itend (t : Thread) (r : Reg) (v : W128) : (t.wf r v).itend = t.itend := rfl
@[simp] theorem wf_itdsc (t : Thread) (r : Reg) (v : W128) : (t.wf r v).itdsc = t.itdsc := rfl
@[simp] theorem wf_fcsr (t : Thread) (r : Reg) (v : W128) : (t.wf r v).fcsr = t.fcsr := rfl
@[simp] theorem wf_fqlo (t : Thread) (r : Reg) (v : W128) : (t.wf r v).fqlo = t.fqlo := rfl
@[simp] theorem wf_fqhi (t : Thread) (r : Reg) (v : W128) : (t.wf r v).fqhi = t.fqhi := rfl
@[simp] theorem wf_wscb (t : Thread) (r : Reg) (v : W128) : (t.wf r v).wscb = t.wscb := rfl
@[simp] theorem wf_skst (t : Thread) (r : Reg) (v : W128) : (t.wf r v).skst = t.skst := rfl
@[simp] theorem wf_shst (t : Thread) (r : Reg) (v : W128) : (t.wf r v).shst = t.shst := rfl
@[simp] theorem wf_fenst (t : Thread) (r : Reg) (v : W128) : (t.wf r v).fenst = t.fenst := rfl
@[simp] theorem wf_mcstat (t : Thread) (r : Reg) (v : W128) : (t.wf r v).mcstat = t.mcstat := rfl
@[simp] theorem wf_streams (t : Thread) (r : Reg) (v : W128) : (t.wf r v).streams = t.streams := rfl
@[simp] theorem wf_run (t : Thread) (r : Reg) (v : W128) : (t.wf r v).run = t.run := rfl
@[simp] theorem wf_wait (t : Thread) (r : Reg) (v : W128) : (t.wf r v).wait = t.wait := rfl
@[simp] theorem wf_busy (t : Thread) (r : Reg) (v : W128) : (t.wf r v).busy = t.busy := rfl
@[simp] theorem wf_prior (t : Thread) (r : Reg) (v : W128) : (t.wf r v).prior = t.prior := rfl
@[simp] theorem wf_forfeit (t : Thread) (r : Reg) (v : W128) : (t.wf r v).forfeit = t.forfeit := rfl
@[simp] theorem wf_yielded (t : Thread) (r : Reg) (v : W128) : (t.wf r v).yielded = t.yielded := rfl
@[simp] theorem wf_pass (t : Thread) (r : Reg) (v : W128) : (t.wf r v).pass = t.pass := rfl
@[simp] theorem wf_inbox (t : Thread) (r : Reg) (v : W128) : (t.wf r v).inbox = t.inbox := rfl
@[simp] theorem wf_deferred (t : Thread) (r : Reg) (v : W128) : (t.wf r v).deferred = t.deferred := rfl
@[simp] theorem wf_fcred (t : Thread) (r : Reg) (v : W128) : (t.wf r v).fcred = t.fcred := rfl
@[simp] theorem wf_efault (t : Thread) (r : Reg) (v : W128) : (t.wf r v).efault = t.efault := rfl
@[simp] theorem wf_lvq (t : Thread) (r : Reg) (v : W128) : (t.wf r v).lvq = t.lvq := rfl
@[simp] theorem wf_cmp (t : Thread) (r : Reg) (v : W128) : (t.wf r v).cmp = t.cmp := rfl
@[simp] theorem wf_twinAt (t : Thread) (r : Reg) (v : W128) : (t.wf r v).twinAt = t.twinAt := rfl
@[simp] theorem wf_fwd (t : Thread) (r : Reg) (v : W128) : (t.wf r v).fwd = t.fwd := rfl
@[simp] theorem wf_fwdTick (t : Thread) (r : Reg) (v : W128) : (t.wf r v).fwdTick = t.fwdTick := rfl
@[simp] theorem wf_arrived (t : Thread) (r : Reg) (v : W128) : (t.wf r v).arrived = t.arrived := rfl
@[simp] theorem wf_aredIn (t : Thread) (r : Reg) (v : W128) : (t.wf r v).aredIn = t.aredIn := rfl
@[simp] theorem wf_rangeAt (t : Thread) (r : Reg) (v : W128) : (t.wf r v).rangeAt = t.rangeAt := rfl
@[simp] theorem wf_flight (t : Thread) (r : Reg) (v : W128) : (t.wf r v).flight = t.flight := rfl
@[simp] theorem wf_wakeSc (t : Thread) (r : Reg) (v : W128) : (t.wf r v).wakeSc = t.wakeSc := rfl
@[simp] theorem wf_itN (t : Thread) (r : Reg) (v : W128) : (t.wf r v).itN = t.itN := rfl
@[simp] theorem wf_seqRes (t : Thread) (r : Reg) (v : W128) : (t.wf r v).seqRes = t.seqRes := rfl
@[simp] theorem wf_peers (t : Thread) (r : Reg) (v : W128) : (t.wf r v).peers = t.peers := rfl
@[simp] theorem wf_refusedStore (t : Thread) (r : Reg) (v : W128) : (t.wf r v).refusedStore = t.refusedStore := rfl
@[simp] theorem wf_fenceStart (t : Thread) (r : Reg) (v : W128) : (t.wf r v).fenceStart = t.fenceStart := rfl
@[simp] theorem wf_killed (t : Thread) (r : Reg) (v : W128) : (t.wf r v).killed = t.killed := rfl
@[simp] theorem wf_mcstSeq (t : Thread) (r : Reg) (v : W128) : (t.wf r v).mcstSeq = t.mcstSeq := rfl
@[simp] theorem wf_mcstOpen (t : Thread) (r : Reg) (v : W128) : (t.wf r v).mcstOpen = t.mcstOpen := rfl
@[simp] theorem wf_mcstFailed (t : Thread) (r : Reg) (v : W128) : (t.wf r v).mcstFailed = t.mcstFailed := rfl
@[simp] theorem wf_efence (t : Thread) (r : Reg) (v : W128) : (t.wf r v).efence = t.efence := rfl
@[simp] theorem wf_runSer (t : Thread) (r : Reg) (v : W128) : (t.wf r v).runSer = t.runSer := rfl

/-! ## Thread.setStream: every field but `streams` -/

@[simp] theorem setStream_state (t : Thread) (n : Nat) (x : Stream) : (t.setStream n x).state = t.state := rfl
@[simp] theorem setStream_pc (t : Thread) (n : Nat) (x : Stream) : (t.setStream n x).pc = t.pc := rfl
@[simp] theorem setStream_g (t : Thread) (n : Nat) (x : Stream) : (t.setStream n x).g = t.g := rfl
@[simp] theorem setStream_bad (t : Thread) (n : Nat) (x : Stream) : (t.setStream n x).bad = t.bad := rfl
@[simp] theorem setStream_pend (t : Thread) (n : Nat) (x : Stream) : (t.setStream n x).pend = t.pend := rfl
@[simp] theorem setStream_f (t : Thread) (n : Nat) (x : Stream) : (t.setStream n x).f = t.f := rfl
@[simp] theorem setStream_ix (t : Thread) (n : Nat) (x : Stream) : (t.setStream n x).ix = t.ix := rfl
@[simp] theorem setStream_q (t : Thread) (n : Nat) (x : Stream) : (t.setStream n x).q = t.q := rfl
@[simp] theorem setStream_sg (t : Thread) (n : Nat) (x : Stream) : (t.setStream n x).sg = t.sg := rfl
@[simp] theorem setStream_bound (t : Thread) (n : Nat) (x : Stream) : (t.setStream n x).bound = t.bound := rfl
@[simp] theorem setStream_kid (t : Thread) (n : Nat) (x : Stream) : (t.setStream n x).kid = t.kid := rfl
@[simp] theorem setStream_rank (t : Thread) (n : Nat) (x : Stream) : (t.setStream n x).rank = t.rank := rfl
@[simp] theorem setStream_gm (t : Thread) (n : Nat) (x : Stream) : (t.setStream n x).gm = t.gm := rfl
@[simp] theorem setStream_wlim (t : Thread) (n : Nat) (x : Stream) : (t.setStream n x).wlim = t.wlim := rfl
@[simp] theorem setStream_ckmiss (t : Thread) (n : Nat) (x : Stream) : (t.setStream n x).ckmiss = t.ckmiss := rfl
@[simp] theorem setStream_lkx (t : Thread) (n : Nat) (x : Stream) : (t.setStream n x).lkx = t.lkx := rfl
@[simp] theorem setStream_pse (t : Thread) (n : Nat) (x : Stream) : (t.setStream n x).pse = t.pse := rfl
@[simp] theorem setStream_wakef (t : Thread) (n : Nat) (x : Stream) : (t.setStream n x).wakef = t.wakef := rfl
@[simp] theorem setStream_det (t : Thread) (n : Nat) (x : Stream) : (t.setStream n x).det = t.det := rfl
@[simp] theorem setStream_twt (t : Thread) (n : Nat) (x : Stream) : (t.setStream n x).twt = t.twt := rfl
@[simp] theorem setStream_twl (t : Thread) (n : Nat) (x : Stream) : (t.setStream n x).twl = t.twl := rfl
@[simp] theorem setStream_ck (t : Thread) (n : Nat) (x : Stream) : (t.setStream n x).ck = t.ck := rfl
@[simp] theorem setStream_itcur (t : Thread) (n : Nat) (x : Stream) : (t.setStream n x).itcur = t.itcur := rfl
@[simp] theorem setStream_itend (t : Thread) (n : Nat) (x : Stream) : (t.setStream n x).itend = t.itend := rfl
@[simp] theorem setStream_itdsc (t : Thread) (n : Nat) (x : Stream) : (t.setStream n x).itdsc = t.itdsc := rfl
@[simp] theorem setStream_fcsr (t : Thread) (n : Nat) (x : Stream) : (t.setStream n x).fcsr = t.fcsr := rfl
@[simp] theorem setStream_fqlo (t : Thread) (n : Nat) (x : Stream) : (t.setStream n x).fqlo = t.fqlo := rfl
@[simp] theorem setStream_fqhi (t : Thread) (n : Nat) (x : Stream) : (t.setStream n x).fqhi = t.fqhi := rfl
@[simp] theorem setStream_wscb (t : Thread) (n : Nat) (x : Stream) : (t.setStream n x).wscb = t.wscb := rfl
@[simp] theorem setStream_skst (t : Thread) (n : Nat) (x : Stream) : (t.setStream n x).skst = t.skst := rfl
@[simp] theorem setStream_shst (t : Thread) (n : Nat) (x : Stream) : (t.setStream n x).shst = t.shst := rfl
@[simp] theorem setStream_fenst (t : Thread) (n : Nat) (x : Stream) : (t.setStream n x).fenst = t.fenst := rfl
@[simp] theorem setStream_mcstat (t : Thread) (n : Nat) (x : Stream) : (t.setStream n x).mcstat = t.mcstat := rfl
@[simp] theorem setStream_run (t : Thread) (n : Nat) (x : Stream) : (t.setStream n x).run = t.run := rfl
@[simp] theorem setStream_wait (t : Thread) (n : Nat) (x : Stream) : (t.setStream n x).wait = t.wait := rfl
@[simp] theorem setStream_busy (t : Thread) (n : Nat) (x : Stream) : (t.setStream n x).busy = t.busy := rfl
@[simp] theorem setStream_prior (t : Thread) (n : Nat) (x : Stream) : (t.setStream n x).prior = t.prior := rfl
@[simp] theorem setStream_forfeit (t : Thread) (n : Nat) (x : Stream) : (t.setStream n x).forfeit = t.forfeit := rfl
@[simp] theorem setStream_yielded (t : Thread) (n : Nat) (x : Stream) : (t.setStream n x).yielded = t.yielded := rfl
@[simp] theorem setStream_pass (t : Thread) (n : Nat) (x : Stream) : (t.setStream n x).pass = t.pass := rfl
@[simp] theorem setStream_inbox (t : Thread) (n : Nat) (x : Stream) : (t.setStream n x).inbox = t.inbox := rfl
@[simp] theorem setStream_deferred (t : Thread) (n : Nat) (x : Stream) : (t.setStream n x).deferred = t.deferred := rfl
@[simp] theorem setStream_fcred (t : Thread) (n : Nat) (x : Stream) : (t.setStream n x).fcred = t.fcred := rfl
@[simp] theorem setStream_efault (t : Thread) (n : Nat) (x : Stream) : (t.setStream n x).efault = t.efault := rfl
@[simp] theorem setStream_lvq (t : Thread) (n : Nat) (x : Stream) : (t.setStream n x).lvq = t.lvq := rfl
@[simp] theorem setStream_cmp (t : Thread) (n : Nat) (x : Stream) : (t.setStream n x).cmp = t.cmp := rfl
@[simp] theorem setStream_twinAt (t : Thread) (n : Nat) (x : Stream) : (t.setStream n x).twinAt = t.twinAt := rfl
@[simp] theorem setStream_fwd (t : Thread) (n : Nat) (x : Stream) : (t.setStream n x).fwd = t.fwd := rfl
@[simp] theorem setStream_fwdTick (t : Thread) (n : Nat) (x : Stream) : (t.setStream n x).fwdTick = t.fwdTick := rfl
@[simp] theorem setStream_arrived (t : Thread) (n : Nat) (x : Stream) : (t.setStream n x).arrived = t.arrived := rfl
@[simp] theorem setStream_aredIn (t : Thread) (n : Nat) (x : Stream) : (t.setStream n x).aredIn = t.aredIn := rfl
@[simp] theorem setStream_rangeAt (t : Thread) (n : Nat) (x : Stream) : (t.setStream n x).rangeAt = t.rangeAt := rfl
@[simp] theorem setStream_flight (t : Thread) (n : Nat) (x : Stream) : (t.setStream n x).flight = t.flight := rfl
@[simp] theorem setStream_wakeSc (t : Thread) (n : Nat) (x : Stream) : (t.setStream n x).wakeSc = t.wakeSc := rfl
@[simp] theorem setStream_itN (t : Thread) (n : Nat) (x : Stream) : (t.setStream n x).itN = t.itN := rfl
@[simp] theorem setStream_seqRes (t : Thread) (n : Nat) (x : Stream) : (t.setStream n x).seqRes = t.seqRes := rfl
@[simp] theorem setStream_peers (t : Thread) (n : Nat) (x : Stream) : (t.setStream n x).peers = t.peers := rfl
@[simp] theorem setStream_refusedStore (t : Thread) (n : Nat) (x : Stream) : (t.setStream n x).refusedStore = t.refusedStore := rfl
@[simp] theorem setStream_fenceStart (t : Thread) (n : Nat) (x : Stream) : (t.setStream n x).fenceStart = t.fenceStart := rfl
@[simp] theorem setStream_killed (t : Thread) (n : Nat) (x : Stream) : (t.setStream n x).killed = t.killed := rfl
@[simp] theorem setStream_mcstSeq (t : Thread) (n : Nat) (x : Stream) : (t.setStream n x).mcstSeq = t.mcstSeq := rfl
@[simp] theorem setStream_mcstOpen (t : Thread) (n : Nat) (x : Stream) : (t.setStream n x).mcstOpen = t.mcstOpen := rfl
@[simp] theorem setStream_mcstFailed (t : Thread) (n : Nat) (x : Stream) : (t.setStream n x).mcstFailed = t.mcstFailed := rfl
@[simp] theorem setStream_efence (t : Thread) (n : Nat) (x : Stream) : (t.setStream n x).efence = t.efence := rfl
@[simp] theorem setStream_runSer (t : Thread) (n : Nat) (x : Stream) : (t.setStream n x).runSer = t.runSer := rfl

/-! ## Thread.wg: every field but `g`, `bad` -/

@[simp] theorem wg_state (t : Thread) (r : Reg) (v : W64) : (t.wg r v).state = t.state := by
  unfold Thread.wg; split <;> rfl
@[simp] theorem wg_pc (t : Thread) (r : Reg) (v : W64) : (t.wg r v).pc = t.pc := by
  unfold Thread.wg; split <;> rfl
@[simp] theorem wg_pend (t : Thread) (r : Reg) (v : W64) : (t.wg r v).pend = t.pend := by
  unfold Thread.wg; split <;> rfl
@[simp] theorem wg_f (t : Thread) (r : Reg) (v : W64) : (t.wg r v).f = t.f := by
  unfold Thread.wg; split <;> rfl
@[simp] theorem wg_ix (t : Thread) (r : Reg) (v : W64) : (t.wg r v).ix = t.ix := by
  unfold Thread.wg; split <;> rfl
@[simp] theorem wg_q (t : Thread) (r : Reg) (v : W64) : (t.wg r v).q = t.q := by
  unfold Thread.wg; split <;> rfl
@[simp] theorem wg_sg (t : Thread) (r : Reg) (v : W64) : (t.wg r v).sg = t.sg := by
  unfold Thread.wg; split <;> rfl
@[simp] theorem wg_bound (t : Thread) (r : Reg) (v : W64) : (t.wg r v).bound = t.bound := by
  unfold Thread.wg; split <;> rfl
@[simp] theorem wg_kid (t : Thread) (r : Reg) (v : W64) : (t.wg r v).kid = t.kid := by
  unfold Thread.wg; split <;> rfl
@[simp] theorem wg_rank (t : Thread) (r : Reg) (v : W64) : (t.wg r v).rank = t.rank := by
  unfold Thread.wg; split <;> rfl
@[simp] theorem wg_gm (t : Thread) (r : Reg) (v : W64) : (t.wg r v).gm = t.gm := by
  unfold Thread.wg; split <;> rfl
@[simp] theorem wg_wlim (t : Thread) (r : Reg) (v : W64) : (t.wg r v).wlim = t.wlim := by
  unfold Thread.wg; split <;> rfl
@[simp] theorem wg_ckmiss (t : Thread) (r : Reg) (v : W64) : (t.wg r v).ckmiss = t.ckmiss := by
  unfold Thread.wg; split <;> rfl
@[simp] theorem wg_lkx (t : Thread) (r : Reg) (v : W64) : (t.wg r v).lkx = t.lkx := by
  unfold Thread.wg; split <;> rfl
@[simp] theorem wg_pse (t : Thread) (r : Reg) (v : W64) : (t.wg r v).pse = t.pse := by
  unfold Thread.wg; split <;> rfl
@[simp] theorem wg_wakef (t : Thread) (r : Reg) (v : W64) : (t.wg r v).wakef = t.wakef := by
  unfold Thread.wg; split <;> rfl
@[simp] theorem wg_det (t : Thread) (r : Reg) (v : W64) : (t.wg r v).det = t.det := by
  unfold Thread.wg; split <;> rfl
@[simp] theorem wg_twt (t : Thread) (r : Reg) (v : W64) : (t.wg r v).twt = t.twt := by
  unfold Thread.wg; split <;> rfl
@[simp] theorem wg_twl (t : Thread) (r : Reg) (v : W64) : (t.wg r v).twl = t.twl := by
  unfold Thread.wg; split <;> rfl
@[simp] theorem wg_ck (t : Thread) (r : Reg) (v : W64) : (t.wg r v).ck = t.ck := by
  unfold Thread.wg; split <;> rfl
@[simp] theorem wg_itcur (t : Thread) (r : Reg) (v : W64) : (t.wg r v).itcur = t.itcur := by
  unfold Thread.wg; split <;> rfl
@[simp] theorem wg_itend (t : Thread) (r : Reg) (v : W64) : (t.wg r v).itend = t.itend := by
  unfold Thread.wg; split <;> rfl
@[simp] theorem wg_itdsc (t : Thread) (r : Reg) (v : W64) : (t.wg r v).itdsc = t.itdsc := by
  unfold Thread.wg; split <;> rfl
@[simp] theorem wg_fcsr (t : Thread) (r : Reg) (v : W64) : (t.wg r v).fcsr = t.fcsr := by
  unfold Thread.wg; split <;> rfl
@[simp] theorem wg_fqlo (t : Thread) (r : Reg) (v : W64) : (t.wg r v).fqlo = t.fqlo := by
  unfold Thread.wg; split <;> rfl
@[simp] theorem wg_fqhi (t : Thread) (r : Reg) (v : W64) : (t.wg r v).fqhi = t.fqhi := by
  unfold Thread.wg; split <;> rfl
@[simp] theorem wg_wscb (t : Thread) (r : Reg) (v : W64) : (t.wg r v).wscb = t.wscb := by
  unfold Thread.wg; split <;> rfl
@[simp] theorem wg_skst (t : Thread) (r : Reg) (v : W64) : (t.wg r v).skst = t.skst := by
  unfold Thread.wg; split <;> rfl
@[simp] theorem wg_shst (t : Thread) (r : Reg) (v : W64) : (t.wg r v).shst = t.shst := by
  unfold Thread.wg; split <;> rfl
@[simp] theorem wg_fenst (t : Thread) (r : Reg) (v : W64) : (t.wg r v).fenst = t.fenst := by
  unfold Thread.wg; split <;> rfl
@[simp] theorem wg_mcstat (t : Thread) (r : Reg) (v : W64) : (t.wg r v).mcstat = t.mcstat := by
  unfold Thread.wg; split <;> rfl
@[simp] theorem wg_streams (t : Thread) (r : Reg) (v : W64) : (t.wg r v).streams = t.streams := by
  unfold Thread.wg; split <;> rfl
@[simp] theorem wg_run (t : Thread) (r : Reg) (v : W64) : (t.wg r v).run = t.run := by
  unfold Thread.wg; split <;> rfl
@[simp] theorem wg_wait (t : Thread) (r : Reg) (v : W64) : (t.wg r v).wait = t.wait := by
  unfold Thread.wg; split <;> rfl
@[simp] theorem wg_busy (t : Thread) (r : Reg) (v : W64) : (t.wg r v).busy = t.busy := by
  unfold Thread.wg; split <;> rfl
@[simp] theorem wg_prior (t : Thread) (r : Reg) (v : W64) : (t.wg r v).prior = t.prior := by
  unfold Thread.wg; split <;> rfl
@[simp] theorem wg_forfeit (t : Thread) (r : Reg) (v : W64) : (t.wg r v).forfeit = t.forfeit := by
  unfold Thread.wg; split <;> rfl
@[simp] theorem wg_yielded (t : Thread) (r : Reg) (v : W64) : (t.wg r v).yielded = t.yielded := by
  unfold Thread.wg; split <;> rfl
@[simp] theorem wg_pass (t : Thread) (r : Reg) (v : W64) : (t.wg r v).pass = t.pass := by
  unfold Thread.wg; split <;> rfl
@[simp] theorem wg_inbox (t : Thread) (r : Reg) (v : W64) : (t.wg r v).inbox = t.inbox := by
  unfold Thread.wg; split <;> rfl
@[simp] theorem wg_deferred (t : Thread) (r : Reg) (v : W64) : (t.wg r v).deferred = t.deferred := by
  unfold Thread.wg; split <;> rfl
@[simp] theorem wg_fcred (t : Thread) (r : Reg) (v : W64) : (t.wg r v).fcred = t.fcred := by
  unfold Thread.wg; split <;> rfl
@[simp] theorem wg_efault (t : Thread) (r : Reg) (v : W64) : (t.wg r v).efault = t.efault := by
  unfold Thread.wg; split <;> rfl
@[simp] theorem wg_lvq (t : Thread) (r : Reg) (v : W64) : (t.wg r v).lvq = t.lvq := by
  unfold Thread.wg; split <;> rfl
@[simp] theorem wg_cmp (t : Thread) (r : Reg) (v : W64) : (t.wg r v).cmp = t.cmp := by
  unfold Thread.wg; split <;> rfl
@[simp] theorem wg_twinAt (t : Thread) (r : Reg) (v : W64) : (t.wg r v).twinAt = t.twinAt := by
  unfold Thread.wg; split <;> rfl
@[simp] theorem wg_fwd (t : Thread) (r : Reg) (v : W64) : (t.wg r v).fwd = t.fwd := by
  unfold Thread.wg; split <;> rfl
@[simp] theorem wg_fwdTick (t : Thread) (r : Reg) (v : W64) : (t.wg r v).fwdTick = t.fwdTick := by
  unfold Thread.wg; split <;> rfl
@[simp] theorem wg_arrived (t : Thread) (r : Reg) (v : W64) : (t.wg r v).arrived = t.arrived := by
  unfold Thread.wg; split <;> rfl
@[simp] theorem wg_aredIn (t : Thread) (r : Reg) (v : W64) : (t.wg r v).aredIn = t.aredIn := by
  unfold Thread.wg; split <;> rfl
@[simp] theorem wg_rangeAt (t : Thread) (r : Reg) (v : W64) : (t.wg r v).rangeAt = t.rangeAt := by
  unfold Thread.wg; split <;> rfl
@[simp] theorem wg_flight (t : Thread) (r : Reg) (v : W64) : (t.wg r v).flight = t.flight := by
  unfold Thread.wg; split <;> rfl
@[simp] theorem wg_wakeSc (t : Thread) (r : Reg) (v : W64) : (t.wg r v).wakeSc = t.wakeSc := by
  unfold Thread.wg; split <;> rfl
@[simp] theorem wg_itN (t : Thread) (r : Reg) (v : W64) : (t.wg r v).itN = t.itN := by
  unfold Thread.wg; split <;> rfl
@[simp] theorem wg_seqRes (t : Thread) (r : Reg) (v : W64) : (t.wg r v).seqRes = t.seqRes := by
  unfold Thread.wg; split <;> rfl
@[simp] theorem wg_peers (t : Thread) (r : Reg) (v : W64) : (t.wg r v).peers = t.peers := by
  unfold Thread.wg; split <;> rfl
@[simp] theorem wg_refusedStore (t : Thread) (r : Reg) (v : W64) : (t.wg r v).refusedStore = t.refusedStore := by
  unfold Thread.wg; split <;> rfl
@[simp] theorem wg_fenceStart (t : Thread) (r : Reg) (v : W64) : (t.wg r v).fenceStart = t.fenceStart := by
  unfold Thread.wg; split <;> rfl
@[simp] theorem wg_killed (t : Thread) (r : Reg) (v : W64) : (t.wg r v).killed = t.killed := by
  unfold Thread.wg; split <;> rfl
@[simp] theorem wg_mcstSeq (t : Thread) (r : Reg) (v : W64) : (t.wg r v).mcstSeq = t.mcstSeq := by
  unfold Thread.wg; split <;> rfl
@[simp] theorem wg_mcstOpen (t : Thread) (r : Reg) (v : W64) : (t.wg r v).mcstOpen = t.mcstOpen := by
  unfold Thread.wg; split <;> rfl
@[simp] theorem wg_mcstFailed (t : Thread) (r : Reg) (v : W64) : (t.wg r v).mcstFailed = t.mcstFailed := by
  unfold Thread.wg; split <;> rfl
@[simp] theorem wg_efence (t : Thread) (r : Reg) (v : W64) : (t.wg r v).efence = t.efence := by
  unfold Thread.wg; split <;> rfl
@[simp] theorem wg_runSer (t : Thread) (r : Reg) (v : W64) : (t.wg r v).runSer = t.runSer := by
  unfold Thread.wg; split <;> rfl

/-! ## Thread.wgChecked: every field but `g`, `bad`, `pend` -/

@[simp] theorem wgChecked_state (t : Thread) (r : Reg) (v : W64) : (t.wgChecked r v).state = t.state := by
  unfold Thread.wgChecked; split <;> (try split) <;> simp
@[simp] theorem wgChecked_pc (t : Thread) (r : Reg) (v : W64) : (t.wgChecked r v).pc = t.pc := by
  unfold Thread.wgChecked; split <;> (try split) <;> simp
@[simp] theorem wgChecked_f (t : Thread) (r : Reg) (v : W64) : (t.wgChecked r v).f = t.f := by
  unfold Thread.wgChecked; split <;> (try split) <;> simp
@[simp] theorem wgChecked_ix (t : Thread) (r : Reg) (v : W64) : (t.wgChecked r v).ix = t.ix := by
  unfold Thread.wgChecked; split <;> (try split) <;> simp
@[simp] theorem wgChecked_q (t : Thread) (r : Reg) (v : W64) : (t.wgChecked r v).q = t.q := by
  unfold Thread.wgChecked; split <;> (try split) <;> simp
@[simp] theorem wgChecked_sg (t : Thread) (r : Reg) (v : W64) : (t.wgChecked r v).sg = t.sg := by
  unfold Thread.wgChecked; split <;> (try split) <;> simp
@[simp] theorem wgChecked_bound (t : Thread) (r : Reg) (v : W64) : (t.wgChecked r v).bound = t.bound := by
  unfold Thread.wgChecked; split <;> (try split) <;> simp
@[simp] theorem wgChecked_kid (t : Thread) (r : Reg) (v : W64) : (t.wgChecked r v).kid = t.kid := by
  unfold Thread.wgChecked; split <;> (try split) <;> simp
@[simp] theorem wgChecked_rank (t : Thread) (r : Reg) (v : W64) : (t.wgChecked r v).rank = t.rank := by
  unfold Thread.wgChecked; split <;> (try split) <;> simp
@[simp] theorem wgChecked_gm (t : Thread) (r : Reg) (v : W64) : (t.wgChecked r v).gm = t.gm := by
  unfold Thread.wgChecked; split <;> (try split) <;> simp
@[simp] theorem wgChecked_wlim (t : Thread) (r : Reg) (v : W64) : (t.wgChecked r v).wlim = t.wlim := by
  unfold Thread.wgChecked; split <;> (try split) <;> simp
@[simp] theorem wgChecked_ckmiss (t : Thread) (r : Reg) (v : W64) : (t.wgChecked r v).ckmiss = t.ckmiss := by
  unfold Thread.wgChecked; split <;> (try split) <;> simp
@[simp] theorem wgChecked_lkx (t : Thread) (r : Reg) (v : W64) : (t.wgChecked r v).lkx = t.lkx := by
  unfold Thread.wgChecked; split <;> (try split) <;> simp
@[simp] theorem wgChecked_pse (t : Thread) (r : Reg) (v : W64) : (t.wgChecked r v).pse = t.pse := by
  unfold Thread.wgChecked; split <;> (try split) <;> simp
@[simp] theorem wgChecked_wakef (t : Thread) (r : Reg) (v : W64) : (t.wgChecked r v).wakef = t.wakef := by
  unfold Thread.wgChecked; split <;> (try split) <;> simp
@[simp] theorem wgChecked_det (t : Thread) (r : Reg) (v : W64) : (t.wgChecked r v).det = t.det := by
  unfold Thread.wgChecked; split <;> (try split) <;> simp
@[simp] theorem wgChecked_twt (t : Thread) (r : Reg) (v : W64) : (t.wgChecked r v).twt = t.twt := by
  unfold Thread.wgChecked; split <;> (try split) <;> simp
@[simp] theorem wgChecked_twl (t : Thread) (r : Reg) (v : W64) : (t.wgChecked r v).twl = t.twl := by
  unfold Thread.wgChecked; split <;> (try split) <;> simp
@[simp] theorem wgChecked_ck (t : Thread) (r : Reg) (v : W64) : (t.wgChecked r v).ck = t.ck := by
  unfold Thread.wgChecked; split <;> (try split) <;> simp
@[simp] theorem wgChecked_itcur (t : Thread) (r : Reg) (v : W64) : (t.wgChecked r v).itcur = t.itcur := by
  unfold Thread.wgChecked; split <;> (try split) <;> simp
@[simp] theorem wgChecked_itend (t : Thread) (r : Reg) (v : W64) : (t.wgChecked r v).itend = t.itend := by
  unfold Thread.wgChecked; split <;> (try split) <;> simp
@[simp] theorem wgChecked_itdsc (t : Thread) (r : Reg) (v : W64) : (t.wgChecked r v).itdsc = t.itdsc := by
  unfold Thread.wgChecked; split <;> (try split) <;> simp
@[simp] theorem wgChecked_fcsr (t : Thread) (r : Reg) (v : W64) : (t.wgChecked r v).fcsr = t.fcsr := by
  unfold Thread.wgChecked; split <;> (try split) <;> simp
@[simp] theorem wgChecked_fqlo (t : Thread) (r : Reg) (v : W64) : (t.wgChecked r v).fqlo = t.fqlo := by
  unfold Thread.wgChecked; split <;> (try split) <;> simp
@[simp] theorem wgChecked_fqhi (t : Thread) (r : Reg) (v : W64) : (t.wgChecked r v).fqhi = t.fqhi := by
  unfold Thread.wgChecked; split <;> (try split) <;> simp
@[simp] theorem wgChecked_wscb (t : Thread) (r : Reg) (v : W64) : (t.wgChecked r v).wscb = t.wscb := by
  unfold Thread.wgChecked; split <;> (try split) <;> simp
@[simp] theorem wgChecked_skst (t : Thread) (r : Reg) (v : W64) : (t.wgChecked r v).skst = t.skst := by
  unfold Thread.wgChecked; split <;> (try split) <;> simp
@[simp] theorem wgChecked_shst (t : Thread) (r : Reg) (v : W64) : (t.wgChecked r v).shst = t.shst := by
  unfold Thread.wgChecked; split <;> (try split) <;> simp
@[simp] theorem wgChecked_fenst (t : Thread) (r : Reg) (v : W64) : (t.wgChecked r v).fenst = t.fenst := by
  unfold Thread.wgChecked; split <;> (try split) <;> simp
@[simp] theorem wgChecked_mcstat (t : Thread) (r : Reg) (v : W64) : (t.wgChecked r v).mcstat = t.mcstat := by
  unfold Thread.wgChecked; split <;> (try split) <;> simp
@[simp] theorem wgChecked_streams (t : Thread) (r : Reg) (v : W64) : (t.wgChecked r v).streams = t.streams := by
  unfold Thread.wgChecked; split <;> (try split) <;> simp
@[simp] theorem wgChecked_run (t : Thread) (r : Reg) (v : W64) : (t.wgChecked r v).run = t.run := by
  unfold Thread.wgChecked; split <;> (try split) <;> simp
@[simp] theorem wgChecked_wait (t : Thread) (r : Reg) (v : W64) : (t.wgChecked r v).wait = t.wait := by
  unfold Thread.wgChecked; split <;> (try split) <;> simp
@[simp] theorem wgChecked_busy (t : Thread) (r : Reg) (v : W64) : (t.wgChecked r v).busy = t.busy := by
  unfold Thread.wgChecked; split <;> (try split) <;> simp
@[simp] theorem wgChecked_prior (t : Thread) (r : Reg) (v : W64) : (t.wgChecked r v).prior = t.prior := by
  unfold Thread.wgChecked; split <;> (try split) <;> simp
@[simp] theorem wgChecked_forfeit (t : Thread) (r : Reg) (v : W64) : (t.wgChecked r v).forfeit = t.forfeit := by
  unfold Thread.wgChecked; split <;> (try split) <;> simp
@[simp] theorem wgChecked_yielded (t : Thread) (r : Reg) (v : W64) : (t.wgChecked r v).yielded = t.yielded := by
  unfold Thread.wgChecked; split <;> (try split) <;> simp
@[simp] theorem wgChecked_pass (t : Thread) (r : Reg) (v : W64) : (t.wgChecked r v).pass = t.pass := by
  unfold Thread.wgChecked; split <;> (try split) <;> simp
@[simp] theorem wgChecked_inbox (t : Thread) (r : Reg) (v : W64) : (t.wgChecked r v).inbox = t.inbox := by
  unfold Thread.wgChecked; split <;> (try split) <;> simp
@[simp] theorem wgChecked_deferred (t : Thread) (r : Reg) (v : W64) : (t.wgChecked r v).deferred = t.deferred := by
  unfold Thread.wgChecked; split <;> (try split) <;> simp
@[simp] theorem wgChecked_fcred (t : Thread) (r : Reg) (v : W64) : (t.wgChecked r v).fcred = t.fcred := by
  unfold Thread.wgChecked; split <;> (try split) <;> simp
@[simp] theorem wgChecked_efault (t : Thread) (r : Reg) (v : W64) : (t.wgChecked r v).efault = t.efault := by
  unfold Thread.wgChecked; split <;> (try split) <;> simp
@[simp] theorem wgChecked_lvq (t : Thread) (r : Reg) (v : W64) : (t.wgChecked r v).lvq = t.lvq := by
  unfold Thread.wgChecked; split <;> (try split) <;> simp
@[simp] theorem wgChecked_cmp (t : Thread) (r : Reg) (v : W64) : (t.wgChecked r v).cmp = t.cmp := by
  unfold Thread.wgChecked; split <;> (try split) <;> simp
@[simp] theorem wgChecked_twinAt (t : Thread) (r : Reg) (v : W64) : (t.wgChecked r v).twinAt = t.twinAt := by
  unfold Thread.wgChecked; split <;> (try split) <;> simp
@[simp] theorem wgChecked_fwd (t : Thread) (r : Reg) (v : W64) : (t.wgChecked r v).fwd = t.fwd := by
  unfold Thread.wgChecked; split <;> (try split) <;> simp
@[simp] theorem wgChecked_fwdTick (t : Thread) (r : Reg) (v : W64) : (t.wgChecked r v).fwdTick = t.fwdTick := by
  unfold Thread.wgChecked; split <;> (try split) <;> simp
@[simp] theorem wgChecked_arrived (t : Thread) (r : Reg) (v : W64) : (t.wgChecked r v).arrived = t.arrived := by
  unfold Thread.wgChecked; split <;> (try split) <;> simp
@[simp] theorem wgChecked_aredIn (t : Thread) (r : Reg) (v : W64) : (t.wgChecked r v).aredIn = t.aredIn := by
  unfold Thread.wgChecked; split <;> (try split) <;> simp
@[simp] theorem wgChecked_rangeAt (t : Thread) (r : Reg) (v : W64) : (t.wgChecked r v).rangeAt = t.rangeAt := by
  unfold Thread.wgChecked; split <;> (try split) <;> simp
@[simp] theorem wgChecked_flight (t : Thread) (r : Reg) (v : W64) : (t.wgChecked r v).flight = t.flight := by
  unfold Thread.wgChecked; split <;> (try split) <;> simp
@[simp] theorem wgChecked_wakeSc (t : Thread) (r : Reg) (v : W64) : (t.wgChecked r v).wakeSc = t.wakeSc := by
  unfold Thread.wgChecked; split <;> (try split) <;> simp
@[simp] theorem wgChecked_itN (t : Thread) (r : Reg) (v : W64) : (t.wgChecked r v).itN = t.itN := by
  unfold Thread.wgChecked; split <;> (try split) <;> simp
@[simp] theorem wgChecked_seqRes (t : Thread) (r : Reg) (v : W64) : (t.wgChecked r v).seqRes = t.seqRes := by
  unfold Thread.wgChecked; split <;> (try split) <;> simp
@[simp] theorem wgChecked_peers (t : Thread) (r : Reg) (v : W64) : (t.wgChecked r v).peers = t.peers := by
  unfold Thread.wgChecked; split <;> (try split) <;> simp
@[simp] theorem wgChecked_refusedStore (t : Thread) (r : Reg) (v : W64) : (t.wgChecked r v).refusedStore = t.refusedStore := by
  unfold Thread.wgChecked; split <;> (try split) <;> simp
@[simp] theorem wgChecked_fenceStart (t : Thread) (r : Reg) (v : W64) : (t.wgChecked r v).fenceStart = t.fenceStart := by
  unfold Thread.wgChecked; split <;> (try split) <;> simp
@[simp] theorem wgChecked_killed (t : Thread) (r : Reg) (v : W64) : (t.wgChecked r v).killed = t.killed := by
  unfold Thread.wgChecked; split <;> (try split) <;> simp
@[simp] theorem wgChecked_mcstSeq (t : Thread) (r : Reg) (v : W64) : (t.wgChecked r v).mcstSeq = t.mcstSeq := by
  unfold Thread.wgChecked; split <;> (try split) <;> simp
@[simp] theorem wgChecked_mcstOpen (t : Thread) (r : Reg) (v : W64) : (t.wgChecked r v).mcstOpen = t.mcstOpen := by
  unfold Thread.wgChecked; split <;> (try split) <;> simp
@[simp] theorem wgChecked_mcstFailed (t : Thread) (r : Reg) (v : W64) : (t.wgChecked r v).mcstFailed = t.mcstFailed := by
  unfold Thread.wgChecked; split <;> (try split) <;> simp
@[simp] theorem wgChecked_efence (t : Thread) (r : Reg) (v : W64) : (t.wgChecked r v).efence = t.efence := by
  unfold Thread.wgChecked; split <;> (try split) <;> simp
@[simp] theorem wgChecked_runSer (t : Thread) (r : Reg) (v : W64) : (t.wgChecked r v).runSer = t.runSer := by
  unfold Thread.wgChecked; split <;> (try split) <;> simp

end Sys2Proof.Laws
end

