-- ==== Sys2Proof/Laws/Tab.lean ====
section
/-! SUPPORT. Laws of the sparse tables and of memories: read after write, the canonical form and its preservation. -/

namespace Sys2Proof.Laws

open Sys2Proof Sys2Proof.Machine

variable {α : Type}

/-! ## Tables -/

@[simp] theorem tfind_tput_same (t : Tab α) (a : Nat) (v : α) : tfind (tput t a v) a = some v := by
  induction t with
  | nil => simp [tput, tfind]
  | cons c r ih =>
    obtain ⟨k, w⟩ := c
    simp only [tput]
    split
    · simp [tfind]
    · split
      · simp [tfind]
      · simp_all [tfind]

theorem tfind_tput_other (t : Tab α) {a b : Nat} (v : α) (h : a ≠ b) : tfind (tput t a v) b = tfind t b := by
  induction t with
  | nil => simp [tput, tfind, h]
  | cons c r ih =>
    obtain ⟨k, w⟩ := c
    simp only [tput]
    split
    · simp [tfind, h]
    · split
      · subst k; simp [tfind, h]
      · simp only [tfind, ih]

theorem tfind_tput (t : Tab α) (a b : Nat) (v : α) : tfind (tput t a v) b = if a = b then some v else tfind t b := by
  by_cases h : a = b
  · subst h; simp
  · simp [h, tfind_tput_other]

@[simp] theorem tget_tput_same (d : α) (t : Tab α) (a : Nat) (v : α) : tget d (tput t a v) a = v := by simp [tget]

theorem tget_tput_other (d : α) (t : Tab α) {a b : Nat} (v : α) (h : a ≠ b) : tget d (tput t a v) b = tget d t b := by
  simp [tget, tfind_tput_other t v h]

theorem tget_tput (d : α) (t : Tab α) (a b : Nat) (v : α) : tget d (tput t a v) b = if a = b then v else tget d t b := by
  by_cases h : a = b
  · subst h; simp
  · simp [h, tget_tput_other]

@[simp] theorem tfind_nil (a : Nat) : tfind ([] : Tab α) a = none := rfl
@[simp] theorem tget_nil (d : α) (a : Nat) : tget d ([] : Tab α) a = d := rfl

/-! ## Rising keys -/

theorem risingFrom_mono {t : Tab α} {b c : Nat} (h : risingFrom (some c) t = true) (hb : b ≤ c) : risingFrom (some b) t = true := by
  cases t with
  | nil => rfl
  | cons x r =>
    obtain ⟨k, w⟩ := x
    simp only [risingFrom, Bool.and_eq_true, decide_eq_true_eq] at h ⊢
    exact ⟨by omega, h.2⟩

theorem risingFrom_none {t : Tab α} {b : Nat} (h : risingFrom (some b) t = true) : risingFrom none t = true := by
  cases t with
  | nil => rfl
  | cons x r =>
    obtain ⟨k, w⟩ := x
    simp only [risingFrom, Bool.and_eq_true] at h ⊢
    exact h.2

theorem risingFrom_tput {t : Tab α} {b a : Nat} (v : α) (h : risingFrom (some b) t = true) (hb : b < a) :
    risingFrom (some b) (tput t a v) = true := by
  induction t generalizing b with
  | nil => simp [tput, risingFrom, hb]
  | cons x r ih =>
    obtain ⟨k, w⟩ := x
    simp only [risingFrom, Bool.and_eq_true, decide_eq_true_eq] at h
    simp only [tput]
    split
    · simp [risingFrom, h.2, *]
    · split
      · subst k; simp [risingFrom, h.1, h.2]
      · simp [risingFrom, h.1, ih h.2 (by omega)]

theorem rising_tput {t : Tab α} {a : Nat} (v : α) (h : risingFrom none t = true) : risingFrom none (tput t a v) = true := by
  cases t with
  | nil => rfl
  | cons x r =>
    obtain ⟨k, w⟩ := x
    simp only [risingFrom] at h
    simp only [tput]
    split
    · simp [risingFrom, *]
    · split
      · subst k; simpa [risingFrom] using h
      · simp only [risingFrom]; exact risingFrom_tput v h (by omega)

theorem risingFrom_tdel {t : Tab α} {b : Nat} (a : Nat) (h : risingFrom (some b) t = true) : risingFrom (some b) (tdel t a) = true := by
  induction t generalizing b with
  | nil => exact h
  | cons x r ih =>
    obtain ⟨k, w⟩ := x
    simp only [risingFrom, Bool.and_eq_true, decide_eq_true_eq] at h
    simp only [tdel]
    split
    · exact ih (risingFrom_mono h.2 (by omega))
    · simp [risingFrom, h.1, ih h.2]

theorem rising_tdel {t : Tab α} (a : Nat) (h : risingFrom none t = true) : risingFrom none (tdel t a) = true := by
  cases t with
  | nil => exact h
  | cons x r =>
    obtain ⟨k, w⟩ := x
    simp only [risingFrom] at h
    simp only [tdel]
    split
    · exact risingFrom_none (risingFrom_tdel a h)
    · simp only [risingFrom]; exact risingFrom_tdel a h

theorem tfind_tdel_same (t : Tab α) (a : Nat) : tfind (tdel t a) a = none := by
  induction t with
  | nil => rfl
  | cons x r ih =>
    obtain ⟨k, w⟩ := x
    simp only [tdel]
    split
    · exact ih
    · simp_all [tfind]

theorem tfind_tdel_other (t : Tab α) {a b : Nat} (h : a ≠ b) : tfind (tdel t a) b = tfind t b := by
  induction t with
  | nil => rfl
  | cons x r ih =>
    obtain ⟨k, w⟩ := x
    simp only [tdel]
    split
    · subst k; simp [tfind, h, ih]
    · simp [tfind, ih]

/-! ## Memories -/

@[simp] theorem mread_mwrite_same (m : Mem) (a : Nat) (v : Byte) : mread (mwrite m a v) a = v := by
  unfold mread mwrite
  split
  · simp [tget, tfind_tdel_same, *]
  · simp

theorem mread_mwrite_other (m : Mem) {a b : Nat} (v : Byte) (h : a ≠ b) : mread (mwrite m a v) b = mread m b := by
  unfold mread mwrite
  split
  · simp [tget, tfind_tdel_other m h]
  · exact tget_tput_other 0 m v h

/-- Bytes written from an address read back; every other byte is unchanged. -/
theorem mread_mwriteN (m : Mem) (a : Nat) (bs : List Byte) (x : Nat) :
    mread (mwriteN m a bs) x = if a ≤ x ∧ x < a + bs.length then bs.getD (x - a) 0 else mread m x := by
  induction bs generalizing m a with
  | nil => rw [mwriteN, if_neg (by simp)]
  | cons b r ih =>
    rw [mwriteN, ih]
    by_cases h : a = x
    · subst h
      simp
    · rw [mread_mwrite_other _ _ h]
      by_cases h2 : a ≤ x ∧ x < a + (b :: r).length
      · have h3 : a + 1 ≤ x ∧ x < a + 1 + r.length := by simp at h2; omega
        rw [if_pos h2, if_pos h3]
        obtain ⟨n, hn⟩ : ∃ n, x - a = n + 1 := ⟨x - a - 1, by omega⟩
        have : x - (a + 1) = n := by omega
        simp [hn, this]
      · have h3 : ¬ (a + 1 ≤ x ∧ x < a + 1 + r.length) := by simp at h2; omega
        rw [if_neg h2, if_neg h3]

theorem mread_mwriteN_other (m : Mem) (a : Nat) (bs : List Byte) (x : Nat) (h : x < a ∨ a + bs.length ≤ x) :
    mread (mwriteN m a bs) x = mread m x := by
  rw [mread_mwriteN, if_neg (by omega)]

/-- What is written is what is read. -/
theorem mreadN_mwriteN (m : Mem) (a : Nat) (bs : List Byte) : mreadN (mwriteN m a bs) a bs.length = bs := by
  have key : ∀ (n k : Nat), k + n = bs.length → mreadN (mwriteN m a bs) (a + k) n = bs.drop k := by
    intro n
    induction n with
    | zero => intro k hk; simp [mreadN, List.drop_of_length_le (by omega : bs.length ≤ k)]
    | succ n ih =>
      intro k hk
      have hlt : k < bs.length := by omega
      rw [mreadN, mread_mwriteN, if_pos (by omega), Nat.add_assoc, ih (k + 1) (by omega), Nat.add_sub_cancel_left]
      rw [List.drop_eq_getElem_cons hlt, List.getD_eq_getElem _ _ hlt]
  simpa using key bs.length 0 (by omega)

/-! ## The canonical form -/

@[simp] theorem memWf_nil : memWf [] = true := rfl

theorem noZero_tput {m : Mem} {a : Nat} {v : Byte} (h : m.all (fun c => c.2 != 0) = true) (hv : v ≠ 0) :
    (tput m a v).all (fun c => c.2 != 0) = true := by
  have hv' : (v != 0) = true := bne_iff_ne.2 hv
  induction m with
  | nil => simp only [tput, List.all_cons, List.all_nil, hv', Bool.and_self]
  | cons x r ih =>
    obtain ⟨k, w⟩ := x
    simp only [List.all_cons, Bool.and_eq_true] at h
    simp only [tput]
    split
    · simp only [List.all_cons, hv', h.1, h.2, Bool.and_self]
    · split
      · simp only [List.all_cons, hv', h.2, Bool.and_self]
      · simp only [List.all_cons, h.1, ih h.2, Bool.and_self]

theorem noZero_tdel {m : Mem} (a : Nat) (h : m.all (fun c => c.2 != 0) = true) : (tdel m a).all (fun c => c.2 != 0) = true := by
  induction m with
  | nil => exact h
  | cons x r ih =>
    obtain ⟨k, w⟩ := x
    simp only [List.all_cons, Bool.and_eq_true] at h
    simp only [tdel]
    split
    · exact ih h.2
    · simp only [List.all_cons, h.1, ih h.2, Bool.and_self]

theorem memWf_mwrite {m : Mem} (a : Nat) (v : Byte) (h : memWf m = true) : memWf (mwrite m a v) = true := by
  simp only [memWf, Bool.and_eq_true] at h ⊢
  unfold mwrite
  split
  · exact ⟨rising_tdel a h.1, noZero_tdel a h.2⟩
  · exact ⟨rising_tput v h.1, noZero_tput h.2 (by assumption)⟩

theorem memWf_mwriteN {m : Mem} (a : Nat) (bs : List Byte) (h : memWf m = true) : memWf (mwriteN m a bs) = true := by
  induction bs generalizing m a with
  | nil => exact h
  | cons b r ih => exact ih (a + 1) (memWf_mwrite a b h)

theorem memWf_tdel {m : Mem} (a : Nat) (h : memWf m = true) : memWf (tdel m a) = true := by
  simp only [memWf, Bool.and_eq_true] at h ⊢
  exact ⟨rising_tdel a h.1, noZero_tdel a h.2⟩

theorem risingFrom_filter {t : Tab α} (p : Nat × α → Bool) {b : Nat} (h : risingFrom (some b) t = true) :
    risingFrom (some b) (t.filter p) = true := by
  induction t generalizing b with
  | nil => exact h
  | cons x r ih =>
    obtain ⟨k, w⟩ := x
    simp only [risingFrom, Bool.and_eq_true, decide_eq_true_eq] at h
    simp only [List.filter]
    split
    · simp [risingFrom, h.1, ih h.2]
    · exact ih (risingFrom_mono h.2 (by omega))

theorem memWf_filter {m : Mem} (p : Nat × Byte → Bool) (h : memWf m = true) : memWf (m.filter p) = true := by
  simp only [memWf, Bool.and_eq_true] at h ⊢
  refine ⟨?_, by simp only [List.all_eq_true, List.mem_filter] at h ⊢; exact fun x hx => h.2 x hx.1⟩
  cases m with
  | nil => rfl
  | cons x r =>
    obtain ⟨k, w⟩ := x
    simp only [risingFrom] at h
    simp only [List.filter]
    split
    · simp only [risingFrom]; exact risingFrom_filter p h.1
    · exact risingFrom_none (risingFrom_filter p h.1)

/-- Every key of a table whose keys rise from a bound lies above it. -/
theorem risingFrom_lt {t : Tab α} {b : Nat} (h : risingFrom (some b) t = true) {c : Nat × α} (hc : c ∈ t) : b < c.1 := by
  induction t generalizing b with
  | nil => simp at hc
  | cons x r ih =>
    obtain ⟨k, w⟩ := x
    simp only [risingFrom, Bool.and_eq_true, decide_eq_true_eq] at h
    rcases List.mem_cons.1 hc with rfl | hc
    · exact h.1
    · have := ih h.2 hc; omega

end Sys2Proof.Laws
end

