-- ==== Sys2Proof/Laws/Access.lean ====
section
/-! SUPPORT. Reading a part of the state after an update of a part: what was written where it was written, and the old
value everywhere else. -/

namespace Sys2Proof.Laws

open Sys2Proof Sys2Proof.Machine

/-! ## The part that was written -/

@[simp] theorem thread_setThread_same (s : State) (k : Nat) (t : Thread) : (s.setThread k t).thread k = t := by
  simp [State.thread, State.setThread]
theorem thread_setThread_other (s : State) {k j : Nat} (t : Thread) (h : k ≠ j) : (s.setThread k t).thread j = s.thread j := by
  simp [State.thread, State.setThread, tfind_tput_other s.threads t h]
theorem thread_setThread (s : State) (k j : Nat) (t : Thread) : (s.setThread k t).thread j = if k = j then t else s.thread j := by
  by_cases h : k = j
  · subst h; simp
  · simp [h, thread_setThread_other]
@[simp] theorem thread_setMe_cur (s : State) (t : Thread) : (s.setMe t).thread s.cur = t := thread_setThread_same s s.cur t
theorem thread_setMe_other (s : State) {j : Nat} (t : Thread) (h : s.cur ≠ j) : (s.setMe t).thread j = s.thread j :=
  thread_setThread_other s t h
@[simp] theorem me_setMe (s : State) (t : Thread) : (s.setMe t).me = t := thread_setThread_same s s.cur t
@[simp] theorem core_setCore_same (s : State) (c : Nat) (x : Core) : (s.setCore c x).core c = x := by
  simp [State.core, State.setCore]
theorem core_setCore_other (s : State) {c j : Nat} (x : Core) (h : c ≠ j) : (s.setCore c x).core j = s.core j := by
  simp [State.core, State.setCore, tget_tput_other Core.reset s.cores x h]
@[simp] theorem arch_setArch_same (s : State) (c : Nat) (x : CoreArch) : (s.setArch c x).arch c = x := by
  simp [State.arch, State.setArch]
theorem arch_setArch_other (s : State) {c j : Nat} (x : CoreArch) (h : c ≠ j) : (s.setArch c x).arch j = s.arch j := by
  simp [State.arch, State.setArch, core_setCore_other s _ h]
theorem core_setArch_other (s : State) {c j : Nat} (x : CoreArch) (h : c ≠ j) : (s.setArch c x).core j = s.core j :=
  core_setCore_other s _ h
@[simp] theorem core_setArch_same (s : State) (c : Nat) (x : CoreArch) : (s.setArch c x).core c = { s.core c with arch := x } := by
  simp [State.setArch]
@[simp] theorem cluster_setCluster_same (s : State) (c : Nat) (x : Cluster) : (s.setCluster c x).cluster c = x := by
  simp [State.cluster, State.setCluster]
theorem cluster_setCluster_other (s : State) {c j : Nat} (x : Cluster) (h : c ≠ j) : (s.setCluster c x).cluster j = s.cluster j := by
  simp [State.cluster, State.setCluster, tget_tput_other Cluster.reset s.clusters x h]
@[simp] theorem die_setDie_same (s : State) (d : Nat) (x : Die) : (s.setDie d x).die d = x := by
  simp [State.die, State.setDie]
theorem die_setDie_other (s : State) {d j : Nat} (x : Die) (h : d ≠ j) : (s.setDie d x).die j = s.die j := by
  simp [State.die, State.setDie, tget_tput_other Die.reset s.dies x h]
@[simp] theorem part_setPart_same (s : State) (p : Nat) (x : Partition) : (s.setPart p x).part p = x := by
  simp [State.part, State.setPart]
theorem part_setPart_other (s : State) {p j : Nat} (x : Partition) (h : p ≠ j) : (s.setPart p x).part j = s.part j := by
  exact tget_tput_other _ s.parts x h
@[simp] theorem queue_setQueue_same (s : State) (q : Nat) (x : WorkQueue) : (s.setQueue q x).queue q = x := by
  simp [State.queue, State.setQueue]
theorem queue_setQueue_other (s : State) {q j : Nat} (x : WorkQueue) (h : q ≠ j) : (s.setQueue q x).queue j = s.queue j := by
  exact tget_tput_other _ s.queues x h

/-! ## Every other part -/

@[simp] theorem core_setThread (s : State) (k : Nat) (t : Thread) (j : Nat) : (s.setThread k t).core j = s.core j := rfl
@[simp] theorem arch_setThread (s : State) (k : Nat) (t : Thread) (j : Nat) : (s.setThread k t).arch j = s.arch j := rfl
@[simp] theorem cluster_setThread (s : State) (k : Nat) (t : Thread) (j : Nat) : (s.setThread k t).cluster j = s.cluster j := rfl
@[simp] theorem die_setThread (s : State) (k : Nat) (t : Thread) (j : Nat) : (s.setThread k t).die j = s.die j := rfl
@[simp] theorem part_setThread (s : State) (k : Nat) (t : Thread) (j : Nat) : (s.setThread k t).part j = s.part j := rfl
@[simp] theorem queue_setThread (s : State) (k : Nat) (t : Thread) (j : Nat) : (s.setThread k t).queue j = s.queue j := rfl
@[simp] theorem cyc_setThread (s : State) (k : Nat) (t : Thread) (j : Nat) : (s.setThread k t).cyc j = s.cyc j := rfl
@[simp] theorem partOf_setThread (s : State) (k : Nat) (t : Thread) (j : Nat) : (s.setThread k t).partOf j = s.partOf j := rfl
@[simp] theorem myCore_setThread (s : State) (k : Nat) (t : Thread) : (s.setThread k t).myCore = s.myCore := rfl
@[simp] theorem tim_setThread (s : State) (k : Nat) (t : Thread) : (s.setThread k t).tim = s.tim := rfl
@[simp] theorem tid_setThread (s : State) (k : Nat) (t : Thread) (j : Nat) : (s.setThread k t).tid j = s.tid j := rfl
@[simp] theorem ofTid_setThread (s : State) (k : Nat) (t : Thread) (v : W64) : (s.setThread k t).ofTid v = s.ofTid v := rfl
@[simp] theorem doneAt_setThread (s : State) (k : Nat) (t : Thread) (n : Nat) : (s.setThread k t).doneAt n = s.doneAt n := rfl
@[simp] theorem core_setMe (s : State) (t : Thread) (j : Nat) : (s.setMe t).core j = s.core j := rfl
@[simp] theorem arch_setMe (s : State) (t : Thread) (j : Nat) : (s.setMe t).arch j = s.arch j := rfl
@[simp] theorem cluster_setMe (s : State) (t : Thread) (j : Nat) : (s.setMe t).cluster j = s.cluster j := rfl
@[simp] theorem die_setMe (s : State) (t : Thread) (j : Nat) : (s.setMe t).die j = s.die j := rfl
@[simp] theorem part_setMe (s : State) (t : Thread) (j : Nat) : (s.setMe t).part j = s.part j := rfl
@[simp] theorem queue_setMe (s : State) (t : Thread) (j : Nat) : (s.setMe t).queue j = s.queue j := rfl
@[simp] theorem cyc_setMe (s : State) (t : Thread) (j : Nat) : (s.setMe t).cyc j = s.cyc j := rfl
@[simp] theorem partOf_setMe (s : State) (t : Thread) (j : Nat) : (s.setMe t).partOf j = s.partOf j := rfl
@[simp] theorem myCore_setMe (s : State) (t : Thread) : (s.setMe t).myCore = s.myCore := rfl
@[simp] theorem tim_setMe (s : State) (t : Thread) : (s.setMe t).tim = s.tim := rfl
@[simp] theorem tid_setMe (s : State) (t : Thread) (j : Nat) : (s.setMe t).tid j = s.tid j := rfl
@[simp] theorem ofTid_setMe (s : State) (t : Thread) (v : W64) : (s.setMe t).ofTid v = s.ofTid v := rfl
@[simp] theorem doneAt_setMe (s : State) (t : Thread) (n : Nat) : (s.setMe t).doneAt n = s.doneAt n := rfl
@[simp] theorem thread_setCore (s : State) (c : Nat) (x : Core) (j : Nat) : (s.setCore c x).thread j = s.thread j := rfl
@[simp] theorem cluster_setCore (s : State) (c : Nat) (x : Core) (j : Nat) : (s.setCore c x).cluster j = s.cluster j := rfl
@[simp] theorem die_setCore (s : State) (c : Nat) (x : Core) (j : Nat) : (s.setCore c x).die j = s.die j := rfl
@[simp] theorem part_setCore (s : State) (c : Nat) (x : Core) (j : Nat) : (s.setCore c x).part j = s.part j := rfl
@[simp] theorem queue_setCore (s : State) (c : Nat) (x : Core) (j : Nat) : (s.setCore c x).queue j = s.queue j := rfl
@[simp] theorem cyc_setCore (s : State) (c : Nat) (x : Core) (j : Nat) : (s.setCore c x).cyc j = s.cyc j := rfl
@[simp] theorem me_setCore (s : State) (c : Nat) (x : Core) : (s.setCore c x).me = s.me := rfl
@[simp] theorem myCore_setCore (s : State) (c : Nat) (x : Core) : (s.setCore c x).myCore = s.myCore := rfl
@[simp] theorem tim_setCore (s : State) (c : Nat) (x : Core) : (s.setCore c x).tim = s.tim := rfl
@[simp] theorem tid_setCore (s : State) (c : Nat) (x : Core) (j : Nat) : (s.setCore c x).tid j = s.tid j := rfl
@[simp] theorem ofTid_setCore (s : State) (c : Nat) (x : Core) (v : W64) : (s.setCore c x).ofTid v = s.ofTid v := rfl
@[simp] theorem doneAt_setCore (s : State) (c : Nat) (x : Core) (n : Nat) : (s.setCore c x).doneAt n = s.doneAt n := rfl
@[simp] theorem thread_setArch (s : State) (c : Nat) (x : CoreArch) (j : Nat) : (s.setArch c x).thread j = s.thread j := rfl
@[simp] theorem cluster_setArch (s : State) (c : Nat) (x : CoreArch) (j : Nat) : (s.setArch c x).cluster j = s.cluster j := rfl
@[simp] theorem die_setArch (s : State) (c : Nat) (x : CoreArch) (j : Nat) : (s.setArch c x).die j = s.die j := rfl
@[simp] theorem part_setArch (s : State) (c : Nat) (x : CoreArch) (j : Nat) : (s.setArch c x).part j = s.part j := rfl
@[simp] theorem queue_setArch (s : State) (c : Nat) (x : CoreArch) (j : Nat) : (s.setArch c x).queue j = s.queue j := rfl
@[simp] theorem cyc_setArch (s : State) (c : Nat) (x : CoreArch) (j : Nat) : (s.setArch c x).cyc j = s.cyc j := rfl
@[simp] theorem me_setArch (s : State) (c : Nat) (x : CoreArch) : (s.setArch c x).me = s.me := rfl
@[simp] theorem myCore_setArch (s : State) (c : Nat) (x : CoreArch) : (s.setArch c x).myCore = s.myCore := rfl
@[simp] theorem tim_setArch (s : State) (c : Nat) (x : CoreArch) : (s.setArch c x).tim = s.tim := rfl
@[simp] theorem tid_setArch (s : State) (c : Nat) (x : CoreArch) (j : Nat) : (s.setArch c x).tid j = s.tid j := rfl
@[simp] theorem ofTid_setArch (s : State) (c : Nat) (x : CoreArch) (v : W64) : (s.setArch c x).ofTid v = s.ofTid v := rfl
@[simp] theorem doneAt_setArch (s : State) (c : Nat) (x : CoreArch) (n : Nat) : (s.setArch c x).doneAt n = s.doneAt n := rfl
@[simp] theorem thread_setCluster (s : State) (c : Nat) (x : Cluster) (j : Nat) : (s.setCluster c x).thread j = s.thread j := rfl
@[simp] theorem core_setCluster (s : State) (c : Nat) (x : Cluster) (j : Nat) : (s.setCluster c x).core j = s.core j := rfl
@[simp] theorem arch_setCluster (s : State) (c : Nat) (x : Cluster) (j : Nat) : (s.setCluster c x).arch j = s.arch j := rfl
@[simp] theorem die_setCluster (s : State) (c : Nat) (x : Cluster) (j : Nat) : (s.setCluster c x).die j = s.die j := rfl
@[simp] theorem part_setCluster (s : State) (c : Nat) (x : Cluster) (j : Nat) : (s.setCluster c x).part j = s.part j := rfl
@[simp] theorem queue_setCluster (s : State) (c : Nat) (x : Cluster) (j : Nat) : (s.setCluster c x).queue j = s.queue j := rfl
@[simp] theorem cyc_setCluster (s : State) (c : Nat) (x : Cluster) (j : Nat) : (s.setCluster c x).cyc j = s.cyc j := rfl
@[simp] theorem partOf_setCluster (s : State) (c : Nat) (x : Cluster) (j : Nat) : (s.setCluster c x).partOf j = s.partOf j := rfl
@[simp] theorem me_setCluster (s : State) (c : Nat) (x : Cluster) : (s.setCluster c x).me = s.me := rfl
@[simp] theorem myCore_setCluster (s : State) (c : Nat) (x : Cluster) : (s.setCluster c x).myCore = s.myCore := rfl
@[simp] theorem tim_setCluster (s : State) (c : Nat) (x : Cluster) : (s.setCluster c x).tim = s.tim := rfl
@[simp] theorem tid_setCluster (s : State) (c : Nat) (x : Cluster) (j : Nat) : (s.setCluster c x).tid j = s.tid j := rfl
@[simp] theorem ofTid_setCluster (s : State) (c : Nat) (x : Cluster) (v : W64) : (s.setCluster c x).ofTid v = s.ofTid v := rfl
@[simp] theorem doneAt_setCluster (s : State) (c : Nat) (x : Cluster) (n : Nat) : (s.setCluster c x).doneAt n = s.doneAt n := rfl
@[simp] theorem thread_setDie (s : State) (d : Nat) (x : Die) (j : Nat) : (s.setDie d x).thread j = s.thread j := rfl
@[simp] theorem core_setDie (s : State) (d : Nat) (x : Die) (j : Nat) : (s.setDie d x).core j = s.core j := rfl
@[simp] theorem arch_setDie (s : State) (d : Nat) (x : Die) (j : Nat) : (s.setDie d x).arch j = s.arch j := rfl
@[simp] theorem cluster_setDie (s : State) (d : Nat) (x : Die) (j : Nat) : (s.setDie d x).cluster j = s.cluster j := rfl
@[simp] theorem part_setDie (s : State) (d : Nat) (x : Die) (j : Nat) : (s.setDie d x).part j = s.part j := rfl
@[simp] theorem queue_setDie (s : State) (d : Nat) (x : Die) (j : Nat) : (s.setDie d x).queue j = s.queue j := rfl
@[simp] theorem partOf_setDie (s : State) (d : Nat) (x : Die) (j : Nat) : (s.setDie d x).partOf j = s.partOf j := rfl
@[simp] theorem me_setDie (s : State) (d : Nat) (x : Die) : (s.setDie d x).me = s.me := rfl
@[simp] theorem myCore_setDie (s : State) (d : Nat) (x : Die) : (s.setDie d x).myCore = s.myCore := rfl
@[simp] theorem tim_setDie (s : State) (d : Nat) (x : Die) : (s.setDie d x).tim = s.tim := rfl
@[simp] theorem tid_setDie (s : State) (d : Nat) (x : Die) (j : Nat) : (s.setDie d x).tid j = s.tid j := rfl
@[simp] theorem ofTid_setDie (s : State) (d : Nat) (x : Die) (v : W64) : (s.setDie d x).ofTid v = s.ofTid v := rfl
@[simp] theorem thread_setPart (s : State) (p : Nat) (x : Partition) (j : Nat) : (s.setPart p x).thread j = s.thread j := rfl
@[simp] theorem core_setPart (s : State) (p : Nat) (x : Partition) (j : Nat) : (s.setPart p x).core j = s.core j := rfl
@[simp] theorem arch_setPart (s : State) (p : Nat) (x : Partition) (j : Nat) : (s.setPart p x).arch j = s.arch j := rfl
@[simp] theorem cluster_setPart (s : State) (p : Nat) (x : Partition) (j : Nat) : (s.setPart p x).cluster j = s.cluster j := rfl
@[simp] theorem die_setPart (s : State) (p : Nat) (x : Partition) (j : Nat) : (s.setPart p x).die j = s.die j := rfl
@[simp] theorem queue_setPart (s : State) (p : Nat) (x : Partition) (j : Nat) : (s.setPart p x).queue j = s.queue j := rfl
@[simp] theorem cyc_setPart (s : State) (p : Nat) (x : Partition) (j : Nat) : (s.setPart p x).cyc j = s.cyc j := rfl
@[simp] theorem partOf_setPart (s : State) (p : Nat) (x : Partition) (j : Nat) : (s.setPart p x).partOf j = s.partOf j := rfl
@[simp] theorem me_setPart (s : State) (p : Nat) (x : Partition) : (s.setPart p x).me = s.me := rfl
@[simp] theorem myCore_setPart (s : State) (p : Nat) (x : Partition) : (s.setPart p x).myCore = s.myCore := rfl
@[simp] theorem tim_setPart (s : State) (p : Nat) (x : Partition) : (s.setPart p x).tim = s.tim := rfl
@[simp] theorem tid_setPart (s : State) (p : Nat) (x : Partition) (j : Nat) : (s.setPart p x).tid j = s.tid j := rfl
@[simp] theorem ofTid_setPart (s : State) (p : Nat) (x : Partition) (v : W64) : (s.setPart p x).ofTid v = s.ofTid v := rfl
@[simp] theorem doneAt_setPart (s : State) (p : Nat) (x : Partition) (n : Nat) : (s.setPart p x).doneAt n = s.doneAt n := rfl
@[simp] theorem thread_setQueue (s : State) (q : Nat) (x : WorkQueue) (j : Nat) : (s.setQueue q x).thread j = s.thread j := rfl
@[simp] theorem core_setQueue (s : State) (q : Nat) (x : WorkQueue) (j : Nat) : (s.setQueue q x).core j = s.core j := rfl
@[simp] theorem arch_setQueue (s : State) (q : Nat) (x : WorkQueue) (j : Nat) : (s.setQueue q x).arch j = s.arch j := rfl
@[simp] theorem cluster_setQueue (s : State) (q : Nat) (x : WorkQueue) (j : Nat) : (s.setQueue q x).cluster j = s.cluster j := rfl
@[simp] theorem die_setQueue (s : State) (q : Nat) (x : WorkQueue) (j : Nat) : (s.setQueue q x).die j = s.die j := rfl
@[simp] theorem part_setQueue (s : State) (q : Nat) (x : WorkQueue) (j : Nat) : (s.setQueue q x).part j = s.part j := rfl
@[simp] theorem cyc_setQueue (s : State) (q : Nat) (x : WorkQueue) (j : Nat) : (s.setQueue q x).cyc j = s.cyc j := rfl
@[simp] theorem partOf_setQueue (s : State) (q : Nat) (x : WorkQueue) (j : Nat) : (s.setQueue q x).partOf j = s.partOf j := rfl
@[simp] theorem me_setQueue (s : State) (q : Nat) (x : WorkQueue) : (s.setQueue q x).me = s.me := rfl
@[simp] theorem myCore_setQueue (s : State) (q : Nat) (x : WorkQueue) : (s.setQueue q x).myCore = s.myCore := rfl
@[simp] theorem tim_setQueue (s : State) (q : Nat) (x : WorkQueue) : (s.setQueue q x).tim = s.tim := rfl
@[simp] theorem tid_setQueue (s : State) (q : Nat) (x : WorkQueue) (j : Nat) : (s.setQueue q x).tid j = s.tid j := rfl
@[simp] theorem ofTid_setQueue (s : State) (q : Nat) (x : WorkQueue) (v : W64) : (s.setQueue q x).ofTid v = s.ofTid v := rfl
@[simp] theorem doneAt_setQueue (s : State) (q : Nat) (x : WorkQueue) (n : Nat) : (s.setQueue q x).doneAt n = s.doneAt n := rfl
@[simp] theorem thread_useFree (s : State) (j : Nat) : (s.useFree).thread j = s.thread j := rfl
@[simp] theorem core_useFree (s : State) (j : Nat) : (s.useFree).core j = s.core j := rfl
@[simp] theorem arch_useFree (s : State) (j : Nat) : (s.useFree).arch j = s.arch j := rfl
@[simp] theorem cluster_useFree (s : State) (j : Nat) : (s.useFree).cluster j = s.cluster j := rfl
@[simp] theorem die_useFree (s : State) (j : Nat) : (s.useFree).die j = s.die j := rfl
@[simp] theorem part_useFree (s : State) (j : Nat) : (s.useFree).part j = s.part j := rfl
@[simp] theorem queue_useFree (s : State) (j : Nat) : (s.useFree).queue j = s.queue j := rfl
@[simp] theorem cyc_useFree (s : State) (j : Nat) : (s.useFree).cyc j = s.cyc j := rfl
@[simp] theorem partOf_useFree (s : State) (j : Nat) : (s.useFree).partOf j = s.partOf j := rfl
@[simp] theorem me_useFree (s : State) : (s.useFree).me = s.me := rfl
@[simp] theorem myCore_useFree (s : State) : (s.useFree).myCore = s.myCore := rfl
@[simp] theorem tim_useFree (s : State) : (s.useFree).tim = s.tim := rfl
@[simp] theorem tid_useFree (s : State) (j : Nat) : (s.useFree).tid j = s.tid j := rfl
@[simp] theorem ofTid_useFree (s : State) (v : W64) : (s.useFree).ofTid v = s.ofTid v := rfl
@[simp] theorem doneAt_useFree (s : State) (n : Nat) : (s.useFree).doneAt n = s.doneAt n := rfl

/-- Setting the machine words of a core leaves its partition. -/
@[simp] theorem partOf_setArch (s : State) (c : Nat) (x : CoreArch) (j : Nat) : (s.setArch c x).partOf j = s.partOf j := by
  unfold State.partOf
  by_cases h : c = j
  · subst h; simp
  · rw [core_setArch_other s x h]

/-! ## Registers (R87, R88) -/

@[simp] theorem rg_zero (t : Thread) : t.rg 0 = 0 := by simp [Thread.rg]
@[simp] theorem wg_zero (t : Thread) (v : W64) : t.wg 0 v = t := by simp [Thread.wg]
@[simp] theorem wgChecked_zero (t : Thread) (v : W64) : t.wgChecked 0 v = t := by simp [Thread.wgChecked]
theorem rg_wg (t : Thread) (r q : Reg) (v : W64) : (t.wg r v).rg q = if q = r ∧ r ≠ 0 then v else t.rg q := by
  by_cases hr : r = 0
  · subst hr; rw [wg_zero, if_neg (fun h => h.2 rfl)]
  · by_cases h : q = r
    · subst h
      rw [if_pos ⟨rfl, hr⟩]
      unfold Thread.rg Thread.wg
      rw [if_neg hr, if_neg hr]
      exact tget_tput_same 0 t.g _ v
    · rw [if_neg (fun e => h e.1)]
      unfold Thread.rg Thread.wg
      rw [if_neg hr]
      split
      · rfl
      · exact tget_tput_other 0 t.g v (fun e => h (BitVec.eq_of_toNat_eq e.symm))
@[simp] theorem rg_wg_same (t : Thread) (r : Reg) (v : W64) (h : r ≠ 0) : (t.wg r v).rg r = v := by
  rw [rg_wg, if_pos ⟨rfl, h⟩]
theorem rg_wg_other (t : Thread) {r q : Reg} (v : W64) (h : q ≠ r) : (t.wg r v).rg q = t.rg q := by simp [rg_wg, h]
theorem rg_wgChecked (t : Thread) (r q : Reg) (v : W64) : (t.wgChecked r v).rg q = if q = r ∧ r ≠ 0 then v else t.rg q := by
  unfold Thread.wgChecked
  by_cases hr : r = 0
  · simp [hr]
  · simp only [hr, if_false]
    split
    · rw [← rg_wg]; rfl
    · exact rg_wg t r q v
@[simp] theorem rg_adv (t : Thread) (n : Nat) (r : Reg) : (t.adv n).rg r = t.rg r := rfl
@[simp] theorem rg_goto (t : Thread) (p : W64) (n : Nat) (r : Reg) : (t.goto p n).rg r = t.rg r := rfl
@[simp] theorem rf_adv (t : Thread) (n : Nat) (r : Reg) : (t.adv n).rf r = t.rf r := rfl
@[simp] theorem rf_goto (t : Thread) (p : W64) (n : Nat) (r : Reg) : (t.goto p n).rf r = t.rf r := rfl
@[simp] theorem rf_wg (t : Thread) (r q : Reg) (v : W64) : (t.wg r v).rf q = t.rf q := by simp [Thread.rf]
@[simp] theorem rg_wf (t : Thread) (r q : Reg) (v : W128) : (t.wf r v).rg q = t.rg q := rfl
theorem rf_wf (t : Thread) (r q : Reg) (v : W128) : (t.wf r v).rf q = if q = r then v else t.rf q := by
  unfold Thread.wf Thread.rf
  by_cases h : q = r
  · subst h; simp
  · have hne : r.toNat ≠ q.toNat := fun e => h (BitVec.eq_of_toNat_eq e.symm)
    simp [h, tget_tput_other _ _ _ hne]
@[simp] theorem adv_pc (t : Thread) (n : Nat) : (t.adv n).pc = t.pc + 4 := rfl
@[simp] theorem adv_busy (t : Thread) (n : Nat) : (t.adv n).busy = some n := rfl
@[simp] theorem goto_pc (t : Thread) (p : W64) (n : Nat) : (t.goto p n).pc = p := rfl
@[simp] theorem goto_busy (t : Thread) (p : W64) (n : Nat) : (t.goto p n).busy = some n := rfl

/-! ## The end of an instruction (R52) -/

@[simp] theorem me_finish (s : State) (t : Thread) (n : Nat) : (s.finish t n).me = t.adv (s.doneAt n) := by
  simp [State.finish]
@[simp] theorem me_finishG (s : State) (d : Reg) (v : W64) (n : Nat) : (s.finishG d v n).me = (s.me.wg d v).adv (s.doneAt n) := by
  simp [State.finishG]
theorem thread_finish_other (s : State) (t : Thread) (n : Nat) {j : Nat} (h : s.cur ≠ j) : (s.finish t n).thread j = s.thread j :=
  thread_setMe_other s _ h
theorem thread_finishG_other (s : State) (d : Reg) (v : W64) (n : Nat) {j : Nat} (h : s.cur ≠ j) :
    (s.finishG d v n).thread j = s.thread j := thread_setMe_other s _ h

@[simp] theorem finish_pk (s : State) (t : Thread) (n : Nat) : (s.finish t n).pk = s.pk := rfl
@[simp] theorem finish_dies (s : State) (t : Thread) (n : Nat) : (s.finish t n).dies = s.dies := rfl
@[simp] theorem finish_cores (s : State) (t : Thread) (n : Nat) : (s.finish t n).cores = s.cores := rfl
@[simp] theorem finish_clusters (s : State) (t : Thread) (n : Nat) : (s.finish t n).clusters = s.clusters := rfl
@[simp] theorem finish_mem (s : State) (t : Thread) (n : Nat) : (s.finish t n).mem = s.mem := rfl
@[simp] theorem finish_parts (s : State) (t : Thread) (n : Nat) : (s.finish t n).parts = s.parts := rfl
@[simp] theorem finish_queues (s : State) (t : Thread) (n : Nat) : (s.finish t n).queues = s.queues := rfl
@[simp] theorem finish_links (s : State) (t : Thread) (n : Nat) : (s.finish t n).links = s.links := rfl
@[simp] theorem finish_host (s : State) (t : Thread) (n : Nat) : (s.finish t n).host = s.host := rfl
@[simp] theorem finish_images (s : State) (t : Thread) (n : Nat) : (s.finish t n).images = s.images := rfl
@[simp] theorem finish_out (s : State) (t : Thread) (n : Nat) : (s.finish t n).out = s.out := rfl
@[simp] theorem finish_schedule (s : State) (t : Thread) (n : Nat) : (s.finish t n).schedule = s.schedule := rfl
@[simp] theorem finish_lastCore (s : State) (t : Thread) (n : Nat) : (s.finish t n).lastCore = s.lastCore := rfl
@[simp] theorem finish_cur (s : State) (t : Thread) (n : Nat) : (s.finish t n).cur = s.cur := rfl
@[simp] theorem finish_fresh (s : State) (t : Thread) (n : Nat) : (s.finish t n).fresh = s.fresh := rfl
@[simp] theorem core_finish (s : State) (t : Thread) (n : Nat) (j : Nat) : (s.finish t n).core j = s.core j := rfl
@[simp] theorem arch_finish (s : State) (t : Thread) (n : Nat) (j : Nat) : (s.finish t n).arch j = s.arch j := rfl
@[simp] theorem cluster_finish (s : State) (t : Thread) (n : Nat) (j : Nat) : (s.finish t n).cluster j = s.cluster j := rfl
@[simp] theorem die_finish (s : State) (t : Thread) (n : Nat) (j : Nat) : (s.finish t n).die j = s.die j := rfl
@[simp] theorem part_finish (s : State) (t : Thread) (n : Nat) (j : Nat) : (s.finish t n).part j = s.part j := rfl
@[simp] theorem queue_finish (s : State) (t : Thread) (n : Nat) (j : Nat) : (s.finish t n).queue j = s.queue j := rfl
@[simp] theorem cyc_finish (s : State) (t : Thread) (n : Nat) (j : Nat) : (s.finish t n).cyc j = s.cyc j := rfl
@[simp] theorem partOf_finish (s : State) (t : Thread) (n : Nat) (j : Nat) : (s.finish t n).partOf j = s.partOf j := rfl
@[simp] theorem myCore_finish (s : State) (t : Thread) (n : Nat) : (s.finish t n).myCore = s.myCore := rfl
@[simp] theorem tim_finish (s : State) (t : Thread) (n : Nat) : (s.finish t n).tim = s.tim := rfl
@[simp] theorem tid_finish (s : State) (t : Thread) (n : Nat) (j : Nat) : (s.finish t n).tid j = s.tid j := rfl
@[simp] theorem ofTid_finish (s : State) (t : Thread) (n : Nat) (v : W64) : (s.finish t n).ofTid v = s.ofTid v := rfl
@[simp] theorem doneAt_finish (s : State) (t : Thread) (n : Nat) (m : Nat) : (s.finish t n).doneAt m = s.doneAt m := rfl
@[simp] theorem finishG_pk (s : State) (d : Reg) (v : W64) (n : Nat) : (s.finishG d v n).pk = s.pk := rfl
@[simp] theorem finishG_dies (s : State) (d : Reg) (v : W64) (n : Nat) : (s.finishG d v n).dies = s.dies := rfl
@[simp] theorem finishG_cores (s : State) (d : Reg) (v : W64) (n : Nat) : (s.finishG d v n).cores = s.cores := rfl
@[simp] theorem finishG_clusters (s : State) (d : Reg) (v : W64) (n : Nat) : (s.finishG d v n).clusters = s.clusters := rfl
@[simp] theorem finishG_mem (s : State) (d : Reg) (v : W64) (n : Nat) : (s.finishG d v n).mem = s.mem := rfl
@[simp] theorem finishG_parts (s : State) (d : Reg) (v : W64) (n : Nat) : (s.finishG d v n).parts = s.parts := rfl
@[simp] theorem finishG_queues (s : State) (d : Reg) (v : W64) (n : Nat) : (s.finishG d v n).queues = s.queues := rfl
@[simp] theorem finishG_links (s : State) (d : Reg) (v : W64) (n : Nat) : (s.finishG d v n).links = s.links := rfl
@[simp] theorem finishG_host (s : State) (d : Reg) (v : W64) (n : Nat) : (s.finishG d v n).host = s.host := rfl
@[simp] theorem finishG_images (s : State) (d : Reg) (v : W64) (n : Nat) : (s.finishG d v n).images = s.images := rfl
@[simp] theorem finishG_out (s : State) (d : Reg) (v : W64) (n : Nat) : (s.finishG d v n).out = s.out := rfl
@[simp] theorem finishG_schedule (s : State) (d : Reg) (v : W64) (n : Nat) : (s.finishG d v n).schedule = s.schedule := rfl
@[simp] theorem finishG_lastCore (s : State) (d : Reg) (v : W64) (n : Nat) : (s.finishG d v n).lastCore = s.lastCore := rfl
@[simp] theorem finishG_cur (s : State) (d : Reg) (v : W64) (n : Nat) : (s.finishG d v n).cur = s.cur := rfl
@[simp] theorem finishG_fresh (s : State) (d : Reg) (v : W64) (n : Nat) : (s.finishG d v n).fresh = s.fresh := rfl
@[simp] theorem core_finishG (s : State) (d : Reg) (v : W64) (n : Nat) (j : Nat) : (s.finishG d v n).core j = s.core j := rfl
@[simp] theorem arch_finishG (s : State) (d : Reg) (v : W64) (n : Nat) (j : Nat) : (s.finishG d v n).arch j = s.arch j := rfl
@[simp] theorem cluster_finishG (s : State) (d : Reg) (v : W64) (n : Nat) (j : Nat) : (s.finishG d v n).cluster j = s.cluster j := rfl
@[simp] theorem die_finishG (s : State) (d : Reg) (v : W64) (n : Nat) (j : Nat) : (s.finishG d v n).die j = s.die j := rfl
@[simp] theorem part_finishG (s : State) (d : Reg) (v : W64) (n : Nat) (j : Nat) : (s.finishG d v n).part j = s.part j := rfl
@[simp] theorem queue_finishG (s : State) (d : Reg) (v : W64) (n : Nat) (j : Nat) : (s.finishG d v n).queue j = s.queue j := rfl
@[simp] theorem cyc_finishG (s : State) (d : Reg) (v : W64) (n : Nat) (j : Nat) : (s.finishG d v n).cyc j = s.cyc j := rfl
@[simp] theorem partOf_finishG (s : State) (d : Reg) (v : W64) (n : Nat) (j : Nat) : (s.finishG d v n).partOf j = s.partOf j := rfl
@[simp] theorem myCore_finishG (s : State) (d : Reg) (v : W64) (n : Nat) : (s.finishG d v n).myCore = s.myCore := rfl
@[simp] theorem tim_finishG (s : State) (d : Reg) (v : W64) (n : Nat) : (s.finishG d v n).tim = s.tim := rfl
@[simp] theorem tid_finishG (s : State) (d : Reg) (v : W64) (n : Nat) (j : Nat) : (s.finishG d v n).tid j = s.tid j := rfl
@[simp] theorem ofTid_finishG (s : State) (d : Reg) (v : W64) (n : Nat) (v : W64) : (s.finishG d v n).ofTid v = s.ofTid v := rfl
@[simp] theorem doneAt_finishG (s : State) (d : Reg) (v : W64) (n : Nat) (m : Nat) : (s.finishG d v n).doneAt m = s.doneAt m := rfl

end Sys2Proof.Laws
end

