-- ==== Sys2Proof/Laws/Encoding.lean ====
section
/-! SUPPORT. Laws of the word layout (R23): the fields of a packed word, the bytes of words, and when a packed word is
decoded by its fields. -/

namespace Sys2Proof.Laws

open Sys2Proof

@[simp] theorem fieldK_packWord (k : BitVec 4) (c b a d : Reg) (op : Byte) : fieldK (packWord k c b a d op) = k := by
  unfold fieldK packWord
  simp (disch := omega) only [BitVec.extractLsb'_append_eq_of_le]
  simp

@[simp] theorem fieldC_packWord (k : BitVec 4) (c b a d : Reg) (op : Byte) : fieldC (packWord k c b a d op) = c := by
  unfold fieldC packWord
  simp (disch := omega) only [BitVec.extractLsb'_append_eq_of_le, BitVec.extractLsb'_append_eq_of_add_le]
  simp

@[simp] theorem fieldB_packWord (k : BitVec 4) (c b a d : Reg) (op : Byte) : fieldB (packWord k c b a d op) = b := by
  unfold fieldB packWord
  simp (disch := omega) only [BitVec.extractLsb'_append_eq_of_le, BitVec.extractLsb'_append_eq_of_add_le]
  simp

@[simp] theorem fieldA_packWord (k : BitVec 4) (c b a d : Reg) (op : Byte) : fieldA (packWord k c b a d op) = a := by
  unfold fieldA packWord
  simp (disch := omega) only [BitVec.extractLsb'_append_eq_of_le, BitVec.extractLsb'_append_eq_of_add_le]
  simp

@[simp] theorem fieldD_packWord (k : BitVec 4) (c b a d : Reg) (op : Byte) : fieldD (packWord k c b a d op) = d := by
  unfold fieldD packWord
  simp (disch := omega) only [BitVec.extractLsb'_append_eq_of_le, BitVec.extractLsb'_append_eq_of_add_le]
  simp

@[simp] theorem fieldOp_packWord (k : BitVec 4) (c b a d : Reg) (op : Byte) : fieldOp (packWord k c b a d op) = op := by
  unfold fieldOp packWord
  simp (disch := omega) only [BitVec.extractLsb'_append_eq_of_add_le]
  simp

/-- The four bytes of a word make it again. -/
theorem wordOfBytes_bytes (w : W32) :
    wordOfBytes (w.extractLsb' 0 8) (w.extractLsb' 8 8) (w.extractLsb' 16 8) (w.extractLsb' 24 8) = w := by
  unfold wordOfBytes
  rw [BitVec.append_assoc, BitVec.append_assoc, BitVec.extractLsb'_append_extractLsb'_eq_extractLsb' (by rfl)]
  rw [BitVec.cast_eq, BitVec.cast_eq]
  rw [BitVec.extractLsb'_append_extractLsb'_eq_extractLsb' (by rfl), BitVec.extractLsb'_append_extractLsb'_eq_extractLsb' (by rfl)]
  exact BitVec.extractLsb'_eq_self

/-- The words of the bytes of words. -/
@[simp] theorem wordsOfBytes_bytes (ws : List W32) : wordsOfBytes (ws.flatMap bytesOfWord) = ws := by
  induction ws with
  | nil => rfl
  | cons w ws ih => simp [bytesOfWord, wordsOfBytes, wordOfBytes_bytes, ih]

/-- A word that no parameter words follow is decoded by its fields. -/
theorem decode_single (k : BitVec 4) (c b a d : Reg) (op : Byte) (i : Instr) (hop : (op == 0x02 || op == 0x0E) = false)
    (h : decodeFields k c b a d op 0 0 0 0 = .ok i) :
    decode ([packWord k c b a d op].flatMap bytesOfWord) = .ok (i, []) := by
  unfold decode
  rw [wordsOfBytes_bytes]
  simp only [isBlockWord, decodeWord, fieldK_packWord, fieldC_packWord, fieldB_packWord, fieldA_packWord, fieldD_packWord,
    fieldOp_packWord, hop, h]
  rfl

/-- An RP word is decoded by its fields and the four words after it. -/
theorem decode_block (k : BitVec 4) (c b a d : Reg) (op : Byte) (p0 p1 p2 p3 : W32) (i : Instr)
    (hop : (op == 0x02 || op == 0x0E) = true) (h : decodeFields k c b a d op p0 p1 p2 p3 = .ok i) :
    decode ([packWord k c b a d op, p0, p1, p2, p3].flatMap bytesOfWord) = .ok (i, []) := by
  unfold decode
  rw [wordsOfBytes_bytes]
  simp only [isBlockWord, decodeWord, fieldK_packWord, fieldC_packWord, fieldB_packWord, fieldA_packWord, fieldD_packWord,
    fieldOp_packWord, hop, h]
  rfl

/-! ## Fields that are made of parts: a fixed part and an operand, or the pieces of an immediate -/

@[simp] theorem flag0_mask (x : BitVec 1) : (0#3 ++ x) &&& 14#4 = 0#4 := by
  revert x; decide

@[simp] theorem flag0_low (x : BitVec 1) : (0#3 ++ x).extractLsb' 0 1 = x := by
  revert x; decide

@[simp] theorem flag2_mask (x : BitVec 1) : (2#3 ++ x) &&& 14#4 = 4#4 := by
  revert x; decide

@[simp] theorem flag2_low (x : BitVec 1) : (2#3 ++ x).extractLsb' 0 1 = x := by
  revert x; decide

@[simp] theorem flag4_mask (x : BitVec 1) : (4#3 ++ x) &&& 14#4 = 8#4 := by
  revert x; decide

@[simp] theorem flag4_low (x : BitVec 1) : (4#3 ++ x).extractLsb' 0 1 = x := by
  revert x; decide

@[simp] theorem width0_mask (x : BitVec 2) : (0#2 ++ x) &&& 12#4 = 0#4 := by
  revert x; decide

@[simp] theorem width0_low (x : BitVec 2) : (0#2 ++ x).extractLsb' 0 2 = x := by
  revert x; decide

@[simp] theorem width1_mask (x : BitVec 2) : (1#2 ++ x) &&& 12#4 = 4#4 := by
  revert x; decide

@[simp] theorem width1_low (x : BitVec 2) : (1#2 ++ x).extractLsb' 0 2 = x := by
  revert x; decide

@[simp] theorem width2_mask (x : BitVec 2) : (2#2 ++ x) &&& 12#4 = 8#4 := by
  revert x; decide

@[simp] theorem width2_low (x : BitVec 2) : (2#2 ++ x).extractLsb' 0 2 = x := by
  revert x; decide

@[simp] theorem bit_mask (x : BitVec 1) : (0#4 ++ x) &&& 30#5 = 0#5 := by
  revert x; decide

@[simp] theorem bit_low (x : BitVec 1) : (0#4 ++ x).extractLsb' 0 1 = x := by
  revert x; decide

@[simp] theorem format_mask (x : BitVec 4) : (0#1 ++ x) &&& 16#5 = 0#5 := by
  revert x; decide

@[simp] theorem format_low (x : BitVec 4) : (0#1 ++ x).extractLsb' 0 4 = x := by
  revert x; decide

@[simp] theorem banks_mask (x : BitVec 3) : (0#2 ++ x) &&& 24#5 = 0#5 := by
  revert x; decide

@[simp] theorem banks_low (x : BitVec 3) : (0#2 ++ x).extractLsb' 0 3 = x := by
  revert x; decide

@[simp] theorem pair_mask (x : BitVec 2) : (0#3 ++ x) &&& 28#5 = 0#5 := by
  revert x; decide

@[simp] theorem pair_low (x : BitVec 2) : (0#3 ++ x).extractLsb' 0 2 = x := by
  revert x; decide

@[simp] theorem scope_mask (x : BitVec 3) : (x ++ 0#2) &&& 3#5 = 0#5 := by
  revert x; decide

@[simp] theorem scope_high (x : BitVec 3) (y : BitVec 2) : (x ++ y).extractLsb' 2 3 = x := by
  revert x y; decide

@[simp] theorem scope_low (x : BitVec 3) (y : BitVec 2) : (x ++ y).extractLsb' 0 2 = y := by
  revert x y; decide

@[simp] theorem job_mask (x : BitVec 1) (y : BitVec 2) : (x ++ 0#2 ++ y) &&& 12#5 = 0#5 := by
  revert x y; decide

@[simp] theorem job_high (x : BitVec 1) (y : BitVec 2) : (x ++ 0#2 ++ y).extractLsb' 4 1 = x := by
  revert x y; decide

@[simp] theorem job_low (x : BitVec 1) (y : BitVec 2) : (x ++ 0#2 ++ y).extractLsb' 0 2 = y := by
  revert x y; decide

@[simp] theorem join6 (x : BitVec 6) : x.extractLsb' 5 1 ++ x.extractLsb' 0 5 = x := by
  rw [BitVec.extractLsb'_append_extractLsb'_eq_extractLsb' (by rfl)]
  exact BitVec.extractLsb'_eq_self

@[simp] theorem join12 (x : BitVec 12) : x.extractLsb' 10 2 ++ x.extractLsb' 5 5 ++ x.extractLsb' 0 5 = x := by
  rw [BitVec.extractLsb'_append_extractLsb'_eq_extractLsb' (by rfl), BitVec.extractLsb'_append_extractLsb'_eq_extractLsb' (by rfl)]
  exact BitVec.extractLsb'_eq_self

@[simp] theorem join14 (x : BitVec 14) : x.extractLsb' 10 4 ++ x.extractLsb' 5 5 ++ x.extractLsb' 0 5 = x := by
  rw [BitVec.extractLsb'_append_extractLsb'_eq_extractLsb' (by rfl), BitVec.extractLsb'_append_extractLsb'_eq_extractLsb' (by rfl)]
  exact BitVec.extractLsb'_eq_self

@[simp] theorem join19 (x : BitVec 19) : x.extractLsb' 15 4 ++ x.extractLsb' 10 5 ++ x.extractLsb' 5 5 ++ x.extractLsb' 0 5 = x := by
  rw [BitVec.extractLsb'_append_extractLsb'_eq_extractLsb' (by rfl), BitVec.extractLsb'_append_extractLsb'_eq_extractLsb' (by rfl), BitVec.extractLsb'_append_extractLsb'_eq_extractLsb' (by rfl)]
  exact BitVec.extractLsb'_eq_self

@[simp] theorem join24 (x : BitVec 24) : x.extractLsb' 20 4 ++ x.extractLsb' 15 5 ++ x.extractLsb' 10 5 ++ x.extractLsb' 5 5 ++ x.extractLsb' 0 5 = x := by
  rw [BitVec.extractLsb'_append_extractLsb'_eq_extractLsb' (by rfl), BitVec.extractLsb'_append_extractLsb'_eq_extractLsb' (by rfl), BitVec.extractLsb'_append_extractLsb'_eq_extractLsb' (by rfl), BitVec.extractLsb'_append_extractLsb'_eq_extractLsb' (by rfl)]
  exact BitVec.extractLsb'_eq_self

end Sys2Proof.Laws
end

