-- ==== Sys2Proof/Laws/Memory.lean ====
section
/-! SUPPORT. Laws of memory operations: every one keeps the canonical form, and what a write leaves alone. -/

namespace Sys2Proof.Laws

open Sys2Proof Sys2Proof.Machine

/-! ## Folds -/

theorem foldl_keeps {σ β : Type} (P : σ → Prop) (f : σ → β → σ) (hf : ∀ s b, P s → P (f s b)) (l : List β) (s : σ) (h : P s) :
    P (l.foldl f s) := by
  induction l generalizing s with
  | nil => exact h
  | cons b r ih => exact ih _ (hf s b h)

theorem upTo_keeps {σ : Type} (P : σ → Prop) (n : Nat) (f : σ → Nat → σ) (hf : ∀ s k, P s → P (f s k)) (s : σ) (h : P s) :
    P (upTo n f s) := foldl_keeps P f hf _ s h

/-! ## The canonical form of a memory -/

theorem wf_iff (m : Memory) : m.wf = true ↔ memWf m.ram = true ∧ memWf m.spad = true ∧ memWf m.stack = true := by
  simp [Memory.wf, and_assoc]

theorem wf_ramWrite {m : Memory} (pa : Nat) (bs : List Byte) (h : m.wf = true) : (ramWrite m pa bs).wf = true := by
  rw [wf_iff] at h ⊢
  exact ⟨memWf_mwriteN pa bs h.1, h.2⟩

theorem wf_spadWrite {m : Memory} (core off : Nat) (bs : List Byte) (h : m.wf = true) : (spadWrite m core off bs).wf = true := by
  rw [wf_iff] at h ⊢
  exact ⟨h.1, memWf_mwriteN _ bs h.2.1, h.2.2⟩

theorem wf_mergeByte {m : Memory} (core off : Nat) (b : Byte) (h : m.wf = true) : (mergeByte m core off b).wf = true := by
  rw [wf_iff] at h ⊢
  exact ⟨h.1, memWf_mwrite _ b h.2.1, h.2.2⟩

theorem wf_mergeCopy {m : Memory} (c : Staged) (h : m.wf = true) : (mergeCopy m c).wf = true := by
  rw [wf_iff] at h ⊢
  refine ⟨?_, h.2⟩
  unfold mergeCopy
  dsimp only
  refine upTo_keeps (fun r => memWf r = true) 64 _ ?_ m.ram h.1
  intro r i hr
  split
  · exact memWf_mwrite _ _ hr
  · exact hr

theorem wf_winWriteElement {m : Memory} (core w v : Nat) (wscb : BitVec 20) (x : Nat) (h : m.wf = true) :
    (winWriteElement m core w v wscb x).wf = true := by
  unfold winWriteElement
  dsimp only
  split
  · exact wf_spadWrite _ _ _ h
  · exact wf_spadWrite _ _ _ h
  · split
    · exact wf_spadWrite _ _ _ (wf_mergeByte _ _ _ h)
    · exact wf_mergeByte _ _ _ h
  · exact wf_spadWrite _ _ _ h
  · exact wf_spadWrite _ _ _ h
  · exact wf_mergeByte _ _ _ h

theorem wf_winWrite {m : Memory} (core w v : Nat) (wscb : BitVec 20) (bs : List Byte) (h : m.wf = true) :
    (winWrite m core w v wscb bs).wf = true :=
  upTo_keeps (fun m : Memory => m.wf = true) _ _ (fun _ _ hm => wf_winWriteElement _ _ _ _ _ hm) m h

theorem wf_spadPerform {m : Memory} (e : StoreEntry) (h : m.wf = true) : (spadPerform m e).wf = true := by
  unfold spadPerform
  split
  · exact wf_mergeByte _ _ _ h
  · exact wf_spadWrite _ _ _ h
  · exact wf_winWrite _ _ _ _ _ h
  · exact h

/-- Changing poison, tags or recorded cores leaves the form. -/
theorem wf_of_bytes {m n : Memory} (hr : n.ram = m.ram) (hs : n.spad = m.spad) (hk : n.stack = m.stack) (h : m.wf = true) :
    n.wf = true := by
  rw [wf_iff] at h ⊢
  rw [hr, hs, hk]
  exact h

/-! ## Operations on the state that write memory -/

theorem wf_flushWb {s : State} (clu : Nat) (h : s.mem.wf = true) : (flushWb s clu).mem.wf = true := by
  unfold flushWb
  dsimp only
  split
  · exact h
  · exact foldl_keeps (fun m : Memory => m.wf = true) _ (fun _ _ hm => wf_mergeCopy _ hm) _ _ h

theorem wf_writeBackLine {s : State} (clu key : Nat) (h : s.mem.wf = true) : (writeBackLine s clu key).mem.wf = true := by
  unfold writeBackLine
  dsimp only
  split
  · exact wf_flushWb clu h
  · split
    · exact wf_flushWb clu h
    · exact wf_mergeCopy _ (wf_flushWb clu h)

theorem wf_drainCluster {s : State} (clu : Nat) (h : s.mem.wf = true) : (drainCluster s clu).mem.wf = true := by
  unfold drainCluster
  dsimp only
  refine foldl_keeps (fun m : Memory => m.wf = true) _ ?_ _ _ (wf_flushWb clu h)
  intro m kl hm
  split
  · exact wf_mergeCopy _ hm
  · exact hm

theorem wf_fillLine {s : State} (clu part dva pa : Nat) (leaf : W64) (h : s.mem.wf = true) :
    (fillLine s clu part dva pa leaf).1.mem.wf = true := wf_flushWb clu h

theorem wf_lineWrite {s : State} (core part dva pa : Nat) (leaf : W64) (bs : List Byte) (h : s.mem.wf = true) :
    (lineWrite s core part dva pa leaf bs).mem.wf = true := by
  unfold lineWrite
  dsimp only
  split <;> split <;> first | exact wf_ramWrite _ _ h | exact h

theorem wf_globalWrite {s : State} (core part dva pa : Nat) (leaf : W64) (bs : List Byte) (h : s.mem.wf = true) :
    (globalWrite s core part dva pa leaf bs).mem.wf = true := by
  unfold globalWrite
  dsimp only
  split
  · exact wf_lineWrite _ _ _ _ _ _ h
  · exact wf_lineWrite _ _ _ _ _ _ (wf_lineWrite _ _ _ _ _ _ h)

theorem wf_setAD {s : State} (l : Leaf) (acc : BitVec 4) (h : s.mem.wf = true) : (setAD s l acc).mem.wf = true := by
  rw [wf_iff] at h ⊢
  exact ⟨memWf_mwriteN _ _ h.1, h.2⟩

theorem wf_stackWrite {s : State} (die off : Nat) (bs : List Byte) (h : s.mem.wf = true) : (stackWrite s die off bs).mem.wf = true := by
  rw [wf_iff] at h ⊢
  exact ⟨h.1, h.2.1, memWf_mwriteN _ bs h.2.2⟩

/-! ## What a write leaves alone -/

/-- A byte of device memory outside the written range reads as before. -/
theorem ramWrite_other (m : Memory) (pa : Nat) (bs : List Byte) (x : Nat) (h : x < pa ∨ pa + bs.length ≤ x) :
    mread (ramWrite m pa bs).ram x = mread m.ram x := mread_mwriteN_other m.ram pa bs x h

/-- A byte of a scratchpad outside the written range reads as before. -/
theorem spadWrite_other (m : Memory) (core off : Nat) (bs : List Byte) (x : Nat)
    (h : x < core * 2 ^ 20 + off ∨ core * 2 ^ 20 + off + bs.length ≤ x) :
    mread (spadWrite m core off bs).spad x = mread m.spad x := mread_mwriteN_other m.spad _ bs x h

/-- What is written to a scratchpad is what is read there. -/
theorem spadBytes_spadWrite (m : Memory) (core off : Nat) (bs : List Byte) :
    spadBytes (spadWrite m core off bs) core off bs.length = bs := mreadN_mwriteN m.spad _ bs

/-- What is written to device memory is what is read there. -/
theorem ramWrite_same (m : Memory) (pa : Nat) (bs : List Byte) : mreadN (ramWrite m pa bs).ram pa bs.length = bs :=
  mreadN_mwriteN m.ram pa bs

end Sys2Proof.Laws
end

