-- ==== Sys2Proof/Machine/HostView.lean ====
section
/-! DEFINITION. What a function reads in BAR0 (R297, R299, R312, R327, R405, R421). A read has no row in the opcode table and no effect:
it is a value of the state (log 24). -/

namespace Sys2Proof.Machine

noncomputable section

/-- The words of a queue's control block (R297). -/
def queueWord (s : State) (q word : Nat) : W64 :=
  let w := s.queue q
  match word with
  | 0 => 0#7 ++ BitVec.ofBool w.irq ++ w.vec ++ w.part ++ BitVec.ofBool w.shuttle ++ BitVec.ofBool w.spill ++ 0#2 ++ w.weight ++ 0#5 ++
      w.prio ++ 0#18 ++ w.qdep
  | 1 => w.splen ++ 0#1 ++ w.spbase
  | 2 => BitVec.ofNat 2 w.state.code ++ 0#13 ++ BitVec.ofNat 17 w.depth ++ w.serial
  | 3 => w.qdone ++ w.ovf ++ w.badw
  | 4 => w.eser ++ 0#24 ++ w.ecause
  | _ => 0

/-- A 64-bit word of BAR0 as a function reads it; none where the spec gives the word no content. The context status words are the
physical function's, and the tokens are those of the function's partition. -/
def bar0Word (s : State) (fn offset : Nat) : Option W64 :=
  if offset % 8 ≠ 0 ∨ 16 < fn then none
  else if offset < 0x10000 then some (identityWord s offset)
  else if 0x400000 ≤ offset ∧ offset < 0x600000 then some (queueWord s ((offset - 0x400000) / 64) (offset / 8 % 8))
  else if 0x800000 ≤ offset ∧ offset < 0xA00000 then some 0
  else if 0xC00000 ≤ offset ∧ offset < 0xC80000 then
    (functionPart s fn).map (fun part => (s.token part ((offset - 0xC00000) / 8)).word)
  else if 0x1000000 ≤ offset ∧ offset < 0x1000080 ∧ fn = 0 then
    some (ctxWord s ((offset - 0x1000000) / 8) (s.part ((offset - 0x1000000) / 8)).ctx 0)
  else none

end

end Sys2Proof.Machine
end

