-- ==== Sys2Proof/Safety.lean ====
section
/-! DEFINITION. What counts as a safe run: every step answers a next state, so no fault and no refusal ends it, and memory keeps
its canonical form. -/

namespace Sys2Proof

/-- A step that answers a next state. -/
def Steps (s : Machine.State) : Prop := ∃ t, Machine.step s = .next t

/-- The memory of a package is in its canonical form. -/
def Canonical (s : Machine.State) : Prop := s.mem.wf = true

end Sys2Proof
end

