-- ==== Sys2Proof/Certificates/Slice0/Obligations.lean ====
section
/-! DEFINITION. The statements for the provers. Each component stands under Claims; an obligation is one of them or the
conjunction of several of one shape. -/

section

open Sys2Proof Sys2Proof.Machine

/-! ## Integer instructions (R88-R101) -/

namespace Sys2Proof.Claims

/-- A scalar instruction ends `lat` core cycles after issue with a checkable result in g_d, and the next word stands at pc + 4. -/
def scalarEnd (s : State) (d : Reg) (v : W64) (lat : Nat) : Out := .next (s.finish (s.me.wgChecked d v) lat)

/-- An instruction ends `lat` core cycles after issue with a result in g_d that is not checkable. -/
def regEnd (s : State) (d : Reg) (v : W64) (lat : Nat) : Out := .next (s.finish (s.me.wg d v) lat)

/-- The shift amount of R91: g_b taken without sign, mod n. -/
def shiftBy {n : Nat} (y : BitVec n) : Nat := y.toNat % n

/-- The rows c = 0 to 22 of R91: the instruction and its result in n bits of As, Au, Bs and Bu. -/
def aluTable : List ((BitVec 1 → Reg → Reg → Reg → Instr) × ((n : Nat) → BitVec n → BitVec n → BitVec n)) :=
  [(.add, fun n x y => BitVec.ofInt n (x.toInt + y.toInt)),
   (.sub, fun n x y => BitVec.ofInt n (x.toInt - y.toInt)),
   (.and, fun _ x y => x &&& y),
   (.or, fun _ x y => x ||| y),
   (.xor, fun _ x y => x ^^^ y),
   (.andn, fun _ x y => x &&& ~~~y),
   (.orn, fun _ x y => x ||| ~~~y),
   (.xnor, fun _ x y => ~~~(x ^^^ y)),
   (.shl, fun n x y => BitVec.ofNat n (x.toNat * 2 ^ shiftBy y)),
   (.shr, fun n x y => BitVec.ofNat n (x.toNat / 2 ^ shiftBy y)),
   (.shra, fun n x y => BitVec.ofInt n (x.toInt / 2 ^ shiftBy y)),
   (.rol, fun _ x y => x.rotateLeft (shiftBy y)),
   (.ror, fun _ x y => x.rotateRight (shiftBy y)),
   (.slt, fun n x y => BitVec.ofNat n (if x.toInt < y.toInt then 1 else 0)),
   (.sltu, fun n x y => BitVec.ofNat n (if x.toNat < y.toNat then 1 else 0)),
   (.min, fun n x y => BitVec.ofInt n (min x.toInt y.toInt)),
   (.max, fun n x y => BitVec.ofInt n (max x.toInt y.toInt)),
   (.minu, fun n x y => BitVec.ofNat n (min x.toNat y.toNat)),
   (.maxu, fun n x y => BitVec.ofNat n (max x.toNat y.toNat)),
   (.mul, fun n x y => BitVec.ofInt n (x.toInt * y.toInt)),
   (.hmul, fun n x y => BitVec.ofInt n (x.toInt * y.toInt / 2 ^ n)),
   (.hmulu, fun n x y => BitVec.ofNat n (x.toNat * y.toNat / 2 ^ n)),
   (.hmulm, fun n x y => BitVec.ofInt n (x.toInt * (y.toNat : Int) / 2 ^ n))]

/-- The rows c = 23 to 26 of R91, with the results of R92; the quotient of `Int.tdiv` is truncated towards zero. -/
def divTable : List ((BitVec 1 → Reg → Reg → Reg → Instr) × ((n : Nat) → BitVec n → BitVec n → BitVec n)) :=
  [(.div, fun n x y => if y.toInt = 0 then BitVec.ofInt n (-1)
      else if x.toInt = -(2 ^ (n - 1)) ∧ y.toInt = -1 then BitVec.ofInt n (-(2 ^ (n - 1)))
      else BitVec.ofInt n (x.toInt.tdiv y.toInt)),
   (.rem, fun n x y => if y.toInt = 0 then x
      else if x.toInt = -(2 ^ (n - 1)) ∧ y.toInt = -1 then 0
      else BitVec.ofInt n (x.toInt - y.toInt * x.toInt.tdiv y.toInt)),
   (.divu, fun n x y => BitVec.ofNat n (if y.toNat = 0 then 2 ^ n - 1 else x.toNat / y.toNat)),
   (.remu, fun n x y => BitVec.ofNat n (if y.toNat = 0 then x.toNat else x.toNat - y.toNat * (x.toNat / y.toNat)))]

/-- The result of a row in its 64-bit form (w = 0) or in its .W form: 32 bits of each source, sign-extended (R88). -/
def inWidth (w : BitVec 1) (f : (n : Nat) → BitVec n → BitVec n → BitVec n) (x y : W64) : W64 :=
  if w = 0 then f 64 x y else (f 32 (x.setWidth 32) (y.setWidth 32)).signExtend 64

end Sys2Proof.Claims

/-- R91, rows 0 to 22: each instruction ends after 6 core cycles with the table's result, in both widths. -/
def Sys2Proof.Claims.AluResultsFollowTheTable : Prop :=
  ∀ r ∈ Claims.aluTable, ∀ (s : State) (w : BitVec 1) (b a d : Reg),
    exec (r.1 w b a d) s = Claims.scalarEnd s d (Claims.inWidth w r.2 (s.me.rg a) (s.me.rg b)) 6

/-- R92: divisions and remainders truncate towards zero, their undefined cases have fixed results, and they take 40 core
cycles, 24 in the .W form (R89). -/
def Sys2Proof.Claims.DivisionResultsAreTotal : Prop :=
  ∀ r ∈ Claims.divTable, ∀ (s : State) (w : BitVec 1) (b a d : Reg),
    exec (r.1 w b a d) s =
      Claims.scalarEnd s d (Claims.inWidth w r.2 (s.me.rg a) (s.me.rg b)) (if w = 0 then 40 else 24)

/-- R91, rows 27 to 31: the counts of CLZ, CTZ and POPC, and the orders of BREV and BSWAP, said bit by bit. -/
def Sys2Proof.Claims.BitCountsAndReversals : Prop :=
  ∀ (s : State) (w : BitVec 1) (a d : Reg),
    let n : Nat := if w = 0 then 64 else 32
    let x : BitVec n := (s.me.rg a).setWidth n
    let ends (i : Instr) (r : BitVec n) : Prop := exec i s = Claims.scalarEnd s d (r.signExtend 64) 6
    (∃ z ≤ n, ends (.clz w a d) (BitVec.ofNat n z) ∧ (∀ k < z, x.getLsbD (n - 1 - k) = false) ∧
      (z < n → x.getLsbD (n - 1 - z) = true)) ∧
    (∃ z ≤ n, ends (.ctz w a d) (BitVec.ofNat n z) ∧ (∀ k < z, x.getLsbD k = false) ∧ (z < n → x.getLsbD z = true)) ∧
    ends (.popc w a d) (BitVec.ofNat n ((List.range n).filter (fun k => x.getLsbD k)).length) ∧
    (∃ r : BitVec n, ends (.brev w a d) r ∧ ∀ k < n, r.getLsbD k = x.getLsbD (n - 1 - k)) ∧
    (∃ r : BitVec n, ends (.bswap w a d) r ∧
      ∀ k < n / 8, r.extractLsb' (8 * k) 8 = x.extractLsb' (8 * (n / 8 - 1 - k)) 8)

/-- The integer operations end with the results of R91 and R92: the conjunction of the claims above. -/
def Obligations.IntegerResultsFollowTheirTables : Prop :=
  Claims.AluResultsFollowTheTable ∧ Claims.DivisionResultsAreTotal ∧ Claims.BitCountsAndReversals

/-- R94 and R96: SEXT, ZEXT, BFX and BFI over containers of 8 to 64 bits, and CSEL, MADD and MSUB. -/
def Sys2Proof.Claims.FieldAndThreeSourceResults : Prop :=
  ∀ (s : State) (w : BitVec 2) (v : BitVec 1) (c b a d : Reg),
    let W := 8 * 2 ^ w.toNat
    let A := s.me.rg a
    let B := s.me.rg b
    let pos := B.toNat % 64
    let len := B.toNat / 256 % 128
    let m := if pos < W then min len (W - pos) else 0
    exec (.sext w a d) s = Claims.scalarEnd s d (BitVec.ofInt 64 ((A.setWidth W).toInt)) 6 ∧
    exec (.zext w a d) s = Claims.scalarEnd s d (BitVec.ofNat 64 (A.toNat % 2 ^ W)) 6 ∧
    exec (.bfx w b a d) s = Claims.scalarEnd s d (BitVec.ofNat 64 (A.toNat % 2 ^ W / 2 ^ pos % 2 ^ m)) 6 ∧
    (∃ v : W64, exec (.bfi w b a d) s = Claims.scalarEnd s d v 6 ∧ ∀ k < 64, v.getLsbD k =
      if pos ≤ k ∧ k < pos + m then A.getLsbD (k - pos) else decide (k < W) && (s.me.rg d).getLsbD k) ∧
    exec (.csel c b a d) s = Claims.scalarEnd s d (if s.me.rg c ≠ 0 then A else B) 6 ∧
    exec (.madd v c b a d) s = Claims.scalarEnd s d
      (Claims.inWidth v (fun n x y => BitVec.ofInt n (((s.me.rg c).setWidth n).toInt + x.toInt * y.toInt)) A B) 6 ∧
    exec (.msub v c b a d) s = Claims.scalarEnd s d
      (Claims.inWidth v (fun n x y => BitVec.ofInt n (((s.me.rg c).setWidth n).toInt - x.toInt * y.toInt)) A B) 6

/-- R97 and R98: the immediate operations, with the immediate sign-extended, and the upper immediates. -/
def Sys2Proof.Claims.ImmediateResults : Prop :=
  ∀ (s : State) (im : BitVec 14) (sh : BitVec 6) (hi : BitVec 19) (a d : Reg),
    let A := s.me.rg a
    let I : W64 := BitVec.ofInt 64 im.toInt
    exec (.addi im a d) s = Claims.scalarEnd s d (BitVec.ofInt 64 (A.toInt + im.toInt)) 6 ∧
    exec (.andi im a d) s = Claims.scalarEnd s d (A &&& I) 6 ∧
    exec (.ori im a d) s = Claims.scalarEnd s d (A ||| I) 6 ∧
    exec (.xori im a d) s = Claims.scalarEnd s d (A ^^^ I) 6 ∧
    exec (.shli sh a d) s = Claims.scalarEnd s d (BitVec.ofNat 64 (A.toNat * 2 ^ sh.toNat)) 6 ∧
    exec (.shri sh a d) s = Claims.scalarEnd s d (BitVec.ofNat 64 (A.toNat / 2 ^ sh.toNat)) 6 ∧
    exec (.shrai sh a d) s = Claims.scalarEnd s d (BitVec.ofInt 64 (A.toInt / 2 ^ sh.toNat)) 6 ∧
    exec (.slti im a d) s = Claims.scalarEnd s d (if A.toInt < im.toInt then 1 else 0) 6 ∧
    exec (.sltiu im a d) s = Claims.scalarEnd s d (if A.toNat < I.toNat then 1 else 0) 6 ∧
    exec (.ldh hi d) s = Claims.scalarEnd s d (BitVec.ofInt 64 (hi.toInt * 2 ^ 13)) 6 ∧
    exec (.addpc hi d) s = Claims.scalarEnd s d (BitVec.ofInt 64 (s.me.pc.toInt + hi.toInt * 2 ^ 13)) 6

/-- SEXT, ZEXT, BFX, BFI, CSEL, MADD, MSUB and the immediate forms end with the results the rules give: the
conjunction of the claims above. -/
def Obligations.FieldAndImmediateResults : Prop :=
  Claims.FieldAndThreeSourceResults ∧ Claims.ImmediateResults

/-! ## Branches, jumps, counters (R99-R101, R107, R42) -/

namespace Sys2Proof.Claims

/-- The conditions of R99 on g_a and g_b. -/
def branchTable : List ((BitVec 14 → Reg → Reg → Instr) × (W64 → W64 → Bool)) :=
  [(.beq, fun x y => decide (x = y)), (.bne, fun x y => decide (x ≠ y)), (.blt, fun x y => decide (x.toInt < y.toInt)),
   (.bge, fun x y => decide (y.toInt ≤ x.toInt)), (.bltu, fun x y => decide (x.toNat < y.toNat)),
   (.bgeu, fun x y => decide (y.toNat ≤ x.toNat))]

/-- The acting thread continues at `t` six core cycles after issue. -/
def goesTo (s : State) (th : Thread) (t : W64) : Out :=
  .next (s.setMe { th with pc := t, busy := some (s.cyc s.myCore + 6) })

/-- Nothing but the acting thread differs: other threads, the cores, memory, every table and register outside it. -/
def SameElsewhere (s t : State) : Prop := { t with threads := s.threads } = s ∧ ∀ key, key ≠ s.cur → t.thread key = s.thread key

/-- In the thread nothing but g registers with their check bits, the pc and the time of completion differs. -/
def SameBut (u v : Thread) : Prop := { v with g := u.g, bad := u.bad, pend := u.pend, pc := u.pc, busy := u.busy } = u

/-- The destination of an instruction of the integer chapter that is no control transfer; g0 stands for none. -/
def scalarDest : Instr → Option Reg
  | .add _ _ _ d | .sub _ _ _ d | .and _ _ _ d | .or _ _ _ d | .xor _ _ _ d | .andn _ _ _ d | .orn _ _ _ d | .xnor _ _ _ d
  | .shl _ _ _ d | .shr _ _ _ d | .shra _ _ _ d | .rol _ _ _ d | .ror _ _ _ d | .slt _ _ _ d | .sltu _ _ _ d | .min _ _ _ d
  | .max _ _ _ d | .minu _ _ _ d | .maxu _ _ _ d | .mul _ _ _ d | .hmul _ _ _ d | .hmulu _ _ _ d | .hmulm _ _ _ d
  | .div _ _ _ d | .divu _ _ _ d | .rem _ _ _ d | .remu _ _ _ d | .bfx _ _ _ d | .bfi _ _ _ d => some d
  | .clz _ _ d | .ctz _ _ d | .popc _ _ d | .brev _ _ d | .bswap _ _ d | .sext _ _ d | .zext _ _ d => some d
  | .csel _ _ _ d => some d
  | .madd _ _ _ _ d | .msub _ _ _ _ d => some d
  | .addi _ _ d | .andi _ _ d | .ori _ _ d | .xori _ _ d | .shli _ _ d | .shri _ _ d | .shrai _ _ d | .slti _ _ d | .sltiu _ _ d => some d
  | .ldh _ d | .addpc _ d | .rdcyc d | .rdtim d | .rdstep _ _ d => some d
  | .hint _ => some 0
  | _ => none

end Sys2Proof.Claims

/-- R99, R101 and R89: a branch goes to pc + 4·Sext(off14) where its condition holds and to pc + 4 elsewhere, in 6 core cycles,
and traps SEGV with the target in EVAL where the target's bits [63:61] are not zero. -/
def Sys2Proof.Claims.BranchesFollowTheirConditions : Prop :=
  ∀ r ∈ Claims.branchTable, ∀ (s : State) (f : BitVec 14) (b a : Reg),
    let t := if r.2 (s.me.rg a) (s.me.rg b) then s.me.pc + BitVec.ofInt 64 (4 * f.toInt) else s.me.pc + 4
    (t.toNat < 2 ^ 61 → exec (r.1 f b a) s = Claims.goesTo s s.me t) ∧
    (2 ^ 61 ≤ t.toNat → twinLag s s.cur = false → exec (r.1 f b a) s = .next (trapMe s SEGV t))

/-- R100 and R101: JAL and JALR write pc + 4 to g_d, read g_a first, and go to their target in 6 core cycles; a target beyond
2^61 traps SEGV and a target that is no word address traps ALIGN, with the target in EVAL and nothing written. -/
def Sys2Proof.Claims.JumpsLinkAndGo : Prop :=
  ∀ (s : State) (f : BitVec 19) (im : BitVec 14) (a d : Reg),
    let j := s.me.pc + BitVec.ofInt 64 (4 * f.toInt)
    let t := s.me.rg a + BitVec.ofInt 64 im.toInt
    (j.toNat < 2 ^ 61 → j.toNat % 4 = 0 → exec (.jal f d) s = Claims.goesTo s (s.me.wg d (s.me.pc + 4)) j) ∧
    (2 ^ 61 ≤ j.toNat → twinLag s s.cur = false → exec (.jal f d) s = .next (trapMe s SEGV j)) ∧
    (j.toNat < 2 ^ 61 → j.toNat % 4 ≠ 0 → twinLag s s.cur = false → exec (.jal f d) s = .next (trapMe s ALIGN j)) ∧
    (t.toNat < 2 ^ 61 → t.toNat % 4 = 0 → exec (.jalr im a d) s = Claims.goesTo s (s.me.wg d (s.me.pc + 4)) t) ∧
    (2 ^ 61 ≤ t.toNat → twinLag s s.cur = false → exec (.jalr im a d) s = .next (trapMe s SEGV t)) ∧
    (t.toNat < 2 ^ 61 → t.toNat % 4 ≠ 0 → twinLag s s.cur = false → exec (.jalr im a d) s = .next (trapMe s ALIGN t))

/-- Branches, JAL and JALR go to their targets or trap SEGV or ALIGN with the target in EVAL: the conjunction of the
claims above. -/
def Obligations.BranchesAndJumpsGoToTheirTargets : Prop :=
  Claims.BranchesFollowTheirConditions ∧ Claims.JumpsLinkAndGo

/-- R107 and R42: the counter reads give CYC, TIM and a word of the step log, zero for a step that is not current; HINT only
advances. -/
def Sys2Proof.Claims.CounterReads : Prop :=
  ∀ (s : State) (n : BitVec 5) (h : BitVec 24) (a d : Reg),
    let x := s.die (dieOf s.myCore)
    let st := (s.me.rg a).toNat
    let e := tget (0, 0, 0) x.log (st % 16)
    exec (.rdcyc d) s = Claims.regEnd s d (BitVec.ofNat 64 x.cyc) 6 ∧
    exec (.rdtim d) s = Claims.regEnd s d (BitVec.ofNat 64 s.pk.tim) 6 ∧
    exec (.rdstep n a d) s = Claims.regEnd s d
      (if st = 0 ∨ x.stepn.toNat < st ∨ 16 ≤ x.stepn.toNat - st then 0
       else if n = 0 then e.1 else if n = 1 then e.2.1 else e.2.2) 6 ∧
    exec (.hint h) s = .next (s.finish s.me 6)

/-- R87 and R88: how every instruction that ends with `finish` or `goesTo` leaves the registers: g0 reads zero whatever is
written, g_d holds the result, every other register and its check bits stay, the pc advances by one word. -/
def Sys2Proof.Claims.RegisterWritesReachOnlyTheDestination : Prop :=
  ∀ (s : State) (d r : Reg) (v : W64) (lat : Nat),
    let t := s.finish (s.me.wg d v) lat
    let u := s.finish (s.me.wgChecked d v) lat
    t.me.rg 0 = 0 ∧ u.me.rg r = t.me.rg r ∧ (d ≠ 0 → t.me.rg d = v) ∧ (r ≠ d → t.me.rg r = s.me.rg r) ∧
    t.me.pc = s.me.pc + 4 ∧ u.me.pc = s.me.pc + 4 ∧ t.me.busy = some (s.cyc s.myCore + lat) ∧
    (r ≠ d → tfind t.me.bad r.toNat = tfind s.me.bad r.toNat) ∧ (d ≠ 0 → tfind t.me.bad d.toNat = none) ∧
    (d ≠ 0 → s.me.ck = true → u.me.pend = some (d, v)) ∧ Claims.SameElsewhere s t ∧ Claims.SameElsewhere s u ∧
    Claims.SameBut s.me t.me ∧ Claims.SameBut s.me u.me

/-- R88: the frame of the integer instructions that are no control transfer: no register but g_d changes, and outside the thread
nothing: no memory, no other thread, no status, special or trap register. -/
def Sys2Proof.Claims.ScalarFrame : Prop :=
  ∀ (i : Instr) (d : Reg), Claims.scalarDest i = some d → ∀ s t : State, exec i s = .next t →
    Claims.SameElsewhere s t ∧ Claims.SameBut s.me t.me ∧ (∀ r, r ≠ d → t.me.rg r = s.me.rg r) ∧ t.me.rg 0 = 0 ∧
    t.me.pc = s.me.pc + 4 ∧ (∀ a, mread t.mem.ram a = mread s.mem.ram a ∧ mread t.mem.spad a = mread s.mem.spad a)

/-- Counter reads and HINT end as given, and the scalar integer instructions change no register but g_d: the
conjunction of the claims above. -/
def Obligations.ScalarInstructionsLeaveTheRestAlone : Prop :=
  Claims.CounterReads ∧ Claims.RegisterWritesReachOnlyTheDestination ∧ Claims.ScalarFrame

/-! ## Memory: segments, loads, stores, atomics, fences and range operations (R193-R220, R231-R235) -/

namespace Sys2Proof.Claims

/-- SegCheck of R193 passes for `n` bytes at `ea` with a right: the kind of the segment and the target `o` in its space. -/
abbrev SegOk (t : Thread) (ea : W64) (n right kind o : Nat) : Prop :=
  let g := t.seg (ea.toNat / 2 ^ 61)
  g.attr.toNat / 256 = kind ∧ kind < 6 ∧ g.attr.getLsbD right = true ∧ ea.toNat % 2 ^ 61 + n ≤ g.lim.toNat ∧
    o = g.base.toNat + ea.toNat % 2 ^ 61 ∧ o + n ≤ spaceSize kind

/-- SegCheck of R193 fails. -/
abbrev SegBad (t : Thread) (ea : W64) (n right : Nat) : Prop :=
  let g := t.seg (ea.toNat / 2 ^ 61)
  6 ≤ g.attr.toNat / 256 ∨ g.attr.getLsbD right = false ∨ g.lim.toNat < ea.toNat % 2 ^ 61 + n ∨
    spaceSize (g.attr.toNat / 256) < g.base.toNat + ea.toNat % 2 ^ 61 + n

/-- No lock of another slot covers a byte of the own scratchpad's range (R65). -/
abbrev Unlocked (s : State) (o n : Nat) : Prop :=
  ∀ l ∈ (s.arch s.myCore).locks, l.slot ≠ slotOf s.cur → o + n ≤ l.lo ∨ l.hi ≤ o

/-- An aligned access of `n` bytes at `ea` falls in window W0 of the own scratchpad, at byte `o`, and nothing makes it wait. -/
abbrev OwnBytes (s : State) (ea : W64) (n right o : Nat) : Prop :=
  ea.toNat % n = 0 ∧ SegOk s.me ea n right 2 o ∧ o + n ≤ 0x100000 ∧ Unlocked s o n ∧ acquirePending s s.cur = false

/-- A release of a scope, of the acting thread, has nothing to wait for (R232): its own stores are accepted, its run has ended, and the
lines it moves can reach their homes (R18). -/
abbrev NoReleaseWait (s : State) (scope : Nat) : Prop :=
  releaseHeld s s.cur = false ∧ (3 ≤ scope → drainOpen s (clusterOf s.myCore) = true)

/-- No store of the thread to those bytes is waiting for acceptance, and no chunk of them is poisoned. -/
abbrev Quiet (s : State) (o n : Nat) : Prop :=
  ownPending s s.cur (.spad s.myCore o) n = [] ∧ spadPoisoned s.mem s.myCore o n = false

/-- The number in `n` bytes of the own scratchpad. -/
def ownValue (s : State) (o n : Nat) : Nat := natOfBytes (spadBytes s.mem s.myCore o n)

/-- The address of a load or store: g_a plus the immediate, in the segment g_a names (R193). -/
def effective (s : State) (im : BitVec 14) (a : Reg) : W64 := s.me.rg a + BitVec.ofInt 64 im.toInt
abbrev InSegment (s : State) (im : BitVec 14) (a : Reg) : Prop := (effective s im a).toNat / 2 ^ 61 = (s.me.rg a).toNat / 2 ^ 61

/-- The plain loads of R209: bytes, and what the number read gives the destination. -/
def loadTable : List ((BitVec 14 → Reg → Reg → Instr) × Nat × (Reg → Nat → List (Reg × W64))) :=
  [(.lb, 1, fun d v => [(d, (BitVec.ofNat 8 v).signExtend 64)]), (.lh, 2, fun d v => [(d, (BitVec.ofNat 16 v).signExtend 64)]),
   (.lw, 4, fun d v => [(d, (BitVec.ofNat 32 v).signExtend 64)]), (.lbu, 1, fun d v => [(d, BitVec.ofNat 64 v)]),
   (.lhu, 2, fun d v => [(d, BitVec.ofNat 64 v)]), (.lwu, 4, fun d v => [(d, BitVec.ofNat 64 v)]),
   (.ld, 8, fun d v => [(d, BitVec.ofNat 64 v)]),
   (.lq, 16, fun d v => [(d, BitVec.ofNat 64 v), (d + 1, BitVec.ofNat 64 (v / 2 ^ 64))])]

/-- The plain stores of R211: bytes, and the number stored. -/
def storeTable : List ((BitVec 14 → Reg → Reg → Instr) × Nat × (Thread → Reg → Nat)) :=
  [(.sb, 1, fun t b => (t.rg b).toNat), (.sh, 2, fun t b => (t.rg b).toNat), (.sw, 4, fun t b => (t.rg b).toNat),
   (.sd, 8, fun t b => (t.rg b).toNat), (.sq, 16, fun t b => (t.rg b).toNat + 2 ^ 64 * (t.rg (b + 1)).toNat)]

/-- Write g registers in order. -/
def wgAll (t : Thread) (l : List (Reg × W64)) : Thread := l.foldl (fun t x => t.wg x.1 x.2) t

/-- The store-queue entry of a store of the acting thread to its own scratchpad. -/
def ownEntry (s : State) (ea : W64) (o : Nat) (bs : List Byte) (op : StoreOp) : StoreEntry :=
  { slot := slotOf s.cur, stream := none, part := BitVec.ofNat 4 (s.partOf s.myCore), place := .spad s.myCore o, addr := ea,
    bytes := bs, op := op, epoch := 0 }

/-- The entry joins the core's store queue. -/
def queued (s : State) (e : StoreEntry) : State :=
  s.setCore s.myCore { s.core s.myCore with storeq := (s.core s.myCore).storeq ++ [e] }

/-- The core's store queue has room and the thread is in no twin pair. -/
abbrev CanStore (s : State) : Prop := (s.core s.myCore).storeq.length < 16 ∧ s.me.twl = false ∧ s.me.twt = false

/-- Write-backs that a release at a scope makes where it is eager (R201). -/
def released (s : State) (scope : Nat) : State := if 3 ≤ scope then drainCluster s (clusterOf s.myCore) else s

/-- The integer atomics of R213: bytes and the new value from the old one and the operand, both of 8n bits. -/
def atomTable : List ((BitVec 3 → BitVec 2 → Reg → Reg → Reg → Instr) × Nat × (Nat → Nat → Nat)) :=
  let s32 (x : Nat) : Int := (BitVec.ofNat 32 x).toInt
  let s64 (x : Nat) : Int := (BitVec.ofNat 64 x).toInt
  [(.atomAddW, 4, fun x v => (x + v) % 2 ^ 32), (.atomAndW, 4, fun x v => x &&& v), (.atomOrW, 4, fun x v => x ||| v),
   (.atomXorW, 4, fun x v => x ^^^ v), (.atomMinW, 4, fun x v => if s32 v < s32 x then v else x),
   (.atomMaxW, 4, fun x v => if s32 x < s32 v then v else x), (.atomMinuW, 4, fun x v => min x v),
   (.atomMaxuW, 4, fun x v => max x v), (.atomSwapW, 4, fun _ v => v),
   (.atomAddD, 8, fun x v => (x + v) % 2 ^ 64), (.atomAndD, 8, fun x v => x &&& v), (.atomOrD, 8, fun x v => x ||| v),
   (.atomXorD, 8, fun x v => x ^^^ v), (.atomMinD, 8, fun x v => if s64 v < s64 x then v else x),
   (.atomMaxD, 8, fun x v => if s64 x < s64 v then v else x), (.atomMinuD, 8, fun x v => min x v),
   (.atomMaxuD, 8, fun x v => max x v), (.atomSwapD, 8, fun _ v => v)]

/-- What an atomic does in the own scratchpad at a scope and order (R204, R207, R232): the eager release, the write of `new`,
the old value in the registers 12 core cycles after issue, the acquire. -/
def ownAtomic (s : State) (sc : BitVec 3) (od : BitVec 2) (o n : Nat) (new : Option Nat) (regs : List (Reg × W64)) : Out :=
  let s1 := if 2 ≤ od.toNat then released s sc.toNat else s
  let s2 : State := match new with
    | some v => { s1 with mem := spadWrite s1.mem s1.myCore o (bytesOfNat n v) }
    | none => s1
  let s3 := s2.finish (wgAll s2.me regs) 12
  .next (if od.toNat % 2 = 1 then acquireAt s3 s3.myCore sc.toNat else s3)

/-- Where an atomic may execute in the own scratchpad at once. -/
abbrev OwnAtomic (s : State) (a : Reg) (sc : BitVec 3) (od : BitVec 2) (n o : Nat) : Prop :=
  OwnBytes s (s.me.rg a) n rightR o ∧ SegOk s.me (s.me.rg a) n rightW 2 o ∧ SegOk s.me (s.me.rg a) n rightA 2 o ∧ Quiet s o n ∧
    (2 ≤ od.toNat → NoReleaseWait s sc.toNat)

end Sys2Proof.Claims

/-- R209, R162, R196: a load from the own scratchpad through W0, FLQ among them, gives its destination the bytes at the target, 8 core cycles after
issue, and changes nothing else. -/
def Sys2Proof.Claims.LoadsReadTheOwnScratchpad : Prop :=
  (∀ r ∈ Claims.loadTable, ∀ (s : State) (im : BitVec 14) (a d : Reg) (o : Nat),
    Claims.InSegment s im a → Claims.OwnBytes s (Claims.effective s im a) r.2.1 rightR o → Claims.Quiet s o r.2.1 →
    exec (r.1 im a d) s = .next (s.finish (Claims.wgAll s.me (r.2.2 d (Claims.ownValue s o r.2.1))) 8)) ∧
  (∀ (s : State) (im : BitVec 14) (a d : Reg) (o : Nat), s.me.run = none →
    (d.toNat < 24 ∨ (s.me.stream (d.toNat - 24)).state = .off) → Claims.InSegment s im a →
    Claims.OwnBytes s (Claims.effective s im a) 16 rightR o → Claims.Quiet s o 16 →
    exec (.flq im a d) s = .next (s.finish (s.me.wf d (BitVec.ofNat 128 (Claims.ownValue s o 16))) 8))

/-- R196: a load of bytes of one global line that is in the core's L1 takes them from L1, 10 core cycles after issue. -/
def Sys2Proof.Claims.LoadsReadL1 : Prop :=
  ∀ r ∈ Claims.loadTable, ∀ (s : State) (im : BitVec 14) (a d : Reg) (o pa : Nat) (leaf : W64) (line : BitVec 512),
    let ea := Claims.effective s im a
    let part := s.partOf s.myCore
    Claims.InSegment s im a → ea.toNat % r.2.1 = 0 → Claims.SegOk s.me ea r.2.1 rightR 1 o → o % 64 + r.2.1 ≤ 64 →
    acquirePending s s.cur = false → translate s (clusterOf s.myCore) part o accRead ea = .ok (s, leaf, pa) → leafUC leaf = false → leafCls leaf ≠ 4 →
    tfind (s.core s.myCore).l1 (part * 2 ^ 41 + o / 64) = some line → ownPending s s.cur (.global o pa leaf) r.2.1 = [] →
    exec (r.1 im a d) s =
      .next (s.finish (Claims.wgAll s.me (r.2.2 d (line.toNat / 2 ^ (8 * (o % 64)) % 2 ^ (8 * r.2.1)))) 10)

/-- R208: LDC takes 8 bytes of one line from the core's constant cache, 10 core cycles after issue where the line is there. -/
def Sys2Proof.Claims.ConstantLoadsHitTheConstantCache : Prop :=
  ∀ (s : State) (im : BitVec 14) (a d : Reg) (o : Nat) (line : BitVec 512),
    let ea := Claims.effective s im a
    Claims.InSegment s im a → ea.toNat % 8 = 0 → Claims.SegOk s.me ea 8 rightR 1 o → o % 64 ≤ 56 → acquirePending s s.cur = false →
    tfind (s.core s.myCore).cc (s.partOf s.myCore * 2 ^ 41 + o / 64) = some line →
    exec (.ldc im a d) s = Claims.regEnd s d (BitVec.ofNat 64 (line.toNat / 2 ^ (8 * (o % 64)) % 2 ^ 64)) 10

/-- R211, R197: a store to the own scratchpad completes 8 core cycles after issue with its bytes in the core's store queue;
memory itself is as before until the store is accepted. -/
def Sys2Proof.Claims.StoresEnterTheStoreQueue : Prop :=
  ∀ r ∈ Claims.storeTable, ∀ (s : State) (im : BitVec 14) (b a : Reg) (o : Nat),
    let ea := Claims.effective s im a
    Claims.InSegment s im a → Claims.OwnBytes s ea r.2.1 rightW o → Claims.CanStore s →
    exec (r.1 im b a) s = .next ((Claims.queued s (Claims.ownEntry s ea o (bytesOfNat r.2.1 (r.2.2 s.me b)) .write)).finish s.me 8)

/-- R211, R162, R232 and R233: SNIB, FSQ and the store-releases enter the queue as stores do; a store-release first waits for
the thread's earlier stores and writes the cluster's dirty lines back at DIE scope or wider. -/
def Sys2Proof.Claims.OtherStoresEnterTheStoreQueue : Prop :=
  ∀ (s : State) (im : BitVec 14) (h : BitVec 1) (sc : BitVec 3) (b a : Reg) (o : Nat), Claims.CanStore s →
    (Claims.OwnBytes s (s.me.rg a) 1 rightW o → exec (.snib h b a) s =
      .next ((Claims.queued s (Claims.ownEntry s (s.me.rg a) o
        [BitVec.ofNat 8 ((s.me.rg b).toNat % 16 + 16 * h.toNat)] (.nibble (h == 1)))).finish s.me 8)) ∧
    (Claims.InSegment s im a → Claims.OwnBytes s (Claims.effective s im a) 16 rightW o → s.me.run = none →
      (b.toNat < 24 ∨ (s.me.stream (b.toNat - 24)).state = .off) → exec (.fsq im b a) s =
      .next ((Claims.queued s (Claims.ownEntry s (Claims.effective s im a) o (bytesOfNat 16 (s.me.rf b).toNat) .write)).finish s.me 8)) ∧
    (∀ x ∈ ([(.strlW, 4, (s.me.rg b).toNat % 2 ^ 32), (.strlD, 8, (s.me.rg b).toNat),
        (.strlQ, 16, (s.me.rg b).toNat + 2 ^ 64 * (s.me.rg (b + 1)).toNat)] : List ((BitVec 3 → Reg → Reg → Instr) × Nat × Nat)),
      Claims.OwnBytes s (s.me.rg a) x.2.1 rightW o → Claims.NoReleaseWait s sc.toNat →
      exec (x.1 sc b a) s = .next ((Claims.queued (Claims.released s sc.toNat)
        (Claims.ownEntry s (s.me.rg a) o (bytesOfNat x.2.1 x.2.2) (.release sc 0 0))).finish s.me 8))

/-- R198: a load returns the value of the thread's latest earlier store, taken from the store queue at once. -/
def Sys2Proof.Claims.LoadReturnsTheThreadsOwnStore : Prop :=
  ∀ (s : State) (im : BitVec 14) (b a d : Reg) (o : Nat),
    let ea := Claims.effective s im a
    Claims.InSegment s im a → Claims.OwnBytes s ea 8 rightW o → Claims.SegOk s.me ea 8 rightR 2 o → Claims.CanStore s →
    (ownPending s s.cur (.spad s.myCore o) 8).all (fun e => !e.late) = true → s.me.cmp = [] → d ≠ 0 →
    ∃ t u, exec (.sd im b a) s = .next t ∧ exec (.ld im a d) t = .next u ∧ u.me.rg d = s.me.rg b ∧
      u.me.busy = some (s.cyc s.myCore + 8) ∧ u.mem = s.mem

/-- R197, R199: the oldest store of a queue to a scratchpad is accepted: its bytes are written, a chunk it covers whole loses its
poison, the entry leaves the queue, and every other byte and every thread stays. -/
def Sys2Proof.Claims.StoreAcceptWritesTheScratchpad : Prop :=
  ∀ (s : State) (core c o : Nat) (e : StoreEntry) (rest : List StoreEntry),
    (s.core core).storeq = e :: rest → e.place = .spad c o → e.op = .write → e.sent = false → storeLocked s core e = false →
    storeHeld s core e = false → dieReachable s (dieOf c) = true →
    ∃ t, exec (.storeAccept core 0) s = .next t ∧ (t.core core).storeq = rest ∧
      spadBytes t.mem c o e.bytes.length = e.bytes ∧
      (∀ x, (x < c * 2 ^ 20 + o ∨ c * 2 ^ 20 + o + e.bytes.length ≤ x) → mread t.mem.spad x = mread s.mem.spad x) ∧
      (∀ k, k ∈ t.mem.spadPoison ↔ k ∈ s.mem.spadPoison ∧
        ¬(c * 2 ^ 20 + o ≤ 16 * k ∧ 16 * k + 16 ≤ c * 2 ^ 20 + o + e.bytes.length)) ∧
      t.mem.ram = s.mem.ram ∧ t.threads = s.threads

/-- R200: a store to a line homed outside the cluster goes into the cluster's staging copy, marks its bytes valid and dirty,
and leaves the home as it is. -/
def Sys2Proof.Claims.StoreAcceptWritesTheStagingCopy : Prop :=
  ∀ (s : State) (core dva pa : Nat) (leaf : W64) (e : StoreEntry) (rest : List StoreEntry),
    (s.core core).storeq = e :: rest → e.place = .global dva pa leaf → e.op = .write → e.sent = false → dieReachable s (dieOf core) = true →
    leafUC leaf = false → leafCls leaf ≠ 4 → homedIn s (clusterOf core) e.part.toNat dva pa leaf = false →
    dva % 64 + e.bytes.length ≤ 64 → (s.cluster (clusterOf core)).staging.length < stageCap s (clusterOf core) →
    ∃ t l, exec (.storeAccept core 0) s = .next t ∧ t.mem = s.mem ∧ (t.core core).storeq = rest ∧
      tfind (t.cluster (clusterOf core)).staging (e.part.toNat * 2 ^ 41 + dva / 64) = some l ∧
      (∀ i (h : i < e.bytes.length), l.byte (dva % 64 + i) = e.bytes[i] ∧ l.valid.getLsbD (dva % 64 + i) = true ∧
        l.dirty.getLsbD (dva % 64 + i) = true) ∧
      (∀ k, k ≠ e.part.toNat * 2 ^ 41 + dva / 64 →
        tfind (t.cluster (clusterOf core)).staging k = tfind (s.cluster (clusterOf core)).staging k)

/-- R213, R207: an integer atomic on the own scratchpad writes its new value and returns the old one, sign-extended from 32
bits, 12 core cycles after issue, with the acquire and release parts of its order. -/
def Sys2Proof.Claims.AtomicsOnTheOwnScratchpad : Prop :=
  ∀ r ∈ Claims.atomTable, ∀ (s : State) (sc : BitVec 3) (od : BitVec 2) (b a d : Reg) (o : Nat),
    Claims.OwnAtomic s a sc od r.2.1 o → d ≠ 0 →
    let x := Claims.ownValue s o r.2.1
    exec (r.1 sc od b a d) s = Claims.ownAtomic s sc od o r.2.1 (some (r.2.2 x ((s.me.rg b).toNat % 2 ^ (8 * r.2.1))))
      [(d, if r.2.1 = 4 then (BitVec.ofNat 32 x).signExtend 64 else BitVec.ofNat 64 x)]

/-- R215: a compare-and-swap writes the new value only where the old one is the expected one, and returns the old value. -/
def Sys2Proof.Claims.CompareAndSwapOnTheOwnScratchpad : Prop :=
  ∀ (s : State) (sc : BitVec 3) (od : BitVec 2) (b a d : Reg) (o : Nat), d ≠ 0 →
    let new (n want with_ : Nat) : Option Nat := if Claims.ownValue s o n = want then some with_ else none
    let pair (r : Reg) : Nat := (s.me.rg r).toNat + 2 ^ 64 * (s.me.rg (r + 1)).toNat
    (Claims.OwnAtomic s a sc od 4 o → exec (.casW sc od b a d) s =
      Claims.ownAtomic s sc od o 4 (new 4 ((s.me.rg d).toNat % 2 ^ 32) ((s.me.rg b).toNat % 2 ^ 32))
        [(d, (BitVec.ofNat 32 (Claims.ownValue s o 4)).signExtend 64)]) ∧
    (Claims.OwnAtomic s a sc od 8 o → exec (.casD sc od b a d) s =
      Claims.ownAtomic s sc od o 8 (new 8 (s.me.rg d).toNat (s.me.rg b).toNat) [(d, BitVec.ofNat 64 (Claims.ownValue s o 8))]) ∧
    (Claims.OwnAtomic s a sc od 16 o → exec (.casQ sc od b a d) s =
      Claims.ownAtomic s sc od o 16 (new 16 (pair d) (pair b))
        [(d, BitVec.ofNat 64 (Claims.ownValue s o 16)), (d + 1, BitVec.ofNat 64 (Claims.ownValue s o 16 / 2 ^ 64))])

/-- R214: the floating-point atomics round each lane RNE without flags and return the old bits zero-extended; format 0 is B16, 1
F32, 2 F64, and the paired forms have two lanes. -/
def Sys2Proof.Claims.FloatAtomicsOnTheOwnScratchpad : Prop :=
  ∀ x ∈ ([(.fatomFadd, 2, 0, 1), (.fatomFmin, 2, 1, 1), (.fatomFmax, 2, 2, 1), (.fatompFadd, 4, 0, 2), (.fatompFmin, 4, 1, 2),
      (.fatompFmax, 4, 2, 2)] :
      List ((BitVec 2 → BitVec 3 → BitVec 2 → Reg → Reg → Reg → Instr) × Nat × Nat × Nat)),
    ∀ (s : State) (f : BitVec 2) (sc : BitVec 3) (od : BitVec 2) (b a d : Reg) (o : Nat),
    let n := x.2.1 * 2 ^ f.toNat
    n ≤ 8 → Claims.OwnAtomic s a sc od n o → d ≠ 0 →
    exec (x.1 f sc od b a d) s = Claims.ownAtomic s sc od o n
      (some (fatomNew x.2.2.1 f.toNat x.2.2.2 (Claims.ownValue s o n) ((s.me.rg b).toNat % 2 ^ (8 * n))))
      [(d, BitVec.ofNat 64 (Claims.ownValue s o n))]

/-- Integer, compare-and-swap and floating-point atomics write the new value and return the old one: the conjunction
of the claims above. -/
def Obligations.AtomicsReturnTheOldValue : Prop :=
  Claims.AtomicsOnTheOwnScratchpad ∧ Claims.CompareAndSwapOnTheOwnScratchpad ∧ Claims.FloatAtomicsOnTheOwnScratchpad

/-- R207, R197: a no-return atomic, with d = g0, completes as a store does. -/
def Sys2Proof.Claims.NoReturnAtomicsCompleteAsStores : Prop :=
  ∀ (i : Instr) (x : Atomic), atomicOf i = some x → x.d = 0 → x.n ≠ 16 → 0 < x.n → x.n ≤ 8 → ∀ (s : State) (o : Nat),
    Claims.OwnBytes s (s.me.rg x.a) x.n rightR o → Claims.SegOk s.me (s.me.rg x.a) x.n rightW 2 o →
    Claims.SegOk s.me (s.me.rg x.a) x.n rightA 2 o → (s.core s.myCore).storeq.length < 16 → x.rel = false →
    exec i s = .next ((Claims.queued s (Claims.ownEntry s (s.me.rg x.a) o
      (bytesOfNat x.n ((s.me.rg x.b).toNat % 2 ^ (8 * x.n))) (.atomic i none))).finish s.me 8)

/-- Stores complete into the store queue and change memory only when they are accepted: the conjunction of the
claims above. What it says beyond the rules is the model's choice, by logs 27, 89. -/
def Obligations.StoresWaitForAcceptance : Prop :=
  Claims.StoresEnterTheStoreQueue ∧ Claims.OtherStoresEnterTheStoreQueue ∧ Claims.NoReturnAtomicsCompleteAsStores ∧ Claims.StoreAcceptWritesTheScratchpad ∧ Claims.StoreAcceptWritesTheStagingCopy

/-- R231: a load-acquire on the own scratchpad reads as a load does and then performs the acquire of its scope. -/
def Sys2Proof.Claims.LoadAcquires : Prop :=
  ∀ (s : State) (sc : BitVec 3) (a d : Reg) (o : Nat),
    ∀ x ∈ ([(.ldaW, 4, fun v => [(d, (BitVec.ofNat 32 v).signExtend 64)]), (.ldaD, 8, fun v => [(d, BitVec.ofNat 64 v)]),
        (.ldaQ, 16, fun v => [(d, BitVec.ofNat 64 v), (d + 1, BitVec.ofNat 64 (v / 2 ^ 64))])] :
        List ((BitVec 3 → Reg → Reg → Instr) × Nat × (Nat → List (Reg × W64)))),
    Claims.OwnBytes s (s.me.rg a) x.2.1 rightR o → Claims.Quiet s o x.2.1 →
    exec (x.1 sc a d) s =
      .next (acquireAt (s.finish (Claims.wgAll s.me (x.2.2 (Claims.ownValue s o x.2.1))) 8) s.myCore sc.toNat)

/-- Loads return the bytes at their target: own scratchpad, L1, constant cache, load-acquire, own pending store: the
conjunction of the claims above. What it says beyond the rules is the model's choice, by logs 16, 17, 27, 89,
100, 101. -/
def Obligations.LoadsReturnTheirBytes : Prop :=
  Claims.LoadsReadTheOwnScratchpad ∧ Claims.LoadsReadL1 ∧ Claims.ConstantLoadsHitTheConstantCache ∧ Claims.LoadAcquires ∧ Claims.LoadReturnsTheThreadsOwnStore

/-- R193, R198: an access that is not aligned traps ALIGN, one that fails the segment check or whose address leaves the segment of
its base traps SEGV, with the address in EVAL and no other effect. -/
def Obligations.MemoryAccessTraps : Prop :=
  ∀ (r : (BitVec 14 → Reg → Reg → Instr) × Nat × Nat), (∃ x ∈ Claims.loadTable, r = (x.1, x.2.1, rightR)) ∨
      (∃ x ∈ Claims.storeTable, r = (fun im a b => x.1 im b a, x.2.1, rightW)) →
    ∀ (s : State) (im : BitVec 14) (a x : Reg),
      let ea := Claims.effective s im a
      twinLag s s.cur = false →
      (¬Claims.InSegment s im a → exec (r.1 im a x) s = .next (trapMe s SEGV ea)) ∧
      (Claims.InSegment s im a → ea.toNat % r.2.1 ≠ 0 → exec (r.1 im a x) s = .next (trapMe s ALIGN ea)) ∧
      (Claims.InSegment s im a → ea.toNat % r.2.1 = 0 → Claims.SegBad s.me ea r.2.1 r.2.2 →
        exec (r.1 im a x) s = .next (trapMe s SEGV ea))

/-! ## Fences, range operations and segment registers (R201, R217-R220, R233, R234) -/

/-- R201, R233: REL writes every dirty line but those of SM pages back at DIE scope or wider once the thread's earlier stores
are accepted and the homes can be reached; ACQ empties the core's L1 at CLU scope or wider, and at DIE or wider drops the cluster's clean bytes; neither
touches a register. -/
def Sys2Proof.Claims.ReleaseAndAcquireMoveCopies : Prop :=
  ∀ (s : State) (sc : BitVec 3),
    let clu := clusterOf s.myCore
    (Claims.NoReleaseWait s sc.toNat → ∃ t, exec (.rel sc) s = .next t ∧
      t.me = { s.me with pc := s.me.pc + 4, busy := some (s.cyc s.myCore + 6) } ∧
      (sc.toNat < 3 → t = s.finish s.me 6) ∧
      (3 ≤ sc.toNat → ∀ x ∈ (t.cluster clu).staging, x.2.cls ≠ 1 → x.2.dirty = 0)) ∧
    (∃ t, exec (.acq sc) s = .next t ∧ t.me = { s.me with pc := s.me.pc + 4, busy := some (s.cyc s.myCore + 6) } ∧
      t.mem = s.mem ∧ (sc.toNat < 2 → t = s.finish s.me 6) ∧ (2 ≤ sc.toNat → (t.core s.myCore).l1 = []) ∧
      (sc.toNat < 3 → t.clusters = s.clusters) ∧
      (3 ≤ sc.toNat → ∀ x ∈ (t.cluster clu).staging, x.2.cls ≠ 1 → x.2.valid = x.2.dirty ∧ x.2.dirty ≠ 0) ∧
      (3 ≤ sc.toNat → ∀ x ∈ (s.cluster clu).staging, x.2.cls = 1 → x ∈ (t.cluster clu).staging))

/-- R233, R234: FENCE below SYS is REL and then ACQ; FENCE.SYS with every store acknowledged puts its status word in FENST and
g_d, bit 62 telling that a store was refused, or traps FENCEERR where d is g0 and the word reports an error. -/
def Sys2Proof.Claims.FencesReportTheirStatus : Prop :=
  ∀ (s : State) (sc : BitVec 3) (d : Reg), Claims.NoReleaseWait s sc.toNat →
    (sc.toNat < 5 → exec (.fence sc d) s = .next ((acquireAt (Claims.released s sc.toNat) s.myCore sc.toNat).finish s.me 6)) ∧
    (sc = 5 → (∀ p ∈ s.me.peers, p.2.pending = [] ∧ p.2.failed = false) → s.me.refusedStore = false →
      ∃ t, exec (.fence 5 d) s = .next t ∧ t.me.fenst = 0 ∧ t.me.pc = s.me.pc + 4 ∧ t.me.rg d = 0 ∧ (t.core s.myCore).l1 = [] ∧
        (∀ r, r ≠ d → t.me.rg r = s.me.rg r)) ∧
    (sc = 5 → (∀ p ∈ s.me.peers, p.2.pending = [] ∧ p.2.failed = false) → s.me.refusedStore = true →
      ∃ t, exec (.fence 5 d) s = .next t ∧ t.me.fenst = 0x4000000000000000 ∧ t.me.refusedStore = false ∧
        (d ≠ 0 → t.me.rg d = 0x4000000000000000 ∧ t.me.pc = s.me.pc + 4) ∧
        (d = 0 → slotOf s.cur ≠ 7 → s.me.twl = false → s.me.twt = false → t.me.state = .trapped ∧
          ((t.arch s.myCore).trapq.getLast?.map (fun r => (r.cause, r.eval))) = some (FENCEERR, 0x4000000000000000)))

/-- R217, R218, R219: a range operation acts on one unit of 4 KiB at a time, and ends with the last one: over global lines WBR leaves no
dirty byte of the unit in the issuing cluster, INVR and DISC leave no copy of the unit in the cluster and the core's L1; below DIE
scope no staging copy moves; other kinds of segment are not staged, so nothing happens there; PREF never traps. -/
def Sys2Proof.Claims.RangeOperationsActOnTheRange : Prop :=
  ∀ (s : State) (sc : BitVec 3) (b a : Reg) (kind o : Nat),
    let n := (s.me.rg b).toNat
    let clu := clusterOf s.myCore
    let upto (x : Nat) : Nat := min n (s.me.rangeAt + (4096 - (x + s.me.rangeAt) % 4096))
    let covered (k : Nat) : Prop :=
      s.partOf s.myCore * 2 ^ 41 + (o + s.me.rangeAt) / 64 ≤ k ∧ k ≤ s.partOf s.myCore * 2 ^ 41 + (o + upto o - 1) / 64
    let moved (t : State) (z : Nat) : Prop := t.me = if n ≤ z then
        { s.me with rangeAt := 0, pc := s.me.pc + 4, busy := some (s.cyc s.myCore + 6) } else { s.me with rangeAt := z }
    let dropped (i : Instr) : Prop := ∃ t, exec i s = .next t ∧ moved t (upto o) ∧
      (∀ k, covered k → tfind (t.core s.myCore).l1 k = none) ∧ (sc.toNat < 3 → t.clusters = s.clusters ∧ t.mem = s.mem) ∧
      (3 ≤ sc.toNat → ∀ k, covered k → tfind (t.cluster clu).staging k = none)
    let free : Prop := rangePending s (o + s.me.rangeAt) (upto o - s.me.rangeAt) = false ∧
      (3 ≤ sc.toNat → rangeOpen s (o + s.me.rangeAt) (upto o - s.me.rangeAt) = true)
    let noAtomic : Prop := rangeAtomics s (o + s.me.rangeAt) (upto o - s.me.rangeAt) = false
    let ended : Out := .next (s.finish { s.me with rangeAt := 0 } 6)
    s.me.rangeAt < n → n ≤ 2 ^ 32 →
    (Claims.SegOk s.me (s.me.rg a) n rightR kind o →
      (kind ≠ 1 → exec (.wbr sc b a) s = ended ∧ exec (.invr sc b a) s = ended) ∧
      (kind = 1 → free →
        (∃ t, exec (.wbr sc b a) s = .next t ∧ moved t (upto o) ∧ (sc.toNat < 3 → t.clusters = s.clusters ∧ t.mem = s.mem) ∧
          (3 ≤ sc.toNat → ∀ k l, covered k → tfind (t.cluster clu).staging k = some l → l.dirty = 0)) ∧
        (noAtomic → dropped (.invr sc b a)))) ∧
    (Claims.SegOk s.me (s.me.rg a) n rightW kind o →
      (kind ≠ 1 → exec (.disc sc b a) s = ended) ∧
      (kind = 1 → free → noAtomic → dropped (.disc sc b a))) ∧
    ((∀ d, dieReachable s d = true) → ∃ t, exec (.pref sc b a) s = .next t ∧ moved t (upto (s.me.rg a).toNat))

/-- R218: CINV empties the core's constant cache; a range of length 0 does nothing, and one beyond 2^32 traps FORMAT with the
length in EVAL. -/
def Sys2Proof.Claims.RangeEdgesAndConstantCache : Prop :=
  ∀ (s : State) (sc : BitVec 3) (b a : Reg),
    (∃ t, exec .cinv s = .next t ∧ (t.core s.myCore).cc = [] ∧ t.me.pc = s.me.pc + 4 ∧ t.mem = s.mem ∧
      (∀ c, c ≠ s.myCore → t.core c = s.core c)) ∧
    (∀ op ∈ ([.wbr, .invr, .disc, .pref] : List (BitVec 3 → Reg → Reg → Instr)),
      (s.me.rg b = 0 → exec (op sc b a) s = .next (s.finish { s.me with rangeAt := 0 } 6)) ∧
      (2 ^ 32 < (s.me.rg b).toNat → twinLag s s.cur = false → exec (op sc b a) s = .next (trapMe s FORMAT (s.me.rg b))))

/-- REL, ACQ, FENCE and the range operations move and drop staging copies as given: the conjunction of the claims
above. What it says beyond the rules is the model's choice, by logs 16, 57. -/
def Obligations.CopiesFollowFencesAndRangeOperations : Prop :=
  Claims.ReleaseAndAcquireMoveCopies ∧ Claims.FencesReportTheirStatus ∧ Claims.RangeOperationsActOnTheRange ∧ Claims.RangeEdgesAndConstantCache

/-- R220, R221: SEGR reads a word of a segment register, SEGW writes one in F mode or answers 1, and traps PRIV in U
mode; SEGN moves the base up, cuts the length and takes rights away, or answers 1, and never changes the kind.
What it says beyond the rules is the model's choice, by log 57. -/
def Obligations.SegmentRegisters : Prop :=
  ∀ (s : State) (g : BitVec 3) (w : BitVec 2) (b a d : Reg), w ≠ 3 →
    let x := s.me.seg g.toNat
    let v := s.me.rg a
    let len : Nat := if (s.me.rg b).toNat % 2 ^ 59 = 2 ^ 59 - 1 then x.lim.toNat else (s.me.rg b).toNat % 2 ^ 59
    let bad : Prop := (w = 2 ∧ (2 ^ 11 ≤ v.toNat ∨ v.toNat / 2 ^ 8 % 8 = 7 ∨ v.toNat / 2 ^ 5 % 8 ≠ 0)) ∨ (w = 1 ∧ 2 ^ 61 < v.toNat)
    exec (.segr g w d) s = Claims.regEnd s d
      (if w = 0 then x.base else if w = 1 then x.lim else BitVec.ofNat 64 x.attr.toNat) 6 ∧
    (modeOf s.cur = 0 → twinLag s s.cur = false → exec (.segw g w a d) s = .next (trapMe s PRIV s.me.pc)) ∧
    (1 ≤ modeOf s.cur → bad → exec (.segw g w a d) s = Claims.regEnd s d 1 6) ∧
    (1 ≤ modeOf s.cur → ¬bad → ∃ t, exec (.segw g w a d) s = .next t ∧ t.me.rg d = 0 ∧
      t.me.seg g.toNat = (if w = 0 then { x with base := v } else if w = 1 then { x with lim := v }
        else { x with attr := BitVec.ofNat 11 v.toNat }) ∧ (∀ k, k ≠ g.toNat → t.me.seg k = s.me.seg k) ∧ t.mem = s.mem) ∧
    (x.lim.toNat < v.toNat → exec (.segn g b a d) s = Claims.regEnd s d 1 6) ∧
    (v.toNat ≤ x.lim.toNat → ∃ t, exec (.segn g b a d) s = .next t ∧ t.me.rg d = 0 ∧
      (t.me.seg g.toNat).base = x.base + v ∧ (t.me.seg g.toNat).lim.toNat = min (x.lim.toNat - v.toNat) len ∧
      (t.me.seg g.toNat).kind = x.kind ∧
      (∀ k < 5, (t.me.seg g.toNat).attr.getLsbD k = (x.attr.getLsbD k && (s.me.rg b).getLsbD (59 + k))) ∧
      (∀ k, k ≠ g.toNat → t.me.seg k = s.me.seg k) ∧ t.mem = s.mem)

/-! ## The stream pipe: arithmetic (R109-R126, R157-R164) -/

namespace Sys2Proof.Claims

/-- No run is active, and none of these f operands is a stream (R141, R151). -/
abbrev Plain (s : State) (rs : List Reg) : Prop :=
  s.me.run = none ∧ ∀ r ∈ rs, r.toNat < 24 ∨ (s.me.stream (r.toNat - 24)).state = .off

/-- A stream-pipe instruction ends with a pack in f_d, flags OR-ed into FCSR, and a normaliser request where it met a
subnormal (R127, R135). -/
def fEnd (s : State) (d : Reg) (v : W128) (fl : FlagBits) (lat : Nat) (sub : Bool) : Out :=
  .next (noteSub (s.finish { s.me.wf d v with fcsr := s.me.fcsr ||| BitVec.ofNat 16 (fl % 128) } lat) s.cur sub)

/-- The same with a result in g_d. -/
def gEnd (s : State) (d : Reg) (v : W64) (fl : FlagBits) (lat : Nat) (sub : Bool) : Out :=
  .next (noteSub (s.finish { s.me.wg d v with fcsr := s.me.fcsr ||| BitVec.ofNat 16 (fl % 128) } lat) s.cur sub)

/-- An instruction makes f_d lane by lane: `out j` gives lane j of width w, its flags and whether it met a subnormal; lanes from L
up are zero, and the instruction's flags are those of its lanes. -/
def LaneWise (i : Instr) (s : State) (d : Reg) (w L lat : Nat) (out : Nat → LaneOut) : Prop :=
  ∃ v fl sub, exec i s = fEnd s d v fl lat sub ∧ (∀ j < L, lane w v j = (out j).bits % 2 ^ w) ∧
    (∀ j, L ≤ j → j < 128 / w → lane w v j = 0) ∧
    (∀ k, Nat.testBit fl k = true ↔ ∃ j < L, (out j).flags.testBit k = true) ∧ (sub = true ↔ ∃ j < L, (out j).sub = true)

/-- An instruction makes f_d lane by lane from numbers, with no flag. -/
def LaneBits (i : Instr) (s : State) (d : Reg) (w L : Nat) (out : Nat → Nat) : Prop :=
  LaneWise i s d w L 6 (fun j => { bits := out j, flags := 0, sub := false })

/-- Lane j of an f register, of the format's width. -/
def laneOf (s : State) (t : BitVec 4) (r : Reg) (j : Nat) : Nat := lane (laneWidth t.toNat) (s.me.rf r) j

/-- The rounding mode and the flush bit of the thread (R137). -/
def rm (s : State) : Nat := s.me.fcsr.toNat / 2 ^ 13
def fz (s : State) : Bool := s.me.fcsr.getLsbD 11

/-- Two-operand IEEE instructions of R157: the lane operation, and the latencies of 32- or 16-bit and 64-bit lanes. -/
noncomputable def fpTable : List ((BitVec 4 → Reg → Reg → Reg → Instr) × (FpFmt → Nat → Nat → Nat → Nat × FlagBits) × Nat × Nat) :=
  [(.fadd, fun F m x y => fpAdd F m (fpDecode F x) (fpDecode F y), 8, 10),
   (.fsub, fun F m x y => fpAdd F m (fpDecode F x) (fpDecode F y).neg, 8, 10),
   (.fmul, fun F m x y => fpMul F m (fpDecode F x) (fpDecode F y), 8, 10),
   (.fdiv, fun F m x y => fpDiv F m (fpDecode F x) (fpDecode F y), 20, 36),
   (.fmin, fun F _ x y => fpMinMax F false x y, 8, 10), (.fmax, fun F _ x y => fpMinMax F true x y, 8, 10)]

/-- The fused operations of R159: whether the product and C are negated. -/
noncomputable def fmaTable : List ((BitVec 4 → Reg → Reg → Reg → Reg → Instr) × Bool × Bool) :=
  [(.fmadd, false, false), (.fmsub, false, true), (.fnmadd, true, true), (.fnmsub, true, false)]

/-- v limited to n-bit two's complement, as its bits, and whether that changed it (R163). -/
def satBits (n : Nat) (v : Int) : Nat := (max (-(2 ^ (n - 1))) (min v (2 ^ (n - 1) - 1)) % 2 ^ n).toNat
def satChanges (n : Nat) (v : Int) : Bool := decide (v < -(2 ^ (n - 1)) ∨ 2 ^ (n - 1) - 1 < v)

/-- n/den rounded to an integer, halves away from zero (R163). -/
def roundAway (n : Int) (den : Nat) : Int := n.sign * (((2 * n.natAbs + den) / (2 * den) : Nat) : Int)

/-- A lane as a signed number. -/
def signedLane (s : State) (t : BitVec 4) (r : Reg) (j : Nat) : Int := signedOf (laneWidth t.toNat) (laneOf s t r j)

/-- A fixed-point lane: its result limited to the format, QS where that changed it. -/
def qOut (w : Nat) (v : Int) : LaneOut := { bits := satBits w v, flags := if satChanges w v then 32 else 0, sub := false }

/-- A ring-set lane as a mask of the 16 elements: RC8 lanes are unpacked; a result is packed again (R164). -/
def rsLane (s : State) (l : BitVec 1) (r : Reg) (j : Nat) : Nat :=
  if l = 1 then rcUnpack (lane 8 (s.me.rf r) j) else lane 16 (s.me.rf r) j
def rsBack (l : BitVec 1) (m : Nat) : Nat := if l = 1 then rcPack m else m

/-- R123: the union of the table entries of all pairs of set bits. -/
def ringBinary (s : State) (op x y : Nat) (m : Nat) : Prop :=
  ∀ k, m.testBit k = true ↔ ∃ i < 16, ∃ j < 16, x.testBit i = true ∧ y.testBit j = true ∧
    (tableEntry (s.arch s.myCore).tables (256 * op + 16 * i + j)).testBit k = true
def ringUnary (s : State) (op x : Nat) (m : Nat) : Prop :=
  ∀ k, m.testBit k = true ↔ ∃ i < 16, x.testBit i = true ∧
    (tableEntry (s.arch s.myCore).tables (1024 + 16 * op + i)).testBit k = true

end Sys2Proof.Claims

/-- R157, R159: FADD to FMAX, FSQRT and the fused operations make each lane from the lanes of their sources, rounded once by
RM, with FZ applied to subnormals; the flags are those of the lanes. -/
def Obligations.FloatArithmeticIsLaneWise : Prop :=
  ∀ (s : State) (t : BitVec 4) (c b a d : Reg), t = 4 ∨ t = 5 ∨ t = 6 →
    let F := fpFmtOf t.toNat
    let x (r : Reg) (j : Nat) : Nat := flushIn (Claims.fz s) F (Claims.laneOf s t r j)
    let out (rs : List Reg) (j : Nat) (r : Nat × FlagBits) : LaneOut :=
      let y := flushOut (Claims.fz s) F r
      { bits := y.1, flags := y.2,
        sub := !Claims.fz s && (isSubnormal F y.1 || rs.any (fun q => isSubnormal F (Claims.laneOf s t q j))) }
    (∀ o ∈ Claims.fpTable, Claims.Plain s [a, b, d] →
      Claims.LaneWise (o.1 t b a d) s d F.width (laneCount t.toNat) (if t = 4 then o.2.2.2 else o.2.2.1)
        (fun j => out [a, b] j (o.2.1 F (Claims.rm s) (x a j) (x b j)))) ∧
    (Claims.Plain s [a, d] → Claims.LaneWise (.fsqrt t a d) s d F.width (laneCount t.toNat) (if t = 4 then 36 else 20)
      (fun j => out [a] j (fpSqrt F (Claims.rm s) (fpDecode F (x a j))))) ∧
    (∀ o ∈ Claims.fmaTable, Claims.Plain s [a, b, c, d] →
      Claims.LaneWise (o.1 t c b a d) s d F.width (laneCount t.toNat) (if t = 4 then 10 else 8)
        (fun j => out [a, b, c] j (fpFma F (Claims.rm s) o.2.1 (fpDecode F (x a j)) (fpDecode F (x b j))
          (if o.2.2 then (fpDecode F (x c j)).neg else fpDecode F (x c j)))))

/-- R157, R158: the sign operations move bits and set no flag; the comparisons write one bit for each lane into g_d and only
ever set NV; FKIND writes the kind of each lane. -/
def Sys2Proof.Claims.SignOperationsComparisonsAndKinds : Prop :=
  ∀ (s : State) (t : BitVec 4) (b a d : Reg), t = 4 ∨ t = 5 ∨ t = 6 →
    let F := fpFmtOf t.toNat
    let L := laneCount t.toNat
    let half := 2 ^ (F.width - 1)
    let num (r : Reg) (j : Nat) : Fp := fpDecode F (flushIn (Claims.fz s) F (Claims.laneOf s t r j))
    let signed (i : Instr) (f : Bool → Bool → Bool) : Prop := Claims.LaneBits i s d F.width L (fun j =>
      (if f (decide (half ≤ Claims.laneOf s t a j)) (decide (half ≤ Claims.laneOf s t b j)) then half else 0) +
        Claims.laneOf s t a j % half)
    let compares (i : Instr) (rel : Fp → Fp → Bool) (nv : Fp → Fp → Bool) : Prop := ∃ v fl sub, exec i s = Claims.gEnd s d v fl 6 sub ∧
      (∀ j, v.getLsbD j = (decide (j < L) && rel (num a j) (num b j))) ∧
      fl = if (List.range L).any (fun j => nv (num a j) (num b j)) then 1 else 0
    (Claims.Plain s [a, b, d] → signed (.fcpys t b a d) (fun _ y => y) ∧ signed (.fcpyns t b a d) (fun _ y => !y) ∧
      signed (.fxors t b a d) (fun x y => x != y)) ∧
    (Claims.Plain s [a, b] →
      compares (.feq t b a d) fpEq (fun x y => decide (0 < sNaN x + sNaN y)) ∧
      compares (.flt t b a d) fpLt (fun x y => x.isNaN || y.isNaN) ∧
      compares (.fle t b a d) (fun x y => fpLt x y || fpEq x y) (fun x y => x.isNaN || y.isNaN)) ∧
    (Claims.Plain s [a] → ∃ v : W64, exec (.fkind t a d) s = Claims.gEnd s d v 0 6 false ∧ v.toNat < 16 ^ L ∧
      ∀ j < L,
        let x := Claims.laneOf s t a j
        let e := x / 2 ^ F.mbits % 2 ^ F.ebits
        let m := x % 2 ^ F.mbits
        v.toNat / 16 ^ j % 16 = (if half ≤ x then 8 else 0) +
          (if e = 2 ^ F.ebits - 1 then (if m = 0 then 3 else if 2 ^ (F.mbits - 1) ≤ m then 4 else 5)
           else if e = 0 then (if m = 0 then 0 else 1) else 2))

/-- R160: FCVT multiplies the exact value of each lane by the scale in g_b, or by one where b is g0, and converts the exact
product into the target format; lanes beyond the shorter format are zero. -/
def Sys2Proof.Claims.ConversionsAreLaneWise : Prop :=
  ∀ (s : State) (u t : BitVec 4) (b a d : Reg), Claims.Plain s [a, d] →
    let L := min (laneCount u.toNat) (laneCount t.toNat)
    let scale : Fp := if b = 0 then .fin false 1 1 else fpDecode f32 ((s.me.rg b).toNat % 2 ^ 32)
    let narrow := decide (laneWidth u.toNat < 32 ∧ laneWidth t.toNat < 32)
    let ieee (n : Nat) : Bool := n == 4 || n == 5 || n == 6
    Claims.LaneWise (.fcvt u t b a d) s d (laneWidth t.toNat) L 6 (fun j =>
      let raw := Claims.laneOf s u a j
      let x := if ieee u.toNat then flushIn (Claims.fz s) (fpFmtOf u.toNat) raw else raw
      let y := scaleValue (laneValue u.toNat x) scale
      let r := laneRound t.toNat (Claims.rm s) y.1
      let z := if ieee t.toNat then flushOut (Claims.fz s) (fpFmtOf t.toNat) r else r
      { bits := z.1, flags := z.2 ||| y.2,
        sub := !Claims.fz s && !narrow && ((ieee u.toNat && isSubnormal (fpFmtOf u.toNat) raw) ||
          (ieee t.toNat && isSubnormal (fpFmtOf t.toNat) z.1)) })

/-- R161: FTOG, FTOGH and GTOF move halves of a pack, SPLAT repeats a lane, and SHUF picks lanes by 4-bit selectors, zero where
the selector is no lane. -/
def Sys2Proof.Claims.MovesAndShuffles : Prop :=
  ∀ (s : State) (t : BitVec 4) (b a d : Reg),
    let w := laneWidth t.toNat
    let L := laneCount t.toNat
    (Claims.Plain s [a] →
      exec (.ftog a d) s = Claims.gEnd s d (BitVec.ofNat 64 (s.me.rf a).toNat) 0 6 false ∧
      exec (.ftogh a d) s = Claims.gEnd s d (BitVec.ofNat 64 ((s.me.rf a).toNat / 2 ^ 64)) 0 6 false) ∧
    (Claims.Plain s [d] →
      exec (.gtof b a d) s = Claims.fEnd s d (BitVec.ofNat 128 ((s.me.rg a).toNat + 2 ^ 64 * (s.me.rg b).toNat)) 0 6 false ∧
      Claims.LaneBits (.splat t a d) s d w L (fun _ => (s.me.rg a).toNat)) ∧
    (Claims.Plain s [a, d] → Claims.LaneBits (.shuf t b a d) s d w L (fun j =>
      let k := (s.me.rg b).toNat / 16 ^ j % 16
      if k < L then Claims.laneOf s t a k else 0))

/-- Sign operations, comparisons, conversions and register moves give the lanes the rules state: the conjunction of
the claims above. What it says beyond the rules is the model's choice, by logs 32, 35, 93. -/
def Obligations.SignsConversionsAndMoves : Prop :=
  Claims.SignOperationsComparisonsAndKinds ∧ Claims.ConversionsAreLaneWise ∧ Claims.MovesAndShuffles

/-- R163: the fixed-point operations compute exactly, round halves away from zero, saturate and set QS where a lane saturates;
QRNG writes the mask of lanes out of range, sets QOV, and traps FORMAT with the mask in EVAL where FCSR.QT is set. -/
def Obligations.FixedPointIsLaneWise : Prop :=
  ∀ (s : State) (t : BitVec 4) (b a d : Reg),
    let w := laneWidth t.toNat
    let L := laneCount t.toNat
    let A := Claims.signedLane s t a
    let B := Claims.signedLane s t b
    (Claims.Plain s [a, b, d] →
      Claims.LaneWise (.qadd t b a d) s d w L 6 (fun j => Claims.qOut w (A j + B j)) ∧
      Claims.LaneWise (.qsub t b a d) s d w L 6 (fun j => Claims.qOut w (A j - B j)) ∧
      Claims.LaneWise (.qmul t b a d) s d w L 6 (fun j => Claims.qOut w (Claims.roundAway (A j * B j) (2 ^ (w - 1))))) ∧
    (Claims.Plain s [a, d] →
      Claims.LaneWise (.qabs t a d) s d w L 6 (fun j => Claims.qOut w (A j).natAbs) ∧
      Claims.LaneWise (.qshr t b a d) s d w L 6 (fun j => Claims.qOut w (Claims.roundAway (A j) (2 ^ min (s.me.rg b).toNat 63))) ∧
      Claims.LaneWise (.qsat a d) s d 16 4 6 (fun j => Claims.qOut 16 (Claims.roundAway (Claims.signedLane s 9 a j) (2 ^ 16)))) ∧
    (Claims.Plain s [a] → w ≤ 32 →
      ∃ m : W64, (∀ j, m.getLsbD j = decide (j < L ∧
          (A j * 2 ^ (32 - w) < s.me.fqlo.toInt ∨ s.me.fqhi.toInt < A j * 2 ^ (32 - w)))) ∧
        (m = 0 ∨ s.me.fcsr.getLsbD 12 = false → exec (.qrng t a d) s = Claims.gEnd s d m (if m = 0 then 0 else 64) 6 false) ∧
        (m ≠ 0 → s.me.fcsr.getLsbD 12 = true → twinLag s s.cur = false → exec (.qrng t a d) s = .next (trapMe s FORMAT m)))

/-- R164, R123: the ring-set operations act on masks of the ring's elements through the core's tables, as union and
intersection, and between the packed and unpacked forms; an RC8 result is packed again. -/
def Sys2Proof.Claims.RingSetOperationsActOnMasks : Prop :=
  ∀ (s : State) (l : BitVec 1) (b a d : Reg),
    let w := if l = 1 then 8 else 16
    let n := 128 / w
    let x := Claims.rsLane s l a
    let y := Claims.rsLane s l b
    (∀ o ∈ ([(.rsadd, 0), (.rssub, 1), (.rsmul, 2), (.rsdiv, 3)] : List ((BitVec 1 → Reg → Reg → Reg → Instr) × Nat)),
      Claims.Plain s [a, b, d] → ∃ m : Nat → Nat, (∀ j < n, Claims.ringBinary s o.2 (x j) (y j) (m j)) ∧
        Claims.LaneBits (o.1 l b a d) s d w n (fun j => Claims.rsBack l (m j))) ∧
    (∀ o ∈ ([(.rsneg, 0), (.rsrec, 1), (.rssqr, 2), (.rssqrt, 3)] : List ((BitVec 1 → Reg → Reg → Instr) × Nat)),
      Claims.Plain s [a, d] → ∃ m : Nat → Nat, (∀ j < n, Claims.ringUnary s o.2 (x j) (m j)) ∧
        Claims.LaneBits (o.1 l a d) s d w n (fun j => Claims.rsBack l (m j))) ∧
    (Claims.Plain s [a, b, d] →
      Claims.LaneBits (.rsuni l b a d) s d w n (fun j => Claims.rsBack l (x j ||| y j)) ∧
      Claims.LaneBits (.rsint l b a d) s d w n (fun j => Claims.rsBack l (x j &&& y j)) ∧
      Claims.LaneBits (.rspack b a d) s d 8 16 (fun j => rcPack (lane 16 (s.me.rf (if j < 8 then a else b)) (j % 8)))) ∧
    (Claims.Plain s [a, d] → Claims.LaneBits (.rsunpk b a d) s d 16 8 (fun j =>
      rcUnpack (lane 8 (s.me.rf a) (8 * ((s.me.rg b).toNat % 2) + j)))) ∧
    (Claims.Plain s [a] → ∃ v : W64, exec (.rsemp l a d) s = Claims.gEnd s d v 0 6 false ∧
      ∀ j, v.getLsbD j = decide (j < n ∧ x j = 0))

/-- R164, R127: RSFROM gives each F32 lane the element of the ring that holds it, and asks the normaliser for a subnormal one; RSLO and RSHI give the bounds of ring-sets that hold
an element 0 to 12, or are empty or unbounded on that side. -/
def Sys2Proof.Claims.RingSetsAndFloats : Prop :=
  ∀ (s : State) (l : BitVec 1) (b a d : Reg),
    let ring := (s.arch s.myCore).ring
    let pt (k : Nat) : Nat := (ring.getD k 0).toNat
    let w := if l = 1 then 8 else 16
    let src (j : Nat) : Nat := lane 32 (s.me.rf (if j < 4 then a else b)) (j % 4)
    let inElement (x : Nat) (e : Nat) : Prop :=
      let v := fpDecode f32 x
      if e = 14 then (v = .inf true ∨ v = .inf false)
      else if e = 13 then (∃ n a b, v = .fin n a b) ∧ (∀ k < 7, fpEq v (fpDecode f32 (pt k)) = false ∧ fpLt v (fpDecode f32 (pt k)) = false)
      else if e = 15 then (∃ n a b, v = .fin n a b) ∧ fpLt v (fpDecode f32 (pt 0)) = true ∧ ∀ k < 7, fpEq v (fpDecode f32 (pt k)) = false
      else if e % 2 = 0 then (∃ n a b, v = .fin n a b) ∧ fpEq v (fpDecode f32 (pt (e / 2))) = true ∧
        ∀ k < e / 2, fpEq v (fpDecode f32 (pt k)) = false
      else fpLt v (fpDecode f32 (pt (e / 2 + 1))) = true ∧ (∀ k < 7, fpEq v (fpDecode f32 (pt k)) = false) ∧
        (∃ n a b, v = .fin n a b) ∧ ∀ k ≤ e / 2, fpLt v (fpDecode f32 (pt k)) = false
    (Claims.Plain s [a, b, d] → ∃ v fl sub, exec (.rsfrom l b a d) s = Claims.fEnd s d v fl 6 sub ∧ fl = 0 ∧
      (sub = true ↔ Claims.fz s = false ∧ ∃ j < 8, isSubnormal f32 (src j) = true) ∧
      (∀ j < 8, (∀ e < 16, inElement (src j) e → lane w v j = Claims.rsBack l (2 ^ e)) ∧
        ((fpDecode f32 (src j)).isNaN = true → lane w v j = Claims.rsBack l 0xFFFF)) ∧
      (l = 1 → ∀ j, 8 ≤ j → j < 16 → lane 8 v j = 0xFF)) ∧
    (Claims.Plain s [a, d] → (∃ v, exec (.rslo l a d) s = Claims.fEnd s d v 0 6 false ∧ ∀ j < 4,
        let m := Claims.rsLane s l a j
        (m = 0 → lane 32 v j = 0x7FC00000) ∧ (m.testBit 14 = true ∨ m.testBit 15 = true → lane 32 v j = 0xFF800000) ∧
        (∀ e ≤ 12, m.testBit 14 = false → m.testBit 15 = false → m.testBit e = true → (∀ k < e, m.testBit k = false) →
          lane 32 v j = pt (e / 2))) ∧
      (∃ v, exec (.rshi l a d) s = Claims.fEnd s d v 0 6 false ∧ ∀ j < 4,
        let m := Claims.rsLane s l a j
        (m = 0 → lane 32 v j = 0x7FC00000) ∧ (m.testBit 13 = true ∨ m.testBit 14 = true → lane 32 v j = 0x7F800000) ∧
        (∀ e ≤ 12, m.testBit 13 = false → m.testBit 14 = false → m.testBit e = true →
          (∀ k, e < k → k ≤ 12 → m.testBit k = false) → lane 32 v j = pt ((e + 1) / 2))))

/-- R125, R126: an RC8 code holds its run of elements; packing a mask gives the empty code, the whole ring's, or the shortest run that
covers it with the lowest start; unpacking a canonical code and packing it again gives the code. -/
def Sys2Proof.Claims.RingSetPackingIsTightest : Prop :=
  let covers (m p l : Nat) : Prop := ∀ k < 16, m.testBit k = true → ∃ j ≤ l, k = (p + j) % 16
  (∀ c k, c < 256 → k < 16 → ((rcUnpack c).testBit k = true ↔ c ≠ 0xFF ∧ (c % 16 = 15 ∨ ∃ j ≤ c % 16, k = (c / 16 + j) % 16))) ∧
  rcPack 0 = 0xFF ∧
  (∀ m, m < 2 ^ 16 → m &&& rcUnpack (rcPack m) = m ∧ rcPack m < 2 ^ 8) ∧
  (∀ m p l, m < 2 ^ 16 → m ≠ 0 → p < 16 → l < 15 → covers m p l →
    rcPack m % 16 ≤ l ∧ rcPack m ≠ 0xFF ∧ (rcPack m % 16 = l → rcPack m / 16 ≤ p)) ∧
  (∀ m, m < 2 ^ 16 → m ≠ 0 → (∀ p l, p < 16 → l < 15 → ¬covers m p l) → rcPack m = 0x0F) ∧
  (∀ c, c < 256 → (c % 16 < 15 ∨ c = 0x0F ∨ c = 0xFF) → rcPack (rcUnpack c) = c)

/-- Ring-set operations act on masks, and RC8 codes pack and unpack as R125 and R126 say: the conjunction of the
claims above. -/
def Obligations.RingSetOperationsAndPacking : Prop :=
  Claims.RingSetOperationsActOnMasks ∧ Claims.RingSetsAndFloats ∧ Claims.RingSetPackingIsTightest

/-! ## Special functions, tables, streams, queue registers, sequencer (R121, R122, R127, R139-R156, R165) -/

namespace Sys2Proof.Claims

/-- The state `n` core cycles of a die later, nothing else having happened. -/
def later (s : State) (die n : Nat) : State := s.setDie die { s.die die with cyc := (s.die die).cyc + n }

/-- The special-function instructions of R166, in the order of their codes. -/
noncomputable def sfuTable : List ((BitVec 4 → Reg → Reg → Instr) × Nat) :=
  [(.fexp2, 0), (.flog2, 1), (.frcp, 2), (.frsq, 3), (.fsinpi, 4), (.fcospi, 5), (.ftanh, 6), (.ferf, 7), (.fsigm, 8)]

/-- Every stream of the thread is OFF. -/
abbrev StreamsOff (t : Thread) : Prop := ∀ n < 8, (t.stream n).state = .off

/-- N of R140: the product of the bounds of the first `levels` levels. -/
def packCount (x : Stream) (levels : Nat) : Nat := ((List.range levels).map (fun l => (tget 0 x.bound l).toNat)).foldl (· * ·) 1

/-- The offset of pack i of R140, level by level. -/
def packOffset (x : Stream) (i : Nat) : Int :=
  let b (l : Nat) : Nat := (tget 0 x.bound l).toNat
  let under (l : Nat) : Nat := ((List.range l).map b).foldl (· * ·) 1
  (x.base.toNat % 2 ^ 61 : Nat) +
    ((List.range x.levels).map (fun l => ((i / under l % b l : Nat) : Int) * (tget 0 x.stride l).toInt)).sum

/-- Nothing of the thread waits for acceptance. -/
abbrev NoStores (s : State) : Prop := (s.core s.myCore).storeq = [] ∧ s.me.cmp = []

end Sys2Proof.Claims

/-- R165, R50: a special-function instruction parks its thread on the return token; the unit accepts the request, answers it 24
core cycles later, and the woken thread has the result in f_d, the flags in FCSR and goes on at the next word. -/
def Sys2Proof.Claims.SpecialFunctionsReturnThroughTheUnit : Prop :=
  ∀ o ∈ Claims.sfuTable, ∀ (s : State) (f : BitVec 4) (a d : Reg),
    let core := s.myCore
    let clu := clusterOf core
    Claims.Plain s [a, d] → (s.cluster clu).sfuq = [] →
    ∃ t u v x, exec (o.1 f a d) s = .next t ∧ t.me.state = .parked ∧
      (t.me.wait.map (fun w => (w.kind, w.eval))) = some (0x02, BitVec.ofNat 64 (s.cluster clu).sfuCount.toNat) ∧
      exec (.sfuAccept clu) t = .next u ∧ exec (.sfuResult clu) (Claims.later u (dieOf core) 24) = .next v ∧
      exec (.parkWake core (slotOf s.cur)) v = .next x ∧ x.me.rf d = (sfuPack o.2 f s.me.fcsr (s.me.rf a)).1 ∧
      x.me.fcsr = s.me.fcsr ||| BitVec.ofNat 16 ((sfuPack o.2 f s.me.fcsr (s.me.rf a)).2 % 128) ∧
      x.me.pc = s.me.pc + 4 ∧ x.me.wait = none ∧ (∀ r, x.me.rg r = s.me.rg r) ∧ (∀ r, r ≠ d → x.me.rf r = s.me.rf r) ∧
      (slotOf s.cur ≠ 6 → s.me.pse = false → x.me.state = .ready)

/-- R122, R121: RSLDT and RSLDG are in flight until their data has arrived, 8 core cycles after issue from the own scratchpad;
then the tables, or a valid ring, take effect whole for the core and the thread goes on. -/
def Sys2Proof.Claims.TablesAndRingsAreLoadedWhole : Prop :=
  ∀ (s : State) (a : Reg) (o : Nat),
    let core := s.myCore
    let ready (n : Nat) : Prop := (s.me.rg a).toNat % 16 = 0 ∧ Claims.SegOk s.me (s.me.rg a) n rightR 2 o ∧ o + n ≤ 0x100000 ∧
      Claims.Unlocked s o n ∧ spadPoisoned s.mem core o n = false ∧ Claims.NoStores s ∧ s.me.run = none ∧ s.me.state = .ready ∧
      s.me.pse = false ∧ (s.die (dieOf core)).relock = none ∧ ∀ r ∈ (s.cluster (clusterOf core)).normq, r.2 ≠ s.cur
    let loads (i : Instr) (got : CoreArch → Prop) : Prop := ∃ t u, exec i s = .next t ∧
      t.me.busy = some (s.cyc core + 8) ∧ t.me.pc = s.me.pc ∧ t.arch core = s.arch core ∧
      exec (.instructionComplete core (slotOf s.cur)) (Claims.later t (dieOf core) 8) = .next u ∧ got (u.arch core) ∧
      u.me.pc = s.me.pc + 4 ∧ u.me.busy = none ∧ u.me.wait = none ∧ u.mem = s.mem ∧ ∀ r, u.me.rg r = s.me.rg r
    let pt (k : Nat) : Nat := Claims.ownValue s (o + 4 * k) 4
    (ready 2176 → loads (.rsldt a) (fun x => ∃ l, x.tables = some l ∧ l.length = 1088 ∧
      ∀ k < 1088, (l.getD k 0).toNat = Claims.ownValue s (o + 2 * k) 2)) ∧
    (ready 32 → (∀ k < 7, ∃ n p q, fpDecode f32 (pt k) = .fin n p q) →
      (∀ k < 6, fpLt (fpDecode f32 (pt k)) (fpDecode f32 (pt (k + 1))) = true) → pt 7 = 0x7F800000 →
      loads (.rsldg a) (fun x => x.ring.length = 7 ∧ ∀ k < 7, (x.ring.getD k 0).toNat = pt k))

/-- R142, R143, R146, R147: the stream control instructions, with their statuses and the STREAM trap of a configuration that is
written while the stream is on. -/
def Sys2Proof.Claims.StreamControl : Prop :=
  ∀ (s : State) (n : BitVec 3) (l : BitVec 2) (a d : Reg), s.me.run = none →
    let x := s.me.stream n.toNat
    let v := s.me.rg a
    let levels := v.toNat / 2 % 4 + 1
    let valid : Prop := v.toNat < 8 ∧ x.base.toNat % 16 = 0 ∧
      (∀ k < levels, (tget 0 x.stride k).toNat % 16 = 0 ∧ tget 0 x.bound k ≠ 0) ∧ Claims.packCount x levels < 2 ^ 32
    let set (i : Instr) (y : Stream) : Prop := (x.state = .off → exec i s = .next (s.finish (s.me.setStream n.toNat y) 6)) ∧
      (x.state ≠ .off → twinLag s s.cur = false → exec i s = .next (trapMe s STREAM (BitVec.ofNat 64 n.toNat)))
    set (.sbound n l a) { x with bound := tput x.bound l.toNat (BitVec.ofNat 32 v.toNat) } ∧
    set (.sstride n l a) { x with stride := tput x.stride l.toNat v } ∧ set (.sbase n a) { x with base := v } ∧
    (x.state = .off → valid → exec (.sen n a d) s = .next (s.finish ((s.me.setStream n.toNat { x with
      write := v.getLsbD 0, levels := levels, pos := 0, state := .active, packs := [] }).wg d 0) 6)) ∧
    (x.state = .off → ¬valid → exec (.sen n a d) s = Claims.regEnd s d 1 6) ∧
    (x.state ≠ .off → exec (.sen n a d) s = Claims.regEnd s d 2 6) ∧
    (x.state = .off → exec (.sdis n) s = .next (s.finish s.me 8) ∧ exec (.sdrain n d) s = Claims.regEnd s d 1 8) ∧
    (x.write = false → exec (.sdrain n d) s = Claims.regEnd s d 1 8) ∧
    (x.state ≠ .off → streamStores s s.cur n.toNat = false →
      exec (.sdis n) s = .next (s.finish ((s.me.setStream n.toNat { x with state := .off, packs := [] }).wf (24 + n.setWidth 5) 0) 8) ∧
      (x.write = true → exec (.sdrain n d) s = Claims.regEnd s d 0 8)) ∧
    (∃ w : W64, exec (.sstat n d) s = Claims.regEnd s d w 6 ∧
      w.toNat / 2 ^ 32 = (if x.state = .off then 0 else (x.total - x.pos) % 2 ^ 32) ∧ w.toNat / 2 ^ 16 % 2 ^ 16 = 0 ∧
      w.toNat / 2 ^ 6 % 4 = 0 ∧ w.toNat / 16 % 4 = (x.levels - 1) % 4 ∧ w.toNat / 8 % 2 = (if x.write then 1 else 0) ∧
      w.toNat % 8 = (match x.state with | .off => 0 | .active => 1 | .done => 2) ∧
      (∀ p, x.state = .active → x.packs.find? (fun p => p.idx == x.pos) = some p → w.toNat / 2 ^ 8 % 2 ^ 8 = p.cause.toNat))

/-- R144, R142, R140: a read stream named as a source gives the pack at its position and moves on; a write stream named as the
destination takes the result as a 16-byte store at its position's address; a DONE stream, or the wrong direction, traps
STREAM. -/
def Sys2Proof.Claims.StreamsFeedOperands : Prop :=
  ∀ (s : State) (n : BitVec 3) (b a d : Reg), s.me.run = none → s.me.twl = false → s.me.twt = false →
    let k := n.toNat
    let x := s.me.stream k
    let r : Reg := 24 + n.setWidth 5
    let moved (t : State) : Prop := (t.me.stream k).pos = x.pos + 1 ∧
      (t.me.stream k).state = (if x.pos + 1 = x.total then .done else .active) ∧ t.me.pc = s.me.pc + 4 ∧
      ∀ j, j ≠ k → t.me.stream j = s.me.stream j
    (∀ p, x.state = .active → x.write = false → x.packs.find? (fun p => p.idx == x.pos && p.cause != 0xFF) = some p → p.cause = 0 →
      ∃ t, exec (.ftog r d) s = .next t ∧ moved t ∧ t.mem = s.mem ∧ (d ≠ 0 → t.me.rg d = BitVec.ofNat 64 p.data.toNat)) ∧
    (x.state = .done ∨ (x.state = .active ∧ x.write = true) → twinLag s s.cur = false →
      exec (.ftog r d) s = .next (trapMe s STREAM (BitVec.ofNat 64 k))) ∧
    (x.state = .done ∨ (x.state = .active ∧ x.write = false) → twinLag s s.cur = false →
      exec (.gtof b a r) s = .next (trapMe s STREAM (BitVec.ofNat 64 k))) ∧
    (∀ (ea : W64) (o : Nat), x.state = .active → x.write = true → 0 ≤ Claims.packOffset x x.pos → Claims.packOffset x x.pos < 2 ^ 61 →
      ea = BitVec.ofNat 64 (x.base.toNat / 2 ^ 61 * 2 ^ 61 + (Claims.packOffset x x.pos).toNat) →
      Claims.OwnBytes s ea 16 rightW o → (s.core s.myCore).storeq.length < 16 →
      ∃ t, exec (.gtof b a r) s = .next t ∧ moved t ∧ t.mem = s.mem ∧
        (t.core s.myCore).storeq = (s.core s.myCore).storeq ++ [{ Claims.ownEntry s ea o
          (bytesOfNat 16 ((s.me.rg a).toNat + 2 ^ 64 * (s.me.rg b).toNat)) .write with stream := some k }])

/-- R145: a prefetch of a read stream keeps the pack at its position's address with the stream, or the fault it meets there,
which traps nothing yet. -/
def Sys2Proof.Claims.PrefetchKeepsThePackOrItsFault : Prop :=
  ∀ (s : State) (n : Nat) (ea : W64) (o : Nat),
    let x := s.me.stream n
    ctxStopped s s.myCore = false → (s.core s.myCore).migrating = none →
    x.state = .active → x.write = false → s.me.killed = none → x.packs = [] → x.pos < x.total →
    0 ≤ Claims.packOffset x x.pos → Claims.packOffset x x.pos < 2 ^ 61 →
    ea = BitVec.ofNat 64 (x.base.toNat / 2 ^ 61 * 2 ^ 61 + (Claims.packOffset x x.pos).toNat) → ea.toNat % 16 = 0 →
    let kept (t : State) (p : Pack) : Prop := (t.me.stream n).packs = [p] ∧ (t.me.stream n).pos = x.pos ∧ t.mem = s.mem ∧
      t.me.state = s.me.state ∧ t.me.pc = s.me.pc
    (Claims.OwnBytes s ea 16 rightR o → Claims.NoStores s → spadPoisoned s.mem s.myCore o 16 = false →
      ∃ t p, exec (.streamPrefetch s.myCore (slotOf s.cur) n .inside) s = .next t ∧ kept t p ∧ p.idx = x.pos ∧ p.cause = 0 ∧
        p.data.toNat = Claims.ownValue s o 16) ∧
    (Claims.SegBad s.me ea 16 rightR → ∃ t p, exec (.streamPrefetch s.myCore (slotOf s.cur) n .inside) s = .next t ∧ kept t p ∧
      p.idx = x.pos ∧ p.cause = SEGV ∧ p.addr = ea)

/-- Streams are configured, feed operands, take results and prefetch packs: the conjunction of the claims above.
What it says beyond the rules is the model's choice, by log 23. -/
def Obligations.StreamsFeedAndPrefetchPacks : Prop :=
  Claims.StreamControl ∧ Claims.StreamsFeedOperands ∧ Claims.PrefetchKeepsThePackOrItsFault

/-- R155, R156: values leave a queue register in the order they entered; QCNT counts them; a push to a full queue and a pop from
an empty one park the thread with WKIND 0x04 or 0x03 and the queue's number. -/
def Obligations.QueueRegistersAreFifos : Prop :=
  ∀ (s : State) (q : BitVec 5) (b a d : Reg), s.me.wait = none →
    let l := s.me.qreg q.toNat
    let put (l : List W128) : Thread := { s.me with q := tput s.me.q q.toNat l }
    let parks (i : Instr) (kind : Byte) : Prop := ∃ t w, exec i s = .next t ∧ t.me.state = .parked ∧ t.me.wait = some w ∧
      w.kind = kind ∧ w.eval = BitVec.ofNat 64 q.toNat ∧ w.instr = i ∧ t.me.pc = s.me.pc ∧ t.me.q = s.me.q
    (l.length < 8 → exec (.qwg q b a) s =
      .next (s.finish (put (l ++ [BitVec.ofNat 128 ((s.me.rg a).toNat + 2 ^ 64 * (s.me.rg b).toNat)])) 6)) ∧
    (l.length < 8 → Claims.Plain s [a] → exec (.qwf q a) s = .next (s.finish (put (l ++ [s.me.rf a])) 6)) ∧
    (∀ v r, l = v :: r → exec (.qrg q d) s = .next (s.finish ((put r).wg d (BitVec.ofNat 64 v.toNat)) 6) ∧
      (Claims.Plain s [d] → exec (.qrf q d) s = .next (s.finish ((put r).wf d v) 6))) ∧
    exec (.qcnt q d) s = Claims.regEnd s d (BitVec.ofNat 64 l.length) 6 ∧
    (8 ≤ l.length → parks (.qwg q b a) 0x04 ∧ (Claims.Plain s [a] → parks (.qwf q a) 0x04)) ∧
    (l = [] → parks (.qrg q d) 0x03 ∧ (Claims.Plain s [d] → parks (.qrf q d) 0x03))

/-- R150, R154: SEQ takes the n words after it as a run of c repetitions and skips them; c = 0 only skips; a count of 2^32 or
more, or more than 8 words in a twin pair, traps STREAM with the count in EVAL. -/
def Sys2Proof.Claims.SeqHandsARunToTheSequencer : Prop :=
  ∀ (s : State) (a : Reg) (n : BitVec 5) (ws : List W32), s.me.run = none →
    let c := s.me.rg a
    let len := n.toNat + 1
    let next := s.me.pc + 4 + BitVec.ofNat 64 (4 * len)
    (c.toNat < 2 ^ 32 → s.me.twl = false → s.me.twt = false → fetchWords s s.cur (s.me.pc + 4) len = .ok (s, ws) →
      (∀ k (h : k < ws.length), ∃ i, decodeWord ws[k] 0 0 0 0 = .ok i ∧ runWord i = true) →
      (c = 0 → exec (.seq a n) s = Claims.goesTo s s.me next) ∧
      (c ≠ 0 → entriesUsed s s.myCore + len ≤ 16 → exec (.seq a n) s = Claims.goesTo s { s.me with
        runSer := s.me.runSer + 1,
        run := some { words := ws, count := c.toNat, entry := 0, iter := 0, flight := [], sfu := none, stall := none, held := false,
                      after := tget [] s.me.efence 3 } } next)) ∧
    (2 ^ 32 ≤ c.toNat ∨ (s.me.twl = true ∧ 8 < len) → twinLag s s.cur = false → exec (.seq a n) s = .next (trapMe s STREAM c))

namespace Sys2Proof.Claims

/-- The word of a run's next entry. -/
abbrev entryWord (r : Run) : W32 := r.words.getD r.entry 0

/-- The place of a run's next entry once this one has been taken. -/
def placeAfter (r : Run) : Nat × Nat := if r.entry + 1 < r.words.length then (r.entry + 1, r.iter) else (0, r.iter + 1)

/-- The core's sequencer takes an entry of the thread's run in this core cycle: the run stands before an entry that waits for nothing,
no other slot of the core has a run, and the barrel leaves the pipe free (R136, R149, R150). -/
structure TakesEntry (s : State) (r : Run) : Prop where
  run : s.me.run = some r
  left : r.iter < r.count
  alone : r.flight = [] ∧ r.after = [] ∧ r.sfu = none ∧ r.held = false
  thread : (s.me.state = .ready ∨ s.me.state = .parked) ∧ s.me.forfeit = 0 ∧ s.me.killed = none
  core : ctxStopped s s.myCore = false ∧ (s.core s.myCore).migrating = none ∧ (s.die (dieOf s.myCore)).relock = none
  others : ∀ k < 8, k ≠ slotOf s.cur → (s.thread (keyOf s.myCore k)).run = none
  pipe : (s.core s.myCore).pipeAt = none ∧ coreCanIssue s s.myCore = false

end Sys2Proof.Claims

/-- R149, R136: an entry of a run that waits for nothing issues: SEQ_ENTRY_ISSUE writes the word's result and flags, leaves the pc
and the g registers, puts the entry in flight for its word's latency and moves the run to its next place. -/
def Sys2Proof.Claims.RunEntriesIssue : Prop :=
  ∀ (s : State) (r : Run) (i : Instr) (o : FOp), Claims.TakesEntry s r → Claims.StreamsOff s.me →
    decodeWord (Claims.entryWord r) 0 0 0 0 = .ok i → fOpOf i = some o →
    let core := s.myCore
    let x := o.comp s.me (s.arch core) (o.srcs.map s.me.rf)
    ∃ u d v, exec (.seqEntryIssue core (slotOf s.cur)) s = .next u ∧ x.f = some (d, v) ∧ u.me.f = (s.me.wf d v).f ∧
      u.me.fcsr = s.me.fcsr ||| BitVec.ofNat 16 (x.flags % 128) ∧ u.me.forfeit = (if x.sub then 6 else 0) ∧
      u.me.g = s.me.g ∧ u.me.pc = s.me.pc ∧ u.me.state = s.me.state ∧ u.mem = s.mem ∧
      (u.core core).pipeAt = some (s.cyc core) ∧
      (u.me.run.map (fun y => (y.words, y.count, y.flight))) = some (r.words, r.count, [(s.cyc core + o.lat, Claims.entryWord r)]) ∧
      (u.me.run.map (fun y => (y.entry, y.iter))) = some (Claims.placeAfter r)

/-- R149, R151: an entry of a run has the effect its word has in the integer stream, whose pc stays; it completes after the
word's own latency, and the run ends when the last entry of its last iteration has completed. -/
def Sys2Proof.Claims.RunEntriesActAsTheirWords : Prop :=
  ∀ (s t : State) (r : Run) (i : Instr) (o : FOp),
    let core := s.myCore
    let slot := slotOf s.cur
    (runReady s s.cur = some r → (pipeCycle s core).isSome = true → entryTurn s core slot = true →
      decodeWord (Claims.entryWord r) 0 0 0 0 = .ok i → fOpOf i = some o → Claims.StreamsOff s.me →
      exec i (s.setMe { s.me with run := none }) = .next t → t.me.busy.isSome = true → t.me.pc = s.me.pc + 4 →
      ∃ u, exec (.seqEntryIssue core slot) s = .next u ∧ u.me.f = t.me.f ∧ u.me.fcsr = t.me.fcsr ∧ u.me.pc = s.me.pc ∧
        u.me.forfeit = t.me.forfeit ∧ (∃ b, t.me.busy = some b ∧
          (u.me.run.map (fun y => y.flight)) = some (r.flight ++ [(b, Claims.entryWord r)])) ∧ u.me.g = s.me.g) ∧
    (∀ done w, s.me.run = some r → r.flight = [(done, w)] → done ≤ s.cyc core →
      (∀ x ∈ (s.cluster (clusterOf core)).normq, x.2 ≠ s.cur) →
      ∃ u, exec (.seqEntryComplete core slot) s = .next u ∧ u.me.f = s.me.f ∧
        u.me.run = (if r.iter < r.count then some { r with flight := [] } else none))

/-- SEQ hands a run to the sequencer, whose entries act as their words: the conjunction of the claims above. What it
says beyond the rules is the model's choice, by logs 3, 23, 39. -/
def Obligations.RunsActAsTheirWords : Prop :=
  Claims.SeqHandsARunToTheSequencer ∧ Claims.RunEntriesIssue ∧ Claims.RunEntriesActAsTheirWords

/-- R127: the normaliser serves its oldest request once its core cycle has passed, one a cycle, and lengthens the instruction by
the time the request waited. -/
def Sys2Proof.Claims.NormaliserServesOneRequestACycle : Prop :=
  ∀ (s : State) (clu c key : Nat), (s.cluster clu).normq = [(c, key)] → max c (s.cluster clu).normAt < (s.die (dieOfCluster clu)).cyc →
    let turn := max c (s.cluster clu).normAt
    ∃ t, exec (.normaliserService clu) s = .next t ∧ (t.cluster clu).normq = [] ∧ (t.cluster clu).normAt = turn + 1 ∧
      (∀ b, (s.thread key).run = none → (s.thread key).busy = some b → (t.thread key).busy = some (b + (turn - c))) ∧
      (∀ k, k ≠ key → t.thread k = s.thread k) ∧ t.mem = s.mem

/-- The special-function unit, the normaliser and table loads answer as given: the conjunction of the claims above.
What it says beyond the rules is the model's choice, by logs 6, 8, 30, 38. -/
def Obligations.UnitsAnswerFunctionsAndTables : Prop :=
  Claims.SpecialFunctionsReturnThroughTheUnit ∧ Claims.NormaliserServesOneRequestACycle ∧ Claims.TablesAndRingsAreLoadedWhole

/-! ## Engines (R168-R192) -/

namespace Sys2Proof.Claims

/-- The acting thread has parked `i` on a wait of a kind for an object; its pc and g registers are as before. -/
def Parked (s t : State) (i : Instr) (kind : Byte) (eval : W64) : Prop :=
  t.me.state = .parked ∧ t.me.pc = s.me.pc ∧ t.me.g = s.me.g ∧
    ∃ w, t.me.wait = some w ∧ w.kind = kind ∧ w.eval = eval ∧ w.instr = i ∧ w.reply = none

/-- The instruction parks, and memory is as before. -/
def ParksOn (s : State) (i : Instr) (kind : Byte) (eval : W64) : Prop :=
  ∃ t, exec i s = .next t ∧ Parked s t i kind eval ∧ t.mem = s.mem

/-- The instruction traps precisely; the leader of a twin pair first waits for its trailer. -/
def Traps (s : State) (i : Instr) (cause : Byte) (eval : W64) : Prop :=
  twinLag s s.cur = false → exec i s = .next (trapMe s cause eval)

/-- The queue of an engine that the acting slot uses, and its number of places (R169, R336). -/
def myQueue (s : State) (eng : Nat) : EngineQueue := s.engine s.myCore eng (isUrgentSlot (slotOf s.cur))
def places (s : State) : Nat := if slotOf s.cur = 6 then 1 else 2

/-- The engine queues of a core. -/
def engineQueues (s : State) (core : Nat) : List EngineQueue := [(s.arch core).mq, (s.arch core).cq, (s.arch core).umq, (s.arch core).ucq]
/-- No entry of the core's engine queues is cancelled. -/
abbrev NoneCancelled (s : State) (core : Nat) : Prop := ∀ q ∈ engineQueues s core, ∀ e ∈ q.entries, e.cancelled = false
abbrev EnginesIdle (s : State) (core : Nat) : Prop := ∀ q ∈ engineQueues s core, q.entries = []

/-- A token of R170: engine, slot and serial. -/
def token (eng slot : Nat) (serial : W32) : W64 := BitVec.ofNat 64 (eng * 2 ^ 38 + slot * 2 ^ 35 + serial.toNat)

/-- R169, R170, R182: the instruction appends an entry to its slot's queue and writes its token to g_d, 6 core cycles after
issue; a PARK job with a follow credit takes it and is released; a full queue, or a service core's, which has none (R10; the
model's choice, log 98), parks the thread. -/
def Enqueues (s : State) (i : Instr) (eng : Nat) (kind : EntryKind) (d : Reg) (words : Nat) : Prop :=
  let q := myQueue s eng
  let serial := q.enq + 1
  let credit := (match kind with | .job _ _ park _ _ _ _ => park | _ => false) && s.me.fcred != 0
  (s.myCore < 1280 → q.entries.length < places s → NoneCancelled s s.myCore → (s.me.faultOf eng).unreported = false →
    ∃ t e, exec i s = .next t ∧ myQueue t eng = { q with
        entries := q.entries ++ [e], enq := serial, lap := q.lap || serial.getLsbD 31 } ∧ e.serial = serial ∧
      e.slot = slotOf s.cur ∧ e.kind = kind ∧ e.state = .queued ∧ e.cancelled = false ∧ e.released = credit ∧
      t.me.fcred = (if credit then s.me.fcred - 1 else s.me.fcred) ∧
      (∀ r, t.me.rg r = if r = d ∧ d ≠ 0 then token eng (slotOf s.cur) serial else s.me.rg r) ∧
      t.me.pc = s.me.pc + BitVec.ofNat 64 (4 * words) ∧ t.me.busy = some (s.cyc s.myCore + 6) ∧ t.mem = s.mem ∧
      (∀ c, c ≠ s.myCore → t.core c = s.core c) ∧ ∀ k, k ≠ s.cur → t.thread k = s.thread k) ∧
  (places s ≤ q.entries.length ∨ 1280 ≤ s.myCore → ParksOn s i 0x0A (d.setWidth 64))

/-- A parameter word as it acts (R28): a marker stands for the low half of a g register. -/
abbrev paramIs (t : Thread) (p x : W32) : Prop :=
  if p.extractLsb' 26 6 = 0x3F then p.extractLsb' 0 21 = 0 ∧ x = (t.rg (p.extractLsb' 21 5)).setWidth 32 else x = p

/-- A 16-byte aligned range of the own scratchpad through a local segment and W0 (R184, R185). -/
abbrev LocalRange (t : Thread) (ea : W64) (n right o : Nat) : Prop :=
  ea.toNat % 16 = 0 ∧ SegOk t ea n right 2 o ∧ o + n ≤ 0x100000

/-- The value rules of CPY at issue (R187). -/
abbrev CopyAllowed (kind : BitVec 2) (v : W64) (sp rows rowb dp : W32) : Prop :=
  let fmt := v.toNat / 16 % 16
  rows.toNat ≤ 65535 ∧ 1 ≤ rowb.toNat ∧ rowb.toNat ≤ 0x100000 ∧ (kind = 1 → v.toNat < 16 ∧ dp = 0) ∧
    (kind = 2 → v.toNat / 2 ^ 8 % 2 ^ 24 = 0 ∧ v.getLsbD 3 = false ∧ fmt ∈ [5, 6, 7, 8, 10] ∧
      v.toNat % 8 % tileBanks fmt = 0 ∧ rows = 1 ∧ rowb.toNat = tileSize fmt ∧ sp = 0 ∧ dp = 0)

/-- The copy instructions by kind: MEM, BOB, CIM. -/
noncomputable def copyInstr (kind : BitVec 2) (follow : BitVec 1) (b a d : Reg) (p0 p1 p2 p3 : W32) : Instr :=
  if kind = 0 then .cpyMem follow b a d p0 p1 p2 p3 else if kind = 1 then .cpyBob follow b a d p0 p1 p2 p3
  else .cpyCim follow b a d p0 p1 p2 p3

/-- The head of a queue and what stands behind it, nothing of the core being cancelled. -/
abbrev Head (s : State) (core eng : Nat) (u : Bool) (e : Entry) (rest : List Entry) : Prop :=
  (s.engine core eng u).entries = e :: rest ∧ NoneCancelled s core

/-- The head has ended DONE: it left its queue and its serial is the last ended one (R170). -/
def EndsDone (s t : State) (core eng : Nat) (u : Bool) (e : Entry) (rest : List Entry) : Prop :=
  t.engine core eng u = { s.engine core eng u with entries := rest, ended := e.serial }

/-- The head has ended FAULTED: its slot's record holds the fault unless one was unreported, and the slot's later entries are
cancelled; said where no other entry is queued (R171). -/
def EndsFaulted (s t : State) (core eng : Nat) (u : Bool) (e : Entry) (cause : Byte) (addr : W64) : Prop :=
  (t.engine core eng u).entries = [] ∧ (t.engine core eng u).ended = e.serial ∧
    (e.slot < 8 → ((s.thread (keyOf core e.slot)).faultOf eng).unreported = false →
      (t.thread (keyOf core e.slot)).faultOf eng = { fser := e.serial, fcause := cause, faddr := addr, unreported := true })

/-- An entry at the head that may begin its work. -/
abbrev MayStart (s : State) (core eng : Nat) (u : Bool) (e : Entry) : Prop :=
  e.state = .queued ∧ e.unreleased = false ∧ e.fault = none ∧ e.page = false ∧ engineMayRun s core = true ∧
    turnOf (s.arch core) eng u = true ∧ e.after = []

/-- A running matrix entry whose time has come; no urgent work waits for it to pause (R335). -/
abbrev Due (s : State) (core : Nat) (u : Bool) (e : Entry) : Prop :=
  e.state = .running ∧ e.fault = none ∧ engineMayRun s core = true ∧ turnOf (s.arch core) 1 u = true ∧ e.start ≤ s.pk.array

/-- The slot of an entry has no store that the core has not accepted (R184, R185). -/
abbrev NoOwnStores (s : State) (core : Nat) (e : Entry) : Prop :=
  (s.core core).storeq = [] ∧ (s.thread (keyOf core e.slot)).cmp = []

/-- Nothing of the core is locked. -/
abbrev NoLocks (s : State) (core : Nat) : Prop := (s.arch core).locks = []

end Sys2Proof.Claims

/-- R182, R184, R185, R187 and R188: the engine instructions check their operands, with FORMAT and the value EVAL
takes, and enqueue the entry that performs them later. What it says beyond the rules is the model's choice, by
logs 57, 59, 67, 98. -/
def Obligations.EngineInstructionsEnqueueEntries : Prop :=
  ∀ (s : State) (m : BitVec 2) (park follow : BitVec 1) (a b c d : Reg) (p0 p1 p2 p3 x0 x1 x2 x3 : W32),
    (Claims.paramIs s.me p0 x0 ∧ Claims.paramIs s.me p1 x1 ∧ Claims.paramIs s.me p2 x2 ∧ Claims.paramIs s.me p3 x3 →
      (∀ (i : Instr) (ovr : Bool), (i, ovr) ∈ [(Instr.mjobAcc park m a p0 p1 p2 p3, false), (.mjobOvr park m a p0 p1 p2 p3, true)] →
        (x0.getLsbD 27 = false → x1.toNat / 2 ^ 28 = 0 → x1.toNat / 2 ^ 21 % 16 = 0 → x2.toNat / 2 ^ 23 = 0 → x3.toNat / 2 ^ 20 = 0 →
          Claims.Enqueues s i 1 (.job ovr m.toNat (park == 1) x0 x1 x2 x3) a 5) ∧
        (x0.getLsbD 27 = true → Claims.Traps s i FORMAT (s.me.pc + 4))) ∧
      (∀ kind : BitVec 2, kind ≠ 3 →
        (Claims.CopyAllowed kind (s.me.rg b) x0 x1 x2 x3 → Claims.Enqueues s (Claims.copyInstr kind follow b a d p0 p1 p2 p3) 2
          (.copy kind (follow == 1) (s.me.rg a) (s.me.rg b) (if x0 = 0 then (x2.toNat : Int) else x0.toInt) x1.toNat x2.toNat
            (if x3 = 0 then (x2.toNat : Int) else x3.toInt)) d 5) ∧
        (¬Claims.CopyAllowed kind (s.me.rg b) x0 x1 x2 x3 →
          Claims.Traps s (Claims.copyInstr kind follow b a d p0 p1 p2 p3) FORMAT s.me.pc))) ∧
    (∀ (f : BitVec 4) (n : BitVec 3) (o : Nat), (n.toNat % tileBanks f.toNat ≠ 0 → Claims.Traps s (.mldb f c b a n) FORMAT (n.setWidth 64)) ∧
      (n.toNat % tileBanks f.toNat = 0 → Claims.LocalRange s.me (s.me.rg a) (tileSize f.toNat) rightR o →
        Claims.Enqueues s (.mldb f c b a n) 1
          (.mldb f n.toNat o (if b = 0 then 0x3F800000 else (s.me.rg b).setWidth 32)) c 1)) ∧
    Claims.Enqueues s (.mzero c m) 1 (.mzero m.toNat) c 1 ∧
    (let v := (s.me.rg b).toNat
     let n := v / 2 ^ 8 % 128 + 1
     let bad := v / 2 ^ 7 % 2 = 1 ∨ v / 2 ^ 15 % 2 = 1 ∨ 2 ^ 18 ≤ v ∨ 128 < v % 128 + n
     let half := (s.me.rg b).getLsbD 16
     (bad → Claims.Traps s (.mrd c b a m) FORMAT (s.me.rg b)) ∧
     (∀ o, ¬bad → Claims.LocalRange s.me (s.me.rg a) (n * (if half then 256 else 512)) rightW o →
       Claims.Enqueues s (.mrd c b a m) 1 (.mrd m.toNat (v % 128) n half ((s.me.rg b).getLsbD 17) o) c 1))

/-- R186, R190 and R192: MSTAT's words, and how EWAIT, EFENCE and ECANCEL wait for entries, report their fault once,
and stop them. What it says beyond the rules is the model's choice, by logs 57, 62, 63, 67. -/
def Obligations.EngineStatusWaitsAndCancellation : Prop :=
  ∀ (s : State) (m : BitVec 5) (a d : Reg),
    let tok := s.me.rg a
    let A := s.arch s.myCore
    let mine (eng : Nat) : List Entry := (Claims.myQueue s eng).entries.filter (fun e => e.slot == slotOf s.cur)
    (∃ w : W64, exec (.mstat a d) s = Claims.regEnd s d w 6 ∧
      (tok = 0 → A.mq.entries.length ≤ 2 → (∀ e ∈ A.mq.entries, e.slot < 8) → w.toNat / 4 % 4 = A.mq.entries.length ∧
        (∀ e r, A.mq.entries = e :: r → w.toNat / 16 % 8 = e.slot ∧ (w.toNat % 4 = 3 ↔ e.state = .paused)) ∧
        w.toNat / 2 ^ 40 % 256 = s.me.fcred.toNat ∧ w.toNat / 2 ^ 36 % 16 = A.accOfl.toNat ∧ w.toNat / 2 ^ 32 % 16 = A.accNan.toNat ∧
        (∀ k < 8, w.getLsbD (24 + k) = A.tiles.any (fun x => x.1 == k)) ∧ w.toNat / 2 ^ 48 = 0) ∧
      (∀ eng, tok.toNat = eng + 1 → eng = 1 ∨ eng = 2 → w.toNat % 256 = (s.me.faultOf eng).fcause.toNat ∧
        w.getLsbD 8 = (s.me.faultOf eng).unreported ∧ w.toNat / 2 ^ 32 = (s.me.faultOf eng).fser.toNat) ∧
      (tok = 4 → w = (s.me.faultOf 1).faddr) ∧ (tok = 5 → w = (s.me.faultOf 2).faddr) ∧ (6 ≤ tok.toNat → w = 0)) ∧
    (∀ i ∈ [Instr.ewait a d, .ecancel a d],
      2 ^ 40 ≤ tok.toNat ∨ tok.toNat / 2 ^ 32 % 8 ≠ 0 ∨ tok.toNat / 2 ^ 38 = 0 ∨ tok.toNat / 2 ^ 38 = 3 → Claims.Traps s i FORMAT tok) ∧
    (∀ (eng slot : Nat) (serial : W32), eng = 1 ∨ eng = 2 → slot < 8 → tok = Claims.token eng slot serial →
      let q := s.engine s.myCore eng (isUrgentSlot slot)
      let r := s.me.faultOf eng
      let ended : Prop := (q.ended - serial).toNat < 2 ^ 31 ∨ (q.lap = true ∧ (q.enq - q.ended).toNat < (serial - q.ended).toNat)
      let reports : Prop := slot = slotOf s.cur ∧ r.unreported = true ∧ (serial - r.fser).toNat < 2 ^ 31
      (¬ended → Claims.ParksOn s (.ewait a d) 0x0A (a.setWidth 64)) ∧
      (ended → ¬reports → exec (.ewait a d) s = Claims.regEnd s d 0 6) ∧
      (ended → reports → d ≠ 0 → ∃ t, exec (.ewait a d) s = .next t ∧ (t.me.faultOf eng).unreported = false ∧
        (t.me.rg d).toNat = r.fser.toNat * 2 ^ 32 + eng * 2 ^ 8 + r.fcause.toNat ∧ t.me.pc = s.me.pc + 4) ∧
      (ended → reports → d = 0 → twinLag s s.cur = false → ∃ u, exec (.ewait a d) s = .next (trapMe u ENGINE r.faddr) ∧
        (u.me.faultOf eng).unreported = false ∧ u.me.pc = s.me.pc) ∧
      (slot ≠ slotOf s.cur → exec (.ecancel a d) s = Claims.regEnd s d 0 6) ∧
      (slot = slotOf s.cur → Claims.NoneCancelled s s.myCore →
        let hit (e : Entry) : Bool := e.slot == slot && decide ((e.serial - serial).toNat < 2 ^ 31)
        (q.entries.any hit = false → ∃ t, exec (.ecancel a d) s = .next t ∧ t.me.rg d = 0 ∧ t.me.pc = s.me.pc + 4 ∧
          t.engine s.myCore eng (isUrgentSlot slot) = q) ∧
        (∀ e rest, q.entries = e :: rest → hit e = true → e.pipe ≠ [] → ∃ t, exec (.ecancel a d) s = .next t ∧ t.me.pc = s.me.pc ∧
          t.me.busy = some (s.cyc s.myCore + 6) ∧ (t.engine s.myCore eng (isUrgentSlot slot)).entries =
            q.entries.map (fun e => if hit e then { e with cancelled := true } else e)) ∧
        (∀ e, q.entries = [e] → hit e = true → e.pipe = [] → (match e.kind with | .copy .. => false | _ => true) = true →
          ∃ t, exec (.ecancel a d) s = .next t ∧ t.engine s.myCore eng (isUrgentSlot slot) = { q with entries := [], ended := e.serial } ∧
            (d ≠ 0 → t.me.rg d = 1) ∧ t.me.pc = s.me.pc + 4) ∧
        (∀ e0 e, q.entries = [e0, e] → hit e0 = false → hit e = true → e.pipe = [] →
          ∃ t, exec (.ecancel a d) s = .next t ∧ (t.engine s.myCore eng (isUrgentSlot slot)).entries = [e0, { e with cancelled := true }] ∧
            (d ≠ 0 → t.me.rg d = 1) ∧ t.me.pc = s.me.pc + 4))) ∧
    (m.getLsbD 4 = false → ∃ ef, exec (.efence m) s = .next (s.finish { s.me with efence := ef } 6) ∧
      ∀ src eng, m.getLsbD (src - 1) = true → m.getLsbD (eng - 1) = true → 1 ≤ src → src ≤ 4 → eng = 1 ∨ eng = 2 →
        ∀ e ∈ mine eng, (eng, e.serial) ∈ tget [] ef src) ∧
    (m.getLsbD 4 = true → (m.getLsbD 0 = true ∧ mine 1 ≠ []) ∨ (m.getLsbD 1 = true ∧ mine 2 ≠ []) → Claims.ParksOn s (.efence m) 0x0A 0) ∧
    (m.getLsbD 4 = true → (m.getLsbD 0 = true → mine 1 = []) → (m.getLsbD 1 = true → mine 2 = []) → s.me.run = none →
      Claims.NoStores s → exec (.efence m) s = .next (s.finish s.me 6))

/-- R173, R176, R178, R180, R184 and R185: the head of a matrix queue that may start does so with its start time, makes the
banks it loads invalid, or faults on its card; a PARK job holds the queue. -/
def Sys2Proof.Claims.MatrixEntriesStartInOrder : Prop :=
  ∀ (s : State) (core : Nat) (u : Bool) (e : Entry) (rest : List Entry), Claims.Head s core 1 u e rest →
    let q := s.engine core 1 u
    let starts (e' : Entry) (t : State) : Prop := exec (.matrixEntryStart core u) s = .next t ∧
      t.engine core 1 u = { q with entries := e' :: rest } ∧ t.mem = s.mem ∧ t.threads = s.threads
    let quiet : Prop := ∀ v, (s.engine core 2 v).entries = [] ∧ (v ≠ u → (s.engine core 1 v).entries = [])
    (e.state = .queued → e.unreleased = true → ∃ t, starts { e with state := .parked } t) ∧
    (Claims.MayStart s core 1 u e →
      (∀ acc, e.kind = .mzero acc → ∃ t, starts { e with state := .running, start := s.pk.array + 128 } t) ∧
      (∀ acc first n half clr dst, e.kind = .mrd acc first n half clr dst →
        ∃ t, starts { e with state := .running, start := s.pk.array + 16 + n * (if half then 1 else 2) } t) ∧
      (∀ f bank src sB, e.kind = .mldb f bank src sB → quiet →
        ∃ t, starts { e with state := .running, start := s.pk.array + 16 + tileSize f.toNat / 256 } t ∧
          ∀ b, bank ≤ b → b < bank + tileBanks f.toNat → tfind (t.arch core).tiles b = none) ∧
      (∀ ovr acc park p0 p1 p2 p3, e.kind = .job ovr acc park p0 p1 p2 p3 → quiet →
        let c := jobCard p0 p1 p2 p3
        (∀ nest, checkCard c = .ok () → Claims.NoOwnStores s core e → (lockedByte (s.arch core) (e.slot % 16) c.nbase (16 * c.levels)).isSome = false →
          readNest c (spadBytes s.mem core c.nbase (16 * c.levels), spadPoisoned s.mem core c.nbase (16 * c.levels)) = .ok nest →
          checkNest s core c nest = .ok () →
          ∃ t, starts { e with nest := nest, next := 0, state := .running, start := s.pk.array + 32 } t) ∧
        (rest = [] → u = isUrgentSlot e.slot →
          (c.fmt ∉ [5, 6, 7, 8, 10] ∨ c.levels = 0 ∨ 5 < c.levels ∨ (c.fmt ≠ 8 ∧ c.kbase ≠ 0) → ∃ t,
            exec (.matrixEntryStart core u) s = .next t ∧
              Claims.EndsFaulted s t core 1 u e FORMAT (BitVec.ofNat 64 (2 * 2 ^ 61 + c.nbase))) ∧
          (c.fmt ∈ [5, 6, 7, 8, 10] → 1 ≤ c.levels → c.levels ≤ 5 → (c.fmt = 8 ∨ c.kbase = 0) → c.nbase % 16 ≠ 0 → ∃ t,
            exec (.matrixEntryStart core u) s = .next t ∧
              Claims.EndsFaulted s t core 1 u e ALIGN (BitVec.ofNat 64 (2 * 2 ^ 61 + c.nbase))))))

/-- R177, R178, R179 and R184, R185: a step forms its products from the scratchpad row and the tile and promotes them 40 array
cycles later, the last promotion ending the job; the ends of MLDB, MZERO and MRD give their effects. -/
def Sys2Proof.Claims.MatrixWorkIsPerformed : Prop :=
  ∀ (s : State) (core : Nat) (u : Bool) (e : Entry) (rest : List Entry), Claims.Head s core 1 u e rest → Claims.NoLocks s core →
    let a := s.arch core
    let q := s.engine core 1 u
    (∀ ovr acc park p0 p1 p2 p3 tile, e.kind = .job ovr acc park p0 p1 p2 p3 → Claims.Due s core u e → Claims.NoOwnStores s core e → e.next < stepCount e.nest →
      let c := jobCard p0 p1 p2 p3
      let at_ (base : Nat) (f : NestLevel → Int) : Nat := (stepValue base f e.nest e.next).toNat
      let ao := at_ c.abase (·.astr)
      let so := at_ c.sbase (·.sstr)
      let ko := c.kbase + ao / 32
      let A (k : Nat) : Fp := elemOf c.fmt (fun i => (mread s.mem.spad (core * 2 ^ 20 + ao + i)).toNat) k
        (mread s.mem.spad (core * 2 ^ 20 + ko + k / 64)).toNat
      let B (n k : Nat) : Fp := elemOf c.fmt (fun i => (mread a.cim (8192 * tile.first + i)).toNat) (n * 128 + k)
        (mread a.cimScale (256 * tile.first + 2 * n + k / 64)).toNat
      let sA := if c.usa then 0x3F800000 else natOfBytes (spadBytes s.mem core so 4)
      let scale := fpMul f32 0 (fpDecode f32 sA) (fpDecode f32 tile.sB.toNat)
      tile.fmt.toNat = c.fmt → c.fmt ∈ [5, 6, 7, 8, 10] → tfind a.tiles (at_ c.bank0 (·.bankstr)) = some tile →
      tilePoisoned a tile = false → spadPoisoned s.mem core ao (rowBytes c.fmt) = false →
      (c.usa = false → spadPoisoned s.mem core so 4 = false) → (c.fmt = 8 → spadPoisoned s.mem core ko 2 = false) →
      ∃ t p, exec (.jobStepIssue core u) s = .next t ∧ t.engine core 1 u = { q with entries :=
          { e with next := e.next + 1, pipe := e.pipe ++ [p], start := s.pk.array + stepCycles c.fmt } :: rest } ∧
        p.at_ = s.pk.array + 40 ∧ p.row = at_ c.row0 (·.accstr) ∧ p.ovr = ovr ∧ p.vals.length = 128 ∧
        (∀ n < 128, p.vals.getD n 0 = (columnProducts c.fmt A (B n) scale.1).1) ∧ t.mem = s.mem) ∧
    (∀ ovr acc park p0 p1 p2 p3 p pipe, e.kind = .job ovr acc park p0 p1 p2 p3 → e.pipe = p :: pipe → e.fault = none → p.at_ ≤ s.pk.array →
      (s.die (dieOf core)).relock = none → p.row < 128 → acc < 4 → p.vals.length = 128 →
      let fresh := p.ovr && !e.rowsDone.contains p.row
      let half (old new : BitVec 32) : BitVec 32 :=
        if fresh then new else BitVec.ofNat 32 (fpAdd f32 0 (fpDecode f32 old.toNat) (fpDecode f32 new.toNat)).1
      fresh = true ∨ rowPoisoned a acc p.row = false →
      ∃ t, exec (.jobPromotion core u) s = .next t ∧
        (∀ n < 128, let k := acc * 16384 + p.row * 128 + n
          (tget 0 (t.arch core).acc k).setWidth 32 = half ((tget 0 a.acc k).setWidth 32) ((p.vals.getD n 0).setWidth 32) ∧
          (tget 0 (t.arch core).acc k).extractLsb' 32 32 = half ((tget 0 a.acc k).extractLsb' 32 32) ((p.vals.getD n 0).extractLsb' 32 32)) ∧
        (∀ k, k < acc * 16384 + p.row * 128 ∨ acc * 16384 + p.row * 128 + 128 ≤ k → tget 0 (t.arch core).acc k = tget 0 a.acc k) ∧
        (pipe ≠ [] → (t.engine core 1 u).entries.head?.map (·.pipe) = some pipe) ∧
        (pipe = [] → e.state = .running → e.next = stepCount e.nest → e.next ≠ 0 → Claims.EndsDone s t core 1 u e rest)) ∧
    (∀ f bank src sB, e.kind = .mldb f bank src sB → Claims.Due s core u e → Claims.NoOwnStores s core e → f.toNat ∈ [5, 6, 7, 8, 10] →
      (∀ k < tileSize f.toNat / 16, spadPoisoned s.mem core (src + 16 * k) 16 = false) →
      ∃ t, exec (.mldbEnd core u) s = .next t ∧ Claims.EndsDone s t core 1 u e rest ∧
        (∀ b, bank ≤ b → b < bank + tileBanks f.toNat → tfind (t.arch core).tiles b = some { first := bank, fmt := f, sB := sB }) ∧
        (∀ i < 8192 * tileBanks f.toNat, mread (t.arch core).cim (8192 * bank + i) = mread s.mem.spad (core * 2 ^ 20 + src + i)) ∧
        (f = 8 → ∀ i < 256, mread (t.arch core).cimScale (256 * bank + i) = mread s.mem.spad (core * 2 ^ 20 + src + 8192 + i))) ∧
    (∀ acc, e.kind = .mzero acc → Claims.Due s core u e → acc < 4 →
      ∃ t, exec (.mzeroEnd core u) s = .next t ∧ Claims.EndsDone s t core 1 u e rest ∧
        (∀ k, tget 0 (t.arch core).acc k = if k / 16384 = acc then 0 else tget 0 a.acc k) ∧
        (∀ m < 4, (t.arch core).accNan.getLsbD m = (a.accNan.getLsbD m && m != acc) ∧
          (t.arch core).accOfl.getLsbD m = (a.accOfl.getLsbD m && m != acc))) ∧
    (∀ acc first n half clr dst, e.kind = .mrd acc first n half clr dst → Claims.Due s core u e → Claims.NoOwnStores s core e →
      (∀ r < n, rowPoisoned a acc (first + r) = false) →
      let w := if half then 2 else 4
      let F := if half then b16 else f32
      ∃ t, exec (.mrdEnd core u) s = .next t ∧ Claims.EndsDone s t core 1 u e rest ∧
        (∀ r < n, ∀ j < 128,
          let p := tget 0 a.acc (acc * 16384 + (first + r) * 128 + j)
          natOfBytes (spadBytes t.mem core (dst + (r * 128 + j) * w) w) =
            (fpAdd F 0 (fpDecode f32 (p.toNat % 2 ^ 32)) (fpDecode f32 (p.toNat / 2 ^ 32))).1) ∧
        (∀ x, x < core * 2 ^ 20 + dst ∨ core * 2 ^ 20 + dst + n * 128 * w ≤ x → mread t.mem.spad x = mread s.mem.spad x) ∧
        (clr = false → (t.arch core).acc = a.acc) ∧
        (clr = true → ∀ r < n, ∀ j < 128, tget 0 (t.arch core).acc (acc * 16384 + (first + r) * 128 + j) = 0))

/-- Matrix entries start in order and perform their products, promotions and ends: the conjunction of the claims
above. What it says beyond the rules is the model's choice, by logs 59, 60. -/
def Obligations.MatrixEntriesStartAndWork : Prop :=
  Claims.MatrixEntriesStartInOrder ∧ Claims.MatrixWorkIsPerformed

/-- R181, R188 and R180: a copy moves its row in units of at most 4 KiB, ends DONE after its last row or FAULTED,
and a FOLLOW copy releases a parked job or leaves a credit; a running entry pauses for urgent work and goes on
after it. What it says beyond the rules is the model's choice, by logs 59, 61. -/
def Obligations.CopiesMoveRowsAndEntriesPause : Prop :=
  ∀ (s : State) (core : Nat) (u : Bool) (e : Entry) (rest : List Entry),
    (∀ src dst sp rows rowb dp follow so dst0, Claims.Head s core 2 u e rest → Claims.NoLocks s core → Claims.MayStart s core 2 u e →
      e.kind = .copy 0 follow src dst sp rows rowb dp → e.next = 0 → e.start = 0 → e.bobSlot = none → e.slot < 8 → 1 ≤ rows → 1 ≤ rowb → rowb ≤ 4096 →
      let t0 := s.thread (keyOf core e.slot)
      Claims.SegOk t0 src rowb rightR 2 so → Claims.SegOk t0 dst rowb rightW 2 dst0 → so + rowb ≤ 0x100000 → dst0 + rowb ≤ 0x100000 →
      so + rowb ≤ dst0 ∨ dst0 + rowb ≤ so → (∀ k, s.mem.spadPoison.contains k = false) → (s.core core).storeq = [] → t0.cmp = [] →
      ∃ t, exec (.copyRow core u .inside) s = .next t ∧
        (∀ i < rowb, mread t.mem.spad (core * 2 ^ 20 + dst0 + i) = mread s.mem.spad (core * 2 ^ 20 + so + i)) ∧
        (∀ x, x < core * 2 ^ 20 + dst0 ∨ core * 2 ^ 20 + dst0 + rowb ≤ x → mread t.mem.spad x = mread s.mem.spad x) ∧
        (t.engine core 2 u).entries = { e with state := .running, next := 1 } :: rest ∧ t.threads = s.threads) ∧
    (∀ src dst sp rows rowb dp, Claims.Head s core 2 u e rest → e.kind = .copy 0 false src dst sp rows rowb dp → e.fault = none →
      copyHead s core u = some e → rows ≤ e.next → ∃ t, exec (.copyEnd core u) s = .next t ∧ Claims.EndsDone s t core 2 u e rest) ∧
    (∀ src dst sp rows rowb dp, Claims.Head s core 2 u e rest → e.kind = .copy 0 true src dst sp rows rowb dp → e.fault = none →
      copyHead s core u = some e → rows ≤ e.next → e.slot < 8 → u = isUrgentSlot e.slot →
      ∃ t, exec (.copyEnd core u) s = .next t ∧ Claims.EndsDone s t core 2 u e rest ∧
        ((s.engine core 1 u).entries = [] →
          (t.thread (keyOf core e.slot)).fcred.toNat = min 255 ((s.thread (keyOf core e.slot)).fcred.toNat + 1)) ∧
        (∀ j, (s.engine core 1 u).entries = [j] → j.slot = e.slot → j.unreleased = true →
          (t.engine core 1 u).entries = [{ j with released := true, state := .queued }])) ∧
    (∀ cause addr src dst sp rows rowb dp, Claims.Head s core 2 u e [] → e.kind = .copy 0 false src dst sp rows rowb dp →
      e.fault = some (cause, addr) → e.page = false → u = isUrgentSlot e.slot → (s.die (dieOf core)).relock = none →
      ∃ t, exec (.copyEnd core u) s = .next t ∧ Claims.EndsFaulted s t core 2 u e cause addr) ∧
    (∀ copy : Bool, let eng := if copy then 2 else 1
      let pausing : Prop := (u = false ∧ (s.engine core eng true).entries ≠ []) ∨ ctxStopped s core = true ∨ (s.core core).migrating ≠ none
      let leaves (i : Instr) (x : EntryState) (at_ : Nat) : Prop := ∃ t, exec i s = .next t ∧ t.engine core eng u =
        { s.engine core eng u with entries := { e with state := x, start := if copy then e.start else at_ } :: rest } ∧
        t.mem = s.mem ∧ t.threads = s.threads
      Claims.Head s core eng u e rest →
      (e.state = .running → pausing → leaves (.enginePause core copy u) .paused (e.start - s.pk.array)) ∧
      (e.state = .running → ¬pausing → exec (.enginePause core copy u) s = .next s) ∧
      (e.state = .paused → ¬pausing → leaves (.engineResume core copy u) .running (e.start + s.pk.array)) ∧
      (e.state = .paused → pausing → exec (.engineResume core copy u) s = .next s))

/-! ## Groups, reeds, tagged words, bobbins, messages (R241-R266) -/

namespace Sys2Proof.Claims

/-- The acting thread's group. -/
def myGroup (s : State) (g : Nat) : Group := s.group (s.partOf s.myCore) g

/-- A thread of the same partition waits on the group's reed for a phase, with destination d. -/
def WaitsOnReed (s : State) (k g : Nat) (p : W32) (d : Reg) : Prop :=
  k ∈ s.threads.map (·.1) ∧ s.partOf (coreOf k) = s.partOf s.myCore ∧ (s.thread k).state = .parked ∧
    ∃ w a b, (s.thread k).wait = some w ∧ w.instr = .reedWait b a d ∧ w.sent = true ∧ w.reply = none ∧ w.aux = 0 ∧
      ((s.thread k).rg a).toNat = g ∧ ((s.thread k).rg b).setWidth 32 = p

/-- The reply a parked thread has received. -/
def replyOf (s : State) (k : Nat) : Option Reply := (s.thread k).wait.bind (·.reply)

/-- A member may arrive at a reed: it is a member, the group is FORMING or LIVE, and a release holds nothing back. -/
abbrev MayArrive (s : State) (a : Reg) (g : Nat) : Prop :=
  (s.me.rg a).toNat = g ∧ g ≤ 255 ∧ s.me.memberOf g = true ∧ ((myGroup s g).state = 1 ∨ (myGroup s g).state = 2) ∧
    NoReleaseWait s (myGroup s g).scope.toNat ∧
    ((myGroup s g).arrived + 1 = (myGroup s g).exp - (myGroup s g).done → ∀ c ∈ (myGroup s g).narrow, drainOpen s (c / 8) = true)

/-- A tag operation's word in the own scratchpad: byte `o`, with every check of R255 passed and nothing in the way. -/
abbrev TagWord (s : State) (a : Reg) (right o : Nat) : Prop :=
  let ea := s.me.rg a
  ea.toNat % 8 = 0 ∧ SegOk s.me ea 8 right 2 o ∧ SegOk s.me ea 8 rightT 2 o ∧ o + 8 ≤ 0x100000 ∧ Unlocked s o 8 ∧
    acquirePending s s.cur = false ∧ Quiet s o 8

/-- The word is full. -/
abbrev isFull (s : State) (o : Nat) : Prop := (s.myCore * 2 ^ 17 + o / 8) ∈ s.mem.full

/-- A bobbin within the bounds of R257. -/
abbrev BobbinOk (x : Bobbin) : Prop :=
  x.init = true ∧ 1 ≤ x.nslot ∧ 1 ≤ x.slotsz ∧ x.base + x.nslot * x.slotsz ≤ 0x100000 ∧ x.resi < x.nslot ∧ x.fili < x.nslot ∧
    x.acqi < x.nslot ∧ x.reli < x.nslot ∧ risingFrom none x.slots = true

/-- Nothing of a bobbin is about to move: no slot is committed, skipped or released. -/
abbrev Still (x : Bobbin) : Prop := ∀ y ∈ x.slots, y.2.1 ≠ .committed ∧ y.2.1 ≠ .skipped ∧ y.2.1 ≠ .released

/-- Addr(i) of R261, and the next index. -/
def slotAddr (x : Bobbin) (i : Nat) : W64 := BitVec.ofNat 64 (2 ^ 62 + x.base + i * x.slotsz)
def after (x : Bobbin) (i : Nat) : Nat := (i + 1) % x.nslot

/-- The TID of a thread of the package (R4). -/
def tidOf (s : State) (core slot : Nat) : W64 := BitVec.ofNat 64 (s.pk.pkg.toNat * 2 ^ 16 + core * 8 + slot)

/-- A live thread that a message reaches directly. -/
abbrev Reachable (s : State) (part core slot : Nat) : Prop :=
  core < 1280 ∧ slot < 8 ∧ forwardCore s s.me.kid core = core ∧ offThreads s part = [] ∧ s.partOf core = part ∧
    (s.core core).asg = true ∧ (s.thread (keyOf core slot)).state ≠ .empty ∧ (s.thread (keyOf core slot)).twt = false ∧
    (s.thread (keyOf core slot)).deferred = []

end Sys2Proof.Claims

/-- R246, R248 and R249: arrivals count once per phase, the arrival that meets the condition completes the phase and
answers its waiters, waits compare phases modulo 2^32, and a FREE or BROKEN group answers at once; REED.QRY
reads the entry. What it says beyond the rules is the model's choice, by logs 29, 107. -/
def Obligations.ReedsCountArrivalsAndPhases : Prop :=
  ∀ (s : State) (w : BitVec 2) (a b d : Reg) (g : Nat),
    let x := Claims.myGroup s g
    let reeds := [Instr.reedArr a d, .reedWait b a d, .reedSync a d]
    let here : Prop := x.hpkg = s.pk.pkg ∧ x.hcore.toNat = s.myCore
    (255 < (s.me.rg a).toNat → ∀ i ∈ Instr.reedQry w a d :: reeds, Claims.Traps s i ACCESS (s.me.rg a)) ∧
    ((s.me.rg a).toNat = g → g ≤ 255 →
      (s.me.memberOf g = false → ∀ i ∈ [Instr.reedArr a d, .reedSync a d], Claims.Traps s i ACCESS (BitVec.ofNat 64 g)) ∧
      (s.me.memberOf g = true → x.state = 0 → ∀ i ∈ reeds, exec i s = Claims.regEnd s d (BitVec.ofNat 64 (2 ^ 61)) 6) ∧
      (s.me.memberOf g = true → x.state = 3 → ∀ i ∈ reeds, exec i s = Claims.regEnd s d (BitVec.ofNat 64 (2 ^ 63)) 6) ∧
      (∃ v : W64, exec (.reedQry w a d) s = Claims.regEnd s d v 6 ∧
        (w = 0 → v.toNat / 2 ^ 62 = x.state.toNat ∧ v.toNat / 2 ^ 59 % 8 = x.scope.toNat ∧ v.toNat / 2 ^ 48 % 2 ^ 11 = x.hcore.toNat ∧
          v.toNat / 2 ^ 32 % 2 ^ 16 = x.exp.toNat ∧ v.toNat / 2 ^ 16 % 2 ^ 16 = x.joined.toNat ∧ v.toNat % 2 ^ 16 = x.done.toNat) ∧
        (w = 1 → v.toNat / 2 ^ 32 = x.phase.toNat ∧ v.toNat / 2 ^ 16 % 2 ^ 16 = x.arrived.toNat ∧ v.toNat % 2 ^ 10 = x.hpkg.toNat)) ∧
      (x.state = 1 ∨ x.state = 2 → here →
        let behind := (x.phase - (s.me.rg b).setWidth 32).toNat
        (1 ≤ behind → behind ≤ 2 ^ 31 → exec (.reedWait b a d) s =
          .next (acquireAt (s.finish (s.me.wg d (BitVec.ofNat 64 x.phase.toNat)) 6) s.myCore x.scope.toNat)) ∧
        (behind = 0 ∨ 2 ^ 31 < behind → Claims.ParksOn s (.reedWait b a d) 0x06 (BitVec.ofNat 64 g)))) ∧
    (Claims.MayArrive s a g → here →
      (tfind s.me.arrived g ≠ some x.phase →
        (x.arrived + 1 ≠ x.exp - x.done → (∃ t, exec (.reedArr a d) s = .next t ∧ (Claims.myGroup t g).phase = x.phase ∧
            (Claims.myGroup t g).arrived = x.arrived + 1 ∧ tfind t.me.arrived g = some x.phase ∧ t.me.pc = s.me.pc + 4 ∧
            (d ≠ 0 → t.me.rg d = BitVec.ofNat 64 x.phase.toNat)) ∧
          ∃ t, exec (.reedSync a d) s = .next t ∧ Claims.Parked s t (.reedSync a d) 0x06 (BitVec.ofNat 64 g) ∧
            (Claims.myGroup t g).arrived = x.arrived + 1) ∧
        (x.arrived + 1 = x.exp - x.done → x.exp ≠ x.done → ∀ i ∈ [Instr.reedArr a d, .reedSync a d], ∃ t, exec i s = .next t ∧
          (Claims.myGroup t g).phase = x.phase + 1 ∧ (Claims.myGroup t g).arrived = 0 ∧ t.me.pc = s.me.pc + 4 ∧
          (d ≠ 0 → t.me.rg d = BitVec.ofNat 64 (if i = .reedArr a d then x.phase else x.phase + 1).toNat) ∧
          ∀ k r, k ≠ s.cur → Claims.WaitsOnReed s k g x.phase r → Claims.replyOf t k =
            some { Reply.reg r (BitVec.ofNat 64 (x.phase + 1).toNat) with acquire := some x.scope })) ∧
      (tfind s.me.arrived g = some x.phase → ∃ t, exec (.reedArr a d) s = .next t ∧ Claims.myGroup t g = x ∧
        (d ≠ 0 → t.me.rg d = BitVec.ofNat 64 (2 ^ 62 + x.phase.toNat)))) ∧
    (Claims.MayArrive s a g → x.hpkg = s.pk.pkg → x.hcore.toNat ≠ s.myCore → dieReachable s (dieOf x.hcore.toNat) = true →
      tfind s.me.arrived g ≠ some x.phase → x.arrived + 1 ≠ x.exp - x.done →
      ∃ t u, exec (.reedArr a d) s = .next t ∧ Claims.Parked s t (.reedArr a d) 0x06 (BitVec.ofNat 64 g) ∧
        exec (.reedArrivalMessage (.thread s.myCore (slotOf s.cur))) t = .next u ∧ (Claims.myGroup u g).arrived = x.arrived + 1 ∧
        Claims.replyOf u s.cur = some (Reply.reg d (BitVec.ofNat 64 x.phase.toNat))) ∧
    (∀ (part : BitVec 4) (n : Byte) (tid : W64) (p : W32), let y := s.group part.toNat n.toNat
      (y.state = 1 ∨ y.state = 2) → y.hpkg = s.pk.pkg → dieReachable s (dieOf y.hcore.toNat) = true → tid.extractLsb' 16 10 ≠ s.pk.pkg →
      let told (st : Nat) : List OutMsg :=
        s.out ++ [.reply (tid.extractLsb' 16 10) tid 5 (BitVec.ofNat 64 n.toNat) (bytesOfNat 8 st)]
      let leaves (op : ReedOp) (z : Group) (out : List OutMsg) : Prop := ∃ t, exec (.reedArrivalMessage (.peer part n tid op)) s = .next t ∧
        t.group part.toNat n.toNat = z ∧ t.out = out ∧ t.threads = s.threads
      (tid ∉ y.peerIn → y.arrived + 1 ≠ y.exp - y.done →
        leaves .arr { y with arrived := y.arrived + 1, peerIn := y.peerIn ++ [tid] } (told y.phase.toNat)) ∧
      (tid ∈ y.peerIn → y.arrived + 1 ≠ y.exp - y.done → leaves .arr y (told (2 ^ 62 + y.phase.toNat))) ∧
      (p = y.phase → leaves (.wait p) { y with peerWaits := y.peerWaits ++ [(tid, p, false)] } s.out) ∧
      (1 ≤ (y.phase - p).toNat → (y.phase - p).toNat ≤ 2 ^ 31 → leaves (.wait p) y (told y.phase.toNat)))

/-- R252 and R255: tag operations on the own scratchpad act on word and tag together, wait in the owner's list where
the tag is wrong, and serve waiting operations in order; a request to another core is performed on arrival, and
again after a refusal. What it says beyond the rules is the model's choice, by log 64. -/
def Obligations.TaggedWordsFillAndEmpty : Prop :=
  ∀ (s : State) (sc : BitVec 3) (v : BitVec 1) (a b d : Reg) (o : Nat),
    let ea := s.me.rg a
    let key := s.myCore * 2 ^ 17 + o / 8
    let word := Claims.ownValue s o 8
    let list := (s.core s.myCore).tagWait
    let ends (i : Instr) (full : Bool) (g : Option W64) (m : Nat) : Prop := ∃ t, exec i s = .next t ∧ (key ∈ t.mem.full ↔ full = true) ∧
      (∀ k, k ≠ key → (k ∈ t.mem.full ↔ k ∈ s.mem.full)) ∧ (∀ x, g = some x → d ≠ 0 → t.me.rg d = x) ∧
      (∀ r, r ≠ d → t.me.rg r = s.me.rg r) ∧ Claims.ownValue t o 8 = m ∧ t.me.pc = s.me.pc + 4 ∧
      t.me.busy = some (s.cyc s.myCore + 8)
    let waits (i : Instr) : Prop := (list.length < 64 → ∃ t, exec i s = .next t ∧ Claims.Parked s t i 0x05 ea ∧
        (t.core s.myCore).tagWait = list ++ [s.cur] ∧ t.mem.full = s.mem.full) ∧
      (64 ≤ list.length → ∃ t, exec i s = .next t ∧ Claims.Parked s t i 0x05 ea ∧ (t.core s.myCore).tagWait = list ∧
        t.me.wait.map (·.aux) = some (s.cyc s.myCore + 256))
    let full : Prop := key ∈ s.mem.full
    (Claims.TagWord s a rightR o → list = [] → full →
      ends (.lde sc a d) false (some (BitVec.ofNat 64 word)) word ∧ ends (.ldf sc a d) true (some (BitVec.ofNat 64 word)) word) ∧
    (Claims.TagWord s a rightR o → ¬full → waits (.lde sc a d) ∧ waits (.ldf sc a d)) ∧
    (Claims.TagWord s a rightR o → list = [] → (full → ends (.tagr sc a d) true (some 1) word) ∧
      (¬full → ends (.tagr sc a d) false (some 0) word)) ∧
    (Claims.TagWord s a rightW o → list = [] → ends (.tagi sc a v) (v == 1) none word) ∧
    (Claims.TagWord s a rightW o → Claims.NoReleaseWait s sc.toNat → list = [] → ends (.ste sc b a) false none (s.me.rg b).toNat ∧
      (¬full → ends (.stf sc b a) true none (s.me.rg b).toNat)) ∧
    (Claims.TagWord s a rightW o → Claims.NoReleaseWait s sc.toNat → full → waits (.stf sc b a)) ∧
    (∀ k sc' a' d' w, Claims.TagWord s a rightW o → Claims.NoReleaseWait s sc.toNat → ¬full → list = [k] → k ≠ s.cur →
      (s.arch s.myCore).locks = [] → (s.thread k).state = .parked → (s.thread k).wait = some w → w.instr = .lde sc' a' d' → w.reply = none →
      tagPlace s k w.instr = .ok (s.myCore, o) →
      ∃ t, exec (.stf sc b a) s = .next t ∧ key ∉ t.mem.full ∧ (t.core s.myCore).tagWait = [] ∧
        Claims.replyOf t k = some { Reply.reg d' (s.me.rg b) with acquire := some sc' }) ∧
    (∀ i ∈ [Instr.lde sc a d, .ldf sc a d, .tagr sc a d, .stf sc b a, .ste sc b a, .tagi sc a v],
      (ea.toNat % 8 ≠ 0 → Claims.Traps s i ALIGN ea) ∧
      (ea.toNat % 8 = 0 → (s.me.seg (ea.toNat / 2 ^ 61)).attr.getLsbD rightT = false → Claims.Traps s i SEGV ea)) ∧
    (∀ core slot c x w, (s.thread (keyOf core slot)).state = .parked → (s.thread (keyOf core slot)).wait = some w → slot < 8 →
      w.kind = 0x05 → w.sent = false → w.reply = none → w.walk = false → c ≠ core → (s.arch c).locks = [] → dieReachable s (dieOf c) = true →
      (s.core c).migrating = none → tagPlace s (keyOf core slot) w.instr = .ok (c, x) →
      ∀ e, (e = Instr.tagMessage core slot ∧ w.aux = 0) ∨ (e = .tagRequestRetry core slot ∧ w.aux ≠ 0 ∧ w.aux ≤ s.cyc core) →
        (w.instr = .tagr sc a d → (s.core c).tagWait = [] → ∃ t, exec e s = .next t ∧ t.mem = s.mem ∧ Claims.replyOf t (keyOf core slot) =
          some (Reply.reg d (if c * 2 ^ 17 + x / 8 ∈ s.mem.full then 1 else 0))) ∧
        (w.instr = .lde sc a d → c * 2 ^ 17 + x / 8 ∉ s.mem.full → (s.core c).tagWait.length < 64 → ∃ t, exec e s = .next t ∧
          t.mem = s.mem ∧ (t.core c).tagWait = (s.core c).tagWait ++ [keyOf core slot] ∧ Claims.replyOf t (keyOf core slot) = none) ∧
        (w.instr = .lde sc a d → c * 2 ^ 17 + x / 8 ∉ s.mem.full → 64 ≤ (s.core c).tagWait.length → ∃ t, exec e s = .next t ∧
          t.mem = s.mem ∧ (t.core c).tagWait = (s.core c).tagWait ∧
          (t.thread (keyOf core slot)).wait.map (·.aux) = some (s.cyc core + 256)))

/-- R257, R258, R260 and R261: bobbins hand slots out and back in ring order, answer the consumer that waits, and report
status 1 or 2 without effect. -/
def Sys2Proof.Claims.BobbinsKeepRingOrder : Prop :=
  ∀ (s : State) (a b d : Reg) (n : Nat),
    let x := s.bobbin s.myCore n
    let v := s.me.rg b
    let slot := slotOf s.cur
    let gives (i : Instr) (g : W64) (p : Bobbin → Prop) : Prop := ∃ t, exec i s = .next t ∧ (d ≠ 0 → t.me.rg d = g) ∧
      t.me.pc = s.me.pc + 4 ∧ p (t.bobbin s.myCore n) ∧ t.mem = s.mem ∧ (∀ m, m ≠ n → t.bobbin s.myCore m = s.bobbin s.myCore m)
    (15 < (s.me.rg a).toNat → ∀ i ∈ [Instr.bbinit b a d, .bbres a d, .bbcom b a d, .bbacq a d, .bbrel b a d, .bbqry a d],
      Claims.Traps s i FORMAT (s.me.rg a)) ∧
    ((s.me.rg a).toNat = n → n ≤ 15 →
      (x.init = false → ∀ i ∈ [Instr.bbres a d, .bbcom b a d, .bbacq a d, .bbrel b a d], Claims.Traps s i FORMAT (s.me.rg a)) ∧
      (let base := v.toNat % 2 ^ 20
       let sz := v.toNat / 2 ^ 20 % 2 ^ 20
       let ns := v.toNat / 2 ^ 40
       let legal : Prop := base % 64 = 0 ∧ sz % 16 = 0 ∧ 0 < sz ∧ 0 < ns ∧ ns ≤ 4096 ∧ base + ns * sz ≤ 0x100000
       let inUse : Prop := (∃ y ∈ x.slots, y.2.1 = .reserved ∨ y.2.1 = .committed ∨ y.2.1 = .acquired) ∨ x.prodw ≠ [] ∨ x.consw ≠ []
       (¬legal → exec (.bbinit b a d) s = Claims.regEnd s d 1 6) ∧ (legal → inUse → exec (.bbinit b a d) s = Claims.regEnd s d 2 6) ∧
       (legal → ¬inUse → gives (.bbinit b a d) 0 (fun y => y.init = true ∧ y.abn = false ∧ y.base = base ∧ y.slotsz = sz ∧ y.nslot = ns ∧
         y.free = ns ∧ y.filled = 0 ∧ y.resi = 0 ∧ y.fili = 0 ∧ y.acqi = 0 ∧ y.reli = 0 ∧ ∀ i, (y.slot i).1 = .free))) ∧
      (x.free < 2 ^ 13 → x.filled < 2 ^ 13 → x.nslot < 2 ^ 13 → x.prodw.length < 2 ^ 8 → x.consw.length < 2 ^ 8 →
        gives (.bbqry a d) (BitVec.ofNat 64 ((if x.init then 2 ^ 63 else 0) + (if x.abn then 2 ^ 62 else 0) + x.free * 2 ^ 45 +
          x.filled * 2 ^ 32 + x.nslot * 2 ^ 16 + x.prodw.length * 2 ^ 8 + x.consw.length)) (fun y => y = x)) ∧
      (Claims.BobbinOk x →
        (0 < x.free → x.prodw = [] → gives (.bbres a d) (Claims.slotAddr x x.resi) (fun y => y.resi = Claims.after x x.resi ∧
          y.free = x.free - 1 ∧ y.slot x.resi = (.reserved, slot) ∧ ∀ i, i ≠ x.resi → y.slot i = x.slot i)) ∧
        (x.free = 0 ∨ x.prodw ≠ [] → Claims.ParksOn s (.bbres a d) 0x07 (BitVec.ofNat 64 n)) ∧
        (∀ (i : Instr) (st : BobState), (i, st) ∈ [(Instr.bbcom b a d, BobState.reserved), (.bbrel b a d, .acquired)] →
          (∀ k < x.nslot, x.slot k = (st, slot) → v ≠ Claims.slotAddr x k) → exec i s = Claims.regEnd s d 1 6) ∧
        (Claims.Still x →
          (0 < x.filled → x.consw = [] → gives (.bbacq a d) (Claims.slotAddr x x.acqi) (fun y => y.acqi = Claims.after x x.acqi ∧
            y.filled = x.filled - 1 ∧ y.slot x.acqi = (.acquired, slot) ∧ ∀ i, i ≠ x.acqi → y.slot i = x.slot i)) ∧
          (x.filled = 0 ∨ x.consw ≠ [] → Claims.ParksOn s (.bbacq a d) 0x07 (BitVec.ofNat 64 n)) ∧
          (x.prodw = [] → x.consw = [] → releaseHeld s s.cur = false → ∀ k < x.nslot, v = Claims.slotAddr x k →
            (x.slot k = (.reserved, slot) → gives (.bbcom b a d) 0 (fun y =>
              (k = x.fili → y.filled = x.filled + 1 ∧ (y.slot k).1 = .filled ∧ y.fili = Claims.after x k) ∧
              (k ≠ x.fili → y.filled = x.filled ∧ (y.slot k).1 = .committed ∧ y.fili = x.fili))) ∧
            (x.slot k = (.acquired, slot) → gives (.bbrel b a d) 0 (fun y =>
              (k = x.reli → y.free = x.free + 1 ∧ (y.slot k).1 = .free ∧ y.reli = Claims.after x k) ∧
              (k ≠ x.reli → y.free = x.free ∧ (y.slot k).1 = .released ∧ y.reli = x.reli)))) ∧
          (∀ key w a' d', x.prodw = [] → x.consw = [key] → x.filled = 0 → x.acqi = x.fili → releaseHeld s s.cur = false →
            v = Claims.slotAddr x x.fili → x.slot x.fili = (.reserved, slot) → key ≠ s.cur → (s.thread key).state = .parked →
            (s.thread key).wait = some w → w.instr = .bbacq a' d' → w.reply = none →
            ∃ t, exec (.bbcom b a d) s = .next t ∧ (t.bobbin s.myCore n).consw = [] ∧
              (t.bobbin s.myCore n).slot x.fili = (.acquired, slotOf key) ∧
              Claims.replyOf t key = some { Reply.reg d' (Claims.slotAddr x x.fili) with acquire := some 1 }))))

/-- R264 and R265: MSND gives its word and TID to a thread's inbox or its waiting MRCV, with the status of R265; MRCV takes the
oldest entry and MPOLL counts them; between cores the sender parks until the message has arrived. -/
def Sys2Proof.Claims.MessagesReachInboxesInOrder : Prop :=
  ∀ (s : State) (a b d : Reg) (core slot : Nat),
    let v := s.me.rg a
    let key := keyOf core slot
    let part := s.partOf s.myCore
    let x := s.thread key
    let mine := s.tid s.cur
    (2 ^ 26 ≤ v.toNat ∨ v.toNat / 2 ^ 14 % 4 ≠ 0 ∨ 1280 ≤ v.toNat / 8 % 2 ^ 11 → exec (.msnd b a d) s = Claims.regEnd s d 2 6) ∧
    (v = Claims.tidOf s core slot → Claims.Reachable s part core slot → Claims.NoReleaseWait s (scopeSpan s.myCore core) →
      (core = s.myCore → key ≠ s.cur →
        (x.unanswered = none → x.inbox.length < 16 → ∃ t, exec (.msnd b a d) s = .next t ∧ (d ≠ 0 → t.me.rg d = 0) ∧ t.me.pc = s.me.pc + 4 ∧
          t.thread key = { x with inbox := x.inbox ++ [(s.me.rg b, mine)] } ∧ t.mem = s.mem) ∧
        (16 ≤ x.inbox.length → exec (.msnd b a d) s = Claims.regEnd s d 1 6) ∧
        (∀ w r, x.state = .parked → x.wait = some w → w.instr = .mrcv r → w.reply = none → w.walk = false → x.inbox = [] → ∃ t, exec (.msnd b a d) s = .next t ∧
          (t.thread key).inbox = [] ∧
          Claims.replyOf t key = some { Reply.plain with g := [(r, s.me.rg b), (r + 1, mine)], acquire := some 1 })) ∧
      (core ≠ s.myCore → d ≠ 0 → x.unanswered = none → x.inbox.length < 16 → dieReachable s (dieOf core) = true →
        ∃ t u, exec (.msnd b a d) s = .next t ∧ Claims.Parked s t (.msnd b a d) 0x01 v ∧ (t.thread key).inbox = x.inbox ∧
          exec (.inboxDelivery core slot (.sender s.myCore (slotOf s.cur))) t = .next u ∧
          (u.thread key).inbox = x.inbox ++ [(s.me.rg b, mine)] ∧ Claims.replyOf u s.cur = some (Reply.reg d 0)) ∧
      (core ≠ s.myCore → d = 0 → Claims.CanStore s → ∃ t e, exec (.msnd b a d) s = .next t ∧
        (t.core s.myCore).storeq = (s.core s.myCore).storeq ++ [e] ∧ e.place = .inbox key ∧ e.op = .message ∧
        e.bytes = bytesOfNat 8 (s.me.rg b).toNat ∧ t.me.pc = s.me.pc + 4)) ∧
    (core < 1280 → slot < 8 → core = s.myCore → v = Claims.tidOf s core slot → forwardCore s s.me.kid core = core →
      offThreads s part = [] → x.twt = false → x.state = .empty → releaseHeld s s.cur = false →
      exec (.msnd b a d) s = Claims.regEnd s d 2 6) ∧
    (∀ w tid rest, s.me.inbox = (w, tid) :: rest → s.links.replies = [] → d ≠ 0 → d.toNat % 2 = 0 → ∃ t, exec (.mrcv d) s = .next t ∧
      t.me.rg d = w ∧ t.me.rg (d + 1) = tid ∧ t.me.inbox = rest ∧ t.me.pc = s.me.pc + 4 ∧ (∀ r, r ≠ d → r ≠ d + 1 → t.me.rg r = s.me.rg r)) ∧
    (s.me.inbox = [] → Claims.ParksOn s (.mrcv d) 0x0B 0) ∧
    exec (.mpoll d) s = Claims.regEnd s d (BitVec.ofNat 64 (s.me.inbox.length + s.me.deferred.length)) 6 ∧
    (∀ (p : BitVec 4) (word tid : W64), Claims.Reachable s p.toNat core slot → x.unanswered = none → x.inbox.length < 16 →
      ∃ t, exec (.inboxDelivery core slot (.peer p word tid none)) s = .next t ∧
        t.thread key = { x with inbox := x.inbox ++ [(word, tid)] } ∧ t.mem = s.mem)

/-- Bobbins hand out slots in ring order and messages reach inboxes in order: the conjunction of the claims above.
What it says beyond the rules is the model's choice, by logs 65, 66. -/
def Obligations.BobbinsAndMessagesKeepOrder : Prop :=
  Claims.BobbinsKeepRingOrder ∧ Claims.MessagesReachInboxesInOrder

/-! ## Control and status registers, traps and the return from them (R58-R64, R76, R77, R102-R106, R297, R403) -/

namespace Sys2Proof.Claims

/-- The CSRs of a thread that no instruction writes: number and value (R4, R76, R106, R203). -/
def readOnlyCsrs : List (BitVec 12 × (State → W64)) :=
  let t (s : State) : Thread := s.me
  [(0x000, fun s => BitVec.ofNat 64 (s.pk.pkg.toNat * 2 ^ 16 + s.cur)), (0x001, fun s => (t s).kid),
   (0x002, fun s => ((t s).gmOf 0).setWidth 64), (0x003, fun s => ((t s).gmOf 1).setWidth 64),
   (0x004, fun s => ((t s).gmOf 2).setWidth 64), (0x005, fun s => ((t s).gmOf 3).setWidth 64),
   (0x020, fun s => BitVec.ofNat 64 (s.cyc s.myCore)), (0x021, fun s => BitVec.ofNat 64 s.pk.tim),
   (0x022, fun s => (s.die (dieOf s.myCore)).stepn), (0x030, fun s => (t s).skst), (0x032, fun s => (t s).fenst),
   (0x033, fun s => (t s).mcstat), (0x034, fun s => 0#32 ++ (s.core s.myCore).l2die ++ (s.core s.myCore).l2slice)]

/-- The RW CSRs of a thread: number, value read, and the thread after a write (R76, R137, R385). -/
def writableCsrs : List (BitVec 12 × (Thread → W64) × (Thread → W64 → Thread)) :=
  [(0x010, fun t => t.fcsr.setWidth 64, fun t v => { t with fcsr := fcsrWrite t.fcsr v }),
   (0x011, fun t => t.fqlo.setWidth 64, fun t v => { t with fqlo := v.setWidth 32 }),
   (0x012, fun t => t.fqhi.setWidth 64, fun t v => { t with fqhi := v.setWidth 32 }),
   (0x013, fun t => t.wscb.setWidth 64, fun t v => { t with wscb := v.setWidth 20 }),
   (0x014, fun t => t.wlim, fun t v => { t with wlim := v }),
   (0x016, fun t => t.itcur, fun t v => { t with itcur := v }), (0x017, fun t => t.itend, fun t v => { t with itend := v }),
   (0x018, fun t => t.itdsc, fun t v => { t with itdsc := v }),
   (0x031, fun t => t.shst, fun t v => { t with shst := v &&& 0xFFFFFF00FFFF7FFF })]

/-- The registers of a core, 0x100 to 0x106: number, value, and the core after a write where it has RW fields. -/
def coreCsrs : List (BitVec 12 × (CoreArch → W64) × Option (CoreArch → W64 → CoreArch)) :=
  [(0x100, fun x => x.epc, some (fun x v => { x with epc := v &&& ~~~3#64 })), (0x101, fun x => x.ecause, none),
   (0x102, fun x => x.eval, none), (0x103, fun x => x.eslot.setWidth 64, none), (0x104, fun x => x.eseq, none),
   (0x105, fun x => x.evec, some (fun x v => { x with evec := v &&& ~~~3#64 })),
   (0x106, fun x => x.lockmax.setWidth 64, some (fun x v => { x with lockmax := BitVec.ofNat 32 (max 256 (v.toNat % 2 ^ 32)) }))]

/-- The registers of a partition: number, value, and the partition after a write (R403). -/
def partCsrs : List (BitVec 12 × (Partition → W64) × (Partition → W64 → Partition)) :=
  [(0x202, (·.proot), fun p v => { p with proot := v &&& 0xFFFFFFF001 }),
   (0x204, (·.codeb), fun p v => { p with codeb := BitVec.ofNat 64 (v.toNat % 2 ^ 47) }),
   (0x205, (·.codel), fun p v => { p with codel := BitVec.ofNat 64 (v.toNat % 2 ^ 47) }),
   (0x206, (·.skt), fun p v => { p with skt := BitVec.ofNat 64 (v.toNat % 2 ^ 47) }),
   (0x207, (·.pubt), fun p v => { p with pubt := BitVec.ofNat 64 (v.toNat % 2 ^ 47) }),
   (0x208, (·.htb), fun p v => { p with htb := BitVec.ofNat 64 (v.toNat % 2 ^ 47) })]

/-- The four accesses of a CSR. -/
noncomputable def accesses (n : BitVec 12) (a d : Reg) : List Instr := [.csrr n d, .csrw n a d, .csrs n a d, .csrc n a d]
/-- Those that write, each with the value it writes from the old one and g_a. -/
noncomputable def writesOf (n : BitVec 12) (a d : Reg) : List (Instr × (W64 → W64 → W64)) :=
  [(.csrw n a d, fun _ v => v), (.csrs n a d, fun x v => x ||| v), (.csrc n a d, fun x v => x &&& ~~~v)]

/-- A thread with no unit, partner, group or kernel record that its end would touch: the effects of R78, R307 and R311 on those
are none. -/
abbrev Lone (s : State) (core slot : Nat) : Prop :=
  let t := s.thread (keyOf core slot)
  core < 1280 ∧ slot < 7 ∧ t.state ≠ .empty ∧ t.killed = none ∧ t.twl = false ∧ t.twt = false ∧ t.gm = [] ∧ t.bound = false ∧
    (s.arch core).locks = [] ∧ (s.arch core).lockq = [] ∧ (s.arch core).bobbins = [] ∧ EnginesIdle s core ∧
    ∀ f ∈ follower (keyOf core slot), (s.thread f).state ≠ .following ∧ (s.thread f).state ≠ .parked

/-- Slot 7 waits on its trap queue. -/
abbrev HandlerIdle (s : State) (core : Nat) : Prop := (s.thread (keyOf core 7)).state = .parked ∧ (s.thread (keyOf core 7)).wait = none

end Sys2Proof.Claims

/-- R76, R103, R105 and R137: a CSR access reads the old value into g_d and writes the RW fields, CSRS by OR and
CSRC by AND NOT; a write to a register without RW fields and an unassigned number trap ILLOP, and a number above
the thread's mode PRIV. What it says beyond the rules is the model's choice, by log 9. -/
def Obligations.CsrAccessesReadAndWriteOnce : Prop :=
  ∀ (s : State) (n : BitVec 12) (a d : Reg),
    let v := s.me.rg a
    (modeOf s.cur < (if n.toNat < 0x100 then 0 else if n.toNat < 0x200 then 1 else 2) →
      ∀ i ∈ Claims.accesses n a d, Claims.Traps s i PRIV s.me.pc) ∧
    (s.me.run = none →
      (∀ r ∈ Claims.readOnlyCsrs, exec (.csrr r.1 d) s = Claims.regEnd s d (r.2 s) 6 ∧
        ∀ w ∈ Claims.writesOf r.1 a d, Claims.Traps s w.1 ILLOP s.me.pc) ∧
      (∀ r ∈ Claims.writableCsrs, exec (.csrr r.1 d) s = Claims.regEnd s d (r.2.1 s.me) 6 ∧
        ∀ w ∈ Claims.writesOf r.1 a d, exec w.1 s = Claims.regEnd (s.setMe (r.2.2 s.me (w.2 (r.2.1 s.me) v))) d (r.2.1 s.me) 6) ∧
      (∃ x : W64, exec (.csrr 0x015 d) s = Claims.regEnd s d x 6 ∧ x.getLsbD 0 = s.me.ck ∧ x.getLsbD 1 = s.me.twl ∧
        x.getLsbD 2 = s.me.twt ∧ x.getLsbD 3 = (s.me.state == .following) ∧ x.getLsbD 4 = s.me.det ∧ x.getLsbD 5 = s.me.wakef ∧
        x.getLsbD 6 = s.me.pse ∧ x.getLsbD 7 = s.me.lkx ∧ x.toNat / 2 ^ 9 % 4 = modeOf s.cur ∧ x.toNat / 2 ^ 16 = s.me.ckmiss.toNat ∧
        exec (.csrw 0x015 a d) s = Claims.regEnd (s.setMe { s.me with
          ck := v.getLsbD 0, lkx := v.getLsbD 7, ckmiss := BitVec.ofNat 8 (v.toNat / 2 ^ 16) }) d x 6)) ∧
    (n.toNat < 0x100 → (∀ r ∈ Claims.readOnlyCsrs, r.1 ≠ n) → (∀ r ∈ Claims.writableCsrs, r.1 ≠ n) → n ≠ 0x015 →
      ∀ i ∈ Claims.accesses n a d, Claims.Traps s i ILLOP s.me.pc) ∧
    (1 ≤ modeOf s.cur → ∀ r ∈ Claims.coreCsrs, let x := s.arch s.myCore
      exec (.csrr r.1 d) s = Claims.regEnd s d (r.2.1 x) 6 ∧
      (r.2.2 = none → ∀ w ∈ Claims.writesOf r.1 a d, Claims.Traps s w.1 ILLOP s.me.pc) ∧
      (∀ f, r.2.2 = some f → ∀ w ∈ Claims.writesOf r.1 a d,
        exec w.1 s = Claims.regEnd (s.setArch s.myCore (f x (w.2 (r.2.1 x) v))) d (r.2.1 x) 6)) ∧
    (∀ k < 16, ∀ old : BitVec 16, (fcsrWrite old v).getLsbD k =
      if k < 7 ∨ k = 11 ∨ k = 12 then v.getLsbD k else if k < 11 then false
      else if 5 ≤ v.toNat / 2 ^ 13 % 8 then old.getLsbD k else v.getLsbD k)

/-- R77 and R403: in a handler invocation slot 7 reads and writes the trapped slot's registers; the M-mode registers of a
partition stand at the index in MIDX, an index out of range reading 0 and ignoring writes, and a register written from outside
a thread takes the same fields. -/
def Sys2Proof.Claims.ViewsAndMachineRegisters : Prop :=
  ∀ (s : State) (r : Reg) (j : BitVec 3) (a d : Reg), s.me.run = none →
    let v := s.me.rg a
    let key := keyOf s.myCore (s.arch s.myCore).eslot.toNat
    let t := s.thread key
    let number (b k : Nat) : BitVec 12 := BitVec.ofNat 12 (b + k)
    (1 ≤ modeOf s.cur → slotOf s.cur = 7 → (s.arch s.myCore).serving ≠ none → key ≠ s.cur →
      exec (.csrr (number 0x140 r.toNat) d) s = Claims.regEnd s d (t.rg r) 6 ∧
      exec (.csrr (number 0x160 (2 * r.toNat)) d) s = Claims.regEnd s d (BitVec.ofNat 64 (t.rf r).toNat) 6 ∧
      exec (.csrr (number 0x160 (2 * r.toNat + 1)) d) s = Claims.regEnd s d (BitVec.ofNat 64 ((t.rf r).toNat / 2 ^ 64)) 6 ∧
      (j.toNat < 5 → exec (.csrr (number 0x1C0 j.toNat) d) s = Claims.regEnd s d (tget 0 t.ix j.toNat) 6) ∧
      exec (.csrr 0x1B4 d) s = Claims.regEnd s d t.wlim 6 ∧
      exec (.csrw (number 0x140 r.toNat) a d) s = Claims.regEnd (s.setThread key (t.wg r v)) d (t.rg r) 6 ∧
      (∃ x, exec (.csrw (number 0x160 (2 * r.toNat)) a d) s = .next x ∧
        (x.thread key).rf r = BitVec.ofNat 128 ((t.rf r).toNat / 2 ^ 64 * 2 ^ 64 + v.toNat)) ∧
      (j.toNat < 5 → ∃ x, exec (.csrw (number 0x1C0 j.toNat) a d) s = .next x ∧ tget 0 (x.thread key).ix j.toNat = v)) ∧
    (1 ≤ modeOf s.cur → slotOf s.cur ≠ 7 ∨ (s.arch s.myCore).serving = none →
      ∀ i ∈ Claims.accesses (number 0x140 r.toNat) a d, Claims.Traps s i ILLOP s.me.pc) ∧
    (modeOf s.cur = 2 →
      let die := dieOf s.myCore
      let idx := (s.die die).midx.toNat
      exec (.csrr 0x200 d) s = Claims.regEnd s d ((s.die die).midx.setWidth 64) 6 ∧
      exec (.csrw 0x200 a d) s =
        Claims.regEnd (s.setDie die { s.die die with midx := v.setWidth 16 }) d ((s.die die).midx.setWidth 64) 6 ∧
      ∀ x ∈ Claims.partCsrs,
        (idx < 16 → exec (.csrr x.1 d) s = Claims.regEnd s d (x.2.1 (s.part idx)) 6 ∧
          exec (.csrw x.1 a d) s = Claims.regEnd (s.setPart idx (x.2.2 (s.part idx) v)) d (x.2.1 (s.part idx)) 6) ∧
        (16 ≤ idx → exec (.csrr x.1 d) s = Claims.regEnd s d 0 6 ∧ exec (.csrw x.1 a d) s = Claims.regEnd s d 0 6)) ∧
    (∀ (die : BitVec 2) (idx : BitVec 16), ∀ x ∈ Claims.partCsrs, idx.toNat < 16 →
      exec (.registerWrite (.mcsr die x.1 idx) v) s = .next (s.setPart idx.toNat (x.2.2 (s.part idx.toNat) v))) ∧
    (∀ fn, fn ≤ 16 → exec (.registerWrite (.wbase fn) v) s =
      .next { s with host := { s.host with wbase := tput s.host.wbase fn (BitVec.ofNat 64 (v.toNat % 2 ^ 47 / 2 ^ 30 * 2 ^ 30)) } })

/-- R58, R61, R64: a trap stops the slot with nothing of its instruction done and queues its record; one of slot 7 escalates to
the die's service core. TRAP raises SWTRAP with g_a; words that are no instruction, or privileged ones below their mode, raise
ILLOP and PRIV with the failing word's address, and a fetch outside sg0 SEGV. -/
def Sys2Proof.Claims.TrapsStopTheSlotAndQueue : Prop :=
  ∀ (s : State) (a : Reg) (w : W32) (n : Nat) (cause : Byte) (eval : W64),
    (slotOf s.cur ≠ 7 → s.me.twl = false → s.me.twt = false →
      let t := trapMe s cause eval
      t.me.state = .trapped ∧ t.me.pc = s.me.pc ∧ t.me.g = s.me.g ∧ t.me.f = s.me.f ∧ t.me.wait = none ∧ t.me.busy = none ∧
        (t.arch s.myCore).trapq = (s.arch s.myCore).trapq ++
          [{ slot := slotOf s.cur, epc := s.me.pc, cause := cause, wkind := 0, eval := eval, seq := none, twin := false }] ∧
        t.mem = s.mem ∧ (slotOf s.cur ≠ 6 → ∀ k, k ≠ s.cur → t.thread k = s.thread k)) ∧
    (slotOf s.cur ≠ 7 → Claims.Traps s (.trap a) SWTRAP (s.me.rg a)) ∧
    (slotOf s.cur = 7 → (s.die (dieOf s.myCore)).events.length < 4096 → ∃ t r, exec (.trap a) s = .next t ∧ t.me.state = .trapped ∧
      (t.arch s.myCore).escalated = true ∧ (t.arch s.myCore).eval = s.me.rg a ∧ t.me.g = s.me.g ∧
      (t.die (dieOf s.myCore)).events = (s.die (dieOf s.myCore)).events ++ [r] ∧ r.w0.toNat % 256 = 3 ∧
      r.w0.toNat / 2 ^ 48 % 256 = 0x13 ∧ r.w0.toNat / 2 ^ 32 % 2 ^ 16 = s.myCore % 2 ^ 16) ∧
    (∀ priv, Claims.Traps s (.notAnInstruction w priv n) (if priv then PRIV else ILLOP) (s.me.pc + BitVec.ofNat 64 (4 * n))) ∧
    Claims.Traps s .fetchSegmentFault SEGV s.me.pc

/-- R59, R60, R61, R62, R63, R78 and R230: an idle slot 7 takes the oldest trap record, once its slot's stores are accepted, into its
trap registers and starts at EVEC; ERET, once its own stores are, lets the trapped slot go on at EPC with its deferred messages, or
with its instruction in flight, KILL scrubs it, and both park slot 7 and load a waiting HEVEC;
without an invocation they trap ILLOP, and in U mode PRIV. Treadle's ESCAL commands end an escalation. -/
def Sys2Proof.Claims.HandlersRunAndReturn : Prop :=
  ∀ (s : State) (core : Nat),
    let x := s.arch core
    (∀ r rest, x.trapq = r :: rest → x.serving = none → x.escalated = false → Claims.HandlerIdle s core →
      slotStores s core r.slot = false → (s.thread (keyOf core 7)).pse = false → ∃ t, exec (.handlerStart core) s = .next t ∧ (t.thread (keyOf core 7)).state = .ready ∧
        (t.thread (keyOf core 7)).pc = x.evec ∧ t.arch core = { x with
          trapq := rest, serving := some r, eslot := BitVec.ofNat 3 r.slot, epc := r.epc &&& ~~~3#64, ecause := r.ecause, eval := r.eval, eseq := r.eseq } ∧ t.mem = s.mem ∧
        r.ecause.toNat % 256 = r.cause.toNat ∧ r.ecause.toNat / 2 ^ 8 % 256 = r.wkind.toNat ∧
        r.ecause.getLsbD 17 = r.twin ∧ r.ecause.getLsbD 16 = r.seq.isSome ∧ ∀ k, k ≠ keyOf core 7 → t.thread k = s.thread k) ∧
    (∀ i ∈ [Instr.eret, .kill], (modeOf s.cur = 0 → Claims.Traps s i PRIV s.me.pc) ∧
      (1 ≤ modeOf s.cur → slotOf s.cur ≠ 7 ∨ (s.arch s.myCore).serving = none → Claims.Traps s i ILLOP s.me.pc)) ∧
    (∀ r, s.myCore = core → slotOf s.cur = 7 → 1 ≤ modeOf s.cur → x.serving = some r → r.slot < 7 →
      let key := keyOf core r.slot
      let u := s.thread key
      let idle (t : State) : Prop := t.me.state = .parked ∧ t.me.wait = none ∧ (t.arch core).serving = none ∧
        (t.arch core).evec = ((s.core core).hevecPend).getD x.evec ∧ (t.core core).hevecPend = none
      (releaseHeld s s.cur = true → exec .eret s = .next s) ∧
      (releaseHeld s s.cur = false → u.state = .trapped → r.twin = false → ∀ w, u.wait = some w → w.reply = none → u.deferred = [] →
        ∃ t, exec .eret s = .next t ∧ idle t ∧ (t.thread key).pc = x.epc ∧ (t.thread key).state = .parked ∧ (t.thread key).wait = some w) ∧
      (releaseHeld s s.cur = false → u.state = .trapped → u.wait = none → (∀ m ∈ u.deferred, m.reply = none ∧ m.kind ≠ 6) → r.twin = false →
        ∃ t, exec .eret s = .next t ∧ idle t ∧ (t.thread key).pc = x.epc ∧
        (r.slot ≠ 6 → (t.thread key).state = if u.pse then .paused else .ready) ∧ (t.thread key).g = u.g ∧ (t.thread key).f = u.f ∧
        (t.thread key).inbox = u.inbox ++ u.deferred.map (fun m => (m.word, m.tid)) ∧ (t.thread key).deferred = [] ∧ t.mem = s.mem) ∧
      (Claims.Lone s core r.slot → ∃ t, exec .kill s = .next t ∧ idle t ∧ (t.thread key).state = .parked ∧
        (t.thread key).killed = some r.cause ∧ (t.thread key).wait = none ∧ (t.thread key).inbox = [] ∧ (t.thread key).deferred = [])) ∧
    (∀ r, x.serving = some r → Claims.Lone s core r.slot → ∃ t, exec (.escalKillServed core) s = .next t ∧
      (t.thread (keyOf core r.slot)).killed = some r.cause ∧ (t.thread (keyOf core r.slot)).state = .parked ∧
      (t.arch core).escalated = false ∧ (t.arch core).serving = none ∧ (t.thread (keyOf core 7)).state = .parked) ∧
    (∀ j r, Claims.Lone s core j → (∀ k < 7, k ≠ j → (s.thread (keyOf core k)).state = .empty ∧ (s.thread (keyOf core k)).twt = false) →
      x.serving = some r → r.slot = j →
      ∃ t, exec (.escalKillAll core) s = .next t ∧ (t.thread (keyOf core j)).killed = some r.cause ∧ (t.arch core).escalated = false ∧
        (t.arch core).serving = none ∧ (t.thread (keyOf core 7)).state = .parked)

/-- A trap stops its slot and queues its record, and slot 7 serves and returns from it: the conjunction of the
claims above. What it says beyond the rules is the model's choice, by logs 34, 36, 50, 56. -/
def Obligations.TrapsReachTheirHandler : Prop :=
  Claims.TrapsStopTheSlotAndQueue ∧ Claims.HandlersRunAndReturn

/-- R400, R348 and R403: a read of EVPOP or PGPOP gives the next of the four words of the oldest record, the fourth taking the
record off its ring, and 0 from an empty ring; a write to EVSTAT clears the count of dropped records. -/
def Sys2Proof.Claims.RingsGiveRecordsWordByWord : Prop :=
  ∀ (s : State) (die : BitVec 2) (v : W64),
    let x := s.die die.toNat
    let gives (i : Instr) (w : W64) (y : Die) : Prop := ∃ t, exec i s = .next t ∧ t.out = s.out ++ [.popped die w] ∧
      t.die die.toNat = y ∧ t.mem = s.mem ∧ t.threads = s.threads
    (∀ r rest, x.events = r :: rest → x.evRead ≤ 3 →
      let w := [r.w0, r.stim, r.data0, r.data1].getD x.evRead 0
      gives (.evpop die) w (if x.evRead = 3 then { x with events := rest, evRead := 0 } else { x with evRead := x.evRead + 1 })) ∧
    (x.events = [] → ∃ t, exec (.evpop die) s = .next t ∧ t.out = s.out ++ [.popped die 0] ∧ t.dies = s.dies) ∧
    (∀ r rest, x.pagers = r :: rest → r.listed = true → x.pgRead ≤ 3 → r.clu < 324 → ∃ w, gives (.pgpop die) w
        (if x.pgRead = 3 then { x with pagers := { r with listed := false } :: rest, pgRead := 0 } else { x with pgRead := x.pgRead + 1 }) ∧
      (x.pgRead = 0 → w = BitVec.ofNat 64 r.dva) ∧ (x.pgRead = 1 → w.toNat % 2 ^ 32 = r.rid.toNat ∧ w.toNat / 2 ^ 32 % 2 ^ 16 = r.clu ∧
        w.toNat / 2 ^ 48 % 2 ^ 8 = r.part.toNat ∧ w.toNat / 2 ^ 56 = r.kind.toNat) ∧
      (x.pgRead = 2 → w.toNat = r.src.toNat * 2 ^ 8 + r.acc.toNat) ∧ (x.pgRead = 3 → w = 0)) ∧
    (x.pagers.find? (·.listed) = none → ∃ t, exec (.pgpop die) s = .next t ∧ t.out = s.out ++ [.popped die 0] ∧ t.dies = s.dies) ∧
    exec (.evstatClear die v) s = .next (s.setDie die.toNat { x with evovf := 0 })

/-- Slot 7 sees the trapped slot, machine registers stand at their index, and rings give records by words: the
conjunction of the claims above. What it says beyond the rules is the model's choice, by logs 6, 9, 10, 49. -/
def Obligations.ViewsMachineRegistersAndRings : Prop :=
  Claims.ViewsAndMachineRegisters ∧ Claims.RingsGiveRecordsWordByWord

/-! ## Thread control, waits, nests, locks, remote accesses (R50-R57, R65-R86, R196-R205) -/

namespace Sys2Proof.Claims

/-- No thread follows this one, or waits to. -/
abbrev NoFollower (s : State) (key : Nat) : Prop := ∀ f ∈ follower key, (s.thread f).state ≠ .following ∧ (s.thread f).state ≠ .parked

/-- A live thread outside a twin pair is parked at its pc on a wait that nothing has answered; its request is made. -/
abbrev WaitsFor (s : State) (key : Nat) (w : Wait) : Prop :=
  (s.thread key).state = .parked ∧ (s.thread key).wait = some w ∧ w.reply = none ∧ w.walk = false ∧ w.at_ = none ∧
    (s.thread key).twl = false ∧ (s.thread key).twt = false

/-- The context of a core is live. -/
abbrev ContextLive (s : State) (core : Nat) : Prop := ctxStopped s core = false ∧ (s.core core).migrating = none

/-- The slot is trapped, and its record stands last in its core's trap queue. -/
def TrapQueued (s t : State) (core slot : Nat) (cause wkind : Byte) (eval : W64) : Prop :=
  (t.thread (keyOf core slot)).state = .trapped ∧ (t.thread (keyOf core slot)).wait = none ∧
    (t.thread (keyOf core slot)).pc = (s.thread (keyOf core slot)).pc ∧ (t.thread (keyOf core slot)).g = (s.thread (keyOf core slot)).g ∧
    (t.arch core).trapq = (s.arch core).trapq ++ [{
      slot := slot, epc := (s.thread (keyOf core slot)).pc, cause := cause, wkind := wkind, eval := eval, seq := none, twin := false }]

/-- The thread may follow the same slot of the core before it (R70). -/
abbrev MayFollow (s : State) (p : Nat) : Prop :=
  predecessor s.cur = some p ∧ s.me.twl = false ∧ s.me.twt = false ∧ (s.thread p).twl = false ∧ (s.thread p).twt = false ∧
    (s.thread p).state ≠ .empty ∧ (s.thread p).bound = true ∧ s.me.bound = true ∧ (s.thread p).kid = s.me.kid

/-- A global range of a thread, and the physical address it translates to for an access mask. -/
abbrev GlobalAt (s : State) (key : Nat) (ea : W64) (n right acc o pa : Nat) (leaf : W64) : Prop :=
  SegOk (s.thread key) ea n right 1 o ∧
    translate s (clusterOf (coreOf key)) (s.partOf (coreOf key)) o acc ea = .ok (s, leaf, pa) ∧ leafCls leaf ≠ 4

/-- The cluster holds no copy and has no write-back under way. -/
abbrev NoCopies (s : State) (clu : Nat) : Prop := (s.cluster clu).staging = [] ∧ (s.cluster clu).wb = []

/-- A little-endian field of memory. -/
def field (s : State) (pa o n : Nat) : Nat := natOfBytes (mreadN s.mem.ram (pa + o) n)

/-- The fields of a nest descriptor (R74). -/
def bound (s : State) (pa i : Nat) : Nat := field s pa (16 + 4 * i) 4
def product (s : State) (pa k : Nat) : Nat := ((List.range k).map (bound s pa)).prod

/-- A descriptor that a thread may use, at physical address `pa`. -/
abbrev NestAt (s : State) (key : Nat) (dsc : W64) (o pa : Nat) (leaf : W64) : Prop :=
  dsc.toNat % 64 = 0 ∧ o % 4096 ≤ 4032 ∧ GlobalAt s key dsc 64 rightR 7 o pa leaf ∧
    dieReachable s (dieOf (homeOf s (s.partOf (coreOf key)) o pa leaf)) = true ∧ SegOk (s.thread key) dsc 64 rightW 1 o ∧
    SegOk (s.thread key) dsc 64 rightA 1 o ∧ anyPoison s.mem.ramPoison pa 64 = false ∧ NoCopies s (clusterOf (coreOf key))

/-- The range an SPLK names, rounded out to lines: byte and length in the own scratchpad. -/
abbrev SplRange (s : State) (a : Reg) (len o : Nat) : Prop :=
  let ea := s.me.rg a
  let g := s.me.seg (ea.toNat / 2 ^ 61)
  g.attr.toNat / 256 = 2 ∧ ea.toNat % 2 ^ 61 + len ≤ g.lim.toNat ∧ o = g.base.toNat + ea.toNat % 2 ^ 61 ∧ o + len ≤ 0x100000 ∧ 0 < len

end Sys2Proof.Claims

/-- R78, R79: YIELD gives up a turn; SLEEP ends at once on a wake flag and parks otherwise, with its own timeout; WAKE wakes a
sleeping thread of the partition or leaves it a flag, with the statuses of R79. -/
def Sys2Proof.Claims.ThreadsYieldSleepAndWake : Prop :=
  ∀ (s : State) (a d : Reg),
    let v := s.me.rg a
    exec (.yield) s = .next (s.finish { s.me with yielded := true } 6) ∧
    (s.me.wakef = true → ∃ t, exec (.sleep a d) s = .next t ∧ t.me.wakef = false ∧ t.me.wakeSc = 0 ∧ (d ≠ 0 → t.me.rg d = 0) ∧ t.me.pc = s.me.pc + 4 ∧
      t.me.busy = some (s.cyc s.myCore + 6)) ∧
    (s.me.wakef = false → ∃ t w, exec (.sleep a d) s = .next t ∧ Claims.Parked s t (.sleep a d) 0x0E 0 ∧ t.me.wait = some w ∧
      (v = 0 → w.aux = 0 ∧ w.deadline = if s.me.wlim = 0 then none else some (s.pk.tim + s.me.wlim.toNat)) ∧
      (v ≠ 0 → w.aux = s.pk.tim + v.toNat ∧ w.deadline = none)) ∧
    (∀ core slot w a' d', (s.thread (keyOf core slot)).wait = some w → (s.thread (keyOf core slot)).state = .parked → w.reply = none →
      w.instr = .sleep a' d' → w.aux ≠ 0 → w.aux ≤ s.pk.tim →
      ∃ t, exec (.sleepTimeout core slot) s = .next t ∧ Claims.replyOf t (keyOf core slot) = some (Reply.reg d' 1)) ∧
    (2 ^ 26 ≤ v.toNat ∨ v.toNat / 2 ^ 14 % 4 ≠ 0 ∨ v.toNat / 2 ^ 16 % 2 ^ 10 ≠ s.pk.pkg.toNat ∨ 1280 ≤ v.toNat / 8 % 2 ^ 11 →
      exec (.wake a d) s = Claims.regEnd s d 3 6) ∧
    (∀ core slot, core < 1280 → slot < 8 → v = Claims.tidOf s core slot →
      let c := forwardCore s s.me.kid core
      let key := keyOf c slot
      ((s.thread key).state = .empty → exec (.wake a d) s = Claims.regEnd s d 1 6) ∧
      ((s.thread key).state ≠ .empty → s.partOf c ≠ s.partOf s.myCore → exec (.wake a d) s = Claims.regEnd s d 2 6) ∧
      let sc := scopeSpan s.myCore c
      ((s.thread key).state ≠ .empty → s.partOf c = s.partOf s.myCore → Claims.NoReleaseWait s sc → key ≠ s.cur →
        ((s.thread key).state ≠ .parked → ∃ t, exec (.wake a d) s = .next t ∧ t.thread key = { s.thread key with
            wakef := true, wakeSc := if (s.thread key).wakeSc.toNat < sc then BitVec.ofNat 3 sc else (s.thread key).wakeSc } ∧
          (d ≠ 0 → t.me.rg d = 0) ∧ t.me.pc = s.me.pc + 4) ∧
        (∀ w a' d', Claims.WaitsFor s key w → w.kind = 0x0E → w.instr = .sleep a' d' → ∃ t, exec (.wake a d) s = .next t ∧
          Claims.replyOf t key = some { Reply.reg d' 0 with acquire := some (BitVec.ofNat 3 sc) } ∧ (d ≠ 0 → t.me.rg d = 0) ∧ t.me.pc = s.me.pc + 4)))

/-- R69, R78, R191 and R63: KEXIT is held until the thread's run, entries and stores have ended and leaves its slot EMPTY; CHK
writes the pending check bits; the scrub of a killed thread leaves its slot EMPTY. -/
def Sys2Proof.Claims.ThreadsEndEmpty : Prop :=
  ∀ (s : State) (d : Reg) (core slot : Nat),
    (s.me.run ≠ none ∨ hasEntries s s.myCore (slotOf s.cur) = true → exec .kexit s = .next s) ∧
    (Claims.Lone s s.myCore (slotOf s.cur) → releaseHeld s s.cur = false → ∃ t, exec .kexit s = .next t ∧ t.me = Thread.reset ∧
      t.mem = s.mem ∧ (slotOf s.cur ≠ 6 → ∀ k, k ≠ s.cur → t.thread k = s.thread k)) ∧
    (∀ v, s.me.pend = some (d, v) → s.me.ck = true → ∃ b, exec (.chk d) s = .next (s.finish { s.me with pend := none, bad := b } 6) ∧
      tfind b d.toNat = (if v = s.me.rg d then none else some v) ∧ ∀ r : Reg, r ≠ d → tfind b r.toNat = tfind s.me.bad r.toNat) ∧
    (s.me.pend = none ∨ s.me.ck = false → exec (.chk d) s = .next (s.finish s.me 6)) ∧
    ((s.thread (keyOf core slot)).killed ≠ none → (s.thread (keyOf core slot)).bound = false → slot < 8 →
      ∃ t, exec (.scrubComplete core slot) s = .next t ∧ (t.thread (keyOf core slot)).state = .empty ∧
        (t.thread (keyOf core slot)).g = [] ∧ (t.thread (keyOf core slot)).f = [] ∧ (t.thread (keyOf core slot)).killed = none ∧
        t.mem = s.mem) ∧
    ((s.thread (keyOf core slot)).killed = none → exec (.scrubComplete core slot) s = .next s)

/-- R67, R70-R73, R81 and R82: TWIN binds a copy of an even slot's thread to its empty partner, UNTWIN ends the pair; FOLLOW and
JOIN wait at their address until the predecessor meets it there, DETACH leaves the gang, each with its statuses. -/
def Sys2Proof.Claims.TwinsAndFollowers : Prop :=
  ∀ (s : State) (d : Reg),
    let partner := keyOf s.myCore (slotOf s.cur + 1)
    let single : Prop := s.me.twl = false ∧ s.me.twt = false
    (s.me.twl = true ∨ s.me.twt = true ∨ s.me.state = .following ∨ (s.followerOf s.cur).isSome = true →
      exec (.twin d) s = Claims.regEnd s d 3 6) ∧
    (single → s.me.state ≠ .following → s.followerOf s.cur = none →
      (slotOf s.cur % 2 = 1 ∨ 6 ≤ slotOf s.cur → exec (.twin d) s = Claims.regEnd s d 2 6) ∧
      (slotOf s.cur % 2 = 0 → slotOf s.cur < 6 →
        ((s.thread partner).state ≠ .empty → exec (.twin d) s = Claims.regEnd s d 1 6) ∧
        ((s.thread partner).state = .empty → ∃ t, exec (.twin d) s = .next t ∧ t.me.twl = true ∧ t.me.rg d = 0 ∧
          (∀ r, r ≠ d → t.me.rg r = s.me.rg r) ∧ t.me.pc = s.me.pc + 4 ∧ (t.thread partner).twt = true ∧ (t.thread partner).twl = false ∧
          (t.thread partner).g = t.me.g ∧ (t.thread partner).f = s.me.f ∧ (t.thread partner).pc = s.me.pc + 4 ∧
          (t.thread partner).state = s.me.state ∧ (t.thread partner).inbox = [] ∧ t.mem = s.mem ∧
          ∀ k, k ≠ s.cur → k ≠ partner → t.thread k = s.thread k))) ∧
    (s.me.twl = false → exec (.untwin d) s = Claims.regEnd s d 1 6) ∧
    (s.me.twl = true → s.me.cmp ≠ [] → exec (.untwin d) s = .next s) ∧
    (s.me.twl = true → s.me.cmp = [] → slotOf s.cur % 2 = 0 → ∃ t, exec (.untwin d) s = .next t ∧ t.me.twl = false ∧
      t.me.rg d = 0 ∧ t.me.pc = s.me.pc + 4 ∧ t.thread partner = Thread.reset) ∧
    (s.me.state = .following → exec (.follow d) s = Claims.regEnd s d 0 6) ∧
    (s.me.state ≠ .following → single → predecessor s.cur = none → exec (.follow d) s = Claims.regEnd s d 2 6) ∧
    (s.me.state ≠ .following → ¬single → exec (.follow d) s = Claims.regEnd s d 3 6) ∧
    (∀ p, Claims.MayFollow s p → (s.me.state ≠ .following → Claims.ParksOn s (.follow d) 0x0F s.me.pc) ∧
      (s.me.det = true → Claims.ParksOn s (.join d) 0x0F s.me.pc)) ∧
    (s.me.det = false → exec (.join d) s = Claims.regEnd s d 2 6) ∧
    (s.me.state = .following → ∃ t, exec (.detach d) s = .next t ∧ t.me.state = .ready ∧ t.me.det = true ∧ t.me.fwd = [] ∧
      t.me.rg d = 0 ∧ t.me.pc = s.me.pc + 4) ∧
    (s.me.state ≠ .following → exec (.detach d) s = Claims.regEnd s d 1 6) ∧
    (∀ key f w, follower key = some f → slotOf f ≠ 6 → Claims.WaitsFor s f w → w.kind = 0x0F → (s.thread f).bound = true →
      (s.thread f).kid = (s.thread key).kid → (s.thread f).pse = false → w.instr = .follow d →
      let t := meetPoint s key w.eval
      (t.thread f).state = .following ∧ (t.thread f).pc = (s.thread f).pc + 4 ∧ (t.thread f).rg d = 0 ∧ (t.thread f).wait = none ∧
        (t.thread f).fwd = [] ∧ ∀ pc, pc ≠ w.eval → meetPoint s key pc = s)

/-- YIELD, SLEEP, WAKE, KEXIT, CHK, twins and followers act with their statuses: the conjunction of the claims
above. What it says beyond the rules is the model's choice, by logs 19, 39, 44, 56, 92. -/
def Obligations.ThreadsPairFollowAndEnd : Prop :=
  Claims.ThreadsYieldSleepAndWake ∧ Claims.ThreadsEndEmpty ∧ Claims.TwinsAndFollowers

/-- R50, R52, R54-R57, R66, R73 and R367: a parked thread goes on with its reply, or traps, is killed or issues
again as the reply says; an instruction in flight ends at its time; deadlines trap WAITLIM and LINKDOWN with the
waited object, an MSND that times out has status 4, a follower detaches, and a lock held too long is released.
What it says beyond the rules is the model's choice, by logs 3, 77. -/
def Obligations.WaitsEndByReplyLimitOrTimeout : Prop :=
  ∀ (s : State) (core slot : Nat) (w : Wait), slot < 7 →
    let key := keyOf core slot
    let u := s.thread key
    let back : Thread → Prop := fun t => t.wait = none ∧ t.busy = none ∧ (slot ≠ 6 → t.state = if u.pse then .paused else .ready)
    (∀ r, Claims.WaitsFor s key { w with reply := none } → Claims.NoFollower s key →
      let s1 := s.setThread key { u with wait := some { w with reply := some r } }
      let wakes (p : State → Prop) : Prop := ∃ t, exec (.parkWake core slot) s1 = .next t ∧ p t
      (r.kill = false → r.trap = none → r.reissue = true → wakes (fun t => back (t.thread key) ∧ (t.thread key).pc = u.pc ∧ (t.thread key).g = u.g)) ∧
      (r.kill = false → r.trap = none → r.reissue = false → r.f = [] → r.csr = [] → r.ix = [] → sfuOf w.instr = none →
        wakes (fun t => back (t.thread key) ∧ (t.thread key).pc = r.pc.getD (u.pc + 4) ∧ t.mem = s.mem ∧
          ∀ x, (t.thread key).rg x = (Claims.wgAll u r.g).rg x)) ∧
      (∀ cause eval, r.kill = false → r.trap = some (cause, eval) → wakes (fun t =>
        Claims.TrapQueued s t core slot cause (if cause = WAITLIM ∨ cause = SKCYCLE then w.kind else 0) eval)) ∧
      (r.kill = true → Claims.Lone s core slot → wakes (fun t => (t.thread key).killed = some POISON ∧ (t.thread key).state = .parked))) ∧
    (∀ done, u.busy = some done → done ≤ s.cyc core → u.wait = none → u.flight = false → (∀ x ∈ (s.cluster (clusterOf core)).normq, x.2 ≠ key) →
      (u.state = .ready ∨ u.state = .following) → slot ≠ 6 → ∃ t, exec (.instructionComplete core slot) s = .next t ∧
        (t.thread key).busy = none ∧ (t.thread key).pc = u.pc ∧ (t.thread key).g = u.g ∧
        (t.thread key).state = (if u.pse then .paused else u.state) ∧ t.mem = s.mem) ∧
    (∀ done, u.busy = some done → s.cyc core < done → exec (.instructionComplete core slot) s = .next s) ∧
    (Claims.WaitsFor s key w → u.run = none → Claims.NoFollower s key → Claims.ContextLive s core →
      (∀ x, w.deadline = some x → x ≤ s.pk.tim → w.kind ≠ 0x08 →
        ∃ t, exec (.waitLimitExpiry core slot) s = .next t ∧ Claims.TrapQueued s t core slot WAITLIM w.kind w.eval) ∧
      (∀ x, w.deadline = some x → s.pk.tim < x → exec (.waitLimitExpiry core slot) s = .next s) ∧
      (∀ x, w.remote = some x → x ≤ s.pk.tim →
        (∀ b a d, w.instr = .msnd b a d → ∃ t, exec (.remoteAccessTimeout core slot) s = .next t ∧
          Claims.replyOf t key = some (Reply.reg d 4)) ∧
        ((∀ b a d, w.instr ≠ .msnd b a d) → ∃ t, exec (.remoteAccessTimeout core slot) s = .next t ∧
          Claims.TrapQueued s t core slot LINKDOWN 0 w.eval))) ∧
    (∀ p, predecessor key = some p → u.state = .following → u.fwd = [] → u.wlim ≠ 0 → u.fwdTick + u.wlim.toNat ≤ s.pk.tim →
      (s.thread p).state = .parked ∨ (s.thread p).state = .dropped ∨ (s.thread p).state = .paused → slot ≠ 6 →
      ∃ t, exec (.followerWaitExpiry core slot) s = .next t ∧ t.thread key = { u with state := .ready, det := true, fwd := [] }) ∧
    (∀ l, (s.arch core).locks = [l] → l.slot = slot → (s.arch core).lockq = [] → (s.core core).tagWait = [] → l.start + (s.arch core).lockmax.toNat < s.cyc core →
      Claims.ContextLive s core → (s.die (dieOf core)).events.length < 4096 → ∃ t r, exec (.lockTimeout core l.lo) s = .next t ∧
        (t.arch core).locks = [] ∧ (slot, l.lo) ∈ (t.arch core).lost ∧ t.thread key = { u with lkx := true } ∧
        (t.die (dieOf core)).events = (s.die (dieOf core)).events ++ [r] ∧ r.w0.toNat % 256 = 4 ∧ r.data0 = BitVec.ofNat 64 l.lo ∧
        r.data1 = BitVec.ofNat 64 (l.hi - l.lo))

/-- R74, R75 and R83: NEST checks a descriptor and starts its count, ITER takes the next index tuple of its chunk or
claims a chunk whose size is that of R75, level 0 innermost; an exhausted descriptor lets ITER fall through.
What it says beyond the rules is the model's choice, by logs 54, 94. -/
def Obligations.NestsCountAndDealChunks : Prop :=
  ∀ (s : State) (f : BitVec 14) (a d : Reg) (key o pa : Nat) (leaf : W64) (w : Wait),
    let dsc := (s.thread key).rg a
    let levels := Claims.field s pa 36 1
    let total := Claims.product s pa levels
    let good : Prop := 1 ≤ levels ∧ levels ≤ 5 ∧ Claims.field s pa 38 2 ≠ 0 ∧ Claims.field s pa 40 4 ≠ 0 ∧ total < 2 ^ 63
    let started (t : State) : Prop := Claims.field t pa 0 8 = 0 ∧ Claims.field t pa 8 8 = total ∧
      ∀ x, x < pa ∨ pa + 16 ≤ x → mread t.mem.ram x = mread s.mem.ram x
    let next := Claims.field s pa 0 8
    let all := Claims.field s pa 8 8
    let index (lin i : Nat) : W64 := if i < levels then BitVec.ofNat 64 (lin / Claims.product s pa i % Claims.bound s pa i) else 0
    Claims.NestAt s key dsc o pa leaf →
    (key = s.cur → Claims.NoReleaseWait s 4 →
      (homedIn s (clusterOf s.myCore) (s.partOf s.myCore) o pa leaf = true →
        (good → ∃ t, exec (.nest a d) s = .next t ∧ started t ∧ (d ≠ 0 → t.me.rg d = 0) ∧ t.me.pc = s.me.pc + 4 ∧
          t.me.busy = some (s.cyc s.myCore + 24)) ∧
        (¬good → ∃ t, exec (.nest a d) s = .next t ∧ t.mem.ram = s.mem.ram ∧ (d ≠ 0 → t.me.rg d = 1) ∧ t.me.pc = s.me.pc + 4)) ∧
      (homedIn s (clusterOf s.myCore) (s.partOf s.myCore) o pa leaf = false → Claims.ParksOn s (.nest a d) 0x01 dsc)) ∧
    (key = s.cur →
      let target := s.me.pc + BitVec.ofInt 64 (4 * f.toInt)
      target.toNat < 2 ^ 61 →
      (s.me.itdsc = dsc → s.me.itcur.toNat < s.me.itend.toNat → s.me.itN.length ≤ 5 → (∀ n ∈ s.me.itN, n ≠ 0) →
        ∃ t, exec (.iter f a) s = .next t ∧ t.me.pc = target ∧ t.me.itcur = s.me.itcur + 1 ∧ t.mem = s.mem ∧
          t.me.busy = some (s.cyc s.myCore + 6) ∧ ∀ i < 5, tget 0 t.me.ix i =
            if i < s.me.itN.length then BitVec.ofNat 64 (s.me.itcur.toNat / (s.me.itN.take i).prod % s.me.itN.getD i 1) else 0) ∧
      (s.me.itdsc ≠ dsc ∨ s.me.itend.toNat ≤ s.me.itcur.toNat → Claims.ParksOn s (.iter f a) 0x10 dsc)) ∧
    (Claims.WaitsFor s key w →
      (w.kind = 0x01 → w.instr = .nest a d → good → ∃ t, exec (.homeAtomic (coreOf key) (slotOf key)) s = .next t ∧ started t ∧
        Claims.replyOf t key = some (Reply.reg d 0)) ∧
      (w.kind = 0x10 → w.instr = .iter f a → tfind s.mem.records (pa / 64) = none →
        (all ≤ next → ∃ t, exec (.homeAtomic (coreOf key) (slotOf key)) s = .next t ∧ t.mem.ram = s.mem.ram ∧
          Claims.replyOf t key = some { Reply.plain with acquire := some 4 }) ∧
        (next < all → 1 ≤ levels → levels ≤ 5 → Claims.field s pa 38 2 ≠ 0 → (∀ i < levels, Claims.bound s pa i ≠ 0) →
          let p := Claims.field s pa 38 2
          let n := min (all - next) (max (Claims.field s pa 40 4) ((all - next + 2 * p - 1) / (2 * p)))
          next + n < 2 ^ 64 → ((s.thread key).pc + BitVec.ofInt 64 (4 * f.toInt)).toNat < 2 ^ 61 → ∃ t r, exec (.homeAtomic (coreOf key) (slotOf key)) s = .next t ∧ Claims.field t pa 0 8 = next + n ∧
            Claims.replyOf t key = some r ∧ r.pc = some ((s.thread key).pc + BitVec.ofInt 64 (4 * f.toInt)) ∧ r.acquire = some 4 ∧
            r.itN = some ((List.range levels).map (Claims.bound s pa)) ∧ r.csr = [(0x018, dsc), (0x016, BitVec.ofNat 64 (next + 1)), (0x017, BitVec.ofNat 64 (next + n))] ∧
            ∀ i < 5, r.ix.getD i 0 = index next i)))

/-- R65, R66, R85 and R86: SPLK takes a lock on a range of the own scratchpad, waits for another slot's or reports 1 or 2; SPUL
gives it up and hands it to the waiter that can have it. -/
def Obligations.ScratchpadLocksExclude : Prop :=
  ∀ (s : State) (a b d : Reg) (o : Nat),
    let x := s.arch s.myCore
    let slot := slotOf s.cur
    let len := (s.me.rg b).toNat
    let lo := o / 64 * 64
    let hi := (o + len + 63) / 64 * 64
    let hits (l : Lock) : Prop := l.lo < hi ∧ lo < l.hi
    let mine : Prop := ∃ l ∈ x.locks, l.slot = slot ∧ l.lo = lo
    (Claims.SplRange s a len o →
      ((∃ l ∈ x.locks, l.slot = slot ∧ hits l) → exec (.splk b a d) s = Claims.regEnd s d 2 6) ∧
      ((∀ l ∈ x.locks, l.slot = slot → ¬hits l) → 4 ≤ x.locks.length → exec (.splk b a d) s = Claims.regEnd s d 1 6) ∧
      ((∀ l ∈ x.locks, ¬hits l) → x.locks.length < 4 → ∃ t, exec (.splk b a d) s = .next t ∧ (t.arch s.myCore).locks = x.locks ++
        [{ slot := slot, lo := lo, hi := hi, start := s.cyc s.myCore }] ∧ (d ≠ 0 → t.me.rg d = 0) ∧ t.me.pc = s.me.pc + 4 ∧ t.mem = s.mem) ∧
      ((∀ l ∈ x.locks, l.slot = slot → ¬hits l) → x.locks.length < 4 → (∃ l ∈ x.locks, l.slot ≠ slot ∧ max l.lo lo < min l.hi hi) →
        ∃ e, Claims.ParksOn s (.splk b a d) 0x0C e)) ∧
    ((∀ o', ¬Claims.SplRange s a len o') → Claims.Traps s (.splk b a d) SEGV (s.me.rg a)) ∧
    (Claims.SplRange s a 1 o →
      (mine → releaseHeld s s.cur = false → x.lockq = [] → ∃ t, exec (.spul a d) s = .next t ∧
        (∀ l, l ∈ (t.arch s.myCore).locks ↔ l ∈ x.locks ∧ ¬(l.slot = slot ∧ l.lo = lo)) ∧ (d ≠ 0 → t.me.rg d = 0) ∧ t.me.pc = s.me.pc + 4) ∧
      (¬mine → exec (.spul a d) s = Claims.regEnd s d (if (slot, lo) ∈ x.lost then 1 else 2) 6) ∧
      (∀ l k w b' a' d' o', x.locks = [l] → l.slot = slot → l.lo = lo → releaseHeld s s.cur = false → x.lockq = [k] → k ≠ s.cur →
        (s.core s.myCore).tagWait = [] →
        Claims.WaitsFor s k w → w.kind = 0x0C → w.instr = .splk b' a' d' →
        Claims.SplRange { s with cur := k } a' ((s.thread k).rg b').toNat o' →
        ∃ t, exec (.spul a d) s = .next t ∧ (t.arch s.myCore).lockq = [] ∧ (t.arch s.myCore).locks =
          [{ slot := slotOf k, lo := o' / 64 * 64, hi := (o' + ((s.thread k).rg b').toNat + 63) / 64 * 64, start := s.cyc s.myCore }] ∧
          Claims.replyOf t k = some { Reply.reg d' 0 with acquire := some 1 }))

/-- R196, R200, R203, R204 and R205: an access whose home lies elsewhere parks and is performed there, an atomic in
one step; replies from outside bring data, refusal, poison or a status; write-backs and evictions move copies,
and L2EFF takes its samples. What it says beyond the rules is the model's choice, by logs 16, 88, 89, 94. -/
def Obligations.RemoteAccessesArePerformedAtTheirHome : Prop :=
  ∀ (s : State) (core slot : Nat) (w : Wait), slot < 8 →
    let key := keyOf core slot
    let ea (a : Reg) (im : BitVec 14) : W64 := (s.thread key).rg a + BitVec.ofInt 64 im.toInt
    (∀ im a d o, key = s.cur → Claims.NoStores s → Claims.InSegment s im a → (ea a im).toNat % 8 = 0 →
      Claims.SegOk s.me (ea a im) 8 rightR 3 o → let c := o / 0x100000
      c ≠ core → forwardCore s s.me.kid c = c → tileAllowed s core c = true → (s.arch c).locks = [] → (s.core c).migrating = none →
      dieReachable s (dieOf c) = true → spadPoisoned s.mem c (o % 0x100000) 8 = false →
      ∃ t u, exec (.ld im a d) s = .next t ∧ Claims.Parked s t (.ld im a d) 0x01 (ea a im) ∧
        exec (.tileAccessMessage core slot) t = .next u ∧ u.mem = s.mem ∧ Claims.replyOf u key =
          some (Reply.reg d (BitVec.ofNat 64 (natOfBytes (spadBytes s.mem c (o % 0x100000) 8))))) ∧
    (∀ a b d o pa leaf, Claims.WaitsFor s key w → w.kind = 0x01 → w.instr = .atomAddD 4 0 b a d → d ≠ 0 →
      ((s.thread key).rg a).toNat % 8 = 0 → Claims.GlobalAt s key ((s.thread key).rg a) 8 rightR 5 o pa leaf →
      Claims.SegOk (s.thread key) ((s.thread key).rg a) 8 rightW 1 o → Claims.SegOk (s.thread key) ((s.thread key).rg a) 8 rightA 1 o →
      Claims.NoCopies s (clusterOf core) → anyPoison s.mem.ramPoison pa 8 = false → o % 4096 ≤ 4088 → acquirePending s key = false →
      dieReachable s (dieOf (homeOf s (s.partOf core) o pa leaf)) = true →
      let old := Claims.field s pa 0 8
      ∃ t, exec (.homeAtomic core slot) s = .next t ∧ Claims.field t pa 0 8 = (old + ((s.thread key).rg b).toNat) % 2 ^ 64 ∧
        (∀ x, x < pa ∨ pa + 8 ≤ x → mread t.mem.ram x = mread s.mem.ram x) ∧
        Claims.replyOf t key = some (Reply.reg d (BitVec.ofNat 64 old))) ∧
    (Claims.WaitsFor s key w → w.kind = 0x01 → w.remote.isSome = true → w.taken = [] → (∀ e ∈ (s.core core).storeq, e.sent = false) →
      let gets (e : ExtReply) (r : Reply) : Prop := ∃ t, exec (.remoteReplyArrival core slot e) s = .next t ∧
        Claims.replyOf t key = some r ∧ t.mem = s.mem
      (∀ im a d bs, w.instr = .ld im a d → 8 ≤ bs.length →
        gets (.bytes bs) (Reply.reg d (BitVec.ofNat 64 (natOfBytes (bs.take 8))))) ∧
      gets .refused (Reply.fail ACCESS w.eval) ∧ gets .poison { Reply.plain with kill := true } ∧
      (∀ b a d v, w.instr = .msnd b a d → gets (.status v) (Reply.reg d v)) ∧
      (∀ im a d, w.instr = .ld im a d → ((s.thread key).seg (w.eval.toNat / 2 ^ 61)).attr.toNat / 256 = 5 →
        ∃ t, exec (.pcieCompletionTimeout core slot) s = .next t ∧ Claims.replyOf t key = some (Reply.fail ACCESS w.eval))) ∧
    (∀ clu b rest, (s.cluster clu).wb = b :: rest → homeUp s b.copy = true → dieReachable s (dieOfCluster clu) = true → ∃ t, exec (.writebackMerge clu 0) s = .next t ∧ (t.cluster clu).wb = rest ∧
      (∀ i < 64, b.copy.dirty.getLsbD i = true → mread t.mem.ram (b.copy.pa + i) = b.copy.byte i) ∧
      (∀ x, (∀ i < 64, b.copy.dirty.getLsbD i = true → x ≠ b.copy.pa + i) → mread t.mem.ram x = mread s.mem.ram x)) ∧
    (∀ clu k l, tfind (s.cluster clu).staging k = some l → ∃ t, exec (.stagingEviction clu k) s = .next t ∧ t.mem = s.mem ∧
      tfind (t.cluster clu).staging k = none ∧
      (t.cluster clu).wb = if l.dirty = 0 then (s.cluster clu).wb else (s.cluster clu).wb ++ [{ key := k, copy := l }]) ∧
    (∀ (die : BitVec 2) (mean : BitVec 16),
      let slices : Nat := ((List.range 320).map (fun k => (s.core (die.toNat * 320 + k)).l2slice.toNat)).sum / 320
      (0x100 ≤ mean.toNat → mean.toNat ≤ 0x200 → mean.toNat = slices → ∃ t, exec (.l2effSample die mean []) s = .next t ∧
        (∀ c < 1280, c / 320 = die.toNat → (t.core c).l2die = mean) ∧ (∀ c, c / 320 ≠ die.toNat → t.core c = s.core c) ∧
        t.threads = s.threads ∧ t.mem = s.mem) ∧
      (mean.toNat < 0x100 ∨ 0x200 < mean.toNat ∨ mean.toNat ≠ slices → exec (.l2effSample die mean []) s = .next s))

/-! ## Pages and leases (R342-R361) -/

namespace Sys2Proof.Claims

/-- A table entry that names the next table: valid, no leaf, reserved bits zero (R344). -/
abbrev NextTable (w : W64) : Prop := w.getLsbD 0 = true ∧ w.getLsbD 10 = false ∧ w.toNat / 2 ^ 12 % 64 = 0 ∧ w.toNat / 2 ^ 4 % 4 = 0

/-- PA[39:12] of an entry, as an address. -/
def frameOf (w : W64) : Nat := w.toNat / 2 ^ 18 % 2 ^ 28 * 4096

/-- The word of a table at an index, and its address (R343). -/
def entryAt (table dva level : Nat) : Nat := table + 8 * (dva / 2 ^ (12 + 9 * level) % (if level = 3 then 256 else 512))
def wordAt (s : State) (pa : Nat) : W64 := BitVec.ofNat 64 (field s pa 0 8)

/-- The bits the walker sets for an access: A, and D for writes and atomics (R344). -/
def usedBits (acc : BitVec 4) : W64 := if acc &&& 6 = 0 then 0x100 else 0x300

/-- Pages of a partition in no cluster's translation cache. -/
def NotCached (s : State) (part dva : Nat) : Prop := ∀ c, tlbFind (s.cluster c) part dva = none

/-- A page record of a die that is new: its fault, and the thread that waits for it. -/
def FaultRecord (s : State) (core slot : Nat) (r : PagerRecord) (dva : Nat) (kind : BitVec 2) (acc : BitVec 4) (ea : W64) : Prop :=
  r.rid = (s.die (dieOf core)).nextRid ∧ r.clu = clusterOf core ∧ r.part.toNat = s.partOf core % 16 ∧ r.dva = dva ∧ r.kind = kind ∧
    r.acc = acc ∧ r.src = 1 ∧ r.joined = [.thread core slot ea]

/-- A request block of R359 in the own scratchpad. -/
def blockField (s : State) (o at_ n : Nat) : Nat := ownValue s (o + at_) n

end Sys2Proof.Claims

/-- R343, R344, R347: a walk follows four levels of tables from the partition's root, a clear V bit ends it as
ABSENT, a leaf's rights decide the access, and the end of a walk fills the cache with A and D set, or makes the
fault's record. What it says beyond the rules is the model's choice, by logs 15, 25. -/
def Obligations.WalksFollowTheTables : Prop :=
  ∀ (s : State) (part dva : Nat) (w3 w2 w1 w0 : W64), part < 16 → dva < 2 ^ 47 →
    let root := (s.part part).proot
    let e3 := Claims.entryAt (root.toNat / 2 ^ 12 % 2 ^ 28 * 4096) dva 3
    let e2 := Claims.entryAt (Claims.frameOf w3) dva 2
    let e1 := Claims.entryAt (Claims.frameOf w2) dva 1
    let e0 := Claims.entryAt (Claims.frameOf w1) dva 0
    (root.getLsbD 0 = false → walk s part dva = .fault 0) ∧
    (root.getLsbD 0 = true → Claims.wordAt s e3 = w3 →
      (w3.getLsbD 0 = false → walk s part dva = .fault 0) ∧
      (w3.getLsbD 0 = true → w3.getLsbD 10 = true → walk s part dva = .fault 1) ∧
      (Claims.NextTable w3 → Claims.wordAt s e2 = w2 →
        (w2.getLsbD 0 = false → walk s part dva = .fault 0) ∧
        (Claims.NextTable w2 → Claims.wordAt s e1 = w1 →
          (w1.getLsbD 0 = false → walk s part dva = .fault 0) ∧
          (w1.getLsbD 0 = true → w1.getLsbD 10 = true → malformed 1 w1 = false → walk s part dva = .leaf { word := w1, size := 2 ^ 21, entry := e1 }) ∧
          (Claims.NextTable w1 → Claims.wordAt s e0 = w0 →
            (w0.getLsbD 0 = false → walk s part dva = .fault 0) ∧
            (w0.getLsbD 0 = true → malformed 0 w0 = true → walk s part dva = .fault 1) ∧
            (w0.getLsbD 0 = true → malformed 0 w0 = false →
              walk s part dva = .leaf { word := w0, size := if w0.getLsbD 11 then 65536 else 4096, entry := e0 }))))) ∧
    (∀ clu l acc eval, tlbFind (s.cluster clu) part dva = some l → l.word.toNat / 2 ^ 61 ≤ 1 →
      (acc = 1 ∧ l.word.getLsbD 1 = false ∨ acc = 2 ∧ l.word.getLsbD 2 = false ∨ acc = 8 ∧ l.word.getLsbD 3 = false →
        translate s clu part dva acc eval = .error (.trap ACCESS eval)) ∧
      (leafAllows l.word acc = true → l.word ||| Claims.usedBits acc = l.word →
        translate s clu part dva acc eval = .ok (s, l.word, Claims.frameOf l.word + dva % l.size))) ∧
    (∀ clu acc src l, clu < 324 → walkReachable s part dva = true → walk s part dva = .leaf l → l.word.toNat / 2 ^ 61 ≤ 1 → acc ≠ 0 → leafAllows l.word acc = true →
      ∃ t, exec (.tableWalkEnd clu (BitVec.ofNat 4 part) dva acc src) s = .next t ∧
        tlbFind (t.cluster clu) part dva ≠ none ∧ tfind (t.cluster clu).tlb (tlbKey part dva l.size) = some { l with word := l.word ||| Claims.usedBits acc } ∧
        Claims.wordAt t l.entry = Claims.wordAt s l.entry ||| Claims.usedBits acc ∧
        ∀ x, x < l.entry ∨ l.entry + 8 ≤ x → mread t.mem.ram x = mread s.mem.ram x) ∧
    (∀ clu acc src k, clu < 320 → walkReachable s part dva = true → walk s part dva = .fault k → acc ≠ 0 → (s.die (dieOfCluster clu)).pagers = [] →
      ∃ t r, exec (.tableWalkEnd clu (BitVec.ofNat 4 part) dva acc src) s = .next t ∧ (t.die (dieOfCluster clu)).pagers = [r] ∧
        r.clu = clu ∧ r.part.toNat = part ∧ r.dva = dva ∧ r.kind = k ∧ r.acc = acc ∧ r.src = src ∧ t.mem = s.mem)

/-- R349, R350, R351: PINV drops a range of the partition's pages from every translation cache, with fl its lines
too, and PPROBE gives the probe word of a cached leaf, 0 for what is no global page, or waits for the walk. What
it says beyond the rules is the model's choice, by log 79. -/
def Obligations.PagesAreInvalidatedAndProbed : Prop :=
  ∀ (s : State) (a b d : Reg),
    let v := (s.me.rg a).toNat
    let len := (s.me.rg b).toNat % 2 ^ 62
    let part := if 1280 ≤ s.myCore then (s.die (dieOf s.myCore)).pinvp.toNat else s.partOf s.myCore
    let bad := (s.me.rg b).getLsbD 62 = true ∨ v % 4096 ≠ 0 ∨ len % 4096 ≠ 0 ∨ 2 ^ 47 < v + len
    (modeOf s.cur = 0 → Claims.Traps s (.pinv b a d) PRIV s.me.pc) ∧
    (1 ≤ modeOf s.cur →
      (bad → exec (.pinv b a d) s = Claims.regEnd s d 1 6) ∧
      (¬bad → part < 16 → pagesPending s part v len = false → ((s.me.rg b).getLsbD 63 = true → pagesOpen s part v len = true) → ∃ t, exec (.pinv b a d) s = .next t ∧ (d ≠ 0 → t.me.rg d = 0) ∧ t.me.pc = s.me.pc + 4 ∧
        (∀ dva, dva < 2 ^ 47 → (len = 0 ∨ (v ≤ dva ∧ dva < v + len)) → Claims.NotCached t part dva) ∧
        (∀ c q dva, q < 16 → q ≠ part → dva < 2 ^ 47 → tlbFind (t.cluster c) q dva = tlbFind (s.cluster c) q dva) ∧
        ((s.me.rg b).getLsbD 63 = false → t.mem = s.mem ∧ t.cores = s.cores) ∧
        ((s.me.rg b).getLsbD 63 = true → ∀ c k, lineIn part v len k = true → tfind (t.cluster c).staging k = none ∧
          tfind (t.core c).l1 k = none ∧ (t.core c).cc = []))) ∧
    (let ea := s.me.rg a
     let g := s.me.seg (ea.toNat / 2 ^ 61)
     let o := ea.toNat % 2 ^ 61
     let dva := g.base.toNat + o
     (g.attr.toNat / 256 ≠ 1 ∨ g.lim.toNat ≤ o → exec (.pprobe a d) s = Claims.regEnd s d 0 10) ∧
     (g.attr.toNat / 256 = 1 → o < g.lim.toNat → dva < 2 ^ 47 →
       (∀ l, tlbFind (s.cluster (clusterOf s.myCore)) (s.partOf s.myCore) dva = some l → ∃ w : W64, exec (.pprobe a d) s = Claims.regEnd s d w 10 ∧
         w.getLsbD 63 = true ∧ w.toNat / 2 ^ 60 % 8 = l.word.toNat / 2 ^ 61 ∧ w.getLsbD 59 = l.word.getLsbD 60 ∧
         w.getLsbD 58 = l.word.getLsbD 59 ∧ w.getLsbD 54 = l.word.getLsbD 6 ∧ w.getLsbD 53 = l.word.getLsbD 3 ∧
         w.getLsbD 52 = l.word.getLsbD 2 ∧ w.getLsbD 51 = l.word.getLsbD 1 ∧ w.toNat / 2 ^ 43 % 2 ^ 8 = 0 ∧ w.toNat % 2 ^ 24 = 0 ∧
         (l.word.toNat / 2 ^ 61 = 4 → w.toNat / 2 ^ 32 % 2 ^ 11 = 0 ∧ w.toNat / 2 ^ 24 % 2 ^ 8 = l.word.toNat / 2 ^ 18 % 2 ^ 8)) ∧
       (tlbFind (s.cluster (clusterOf s.myCore)) (s.partOf s.myCore) dva = none →
         recordOpen s (clusterOf s.myCore) (s.partOf s.myCore) dva = false → Claims.ParksOn s (.pprobe a d) 0x01 ea)))

/-- R50, R347, R348, R354 and R355: an access to a page without a usable leaf drops its thread and makes a record;
the pager's wake lets it issue again, a refusal traps it PAGE with its own address; a host access without a
translation waits for ATS in the same way, and an ATS invalidation drops translations and is completed. What it
says beyond the rules is the model's choice, by logs 22, 31, 41. -/
def Obligations.FaultsDropThreadsUntilThePagerAnswers : Prop :=
  ∀ (s : State) (im : BitVec 14) (a d : Reg) (o : Nat) (kind : BitVec 2),
    let core := s.myCore
    let slot := slotOf s.cur
    let die := dieOf core
    let ea := Claims.effective s im a
    let part := s.partOf core
    let loads (n : Nat) : Prop := Claims.InSegment s im a ∧ ea.toNat % 8 = 0 ∧ Claims.SegOk s.me ea 8 rightR n o
    let dropped (t : State) : Prop := t.me.state = .dropped ∧ t.me.pc = s.me.pc ∧ t.me.g = s.me.g ∧ t.me.wait = none ∧ t.mem = s.mem
    let again (u : State) : Prop := u.me.state = .ready ∧ u.me.pc = s.me.pc ∧ u.me.g = s.me.g
    slot < 6 → s.me.pse = false → s.me.twl = false → s.me.twt = false → offThreads s part = [] → acquirePending s s.cur = false →
    (loads 1 → core < 1280 → tlbFind (s.cluster (clusterOf core)) part o = none → walkReachable s part o = true → walk s part o = .fault kind →
      (∀ r ∈ (s.die die).pagers, r.rid ≠ (s.die die).nextRid ∧ r.clu ≠ clusterOf core) →
      ∃ t r, exec (.ld im a d) s = .next t ∧ dropped t ∧ (t.die die).pagers = (s.die die).pagers ++ [r] ∧
        Claims.FaultRecord s core slot r o kind 1 ea ∧
        (part < 16 → ∃ u, exec (.pgwakeWake (BitVec.ofNat 2 die) r.rid) t = .next u ∧ again u ∧ (u.die die).pagers = (s.die die).pagers) ∧
        (part < 16 → ∃ u, exec (.pgwakeRefuse (BitVec.ofNat 2 die) r.rid) t = .next u ∧ Claims.TrapQueued s u core slot PAGE 0 ea ∧
          (u.die die).pagers = (s.die die).pagers)) ∧
    (loads 5 → s.host.atsOn = true → o / 4096 ∉ s.host.ats → s.host.atsWait = [] → s.host.pri = [] → s.host.ats.length < 512 →
      ∃ t, exec (.ld im a d) s = .next t ∧ dropped t ∧ t.out = s.out ++ [.atsRequest (o / 4096)] ∧
        (∃ u, exec (.atsResponse (o / 4096) true) t = .next u ∧ again u ∧ o / 4096 ∈ u.host.ats) ∧
        (∃ u, exec (.atsResponse (o / 4096) false) t = .next u ∧ dropped u ∧ u.out = t.out ++ [.priRequest (o / 4096)] ∧
          (∃ x, exec (.atsResponse (o / 4096) true) u = .next x ∧ again x ∧ x.host.ats = s.host.ats) ∧
          (∃ x, exec (.atsResponse (o / 4096) false) u = .next x ∧ Claims.TrapQueued s x core slot PAGE 0 ea))) ∧
    (∀ page count, ∃ t, exec (.atsInvalidation page count) s = .next t ∧
      (∀ p, p ∈ t.host.ats ↔ p ∈ s.host.ats ∧ ¬(page ≤ p ∧ p < page + count)) ∧ t.threads = s.threads ∧ t.mem = s.mem ∧
      (atsPending s page count = false → t.out = s.out ++ [.atsComplete page count]) ∧ (atsPending s page count = true → t.out = s.out))

/-- R359, R360 and R361: LREQ reads its block and parks until the lease unit has taken or refused it; LREL starts a reclaim,
returns a lease or frees its entry; LQRY reads an entry's words. -/
def Sys2Proof.Claims.LeasesAreRequestedAndReturned : Prop :=
  ∀ (s : State) (k : BitVec 5) (a b d : Reg) (o : Nat),
    let part := s.partOf s.myCore
    let v := (s.me.rg a).toNat
    let x := s.lease part v
    let f := Claims.blockField s o
    let len := 2 ^ 21 * f 2 2
    let legal : Prop := f 6 2 = 0 ∧ f 24 8 = 0 ∧ f 0 2 ≤ 1023 ∧ f 0 2 ≠ s.pk.pkg.toNat ∧ 1 ≤ f 2 2 ∧ f 2 2 ≤ 2048 ∧ f 8 8 % 2 ^ 21 = 0 ∧
      f 8 8 + len ≤ 2 ^ 47
    let clash : Prop := ∃ i < 256, (s.lease part i).state ≠ 0 ∧ overlaps (f 8 8) len (s.lease part i).dva (2 ^ 21 * (s.lease part i).ngran) = true
    let answers (p : State → Prop) (st : W64) : Prop := ∃ t u, exec (.lreq a d) s = .next t ∧ Claims.Parked s t (.lreq a d) 0x01 (s.me.rg a) ∧
      exec (.remoteReplyArrival s.myCore (slotOf s.cur) .inside) t = .next u ∧ Claims.replyOf u s.cur = some (Reply.reg d st) ∧ p u
    (v % 32 ≠ 0 → Claims.Traps s (.lreq a d) ALIGN (s.me.rg a)) ∧
    (v % 32 = 0 → Claims.SegOk s.me (s.me.rg a) 32 rightR 2 o → o + 32 ≤ 0x100000 → Claims.Unlocked s o 32 → Claims.NoStores s →
      spadPoisoned s.mem s.myCore o 32 = false → dieReachable s (dieOf s.myCore) = true → s.links.loop = [] → part < 16 →
      (¬legal → answers (fun u => u.parts = s.parts ∧ u.out = s.out) (BitVec.ofNat 64 (2 * 2 ^ 56))) ∧
      (legal → clash → answers (fun u => u.parts = s.parts ∧ u.out = s.out) (BitVec.ofNat 64 (3 * 2 ^ 56))) ∧
      (legal → ¬clash → (∀ i < 256, (s.lease part i).state ≠ 0) → answers (fun u => u.parts = s.parts ∧ u.out = s.out) (BitVec.ofNat 64 (2 ^ 56))) ∧
      (∀ n < 256, legal → ¬clash → (s.lease part n).state = 0 → (∀ i < n, (s.lease part i).state ≠ 0) →
        answers (fun u => u.lease part n = {
            state := 1, lpkg := BitVec.ofNat 10 (f 0 2), ngran := f 2 2, tok := BitVec.ofNat 16 (f 4 2),
            dva := f 8 8, term := BitVec.ofNat 64 (f 16 8) } ∧ (∀ i, i ≠ n → u.lease part i = s.lease part i) ∧
          u.out = s.out ++ [.leaseRequest (BitVec.ofNat 4 part) n (BitVec.ofNat 10 (f 0 2)) (f 2 2) (BitVec.ofNat 64 (f 16 8))])
          (BitVec.ofNat 64 n))) ∧
    (255 < v ∨ 1 < (s.me.rg b).toNat → exec (.lrel b a d) s = Claims.regEnd s d 2 6) ∧
    (v ≤ 255 → (s.me.rg b).toNat ≤ 1 →
      (x.state = 4 ∨ x.state = 5 → exec (.lrel b a d) s = Claims.regEnd (s.setLease part v {}) d 0 6) ∧
      (x.state ≠ 2 → x.state ≠ 4 → x.state ≠ 5 → exec (.lrel b a d) s = Claims.regEnd s d 1 6) ∧
      (x.state = 2 → (s.me.rg b).toNat = 1 → exec (.lrel b a d) s = Claims.regEnd (s.setLease part v { x with
        state := 3, deadline := s.pk.tim + x.tEvict * 1000, since := s.pk.tim, copied := [], ncopy := 0 }) d 0 6) ∧
      (x.state = 2 → (s.me.rg b).toNat = 0 → ∃ t, exec (.lrel b a d) s = .next t ∧ (t.lease part v).state = 4 ∧ (d ≠ 0 → t.me.rg d = 0) ∧
        t.me.pc = s.me.pc + 4)) ∧
    (255 < v → exec (.lqry k a d) s = Claims.regEnd s d 0 6) ∧
    (v ≤ 255 → (k = 1 → exec (.lqry k a d) s = Claims.regEnd s d (BitVec.ofNat 64 x.dva) 6) ∧
      (k = 2 → exec (.lqry k a d) s = Claims.regEnd s d (if x.state = 3 then BitVec.ofNat 64 x.deadline else 0) 6) ∧
      (k = 3 → exec (.lqry k a d) s = Claims.regEnd s d (BitVec.ofNat 64 x.termEnd) 6) ∧
      (k = 4 → exec (.lqry k a d) s = Claims.regEnd s d (BitVec.ofNat 64 x.tEvict) 6) ∧
      (k = 0 → ∃ w : W64, exec (.lqry k a d) s = Claims.regEnd s d w 6 ∧ w.toNat / 2 ^ 61 = x.state.toNat ∧ w.getLsbD 60 = x.den ∧
        w.getLsbD 59 = x.lost ∧ w.toNat / 2 ^ 38 % 2 ^ 10 = x.lpkg.toNat))

/-- R356, R357 and R358: the lease unit's events: a grant or denial of a request, a reclaim with its deadline, granules that come
home one by one, the acknowledgement when all have, and revocation at the deadline with what was not copied lost. -/
def Sys2Proof.Claims.LeaseStatesFollowTheirEvents : Prop :=
  ∀ (s : State) (part : BitVec 4) (n : Byte) (ngrant : BitVec 12) (tEvict termEnd granule : Nat) (frames : List Nat) (data : List Host.Cell),
    let p := part.toNat
    let x := s.lease p n.toNat
    let put (i : Instr) (y : Lease) : Prop := exec i s = .next (s.setLease p n.toNat y)
    let reclaimed : Lease := { x with state := 3, deadline := s.pk.tim + x.tEvict * 1000, since := s.pk.tim, copied := [], ncopy := 0 }
    (x.state = 1 → ngrant.toNat ≤ x.ngran → x.tok = 0xFFFF → put (.leaseGrant part n ngrant tEvict termEnd frames) { x with
      state := 2, ngrant := ngrant, tEvict := if 20 ≤ tEvict ∧ tEvict ≤ 2000 then tEvict else 250, termEnd := termEnd, frames := frames,
      accessed := [], copied := [], ncopy := 0, lost := false }) ∧
    (x.state ≠ 1 → exec (.leaseGrant part n ngrant tEvict termEnd frames) s = .next s ∧ exec (.leaseDeny part n) s = .next s) ∧
    (x.state = 1 → x.tok = 0xFFFF → ∃ t, exec (.leaseDeny part n) s = .next t ∧ t.lease p n.toNat = { x with state := 4, den := true }) ∧
    (x.state = 2 → put (.leaseReclaim part n) reclaimed ∧ (x.termEnd ≠ 0 → x.termEnd ≤ s.pk.tim → put (.leaseTermEnd part n) reclaimed)) ∧
    (x.state ≠ 2 → exec (.leaseReclaim part n) s = .next s) ∧ (x.termEnd = 0 ∨ s.pk.tim < x.termEnd → exec (.leaseTermEnd part n) s = .next s) ∧
    (x.state = 3 → granule < x.ngrant.toNat → granule ∉ x.copied → granuleBusy s p (x.dva + granule * 2 ^ 21) = false → granule ∈ x.accessed →
      ∃ t, exec (.reclaimGranuleCopy part n granule data) s = .next t ∧ granule ∈ (t.lease p n.toNat).copied ∧
        (t.lease p n.toNat).ncopy = x.ncopy + 1 ∧ (t.lease p n.toNat).state = 3 ∧
        ((s.part p).proot.getLsbD 0 = false → memWf data = true → ∀ y < 2 ^ 21, mread t.mem.ram (x.frames.getD granule 0 + y) = mread data y)) ∧
    (x.state = 3 → (∀ g < x.ngrant.toNat, g ∈ x.copied) → ∃ t, exec (.leaseAck part n) s = .next t ∧ t.lease p n.toNat = { x with state := 4 } ∧
      t.out = s.out ++ [.leaseAck p n.toNat]) ∧
    (x.state = 3 → x.deadline ≤ s.pk.tim → (∀ d < 4, dieReachable s d = true) → ∃ t, exec (.reclaimDeadline part n) s = .next t ∧ (t.lease p n.toNat).state = 5 ∧
      ((t.lease p n.toNat).lost = true ↔ ∃ g < x.ngrant.toNat, g ∈ x.accessed ∧ g ∉ x.copied)) ∧
    (s.pk.tim < x.deadline → exec (.reclaimDeadline part n) s = .next s)

/-- Leases are requested, granted, reclaimed, revoked and returned: the conjunction of the claims above. What it
says beyond the rules is the model's choice, by logs 42, 43, 78, 105. -/
def Obligations.LeasesFollowRequestsAndEvents : Prop :=
  Claims.LeasesAreRequestedAndReturned ∧ Claims.LeaseStatesFollowTheirEvents

/-! ## Skeins (R272-R292) -/

namespace Sys2Proof.Claims

/-- A thread reads a skein through the registration of its lowest-numbered GM CSR: its group and floor (R277). -/
def ReadsThrough (k : Skein) (t : Thread) (g : BitVec 16) (f : Nat) : Prop :=
  (k.rgrp.map (·.1)).Nodup ∧ (g, f) ∈ k.rgrp ∧ g ≠ 0xFFFF ∧
    ∃ j < 4, t.gmOf j = g ∧ ∀ i < j, t.gmOf i = 0xFFFF ∨ ∀ r ∈ k.rgrp, r.1 ≠ t.gmOf i

/-- A thread has no reader registration on a skein. -/
def ReadsNothing (k : Skein) (t : Thread) : Prop := ∀ j < 4, t.gmOf j = 0xFFFF ∨ ∀ r ∈ k.rgrp, r.1 ≠ t.gmOf j

/-- A buffer address that SKW and SKR take at issue: aligned, global or local in window W0. -/
abbrev SkeinBuffer (s : State) (v : W64) : Prop :=
  let g := s.me.seg (v.toNat / 2 ^ 61)
  v.toNat % 16 = 0 ∧ (g.attr.toNat / 256 = 1 ∨ (g.attr.toNat / 256 = 2 ∧ g.base.toNat + v.toNat % 2 ^ 61 < 0x100000))

/-- A skein after a reader group's floor has been raised to an instant (R277). -/
def raised (k : Skein) (g : BitVec 16) (tau : Nat) : Skein :=
  { k with rgrp := k.rgrp.map (fun r => if r.1 = g then (g, max r.2 tau) else r) }

/-- Bytes of an element, and of a state (R274). -/
def elementSize (x : SkeinDesc) : Nat := if x.fmt = 4 then 8 else if x.fmt = 6 then 2 else 4
def stateSize (x : SkeinDesc) : Nat := x.count * elementSize x

/-- Storage slot `sl` of a skein lies in one page, which its engine reaches for an access at physical address `pa` (R274). -/
def SlotAt (s : State) (part : Nat) (x : SkeinDesc) (sl pa : Nat) (acc : BitVec 4) : Prop :=
  let size := stateSize x
  let a := x.base + sl * ((size + 63) / 64 * 64)
  1 ≤ x.count ∧ a % 4096 + size ≤ 4096 ∧ anyPoison s.mem.ramPoison pa size = false ∧
    ∃ leaf, leafCls leaf ≠ 4 ∧ dieReachable s (dieOf (homeOf s part a pa leaf)) = true ∧
      ∀ eval, translate s (clusterOf x.hcore) part a acc eval = .ok (s, leaf, pa)

/-- No request is at a skein's engine. -/
abbrev Unasked (k : Skein) : Prop := k.parked = [] ∧ k.queue = [] ∧ k.serving = [] ∧ k.marks = [] ∧ k.past6 = []

/-- A request that has not reached its engine: the thread waits for it, and the skein's engine, which nobody waits at, can be reached,
as can the thread's own scratchpad, in which no lock and none of its stores is pending. -/
def AtEngine (s : State) (core slot : Nat) (w : Wait) (x : SkeinDesc) : Prop :=
  WaitsFor s (keyOf core slot) w ∧ w.sent = false ∧ w.eval.toNat < 65536 ∧
    (s.skein (s.partOf core) w.eval.toNat).desc = some x ∧ Unasked (s.skein (s.partOf core) w.eval.toNat) ∧
    dieReachable s (dieOf x.hcore) = true ∧ dieReachable s (dieOf core) = true ∧ (s.arch core).locks = [] ∧
    (s.core core).storeq = [] ∧ (s.thread (keyOf core slot)).cmp = [] ∧ tget [] (s.thread (keyOf core slot)).efence 4 = []

/-- The group has recorded the wait of a thread (R283). -/
def RecordIs (x : Group) (n tau key : Nat) (ret : Bool) : Prop :=
  x.wv = true ∧ x.wskein.toNat = n ∧ x.winst = BitVec.ofNat 64 tau ∧ x.wret = ret ∧ x.wthread = key

end Sys2Proof.Claims

/-- R278, R279, R288, R290 and R291: the skein instructions check skein number, instant and buffer at issue and park on the engine,
an SKW after its DEV release; SKFLR raises a floor, and SKQRY reads T, O, the state word, the floor and SKT. -/
def Sys2Proof.Claims.SkeinInstructionsCheckAndPark : Prop :=
  ∀ (s : State) (a b c d : Reg) (q : BitVec 5),
    let n := (s.me.rg a).toNat
    let part := s.partOf s.myCore
    let k := s.skein part n
    (65535 < n → ∀ i ∈ [Instr.skw c b a d, .skr c b a d, .skre c b a d, .skbind b a d, .skunb b a d, .skflr b a d, .skqry q a d],
      Claims.Traps s i FORMAT (s.me.rg a)) ∧
    (n ≤ 65535 →
      (s.me.rg b = 0xFFFFFFFFFFFFFFFF → ∀ i ∈ [Instr.skw c b a d, .skr c b a d, .skre c b a d], Claims.Traps s i FORMAT (s.me.rg b)) ∧
      (s.me.rg b ≠ 0xFFFFFFFFFFFFFFFF →
        Claims.ParksOn s (.skre c b a d) 0x08 (s.me.rg a) ∧
        ((s.me.rg c).toNat % 16 ≠ 0 → ∀ i ∈ [Instr.skw c b a d, .skr c b a d], Claims.Traps s i ALIGN (s.me.rg c)) ∧
        (Claims.SkeinBuffer s (s.me.rg c) → Claims.ParksOn s (.skr c b a d) 0x08 (s.me.rg a) ∧
          (releaseWaits s s.cur 4 false = true → exec (.skw c b a d) s = .next s) ∧
          (Claims.NoReleaseWait s 4 → ∃ t, exec (.skw c b a d) s = .next t ∧ Claims.Parked s t (.skw c b a d) 0x09 (s.me.rg a) ∧
            t.mem = (drainCluster s (clusterOf s.myCore)).mem))) ∧
      Claims.ParksOn s (.skbind b a d) 0x08 (s.me.rg a) ∧ Claims.ParksOn s (.skunb b a d) 0x08 (s.me.rg a) ∧
      (Claims.ReadsNothing k s.me → exec (.skflr b a d) s = Claims.regEnd s d 1 6) ∧
      (∀ g f, Claims.ReadsThrough k s.me g f → Claims.Unasked k → ∃ t, exec (.skflr b a d) s = .next t ∧
        t.skein part n = Claims.raised k g (s.me.rg b).toNat ∧ (∀ m, m ≠ n → t.skein part m = s.skein part m) ∧
        t.me.rg d = 0 ∧ t.me.pc = s.me.pc + 4 ∧ t.mem = s.mem) ∧
      (q = 0 → exec (.skqry q a d) s = Claims.regEnd s d (if k.picks = [] then 0xFFFFFFFFFFFFFFFF else BitVec.ofNat 64 k.newest) 6) ∧
      (q = 1 → exec (.skqry q a d) s = Claims.regEnd s d (if k.picks = [] then 0xFFFFFFFFFFFFFFFF else BitVec.ofNat 64 k.oldest) 6) ∧
      (q = 2 → k.rgrp.length ≤ 8 → k.picks.length ≤ 16 → ∃ w : W64, exec (.skqry q a d) s = Claims.regEnd s d w 6 ∧
        w.toNat / 2 ^ 62 = (if k.desc = none then 0 else if k.picks = [] then 1 else 2) ∧
        w.toNat / 2 ^ 32 % 2 ^ 16 = (k.wgrp.getD 0xFFFF).toNat ∧ w.toNat / 2 ^ 8 % 16 = k.rgrp.length ∧ w.toNat % 32 = k.picks.length) ∧
      (q = 3 → (Claims.ReadsNothing k s.me → exec (.skqry q a d) s = Claims.regEnd s d 0xFFFFFFFFFFFFFFFF 6) ∧
        ∀ g f, Claims.ReadsThrough k s.me g f → exec (.skqry q a d) s = Claims.regEnd s d (BitVec.ofNat 64 f) 6) ∧
      (q = 4 → exec (.skqry q a d) s = Claims.regEnd s d (s.part part).skt 6))

/-- R279, R280 and R287: a read at its engine is refused, served from the pick of its instant, or parks with its group's wait
record set; each raises the floor as R277 says. -/
def Sys2Proof.Claims.SkeinReadsAreServed : Prop :=
  ∀ (s : State) (core slot : Nat) (w : Wait) (x : SkeinDesc) (b c a d : Reg), slot < 8 → core < 1280 → Claims.AtEngine s core slot w x →
    let key := keyOf core slot
    let part := s.partOf core
    let n := w.eval.toNat
    let t := s.thread key
    let k := s.skein part n
    let tau := (t.rg b).toNat
    let i := (t.rg c).toNat
    let st (kind : Nat) : W64 := BitVec.ofNat 64 (n * 2 ^ 32 + k.picks.length % 16 * 16 + kind)
    let fails (cause : Byte) (e : W64) : Prop := ∃ u, exec (.weftRequest core slot) s = .next u ∧
      Claims.replyOf u key = some (Reply.fail cause e) ∧ u.mem = s.mem ∧ u.skein part n = k
    w.kind = 0x08 → (t.rg a).toNat = n →
    (w.instr = .skre c b a d ∨ w.instr = .skr c b a d → Claims.ReadsNothing k t → fails ACCESS (BitVec.ofNat 64 n)) ∧
    ∀ g f, Claims.ReadsThrough k t g f →
      (w.instr = .skre c b a d → x.count ≤ i → fails FORMAT (t.rg c)) ∧
      (w.instr = .skre c b a d → i < x.count →
        (tau < f ∨ (k.picks ≠ [] ∧ tau < k.oldest) → fails SKBEHIND (BitVec.ofNat 64 tau)) ∧
        (f ≤ tau → k.oldest ≤ tau → k.picks ≠ [] → k.newest + x.f < tau → fails SKFAR (BitVec.ofNat 64 tau)) ∧
        (f ≤ tau → (k.picks = [] ∨ (k.oldest ≤ tau ∧ k.newest + x.h < tau ∧ tau ≤ k.newest + x.f)) →
          ∃ u, exec (.weftRequest core slot) s = .next u ∧ Claims.replyOf u key = none ∧ u.mem = s.mem ∧
            (u.skein part n).parked = [key] ∧ (u.skein part n).rgrp = (Claims.raised k g tau).rgrp ∧ (u.skein part n).picks = k.picks ∧
            Claims.RecordIs (u.group part g.toNat) n tau key false ∧ (u.part part).walks = (s.part part).walks ++ [g.toNat]) ∧
        (∀ sl pa, f ≤ tau → k.oldest ≤ tau → tau ≤ k.newest → (k.picks.map (·.1)).Nodup → (tau, sl) ∈ k.picks →
          Claims.SlotAt s part x sl pa 1 → ∃ u, exec (.weftRequest core slot) s = .next u ∧ u.mem = s.mem ∧
            (u.skein part n).rgrp = (Claims.raised k g tau).rgrp ∧ (u.skein part n).picks = k.picks ∧ (u.skein part n).parked = [] ∧
            Claims.replyOf u key = some { Reply.plain with
              f := [(d, BitVec.ofNat 128 (Claims.field s pa (i * Claims.elementSize x) (Claims.elementSize x)))], acquire := some 4,
              csr := [(0x030, st 1)] })) ∧
      (∀ sl pa o, w.instr = .skr c b a d → Claims.SegOk t (t.rg c) (Claims.stateSize x) rightW 2 o → o + Claims.stateSize x ≤ 0x100000 →
        f ≤ tau → k.oldest ≤ tau → tau ≤ k.newest → (k.picks.map (·.1)).Nodup → (tau, sl) ∈ k.picks → Claims.SlotAt s part x sl pa 1 →
        ∃ u, exec (.weftRequest core slot) s = .next u ∧ spadBytes u.mem core o (Claims.stateSize x) = mreadN s.mem.ram pa (Claims.stateSize x) ∧
          u.mem.ram = s.mem.ram ∧ (∀ y, y < core * 2 ^ 20 + o ∨ core * 2 ^ 20 + o + Claims.stateSize x ≤ y → mread u.mem.spad y = mread s.mem.spad y) ∧
          Claims.replyOf u key = some { Reply.plain with
            g := if d = 0 then [] else [(d, 1)], acquire := some 4, csr := [(0x030, st 1)] })

/-- R276, R277, R281, R288 and R290: an SKW at its engine stores a pick in a free slot, or in the oldest pick's once every floor
allows its retirement, and parks until then; SKBIND and SKUNB begin and end registrations with their statuses. -/
def Sys2Proof.Claims.SkeinPicksAndRegistrations : Prop :=
  ∀ (s : State) (core slot : Nat) (w : Wait) (x : SkeinDesc) (b c a d : Reg), slot < 8 → core < 1280 → Claims.AtEngine s core slot w x →
    let key := keyOf core slot
    let part := s.partOf core
    let n := w.eval.toNat
    let t := s.thread key
    let k := s.skein part n
    let tau := (t.rg b).toNat
    let g := (t.rg b).setWidth 16
    let writer := (t.rg b).getLsbD 16
    let size := Claims.stateSize x
    let gives (r : Reply) (p : State → Prop) : Prop := ∃ u, exec (.weftRequest core slot) s = .next u ∧ Claims.replyOf u key = some r ∧ p u
    let allowed : Prop := ∀ r ∈ k.rgrp, if 2 ≤ x.p then ((k.picks[1]?).getD (0, 0)).1 ≤ r.2 else k.oldest < r.2
    let member (y : BitVec 16) : Prop := y ≠ 0xFFFF ∧ ∃ j < 4, t.gmOf j = y
    let holds : Prop := if writer then k.wgrp = some g else ∃ r ∈ k.rgrp, r.1 = g
    (∀ o, w.kind = 0x09 → w.instr = .skw c b a d → (t.rg a).toNat = n → Claims.SegOk t (t.rg c) size rightR 2 o → o + size ≤ 0x100000 →
      ((∀ y, k.wgrp = some y → ¬member y) → (k.wgrp ≠ some 0xFFFF) → gives (Reply.fail ACCESS (BitVec.ofNat 64 n)) (fun u => u.mem = s.mem ∧ u.skein part n = k)) ∧
      (∀ y, k.wgrp = some y → member y →
        (k.picks ≠ [] → tau ≤ k.newest → gives (Reply.fail FORMAT (BitVec.ofNat 64 tau)) (fun u => u.mem = s.mem ∧ u.skein part n = k)) ∧
        (k.picks = [] ∨ k.newest < tau → spadPoisoned s.mem core o size = false →
          (∀ sl pa, k.picks.length < x.p → sl < x.p → (∀ p ∈ k.picks, p.2 ≠ sl) → (∀ j < sl, ∃ p ∈ k.picks, p.2 = j) → Claims.SlotAt s part x sl pa 2 →
            gives { Reply.plain with g := if d = 0 then [] else [(d, 0)] } (fun u => (u.skein part n).picks = k.picks ++ [(tau, sl)] ∧
              mreadN u.mem.ram pa size = spadBytes s.mem core o size ∧ ∀ y, y < pa ∨ pa + size ≤ y → mread u.mem.ram y = mread s.mem.ram y)) ∧
          (∀ p rest pa, k.picks = p :: rest → k.picks.length = x.p → allowed → Claims.SlotAt s part x p.2 pa 2 →
            gives { Reply.plain with g := if d = 0 then [] else [(d, 1)] } (fun u => (u.skein part n).picks = rest ++ [(tau, p.2)] ∧
              mreadN u.mem.ram pa size = spadBytes s.mem core o size)) ∧
          (k.picks.length = x.p → 1 ≤ x.p → ¬allowed → ∃ u, exec (.weftRequest core slot) s = .next u ∧ Claims.replyOf u key = none ∧
            (u.skein part n).parked = [key] ∧ (u.skein part n).picks = k.picks ∧ Claims.RecordIs (u.group part y.toNat) n tau key true ∧
            u.mem = s.mem)))) ∧
    (w.kind = 0x08 →
      (w.instr = .skbind b a d ∨ w.instr = .skunb b a d → 2 ^ 17 ≤ (t.rg b).toNat ∨ ¬member g → gives (Reply.fail ACCESS (t.rg b)) (fun u => u.mem = s.mem ∧ u.skein part n = k)) ∧
      ((t.rg b).toNat < 2 ^ 17 → member g →
        (w.instr = .skbind b a d →
          (holds → gives (Reply.reg d 1) (fun u => u.skein part n = k)) ∧
          (¬holds → writer = true → k.wgrp ≠ none → gives (Reply.reg d 2) (fun u => u.skein part n = k)) ∧
          (¬holds → writer = false → k.rgrp.length = 8 → gives (Reply.reg d 3) (fun u => u.skein part n = k)) ∧
          (writer = true → k.wgrp = none → gives (Reply.reg d 0) (fun u => u.skein part n = { k with wgrp := some g })) ∧
          (¬holds → writer = false → k.rgrp.length < 8 → gives (Reply.reg d 0) (fun u => u.skein part n = { k with
            rgrp := k.rgrp ++ [(g, if k.picks = [] then 0 else k.oldest)] }))) ∧
        (w.instr = .skunb b a d →
          (¬holds → gives (Reply.reg d 1) (fun u => u.skein part n = k)) ∧
          (holds → writer = true → k.rgrp ≠ [] → gives (Reply.reg d 0) (fun u => u.skein part n = { k with wgrp := none })) ∧
          (holds → writer = false → k.wgrp = none → (∀ r ∈ k.rgrp, r.1 = g) → gives (Reply.reg d 0) (fun u => u.skein part n = {})))))

/-- Skein instructions check, park and register, and picks are stored and retired: the conjunction of the claims
above. What it says beyond the rules is the model's choice, by logs 18, 68, 108. -/
def Obligations.SkeinInstructionsAndPicks : Prop :=
  Claims.SkeinInstructionsCheckAndPark ∧ Claims.SkeinPicksAndRegistrations

/-- R283 and R284: a walk whose successors close a cycle of two groups serves the read with the later instant with kind CX, from the
newest pick though it lies beyond H; a walk from a group without a record does nothing. -/
def Sys2Proof.Claims.CausalityWalksServeTheLatestRead : Prop :=
  ∀ (s : State) (part : BitVec 4) (g0 : Nat) (rest : List Nat),
    let p := part.toNat
    (s.part p).walks = g0 :: rest → (∀ c ∈ [CtxState.shadowed, .spilling, .spilled, .restoring, .failed], (s.part p).ctx ≠ c) →
    let x0 := s.group p g0
    let n0 := x0.wskein.toNat
    let k0 := s.skein p n0
    (x0.wv = false → exec (.causalityWalk part) s = .next (s.setPart p { s.part p with walks := rest })) ∧
    (∀ (g1 : Nat) (w : Wait) (dsc : SkeinDesc) (b c a d : Reg) (T sl pa : Nat),
      let x1 := s.group p g1
      let k1 := s.skein p x1.wskein.toNat
      let key := x0.wthread
      x0.wv = true → x0.wret = false → k0.wgrp.map (·.toNat) = some g1 →
      (g1 = g0 ∨ (x1.wv = true ∧ x1.wret = false ∧ k1.wgrp.map (·.toNat) = some g0 ∧ x1.winst.toNat < x0.winst.toNat)) →
      Claims.WaitsFor s key w → w.instr = .skre c b a d → ((s.thread key).rg a).toNat = n0 → ((s.thread key).rg b) = x0.winst →
      ((s.thread key).rg c).toNat < dsc.count → k0.desc = some dsc → k0.picks = [(T, sl)] → T < x0.winst.toNat →
      k0.parked = [key] → k0.queue = [] → k0.serving = [] → dieReachable s (dieOf dsc.hcore) = true → Claims.SlotAt s p dsc sl pa 1 →
      ∃ u, exec (.causalityWalk part) s = .next u ∧ u.mem = s.mem ∧ (u.part p).walks = rest ∧ (u.group p g0).wv = false ∧
        Claims.replyOf u key = some { Reply.plain with
          f := [(d, BitVec.ofNat 128 (Claims.field s pa (((s.thread key).rg c).toNat * Claims.elementSize dsc) (Claims.elementSize dsc)))],
          acquire := some 4, csr := [(0x030, BitVec.ofNat 64 (n0 * 2 ^ 32 + 16 + 4))] })

/-- Skein reads are served at their instant, and causality walks serve the latest read of a cycle: the conjunction
of the claims above. What it says beyond the rules is the model's choice, by logs 18, 108. -/
def Obligations.SkeinReadsAndCausality : Prop :=
  Claims.SkeinReadsAreServed ∧ Claims.CausalityWalksServeTheLatestRead

/-! ## Work queues, tokens, kernels (R296-R322) -/

namespace Sys2Proof.Claims

/-- Every queue but one holds no kernel and is not about to close; that one is listed once. -/
def OnlyQueue (s : State) (q : Nat) : Prop :=
  ∀ x ∈ s.queues, (x.1 = q → x.2 = s.queue q) ∧ (x.1 ≠ q → x.2.kernels = [] ∧ x.2.state ≠ .draining)
/-- No queue holds a kernel or is about to close. -/
abbrev NoKernels (s : State) : Prop := ∀ x ∈ s.queues, x.2.kernels = [] ∧ x.2.state ≠ .draining

/-- No token of a partition is in ERROR. -/
def NoErrors (s : State) (part : Nat) : Prop := ∀ t, (s.token part t).err = false

/-- A die stands at a rotation boundary at which nothing has been decided (R313, R314). -/
abbrev AtBoundary (s : State) (die : Nat) (last : Option Nat) : Prop :=
  let x := s.die die
  x.relock = none ∧ (x.cyc - x.rotBase) % 8 ≤ 1 ∧ last ≠ some (x.rotBase + (x.cyc - x.rotBase) / 8 * 8)

/-- A field of a record of R301. -/
def recordField (r : BitVec 512) (lo n : Nat) : Nat := r.toNat / 2 ^ lo % 2 ^ n

/-- A kernel of a launch with a signal token and no shuttle (R301). -/
abbrev Signals (k : Kernel) (t : Nat) : Prop := k.shuttle = none ∧ k.record.getLsbD 62 = true ∧ recordField k.record 496 16 = t
/-- It waits on no token. -/
abbrev WaitsOnNone (k : Kernel) : Prop := k.record.getLsbD 60 = false ∧ k.record.getLsbD 61 = false

/-- A record's fixed fields pass the first two checks of R306. -/
abbrev RecordOk (r : BitVec 512) : Prop :=
  recordField r 51 7 = 0 ∧ 2 ≤ recordField r 48 3 ∧ recordField r 48 3 ≤ 5 ∧ recordField r 0 48 % 4 = 0

/-- A QCFG value of R297 as a queue's configuration; the fields writable only while CLOSED are said for a CLOSED queue. -/
def configured (w : WorkQueue) (full : Bool) (v : W64) : WorkQueue :=
  let x := v.toNat
  let weight := x / 2 ^ 32 % 256
  let w1 := { w with
    irq := v.getLsbD 56, vec := BitVec.ofNat 8 (x / 2 ^ 48), weight := BitVec.ofNat 8 (if weight = 0 then 1 else weight),
    prio := BitVec.ofNat 3 (x / 2 ^ 24) }
  if full = true ∧ w.state = .closed then { w1 with
    part := BitVec.ofNat 4 (x / 2 ^ 44), shuttle := v.getLsbD 43, spill := v.getLsbD 42, qdep := BitVec.ofNat 6 x }
  else w1

/-- A kernel as it is accepted (R300). -/
def accepted (w : WorkQueue) (r : BitVec 512) (st : KernelState) : Kernel := {
  serial := w.serial, record := r, shuttle := none, handler := 0, state := st, error := false, cause := 0, places := [], pmask := 0,
  groups := [], nextRank := 0, ended := 0, wdStart := 0, wdRun := 0, replied := false, clusters := [], tid0 := 0, refused := false,
  unacked := [], valid := false, holdAt := none, ring := none }

/-- A queue whose head does not wait for a decision (R313). -/
abbrev idle (w : WorkQueue) : WorkQueue := { w with eligible := false }

end Sys2Proof.Claims

/-- R312, R320 and R321: TOKS subtracts from a token's count or sets it, with its status; a token that reaches 0
wakes its waiters; TOKE sets ERROR; TOKQ reads the word; TOKW ends at 0 as an acquire, with status 1 on ERROR,
or waits; a host write sets it. What it says beyond the rules is the model's choice, by log 71. -/
def Obligations.TokensCountSignalsAndErrors : Prop :=
  ∀ (s : State) (a b d : Reg) (core slot : Nat) (w : Wait),
    let n := (s.me.rg a).toNat
    let part := s.partOf core
    let key := keyOf core slot
    let tn := w.eval.toNat
    let x := s.token part tn
    let gives (r : Reply) (y : Token) : Prop := ∃ u, exec (.tokenRequest core slot) s = .next u ∧ Claims.replyOf u key = some r ∧
      u.token part tn = y ∧ (∀ m, m ≠ tn → u.token part m = s.token part m) ∧ u.mem = s.mem
    (65535 < n → ∀ i ∈ [Instr.tokw a d, .toks b a d, .tokq a d, .toke a d], Claims.Traps s i FORMAT (s.me.rg a)) ∧
    (n ≤ 65535 → (∀ i ∈ [Instr.tokw a d, .tokq a d, .toke a d], Claims.ParksOn s i 0x01 (s.me.rg a)) ∧
      (releaseWaits s s.cur 4 false = true → exec (.toks b a d) s = .next s) ∧
      (Claims.NoReleaseWait s 4 → ∃ t, exec (.toks b a d) s = .next t ∧ Claims.Parked s t (.toks b a d) 0x01 (s.me.rg a) ∧
        t.mem = (drainCluster s (clusterOf s.myCore)).mem)) ∧
    (Claims.WaitsFor s key w → slot < 8 → w.kind = 0x01 → dieReachable s (tn / 16384) = true → Claims.NoKernels s →
      (w.instr = .tokq a d → gives (Reply.reg d (BitVec.ofNat 64 ((if x.err then 2 ^ 32 else 0) + x.count.toNat))) x) ∧
      (w.instr = .toke a d → gives (Reply.reg d (if x.err then 1 else 0)) { x with err := true }) ∧
      (w.instr = .tokw a d →
        (x.err = true → gives (Reply.reg d 1) x) ∧ (x.err = false → x.count = 0 → gives { Reply.reg d 0 with acquire := some 4 } x) ∧
        (x.err = false → x.count ≠ 0 → ∃ u, exec (.tokenRequest core slot) s = .next u ∧ u.token part tn = x ∧
          (u.thread key).wait = some { w with kind := 0x0D } ∧ (u.thread key).state = .parked)) ∧
      (w.instr = .toks b a d →
        let v : W64 := if b = 0 then 1 else (s.thread key).rg b
        let c : W32 := v.setWidth 32
        (v.getLsbD 63 = true → gives (Reply.reg d 0) { err := false, count := c }) ∧
        (v.getLsbD 63 = false → x.err = true → gives (Reply.reg d 2) x) ∧
        (v.getLsbD 63 = false → x.err = false → x.count.toNat < c.toNat → gives (Reply.reg d 1) { err := false, count := 0 }) ∧
        (v.getLsbD 63 = false → x.err = false → c.toNat ≤ x.count.toNat → gives (Reply.reg d 0) { err := false, count := x.count - c }) ∧
        (∀ k y a' d', k ≠ key → s.partOf (coreOf k) = part → Claims.WaitsFor s k y → y.kind = 0x0D → y.instr = .tokw a' d' →
          ((s.thread k).rg a').toNat = tn → v.getLsbD 63 = false → x.err = false → x.count.toNat ≤ c.toNat →
          ∃ u, exec (.tokenRequest core slot) s = .next u ∧ Claims.replyOf u k = some { Reply.reg d' 0 with acquire := some 4 }))) ∧
    (∀ (fn : Nat) (tok : BitVec 16) (v : W64), Claims.NoKernels s →
      let p := if fn = 0 then s.host.wpart.toNat else fn - 1
      (fn ≤ 16 → dieReachable s (tok.toNat / 16384) = false → exec (.tokenHostWrite fn tok v) s = .next s) ∧
      (fn ≤ 16 → dieReachable s (tok.toNat / 16384) = true → ∃ t, exec (.tokenHostWrite fn tok v) s = .next t ∧ t.token p tok.toNat = { err := false, count := v.setWidth 32 } ∧ t.mem = s.mem) ∧
      (16 < fn → exec (.tokenHostWrite fn tok v) s = .next s))

/-- R297, R299, R300, R318 and R319: LAUNCH and the enqueue window give their record to a queue, whose unit accepts
it with the next serial or refuses it: status 1 full, 2 CLOSED or DRAINING, 3 no such queue, 4 a shuttle queue.
What it says beyond the rules is the model's choice, by logs 69, 72, 109. -/
def Obligations.RecordsEnterQueues : Prop :=
  ∀ (s : State) (a b d : Reg) (o fn : Nat) (q : BitVec 15) (bytes : List Byte) (aligned : Bool),
    let ea := s.me.rg a
    let n := (s.me.rg b).toNat
    let w := s.queue n
    let i := Instr.launch b a d
    let r : BitVec 512 := BitVec.ofNat 512 (natOfBytes (spadBytes s.mem s.myCore o 64))
    let own : Prop := n ≤ 32767 ∧ w.part.toNat = s.partOf s.myCore
    let arrives := Instr.launchRecordArrival s.myCore (slotOf s.cur)
    let answers (st : W64) (p : State → Prop) : Prop := ∃ t, exec i s = .next t ∧ Claims.Parked s t i 0x01 ea ∧ t.queues = s.queues ∧
      (queueHeld t n = true → exec arrives t = .next t) ∧
      (queueHeld t n = false → ∃ u, exec arrives t = .next u ∧ Claims.replyOf u s.cur = some (Reply.reg d st) ∧ p u) ∧
      (w.spills = false ∨ w.spill = false → queueHeld t n = false)
    let full (w : WorkQueue) : Prop := w.spill = false ∧ w.depth = w.qdep.toNat + 1
    let room (w : WorkQueue) : Prop := w.depth ≤ w.qdep.toNat
    let takes (w : WorkQueue) (r : BitVec 512) (u : State) (q : Nat) : Prop := (u.queue q).serial = w.serial + 1 ∧
      (w.kernels = [] → (u.queue q).kernels = [Claims.accepted w r (if w.state = .frozen then .queued else .waiting)]) ∧
      (w.kernels ≠ [] → (u.queue q).kernels = w.kernels ++ [Claims.accepted w r .queued])
    let calm (w : WorkQueue) (q part : Nat) : Prop := w.part.toNat = part ∧ Claims.OnlyQueue s q ∧ Claims.NoErrors s part ∧
      w.shuttle = false ∧ (∀ k ∈ w.kernels, k.ring = none) ∧ (w.state = .opened ∨ w.state = .frozen) ∧ (w.kernels = [] ∨ ∃ k, w.head = some k ∧ k.state = .waiting)
    (ea.toNat % 64 ≠ 0 → Claims.Traps s i ALIGN ea) ∧
    (ea.toNat % 64 = 0 → Claims.SegOk s.me ea 64 rightR 2 o → o + 64 ≤ 0x100000 → Claims.Unlocked s o 64 → Claims.NoStores s →
      acquirePending s s.cur = false → Claims.NoReleaseWait s 4 → dieReachable s (dieOf s.myCore) = true → spadPoisoned s.mem s.myCore o 64 = false →
      (¬own → ∃ t, exec i s = .next t ∧ (d ≠ 0 → t.me.rg d = 3) ∧ t.me.pc = s.me.pc + 4 ∧ t.queues = s.queues) ∧
      (own → dieReachable s (n / 8192) = true →
        (w.shuttle = true → answers 4 (fun u => u.queues = s.queues)) ∧
        (w.shuttle = false → w.state = .closed ∨ w.state = .draining → answers 2 (fun u => u.queues = s.queues)) ∧
        (w.shuttle = false → w.state = .opened ∨ w.state = .frozen → full w → answers 1 (fun u => u.queues = s.queues)) ∧
        (calm w n (s.partOf s.myCore) → room w → answers 0 (fun u => takes w r u n)))) ∧
    (let y := s.queue q.toNat
     let write := exec (.enqueueWindowWrite fn q bytes aligned) s
     let inc (c : BitVec 16) : BitVec 16 := if c = 0xFFFF then c else c + 1
     let good : Prop := aligned = true ∧ bytes.length = 64 ∧ (fn = 0 ∨ fn = y.part.toNat + 1) ∧ y.shuttle = false ∧
       (y.state = .opened ∨ y.state = .frozen)
     (queueHeld s q.toNat = true → write = .next s) ∧
     (queueHeld s q.toNat = false → ¬good → write = .next (s.setQueue q.toNat { y with badw := inc y.badw })) ∧
     (queueHeld s q.toNat = false → good → full y → write = .next (s.setQueue q.toNat { y with ovf := inc y.ovf })) ∧
     (queueHeld s q.toNat = false → good → calm y q.toNat y.part.toNat → room y → ∃ u, write = .next u ∧ takes y (BitVec.ofNat 512 (natOfBytes bytes)) u q.toNat))

/-- R297 and R298: a write to QCFG sets the fields its function may write, then OPEN, CLOSE, DRAIN, THAW and PURGE
act on the queue as its state allows; a write to QCNT clears its counts. What it says beyond the rules is the
model's choice, by logs 70, 72. -/
def Obligations.QueueCommandsFollowTheirTable : Prop :=
  ∀ (s : State) (fn : Nat) (q : BitVec 15) (v : W64),
    let n := q.toNat
    let w := s.queue n
    let full : Bool := fn == 0 || fn == 17
    let some_ : Prop := full = true ∨ fn = w.part.toNat + 1
    let c := Claims.configured w full v
    let all := [Instr.qcfgOpen fn q v, .qcfgClose fn q v, .qcfgDrain fn q v, .qcfgThaw fn q v, .qcfgPurge fn q v]
    let becomes (i : Instr) (y : WorkQueue) : Prop := ∃ t, exec i s = .next t ∧ t.queue n = Claims.idle y ∧ (∀ m, m ≠ n → t.queue m = Claims.idle (s.queue m)) ∧
      t.parts = s.parts ∧ t.mem = s.mem
    (¬some_ → ∀ i ∈ all, exec i s = .next s) ∧
    (some_ → Claims.OnlyQueue s n →
      (w.kernels = [] →
        (w.state = .closed → becomes (.qcfgOpen fn q v) { c with state := .opened } ∧ ∀ i ∈ all.tail, becomes i c) ∧
        (w.state = .opened → becomes (.qcfgClose fn q v) { c with state := .closed } ∧ becomes (.qcfgDrain fn q v) { c with state := .closed } ∧
          becomes (.qcfgOpen fn q v) c ∧ becomes (.qcfgThaw fn q v) c ∧ becomes (.qcfgPurge fn q v) c) ∧
        (w.state = .frozen → w.prior = .opened → becomes (.qcfgThaw fn q v) { c with state := .opened, eser := 0, ecause := 0 } ∧
          becomes (.qcfgOpen fn q v) c ∧ becomes (.qcfgClose fn q v) c ∧ becomes (.qcfgDrain fn q v) c)) ∧
      (∀ k, w.kernels = [k] → k.ring = none → k.state = .running → w.state = .opened →
        becomes (.qcfgDrain fn q v) { c with state := .draining } ∧ becomes (.qcfgClose fn q v) c ∧ becomes (.qcfgPurge fn q v) c) ∧
      (∀ k tok, w.kernels = [k] → k.ring = none → k.state = .queued ∨ k.state = .waiting → w.state = .opened → Claims.Signals k tok →
        Claims.recordField k.record 448 16 = 0 → ∃ t, exec (.qcfgPurge fn q v) s = .next t ∧ t.queue n = Claims.idle { c with kernels := [] } ∧
          t.token c.part.toNat tok = { s.token c.part.toNat tok with err := true })) ∧
    (full = true → exec (.qcntClear fn q v) s = .next (s.setQueue n { w with ovf := 0, badw := 0 })) ∧
    (full = false → exec (.qcntClear fn q v) s = .next s)

/-- R305-R314: a decision sends the eligible queue's head to DISPATCHING, or through validation to its end; a rank
is bound with its registers; a release at the end signals and counts; the watchdog ends a kernel with HANG. What
it says beyond the rules is the model's choice, by logs 3, 7, 20, 71, 110. -/
def Obligations.KernelsAreDispatchedAndEnd : Prop :=
  ∀ (s : State) (q : BitVec 15) (k : Kernel),
    let n := q.toNat
    let w := s.queue n
    let part := w.part.toNat
    let nthr := Claims.recordField k.record 448 16
    let scope := Claims.recordField k.record 48 3
    Claims.OnlyQueue s n → w.kernels = [k] → k.shuttle = none →
    let frozen (y : WorkQueue) (cause : Byte) : Prop := y.state = .frozen ∧ y.prior = w.state ∧ y.eser = k.serial ∧ y.ecause = cause
    let fresh : Prop := w.state = .opened ∧ w.eser = 0 ∧ w.ecause = 0
    (s.pk.fatal = none → Claims.AtBoundary s 0 s.pk.dispatchedAt → w.state = .opened ∨ w.state = .draining → k.state = .waiting →
      Claims.WaitsOnNone k → w.shuttle = false → nthr = 0 →
      (Claims.RecordOk k.record → (k.record.getLsbD 63 = true → w.prio = 7) → ∃ t, exec (.dispatchDecision) s = .next t ∧
        (t.queue n).pass = w.pass + BitVec.ofNat 64 (2 ^ 20 / w.weight.toNat) ∧ (t.queue n).prioNow = w.prio ∧
        (t.queue n).weightNow = w.weight ∧ t.mem = s.mem ∧ (t.queue n).kernels = [{ k with
          state := .releasing, wdStart := s.pk.tim, wdRun := 0, valid := true, places := [], pmask := 0, groups := [] }]) ∧
      (∀ tok, ¬Claims.RecordOk k.record → fresh → k.error = false → Claims.Signals k tok → ∃ t, exec (.dispatchDecision) s = .next t ∧
        (t.queue n).kernels = [] ∧ frozen (t.queue n) FORMAT ∧ (t.token part tok).err = true)) ∧
    (¬Claims.AtBoundary s 0 s.pk.dispatchedAt → exec (.dispatchDecision) s = .next s) ∧
    (∀ core slot, core < 1280 → slot < 6 → s.pk.fatal = none → Claims.AtBoundary s (dieOf core) (s.core core).boundAt →
      w.state = .opened → k.state = .dispatching → k.valid = true → k.error = false → k.nextRank + 1 = nthr → k.groups = [] →
      k.record.getLsbD 59 = true → k.places[k.nextRank]? = some (core, slot) → (s.core core).asg = true → (s.core core).part = w.part →
      (s.core core).vict = false → (s.core core).migrating = none → (∀ x ∈ s.cores, x.2.migrating = none) → (s.part part).ctx = .resident →
      (∀ x < 7, (s.thread (keyOf core x)).state = .empty ∧ (s.thread (keyOf core x)).bound = false ∧ (s.thread (keyOf core x)).twl = false) →
      ∃ t k', exec (.rankBind core) s = .next t ∧ (t.queue n).kernels = [k'] ∧ k'.state = .running ∧ k'.nextRank = nthr ∧
        (let th := t.thread (keyOf core slot)
         th.state = .ready ∧ th.pc.toNat = Claims.recordField k.record 0 48 ∧ th.bound = true ∧ th.rank = k.nextRank ∧
         th.kid.toNat = part * 2 ^ 48 + n * 2 ^ 32 + k.serial.toNat ∧ th.wlim.toNat = Claims.recordField k.record 384 32 ∧
         (∀ i < 4, (th.rg (BitVec.ofNat 5 (4 + i))).toNat = Claims.recordField k.record (64 + 64 * i) 64) ∧
         (th.rg 8).toNat = k.nextRank ∧ (th.rg 9).toNat = nthr ∧ (∀ r, r.toNat < 4 ∨ 9 < r.toNat → th.rg r = 0) ∧ (∀ r, th.rf r = 0) ∧
         th.seg 1 = { base := 0, lim := 0x800000000000, attr := 0x10B } ∧
         th.seg 0 = { base := (s.part part).codeb, lim := (s.part part).codel, attr := 0x004 })) ∧
    (∀ tok, k.state = .releasing → w.state = .opened → Claims.Signals k tok → (∀ c ∈ k.clusters, dieReachable s (dieOfCluster c) = true ∧ (3 ≤ scope → drainOpen s c = true)) →
      (scope ≠ 5 → ∃ t, exec (.kernelReleaseEnd q k.serial) s = .next t ∧ (t.queue n).kernels = [] ∧ (t.queue n).qdone = w.qdone + 1 ∧
        ((s.token part tok).err = false → (s.token part tok).count ≠ 0 → (t.token part tok).count = (s.token part tok).count - 1) ∧
        t.out = (if w.irq then s.out ++ [.msix (part + 1) w.vec] else s.out)) ∧
      (scope = 5 → k.unacked = [] → k.refused = true → fresh → k.error = false → ∃ t, exec (.kernelReleaseEnd q k.serial) s = .next t ∧
        (t.queue n).kernels = [] ∧ frozen (t.queue n) FENCEERR ∧ (t.token part tok).err = true)) ∧
    (k.state ≠ .releasing → exec (.kernelReleaseEnd q k.serial) s = .next s) ∧
    (∀ tok core slot, let wdog := Claims.recordField k.record 416 32
      let th := s.thread (keyOf core slot)
      wdog ≠ 0 →
      ((s.part part).ctx ≠ .resident → (s.part part).ctx ≠ .degraded → k.wdRun < wdog → exec (.watchdogExpiry q k.serial) s = .next s) ∧
      ((s.part part).ctx = .resident ∨ (s.part part).ctx = .degraded →
      (k.wdRun + (s.pk.tim - k.wdStart) < wdog → exec (.watchdogExpiry q k.serial) s = .next s) ∧
      (wdog ≤ k.wdRun + (s.pk.tim - k.wdStart) → k.state = .running → fresh → k.error = false → Claims.Signals k tok →
        boundKeys s (kidOf part n k.serial) = [keyOf core slot] → core < 1280 → slot < 7 → th.state ≠ .empty → th.killed = none →
        th.twl = false → th.twt = false → th.gm = [] → (s.arch core).locks = [] → (s.arch core).lockq = [] → (s.arch core).bobbins = [] →
        Claims.EnginesIdle s core → Claims.NoFollower s (keyOf core slot) →
        ∃ t, exec (.watchdogExpiry q k.serial) s = .next t ∧ frozen (t.queue n) HANG ∧ (t.token part tok).err = true ∧
          (t.thread (keyOf core slot)).killed = some HANG ∧ (t.thread (keyOf core slot)).state = .parked)))

/-! ## Contexts (R323-R341) -/

namespace Sys2Proof.Claims

/-- STATE codes of R327. -/
def ctxCode (x : CtxState) : Nat :=
  ([(CtxState.absent, 0), (.resident, 1), (.halting, 2), (.halted, 3), (.shadowed, 4), (.spilling, 5), (.spilled, 6), (.restoring, 7),
    (.degraded, 8), (.failed, 9)].find? (fun p => p.1 == x)).elim 0 (·.2)

/-- No core is migrating. -/
abbrev NoMigration (s : State) : Prop := ∀ x ∈ s.cores, x.2.migrating = none

/-- A status word of R327 for a partition as a state holds it, with a STATE and a RESULT. -/
def IsStatus (s : State) (part : Nat) (st : CtxState) (res : Nat) (w : W64) : Prop :=
  let p := s.part part
  w.toNat / 2 ^ 60 = ctxCode st ∧ (NoMigration s → w.getLsbD 59 = p.busy) ∧ w.getLsbD 58 = p.psm ∧ w.getLsbD 57 = p.spw ∧
    w.toNat / 2 ^ 48 % 512 = 0 ∧ w.toNat / 2 ^ 32 % 2 ^ 16 = p.killed.toNat ∧ w.toNat / 2 ^ 8 % 2 ^ 24 = p.soff.toNat ∧ w.toNat % 256 = res

/-- A CTX instruction that starts nothing ends 6 core cycles after issue with a status word. -/
def AnswersStatus (s : State) (i : Instr) (d : Reg) (part res : Nat) : Prop :=
  ∃ w : W64, exec i s = regEnd s d w 6 ∧ IsStatus s part (s.part part).ctx res w

/-- A CTX instruction has started its operation in a state `t`: g_d holds the word with the STATE before, and the pc has gone on. -/
def StartsWith (s t : State) (d : Reg) (part : Nat) : Prop :=
  (d ≠ 0 → IsStatus t part (s.part part).ctx 0 (t.me.rg d)) ∧ t.me.pc = s.me.pc + 4 ∧ t.me.busy = some (s.cyc s.myCore + 6) ∧ t.mem = s.mem

/-- A core assigned to a partition (R323). -/
abbrev Assigned (s : State) (core part : Nat) : Prop := core < 1280 ∧ (s.core core).asg = true ∧ (s.core core).part.toNat = part

/-- The issuer may name the partition: a service core, or a core that works for it; and it is no handler of a core of it. -/
abbrev Names (s : State) (part : Nat) : Prop := 1280 ≤ s.myCore ∨ s.partOf s.myCore = part
abbrev OwnHandler (s : State) (part : Nat) : Prop := slotOf s.cur = 7 ∧ Assigned s s.myCore part

/-- A core's slots issue nothing, have nothing in flight and wait for nothing; its engines run nothing and its stores are accepted. -/
abbrev AtRest (s : State) (core : Nat) : Prop :=
  (∀ slot < 8, let t := s.thread (keyOf core slot)
    t.state ≠ .ready ∧ t.state ≠ .following ∧ t.busy = none ∧ t.killed = none ∧ t.run = none ∧ t.wait = none) ∧
    (s.core core).storeq = [] ∧ ∀ q ∈ engineQueues s core, ∀ e ∈ q.entries, e.state ≠ .running

/-- A core's live arrays are free: slots 0 to 6 EMPTY, slot 7 parked on its queue, every array as after reset, EVEC the partition's. -/
def Freed (s t : State) (core : Nat) (evec : W64) : Prop :=
  (∀ slot < 7, t.thread (keyOf core slot) = Thread.reset) ∧ (t.thread (keyOf core 7)).state = .parked ∧ (t.thread (keyOf core 7)).wait = none ∧
    t.arch core = { CoreArch.reset with evec := evec } ∧ (t.core core).storeq = [] ∧ ∀ o < 2 ^ 20, mread t.mem.spad (core * 2 ^ 20 + o) = 0

/-- A saved context holds what a core's live arrays held. -/
def Holds (s : State) (core : Nat) (x : Saved) : Prop :=
  x.part = (s.core core).part ∧ x.arch = s.arch core ∧ x.hevecPend = (s.core core).hevecPend ∧ x.tagWait = (s.core core).tagWait ∧
    (∀ slot < 8, tfind x.threads (keyOf core slot) = some (s.thread (keyOf core slot))) ∧
    ∀ o < 2 ^ 20, mread x.spad o = mread s.mem.spad (core * 2 ^ 20 + o)

/-- A core's live arrays hold a saved context whose threads are `th`: registers, pc, rings, accumulators and scratchpad. -/
def Restored (t : State) (core : Nat) (x : Saved) (th : Nat → Thread) : Prop :=
  (∀ slot < 8, let u := t.thread (keyOf core slot)
    u.g = (th slot).g ∧ u.f = (th slot).f ∧ u.pc = (th slot).pc ∧ u.kid = (th slot).kid ∧ u.sg = (th slot).sg ∧ u.q = (th slot).q) ∧
    (t.arch core).ring = x.arch.ring ∧ (t.arch core).acc = x.arch.acc ∧ (t.arch core).trapq = x.arch.trapq ∧
    (t.core core).tagWait = x.tagWait ∧ (t.core core).hevecPend = x.hevecPend ∧
    ∀ o < 2 ^ 20, mread t.mem.spad (core * 2 ^ 20 + o) = mread x.spad o

end Sys2Proof.Claims

/-- R60, R323, R325, R326, R328, R329, R340: a partition is opened and closed, a core assigned and its handler set;
CTXHALT pauses every slot of the partition, the halt completes when all is at rest, and CTXREST lets the slots
go on with their limits. What it says beyond the rules is the model's choice, by logs 73, 74, 77, 97. -/
def Obligations.ContextsOpenHaltAndResume : Prop :=
  ∀ (s : State) (part : BitVec 4) (v : W64) (core : Nat) (a b d : Reg),
    let n := part.toNat
    let p := s.part n
    let mine (c : Nat) : Prop := Claims.Assigned s c n
    let halt := Instr.ctxhalt b a d
    let rest := Instr.ctxrest b a d
    let named : Prop := (s.me.rg a).toNat = n ∧ 1 ≤ modeOf s.cur
    (p.ctx = .absent → Claims.NoKernels s → ∃ t, exec (.partitionOpen part) s = .next t ∧ (t.part n).ctx = .resident ∧
      (t.part n).groups = [] ∧ (t.part n).tokens = [] ∧ (t.part n).skeins = [] ∧ (t.part n).subs = [] ∧ (t.part n).leases = [] ∧
      (t.part n).hevec = p.hevec ∧ (t.part n).proot = p.proot ∧ (∀ c, mine c → Claims.Freed s t c p.hevec) ∧ t.mem.ram = s.mem.ram) ∧
    (p.ctx ≠ .absent → exec (.partitionOpen part) s = .next s) ∧
    (p.ctx = .resident ∨ p.ctx = .halted ∨ p.ctx = .failed → boundKernels s n = [] → Claims.NoKernels s →
      ∃ t, exec (.partitionClose part) s = .next t ∧ (t.part n).ctx = .absent ∧ (t.part n).groups = [] ∧
        ∀ c, mine c → ∀ slot < 7, t.thread (keyOf c slot) = Thread.reset) ∧
    (p.ctx = .halting ∨ p.ctx = .spilling ∨ p.ctx = .restoring ∨ p.ctx = .absent → exec (.partitionClose part) s = .next s) ∧
    (∃ t, exec (.hevecWrite part v) s = .next t ∧ (t.part n).hevec = v &&& ~~~3#64 ∧ t.threads = s.threads ∧
      (∀ c, mine c → (s.arch c).serving = none → (s.arch c).escalated = false → (t.arch c).evec = v &&& ~~~3#64) ∧
      (∀ c, mine c → (s.arch c).serving ≠ none → (t.arch c).evec = (s.arch c).evec ∧ (t.core c).hevecPend = some (v &&& ~~~3#64)) ∧
      (∀ c, ¬mine c → t.core c = s.core c)) ∧
    (core < 1280 →
      let c := s.core core
      let free : Prop := (∀ slot < 7, (s.thread (keyOf core slot)).state = .empty) ∧ (s.arch core).mq.entries = [] ∧ (s.arch core).cq.entries = []
      let new := v.getLsbD 8 = true ∧ (c.asg = false ∨ c.part ≠ v.setWidth 4)
      ∃ t, exec (.cpartWrite core v) s = .next t ∧ (t.core core).asg = v.getLsbD 8 ∧ (t.core core).part = v.setWidth 4 ∧
        ((t.core core).vict = true ↔ v.getLsbD 9 = true ∧ (c.vict = true ∨ free)) ∧ (∀ x, x ≠ core → t.core x = s.core x) ∧
        (new → (t.arch core).evec = (s.part (v.toNat % 16)).hevec ∧ (t.arch core).lockmax = 65536 ∧ (t.thread (keyOf core 7)).state = .parked) ∧
        (¬new → t.threads = s.threads ∧ t.arch core = c.arch)) ∧
    (1280 ≤ core → exec (.cpartWrite core v) s = .next s) ∧
    (modeOf s.cur = 0 → Claims.Traps s halt PRIV s.me.pc) ∧
    (1 ≤ modeOf s.cur → 15 < (s.me.rg a).toNat → exec halt s = Claims.regEnd s d 2 6) ∧
    (named →
      (1 < (s.me.rg b).toNat ∨ ¬Claims.Names s n → Claims.AnswersStatus s halt d n 2) ∧
      (Claims.Names s n → s.me.rg b = 1 → Claims.AnswersStatus s halt d n 0) ∧
      (Claims.Names s n → s.me.rg b = 0 → Claims.OwnHandler s n → Claims.AnswersStatus s halt d n 4) ∧
      (Claims.Names s n → s.me.rg b = 0 → ¬Claims.OwnHandler s n →
        (p.ctx ≠ .resident → p.ctx ≠ .degraded → Claims.AnswersStatus s halt d n 1) ∧
        (p.ctx = .resident ∨ p.ctx = .degraded → ∃ t, exec halt s = .next t ∧ Claims.StartsWith s t d n ∧ (t.part n).ctx = .halting ∧
          (t.part n).prior = p.ctx ∧ (t.part n).frozenAt = some s.pk.tim ∧
          ∀ c slot, mine c → slot < 8 → (s.thread (keyOf c slot)).state = .ready → (s.thread (keyOf c slot)).busy = none →
            (t.thread (keyOf c slot)).state = .paused ∧ (t.thread (keyOf c slot)).prior = .ready ∧
            (t.thread (keyOf c slot)).pc = (s.thread (keyOf c slot)).pc ∧ (t.thread (keyOf c slot)).g = (s.thread (keyOf c slot)).g)) ∧
      (Claims.Names s n → s.me.rg b = 0 → ¬Claims.OwnHandler s n → p.ctx = .halted → p.busy = false → p.prior = .resident →
        ∃ t, exec rest s = .next t ∧ Claims.StartsWith s t d n ∧ (t.part n).ctx = .resident ∧ (t.part n).psm = false ∧ (t.part n).frozenAt = none ∧
          (∀ c slot, mine c → slot < 8 → (s.core c).migrating = none → (s.thread (keyOf c slot)).state = .paused →
            (s.thread (keyOf c slot)).prior = .ready → (slot < 6 → (s.thread (keyOf c 6)).state = .empty) →
            (t.thread (keyOf c slot)).state = .ready ∧ (t.thread (keyOf c slot)).pc = (s.thread (keyOf c slot)).pc) ∧
          (∀ c slot w x f, mine c → slot < 8 → (s.thread (keyOf c slot)).wait = some w → (s.thread (keyOf c slot)).state = .parked → w.deadline = some x →
            p.frozenAt = some f → f ≤ s.pk.tim → ∃ w', (t.thread (keyOf c slot)).wait = some w' ∧ w'.deadline = some (x + (s.pk.tim - f))))) ∧
    (p.ctx = .halting → Claims.NoMigration s → (∀ c, mine c → Claims.AtRest s c ∧ drainOpen s (clusterOf c) = true) →
      ∃ t, exec (.haltComplete part) s = .next t ∧ (t.part n).ctx = .halted ∧ t.threads = s.threads) ∧
    (∀ c slot, mine c → slot < 8 → (s.thread (keyOf c slot)).state = .ready → exec (.haltComplete part) s = .next s) ∧
    (p.ctx ≠ .halting → exec (.haltComplete part) s = .next s)

/-- R330-R334, R340: CTXSAVE and CTXREST start the moves of a context with their results; a context goes into the
shadow banks or a save area, its arrays are freed, and it comes back as it was; a spill that cannot go on leaves
it in place with PSM. What it says beyond the rules is the model's choice, by logs 20, 75, 76, 96. -/
def Obligations.ContextsAreSavedAndRestored : Prop :=
  ∀ (s : State) (part : BitVec 4) (a b d : Reg),
    let n := part.toNat
    let p := s.part n
    let mine (c : Nat) : Prop := Claims.Assigned s c n
    let save := Instr.ctxsave b a d
    let rest := Instr.ctxrest b a d
    (∀ i ∈ [save, rest], (modeOf s.cur = 0 → Claims.Traps s i PRIV s.me.pc) ∧
      (1 ≤ modeOf s.cur → 15 < (s.me.rg a).toNat → exec i s = Claims.regEnd s d 2 6)) ∧
    ((s.me.rg a).toNat = n → 1 ≤ modeOf s.cur →
      (∀ i ∈ [save, rest], (Claims.OwnHandler s n → Claims.AnswersStatus s i d n 4) ∧
        (¬Claims.OwnHandler s n → ¬Claims.Names s n → Claims.AnswersStatus s i d n 2) ∧
        (¬Claims.OwnHandler s n → Claims.Names s n → p.busy = true → Claims.AnswersStatus s i d n 1)) ∧
      (¬Claims.OwnHandler s n → Claims.Names s n → p.busy = false →
        (s.me.rg b = 0 →
          (p.ctx ≠ .halted → Claims.AnswersStatus s save d n 1) ∧
          (p.ctx = .halted → (∃ c, mine c ∧ (s.core c).shadow ≠ none) → Claims.AnswersStatus s save d n 3) ∧
          (p.ctx = .halted → (∀ c, mine c → (s.core c).shadow = none) → ∃ t, exec save s = .next t ∧ Claims.StartsWith s t d n ∧
            t.part n = { p with busy := true }) ∧
          (p.ctx ≠ .halted → p.ctx ≠ .shadowed → Claims.AnswersStatus s rest d n 1) ∧
          (p.ctx = .shadowed → (∀ x ∈ s.cores, ∀ y, x.2.shadow = some y → y.part = part → Claims.Assigned s x.1 n) →
            ∃ t, exec rest s = .next t ∧ Claims.StartsWith s t d n ∧ (t.part n).ctx = .restoring ∧ (t.part n).busy = true ∧ (t.part n).killed = 0)) ∧
        (s.me.rg b ≠ 0 →
          (p.ctx ≠ .halted → p.ctx ≠ .shadowed → Claims.AnswersStatus s save d n 1) ∧ (p.ctx ≠ .spilled → Claims.AnswersStatus s rest d n 1) ∧
          (∀ base len, readArea s s.cur (s.me.rg b) = .ok (s, base, len) →
            (p.ctx = .halted ∨ p.ctx = .shadowed →
              (len < 4096 ∨ base % 4096 ≠ 0 → Claims.AnswersStatus s save d n 2) ∧
              (4096 ≤ len → base % 4096 = 0 → ∃ t, exec save s = .next t ∧ Claims.StartsWith s t d n ∧ (t.part n).ctx = .spilling ∧
                (t.part n).spillFrom = p.ctx ∧ (t.part n).busy = true ∧ (t.part n).psm = false ∧ (t.part n).area = some {
                  base := (s.me.seg 1).base.toNat + base, len := len, core := s.myCore, stim := s.pk.tim, free := s.fresh })) ∧
            (p.ctx = .spilled →
              (len < 4096 ∨ base % 4096 ≠ 0 → Claims.AnswersStatus s rest d n 2) ∧
              (∀ h, 4096 ≤ len → base % 4096 = 0 → readHeader s s.cur base = .ok (s, h) →
                let bad : Prop := fieldAt h 0 4 ≠ 0x5843564B ∨ fieldAt h 4 2 ≠ 1 ∨ fieldAt h 6 1 ≠ n ∨ fieldAt h 7 1 % 2 = 0 ∨
                  fieldAt h 10 2 ≠ s.pk.pkg.toNat ∨ (h.drop 24).take 32 ≠ digestBytes (sha256 (h.take 24 ++ h.drop 56))
                (bad → Claims.AnswersStatus s rest d n 2) ∧
                (¬bad → (∃ i < fieldAt h 8 2, ¬mine (fieldAt h (56 + 2 * i) 2)) → Claims.AnswersStatus s rest d n 3) ∧
                (¬bad → (∀ i < fieldAt h 8 2, mine (fieldAt h (56 + 2 * i) 2)) → ∃ t, exec rest s = .next t ∧ Claims.StartsWith s t d n ∧
                  (t.part n).ctx = .restoring ∧ (t.part n).busy = true ∧ (t.part n).killed = 0 ∧
                  (t.part n).savedDigest = sha256 (h.take 24 ++ h.drop 56)))))))) ∧
    (p.busy = true → p.ctx = .halted → p.exchange = none → ∃ t, exec (.shadowTransferEnd part []) s = .next t ∧ (t.part n).ctx = .shadowed ∧
      (t.part n).busy = false ∧ ∀ c, mine c → Claims.Freed s t c p.hevec ∧ ∃ x, (t.core c).shadow = some x ∧ Claims.Holds s c x) ∧
    (p.busy = false → exec (.shadowTransferEnd part []) s = .next s) ∧
    (∀ c x (th : Nat → Thread), c < 1280 → p.killed = 0 → p.replies = [] → p.overflow = [] → x.part = part → memWf x.spad = true →
      x.threads = (List.range 8).map (fun i => (keyOf c i, th i)) →
      (p.busy = true → p.ctx = .restoring → p.area = none → p.exchange = none → shadowCores s n = [c] → (s.core c).shadow = some x →
        ∃ t, exec (.shadowTransferEnd part []) s = .next t ∧ (t.part n).ctx = .resident ∧ (t.part n).busy = false ∧ Claims.Restored t c x th ∧
          (t.core c).shadow = none) ∧
      (∀ y area ls, p.ctx = .restoring → p.spw = false → p.soff = 0 → p.area = some area → s.images.find? (fun i => i.digest == p.savedDigest) = some y →
        y.cores = [(c, x)] → checkRecord s area c 0 [] = .ok (s, ls) → ∃ t, exec (.restoreEnd part [] none) s = .next t ∧
          (t.part n).busy = false ∧ (ls = [] → (t.part n).ctx = .resident ∧ Claims.Restored t c x th) ∧
          (ls ≠ [] → (t.part n).ctx = .resident ∨ (t.part n).ctx = .degraded))) ∧
    (∀ area, p.area = some area → p.spw = false →
      (p.ctx = .restoring → boundKernels s n = [] → Claims.NoKernels s → ∃ t, exec (.restoreEnd part [] (some PAGE)) s = .next t ∧
        (t.part n).ctx = .failed ∧ (t.part n).busy = false) ∧
      (p.ctx = .spilling → ∃ t, exec (.spillEnd part false) s = .next t ∧ (t.part n).ctx = p.spillFrom ∧ (t.part n).psm = true ∧
        (t.part n).busy = false ∧ t.mem = s.mem ∧ t.threads = s.threads) ∧
      (p.ctx = .spilling → p.spillFrom = .halted → p.soff = 0 → (∃ c, mine c) → area.len < 4096 + 0x1A0000 → ∃ t, exec (.spillEnd part true) s = .next t ∧
        (t.part n).ctx = .halted ∧ (t.part n).psm = true ∧ (t.part n).soff = 1 ∧ t.mem = s.mem ∧ t.threads = s.threads) ∧
      (∀ core rest s1, p.ctx = .spilling → p.spillFrom = .halted → p.soff = 0 → coresOf s n = core :: rest → 4096 + 0x1A0000 ≤ area.len →
        spillUnits s area (recordBytes area.free core) 1 0x1A0 = (s1, none) →
        let s2 := s1.setPart n { s1.part n with soff := 0x1A1 }
        (rest ≠ [] → ∃ t, exec (.spillEnd part true) s = .next t ∧ (t.part n).ctx = .spilling ∧ (t.part n).soff = 0x1A1 ∧ t.mem = s1.mem ∧
          t.threads = s.threads) ∧
        (∀ s3, rest = [] →
          let zeros := List.replicate 32 (0 : Byte)
          let dig := headerDigest (headerBytes s2 n [core] area.stim false zeros)
          homeWriteRange s2 (clusterOf area.core) (s2.partOf area.core) area.base (headerBytes s2 n [core] area.stim false (digestBytes dig)) 0 = .ok s3 →
          ∃ t, exec (.spillEnd part true) s = .next t ∧ (t.part n).ctx = .spilled ∧ (t.part n).busy = false ∧ (t.part n).savedDigest = dig ∧
            t.mem.ram = s3.mem.ram ∧ (∀ slot < 7, t.thread (keyOf core slot) = Thread.reset) ∧
            ∃ y, t.images = s.images ++ [y] ∧ y.digest = dig ∧ y.cores.map (·.1) = [core])))

/-- R337, R338 and R340: MIGR answers with its results or begins a migration, which pauses the source's slots; at
its end the context runs on the destination, the source is free and keeps a forwarding entry. What it says
beyond the rules is the model's choice, by logs 40, 77. -/
def Obligations.CoresMigrate : Prop :=
  ∀ (s : State) (a b d : Reg),
    let c := (s.me.rg a).toNat
    let t := (s.me.rg b).toNat
    let n := s.partOf c
    let i := Instr.migr b a d
    let runs : Prop := (s.part n).ctx = .resident ∨ (s.part n).ctx = .degraded
    let free : Prop := (∀ slot < 7, (s.thread (keyOf t slot)).state = .empty) ∧ Claims.EnginesIdle s t ∧
      (s.arch t).bobbins = [] ∧ (s.arch t).locks = []
    let pair : Prop := c < 1280 ∧ t < 1280 ∧ c ≠ t ∧ (s.core c).asg = true ∧ Claims.Assigned s t n ∧ Claims.Names s n
    (modeOf s.cur = 0 → Claims.Traps s i PRIV s.me.pc) ∧
    (1 ≤ modeOf s.cur →
      (1280 ≤ c ∨ (s.core c).asg = false → exec i s = Claims.regEnd s d 2 6) ∧
      (c < 1280 → (s.core c).asg = true → 1280 ≤ t ∨ c = t ∨ ¬Claims.Assigned s t n → Claims.AnswersStatus s i d n 2) ∧
      (pair → s.cur = keyOf c 7 ∨ s.cur = keyOf t 7 → Claims.AnswersStatus s i d n 4) ∧
      (pair → s.cur ≠ keyOf c 7 → s.cur ≠ keyOf t 7 →
        (¬runs → Claims.AnswersStatus s i d n 1) ∧
        (runs → (∃ slot < 7, (s.thread (keyOf t slot)).state ≠ .empty) ∨ (s.core c).migrating ≠ none → Claims.AnswersStatus s i d n 3) ∧
        (runs → free → (s.core c).migrating = none → (s.core t).migrating = none → Claims.NoMigration s → (s.core c).forwards = [] →
          ∃ u, exec i s = .next u ∧ (d ≠ 0 → (u.me.rg d).toNat / 2 ^ 60 = Claims.ctxCode (s.part n).ctx ∧ (u.me.rg d).getLsbD 59 = true ∧
            (u.me.rg d).toNat % 256 = 0) ∧ u.me.pc = s.me.pc + 4 ∧ (u.core c).migrating = some t ∧
            ∀ slot < 8, (s.thread (keyOf c slot)).state = .ready → (s.thread (keyOf c slot)).busy = none →
              (u.thread (keyOf c slot)).state = .paused ∧ (u.thread (keyOf c slot)).pc = (s.thread (keyOf c slot)).pc))) ∧
    (∀ c t : Nat, c < 1280 → t < 1280 → c ≠ t → (s.core c).migrating = some t → Claims.AtRest s c → (s.core c).asg = true →
      (s.part (s.partOf c)).ctx = .resident → dieReachable s (dieOf c) = true → dieReachable s (dieOf t) = true →
      memWf s.mem.spad = true → ∃ u, exec (.migrationEnd c) s = .next u ∧ (u.core c).migrating = none ∧ (∀ slot < 7, (u.thread (keyOf c slot)).state = .empty) ∧
        (∀ slot < 8, (u.thread (keyOf t slot)).g = (s.thread (keyOf c slot)).g ∧ (u.thread (keyOf t slot)).pc = (s.thread (keyOf c slot)).pc ∧
          (u.thread (keyOf t slot)).kid = (s.thread (keyOf c slot)).kid) ∧
        (∀ o < 2 ^ 20, mread u.mem.spad (t * 2 ^ 20 + o) = mread s.mem.spad (c * 2 ^ 20 + o) ∧ mread u.mem.spad (c * 2 ^ 20 + o) = 0) ∧
        ((u.arch t).acc = (s.arch c).acc) ∧ u.mem.ram = s.mem.ram ∧
        ((∃ slot < 7, (s.thread (keyOf c slot)).bound = true) → ∃ f ∈ (u.core c).forwards, f.dest = t ∧
          ∀ slot < 7, (s.thread (keyOf c slot)).bound = true → (s.thread (keyOf c slot)).kid ∈ f.kids)) ∧
    (∀ c, (s.core c).migrating = none → exec (.migrationEnd c) s = .next s)

namespace Sys2Proof.Claims

/-! ### Links, peers, publications, all-reduce and shuttles -/

/-- A port reaches a state: since now in ticks; the other ports stay (R364). -/
def PortMoves (s : State) (i : Instr) (p : BitVec 4) (tgt : PortState) : Prop :=
  ∃ t, exec i s = .next t ∧ portState t p.toNat = tgt ∧ tget 0 t.links.since p.toNat = s.pk.tim ∧ ∀ q, q ≠ p.toNat → portState t q = portState s q

/-- The same, with the event of type 5 to Treadle on the port's die (R400); leases that the change revokes add theirs. -/
def PortReports (s : State) (i : Instr) (p : BitVec 4) (tgt : PortState) (code : W64) : Prop :=
  PortMoves s i p tgt ∧
    ((∀ x ∈ s.parts, x.2.leases = []) → (s.die (p.toNat / 4)).events.length < 4096 →
      ∃ t e, exec i s = .next t ∧ (t.die (p.toNat / 4)).events = (s.die (p.toNat / 4)).events ++ [e] ∧ e.w0.toNat % 256 = 5 ∧
        e.stim = BitVec.ofNat 64 s.pk.tim ∧ e.data0 = p.setWidth 64 ∧ e.data1 = code)

/-- Another package asks something of a partition of this one that exists. -/
abbrev FromPeer (s : State) (pkg : BitVec 10) (part : BitVec 4) : Prop := pkg ≠ s.pk.pkg ∧ (s.part part.toNat).ctx ≠ .absent

/-- A range in one page of the target's own tables, translated without a change (R368), which no relock keeps it from (R18). -/
def PeerPage (s : State) (part : BitVec 4) (dva n pa : Nat) (acc : BitVec 4) : Prop :=
  dva < 2 ^ 47 ∧ 1 ≤ n ∧ dva % 4096 + n ≤ 4096 ∧ dvaHeld s part.toNat dva = false ∧
    ∃ l w, walk s part.toNat dva = .leaf l ∧ leafCls l.word ≠ 4 ∧ translate s 0 part.toNat dva acc 0 = .ok (s, w, pa)

/-- A packet leaves the package. -/
def sends (s : State) (m : OutMsg) : State := { s with out := s.out ++ [m] }

/-- Bytes of memory change at a place and nowhere else. -/
def Puts (s t : State) (pa : Nat) (bs : List Byte) : Prop :=
  mreadN t.mem.ram pa bs.length = bs ∧ (∀ x, x < pa ∨ pa + bs.length ≤ x → mread t.mem.ram x = mread s.mem.ram x) ∧ t.mem.spad = s.mem.spad

/-- A page that the target maps PS, and the physical address of a byte in it. -/
def PsAt (s : State) (part : BitVec 4) (dva pa : Nat) : Prop :=
  dva < 2 ^ 47 ∧ dvaHeld s part.toNat dva = false ∧
    ∃ l, walk s part.toNat dva = .leaf l ∧ leafCls l.word = 3 ∧ pa = leafPA l.word + dva % l.size

/-- The record of entry `n` of a table of 192-byte or 32-byte entries lies in one page at a physical address. -/
def EntryAt (s : State) (part a n pa : Nat) : Prop :=
  a % 4096 + n ≤ 4096 ∧ ∃ l, walk s part a = .leaf l ∧ leafCls l.word ≠ 4 ∧ pa = leafPA l.word + a % l.size

/-- A package of the group's or publication's members that counts as failed (R366). -/
abbrev Failed (s : State) (pkg : BitVec 10) : Prop := peerState s pkg = .failed ∨ peerState s pkg = .down

/-- The status word of R234 with one failed package. -/
def oneFailed (refused : Bool) (pkg : BitVec 10) : W64 := BitVec.ofNat 64 (2 ^ 63 + (if refused then 2 ^ 62 else 0) + 2 ^ 16 + pkg.toNat)

/-- The stores of a thread that a package has not acknowledged. -/
def unacknowledged (s : State) (key : Nat) (pkg : BitVec 10) : List (W64 × Nat) := ((s.thread key).peer pkg).pending

/-- A thread's MCST waits for its last member (R374, R389). -/
def McstWaits (s : State) (key : Nat) (pkg : BitVec 10) (addr : W64) (d : Reg) (x : McstPending) : Prop :=
  ∃ w b a, WaitsFor s key w ∧ w.instr = .mcst b a d ∧ w.sent = true ∧ (s.thread key).mcstOpen = [x] ∧ x.seq = w.aux ∧
    x.seq = (s.thread key).mcstSeq ∧ x.pkg = pkg ∧ x.dva = addr ∧ (s.thread key).mcstFailed = []

/-- A buffer of ARED: aligned, in the own scratchpad through a readable and writable local segment and W0 (R389). -/
abbrev AredBuffer (t : Thread) (ea : W64) (n o : Nat) : Prop :=
  ea.toNat % 8 = 0 ∧ SegOk t ea n rightR 2 o ∧ SegOk t ea n rightW 2 o ∧ o + n ≤ 0x100000

/-- The argument of ARED names a format and a length it takes (R389). -/
abbrev AredArgs (v : W64) (op : BitVec 3) : Prop :=
  let f := v.toNat / 2 ^ 8 % 16
  let n := v.toNat / 2 ^ 16 % 512
  v.toNat < 2 ^ 25 ∧ v.toNat / 2 ^ 12 % 16 = 0 ∧ f ∈ [0, 1, 4, 5, 6] ∧ 8 ≤ n ∧ n ≤ 256 ∧ n % 8 = 0 ∧ ¬(3 ≤ op.toNat ∧ 4 ≤ f)

/-- A thread of the partition waits for the end of a group's all-reduce phase, with its buffer at byte `o`. -/
def WaitsOnAred (s : State) (part : BitVec 4) (k g n o : Nat) (d : Reg) : Prop :=
  k ∈ s.threads.map (·.1) ∧ s.partOf (coreOf k) = part.toNat ∧ (s.thread k).state = .parked ∧
    (∃ w p b a, (s.thread k).wait = some w ∧ w.instr = .ared p b a d ∧ w.sent = true ∧ w.reply = none ∧ w.aux = 0 ∧
      ((s.thread k).rg a).toNat % 256 = g ∧ AredBuffer (s.thread k) ((s.thread k).rg b) n o) ∧
    lockedByte (s.arch (coreOf k)) (slotOf k) o n = none ∧
    ∀ j, j ≠ k → coreOf j = coreOf k → (s.thread j).wait = none

/-- Integer operations of R377 on lanes of w bits. -/
def reduceOps (w : Nat) : List (BitVec 3 × (Nat → Nat → Nat)) :=
  let num (x : Nat) : Int := signedOf w x
  [(0, fun x y => (x + y) % 2 ^ w), (1, fun x y => if num y < num x then y else x), (2, fun x y => if num x < num y then y else x),
   (3, fun x y => x &&& y), (4, fun x y => x ||| y), (5, fun x y => x ^^^ y)]

/-- The sender of a shuttle, where it is still bound to the kernel that sent it and lives on this package. -/
abbrev Sender (s : State) (kid tid : W64) (core slot : Nat) : Prop :=
  core < 1280 ∧ slot < 8 ∧ tid = tidOf s core slot ∧ forwardCore s kid core = core ∧ (s.thread (keyOf core slot)).state ≠ .empty ∧
    (s.thread (keyOf core slot)).killed = none ∧ (s.thread (keyOf core slot)).bound = true ∧ (s.thread (keyOf core slot)).kid = kid

end Sys2Proof.Claims

/-- R364, R366: a port changes its state by the table's events alone, and the failures and losses are reported to
Treadle; a switch's report of a lost path makes a peer FAILED. What it says beyond the rules is the model's
choice, by logs 11, 42. -/
def Obligations.PortsFollowTheirTable : Prop :=
  ∀ (s : State) (p : BitVec 4) (domain : W64) (pkg : BitVec 10),
    let st := portState s p.toNat
    let age := s.pk.tim - tget 0 s.links.since p.toNat
    let stays (i : Instr) : Prop := exec i s = .next s
    (st = .down → Claims.PortMoves s (.portcEnable p) p .training) ∧ (st ≠ .down → stays (.portcEnable p)) ∧
    (st = .training →
      ∃ t, exec (.trainingComplete p domain) s = .next t ∧ portState t p.toNat = .up ∧ t.pk.timLoaded = true ∧
        t.pk.tim = (if s.pk.timLoaded then s.pk.tim else max s.pk.tim domain.toNat) ∧ ∀ q, q ≠ p.toNat → portState t q = portState s q) ∧
    (st ≠ .training → stays (.trainingComplete p domain)) ∧
    (st = .training → 10000000 ≤ age → Claims.PortReports s (.trainingTimeout p) p .failed 4) ∧
    (st ≠ .training ∨ age < 10000000 → stays (.trainingTimeout p)) ∧
    (st = .up → Claims.PortMoves s (.linkError p) p .retraining) ∧ (st ≠ .up → stays (.linkError p)) ∧
    (st = .retraining → Claims.PortMoves s (.retrainComplete p) p .up) ∧ (st ≠ .retraining → stays (.retrainComplete p)) ∧
    (st = .retraining → 2000000 ≤ age → Claims.PortReports s (.retrainTimeout p) p .failed 4) ∧
    (st ≠ .retraining ∨ age < 2000000 → stays (.retrainTimeout p)) ∧
    (st = .training ∨ st = .up ∨ st = .retraining → Claims.PortReports s (.partnerLost p) p .down 0) ∧
    (st = .down ∨ st = .failed ∨ st = .fenced → stays (.partnerLost p)) ∧
    Claims.PortMoves s (.portcFence p) p .fenced ∧
    (st = .failed ∨ st = .fenced → Claims.PortMoves s (.portcDisable p) p .down) ∧
    (st ≠ .failed → st ≠ .fenced → stays (.portcDisable p)) ∧
    (∃ t, exec (.switchNoPath pkg true) s = .next t ∧ (pkg ≠ s.pk.pkg → peerState t pkg = .failed) ∧
      ∀ q, q ≠ pkg → peerState t q = peerState s q) ∧
    (∃ t, exec (.switchNoPath pkg false) s = .next t ∧ t.links.ports = s.links.ports ∧ ∀ q, q ∈ t.links.noPath ↔ q ∈ s.links.noPath ∧ q ≠ pkg)

/-- R368, R371, R373-R375: the target performs a peer's request in the partition of the same number and replies, refuses it, or
keeps it for its pager; a counted release waits for its stores, and a multicast write opens its copy. -/
def Sys2Proof.Claims.PeerRequestsArePerformedAtTheTarget : Prop :=
  ∀ (s : State) (pkg : BitVec 10) (part : BitVec 4) (tid : W64) (dva pa : Nat) (bs : List Byte) (ep : BitVec 16) (sub : Byte) (v : W64),
    let a := BitVec.ofNat 64 dva
    let ask (op : PeerOp) (epoch : Option (BitVec 16)) : Instr := .peerRequest pkg part tid { op := op, epoch := epoch, release := none }
    let release (n : W32) : PeerReq := { op := .store dva bs, epoch := none, release := some (ep, n) }
    let x := s.sub part.toNat sub.toNat
    let subIs (t : State) (y : Subscription) : Prop := t.sub part.toNat sub.toNat = y ∧ ∀ n, n ≠ sub.toNat → t.sub part.toNat n = s.sub part.toNat n
    (dva < 2 ^ 47 → dvaHeld s part.toNat dva = true → ∀ n, exec (ask (.load dva n false) none) s = .next s ∧
      exec (ask (.store dva bs) (some ep)) s = .next s ∧ exec (.mcstCopyWrite pkg part tid sub dva v) s = .next s) ∧
    (Claims.FromPeer s pkg part →
      (∀ n, Claims.PeerPage s part dva n pa 1 →
        (anyPoison s.mem.ramPoison pa n = false →
          exec (ask (.load dva n false) none) s = .next (Claims.sends s (.reply pkg tid 0 a (mreadN s.mem.ram pa n)))) ∧
        (anyPoison s.mem.ramPoison pa n = true → exec (ask (.load dva n false) none) s = .next (Claims.sends s (.reply pkg tid 1 a [])))) ∧
      (Claims.PeerPage s part dva bs.length pa 2 →
        (∃ t, exec (ask (.store dva bs) (some ep)) s = .next t ∧ Claims.Puts s t pa bs ∧ t.out = s.out ++ [.reply pkg tid 3 a []] ∧
          performedCount t pkg tid ep = performedCount s pkg tid ep + 1) ∧
        (∀ n : W32, n.toNat ≤ performedCount s pkg tid ep → ∃ t, exec (.peerRequest pkg part tid (release n)) s = .next t ∧
          Claims.Puts s t pa bs ∧ performedCount t pkg tid ep = 0)) ∧
      (∀ n : W32, dva < 2 ^ 47 → dvaHeld s part.toNat dva = false → performedCount s pkg tid ep < n.toNat → ∃ t w, exec (.peerRequest pkg part tid (release n)) s = .next t ∧ t.mem = s.mem ∧
        t.out = s.out ∧ t.links.held = s.links.held ++ [w] ∧ w.req = release n ∧ w.tick = s.pk.tim) ∧
      (∀ f ∈ Claims.atomTable.take 9, ∀ u : Nat, ∀ k < 9, Claims.atomTable[k]? = some f → Claims.PeerPage s part dva 4 pa 4 → dva % 4 = 0 →
        anyPoison s.mem.ramPoison pa 4 = false → u < 2 ^ 32 →
        ∃ t, exec (ask (.atomic k dva 4 u true false) none) s = .next t ∧
          Claims.Puts s t pa (bytesOfNat 4 (f.2.2 (natOfBytes (mreadN s.mem.ram pa 4)) u)) ∧
          t.out = s.out ++ [.reply pkg tid 0 a (mreadN s.mem.ram pa 4)]) ∧
      (∀ n k, 1 ≤ n → dva % 4096 + n ≤ 4096 → dva < 2 ^ 47 → walkReachable s part.toNat dva = true → walk s part.toNat dva = .fault k →
        ∃ t w, exec (ask (.load dva n false) none) s = .next t ∧ t.links.waiting = s.links.waiting ++ [w] ∧ t.out = s.out ∧ t.mem = s.mem ∧
          w.req.op = .load dva n false)) ∧
    (pkg ≠ s.pk.pkg → (s.part part.toNat).ctx = .absent → dva < 2 ^ 47 → dvaHeld s part.toNat dva = false → ∀ n,
      exec (ask (.load dva n false) none) s = .next (Claims.sends s (.reply pkg tid 2 a [])) ∧
      exec (ask (.store dva bs) none) s = .next (Claims.sends s (.reply pkg tid 6 a []))) ∧
    (∀ i w e n, s.links.held[i]? = some w → w.req.release = some (e, n) →
      (w.tick + 500000 ≤ s.pk.tim → ∃ t, exec (.countedReleaseTimeout i) s = .next t ∧ t.links.held = s.links.held.eraseIdx i ∧ t.out = s.out ∧
        t.mem = s.mem) ∧
      (s.pk.tim < w.tick + 500000 → exec (.countedReleaseTimeout i) s = .next s) ∧
      (performedCount s w.pkg w.tid e < n.toNat → exec (.countedReleasePerform i) s = .next s) ∧
      (n.toNat ≤ performedCount s w.pkg w.tid e → (s.part w.part.toNat).ctx ≠ .absent → w.req.op = .store dva bs → w.req.epoch = none →
        Claims.PeerPage s w.part dva bs.length pa 2 → ∃ t, exec (.countedReleasePerform i) s = .next t ∧ t.links.held = s.links.held.eraseIdx i ∧
          Claims.Puts s t pa bs)) ∧
    (Claims.FromPeer s pkg part →
      (x.live = true → x.ppkg = pkg → dva % 8 = 0 → Claims.PsAt s part dva pa → ∃ t, exec (.mcstCopyWrite pkg part tid sub dva v) s = .next t ∧
        subIs t { x with isOpen := true } ∧ Claims.Puts s t pa (bytesOfNat 8 v.toNat) ∧ t.out = s.out ++ [.reply pkg tid 3 a []]) ∧
      (x.live = false ∨ x.ppkg ≠ pkg ∨ (∃ l, walk s part.toNat dva = .leaf l ∧ leafCls l.word ≠ 3) →
        dvaHeld s part.toNat dva = false → (∃ l, walk s part.toNat dva = .leaf l) → exec (.mcstCopyWrite pkg part tid sub dva v) s = .next (Claims.sends s (.reply pkg tid 6 a [])))) ∧
    (pkg ≠ s.pk.pkg →
      (∃ t, exec (.staleNotice pkg part sub) s = .next t ∧ subIs t { x with stale := true } ∧ t.mem = s.mem) ∧
      (x.live = true → x.ppkg = pkg →
        (∃ t, exec (.versionBumpArrival pkg part sub v false []) s = .next t ∧ subIs t { x with ver := v.setWidth 62, isOpen := false } ∧
          t.mem = s.mem) ∧
        (dva % 16 = 0 → bs.length = 16 → Claims.PsAt s part dva pa → ∃ t,
          exec (.versionBumpArrival pkg part sub v true ((List.range 16).map (fun i => (dva + i, bs.getD i 0)))) s = .next t ∧
            subIs t { x with ver := v.setWidth 62, isOpen := false, stale := false } ∧ Claims.Puts s t pa bs)))

/-- R233, R234, R368, R370 and R374: an acknowledgement ends a store of its stream, a refusal is kept for the next FENCE.SYS and
reported; a peer that does not acknowledge, or stays in retraining beyond RTBOUND, counts as failed. -/
def Sys2Proof.Claims.AcknowledgementsEndStores : Prop :=
  ∀ (s : State) (core slot : Nat) (pkg : BitVec 10) (addr : W64) (d : Reg) (x : McstPending), slot < 8 →
    let key := keyOf core slot
    let p := (s.thread key).peer pkg
    let ack (refused : Bool) : Instr := .peerAck core slot pkg refused addr
    let others (t : State) : Prop := ∀ k, k ≠ key → t.thread k = s.thread k
    (Claims.NoKernels s → pkg ≠ s.pk.pkg →
      (∀ l1 l2 n, p.pending = l1 ++ [(addr, n)] ++ l2 → (∀ y ∈ l1, y.1 ≠ addr) →
        (∃ t, exec (ack false) s = .next t ∧ Claims.unacknowledged t key pkg = l1 ++ l2 ∧ others t ∧
          (t.thread key).refusedStore = (s.thread key).refusedStore ∧ t.mem = s.mem ∧ t.dies = s.dies) ∧
        ((s.die (dieOf core)).events.length < 4096 → ∃ t e, exec (ack true) s = .next t ∧ Claims.unacknowledged t key pkg = l1 ++ l2 ∧ others t ∧
          (t.thread key).refusedStore = true ∧ (t.die (dieOf core)).events = (s.die (dieOf core)).events ++ [e] ∧ e.w0.toNat % 256 = 0x0A ∧
          e.data0 = addr ∧ t.mem = s.mem)) ∧
      (p.pending = [] → Claims.McstWaits s key pkg addr d x →
        (∃ t, exec (ack false) s = .next t ∧ (t.thread key).mcstOpen = [] ∧
          Claims.replyOf t key = some { Reply.reg d 0 with csr := [(0x033, 0)] }) ∧
        (∃ t, exec (ack true) s = .next t ∧ (t.thread key).mcstOpen = [] ∧ pkg ∈ staleOf t (s.partOf core) x.pub ∧
          Claims.replyOf t key = some { Reply.reg d (Claims.oneFailed false pkg) with csr := [(0x033, Claims.oneFailed false pkg)] }))) ∧
    (Claims.NoKernels s →
      (∃ t, exec (.acknowledgementTimeout core slot pkg) s = .next t ∧
        Claims.unacknowledged t key pkg = p.pending.filter (fun y => s.pk.tim < y.2 + 500000) ∧
        ((t.thread key).peer pkg).failed = (p.failed || p.pending.any (fun y => y.2 + 500000 ≤ s.pk.tim))) ∧
      (Claims.McstWaits s key pkg addr d x → x.tick + 500000 ≤ s.pk.tim → ∃ t, exec (.acknowledgementTimeout core slot pkg) s = .next t ∧
        (t.thread key).mcstOpen = [] ∧ pkg ∈ staleOf t (s.partOf core) x.pub ∧
        Claims.replyOf t key = some { Reply.reg d (Claims.oneFailed false pkg) with csr := [(0x033, Claims.oneFailed false pkg)] })) ∧
    (peerState s pkg ≠ .retraining → exec (.rtboundExpiry core slot pkg) s = .next s) ∧
    (peerState s pkg = .retraining → ∀ h rt, (s.thread key).fenceStart = some (h, rt) → p.pending ≠ [] →
      (h + 1000 * rt ≤ s.pk.tim → ∃ t, exec (.rtboundExpiry core slot pkg) s = .next t ∧ ((t.thread key).peer pkg).failed = true ∧
        Claims.unacknowledged t key pkg = p.pending) ∧
      (s.pk.tim < h + 1000 * rt → (s.thread key).mcstOpen = [] → exec (.rtboundExpiry core slot pkg) s = .next s))

/-- Peer requests are performed or refused here, and acknowledgements end stores: the conjunction of the claims
above. What it says beyond the rules is the model's choice, by logs 28, 45, 80, 86. -/
def Obligations.PeersPerformAndAcknowledge : Prop :=
  Claims.PeerRequestsArePerformedAtTheTarget ∧ Claims.AcknowledgementsEndStores

/-- R372-R376, R389, R390: MCST stores in its publication's source and is sent to every member; PUBV bumps the members that are not
failed and not stale; SUBV reads a subscription's words. -/
def Sys2Proof.Claims.PublicationsReachTheirMembers : Prop :=
  ∀ (s : State) (a b d : Reg) (n : BitVec 5) (o pa : Nat) (leaf : W64) (p : Nat) (x : Publication),
    let ea := s.me.rg a
    let part := s.partOf s.myCore
    let part4 := BitVec.ofNat 4 part
    let v := s.me.rg a
    let pkgs := x.members.map (BitVec.ofNat 10)
    let at_ := (s.part part).pubt.toNat
    let covers (y : Publication) (o : Nat) : Prop := y.live = true ∧ y.psrc ≤ o ∧ o < y.psrc + 4096 * y.npage
    let first : Prop := p < 256 ∧ pubAt s part p = some x ∧ covers x o ∧ ∀ q < p, ∀ y, pubAt s part q = some y → ¬covers y o
    (∀ q u, Claims.EntryAt s part (at_ + 192 * q) 192 u → ∃ y, pubAt s part q = some y ∧ y.psrc = Claims.field s u 0 8 ∧
      y.pdst = Claims.field s u 8 8 ∧ y.npage = Claims.field s u 16 2 ∧ y.sub = Claims.field s u 18 1 ∧ y.v = Claims.field s u 32 8 ∧
      (y.live = true ↔ Claims.field s u 19 1 % 2 = 1) ∧ ∀ m, m ∈ y.members ↔ m < 1024 ∧ (Claims.field s u 64 128).testBit m = true) ∧
    (ea.toNat % 8 ≠ 0 → Claims.Traps s (.mcst b a d) ALIGN ea) ∧
    (ea.toNat % 8 = 0 →
      (Claims.SegBad s.me ea 8 rightW → Claims.Traps s (.mcst b a d) SEGV ea) ∧
      (∀ k, Claims.SegOk s.me ea 8 rightW k o → k ≠ 1 → Claims.Traps s (.mcst b a d) SEGV ea) ∧
      (Claims.SegOk s.me ea 8 rightW 1 o → (∀ q < 256, ∀ y, pubAt s part q = some y → ¬covers y o) → Claims.Traps s (.mcst b a d) ACCESS ea) ∧
      (Claims.GlobalAt s s.cur ea 8 rightW 2 o pa leaf → o % 4096 ≤ 4088 → acquirePending s s.cur = false → first → Claims.CanStore s → ∃ t e, exec (.mcst b a d) s = .next t ∧
        (t.core s.myCore).storeq = (s.core s.myCore).storeq ++ [e] ∧ e.place = .global o pa leaf ∧ e.bytes = bytesOfNat 8 (s.me.rg b).toNat ∧
        e.op = .mcst p (s.me.mcstSeq + 1) ∧ t.me.mcstSeq = s.me.mcstSeq + 1 ∧ t.mem = s.mem ∧
        (d = 0 → t.me.pc = s.me.pc + 4 ∧ t.me.busy = some (s.cyc s.myCore + 8)) ∧ (d ≠ 0 → Claims.Parked s t (.mcst b a d) 0x01 ea))) ∧
    (∀ core e seq, (s.core core).storeq = [e] → e.sent = false → (s.cluster (clusterOf core)).staging.length < stageCap s (clusterOf core) → e.op = .mcst p seq → e.place = .global o pa leaf → e.slot < 8 → dieReachable s (dieOf core) = true →
      leafUC leaf = false → leafCls leaf ≠ 4 → homedIn s (clusterOf core) e.part.toNat o pa leaf = false → o % 64 + e.bytes.length ≤ 64 →
      pubAt s e.part.toNat p = some x → x.psrc ≤ o → s.pk.pkg ∉ pkgs → (∀ m ∈ pkgs, ¬Claims.Failed s m) →
      ∃ t, exec (.storeAccept core 0) s = .next t ∧ t.out = s.out ++ pkgs.map (fun m =>
          .mcst m e.part (Claims.tidOf s core e.slot) (BitVec.ofNat 8 x.sub) (x.pdst + (o - x.psrc)) (BitVec.ofNat 64 (natOfBytes e.bytes))) ∧
        (t.thread (keyOf core e.slot)).mcstOpen.map (·.pkg) = (s.thread (keyOf core e.slot)).mcstOpen.map (·.pkg) ++ pkgs) ∧
    (255 < v.toNat ∨ 1 < (s.me.rg b).toNat → Claims.Traps s (.pubv b a d) FORMAT v) ∧
    (v.toNat ≤ 255 → (s.me.rg b).toNat ≤ 1 →
      ((∀ y, pubAt s part v.toNat = some y → y.live = false) → Claims.Traps s (.pubv b a d) ACCESS v) ∧
      (pubAt s part v.toNat = some x → x.live = true →
        ((∃ y ∈ s.me.mcstOpen, y.pub = v.toNat) → exec (.pubv b a d) s = .next s) ∧
        (∀ u, Claims.NoReleaseWait s 5 → (∀ y ∈ s.me.mcstOpen, y.pub ≠ v.toNat) → Claims.NoCopies s (clusterOf s.myCore) →
          Claims.EntryAt s part (at_ + 192 * v.toNat) 192 u → s.pk.pkg ∉ pkgs →
          let ver := BitVec.ofNat 64 (x.v + 1)
          let done (t : State) (left : List (BitVec 10)) : Prop := Claims.field t u 32 8 = (x.v + 1) % 2 ^ 64 ∧ t.me.pc = s.me.pc + 4 ∧
            (left = [] → t.me.mcstat = 0) ∧ (∀ m, left = [m] → t.me.mcstat = Claims.oneFailed false m) ∧
            (t.me.mcstat.toNat / 2 ^ 16 % 2048 = left.length) ∧ (d ≠ 0 → t.me.rg d = t.me.mcstat)
          (s.me.rg b = 0 → ∃ t, exec (.pubv b a d) s = .next t ∧
            done t (pkgs.filter (fun m => pkgFailed s m || (staleOf s part v.toNat).contains m)) ∧
            t.out = s.out ++ (pkgs.filter (fun m => !pkgFailed s m)).map (fun m =>
              if (staleOf s part v.toNat).contains m then .stale m part4 (BitVec.ofNat 8 x.sub)
              else .bump m part4 (BitVec.ofNat 8 x.sub) ver false [])) ∧
          (∀ l w sa, s.me.rg b = 1 → x.npage = 1 → x.psrc % 4096 = 0 → x.psrc < 2 ^ 47 → walk s part x.psrc = .leaf l → leafCls l.word ≠ 4 →
            translate s (clusterOf s.myCore) part x.psrc accRead v = .ok (s, w, sa) → leafCls w ≠ 4 →
            dieReachable s (dieOf (homeOf s part x.psrc sa w)) = true → anyPoison s.mem.ramPoison sa 4096 = false →
            ∃ t, exec (.pubv b a d) s = .next t ∧ done t (pkgs.filter (pkgFailed s)) ∧
              t.out = s.out ++ (pkgs.filter (fun m => !pkgFailed s m)).map (fun m => .bump m part4 (BitVec.ofNat 8 x.sub) ver true
                ((List.range 4096).map (fun i => (x.pdst + i, mread s.mem.ram (sa + i))))) ∧
              ∀ m ∈ pkgs, pkgFailed s m = false → m ∉ staleOf t part v.toNat)))) ∧
    (255 < v.toNat → Claims.Traps s (.subv n a d) FORMAT v) ∧
    (v.toNat ≤ 255 →
      let y := s.sub part v.toNat
      exec (.subv 1 a d) s = Claims.regEnd s d (BitVec.ofNat 64 ((if y.live then 2 ^ 63 else 0) + (if y.stale then 2 ^ 62 else 0) +
        2 ^ 16 * y.pnum.toNat + y.ppkg.toNat)) 6 ∧
      ∃ t, exec (.subv 0 a d) s = .next t ∧ (d ≠ 0 → t.me.rg d = BitVec.ofNat 64 ((if y.isOpen then 2 ^ 63 else 0) +
        (if y.stale then 2 ^ 62 else 0) + y.ver.toNat)) ∧ t.me.pc = s.me.pc + 4 ∧ (t.core s.myCore).l1 = [] ∧ t.mem = s.mem)

/-- R377, R378, R389, R390: ARED contributes its buffer once a phase and waits; when the last contribution arrives every member
still waiting receives the reduction, and a phase that members disagree on or that loses a member leaves the buffers as they are. -/
def Sys2Proof.Claims.AllReduceCombinesItsMembers : Prop :=
  ∀ (s : State) (op : BitVec 3) (a b d : Reg) (o : Nat),
    let v := s.me.rg a
    let g := v.toNat % 256
    let n := v.toNat / 2 ^ 16 % 512
    let part := s.partOf s.myCore
    let x := s.group part g
    let i := Instr.ared op b a d
    let ready : Prop := Claims.AredArgs v op ∧ s.me.memberOf g = true ∧ Claims.AredBuffer s.me (s.me.rg b) n o
    let takesPart : Prop := ready ∧ (x.state = 1 ∨ x.state = 2) ∧ Claims.NoReleaseWait s x.scope.toNat ∧ Claims.Unlocked s o n ∧ Claims.Quiet s o n
    let c : AredContrib := { op := op, fmt := v.extractLsb' 8 4, data := spadBytes s.mem s.myCore o n }
    (¬Claims.AredArgs v op → Claims.Traps s i FORMAT v) ∧
    (Claims.AredArgs v op → s.me.memberOf g = false → Claims.Traps s i ACCESS (BitVec.ofNat 64 g)) ∧
    (Claims.AredArgs v op → s.me.memberOf g = true → (s.me.rg b).toNat % 8 ≠ 0 → Claims.Traps s i ALIGN (s.me.rg b)) ∧
    (ready → x.state = 0 → ∃ t, exec i s = .next t ∧ t.me.pc = s.me.pc + 4 ∧ (d ≠ 0 → (t.me.rg d).toNat / 2 ^ 59 = 2)) ∧
    (ready → x.state = 3 → exec i s = Claims.regEnd s d (BitVec.ofNat 64 (2 ^ 63 + x.aphase.toNat)) 6) ∧
    (takesPart → tfind s.me.aredIn g = none → ∃ t, exec i s = .next t ∧ Claims.Parked s t i 0x06 (BitVec.ofNat 64 g) ∧
      (t.group part g).contribs = x.contribs ++ [(s.cur, c)] ∧ tfind t.me.aredIn g = some x.aphase ∧
      (x.scope = 5 → OutMsg.ared (BitVec.ofNat 4 part) g s.cur c ∈ t.out)) ∧
    (takesPart → tfind s.me.aredIn g = some x.aphase → ∃ t, exec i s = .next t ∧ Claims.Parked s t i 0x06 (BitVec.ofNat 64 g) ∧
      (t.group part g).contribs = x.contribs) ∧
    (∀ ph, takesPart → tfind s.me.aredIn g = some ph → ph ≠ x.aphase → x.alast.2.length = n → ∃ t, exec i s = .next t ∧
      t.me.pc = s.me.pc + 4 ∧ (d ≠ 0 → t.me.rg d = x.alast.1 ||| BitVec.ofNat 64 (2 ^ 59)) ∧ spadBytes t.mem s.myCore o n = x.alast.2 ∧
      tfind t.me.aredIn g = none) ∧
    (∀ (p4 : BitVec 4) (gb : Byte) (peers : List AredContrib) (k len o' : Nat) (d' : Reg),
      let y := s.group p4.toNat gb.toNat
      let cs := y.contribs.map (·.2) ++ peers
      let e := Instr.aredPhaseComplete p4 gb peers false
      let live : Prop := (y.state = 1 ∨ y.state = 2) ∧ (y.scope ≠ 5 → peers = [])
      let full : Prop := live ∧ cs.length = y.exp.toNat - y.done.toNat
      let told (t : State) (bits : Nat) : Prop := (t.group p4.toNat gb.toNat).aphase = y.aphase + 1 ∧ (t.group p4.toNat gb.toNat).contribs = [] ∧
        Claims.replyOf t k = some { Reply.reg d' (BitVec.ofNat 64 (bits * 2 ^ 59 + y.aphase.toNat)) with acquire := some y.scope }
      let kept (t : State) : Prop := t.mem = s.mem
      Claims.WaitsOnAred s p4 k gb.toNat len o' d' →
      (∀ c1 c2, cs = [c1, c2] → full → c1.data.length = len →
        (c1.op ≠ c2.op ∨ c1.fmt ≠ c2.fmt ∨ c1.data.length ≠ c2.data.length → ∃ t, exec e s = .next t ∧ told t 8 ∧ kept t) ∧
        (c1.op = c2.op → c1.fmt = c2.fmt → c2.data.length = len → len % 8 = 0 → 1 ≤ len →
          (∀ f, f ∈ ([(0, 64), (1, 32)] : List (BitVec 4 × Nat)) → c1.fmt = f.1 → ∀ r ∈ Claims.reduceOps f.2, c1.op = r.1 →
            ∃ t, exec e s = .next t ∧ told t 0 ∧ ∀ j < len / (f.2 / 8),
              natOfBytes (spadBytes t.mem (coreOf k) (o' + j * (f.2 / 8)) (f.2 / 8)) =
                r.2 (fieldAt c1.data (j * (f.2 / 8)) (f.2 / 8)) (fieldAt c2.data (j * (f.2 / 8)) (f.2 / 8))) ∧
          (∀ f, f ∈ ([(4, f64, 8), (5, f32, 4), (6, b16, 2)] : List (BitVec 4 × FpFmt × Nat)) → c1.fmt = f.1 → c1.op = 1 ∨ c1.op = 2 →
            ∃ t, exec e s = .next t ∧ told t 0 ∧ ∀ j < len / f.2.2, natOfBytes (spadBytes t.mem (coreOf k) (o' + j * f.2.2) f.2.2) =
              (fpMinMax f.2.1 (c1.op == 2) (fieldAt c1.data (j * f.2.2) f.2.2) (fieldAt c2.data (j * f.2.2) f.2.2)).1 % 2 ^ (8 * f.2.2)))) ∧
      (live → y.scope = 5 → y.contribs ≠ [] → (∃ q r, (q, r) ∈ s.links.route ∧ r ≠ 0 ∧ Claims.Failed s (BitVec.ofNat 10 q)) →
        ∃ t, exec (.aredPhaseComplete p4 gb [] true) s = .next t ∧ told t 4 ∧ kept t) ∧
      (live → cs.length < y.exp.toNat - y.done.toNat → exec e s = .next s))

/-- Multicast writes, publications, subscriptions and all-reduce phases reach their members: the conjunction of the
claims above. What it says beyond the rules is the model's choice, by logs 46, 47, 81, 82, 83. -/
def Obligations.PublicationsAndReductions : Prop :=
  Claims.PublicationsReachTheirMembers ∧ Claims.AllReduceCombinesItsMembers

/-- R379-R390: SHTL sends its descriptor, arguments and TID to a package, which accepts the shuttle as a kernel or
refuses it by the first check it fails; SHTR and the kernel's reply reach the sender's inbox, its token and
SHST. What it says beyond the rules is the model's choice, by logs 46, 86. -/
def Obligations.ShuttlesAreAcceptedAndAnswered : Prop :=
  ∀ (s : State) (n : BitVec 3) (a d : Reg) (core slot : Nat) (pkg : BitVec 10) (part : BitVec 4) (sh : Shuttle),
    let v := s.me.rg a
    let dst : BitVec 10 := v.setWidth 10
    let p := s.me.peer dst
    let mine (r : Bool) : Shuttle := {
      desc := v, args := (List.range n.toNat).map (fun i => s.me.rg (BitVec.ofNat 5 (4 + i))), tid := Claims.tidOf s s.myCore (slotOf s.cur),
      reply := r, kid := s.me.kid }
    let myPart := BitVec.ofNat 4 (s.partOf s.myCore)
    let closed (t : State) : Prop := (t.me.peer dst).epoch = p.epoch + 1 ∧ (t.me.peer dst).count = 0
    (v.toNat / 2 ^ 44 % 16 ≠ 0 ∨ v.getLsbD 31 = true ∨ v.toNat / 2 ^ 12 % 16 ≠ 0 → ∀ r, Claims.Traps s (.shtl r n a d) FORMAT v) ∧
    (v.toNat / 2 ^ 44 % 16 = 0 → v.getLsbD 31 = false → v.toNat / 2 ^ 12 % 16 = 0 →
      (releaseWaits s s.cur 5 false = true → ∀ r, exec (.shtl r n a d) s = .next s) ∧
      (Claims.NoReleaseWait s 5 →
        (dst ≠ s.pk.pkg → ¬Claims.Failed s dst → ∃ t, exec (.shtl 1 n a d) s = .next t ∧ Claims.Parked s t (.shtl 1 n a d) 0x01 v ∧ closed t ∧
          OutMsg.shuttle dst myPart (mine true) (some (p.epoch, p.count)) ∈ t.out) ∧
        (Claims.Failed s dst → ∃ t, exec (.shtl 1 n a d) s = .next t ∧ (d ≠ 0 → t.me.rg d = 6) ∧ t.me.pc = s.me.pc + 4) ∧
        (Claims.CanStore s → ∃ t e, exec (.shtl 0 n a d) s = .next t ∧ (t.core s.myCore).storeq = (s.core s.myCore).storeq ++ [e] ∧
          e.op = .shuttle (mine false) (some (p.epoch, p.count)) ∧ closed t ∧ t.me.pc = s.me.pc + 4 ∧
          t.me.busy = some (s.cyc s.myCore + 8)))) ∧
    (let answer (st : W64) : Prop := exec (.shtr a d) s = Claims.regEnd s d st 6
     let q := kidQueue s.me.kid
     let serial := kidSerial s.me.kid
     (s.me.bound = false → answer 3) ∧
     (∀ k, s.me.bound = true → s.kernel q serial = some k →
       (k.shuttle = none → answer 3) ∧
       (∀ y, k.shuttle = some y →
         (y.reply = false → answer 2) ∧ (y.reply = true → k.replied = true → answer 1) ∧
         (y.reply = true → k.replied = false → releaseWaits s s.cur 5 false = true → exec (.shtr a d) s = .next s) ∧
         (y.reply = true → k.replied = false → Claims.NoReleaseWait s 5 → (y.tid.extractLsb' 16 10) ≠ s.pk.pkg → ∃ t,
           exec (.shtr a d) s = .next t ∧ (d ≠ 0 → t.me.rg d = 0) ∧ t.me.pc = s.me.pc + 4 ∧ t.kernel q serial = some { k with replied := true } ∧
           OutMsg.shuttleReply (y.tid.extractLsb' 16 10) (s.queue q).part y.kid y.tid v
             (BitVec.ofNat 64 (2 ^ 63 + (Claims.tidOf s s.myCore (slotOf s.cur)).toNat % 2 ^ 26)) (y.desc.extractLsb' 48 16) ∈ t.out)))) ∧
    (let q := sh.desc.toNat / 2 ^ 16 % 2 ^ 15
     let h := sh.desc.toNat / 2 ^ 32 % 2 ^ 12
     let w := s.queue q
     let i := Instr.shuttleArrival pkg part sh none
     let told (st : BitVec 4) : Prop := exec i s = .next (Claims.sends s (.shuttleStatus pkg sh.tid sh.desc st))
     let at_ := (s.part part.toNat).htb.toNat + 32 * h
     let open_ : Prop := w.part = part ∧ w.shuttle = true ∧ (w.state = .opened ∨ w.state = .frozen)
     let valid (u : Nat) : Prop := let f := Claims.field s u
       f 0 8 / 2 ^ 63 = 1 ∧ f 0 8 / 2 ^ 51 % 2 ^ 10 = 0 ∧ 2 ≤ f 0 8 / 2 ^ 48 % 8 ∧ f 0 8 / 2 ^ 48 % 8 ≤ 5 ∧ f 0 8 % 4 = 0 ∧ 1 ≤ f 8 2 ∧ f 8 2 ≤ 64 ∧
       f 10 1 % 16 ≠ 0 ∧ f 10 1 / 16 = 0 ∧ f 11 1 = 0 ∧ f 20 12 = 0
     (queueHeld s q = true → exec i s = .next s) ∧
     (Claims.FromPeer s pkg part → queueHeld s q = false →
     (w.part ≠ part → told 3) ∧ (w.part = part → w.shuttle = false → told 4) ∧
     (w.part = part → w.shuttle = true → w.state = .closed ∨ w.state = .draining → told 2) ∧
     (∀ u, Claims.EntryAt s part.toNat at_ 32 u →
       (open_ → ¬valid u → told 5) ∧
       (open_ → valid u → w.spill = false → w.depth = w.qdep.toNat + 1 → told 1) ∧
       (open_ → valid u → w.kernels = [] → Claims.OnlyQueue s q → ∃ t k, exec i s = .next t ∧ (t.queue q).kernels = [k] ∧
         (t.queue q).serial = w.serial + 1 ∧ k.serial = w.serial ∧ k.shuttle = some sh ∧ k.handler.toNat = Claims.field s u 0 32 ∧
         k.state = (if w.state = .frozen then .queued else .waiting) ∧ t.out = s.out ++ (if sh.reply then [.shuttleStatus pkg sh.tid sh.desc 0] else []))))) ∧
    (∀ (kid desc : W64) (st : BitVec 4), slot < 8 → desc.extractLsb' 0 10 ≠ s.pk.pkg →
      let th := s.thread (keyOf core slot)
      let i := Instr.shuttleRefusal core slot kid desc st
      (th.bound = true → th.kid = kid → th.state ≠ .empty → ∃ t, exec i s = .next t ∧
        let z := (t.thread (keyOf core slot)).shst.toNat
        let y := th.shst.toNat
        z / 2 ^ 48 = min (y / 2 ^ 48 + 1) 0xFFFF ∧ z / 2 ^ 32 % 2 ^ 16 = y / 2 ^ 32 % 2 ^ 16 ∧ z / 2 ^ 28 % 16 = st.toNat ∧
        z / 2 ^ 16 % 2 ^ 12 = desc.toNat / 2 ^ 32 % 2 ^ 12 ∧ z % 2 ^ 16 = desc.toNat / 2 ^ 16 % 2 ^ 15) ∧
      (th.bound = false ∨ th.kid ≠ kid ∨ th.state = .empty → exec i s = .next s)) ∧
    (∀ (kid w1 w2 : W64) (tok : BitVec 16),
      let key := keyOf core slot
      let th := s.thread key
      let i (tok : BitVec 16) : Instr := .shuttleReplyArrival part kid (Claims.tidOf s core slot) w1 w2 tok
      let token := s.token part.toNat tok.toNat
      s.links.loop = [] → w2.extractLsb' 16 10 ≠ s.pk.pkg → offThreads s part.toNat = [] →
      (Claims.Sender s kid (Claims.tidOf s core slot) core slot → th.inbox.length + th.deferred.length < 16 →
        (th.unanswered = none → ∃ t, exec (i 0xFFFF) s = .next t ∧ (t.thread key).inbox = th.inbox ++ [(w1, w2)] ∧ t.mem = s.mem) ∧
        (∀ w d', Claims.WaitsFor s key w → w.instr = .mrcv d' → th.inbox = [] → ∃ t r, exec (i 0xFFFF) s = .next t ∧
          Claims.replyOf t key = some r ∧ r.g = [(d', w1), (d' + 1, w2)] ∧ r.acquire ≠ none)) ∧
      (Claims.Sender s kid (Claims.tidOf s core slot) core slot → th.inbox.length + th.deferred.length = 16 → ∃ t r,
        exec (i tok) s = .next t ∧ t.links.replies = s.links.replies ++ [r] ∧ r.w1 = w1 ∧ r.w2 = w2 ∧ r.rtok = tok ∧ r.tick = s.pk.tim ∧
        t.threads = s.threads) ∧
      (core < 1280 → slot < 8 → forwardCore s kid core = core → th.state = .empty ∨ th.bound = false ∨ th.kid ≠ kid →
        exec (i 0xFFFF) s = .next s ∧
        (tok ≠ 0xFFFF → Claims.NoKernels s → token.err = false → 1 ≤ token.count.toNat → ∃ t, exec (i tok) s = .next t ∧
          t.token part.toNat tok.toNat = { token with count := token.count - 1 } ∧ ∀ k, (t.thread k).inbox = (s.thread k).inbox))) ∧
    (∀ (j : Nat) (r : HeldReply), s.links.replies[j]? = some r → Claims.Sender s r.kid r.tid core slot →
      (s.pk.tim < r.tick + 500000 → exec (.replyHoldTimeout j) s = .next s) ∧
      (r.tick + 500000 ≤ s.pk.tim → r.rtok = 0xFFFF → ∃ t, exec (.replyHoldTimeout j) s = .next t ∧
        t.links.replies = s.links.replies.eraseIdx j ∧
        let z := (t.thread (keyOf core slot)).shst.toNat
        let y := (s.thread (keyOf core slot)).shst.toNat
        z / 2 ^ 40 % 256 = min (y / 2 ^ 40 % 256 + 1) 255 ∧ z % 2 ^ 40 = y % 2 ^ 40 ∧ z / 2 ^ 48 = y / 2 ^ 48))

namespace Sys2Proof.Claims

/-! ### Clocks, errors, the host and the boot stages -/

/-- Only a die's own record changes. -/
def DieIs (s t : State) (d : Nat) (x : Die) : Prop := t.die d = x ∧ (∀ e, e ≠ d → t.die e = s.die e) ∧ t.pk = s.pk ∧ t.mem = s.mem

/-- The die with the highest multiplier, ties to the lowest number (R16). -/
abbrev Fastest (s : State) (d : Nat) : Prop :=
  d < 4 ∧ ∀ e < 4, (s.die e).mcur.toNat ≤ (s.die d).mcur.toNat ∧ (e < d → (s.die e).mcur.toNat < (s.die d).mcur.toNat)

/-- A count of errors after `n` more, saturating (R403). -/
def counted (n lo : Nat) (v w : W64) : Prop := w.toNat / 2 ^ lo % 2 ^ 32 = min (v.toNat / 2 ^ lo % 2 ^ 32 + n) (2 ^ 32 - 1)

/-- A window offset of a function reaches a page of its partition that the host may access so: entry and physical address. -/
def HostPage (s : State) (fn off n part : Nat) (acc : BitVec 4) (entry pa : Nat) : Prop :=
  (part = if fn = 0 then s.host.wpart.toNat else fn - 1) ∧ fn ≤ 16 ∧
    let dva := (tget 0 s.host.wbase fn).toNat + off
    dva + n ≤ 2 ^ 47 ∧ dvaHeld s part dva = false ∧ ∃ l, walk s part dva = .leaf l ∧ l.entry = entry ∧ pa = leafPA l.word + dva % l.size ∧ leafAllows l.word acc = true ∧
      (leafCls l.word = 0 ∨ leafCls l.word = 1 ∨ (leafCls l.word = 2 ∧ l.word.getLsbD 7 = true) ∨ (leafCls l.word = 3 ∧ acc = 1)) ∧
      (pa + n ≤ entry ∨ entry + 8 ≤ pa)

/-- A window offset whose page has no entry, or is lent, or device-owned, or not to be accessed so (R353, R406). -/
def HostRefused (s : State) (fn off n part : Nat) (acc : BitVec 4) : Prop :=
  (part = if fn = 0 then s.host.wpart.toNat else fn - 1) ∧ fn ≤ 16 ∧
    let dva := (tget 0 s.host.wbase fn).toNat + off
    dva + n ≤ 2 ^ 47 ∧ dvaHeld s part dva = false ∧ ((∃ k, walk s part dva = .fault k) ∨ ∃ l, walk s part dva = .leaf l ∧
      (leafAllows l.word acc = false ∨ leafCls l.word = 4 ∨ (leafCls l.word = 2 ∧ l.word.getLsbD 7 = false) ∨ (leafCls l.word = 3 ∧ acc ≠ 1)))

/-- A window offset whose access waits for a die that relocks (R18). -/
def HostWaits (s : State) (fn off part : Nat) : Prop :=
  (part = if fn = 0 then s.host.wpart.toNat else fn - 1) ∧ fn ≤ 16 ∧ dvaHeld s part ((tget 0 s.host.wbase fn).toNat + off) = true

/-- The refusal makes an event record of type 9 with the DVA and the function. -/
def RefusalRecorded (s t : State) (fn off : Nat) : Prop :=
  (s.die 0).events.length < 4096 → ∃ e, (t.die 0).events = (s.die 0).events ++ [e] ∧ e.w0.toNat % 256 = 9 ∧
    e.data0 = BitVec.ofNat 64 ((tget 0 s.host.wbase fn).toNat + off) ∧ e.data1 = BitVec.ofNat 64 fn

/-- All ones of n bytes. -/
def ones (n : Nat) : W64 := BitVec.ofNat 64 (2 ^ (8 * n) - 1)

/-- An image of a kind that a boot stage accepts (R408). -/
abbrev Verified (treadle : Bool) (x : Image) : Prop :=
  x.treadle = treadle ∧ x.sigOk = true ∧ x.keyDigest = Config.keyDigest ∧ Config.minVersion ≤ x.version ∧ x.digest = sha256 x.body

/-- The package's own record changes and nothing else. -/
def PackageIs (s : State) (i : Instr) (p : Package) : Prop := exec i s = .next { s with pk := p }

end Sys2Proof.Claims

/-- R16, R17, R20, R21: a request for another multiplier starts a step, or is held while the die relocks; the limiter steps the fastest
die down or asserts ALERT_N; the end of a relock is logged, lengthens the reclaims it involved (R19), and starts what was held. -/
def Sys2Proof.Claims.ClocksStepAndRelock : Prop :=
  ∀ (s : State) (d : BitVec 2) (m : BitVec 4) (draw k : Nat),
    let x := s.die d.toNat
    let y := s.die k
    let write := exec (.mreqWrite d m) s
    let compare := exec (.powerComparison draw) s
    let becomes (o : Out) (z : Die) : Prop := ∃ t, o = .next t ∧ Claims.DieIs s t d.toNat z
    (m.toNat < 4 ∨ 12 < m.toNat → write = .next s) ∧
    (4 ≤ m.toNat → m.toNat ≤ 12 →
      (x.relock = none → m ≠ x.mcur → becomes write { x with mreq := m, relock := some (m, s.pk.tim) }) ∧
      (x.relock = none → m = x.mcur → becomes write { x with mreq := m }) ∧
      (x.relock ≠ none → becomes write { x with mreq := m, held := some m })) ∧
    (draw < s.pk.powerLimit → Claims.PackageIs s (.powerComparison draw) { s.pk with alert := false }) ∧
    (s.pk.powerLimit ≤ draw → Claims.Fastest s k →
      (y.mcur.toNat ≤ 4 → Claims.PackageIs s (.powerComparison draw) { s.pk with alert := true }) ∧
      (4 < y.mcur.toNat →
        (y.relock = none → ∃ t, compare = .next t ∧ Claims.DieIs s t k { y with relock := some (y.mcur - 1, s.pk.tim) }) ∧
        (y.relock ≠ none → ∃ t, compare = .next t ∧ Claims.DieIs s t k { y with heldLim := some (y.mcur - 1) }))) ∧
    (x.relock = none → exec (.relockEnd d) s = .next s) ∧
    (∀ n start, x.relock = some (n, start) → ∃ t, exec (.relockEnd d) s = .next t ∧
      let z := t.die d.toNat
      let e := tget (0, 0, 0) z.log (z.stepn.toNat % 16)
      z.mcur = n ∧ z.cyc = x.cyc ∧ z.stepn = x.stepn + 1 ∧ e.1 = BitVec.ofNat 64 s.pk.tim ∧ e.2.1 = BitVec.ofNat 64 x.cyc ∧
      e.2.2.toNat / 2 ^ 32 = z.stepn.toNat % 2 ^ 32 ∧ e.2.2.toNat / 2 ^ 16 % 2 ^ 16 = (s.pk.tim - start) % 2 ^ 16 ∧
      e.2.2.toNat / 2 ^ 8 % 2 ^ 8 = 0 ∧ e.2.2.toNat / 2 ^ 4 % 16 = x.mcur.toNat ∧ e.2.2.toNat % 16 = n.toNat ∧ z.held = none ∧ z.heldLim = none ∧
      (let steps (h : BitVec 4) : Prop := z.relock = if h = n then none else some (h, s.pk.tim)
       (x.held = none → x.heldLim = none → z.relock = none) ∧ (∀ h, x.held = some h → x.heldLim = none → steps h) ∧
       (∀ l, x.held = none → x.heldLim = some l → if l.toNat < n.toNat then steps l else z.relock = none) ∧
       (∀ h l, x.held = some h → x.heldLim = some l → steps (if l.toNat < h.toNat then l else h))) ∧
      (∀ p m, let l := s.lease p m
        ((l.state = 3 ∧ ∃ f ∈ l.frames, f / 2 ^ 38 % 4 = d.toNat) →
          t.lease p m = { l with deadline := l.deadline + (s.pk.tim - max start l.since) }) ∧
        (l.state ≠ 3 ∨ (∀ f ∈ l.frames, f / 2 ^ 38 % 4 ≠ d.toNat) → t.lease p m = l)) ∧
      (∀ j, j ≠ d.toNat → t.die j = s.die j) ∧ t.mem = s.mem)

/-- R395-R397, R399, R403 and R410: the scrubber counts and poisons what it cannot correct and changes no value; an
uncorrectable error in another array refetches an L1 line, fails a register's check, kills a thread, poisons a
pair, a CIM chunk or a chunk of LPDDR, or is fatal (that it comes by the same event is the model's choice, log
115); an idle die's L2 starts again empty; a fatal error calls for a dump, which Treadle or after 10 ms Selvedge
writes within DUMPL. What it says beyond the rules is the model's choice, by logs 48, 52, 53, 106. -/
def Obligations.ErrorsArePoisonedAndDumped : Prop :=
  ∀ (s : State) (core unit n k : Nat) (kind : Byte) (low : Bool) (d : BitVec 2),
    let x := s.die (dieOf core)
    let scrub (array : Nat) (bad : List Nat) : Instr := .scrubUnit core array unit bad n
    let counts (t : State) (array bad : Nat) : Prop := let v := tget 0 x.raskts array
      Claims.counted bad 32 v (tget 0 (t.die (dieOf core)).raskts array) ∧ Claims.counted n 0 v (tget 0 (t.die (dieOf core)).raskts array)
    let event (t : State) (a array : Nat) : Prop := x.events.length < 4096 → ∃ e, (t.die (dieOf core)).events = x.events ++ [e] ∧
      e.w0.toNat % 256 = 8 ∧ e.data0 = BitVec.ofNat 64 a ∧ e.data1 = BitVec.ofNat 64 array
    let room : Prop := ∀ j < 80, drainOpen s (d.toNat * 80 + j) = true ∧ ∀ x ∈ (s.cluster (d.toNat * 80 + j)).staging, homeUp s x.2 = true
    let bytes (t : State) : Prop := t.mem.ram = s.mem.ram ∧ t.mem.spad = s.mem.spad
    let busy : Prop := ∃ c ∈ s.cores, c.1 < 1280 ∧ dieOf c.1 = d.toNat ∧ c.2.asg = true ∧
      ((s.part c.2.part.toNat).ctx = .resident ∨ (s.part c.2.part.toNat).ctx = .degraded ∨ (s.part c.2.part.toNat).ctx = .halting)
    let dumps (i : Instr) : Prop :=
      (s.pk.dumpl.toNat < 7920 → Claims.PackageIs s i { s.pk with dumpDue := none, stage := 0x88 }) ∧
      (7920 ≤ s.pk.dumpl.toNat → ∃ bs, exec i s = .next { s with
          pk := { s.pk with dumpDue := none }, mem := { s.mem with stack := mwriteN s.mem.stack 0x2000000 bs },
          out := s.out ++ [.dump s.pk.dumpb bs] } ∧
        bs.take 4 = [0x44, 0x55, 0x4D, 0x50] ∧ 7920 ≤ bs.length ∧ bs.length ≤ s.pk.dumpl.toNat)
    (x.scrub = false → ∀ array ∈ [2, 3, 4], ∀ bad, exec (scrub array bad) s = .next s) ∧
    (∃ t, exec (scrub 0 [k % 4]) s = .next t ∧ counts t 0 1 ∧ tfind (t.core core).l1 unit = none ∧ t.mem = s.mem) ∧
    (∀ slot < 8, core < 1280 → let key := keyOf core slot
      let at_ (reg : Nat) : Instr := .scrubUnit core 1 (slot + 8 * reg) [k % 4] n
      (s.thread key).state ≠ .empty →
        (∀ r : Reg, r ≠ 0 → ∃ t v, exec (at_ r.toNat) s = .next t ∧ counts t 1 1 ∧ (t.thread key).g = (s.thread key).g ∧
          tfind (t.thread key).bad r.toNat = some v ∧ v ≠ (t.thread key).rg r ∧ oneBitApart ((t.thread key).rg r) v = false) ∧
        (∀ reg, 32 ≤ reg → ∃ u, exec (at_ reg) s = .next (killThread u key POISON) ∧ counts u 1 1 ∧ u.threads = s.threads ∧ u.cores = s.cores)) ∧
    (∃ t, exec (scrub 5 [k % 4]) s = .next t ∧ counts t 5 1 ∧
      (unit % 2 = 0 → ∀ c, c ∈ (t.arch core).accPoison ↔ c ∈ (s.arch core).accPoison ∨ c = unit / 2) ∧
      (unit % 2 = 1 → ∀ c, c ∈ (t.arch core).cimPoison ↔ c ∈ (s.arch core).cimPoison ∨ c = unit / 2)) ∧
    (k < 4 → ∃ t, exec (scrub 6 [k]) s = .next t ∧ counts t 6 1 ∧ bytes t ∧ event t (64 * unit + 16 * k) 6 ∧
      ∀ c, c ∈ t.mem.ramPoison ↔ c ∈ s.mem.ramPoison ∨ c = unit * 4 + k) ∧
    (∀ array, array = 7 ∨ (array = 1 ∧ 1280 ≤ core) → ∃ t, exec (scrub array [k % 4]) s = .next t ∧ counts t array 1 ∧
      t.pk = { s.pk with fatal := some (s.pk.fatal.getD 0), dumpDue := some (s.pk.dumpDue.getD s.pk.tim) } ∧ t.threads = s.threads) ∧
    (x.scrub = true →
      (∀ array ∈ [2, 3, 4], unit < 16384 → ∃ t, exec (scrub array []) s = .next t ∧ counts t array 0 ∧ t.mem = s.mem ∧ t.clusters = s.clusters ∧
        t.cores = s.cores) ∧
      (k < 4 →
        (unit < 16384 → ∃ t, exec (scrub 2 [k]) s = .next t ∧ counts t 2 1 ∧ bytes t ∧ event t (16 * (core * 2 ^ 16 + unit * 4 + k)) 2 ∧
          ∀ c, c ∈ t.mem.spadPoison ↔ c ∈ s.mem.spadPoison ∨ c = core * 2 ^ 16 + unit * 4 + k) ∧
        (unit % 2 = 1 → ∃ t, exec (scrub 3 [k]) s = .next t ∧ counts t 3 1 ∧ bytes t ∧ event t (64 * (unit / 2) + 16 * k) 3 ∧
          ∀ c, c ∈ t.mem.ramPoison ↔ c ∈ s.mem.ramPoison ∨ c = unit / 2 * 4 + k) ∧
        (∀ l, unit % 2 = 0 → tfind (s.cluster (clusterOf core)).staging (unit / 2) = some l → ∃ t, exec (scrub 3 [k]) s = .next t ∧ counts t 3 1 ∧
          bytes t ∧ event t (l.pa + 16 * k) 3 ∧ ∃ l', tfind (t.cluster (clusterOf core)).staging (unit / 2) = some l' ∧ l'.data = l.data ∧
            ∀ j < 4, l'.poison.getLsbD j = (l.poison.getLsbD j || j == k)) ∧
        (∀ y, (s.core core).shadow = some y → ∃ t z, exec (scrub 4 [k]) s = .next t ∧ counts t 4 1 ∧ bytes t ∧ (t.core core).shadow = some z ∧
          z.spad = y.spad ∧ ∀ c, c ∈ z.poison ↔ c ∈ y.poison ∨ c = unit * 4 + k))) ∧
    (busy ∨ ¬room → exec (.l2Recovery d low) s = .next s) ∧
    (¬busy → room → ∃ t, exec (.l2Recovery d low) s = .next t ∧ (t.die d.toNat).dected = low ∧
      (∀ j < 80, (t.cluster (d.toNat * 80 + j)).staging = [] ∧ (t.cluster (d.toNat * 80 + j)).wb = []) ∧
      (∀ c, c / 80 ≠ d.toNat → t.cluster c = s.cluster c) ∧ (∀ j, j ≠ d.toNat → t.die j = s.die j) ∧ t.mem.spad = s.mem.spad) ∧
    Claims.PackageIs s (.fatalError kind) { s.pk with fatal := some (s.pk.fatal.getD kind), dumpDue := some (s.pk.dumpDue.getD s.pk.tim) } ∧
    dumps .dumpWrite ∧
    (s.pk.dumpDue = none → exec .dumpTimeout s = .next s) ∧
    (∀ t, s.pk.dumpDue = some t → (s.pk.tim < t + 10000000 → exec .dumpTimeout s = .next s) ∧ (t + 10000000 ≤ s.pk.tim → dumps .dumpTimeout)) ∧
    Claims.PackageIs s (.thermtrip d) { s.pk with thermtrip := true }

/-- R353, R404-R409 and R411: host accesses reach their partition's pages at home, wait while a die of theirs
relocks, or are refused with a record; the mailbox, the boot stages, whose verified images go to the unassigned
stack (R12), the quote, package reset and the board controller's commands act as given; control blocks, windows
and tokens read as R297, R299 and R312 say. What it says beyond the rules is the model's choice, by logs 6, 13,
24, 33, 53, 106. -/
def Obligations.HostAccessesAndBootStages : Prop :=
  ∀ (s : State) (fn off n part entry pa : Nat) (bs : List Byte) (op : BitVec 2) (v w : W64) (words : List W64) (img : Image) (pkg : BitVec 10)
    (low : BitVec 4) (temps : List Nat),
    let old := natOfBytes (mreadN s.mem.ram pa n)
    let frame (t : State) (len : Nat) : Prop := (∀ a, (a < pa ∨ pa + len ≤ a) → (a < entry ∨ entry + 8 ≤ a) → mread t.mem.ram a = mread s.mem.ram a) ∧
      t.mem.spad = s.mem.spad
    let atomic := Instr.bar2Atomic fn off op n v w
    let fresh (st : Byte) (t : State) : Prop := t.pk.stage = st ∧ t.pk.pkg = pkg ∧ t.threads = State.reset.threads ∧ t.cores = State.reset.cores ∧
      { t.mem with stack := State.reset.mem.stack } = State.reset.mem ∧ t.parts = State.reset.parts ∧ t.queues = State.reset.queues ∧ t.links = State.reset.links ∧
      t.clusters = State.reset.clusters ∧ t.pk.tim = State.reset.pk.tim ∧ ∀ j < 4, (t.die j).dected = low.getLsbD j ∧ (t.die j).mcur = 4
    let placed (t : State) (off : Nat) : Prop := img.body.length ≤ 2 ^ 24 → ∀ j < 4, mreadN t.mem.stack (j * 2 ^ 26 + off) img.body.length = img.body
    let loads (stage : Byte) (meas : BitVec 256) (off : Nat) : Prop := ∃ t, exec (.imageSubmit 0 img) s = .next t ∧
      t.pk = { s.pk with stage := stage, meas := meas } ∧ { t with pk := s.pk, mem := s.mem } = s ∧ { t.mem with stack := s.mem.stack } = s.mem ∧
      placed t off
    (Claims.HostWaits s fn off part → exec (.bar2Write fn off bs) s = .next s ∧ exec (.bar2Read fn off n) s = .next s ∧
      (op ≠ 3 → n = 4 ∨ n = 8 → off % n = 0 → exec atomic s = .next s)) ∧
    (Claims.HostPage s fn off bs.length part 2 entry pa → ∃ t, exec (.bar2Write fn off bs) s = .next t ∧
      mreadN t.mem.ram pa bs.length = bs ∧ frame t bs.length ∧ t.out = s.out) ∧
    (Claims.HostRefused s fn off bs.length part 2 → ∃ t, exec (.bar2Write fn off bs) s = .next t ∧ t.mem = s.mem ∧ Claims.RefusalRecorded s t fn off) ∧
    (Claims.HostPage s fn off n part 1 entry pa → ∃ t, exec (.bar2Read fn off n) s = .next t ∧ frame t 0 ∧
      t.out = s.out ++ [.hostRead fn (BitVec.ofNat 64 old)]) ∧
    (Claims.HostRefused s fn off n part 1 → ∃ t, exec (.bar2Read fn off n) s = .next t ∧ t.mem = s.mem ∧
      t.out = s.out ++ [.hostRead fn (Claims.ones n)] ∧ Claims.RefusalRecorded s t fn off) ∧
    (op = 3 ∨ (n ≠ 4 ∧ n ≠ 8) → exec atomic s = .next (Claims.sends s (.hostUnsupported fn))) ∧
    (op ≠ 3 → n = 4 ∨ n = 8 → off % n = 0 →
      (Claims.HostPage s fn off n part 4 entry pa → ∃ t, exec atomic s = .next t ∧ frame t n ∧ t.out = s.out ++ [.hostRead fn (BitVec.ofNat 64 old)] ∧
        natOfBytes (mreadN t.mem.ram pa n) = (if op = 0 then (old + v.toNat) % 2 ^ (8 * n) else if op = 1 then v.toNat % 2 ^ (8 * n)
          else if old = w.toNat % 2 ^ (8 * n) then v.toNat % 2 ^ (8 * n) else old)) ∧
      (Claims.HostRefused s fn off n part 4 → ∃ t, exec atomic s = .next t ∧ t.mem = s.mem ∧ Claims.RefusalRecorded s t fn off)) ∧
    (exec (.mailboxMessage 0 words) s = .next { s with host := { s.host with mailIn := words.take 512 } } ∧
      (fn ≠ 0 → exec (.mailboxMessage fn words) s = .next s ∧ exec (.imageSubmit fn img) s = .next s ∧ exec (.attestRequest fn bs) s = .next s)) ∧
    (s.pk.stage = 0x82 →
      (Claims.Verified false img → loads 3 (sha256 (digestBytes 0 ++ digestBytes img.digest)) 0) ∧
      (¬Claims.Verified false img → Claims.PackageIs s (.imageSubmit 0 img) { s.pk with stage := 0x82 })) ∧
    (s.pk.stage = 3 ∨ s.pk.stage = 0x84 →
      (Claims.Verified true img → loads 5 (sha256 (digestBytes s.pk.meas ++ digestBytes img.digest)) 0x1000000) ∧
      (¬Claims.Verified true img → Claims.PackageIs s (.imageSubmit 0 img) { s.pk with stage := 0x84 })) ∧
    (s.pk.stage ∉ [(3 : Byte), 0x82, 0x84] → exec (.imageSubmit 0 img) s = .next s) ∧
    (bs.length = 32 → s.pk.stage = 3 ∨ s.pk.stage = 0x84 ∨ s.pk.stage = 5 → ∃ q, exec (.attestRequest 0 bs) s = .next (Claims.sends s (.quote q)) ∧
      7856 ≤ q.length) ∧
    (s.pk.stage ∉ [(3 : Byte), 0x84, 5] → exec (.attestRequest 0 bs) s = .next s) ∧
    (∃ t, exec (.packageReset pkg low false none) s = .next t ∧ fresh 0x81 t) ∧ (∃ t, exec (.packageReset pkg low true none) s = .next t ∧ fresh 0x82 t) ∧
    (Claims.Verified false img → ∃ t, exec (.packageReset pkg low true (some img)) s = .next t ∧ fresh 3 t ∧
      t.pk.meas = sha256 (digestBytes 0 ++ digestBytes img.digest) ∧ placed t 0) ∧
    (∀ (k : Nat) (tok : BitVec 16), fn ≤ 16 → k < 32768 →
      let y := s.queue k
      let x := s.token (if fn = 0 then s.host.wpart.toNat else fn - 1) tok.toNat
      let code : Nat := if y.state = .closed then 0 else if y.state = .opened then 1 else if y.state = .frozen then 2 else 3
      bar0Word s fn (0xC00000 + 8 * tok.toNat) = some (BitVec.ofNat 64 ((if x.err then 2 ^ 32 else 0) + x.count.toNat)) ∧
      (∀ i < 8, bar0Word s fn (0x800000 + 64 * k + 8 * i) = some 0) ∧
      ∃ a b c d e : W64, bar0Word s fn (0x400000 + 64 * k) = some a ∧ bar0Word s fn (0x400000 + 64 * k + 8) = some b ∧
        bar0Word s fn (0x400000 + 64 * k + 16) = some c ∧ bar0Word s fn (0x400000 + 64 * k + 24) = some d ∧
        bar0Word s fn (0x400000 + 64 * k + 32) = some e ∧
        a.toNat / 2 ^ 57 = 0 ∧ a.getLsbD 56 = y.irq ∧ a.toNat / 2 ^ 48 % 256 = y.vec.toNat ∧ a.toNat / 2 ^ 44 % 16 = y.part.toNat ∧
        a.getLsbD 43 = y.shuttle ∧ a.getLsbD 42 = y.spill ∧ a.toNat / 2 ^ 32 % 256 = y.weight.toNat ∧ a.toNat / 2 ^ 24 % 8 = y.prio.toNat ∧
        a.toNat % 64 = y.qdep.toNat ∧ b.toNat / 2 ^ 48 = y.splen.toNat ∧ b.toNat % 2 ^ 47 = y.spbase.toNat ∧
        c.toNat / 2 ^ 62 = code ∧ (y.depth < 2 ^ 17 → c.toNat / 2 ^ 32 % 2 ^ 17 = y.depth) ∧ c.toNat % 2 ^ 32 = y.serial.toNat ∧
        d.toNat / 2 ^ 32 = y.qdone.toNat ∧ d.toNat / 2 ^ 16 % 2 ^ 16 = y.ovf.toNat ∧ d.toNat % 2 ^ 16 = y.badw.toNat ∧
        e.toNat / 2 ^ 32 = y.eser.toNat ∧ e.toNat % 256 = y.ecause.toNat) ∧
    exec (.smbusReadTelemetry temps n) s = .next (Claims.sends s (.smbus (temps ++ [n]))) ∧
    exec .smbusReadStage s = .next (Claims.sends s (.smbus [s.pk.stage.toNat])) ∧
    (400 ≤ n → n ≤ 1600 → Claims.PackageIs s (.smbusSetPowerLimit n) { s.pk with powerLimit := n }) ∧
    (n < 400 ∨ 1600 < n → exec (.smbusSetPowerLimit n) s = .next s)

namespace Sys2Proof.Claims

/-! ### Encodings, steps and the state after reset -/

/-- The bytes of an instruction's words (R1, R23). -/
noncomputable def bytesOf (i : Instr) : List Byte := (encode i).flatMap bytesOfWord

/-- Only one slot of a core may issue, and it is an ordinary READY thread with nothing pending (R51); the core's die does not relock
(R17), and no slot forfeits turns (R127). -/
abbrev OnlySlot (s : State) (core slot : Nat) : Prop :=
  let t := s.thread (keyOf core slot)
  slot < 8 ∧ t.state = .ready ∧ t.busy = none ∧ t.wait = none ∧ t.killed = none ∧ t.yielded = false ∧ t.bad = [] ∧
    t.pend = none ∧ t.twl = false ∧ t.twt = false ∧ (∀ k < 8, (s.thread (keyOf core k)).state ≠ .following) ∧
    dieReachable s (dieOf core) = true ∧ (∀ k < 8, (s.thread (keyOf core k)).forfeit = 0) ∧
    ∀ k < 8, k ≠ slot → (s.thread (keyOf core k)).state ≠ .ready

/-- Bytes stand where a thread fetches: in its own scratchpad, or in a page of code that its cluster has translated, at its home where
the core's instruction store does not hold the line (R24, R25; that the store keeps a line as it was fetched is log 91's choice). -/
def CodeAt (s : State) (key : Nat) (pc : W64) (bs : List Byte) : Prop :=
  let core := coreOf key
  let part := s.partOf core
  let n := bs.length
  pc.toNat < 2 ^ 61 ∧ ∃ kind o, SegOk (s.thread key) pc n rightX kind o ∧
    ((kind = 2 ∧ o + n ≤ 0x100000 ∧ spadBytes s.mem core o n = bs ∧ spadPoisoned s.mem core o n = false) ∨
     (kind ≤ 1 ∧ o % 4 = 0 ∧ ∃ pa, ∀ k, 4 * k < n → ∃ w, leafCls w ≠ 4 ∧
       (∀ e, translate s (clusterOf core) part (o + 4 * k) accExec e = .ok (s, w, pa + 4 * k)) ∧
       match tfind (s.core core).l1i (lineKey part (o + 4 * k)) with
       | some d => lineBytes d ((o + 4 * k) % 64) 4 = (bs.drop (4 * k)).take 4
       | none => mreadN s.mem.ram (pa + 4 * k) 4 = (bs.drop (4 * k)).take 4 ∧ anyPoison s.mem.ramPoison (pa + 4 * k) 4 = false ∧
           dieReachable s (dieOf (homeOf s part (o + 4 * k) (pa + 4 * k) w)) = true))

/-- The turn has been given to a slot: nothing has changed but the schedule, who acts, the core's place in its rotation, and the code
lines it holds. -/
def TurnOf (s u : State) (core slot : Nat) (rest : List Turn) : Prop :=
  { u with schedule := s.schedule, cur := s.cur, lastCore := s.lastCore, cores := s.cores, threads := s.threads } = s ∧
    u.schedule = rest ∧ u.cur = keyOf core slot ∧ (∀ k, u.thread k = s.thread k) ∧ (u.core core).last = slot ∧
    { u.core core with last := (s.core core).last, issuedAt := (s.core core).issuedAt, l1i := (s.core core).l1i } = s.core core ∧ ∀ c, c ≠ core → u.core c = s.core c

/-- No follower and no partner of the thread takes part in what it has done. -/
abbrev Alone (s : State) (key : Nat) : Prop :=
  (s.thread key).twl = false ∧ (s.thread key).twt = false ∧
    ∀ f ∈ follower key, (s.thread f).state ≠ .following ∧ (s.thread f).state ≠ .parked

/-- After the meaning has answered `u`: a thread that could not begin keeps its pending check (R68) and is in flight where it waits to
release (R224, R235), any other has used its passage through a lock (R65) and, with a word of quadrant 1 that did not trap, the
stream pipe's cycle (R136); nothing else is added. -/
def Settled (s u v : State) (key : Nat) (i : Instr) : Prop :=
  let t := u.thread key
  let core := coreOf key
  let held : Prop := (t.state = .ready ∨ t.state = .following) ∧ t.busy = none ∧ t.wait = none
  let pipe : Prop := ¬held ∧ t.state ≠ .trapped ∧ ((wordsOf i).headD 0).toNat % 4 = 1
  { v with threads := u.threads, cores := u.cores } = u ∧ (∀ k, k ≠ key → v.thread k = u.thread k) ∧ (∀ c, c ≠ core → v.core c = u.core c) ∧
    (¬pipe → v.core core = u.core core) ∧ (pipe → v.core core = { u.core core with pipeAt := (u.core core).issuedAt }) ∧
    (held → v.thread key = { t with
      pend := (s.thread key).pend, ckmiss := (s.thread key).ckmiss, flight := heldInFlight i && t.run.isNone }) ∧
    (¬held → v.thread key = { t with pass := false, flight := false })

/-- Words written out from the encodings of the spec, with the instructions they stand for. -/
noncomputable def writtenWords : List (Nat × Instr) :=
  [(0x00000000, .add 0 0 0 0), (0x20026022, .reedSync 19 0), (0x0401AC26, .lde 2 13 12), (0x2639A026, .stf 3 14 13), (0x0039AC2E, .msnd 14 13 12),
   (0x0001AC6A, .lreq 13 12), (0x00018013, .trap 12), (0x0039AC66, .mcst 14 13 12), (0x1039AC66, .pubv 14 13 12),
   (0x2081AC66, .subv 1 13 12), (0x3439AC66, .ared 2 14 13 12), (0x4001AC66, .shtr 13 12)]

end Sys2Proof.Claims

/-- R23-R38: every well-formed instruction that has an encoding decodes from its own words, with every operand, and nothing is left
over. -/
def Obligations.InstructionsDecodeFromTheirWords : Prop :=
  ∀ i : Instr, i.wf = true → encode i ≠ [] → decode (Claims.bytesOf i) = .ok (i, [])

/-- R39: a word, with the four words after it for a block, decodes to at most one well-formed instruction, whose words it is; no two
words stand for one instruction. -/
def Obligations.DecodedWordsEncodeBack : Prop :=
  ∀ (w p0 p1 p2 p3 : W32) (i : Instr), decodeWord w p0 p1 p2 p3 = .ok i →
    i.wf = true ∧ encode i = if isBlockWord w then [w, p0, p1, p2, p3] else [w]

/-- Words that the spec writes out with their instructions decode to these; 0xFFFF_FFFF is no instruction. -/
def Obligations.WrittenWordsDecode : Prop :=
  (∀ x ∈ Claims.writtenWords, decode (bytesOfWord (BitVec.ofNat 32 x.1)) = .ok (x.2, [])) ∧
  ¬∃ i rest, decode (bytesOfWord 0xFFFFFFFF) = .ok (i, rest)

/-- The model's memory keeps its canonical form (logs 1 and 5): whatever a step does, addresses stay strictly rising and no listed byte
reads as an unlisted one does. -/
def Obligations.StepsKeepMemoryCanonical : Prop :=
  ∀ s t : State, Canonical s → step s = .next t → Canonical t

/-- The machine goes on from every state, whatever it holds and whatever its environment has scheduled, until THERMTRIP_N takes its core
power away (R411, logs 2 and 55): no instruction and no event stops it. -/
def Obligations.EveryStepAnswers : Prop :=
  (∀ (i : Instr) (s : State), ∃ t, exec i s = .next t) ∧
  (∀ s : State, s.pk.thermtrip = false ∨ s.schedule ≠ [] → Steps s) ∧
  (∀ s : State, s.pk.thermtrip = true → s.schedule = [] → step s = .fault .powerOff)

/-- R24, R25, R39, R40, R51: a core's turn runs the instruction decoded at the pc of the slot that may issue, or the
trap of a word that is none or is above the thread's mode; an event's turn is that event. What it says beyond
the rules is the model's choice, by logs 2, 55, 91, 95. -/
def Obligations.StepRunsTheDecodedInstruction : Prop :=
  (∀ (s : State) (core slot : Nat) (rest : List Turn) (bs : List Byte),
    let key := keyOf core slot
    let t := s.thread key
    let runs (i : Instr) : Prop := ∃ u, Claims.TurnOf s u core slot rest ∧
      ∀ v, exec i u = .next v → Claims.Alone v key → ∃ x, step s = .next x ∧ Claims.Settled s v x key i
    s.schedule = .issue core :: rest → Claims.OnlySlot s core slot → Claims.CodeAt s key t.pc bs →
    (∀ i, decode bs = .ok (i, []) → modeNeeded i ≤ modeOf key → runs i) ∧
    (∀ (w : W32), bs = bytesOfWord w → (∃ e, decodeWord w 0 0 0 0 = .error e) → runs (.notAnInstruction w false 0)) ∧
    (∀ (w : W32) i, bs = bytesOfWord w → decodeWord w 0 0 0 0 = .ok i → modeOf key < modeNeeded i → runs (.notAnInstruction w true 0))) ∧
  (∀ (s : State) (core slot : Nat) (rest : List Turn),
    let t := s.thread (keyOf core slot)
    s.schedule = .issue core :: rest → Claims.OnlySlot s core slot → (2 ^ 61 ≤ t.pc.toNat ∨ Claims.SegBad t t.pc 4 rightX) →
      ∃ u, Claims.TurnOf s u core slot rest ∧ step s = exec .fetchSegmentFault u) ∧
  (∀ (s : State) (i : Instr) (rest : List Turn), s.schedule = .event i :: rest → step s = exec i { s with schedule := rest }) ∧
  (∀ (s : State) (w : W32) (n : Nat), Claims.Traps s (.notAnInstruction w false n) ILLOP (s.me.pc + BitVec.ofNat 64 (4 * n)) ∧
    Claims.Traps s (.notAnInstruction w true n) PRIV (s.me.pc + BitVec.ofNat 64 (4 * n)) ∧ Claims.Traps s .fetchSegmentFault SEGV s.me.pc)

/-- R14, R15, R17: a tick moves TIM by one and each die's clock by 150 MHz times its multiplier, but for a die that relocks; the array
clock runs at 1.1 GHz (fractions of cycles are the model's, log 3). -/
def Sys2Proof.Claims.TicksMoveTheClocks : Prop :=
  ∀ (s : State) (rest : List Turn), s.schedule = .tick :: rest → ∃ t, step s = .next t ∧ t.pk.tim = s.pk.tim + 1 ∧ t.threads = s.threads ∧
    t.mem = s.mem ∧ t.cores = s.cores ∧ t.schedule = rest ∧
    (s.pk.arrayFrac < 10 → 10 * t.pk.array + t.pk.arrayFrac = 10 * s.pk.array + s.pk.arrayFrac + 11 ∧ t.pk.arrayFrac < 10) ∧
    (∀ d < 4, (s.die d).relock ≠ none → t.die d = s.die d) ∧
    (∀ d < 4, (s.die d).relock = none → (s.die d).frac < 20 →
      20 * (t.die d).cyc + (t.die d).frac = 20 * (s.die d).cyc + (s.die d).frac + 3 * (s.die d).mcur.toNat ∧ (t.die d).frac < 20)

/-- Ticks move the clocks, and dies step, relock and log their frequency: the conjunction of the claims above. What
it says beyond the rules is the model's choice, by logs 3, 105. -/
def Obligations.ClocksTickStepAndRelock : Prop :=
  Claims.TicksMoveTheClocks ∧ Claims.ClocksStepAndRelock

/-- What reset leaves, as the rules give it: every die at M = 4, TIM and CYC 0, every port DOWN and RTBOUND 200 µs,
the power limit 1,600 W, no context and no thread, slot 7 PARKED on its trap queue, every queue CLOSED, and
memory in canonical form. What it says beyond the rules is the model's choice, by logs 4, 5. -/
def Obligations.ResetLeavesTheStatedValues : Prop :=
  let s := State.reset
  Canonical s ∧ s.pk.tim = 0 ∧ s.pk.powerLimit = 1600 ∧ s.pk.stage = 0 ∧ s.pk.meas = 0 ∧ s.links.rtbound = 200 ∧
    (∀ d, (s.die d).mcur = 4 ∧ (s.die d).mreq = 4 ∧ (s.die d).cyc = 0 ∧ (s.die d).stepn = 0 ∧ (s.die d).scrub = true ∧ (s.die d).events = []) ∧
    (∀ p, portState s p = .down ∧ (s.part p).ctx = .absent ∧ (s.part p).proot = 0) ∧
    (∀ c, (s.core c).asg = false ∧ (s.arch c).evec = 0 ∧ (s.arch c).trapq = [] ∧ (s.arch c).lockmax = 65536) ∧
    (∀ core slot, slot < 7 → (s.thread (keyOf core slot)).state = .empty) ∧
    (∀ core, (s.thread (keyOf core 7)).state = .parked ∧ (s.thread (keyOf core 7)).wait = none) ∧
    (∀ q, (s.queue q).state = .closed ∧ (s.queue q).serial = 0 ∧ (s.queue q).kernels = []) ∧
    (∀ p n, (s.group p n).state = 0 ∧ s.token p n = { err := false, count := 0 } ∧ (s.lease p n).state = 0 ∧ (s.sub p n).live = false)

end
end

