-- ==== Sys2Proof/Laws/PerInstr.lean ====
section
/-! SUPPORT. Laws of each instruction as syntax, one lemma for each constructor of Instr. Family RoundTrip: the bytes of a
well-formed instruction word decode to it (R23-R41); a device event has no word. -/

namespace Sys2Proof.Laws

open Sys2Proof

/-- Decoding the bytes of the words of a well-formed instruction gives that instruction, and no word is left. -/
def RoundTrip.Statement (i : Instr) : Prop :=
  i.wf = true → encode i ≠ [] → decode ((encode i).flatMap bytesOfWord) = .ok (i, [])

theorem RoundTrip.mreqWrite (x0 : BitVec 2) (x1 : BitVec 4) : RoundTrip.Statement (.mreqWrite x0 x1) := fun _ h => absurd rfl h

theorem RoundTrip.powerComparison (x0 : Nat) : RoundTrip.Statement (.powerComparison x0) := fun _ h => absurd rfl h

theorem RoundTrip.relockEnd (x0 : BitVec 2) : RoundTrip.Statement (.relockEnd x0) := fun _ h => absurd rfl h

theorem RoundTrip.instructionComplete (x0 : Nat) (x1 : Nat) : RoundTrip.Statement (.instructionComplete x0 x1) := fun _ h => absurd rfl h

theorem RoundTrip.parkWake (x0 : Nat) (x1 : Nat) : RoundTrip.Statement (.parkWake x0 x1) := fun _ h => absurd rfl h

theorem RoundTrip.waitLimitExpiry (x0 : Nat) (x1 : Nat) : RoundTrip.Statement (.waitLimitExpiry x0 x1) := fun _ h => absurd rfl h

theorem RoundTrip.sleepTimeout (x0 : Nat) (x1 : Nat) : RoundTrip.Statement (.sleepTimeout x0 x1) := fun _ h => absurd rfl h

theorem RoundTrip.handlerStart (x0 : Nat) : RoundTrip.Statement (.handlerStart x0) := fun _ h => absurd rfl h

theorem RoundTrip.scrubComplete (x0 : Nat) (x1 : Nat) : RoundTrip.Statement (.scrubComplete x0 x1) := fun _ h => absurd rfl h

theorem RoundTrip.lockTimeout (x0 : Nat) (x1 : Nat) : RoundTrip.Statement (.lockTimeout x0 x1) := fun _ h => absurd rfl h

theorem RoundTrip.hevecWrite (x0 : BitVec 4) (x1 : W64) : RoundTrip.Statement (.hevecWrite x0 x1) := fun _ h => absurd rfl h

theorem RoundTrip.cpartWrite (x0 : Nat) (x1 : W64) : RoundTrip.Statement (.cpartWrite x0 x1) := fun _ h => absurd rfl h

theorem RoundTrip.followerWaitExpiry (x0 : Nat) (x1 : Nat) : RoundTrip.Statement (.followerWaitExpiry x0 x1) := fun _ h => absurd rfl h

theorem RoundTrip.seqEntryIssue (x0 : Nat) (x1 : Nat) : RoundTrip.Statement (.seqEntryIssue x0 x1) := fun _ h => absurd rfl h

theorem RoundTrip.seqEntryComplete (x0 : Nat) (x1 : Nat) : RoundTrip.Statement (.seqEntryComplete x0 x1) := fun _ h => absurd rfl h

theorem RoundTrip.streamPrefetch (x0 : Nat) (x1 : Nat) (x2 : Nat) (x3 : ExtReply) : RoundTrip.Statement (.streamPrefetch x0 x1 x2 x3) := fun _ h => absurd rfl h

theorem RoundTrip.sfuAccept (x0 : Nat) : RoundTrip.Statement (.sfuAccept x0) := fun _ h => absurd rfl h

theorem RoundTrip.sfuResult (x0 : Nat) : RoundTrip.Statement (.sfuResult x0) := fun _ h => absurd rfl h

theorem RoundTrip.normaliserService (x0 : Nat) : RoundTrip.Statement (.normaliserService x0) := fun _ h => absurd rfl h

theorem RoundTrip.matrixEntryStart (x0 : Nat) (x1 : Bool) : RoundTrip.Statement (.matrixEntryStart x0 x1) := fun _ h => absurd rfl h

theorem RoundTrip.jobStepIssue (x0 : Nat) (x1 : Bool) : RoundTrip.Statement (.jobStepIssue x0 x1) := fun _ h => absurd rfl h

theorem RoundTrip.jobPromotion (x0 : Nat) (x1 : Bool) : RoundTrip.Statement (.jobPromotion x0 x1) := fun _ h => absurd rfl h

theorem RoundTrip.enginePause (x0 : Nat) (x1 : Bool) (x2 : Bool) : RoundTrip.Statement (.enginePause x0 x1 x2) := fun _ h => absurd rfl h

theorem RoundTrip.engineResume (x0 : Nat) (x1 : Bool) (x2 : Bool) : RoundTrip.Statement (.engineResume x0 x1 x2) := fun _ h => absurd rfl h

theorem RoundTrip.mldbEnd (x0 : Nat) (x1 : Bool) : RoundTrip.Statement (.mldbEnd x0 x1) := fun _ h => absurd rfl h

theorem RoundTrip.mzeroEnd (x0 : Nat) (x1 : Bool) : RoundTrip.Statement (.mzeroEnd x0 x1) := fun _ h => absurd rfl h

theorem RoundTrip.mrdEnd (x0 : Nat) (x1 : Bool) : RoundTrip.Statement (.mrdEnd x0 x1) := fun _ h => absurd rfl h

theorem RoundTrip.copyRow (x0 : Nat) (x1 : Bool) (x2 : ExtReply) : RoundTrip.Statement (.copyRow x0 x1 x2) := fun _ h => absurd rfl h

theorem RoundTrip.copyEnd (x0 : Nat) (x1 : Bool) : RoundTrip.Statement (.copyEnd x0 x1) := fun _ h => absurd rfl h

theorem RoundTrip.storeAccept (x0 : Nat) (x1 : Nat) : RoundTrip.Statement (.storeAccept x0 x1) := fun _ h => absurd rfl h

theorem RoundTrip.remoteReplyArrival (x0 : Nat) (x1 : Nat) (x2 : ExtReply) : RoundTrip.Statement (.remoteReplyArrival x0 x1 x2) := fun _ h => absurd rfl h

theorem RoundTrip.tileAccessMessage (x0 : Nat) (x1 : Nat) : RoundTrip.Statement (.tileAccessMessage x0 x1) := fun _ h => absurd rfl h

theorem RoundTrip.homeAtomic (x0 : Nat) (x1 : Nat) : RoundTrip.Statement (.homeAtomic x0 x1) := fun _ h => absurd rfl h

theorem RoundTrip.writebackMerge (x0 : Nat) (x1 : Nat) : RoundTrip.Statement (.writebackMerge x0 x1) := fun _ h => absurd rfl h

theorem RoundTrip.stagingEviction (x0 : Nat) (x1 : Nat) : RoundTrip.Statement (.stagingEviction x0 x1) := fun _ h => absurd rfl h

theorem RoundTrip.l2effSample (x0 : BitVec 2) (x1 : BitVec 16) (x2 : List (Nat × BitVec 16)) : RoundTrip.Statement (.l2effSample x0 x1 x2) := fun _ h => absurd rfl h

theorem RoundTrip.scrubUnit (x0 : Nat) (x1 : Nat) (x2 : Nat) (x3 : List Nat) (x4 : Nat) : RoundTrip.Statement (.scrubUnit x0 x1 x2 x3 x4) := fun _ h => absurd rfl h

theorem RoundTrip.reedArrivalMessage (x0 : ReedSource) : RoundTrip.Statement (.reedArrivalMessage x0) := fun _ h => absurd rfl h

theorem RoundTrip.tagMessage (x0 : Nat) (x1 : Nat) : RoundTrip.Statement (.tagMessage x0 x1) := fun _ h => absurd rfl h

theorem RoundTrip.tagRequestRetry (x0 : Nat) (x1 : Nat) : RoundTrip.Statement (.tagRequestRetry x0 x1) := fun _ h => absurd rfl h

theorem RoundTrip.inboxDelivery (x0 : Nat) (x1 : Nat) (x2 : InboxSource) : RoundTrip.Statement (.inboxDelivery x0 x1 x2) := fun _ h => absurd rfl h

theorem RoundTrip.weftRequest (x0 : Nat) (x1 : Nat) : RoundTrip.Statement (.weftRequest x0 x1) := fun _ h => absurd rfl h

theorem RoundTrip.causalityWalk (x0 : BitVec 4) : RoundTrip.Statement (.causalityWalk x0) := fun _ h => absurd rfl h

theorem RoundTrip.qcfgOpen (x0 : Nat) (x1 : BitVec 15) (x2 : W64) : RoundTrip.Statement (.qcfgOpen x0 x1 x2) := fun _ h => absurd rfl h

theorem RoundTrip.qcfgClose (x0 : Nat) (x1 : BitVec 15) (x2 : W64) : RoundTrip.Statement (.qcfgClose x0 x1 x2) := fun _ h => absurd rfl h

theorem RoundTrip.qcfgDrain (x0 : Nat) (x1 : BitVec 15) (x2 : W64) : RoundTrip.Statement (.qcfgDrain x0 x1 x2) := fun _ h => absurd rfl h

theorem RoundTrip.qcfgThaw (x0 : Nat) (x1 : BitVec 15) (x2 : W64) : RoundTrip.Statement (.qcfgThaw x0 x1 x2) := fun _ h => absurd rfl h

theorem RoundTrip.qcfgPurge (x0 : Nat) (x1 : BitVec 15) (x2 : W64) : RoundTrip.Statement (.qcfgPurge x0 x1 x2) := fun _ h => absurd rfl h

theorem RoundTrip.qcntClear (x0 : Nat) (x1 : BitVec 15) (x2 : W64) : RoundTrip.Statement (.qcntClear x0 x1 x2) := fun _ h => absurd rfl h

theorem RoundTrip.enqueueWindowWrite (x0 : Nat) (x1 : BitVec 15) (x2 : List Byte) (x3 : Bool) : RoundTrip.Statement (.enqueueWindowWrite x0 x1 x2 x3) := fun _ h => absurd rfl h

theorem RoundTrip.dispatchDecision : RoundTrip.Statement (.dispatchDecision) := fun _ h => absurd rfl h

theorem RoundTrip.rankBind (x0 : Nat) : RoundTrip.Statement (.rankBind x0) := fun _ h => absurd rfl h

theorem RoundTrip.kernelReleaseEnd (x0 : BitVec 15) (x1 : W32) : RoundTrip.Statement (.kernelReleaseEnd x0 x1) := fun _ h => absurd rfl h

theorem RoundTrip.watchdogExpiry (x0 : BitVec 15) (x1 : W32) : RoundTrip.Statement (.watchdogExpiry x0 x1) := fun _ h => absurd rfl h

theorem RoundTrip.tokenHostWrite (x0 : Nat) (x1 : BitVec 16) (x2 : W64) : RoundTrip.Statement (.tokenHostWrite x0 x1 x2) := fun _ h => absurd rfl h

theorem RoundTrip.partitionOpen (x0 : BitVec 4) : RoundTrip.Statement (.partitionOpen x0) := fun _ h => absurd rfl h

theorem RoundTrip.partitionClose (x0 : BitVec 4) : RoundTrip.Statement (.partitionClose x0) := fun _ h => absurd rfl h

theorem RoundTrip.haltComplete (x0 : BitVec 4) : RoundTrip.Statement (.haltComplete x0) := fun _ h => absurd rfl h

theorem RoundTrip.shadowTransferEnd (x0 : BitVec 4) (x1 : List Loss) : RoundTrip.Statement (.shadowTransferEnd x0 x1) := fun _ h => absurd rfl h

theorem RoundTrip.spillEnd (x0 : BitVec 4) (x1 : Bool) : RoundTrip.Statement (.spillEnd x0 x1) := fun _ h => absurd rfl h

theorem RoundTrip.restoreEnd (x0 : BitVec 4) (x1 : List Loss) (x2 : Option Byte) : RoundTrip.Statement (.restoreEnd x0 x1 x2) := fun _ h => absurd rfl h

theorem RoundTrip.migrationEnd (x0 : Nat) : RoundTrip.Statement (.migrationEnd x0) := fun _ h => absurd rfl h

theorem RoundTrip.tableWalkEnd (x0 : Nat) (x1 : BitVec 4) (x2 : Nat) (x3 : BitVec 4) (x4 : BitVec 5) : RoundTrip.Statement (.tableWalkEnd x0 x1 x2 x3 x4) := fun _ h => absurd rfl h

theorem RoundTrip.pgwakeWake (x0 : BitVec 2) (x1 : W32) : RoundTrip.Statement (.pgwakeWake x0 x1) := fun _ h => absurd rfl h

theorem RoundTrip.pgwakeRefuse (x0 : BitVec 2) (x1 : W32) : RoundTrip.Statement (.pgwakeRefuse x0 x1) := fun _ h => absurd rfl h

theorem RoundTrip.evpop (x0 : BitVec 2) : RoundTrip.Statement (.evpop x0) := fun _ h => absurd rfl h

theorem RoundTrip.pgpop (x0 : BitVec 2) : RoundTrip.Statement (.pgpop x0) := fun _ h => absurd rfl h

theorem RoundTrip.evstatClear (x0 : BitVec 2) (x1 : W64) : RoundTrip.Statement (.evstatClear x0 x1) := fun _ h => absurd rfl h

theorem RoundTrip.atsResponse (x0 : Nat) (x1 : Bool) : RoundTrip.Statement (.atsResponse x0 x1) := fun _ h => absurd rfl h

theorem RoundTrip.atsInvalidation (x0 : Nat) (x1 : Nat) : RoundTrip.Statement (.atsInvalidation x0 x1) := fun _ h => absurd rfl h

theorem RoundTrip.leaseGrant (x0 : BitVec 4) (x1 : Byte) (x2 : BitVec 12) (x3 : Nat) (x4 : Nat) (x5 : List Nat) : RoundTrip.Statement (.leaseGrant x0 x1 x2 x3 x4 x5) := fun _ h => absurd rfl h

theorem RoundTrip.leaseDeny (x0 : BitVec 4) (x1 : Byte) : RoundTrip.Statement (.leaseDeny x0 x1) := fun _ h => absurd rfl h

theorem RoundTrip.leaseReclaim (x0 : BitVec 4) (x1 : Byte) : RoundTrip.Statement (.leaseReclaim x0 x1) := fun _ h => absurd rfl h

theorem RoundTrip.leaseTermEnd (x0 : BitVec 4) (x1 : Byte) : RoundTrip.Statement (.leaseTermEnd x0 x1) := fun _ h => absurd rfl h

theorem RoundTrip.reclaimGranuleCopy (x0 : BitVec 4) (x1 : Byte) (x2 : Nat) (x3 : List Host.Cell) : RoundTrip.Statement (.reclaimGranuleCopy x0 x1 x2 x3) := fun _ h => absurd rfl h

theorem RoundTrip.leaseAck (x0 : BitVec 4) (x1 : Byte) : RoundTrip.Statement (.leaseAck x0 x1) := fun _ h => absurd rfl h

theorem RoundTrip.reclaimDeadline (x0 : BitVec 4) (x1 : Byte) : RoundTrip.Statement (.reclaimDeadline x0 x1) := fun _ h => absurd rfl h

theorem RoundTrip.portcEnable (x0 : BitVec 4) : RoundTrip.Statement (.portcEnable x0) := fun _ h => absurd rfl h

theorem RoundTrip.portcFence (x0 : BitVec 4) : RoundTrip.Statement (.portcFence x0) := fun _ h => absurd rfl h

theorem RoundTrip.portcDisable (x0 : BitVec 4) : RoundTrip.Statement (.portcDisable x0) := fun _ h => absurd rfl h

theorem RoundTrip.trainingComplete (x0 : BitVec 4) (x1 : W64) : RoundTrip.Statement (.trainingComplete x0 x1) := fun _ h => absurd rfl h

theorem RoundTrip.trainingTimeout (x0 : BitVec 4) : RoundTrip.Statement (.trainingTimeout x0) := fun _ h => absurd rfl h

theorem RoundTrip.linkError (x0 : BitVec 4) : RoundTrip.Statement (.linkError x0) := fun _ h => absurd rfl h

theorem RoundTrip.retrainComplete (x0 : BitVec 4) : RoundTrip.Statement (.retrainComplete x0) := fun _ h => absurd rfl h

theorem RoundTrip.retrainTimeout (x0 : BitVec 4) : RoundTrip.Statement (.retrainTimeout x0) := fun _ h => absurd rfl h

theorem RoundTrip.partnerLost (x0 : BitVec 4) : RoundTrip.Statement (.partnerLost x0) := fun _ h => absurd rfl h

theorem RoundTrip.peerRequest (x0 : BitVec 10) (x1 : BitVec 4) (x2 : W64) (x3 : PeerReq) : RoundTrip.Statement (.peerRequest x0 x1 x2 x3) := fun _ h => absurd rfl h

theorem RoundTrip.peerAck (x0 : Nat) (x1 : Nat) (x2 : BitVec 10) (x3 : Bool) (x4 : W64) : RoundTrip.Statement (.peerAck x0 x1 x2 x3 x4) := fun _ h => absurd rfl h

theorem RoundTrip.remoteAccessTimeout (x0 : Nat) (x1 : Nat) : RoundTrip.Statement (.remoteAccessTimeout x0 x1) := fun _ h => absurd rfl h

theorem RoundTrip.countedReleaseTimeout (x0 : Nat) : RoundTrip.Statement (.countedReleaseTimeout x0) := fun _ h => absurd rfl h

theorem RoundTrip.countedReleasePerform (x0 : Nat) : RoundTrip.Statement (.countedReleasePerform x0) := fun _ h => absurd rfl h

theorem RoundTrip.mcstCopyWrite (x0 : BitVec 10) (x1 : BitVec 4) (x2 : W64) (x3 : Byte) (x4 : Nat) (x5 : W64) : RoundTrip.Statement (.mcstCopyWrite x0 x1 x2 x3 x4 x5) := fun _ h => absurd rfl h

theorem RoundTrip.staleNotice (x0 : BitVec 10) (x1 : BitVec 4) (x2 : Byte) : RoundTrip.Statement (.staleNotice x0 x1 x2) := fun _ h => absurd rfl h

theorem RoundTrip.aredPhaseComplete (x0 : BitVec 4) (x1 : Byte) (x2 : List AredContrib) (x3 : Bool) : RoundTrip.Statement (.aredPhaseComplete x0 x1 x2 x3) := fun _ h => absurd rfl h

theorem RoundTrip.shuttleArrival (x0 : BitVec 10) (x1 : BitVec 4) (x2 : Shuttle) (x3 : Option (BitVec 16 × W32)) : RoundTrip.Statement (.shuttleArrival x0 x1 x2 x3) := fun _ h => absurd rfl h

theorem RoundTrip.shuttleReplyArrival (x0 : BitVec 4) (x1 : W64) (x2 : W64) (x3 : W64) (x4 : W64) (x5 : BitVec 16) : RoundTrip.Statement (.shuttleReplyArrival x0 x1 x2 x3 x4 x5) := fun _ h => absurd rfl h

theorem RoundTrip.replyHoldTimeout (x0 : Nat) : RoundTrip.Statement (.replyHoldTimeout x0) := fun _ h => absurd rfl h

theorem RoundTrip.shuttleRefusal (x0 : Nat) (x1 : Nat) (x2 : W64) (x3 : W64) (x4 : BitVec 4) : RoundTrip.Statement (.shuttleRefusal x0 x1 x2 x3 x4) := fun _ h => absurd rfl h

theorem RoundTrip.bar2Write (x0 : Nat) (x1 : Nat) (x2 : List Byte) : RoundTrip.Statement (.bar2Write x0 x1 x2) := fun _ h => absurd rfl h

theorem RoundTrip.bar2Read (x0 : Nat) (x1 : Nat) (x2 : Nat) : RoundTrip.Statement (.bar2Read x0 x1 x2) := fun _ h => absurd rfl h

theorem RoundTrip.bar2Atomic (x0 : Nat) (x1 : Nat) (x2 : BitVec 2) (x3 : Nat) (x4 : W64) (x5 : W64) : RoundTrip.Statement (.bar2Atomic x0 x1 x2 x3 x4 x5) := fun _ h => absurd rfl h

theorem RoundTrip.mailboxMessage (x0 : Nat) (x1 : List W64) : RoundTrip.Statement (.mailboxMessage x0 x1) := fun _ h => absurd rfl h

theorem RoundTrip.imageSubmit (x0 : Nat) (x1 : Image) : RoundTrip.Statement (.imageSubmit x0 x1) := fun _ h => absurd rfl h

theorem RoundTrip.attestRequest (x0 : Nat) (x1 : List Byte) : RoundTrip.Statement (.attestRequest x0 x1) := fun _ h => absurd rfl h

theorem RoundTrip.packageReset (x0 : BitVec 10) (x1 : BitVec 4) (x2 : Bool) (x3 : Option Image) : RoundTrip.Statement (.packageReset x0 x1 x2 x3) := fun _ h => absurd rfl h

theorem RoundTrip.l2Recovery (x0 : BitVec 2) (x1 : Bool) : RoundTrip.Statement (.l2Recovery x0 x1) := fun _ h => absurd rfl h

theorem RoundTrip.fatalError (x0 : Byte) : RoundTrip.Statement (.fatalError x0) := fun _ h => absurd rfl h

theorem RoundTrip.dumpWrite : RoundTrip.Statement (.dumpWrite) := fun _ h => absurd rfl h

theorem RoundTrip.dumpTimeout : RoundTrip.Statement (.dumpTimeout) := fun _ h => absurd rfl h

theorem RoundTrip.escalKillServed (x0 : Nat) : RoundTrip.Statement (.escalKillServed x0) := fun _ h => absurd rfl h

theorem RoundTrip.escalKillAll (x0 : Nat) : RoundTrip.Statement (.escalKillAll x0) := fun _ h => absurd rfl h

theorem RoundTrip.thermtrip (x0 : BitVec 2) : RoundTrip.Statement (.thermtrip x0) := fun _ h => absurd rfl h

theorem RoundTrip.smbusReadTelemetry (x0 : List Nat) (x1 : Nat) : RoundTrip.Statement (.smbusReadTelemetry x0 x1) := fun _ h => absurd rfl h

theorem RoundTrip.smbusReadStage : RoundTrip.Statement (.smbusReadStage) := fun _ h => absurd rfl h

theorem RoundTrip.smbusSetPowerLimit (x0 : Nat) : RoundTrip.Statement (.smbusSetPowerLimit x0) := fun _ h => absurd rfl h

theorem RoundTrip.registerWrite (x0 : RegAddr) (x1 : W64) : RoundTrip.Statement (.registerWrite x0 x1) := fun _ h => absurd rfl h

theorem RoundTrip.add (w : BitVec 1) (b : Reg) (a : Reg) (d : Reg) : RoundTrip.Statement (.add w b a d) := fun h _ =>
  decode_single _ _ _ _ _ _ _ rfl (by
    show decode0x00 _ _ _ _ _ = _
    delta decode0x00 assigned
    simp [h])

theorem RoundTrip.sub (w : BitVec 1) (b : Reg) (a : Reg) (d : Reg) : RoundTrip.Statement (.sub w b a d) := fun h _ =>
  decode_single _ _ _ _ _ _ _ rfl (by
    show decode0x00 _ _ _ _ _ = _
    delta decode0x00 assigned
    simp [h])

theorem RoundTrip.and (w : BitVec 1) (b : Reg) (a : Reg) (d : Reg) : RoundTrip.Statement (.and w b a d) := fun h _ =>
  decode_single _ _ _ _ _ _ _ rfl (by
    show decode0x00 _ _ _ _ _ = _
    delta decode0x00 assigned
    simp [h])

theorem RoundTrip.or (w : BitVec 1) (b : Reg) (a : Reg) (d : Reg) : RoundTrip.Statement (.or w b a d) := fun h _ =>
  decode_single _ _ _ _ _ _ _ rfl (by
    show decode0x00 _ _ _ _ _ = _
    delta decode0x00 assigned
    simp [h])

theorem RoundTrip.xor (w : BitVec 1) (b : Reg) (a : Reg) (d : Reg) : RoundTrip.Statement (.xor w b a d) := fun h _ =>
  decode_single _ _ _ _ _ _ _ rfl (by
    show decode0x00 _ _ _ _ _ = _
    delta decode0x00 assigned
    simp [h])

theorem RoundTrip.andn (w : BitVec 1) (b : Reg) (a : Reg) (d : Reg) : RoundTrip.Statement (.andn w b a d) := fun h _ =>
  decode_single _ _ _ _ _ _ _ rfl (by
    show decode0x00 _ _ _ _ _ = _
    delta decode0x00 assigned
    simp [h])

theorem RoundTrip.orn (w : BitVec 1) (b : Reg) (a : Reg) (d : Reg) : RoundTrip.Statement (.orn w b a d) := fun h _ =>
  decode_single _ _ _ _ _ _ _ rfl (by
    show decode0x00 _ _ _ _ _ = _
    delta decode0x00 assigned
    simp [h])

theorem RoundTrip.xnor (w : BitVec 1) (b : Reg) (a : Reg) (d : Reg) : RoundTrip.Statement (.xnor w b a d) := fun h _ =>
  decode_single _ _ _ _ _ _ _ rfl (by
    show decode0x00 _ _ _ _ _ = _
    delta decode0x00 assigned
    simp [h])

theorem RoundTrip.shl (w : BitVec 1) (b : Reg) (a : Reg) (d : Reg) : RoundTrip.Statement (.shl w b a d) := fun h _ =>
  decode_single _ _ _ _ _ _ _ rfl (by
    show decode0x00 _ _ _ _ _ = _
    delta decode0x00 assigned
    simp [h])

theorem RoundTrip.shr (w : BitVec 1) (b : Reg) (a : Reg) (d : Reg) : RoundTrip.Statement (.shr w b a d) := fun h _ =>
  decode_single _ _ _ _ _ _ _ rfl (by
    show decode0x00 _ _ _ _ _ = _
    delta decode0x00 assigned
    simp [h])

theorem RoundTrip.shra (w : BitVec 1) (b : Reg) (a : Reg) (d : Reg) : RoundTrip.Statement (.shra w b a d) := fun h _ =>
  decode_single _ _ _ _ _ _ _ rfl (by
    show decode0x00 _ _ _ _ _ = _
    delta decode0x00 assigned
    simp [h])

theorem RoundTrip.rol (w : BitVec 1) (b : Reg) (a : Reg) (d : Reg) : RoundTrip.Statement (.rol w b a d) := fun h _ =>
  decode_single _ _ _ _ _ _ _ rfl (by
    show decode0x00 _ _ _ _ _ = _
    delta decode0x00 assigned
    simp [h])

theorem RoundTrip.ror (w : BitVec 1) (b : Reg) (a : Reg) (d : Reg) : RoundTrip.Statement (.ror w b a d) := fun h _ =>
  decode_single _ _ _ _ _ _ _ rfl (by
    show decode0x00 _ _ _ _ _ = _
    delta decode0x00 assigned
    simp [h])

theorem RoundTrip.slt (w : BitVec 1) (b : Reg) (a : Reg) (d : Reg) : RoundTrip.Statement (.slt w b a d) := fun h _ =>
  decode_single _ _ _ _ _ _ _ rfl (by
    show decode0x00 _ _ _ _ _ = _
    delta decode0x00 assigned
    simp [h])

theorem RoundTrip.sltu (w : BitVec 1) (b : Reg) (a : Reg) (d : Reg) : RoundTrip.Statement (.sltu w b a d) := fun h _ =>
  decode_single _ _ _ _ _ _ _ rfl (by
    show decode0x00 _ _ _ _ _ = _
    delta decode0x00 assigned
    simp [h])

theorem RoundTrip.min (w : BitVec 1) (b : Reg) (a : Reg) (d : Reg) : RoundTrip.Statement (.min w b a d) := fun h _ =>
  decode_single _ _ _ _ _ _ _ rfl (by
    show decode0x00 _ _ _ _ _ = _
    delta decode0x00 assigned
    simp [h])

theorem RoundTrip.max (w : BitVec 1) (b : Reg) (a : Reg) (d : Reg) : RoundTrip.Statement (.max w b a d) := fun h _ =>
  decode_single _ _ _ _ _ _ _ rfl (by
    show decode0x00 _ _ _ _ _ = _
    delta decode0x00 assigned
    simp [h])

theorem RoundTrip.minu (w : BitVec 1) (b : Reg) (a : Reg) (d : Reg) : RoundTrip.Statement (.minu w b a d) := fun h _ =>
  decode_single _ _ _ _ _ _ _ rfl (by
    show decode0x00 _ _ _ _ _ = _
    delta decode0x00 assigned
    simp [h])

theorem RoundTrip.maxu (w : BitVec 1) (b : Reg) (a : Reg) (d : Reg) : RoundTrip.Statement (.maxu w b a d) := fun h _ =>
  decode_single _ _ _ _ _ _ _ rfl (by
    show decode0x00 _ _ _ _ _ = _
    delta decode0x00 assigned
    simp [h])

theorem RoundTrip.mul (w : BitVec 1) (b : Reg) (a : Reg) (d : Reg) : RoundTrip.Statement (.mul w b a d) := fun h _ =>
  decode_single _ _ _ _ _ _ _ rfl (by
    show decode0x00 _ _ _ _ _ = _
    delta decode0x00 assigned
    simp [h])

theorem RoundTrip.hmul (w : BitVec 1) (b : Reg) (a : Reg) (d : Reg) : RoundTrip.Statement (.hmul w b a d) := fun h _ =>
  decode_single _ _ _ _ _ _ _ rfl (by
    show decode0x00 _ _ _ _ _ = _
    delta decode0x00 assigned
    simp [h])

theorem RoundTrip.hmulu (w : BitVec 1) (b : Reg) (a : Reg) (d : Reg) : RoundTrip.Statement (.hmulu w b a d) := fun h _ =>
  decode_single _ _ _ _ _ _ _ rfl (by
    show decode0x00 _ _ _ _ _ = _
    delta decode0x00 assigned
    simp [h])

theorem RoundTrip.hmulm (w : BitVec 1) (b : Reg) (a : Reg) (d : Reg) : RoundTrip.Statement (.hmulm w b a d) := fun h _ =>
  decode_single _ _ _ _ _ _ _ rfl (by
    show decode0x00 _ _ _ _ _ = _
    delta decode0x00 assigned
    simp [h])

theorem RoundTrip.div (w : BitVec 1) (b : Reg) (a : Reg) (d : Reg) : RoundTrip.Statement (.div w b a d) := fun h _ =>
  decode_single _ _ _ _ _ _ _ rfl (by
    show decode0x00 _ _ _ _ _ = _
    delta decode0x00 assigned
    simp [h])

theorem RoundTrip.divu (w : BitVec 1) (b : Reg) (a : Reg) (d : Reg) : RoundTrip.Statement (.divu w b a d) := fun h _ =>
  decode_single _ _ _ _ _ _ _ rfl (by
    show decode0x00 _ _ _ _ _ = _
    delta decode0x00 assigned
    simp [h])

theorem RoundTrip.rem (w : BitVec 1) (b : Reg) (a : Reg) (d : Reg) : RoundTrip.Statement (.rem w b a d) := fun h _ =>
  decode_single _ _ _ _ _ _ _ rfl (by
    show decode0x00 _ _ _ _ _ = _
    delta decode0x00 assigned
    simp [h])

theorem RoundTrip.remu (w : BitVec 1) (b : Reg) (a : Reg) (d : Reg) : RoundTrip.Statement (.remu w b a d) := fun h _ =>
  decode_single _ _ _ _ _ _ _ rfl (by
    show decode0x00 _ _ _ _ _ = _
    delta decode0x00 assigned
    simp [h])

theorem RoundTrip.clz (w : BitVec 1) (a : Reg) (d : Reg) : RoundTrip.Statement (.clz w a d) := fun h _ =>
  decode_single _ _ _ _ _ _ _ rfl (by
    show decode0x00 _ _ _ _ _ = _
    delta decode0x00 assigned
    simp [h])

theorem RoundTrip.ctz (w : BitVec 1) (a : Reg) (d : Reg) : RoundTrip.Statement (.ctz w a d) := fun h _ =>
  decode_single _ _ _ _ _ _ _ rfl (by
    show decode0x00 _ _ _ _ _ = _
    delta decode0x00 assigned
    simp [h])

theorem RoundTrip.popc (w : BitVec 1) (a : Reg) (d : Reg) : RoundTrip.Statement (.popc w a d) := fun h _ =>
  decode_single _ _ _ _ _ _ _ rfl (by
    show decode0x00 _ _ _ _ _ = _
    delta decode0x00 assigned
    simp [h])

theorem RoundTrip.brev (w : BitVec 1) (a : Reg) (d : Reg) : RoundTrip.Statement (.brev w a d) := fun h _ =>
  decode_single _ _ _ _ _ _ _ rfl (by
    show decode0x00 _ _ _ _ _ = _
    delta decode0x00 assigned
    simp [h])

theorem RoundTrip.bswap (w : BitVec 1) (a : Reg) (d : Reg) : RoundTrip.Statement (.bswap w a d) := fun h _ =>
  decode_single _ _ _ _ _ _ _ rfl (by
    show decode0x00 _ _ _ _ _ = _
    delta decode0x00 assigned
    simp [h])

theorem RoundTrip.sext (w : BitVec 2) (a : Reg) (d : Reg) : RoundTrip.Statement (.sext w a d) := fun h _ =>
  decode_single _ _ _ _ _ _ _ rfl (by
    show decode0x01 _ _ _ _ _ = _
    delta decode0x01 assigned
    simp [h])

theorem RoundTrip.zext (w : BitVec 2) (a : Reg) (d : Reg) : RoundTrip.Statement (.zext w a d) := fun h _ =>
  decode_single _ _ _ _ _ _ _ rfl (by
    show decode0x01 _ _ _ _ _ = _
    delta decode0x01 assigned
    simp [h])

theorem RoundTrip.bfx (w : BitVec 2) (b : Reg) (a : Reg) (d : Reg) : RoundTrip.Statement (.bfx w b a d) := fun h _ =>
  decode_single _ _ _ _ _ _ _ rfl (by
    show decode0x01 _ _ _ _ _ = _
    delta decode0x01 assigned
    simp [h])

theorem RoundTrip.bfi (w : BitVec 2) (b : Reg) (a : Reg) (d : Reg) : RoundTrip.Statement (.bfi w b a d) := fun h _ =>
  decode_single _ _ _ _ _ _ _ rfl (by
    show decode0x01 _ _ _ _ _ = _
    delta decode0x01 assigned
    simp [h])

theorem RoundTrip.csel (c : Reg) (b : Reg) (a : Reg) (d : Reg) : RoundTrip.Statement (.csel c b a d) := fun h _ =>
  decode_single _ _ _ _ _ _ _ rfl (by
    show decode0x02 _ _ _ _ _ = _
    delta decode0x02 assigned
    simp [h])

theorem RoundTrip.madd (w : BitVec 1) (c : Reg) (b : Reg) (a : Reg) (d : Reg) : RoundTrip.Statement (.madd w c b a d) := fun h _ =>
  decode_single _ _ _ _ _ _ _ rfl (by
    show decode0x03 _ _ _ _ _ = _
    delta decode0x03 assigned
    simp [h])

theorem RoundTrip.msub (w : BitVec 1) (c : Reg) (b : Reg) (a : Reg) (d : Reg) : RoundTrip.Statement (.msub w c b a d) := fun h _ =>
  decode_single _ _ _ _ _ _ _ rfl (by
    show decode0x04 _ _ _ _ _ = _
    delta decode0x04 assigned
    simp [h])

theorem RoundTrip.addi (i : BitVec 14) (a : Reg) (d : Reg) : RoundTrip.Statement (.addi i a d) := fun h _ =>
  decode_single _ _ _ _ _ _ _ rfl (by
    show decode0x08 _ _ _ _ _ = _
    delta decode0x08 assigned
    simp [h])

theorem RoundTrip.andi (i : BitVec 14) (a : Reg) (d : Reg) : RoundTrip.Statement (.andi i a d) := fun h _ =>
  decode_single _ _ _ _ _ _ _ rfl (by
    show decode0x09 _ _ _ _ _ = _
    delta decode0x09 assigned
    simp [h])

theorem RoundTrip.ori (i : BitVec 14) (a : Reg) (d : Reg) : RoundTrip.Statement (.ori i a d) := fun h _ =>
  decode_single _ _ _ _ _ _ _ rfl (by
    show decode0x0A _ _ _ _ _ = _
    delta decode0x0A assigned
    simp [h])

theorem RoundTrip.xori (i : BitVec 14) (a : Reg) (d : Reg) : RoundTrip.Statement (.xori i a d) := fun h _ =>
  decode_single _ _ _ _ _ _ _ rfl (by
    show decode0x0B _ _ _ _ _ = _
    delta decode0x0B assigned
    simp [h])

theorem RoundTrip.shli (i : BitVec 6) (a : Reg) (d : Reg) : RoundTrip.Statement (.shli i a d) := fun h _ =>
  decode_single _ _ _ _ _ _ _ rfl (by
    show decode0x0C _ _ _ _ _ = _
    delta decode0x0C assigned
    simp [h])

theorem RoundTrip.shri (i : BitVec 6) (a : Reg) (d : Reg) : RoundTrip.Statement (.shri i a d) := fun h _ =>
  decode_single _ _ _ _ _ _ _ rfl (by
    show decode0x0D _ _ _ _ _ = _
    delta decode0x0D assigned
    simp [h])

theorem RoundTrip.shrai (i : BitVec 6) (a : Reg) (d : Reg) : RoundTrip.Statement (.shrai i a d) := fun h _ =>
  decode_single _ _ _ _ _ _ _ rfl (by
    show decode0x0E _ _ _ _ _ = _
    delta decode0x0E assigned
    simp [h])

theorem RoundTrip.slti (i : BitVec 14) (a : Reg) (d : Reg) : RoundTrip.Statement (.slti i a d) := fun h _ =>
  decode_single _ _ _ _ _ _ _ rfl (by
    show decode0x0F _ _ _ _ _ = _
    delta decode0x0F assigned
    simp [h])

theorem RoundTrip.sltiu (i : BitVec 14) (a : Reg) (d : Reg) : RoundTrip.Statement (.sltiu i a d) := fun h _ =>
  decode_single _ _ _ _ _ _ _ rfl (by
    show decode0x10 _ _ _ _ _ = _
    delta decode0x10 assigned
    simp [h])

theorem RoundTrip.ldh (i : BitVec 19) (d : Reg) : RoundTrip.Statement (.ldh i d) := fun h _ =>
  decode_single _ _ _ _ _ _ _ rfl (by
    show decode0x11 _ _ _ _ _ = _
    delta decode0x11 assigned
    simp [h])

theorem RoundTrip.addpc (i : BitVec 19) (d : Reg) : RoundTrip.Statement (.addpc i d) := fun h _ =>
  decode_single _ _ _ _ _ _ _ rfl (by
    show decode0x12 _ _ _ _ _ = _
    delta decode0x12 assigned
    simp [h])

theorem RoundTrip.beq (f : BitVec 14) (b : Reg) (a : Reg) : RoundTrip.Statement (.beq f b a) := fun h _ =>
  decode_single _ _ _ _ _ _ _ rfl (by
    show decode0x14 _ _ _ _ _ = _
    delta decode0x14 assigned
    simp [h])

theorem RoundTrip.bne (f : BitVec 14) (b : Reg) (a : Reg) : RoundTrip.Statement (.bne f b a) := fun h _ =>
  decode_single _ _ _ _ _ _ _ rfl (by
    show decode0x15 _ _ _ _ _ = _
    delta decode0x15 assigned
    simp [h])

theorem RoundTrip.blt (f : BitVec 14) (b : Reg) (a : Reg) : RoundTrip.Statement (.blt f b a) := fun h _ =>
  decode_single _ _ _ _ _ _ _ rfl (by
    show decode0x16 _ _ _ _ _ = _
    delta decode0x16 assigned
    simp [h])

theorem RoundTrip.bge (f : BitVec 14) (b : Reg) (a : Reg) : RoundTrip.Statement (.bge f b a) := fun h _ =>
  decode_single _ _ _ _ _ _ _ rfl (by
    show decode0x17 _ _ _ _ _ = _
    delta decode0x17 assigned
    simp [h])

theorem RoundTrip.bltu (f : BitVec 14) (b : Reg) (a : Reg) : RoundTrip.Statement (.bltu f b a) := fun h _ =>
  decode_single _ _ _ _ _ _ _ rfl (by
    show decode0x18 _ _ _ _ _ = _
    delta decode0x18 assigned
    simp [h])

theorem RoundTrip.bgeu (f : BitVec 14) (b : Reg) (a : Reg) : RoundTrip.Statement (.bgeu f b a) := fun h _ =>
  decode_single _ _ _ _ _ _ _ rfl (by
    show decode0x19 _ _ _ _ _ = _
    delta decode0x19 assigned
    simp [h])

theorem RoundTrip.jal (f : BitVec 19) (d : Reg) : RoundTrip.Statement (.jal f d) := fun h _ =>
  decode_single _ _ _ _ _ _ _ rfl (by
    show decode0x1A _ _ _ _ _ = _
    delta decode0x1A assigned
    simp [h])

theorem RoundTrip.jalr (i : BitVec 14) (a : Reg) (d : Reg) : RoundTrip.Statement (.jalr i a d) := fun h _ =>
  decode_single _ _ _ _ _ _ _ rfl (by
    show decode0x1B _ _ _ _ _ = _
    delta decode0x1B assigned
    simp [h])

theorem RoundTrip.lb (i : BitVec 14) (a : Reg) (d : Reg) : RoundTrip.Statement (.lb i a d) := fun h _ =>
  decode_single _ _ _ _ _ _ _ rfl (by
    show decode0x20 _ _ _ _ _ = _
    delta decode0x20 assigned
    simp [h])

theorem RoundTrip.lh (i : BitVec 14) (a : Reg) (d : Reg) : RoundTrip.Statement (.lh i a d) := fun h _ =>
  decode_single _ _ _ _ _ _ _ rfl (by
    show decode0x21 _ _ _ _ _ = _
    delta decode0x21 assigned
    simp [h])

theorem RoundTrip.lw (i : BitVec 14) (a : Reg) (d : Reg) : RoundTrip.Statement (.lw i a d) := fun h _ =>
  decode_single _ _ _ _ _ _ _ rfl (by
    show decode0x22 _ _ _ _ _ = _
    delta decode0x22 assigned
    simp [h])

theorem RoundTrip.ld (i : BitVec 14) (a : Reg) (d : Reg) : RoundTrip.Statement (.ld i a d) := fun h _ =>
  decode_single _ _ _ _ _ _ _ rfl (by
    show decode0x23 _ _ _ _ _ = _
    delta decode0x23 assigned
    simp [h])

theorem RoundTrip.lbu (i : BitVec 14) (a : Reg) (d : Reg) : RoundTrip.Statement (.lbu i a d) := fun h _ =>
  decode_single _ _ _ _ _ _ _ rfl (by
    show decode0x24 _ _ _ _ _ = _
    delta decode0x24 assigned
    simp [h])

theorem RoundTrip.lhu (i : BitVec 14) (a : Reg) (d : Reg) : RoundTrip.Statement (.lhu i a d) := fun h _ =>
  decode_single _ _ _ _ _ _ _ rfl (by
    show decode0x25 _ _ _ _ _ = _
    delta decode0x25 assigned
    simp [h])

theorem RoundTrip.lwu (i : BitVec 14) (a : Reg) (d : Reg) : RoundTrip.Statement (.lwu i a d) := fun h _ =>
  decode_single _ _ _ _ _ _ _ rfl (by
    show decode0x26 _ _ _ _ _ = _
    delta decode0x26 assigned
    simp [h])

theorem RoundTrip.lq (i : BitVec 14) (a : Reg) (d : Reg) : RoundTrip.Statement (.lq i a d) := fun h _ =>
  decode_single _ _ _ _ _ _ _ rfl (by
    show decode0x27 _ _ _ _ _ = _
    delta decode0x27 assigned
    simp [h])

theorem RoundTrip.ldc (i : BitVec 14) (a : Reg) (d : Reg) : RoundTrip.Statement (.ldc i a d) := fun h _ =>
  decode_single _ _ _ _ _ _ _ rfl (by
    show decode0x28 _ _ _ _ _ = _
    delta decode0x28 assigned
    simp [h])

theorem RoundTrip.ldaW (s : BitVec 3) (a : Reg) (d : Reg) : RoundTrip.Statement (.ldaW s a d) := fun h _ =>
  decode_single _ _ _ _ _ _ _ rfl (by
    show decode0x29 _ _ _ _ _ = _
    delta decode0x29 assigned
    simp [h])

theorem RoundTrip.ldaD (s : BitVec 3) (a : Reg) (d : Reg) : RoundTrip.Statement (.ldaD s a d) := fun h _ =>
  decode_single _ _ _ _ _ _ _ rfl (by
    show decode0x29 _ _ _ _ _ = _
    delta decode0x29 assigned
    simp [h])

theorem RoundTrip.ldaQ (s : BitVec 3) (a : Reg) (d : Reg) : RoundTrip.Statement (.ldaQ s a d) := fun h _ =>
  decode_single _ _ _ _ _ _ _ rfl (by
    show decode0x29 _ _ _ _ _ = _
    delta decode0x29 assigned
    simp [h])

theorem RoundTrip.sb (i : BitVec 14) (b : Reg) (a : Reg) : RoundTrip.Statement (.sb i b a) := fun h _ =>
  decode_single _ _ _ _ _ _ _ rfl (by
    show decode0x30 _ _ _ _ _ = _
    delta decode0x30 assigned
    simp [h])

theorem RoundTrip.sh (i : BitVec 14) (b : Reg) (a : Reg) : RoundTrip.Statement (.sh i b a) := fun h _ =>
  decode_single _ _ _ _ _ _ _ rfl (by
    show decode0x31 _ _ _ _ _ = _
    delta decode0x31 assigned
    simp [h])

theorem RoundTrip.sw (i : BitVec 14) (b : Reg) (a : Reg) : RoundTrip.Statement (.sw i b a) := fun h _ =>
  decode_single _ _ _ _ _ _ _ rfl (by
    show decode0x32 _ _ _ _ _ = _
    delta decode0x32 assigned
    simp [h])

theorem RoundTrip.sd (i : BitVec 14) (b : Reg) (a : Reg) : RoundTrip.Statement (.sd i b a) := fun h _ =>
  decode_single _ _ _ _ _ _ _ rfl (by
    show decode0x33 _ _ _ _ _ = _
    delta decode0x33 assigned
    simp [h])

theorem RoundTrip.sq (i : BitVec 14) (b : Reg) (a : Reg) : RoundTrip.Statement (.sq i b a) := fun h _ =>
  decode_single _ _ _ _ _ _ _ rfl (by
    show decode0x34 _ _ _ _ _ = _
    delta decode0x34 assigned
    simp [h])

theorem RoundTrip.snib (h : BitVec 1) (b : Reg) (a : Reg) : RoundTrip.Statement (.snib h b a) := fun h _ =>
  decode_single _ _ _ _ _ _ _ rfl (by
    show decode0x35 _ _ _ _ _ = _
    delta decode0x35 assigned
    simp [h])

theorem RoundTrip.strlW (s : BitVec 3) (b : Reg) (a : Reg) : RoundTrip.Statement (.strlW s b a) := fun h _ =>
  decode_single _ _ _ _ _ _ _ rfl (by
    show decode0x36 _ _ _ _ _ = _
    delta decode0x36 assigned
    simp [h])

theorem RoundTrip.strlD (s : BitVec 3) (b : Reg) (a : Reg) : RoundTrip.Statement (.strlD s b a) := fun h _ =>
  decode_single _ _ _ _ _ _ _ rfl (by
    show decode0x36 _ _ _ _ _ = _
    delta decode0x36 assigned
    simp [h])

theorem RoundTrip.strlQ (s : BitVec 3) (b : Reg) (a : Reg) : RoundTrip.Statement (.strlQ s b a) := fun h _ =>
  decode_single _ _ _ _ _ _ _ rfl (by
    show decode0x36 _ _ _ _ _ = _
    delta decode0x36 assigned
    simp [h])

theorem RoundTrip.atomAddW (s : BitVec 3) (o : BitVec 2) (b : Reg) (a : Reg) (d : Reg) : RoundTrip.Statement (.atomAddW s o b a d) := fun h _ =>
  decode_single _ _ _ _ _ _ _ rfl (by
    show decode0x38 _ _ _ _ _ = _
    delta decode0x38 assigned
    simp [h])

theorem RoundTrip.atomAndW (s : BitVec 3) (o : BitVec 2) (b : Reg) (a : Reg) (d : Reg) : RoundTrip.Statement (.atomAndW s o b a d) := fun h _ =>
  decode_single _ _ _ _ _ _ _ rfl (by
    show decode0x38 _ _ _ _ _ = _
    delta decode0x38 assigned
    simp [h])

theorem RoundTrip.atomOrW (s : BitVec 3) (o : BitVec 2) (b : Reg) (a : Reg) (d : Reg) : RoundTrip.Statement (.atomOrW s o b a d) := fun h _ =>
  decode_single _ _ _ _ _ _ _ rfl (by
    show decode0x38 _ _ _ _ _ = _
    delta decode0x38 assigned
    simp [h])

theorem RoundTrip.atomXorW (s : BitVec 3) (o : BitVec 2) (b : Reg) (a : Reg) (d : Reg) : RoundTrip.Statement (.atomXorW s o b a d) := fun h _ =>
  decode_single _ _ _ _ _ _ _ rfl (by
    show decode0x38 _ _ _ _ _ = _
    delta decode0x38 assigned
    simp [h])

theorem RoundTrip.atomMinW (s : BitVec 3) (o : BitVec 2) (b : Reg) (a : Reg) (d : Reg) : RoundTrip.Statement (.atomMinW s o b a d) := fun h _ =>
  decode_single _ _ _ _ _ _ _ rfl (by
    show decode0x38 _ _ _ _ _ = _
    delta decode0x38 assigned
    simp [h])

theorem RoundTrip.atomMaxW (s : BitVec 3) (o : BitVec 2) (b : Reg) (a : Reg) (d : Reg) : RoundTrip.Statement (.atomMaxW s o b a d) := fun h _ =>
  decode_single _ _ _ _ _ _ _ rfl (by
    show decode0x38 _ _ _ _ _ = _
    delta decode0x38 assigned
    simp [h])

theorem RoundTrip.atomMinuW (s : BitVec 3) (o : BitVec 2) (b : Reg) (a : Reg) (d : Reg) : RoundTrip.Statement (.atomMinuW s o b a d) := fun h _ =>
  decode_single _ _ _ _ _ _ _ rfl (by
    show decode0x38 _ _ _ _ _ = _
    delta decode0x38 assigned
    simp [h])

theorem RoundTrip.atomMaxuW (s : BitVec 3) (o : BitVec 2) (b : Reg) (a : Reg) (d : Reg) : RoundTrip.Statement (.atomMaxuW s o b a d) := fun h _ =>
  decode_single _ _ _ _ _ _ _ rfl (by
    show decode0x38 _ _ _ _ _ = _
    delta decode0x38 assigned
    simp [h])

theorem RoundTrip.atomSwapW (s : BitVec 3) (o : BitVec 2) (b : Reg) (a : Reg) (d : Reg) : RoundTrip.Statement (.atomSwapW s o b a d) := fun h _ =>
  decode_single _ _ _ _ _ _ _ rfl (by
    show decode0x38 _ _ _ _ _ = _
    delta decode0x38 assigned
    simp [h])

theorem RoundTrip.atomAddD (s : BitVec 3) (o : BitVec 2) (b : Reg) (a : Reg) (d : Reg) : RoundTrip.Statement (.atomAddD s o b a d) := fun h _ =>
  decode_single _ _ _ _ _ _ _ rfl (by
    show decode0x39 _ _ _ _ _ = _
    delta decode0x39 assigned
    simp [h])

theorem RoundTrip.atomAndD (s : BitVec 3) (o : BitVec 2) (b : Reg) (a : Reg) (d : Reg) : RoundTrip.Statement (.atomAndD s o b a d) := fun h _ =>
  decode_single _ _ _ _ _ _ _ rfl (by
    show decode0x39 _ _ _ _ _ = _
    delta decode0x39 assigned
    simp [h])

theorem RoundTrip.atomOrD (s : BitVec 3) (o : BitVec 2) (b : Reg) (a : Reg) (d : Reg) : RoundTrip.Statement (.atomOrD s o b a d) := fun h _ =>
  decode_single _ _ _ _ _ _ _ rfl (by
    show decode0x39 _ _ _ _ _ = _
    delta decode0x39 assigned
    simp [h])

theorem RoundTrip.atomXorD (s : BitVec 3) (o : BitVec 2) (b : Reg) (a : Reg) (d : Reg) : RoundTrip.Statement (.atomXorD s o b a d) := fun h _ =>
  decode_single _ _ _ _ _ _ _ rfl (by
    show decode0x39 _ _ _ _ _ = _
    delta decode0x39 assigned
    simp [h])

theorem RoundTrip.atomMinD (s : BitVec 3) (o : BitVec 2) (b : Reg) (a : Reg) (d : Reg) : RoundTrip.Statement (.atomMinD s o b a d) := fun h _ =>
  decode_single _ _ _ _ _ _ _ rfl (by
    show decode0x39 _ _ _ _ _ = _
    delta decode0x39 assigned
    simp [h])

theorem RoundTrip.atomMaxD (s : BitVec 3) (o : BitVec 2) (b : Reg) (a : Reg) (d : Reg) : RoundTrip.Statement (.atomMaxD s o b a d) := fun h _ =>
  decode_single _ _ _ _ _ _ _ rfl (by
    show decode0x39 _ _ _ _ _ = _
    delta decode0x39 assigned
    simp [h])

theorem RoundTrip.atomMinuD (s : BitVec 3) (o : BitVec 2) (b : Reg) (a : Reg) (d : Reg) : RoundTrip.Statement (.atomMinuD s o b a d) := fun h _ =>
  decode_single _ _ _ _ _ _ _ rfl (by
    show decode0x39 _ _ _ _ _ = _
    delta decode0x39 assigned
    simp [h])

theorem RoundTrip.atomMaxuD (s : BitVec 3) (o : BitVec 2) (b : Reg) (a : Reg) (d : Reg) : RoundTrip.Statement (.atomMaxuD s o b a d) := fun h _ =>
  decode_single _ _ _ _ _ _ _ rfl (by
    show decode0x39 _ _ _ _ _ = _
    delta decode0x39 assigned
    simp [h])

theorem RoundTrip.atomSwapD (s : BitVec 3) (o : BitVec 2) (b : Reg) (a : Reg) (d : Reg) : RoundTrip.Statement (.atomSwapD s o b a d) := fun h _ =>
  decode_single _ _ _ _ _ _ _ rfl (by
    show decode0x39 _ _ _ _ _ = _
    delta decode0x39 assigned
    simp [h])

theorem RoundTrip.fatomFadd (t : BitVec 2) (s : BitVec 3) (o : BitVec 2) (b : Reg) (a : Reg) (d : Reg) : RoundTrip.Statement (.fatomFadd t s o b a d) := fun h _ =>
  decode_single _ _ _ _ _ _ _ rfl (by
    show decode0x3A _ _ _ _ _ = _
    delta decode0x3A assigned
    simp [h])

theorem RoundTrip.fatomFmin (t : BitVec 2) (s : BitVec 3) (o : BitVec 2) (b : Reg) (a : Reg) (d : Reg) : RoundTrip.Statement (.fatomFmin t s o b a d) := fun h _ =>
  decode_single _ _ _ _ _ _ _ rfl (by
    show decode0x3A _ _ _ _ _ = _
    delta decode0x3A assigned
    simp [h])

theorem RoundTrip.fatomFmax (t : BitVec 2) (s : BitVec 3) (o : BitVec 2) (b : Reg) (a : Reg) (d : Reg) : RoundTrip.Statement (.fatomFmax t s o b a d) := fun h _ =>
  decode_single _ _ _ _ _ _ _ rfl (by
    show decode0x3A _ _ _ _ _ = _
    delta decode0x3A assigned
    simp [h])

theorem RoundTrip.fatompFadd (t : BitVec 2) (s : BitVec 3) (o : BitVec 2) (b : Reg) (a : Reg) (d : Reg) : RoundTrip.Statement (.fatompFadd t s o b a d) := fun h _ =>
  decode_single _ _ _ _ _ _ _ rfl (by
    show decode0x3B _ _ _ _ _ = _
    delta decode0x3B assigned
    simp [h])

theorem RoundTrip.fatompFmin (t : BitVec 2) (s : BitVec 3) (o : BitVec 2) (b : Reg) (a : Reg) (d : Reg) : RoundTrip.Statement (.fatompFmin t s o b a d) := fun h _ =>
  decode_single _ _ _ _ _ _ _ rfl (by
    show decode0x3B _ _ _ _ _ = _
    delta decode0x3B assigned
    simp [h])

theorem RoundTrip.fatompFmax (t : BitVec 2) (s : BitVec 3) (o : BitVec 2) (b : Reg) (a : Reg) (d : Reg) : RoundTrip.Statement (.fatompFmax t s o b a d) := fun h _ =>
  decode_single _ _ _ _ _ _ _ rfl (by
    show decode0x3B _ _ _ _ _ = _
    delta decode0x3B assigned
    simp [h])

theorem RoundTrip.casW (s : BitVec 3) (o : BitVec 2) (b : Reg) (a : Reg) (d : Reg) : RoundTrip.Statement (.casW s o b a d) := fun h _ =>
  decode_single _ _ _ _ _ _ _ rfl (by
    show decode0x3C _ _ _ _ _ = _
    delta decode0x3C assigned
    simp [h])

theorem RoundTrip.casD (s : BitVec 3) (o : BitVec 2) (b : Reg) (a : Reg) (d : Reg) : RoundTrip.Statement (.casD s o b a d) := fun h _ =>
  decode_single _ _ _ _ _ _ _ rfl (by
    show decode0x3C _ _ _ _ _ = _
    delta decode0x3C assigned
    simp [h])

theorem RoundTrip.casQ (s : BitVec 3) (o : BitVec 2) (b : Reg) (a : Reg) (d : Reg) : RoundTrip.Statement (.casQ s o b a d) := fun h _ =>
  decode_single _ _ _ _ _ _ _ rfl (by
    show decode0x3C _ _ _ _ _ = _
    delta decode0x3C assigned
    simp [h])

theorem RoundTrip.wbr (s : BitVec 3) (b : Reg) (a : Reg) : RoundTrip.Statement (.wbr s b a) := fun h _ =>
  decode_single _ _ _ _ _ _ _ rfl (by
    show decode0x3D _ _ _ _ _ = _
    delta decode0x3D assigned
    simp [h])

theorem RoundTrip.invr (s : BitVec 3) (b : Reg) (a : Reg) : RoundTrip.Statement (.invr s b a) := fun h _ =>
  decode_single _ _ _ _ _ _ _ rfl (by
    show decode0x3D _ _ _ _ _ = _
    delta decode0x3D assigned
    simp [h])

theorem RoundTrip.disc (s : BitVec 3) (b : Reg) (a : Reg) : RoundTrip.Statement (.disc s b a) := fun h _ =>
  decode_single _ _ _ _ _ _ _ rfl (by
    show decode0x3D _ _ _ _ _ = _
    delta decode0x3D assigned
    simp [h])

theorem RoundTrip.pref (s : BitVec 3) (b : Reg) (a : Reg) : RoundTrip.Statement (.pref s b a) := fun h _ =>
  decode_single _ _ _ _ _ _ _ rfl (by
    show decode0x3D _ _ _ _ _ = _
    delta decode0x3D assigned
    simp [h])

theorem RoundTrip.cinv : RoundTrip.Statement (.cinv) := fun h _ =>
  decode_single _ _ _ _ _ _ _ rfl (by
    show decode0x3D _ _ _ _ _ = _
    delta decode0x3D assigned
    simp [h])

theorem RoundTrip.fence (s : BitVec 3) (d : Reg) : RoundTrip.Statement (.fence s d) := fun h _ =>
  decode_single _ _ _ _ _ _ _ rfl (by
    show decode0x3E _ _ _ _ _ = _
    delta decode0x3E assigned
    simp [h])

theorem RoundTrip.rel (s : BitVec 3) : RoundTrip.Statement (.rel s) := fun h _ =>
  decode_single _ _ _ _ _ _ _ rfl (by
    show decode0x3E _ _ _ _ _ = _
    delta decode0x3E assigned
    simp [h])

theorem RoundTrip.acq (s : BitVec 3) : RoundTrip.Statement (.acq s) := fun h _ =>
  decode_single _ _ _ _ _ _ _ rfl (by
    show decode0x3E _ _ _ _ _ = _
    delta decode0x3E assigned
    simp [h])

theorem RoundTrip.hint (n : BitVec 24) : RoundTrip.Statement (.hint n) := fun h _ =>
  decode_single _ _ _ _ _ _ _ rfl (by
    show decode0x3F _ _ _ _ _ = _
    delta decode0x3F assigned
    simp [h])

theorem RoundTrip.fadd (t : BitVec 4) (b : Reg) (a : Reg) (d : Reg) : RoundTrip.Statement (.fadd t b a d) := fun h _ =>
  decode_single _ _ _ _ _ _ _ rfl (by
    show decode1x00 _ _ _ _ _ = _
    delta decode1x00 assigned
    simp [h])

theorem RoundTrip.fsub (t : BitVec 4) (b : Reg) (a : Reg) (d : Reg) : RoundTrip.Statement (.fsub t b a d) := fun h _ =>
  decode_single _ _ _ _ _ _ _ rfl (by
    show decode1x00 _ _ _ _ _ = _
    delta decode1x00 assigned
    simp [h])

theorem RoundTrip.fmul (t : BitVec 4) (b : Reg) (a : Reg) (d : Reg) : RoundTrip.Statement (.fmul t b a d) := fun h _ =>
  decode_single _ _ _ _ _ _ _ rfl (by
    show decode1x00 _ _ _ _ _ = _
    delta decode1x00 assigned
    simp [h])

theorem RoundTrip.fdiv (t : BitVec 4) (b : Reg) (a : Reg) (d : Reg) : RoundTrip.Statement (.fdiv t b a d) := fun h _ =>
  decode_single _ _ _ _ _ _ _ rfl (by
    show decode1x00 _ _ _ _ _ = _
    delta decode1x00 assigned
    simp [h])

theorem RoundTrip.fsqrt (t : BitVec 4) (a : Reg) (d : Reg) : RoundTrip.Statement (.fsqrt t a d) := fun h _ =>
  decode_single _ _ _ _ _ _ _ rfl (by
    show decode1x00 _ _ _ _ _ = _
    delta decode1x00 assigned
    simp [h])

theorem RoundTrip.fmin (t : BitVec 4) (b : Reg) (a : Reg) (d : Reg) : RoundTrip.Statement (.fmin t b a d) := fun h _ =>
  decode_single _ _ _ _ _ _ _ rfl (by
    show decode1x00 _ _ _ _ _ = _
    delta decode1x00 assigned
    simp [h])

theorem RoundTrip.fmax (t : BitVec 4) (b : Reg) (a : Reg) (d : Reg) : RoundTrip.Statement (.fmax t b a d) := fun h _ =>
  decode_single _ _ _ _ _ _ _ rfl (by
    show decode1x00 _ _ _ _ _ = _
    delta decode1x00 assigned
    simp [h])

theorem RoundTrip.fcpys (t : BitVec 4) (b : Reg) (a : Reg) (d : Reg) : RoundTrip.Statement (.fcpys t b a d) := fun h _ =>
  decode_single _ _ _ _ _ _ _ rfl (by
    show decode1x00 _ _ _ _ _ = _
    delta decode1x00 assigned
    simp [h])

theorem RoundTrip.fcpyns (t : BitVec 4) (b : Reg) (a : Reg) (d : Reg) : RoundTrip.Statement (.fcpyns t b a d) := fun h _ =>
  decode_single _ _ _ _ _ _ _ rfl (by
    show decode1x00 _ _ _ _ _ = _
    delta decode1x00 assigned
    simp [h])

theorem RoundTrip.fxors (t : BitVec 4) (b : Reg) (a : Reg) (d : Reg) : RoundTrip.Statement (.fxors t b a d) := fun h _ =>
  decode_single _ _ _ _ _ _ _ rfl (by
    show decode1x00 _ _ _ _ _ = _
    delta decode1x00 assigned
    simp [h])

theorem RoundTrip.feq (t : BitVec 4) (b : Reg) (a : Reg) (d : Reg) : RoundTrip.Statement (.feq t b a d) := fun h _ =>
  decode_single _ _ _ _ _ _ _ rfl (by
    show decode1x00 _ _ _ _ _ = _
    delta decode1x00 assigned
    simp [h])

theorem RoundTrip.flt (t : BitVec 4) (b : Reg) (a : Reg) (d : Reg) : RoundTrip.Statement (.flt t b a d) := fun h _ =>
  decode_single _ _ _ _ _ _ _ rfl (by
    show decode1x00 _ _ _ _ _ = _
    delta decode1x00 assigned
    simp [h])

theorem RoundTrip.fle (t : BitVec 4) (b : Reg) (a : Reg) (d : Reg) : RoundTrip.Statement (.fle t b a d) := fun h _ =>
  decode_single _ _ _ _ _ _ _ rfl (by
    show decode1x00 _ _ _ _ _ = _
    delta decode1x00 assigned
    simp [h])

theorem RoundTrip.fkind (t : BitVec 4) (a : Reg) (d : Reg) : RoundTrip.Statement (.fkind t a d) := fun h _ =>
  decode_single _ _ _ _ _ _ _ rfl (by
    show decode1x00 _ _ _ _ _ = _
    delta decode1x00 assigned
    simp [h])

theorem RoundTrip.fmadd (t : BitVec 4) (c : Reg) (b : Reg) (a : Reg) (d : Reg) : RoundTrip.Statement (.fmadd t c b a d) := fun h _ =>
  decode_single _ _ _ _ _ _ _ rfl (by
    show decode1x01 _ _ _ _ _ = _
    delta decode1x01 assigned
    simp [h])

theorem RoundTrip.fmsub (t : BitVec 4) (c : Reg) (b : Reg) (a : Reg) (d : Reg) : RoundTrip.Statement (.fmsub t c b a d) := fun h _ =>
  decode_single _ _ _ _ _ _ _ rfl (by
    show decode1x02 _ _ _ _ _ = _
    delta decode1x02 assigned
    simp [h])

theorem RoundTrip.fnmadd (t : BitVec 4) (c : Reg) (b : Reg) (a : Reg) (d : Reg) : RoundTrip.Statement (.fnmadd t c b a d) := fun h _ =>
  decode_single _ _ _ _ _ _ _ rfl (by
    show decode1x03 _ _ _ _ _ = _
    delta decode1x03 assigned
    simp [h])

theorem RoundTrip.fnmsub (t : BitVec 4) (c : Reg) (b : Reg) (a : Reg) (d : Reg) : RoundTrip.Statement (.fnmsub t c b a d) := fun h _ =>
  decode_single _ _ _ _ _ _ _ rfl (by
    show decode1x04 _ _ _ _ _ = _
    delta decode1x04 assigned
    simp [h])

theorem RoundTrip.fcvt (u : BitVec 4) (t : BitVec 4) (b : Reg) (a : Reg) (d : Reg) : RoundTrip.Statement (.fcvt u t b a d) := fun h _ =>
  decode_single _ _ _ _ _ _ _ rfl (by
    show decode1x05 _ _ _ _ _ = _
    delta decode1x05 assigned
    simp [h])

theorem RoundTrip.ftog (a : Reg) (d : Reg) : RoundTrip.Statement (.ftog a d) := fun h _ =>
  decode_single _ _ _ _ _ _ _ rfl (by
    show decode1x06 _ _ _ _ _ = _
    delta decode1x06 assigned
    simp [h])

theorem RoundTrip.ftogh (a : Reg) (d : Reg) : RoundTrip.Statement (.ftogh a d) := fun h _ =>
  decode_single _ _ _ _ _ _ _ rfl (by
    show decode1x06 _ _ _ _ _ = _
    delta decode1x06 assigned
    simp [h])

theorem RoundTrip.gtof (b : Reg) (a : Reg) (d : Reg) : RoundTrip.Statement (.gtof b a d) := fun h _ =>
  decode_single _ _ _ _ _ _ _ rfl (by
    show decode1x06 _ _ _ _ _ = _
    delta decode1x06 assigned
    simp [h])

theorem RoundTrip.splat (t : BitVec 4) (a : Reg) (d : Reg) : RoundTrip.Statement (.splat t a d) := fun h _ =>
  decode_single _ _ _ _ _ _ _ rfl (by
    show decode1x06 _ _ _ _ _ = _
    delta decode1x06 assigned
    simp [h])

theorem RoundTrip.shuf (t : BitVec 4) (b : Reg) (a : Reg) (d : Reg) : RoundTrip.Statement (.shuf t b a d) := fun h _ =>
  decode_single _ _ _ _ _ _ _ rfl (by
    show decode1x06 _ _ _ _ _ = _
    delta decode1x06 assigned
    simp [h])

theorem RoundTrip.flq (i : BitVec 14) (a : Reg) (d : Reg) : RoundTrip.Statement (.flq i a d) := fun h _ =>
  decode_single _ _ _ _ _ _ _ rfl (by
    show decode1x07 _ _ _ _ _ = _
    delta decode1x07 assigned
    simp [h])

theorem RoundTrip.fsq (i : BitVec 14) (b : Reg) (a : Reg) : RoundTrip.Statement (.fsq i b a) := fun h _ =>
  decode_single _ _ _ _ _ _ _ rfl (by
    show decode1x08 _ _ _ _ _ = _
    delta decode1x08 assigned
    simp [h])

theorem RoundTrip.qadd (t : BitVec 4) (b : Reg) (a : Reg) (d : Reg) : RoundTrip.Statement (.qadd t b a d) := fun h _ =>
  decode_single _ _ _ _ _ _ _ rfl (by
    show decode1x0B _ _ _ _ _ = _
    delta decode1x0B assigned
    simp [h])

theorem RoundTrip.qsub (t : BitVec 4) (b : Reg) (a : Reg) (d : Reg) : RoundTrip.Statement (.qsub t b a d) := fun h _ =>
  decode_single _ _ _ _ _ _ _ rfl (by
    show decode1x0B _ _ _ _ _ = _
    delta decode1x0B assigned
    simp [h])

theorem RoundTrip.qmul (t : BitVec 4) (b : Reg) (a : Reg) (d : Reg) : RoundTrip.Statement (.qmul t b a d) := fun h _ =>
  decode_single _ _ _ _ _ _ _ rfl (by
    show decode1x0B _ _ _ _ _ = _
    delta decode1x0B assigned
    simp [h])

theorem RoundTrip.qshr (t : BitVec 4) (b : Reg) (a : Reg) (d : Reg) : RoundTrip.Statement (.qshr t b a d) := fun h _ =>
  decode_single _ _ _ _ _ _ _ rfl (by
    show decode1x0B _ _ _ _ _ = _
    delta decode1x0B assigned
    simp [h])

theorem RoundTrip.qsat (a : Reg) (d : Reg) : RoundTrip.Statement (.qsat a d) := fun h _ =>
  decode_single _ _ _ _ _ _ _ rfl (by
    show decode1x0B _ _ _ _ _ = _
    delta decode1x0B assigned
    simp [h])

theorem RoundTrip.qrng (t : BitVec 4) (a : Reg) (d : Reg) : RoundTrip.Statement (.qrng t a d) := fun h _ =>
  decode_single _ _ _ _ _ _ _ rfl (by
    show decode1x0B _ _ _ _ _ = _
    delta decode1x0B assigned
    simp [h])

theorem RoundTrip.qabs (t : BitVec 4) (a : Reg) (d : Reg) : RoundTrip.Statement (.qabs t a d) := fun h _ =>
  decode_single _ _ _ _ _ _ _ rfl (by
    show decode1x0B _ _ _ _ _ = _
    delta decode1x0B assigned
    simp [h])

theorem RoundTrip.rsadd (l : BitVec 1) (b : Reg) (a : Reg) (d : Reg) : RoundTrip.Statement (.rsadd l b a d) := fun h _ =>
  decode_single _ _ _ _ _ _ _ rfl (by
    show decode1x0C _ _ _ _ _ = _
    delta decode1x0C assigned
    simp [h])

theorem RoundTrip.rssub (l : BitVec 1) (b : Reg) (a : Reg) (d : Reg) : RoundTrip.Statement (.rssub l b a d) := fun h _ =>
  decode_single _ _ _ _ _ _ _ rfl (by
    show decode1x0C _ _ _ _ _ = _
    delta decode1x0C assigned
    simp [h])

theorem RoundTrip.rsmul (l : BitVec 1) (b : Reg) (a : Reg) (d : Reg) : RoundTrip.Statement (.rsmul l b a d) := fun h _ =>
  decode_single _ _ _ _ _ _ _ rfl (by
    show decode1x0C _ _ _ _ _ = _
    delta decode1x0C assigned
    simp [h])

theorem RoundTrip.rsdiv (l : BitVec 1) (b : Reg) (a : Reg) (d : Reg) : RoundTrip.Statement (.rsdiv l b a d) := fun h _ =>
  decode_single _ _ _ _ _ _ _ rfl (by
    show decode1x0C _ _ _ _ _ = _
    delta decode1x0C assigned
    simp [h])

theorem RoundTrip.rsneg (l : BitVec 1) (a : Reg) (d : Reg) : RoundTrip.Statement (.rsneg l a d) := fun h _ =>
  decode_single _ _ _ _ _ _ _ rfl (by
    show decode1x0C _ _ _ _ _ = _
    delta decode1x0C assigned
    simp [h])

theorem RoundTrip.rsrec (l : BitVec 1) (a : Reg) (d : Reg) : RoundTrip.Statement (.rsrec l a d) := fun h _ =>
  decode_single _ _ _ _ _ _ _ rfl (by
    show decode1x0C _ _ _ _ _ = _
    delta decode1x0C assigned
    simp [h])

theorem RoundTrip.rssqr (l : BitVec 1) (a : Reg) (d : Reg) : RoundTrip.Statement (.rssqr l a d) := fun h _ =>
  decode_single _ _ _ _ _ _ _ rfl (by
    show decode1x0C _ _ _ _ _ = _
    delta decode1x0C assigned
    simp [h])

theorem RoundTrip.rssqrt (l : BitVec 1) (a : Reg) (d : Reg) : RoundTrip.Statement (.rssqrt l a d) := fun h _ =>
  decode_single _ _ _ _ _ _ _ rfl (by
    show decode1x0C _ _ _ _ _ = _
    delta decode1x0C assigned
    simp [h])

theorem RoundTrip.rsuni (l : BitVec 1) (b : Reg) (a : Reg) (d : Reg) : RoundTrip.Statement (.rsuni l b a d) := fun h _ =>
  decode_single _ _ _ _ _ _ _ rfl (by
    show decode1x0C _ _ _ _ _ = _
    delta decode1x0C assigned
    simp [h])

theorem RoundTrip.rsint (l : BitVec 1) (b : Reg) (a : Reg) (d : Reg) : RoundTrip.Statement (.rsint l b a d) := fun h _ =>
  decode_single _ _ _ _ _ _ _ rfl (by
    show decode1x0C _ _ _ _ _ = _
    delta decode1x0C assigned
    simp [h])

theorem RoundTrip.rsfrom (l : BitVec 1) (b : Reg) (a : Reg) (d : Reg) : RoundTrip.Statement (.rsfrom l b a d) := fun h _ =>
  decode_single _ _ _ _ _ _ _ rfl (by
    show decode1x0C _ _ _ _ _ = _
    delta decode1x0C assigned
    simp [h])

theorem RoundTrip.rslo (l : BitVec 1) (a : Reg) (d : Reg) : RoundTrip.Statement (.rslo l a d) := fun h _ =>
  decode_single _ _ _ _ _ _ _ rfl (by
    show decode1x0C _ _ _ _ _ = _
    delta decode1x0C assigned
    simp [h])

theorem RoundTrip.rshi (l : BitVec 1) (a : Reg) (d : Reg) : RoundTrip.Statement (.rshi l a d) := fun h _ =>
  decode_single _ _ _ _ _ _ _ rfl (by
    show decode1x0C _ _ _ _ _ = _
    delta decode1x0C assigned
    simp [h])

theorem RoundTrip.rspack (b : Reg) (a : Reg) (d : Reg) : RoundTrip.Statement (.rspack b a d) := fun h _ =>
  decode_single _ _ _ _ _ _ _ rfl (by
    show decode1x0C _ _ _ _ _ = _
    delta decode1x0C assigned
    simp [h])

theorem RoundTrip.rsunpk (b : Reg) (a : Reg) (d : Reg) : RoundTrip.Statement (.rsunpk b a d) := fun h _ =>
  decode_single _ _ _ _ _ _ _ rfl (by
    show decode1x0C _ _ _ _ _ = _
    delta decode1x0C assigned
    simp [h])

theorem RoundTrip.rsemp (l : BitVec 1) (a : Reg) (d : Reg) : RoundTrip.Statement (.rsemp l a d) := fun h _ =>
  decode_single _ _ _ _ _ _ _ rfl (by
    show decode1x0C _ _ _ _ _ = _
    delta decode1x0C assigned
    simp [h])

theorem RoundTrip.rsldt (a : Reg) : RoundTrip.Statement (.rsldt a) := fun h _ =>
  decode_single _ _ _ _ _ _ _ rfl (by
    show decode1x0C _ _ _ _ _ = _
    delta decode1x0C assigned
    simp [h])

theorem RoundTrip.rsldg (a : Reg) : RoundTrip.Statement (.rsldg a) := fun h _ =>
  decode_single _ _ _ _ _ _ _ rfl (by
    show decode1x0C _ _ _ _ _ = _
    delta decode1x0C assigned
    simp [h])

theorem RoundTrip.fexp2 (t : BitVec 4) (a : Reg) (d : Reg) : RoundTrip.Statement (.fexp2 t a d) := fun h _ =>
  decode_single _ _ _ _ _ _ _ rfl (by
    show decode1x0D _ _ _ _ _ = _
    delta decode1x0D assigned
    simp [h])

theorem RoundTrip.flog2 (t : BitVec 4) (a : Reg) (d : Reg) : RoundTrip.Statement (.flog2 t a d) := fun h _ =>
  decode_single _ _ _ _ _ _ _ rfl (by
    show decode1x0D _ _ _ _ _ = _
    delta decode1x0D assigned
    simp [h])

theorem RoundTrip.frcp (t : BitVec 4) (a : Reg) (d : Reg) : RoundTrip.Statement (.frcp t a d) := fun h _ =>
  decode_single _ _ _ _ _ _ _ rfl (by
    show decode1x0D _ _ _ _ _ = _
    delta decode1x0D assigned
    simp [h])

theorem RoundTrip.frsq (t : BitVec 4) (a : Reg) (d : Reg) : RoundTrip.Statement (.frsq t a d) := fun h _ =>
  decode_single _ _ _ _ _ _ _ rfl (by
    show decode1x0D _ _ _ _ _ = _
    delta decode1x0D assigned
    simp [h])

theorem RoundTrip.fsinpi (t : BitVec 4) (a : Reg) (d : Reg) : RoundTrip.Statement (.fsinpi t a d) := fun h _ =>
  decode_single _ _ _ _ _ _ _ rfl (by
    show decode1x0D _ _ _ _ _ = _
    delta decode1x0D assigned
    simp [h])

theorem RoundTrip.fcospi (t : BitVec 4) (a : Reg) (d : Reg) : RoundTrip.Statement (.fcospi t a d) := fun h _ =>
  decode_single _ _ _ _ _ _ _ rfl (by
    show decode1x0D _ _ _ _ _ = _
    delta decode1x0D assigned
    simp [h])

theorem RoundTrip.ftanh (t : BitVec 4) (a : Reg) (d : Reg) : RoundTrip.Statement (.ftanh t a d) := fun h _ =>
  decode_single _ _ _ _ _ _ _ rfl (by
    show decode1x0D _ _ _ _ _ = _
    delta decode1x0D assigned
    simp [h])

theorem RoundTrip.ferf (t : BitVec 4) (a : Reg) (d : Reg) : RoundTrip.Statement (.ferf t a d) := fun h _ =>
  decode_single _ _ _ _ _ _ _ rfl (by
    show decode1x0D _ _ _ _ _ = _
    delta decode1x0D assigned
    simp [h])

theorem RoundTrip.fsigm (t : BitVec 4) (a : Reg) (d : Reg) : RoundTrip.Statement (.fsigm t a d) := fun h _ =>
  decode_single _ _ _ _ _ _ _ rfl (by
    show decode1x0D _ _ _ _ _ = _
    delta decode1x0D assigned
    simp [h])

theorem RoundTrip.sbound (n : BitVec 3) (l : BitVec 2) (a : Reg) : RoundTrip.Statement (.sbound n l a) := fun h _ =>
  decode_single _ _ _ _ _ _ _ rfl (by
    show decode1x10 _ _ _ _ _ = _
    delta decode1x10 assigned
    simp [h])

theorem RoundTrip.sstride (n : BitVec 3) (l : BitVec 2) (a : Reg) : RoundTrip.Statement (.sstride n l a) := fun h _ =>
  decode_single _ _ _ _ _ _ _ rfl (by
    show decode1x10 _ _ _ _ _ = _
    delta decode1x10 assigned
    simp [h])

theorem RoundTrip.sbase (n : BitVec 3) (a : Reg) : RoundTrip.Statement (.sbase n a) := fun h _ =>
  decode_single _ _ _ _ _ _ _ rfl (by
    show decode1x10 _ _ _ _ _ = _
    delta decode1x10 assigned
    simp [h])

theorem RoundTrip.sen (n : BitVec 3) (a : Reg) (d : Reg) : RoundTrip.Statement (.sen n a d) := fun h _ =>
  decode_single _ _ _ _ _ _ _ rfl (by
    show decode1x10 _ _ _ _ _ = _
    delta decode1x10 assigned
    simp [h])

theorem RoundTrip.sdis (n : BitVec 3) : RoundTrip.Statement (.sdis n) := fun h _ =>
  decode_single _ _ _ _ _ _ _ rfl (by
    show decode1x10 _ _ _ _ _ = _
    delta decode1x10 assigned
    simp [h])

theorem RoundTrip.sdrain (n : BitVec 3) (d : Reg) : RoundTrip.Statement (.sdrain n d) := fun h _ =>
  decode_single _ _ _ _ _ _ _ rfl (by
    show decode1x10 _ _ _ _ _ = _
    delta decode1x10 assigned
    simp [h])

theorem RoundTrip.sstat (n : BitVec 3) (d : Reg) : RoundTrip.Statement (.sstat n d) := fun h _ =>
  decode_single _ _ _ _ _ _ _ rfl (by
    show decode1x10 _ _ _ _ _ = _
    delta decode1x10 assigned
    simp [h])

theorem RoundTrip.seq (a : Reg) (n : BitVec 5) : RoundTrip.Statement (.seq a n) := fun h _ =>
  decode_single _ _ _ _ _ _ _ rfl (by
    show decode1x11 _ _ _ _ _ = _
    delta decode1x11 assigned
    simp [h])

theorem RoundTrip.qwg (q : BitVec 5) (b : Reg) (a : Reg) : RoundTrip.Statement (.qwg q b a) := fun h _ =>
  decode_single _ _ _ _ _ _ _ rfl (by
    show decode1x12 _ _ _ _ _ = _
    delta decode1x12 assigned
    simp [h])

theorem RoundTrip.qwf (q : BitVec 5) (a : Reg) : RoundTrip.Statement (.qwf q a) := fun h _ =>
  decode_single _ _ _ _ _ _ _ rfl (by
    show decode1x12 _ _ _ _ _ = _
    delta decode1x12 assigned
    simp [h])

theorem RoundTrip.qrg (q : BitVec 5) (d : Reg) : RoundTrip.Statement (.qrg q d) := fun h _ =>
  decode_single _ _ _ _ _ _ _ rfl (by
    show decode1x12 _ _ _ _ _ = _
    delta decode1x12 assigned
    simp [h])

theorem RoundTrip.qrf (q : BitVec 5) (d : Reg) : RoundTrip.Statement (.qrf q d) := fun h _ =>
  decode_single _ _ _ _ _ _ _ rfl (by
    show decode1x12 _ _ _ _ _ = _
    delta decode1x12 assigned
    simp [h])

theorem RoundTrip.qcnt (q : BitVec 5) (d : Reg) : RoundTrip.Statement (.qcnt q d) := fun h _ =>
  decode_single _ _ _ _ _ _ _ rfl (by
    show decode1x12 _ _ _ _ _ = _
    delta decode1x12 assigned
    simp [h])

theorem RoundTrip.mjobAcc (park : BitVec 1) (m : BitVec 2) (a : Reg) (p0 : W32) (p1 : W32) (p2 : W32) (p3 : W32) : RoundTrip.Statement (.mjobAcc park m a p0 p1 p2 p3) := fun h _ =>
  decode_block _ _ _ _ _ _ _ _ _ _ _ rfl (by
    show decode2x00 _ _ _ _ _ _ _ _ _ = _
    delta decode2x00 assigned
    simp [h])

theorem RoundTrip.mjobOvr (park : BitVec 1) (m : BitVec 2) (a : Reg) (p0 : W32) (p1 : W32) (p2 : W32) (p3 : W32) : RoundTrip.Statement (.mjobOvr park m a p0 p1 p2 p3) := fun h _ =>
  decode_block _ _ _ _ _ _ _ _ _ _ _ rfl (by
    show decode2x00 _ _ _ _ _ _ _ _ _ = _
    delta decode2x00 assigned
    simp [h])

theorem RoundTrip.mldb (t : BitVec 4) (c : Reg) (b : Reg) (a : Reg) (n : BitVec 3) : RoundTrip.Statement (.mldb t c b a n) := fun h _ =>
  decode_single _ _ _ _ _ _ _ rfl (by
    show decode2x01 _ _ _ _ _ = _
    delta decode2x01 assigned
    simp [h])

theorem RoundTrip.mzero (c : Reg) (m : BitVec 2) : RoundTrip.Statement (.mzero c m) := fun h _ =>
  decode_single _ _ _ _ _ _ _ rfl (by
    show decode2x02 _ _ _ _ _ = _
    delta decode2x02 assigned
    simp [h])

theorem RoundTrip.mrd (c : Reg) (b : Reg) (a : Reg) (m : BitVec 2) : RoundTrip.Statement (.mrd c b a m) := fun h _ =>
  decode_single _ _ _ _ _ _ _ rfl (by
    show decode2x02 _ _ _ _ _ = _
    delta decode2x02 assigned
    simp [h])

theorem RoundTrip.mstat (a : Reg) (d : Reg) : RoundTrip.Statement (.mstat a d) := fun h _ =>
  decode_single _ _ _ _ _ _ _ rfl (by
    show decode2x02 _ _ _ _ _ = _
    delta decode2x02 assigned
    simp [h])

theorem RoundTrip.cpyMem (follow : BitVec 1) (b : Reg) (a : Reg) (d : Reg) (p0 : W32) (p1 : W32) (p2 : W32) (p3 : W32) : RoundTrip.Statement (.cpyMem follow b a d p0 p1 p2 p3) := fun h _ =>
  decode_block _ _ _ _ _ _ _ _ _ _ _ rfl (by
    show decode2x03 _ _ _ _ _ _ _ _ _ = _
    delta decode2x03 assigned
    simp [h])

theorem RoundTrip.cpyBob (follow : BitVec 1) (b : Reg) (a : Reg) (d : Reg) (p0 : W32) (p1 : W32) (p2 : W32) (p3 : W32) : RoundTrip.Statement (.cpyBob follow b a d p0 p1 p2 p3) := fun h _ =>
  decode_block _ _ _ _ _ _ _ _ _ _ _ rfl (by
    show decode2x03 _ _ _ _ _ _ _ _ _ = _
    delta decode2x03 assigned
    simp [h])

theorem RoundTrip.cpyCim (follow : BitVec 1) (b : Reg) (a : Reg) (d : Reg) (p0 : W32) (p1 : W32) (p2 : W32) (p3 : W32) : RoundTrip.Statement (.cpyCim follow b a d p0 p1 p2 p3) := fun h _ =>
  decode_block _ _ _ _ _ _ _ _ _ _ _ rfl (by
    show decode2x03 _ _ _ _ _ _ _ _ _ = _
    delta decode2x03 assigned
    simp [h])

theorem RoundTrip.ewait (a : Reg) (d : Reg) : RoundTrip.Statement (.ewait a d) := fun h _ =>
  decode_single _ _ _ _ _ _ _ rfl (by
    show decode2x04 _ _ _ _ _ = _
    delta decode2x04 assigned
    simp [h])

theorem RoundTrip.efence (m : BitVec 5) : RoundTrip.Statement (.efence m) := fun h _ =>
  decode_single _ _ _ _ _ _ _ rfl (by
    show decode2x04 _ _ _ _ _ = _
    delta decode2x04 assigned
    simp [h])

theorem RoundTrip.ecancel (a : Reg) (d : Reg) : RoundTrip.Statement (.ecancel a d) := fun h _ =>
  decode_single _ _ _ _ _ _ _ rfl (by
    show decode2x04 _ _ _ _ _ = _
    delta decode2x04 assigned
    simp [h])

theorem RoundTrip.reedArr (a : Reg) (d : Reg) : RoundTrip.Statement (.reedArr a d) := fun h _ =>
  decode_single _ _ _ _ _ _ _ rfl (by
    show decode2x08 _ _ _ _ _ = _
    delta decode2x08 assigned
    simp [h])

theorem RoundTrip.reedWait (b : Reg) (a : Reg) (d : Reg) : RoundTrip.Statement (.reedWait b a d) := fun h _ =>
  decode_single _ _ _ _ _ _ _ rfl (by
    show decode2x08 _ _ _ _ _ = _
    delta decode2x08 assigned
    simp [h])

theorem RoundTrip.reedSync (a : Reg) (d : Reg) : RoundTrip.Statement (.reedSync a d) := fun h _ =>
  decode_single _ _ _ _ _ _ _ rfl (by
    show decode2x08 _ _ _ _ _ = _
    delta decode2x08 assigned
    simp [h])

theorem RoundTrip.reedQry (w : BitVec 2) (a : Reg) (d : Reg) : RoundTrip.Statement (.reedQry w a d) := fun h _ =>
  decode_single _ _ _ _ _ _ _ rfl (by
    show decode2x08 _ _ _ _ _ = _
    delta decode2x08 assigned
    simp [h])

theorem RoundTrip.lde (s : BitVec 3) (a : Reg) (d : Reg) : RoundTrip.Statement (.lde s a d) := fun h _ =>
  decode_single _ _ _ _ _ _ _ rfl (by
    show decode2x09 _ _ _ _ _ = _
    delta decode2x09 assigned
    simp [h])

theorem RoundTrip.ldf (s : BitVec 3) (a : Reg) (d : Reg) : RoundTrip.Statement (.ldf s a d) := fun h _ =>
  decode_single _ _ _ _ _ _ _ rfl (by
    show decode2x09 _ _ _ _ _ = _
    delta decode2x09 assigned
    simp [h])

theorem RoundTrip.stf (s : BitVec 3) (b : Reg) (a : Reg) : RoundTrip.Statement (.stf s b a) := fun h _ =>
  decode_single _ _ _ _ _ _ _ rfl (by
    show decode2x09 _ _ _ _ _ = _
    delta decode2x09 assigned
    simp [h])

theorem RoundTrip.ste (s : BitVec 3) (b : Reg) (a : Reg) : RoundTrip.Statement (.ste s b a) := fun h _ =>
  decode_single _ _ _ _ _ _ _ rfl (by
    show decode2x09 _ _ _ _ _ = _
    delta decode2x09 assigned
    simp [h])

theorem RoundTrip.tagi (s : BitVec 3) (a : Reg) (v : BitVec 1) : RoundTrip.Statement (.tagi s a v) := fun h _ =>
  decode_single _ _ _ _ _ _ _ rfl (by
    show decode2x09 _ _ _ _ _ = _
    delta decode2x09 assigned
    simp [h])

theorem RoundTrip.tagr (s : BitVec 3) (a : Reg) (d : Reg) : RoundTrip.Statement (.tagr s a d) := fun h _ =>
  decode_single _ _ _ _ _ _ _ rfl (by
    show decode2x09 _ _ _ _ _ = _
    delta decode2x09 assigned
    simp [h])

theorem RoundTrip.bbinit (b : Reg) (a : Reg) (d : Reg) : RoundTrip.Statement (.bbinit b a d) := fun h _ =>
  decode_single _ _ _ _ _ _ _ rfl (by
    show decode2x0A _ _ _ _ _ = _
    delta decode2x0A assigned
    simp [h])

theorem RoundTrip.bbres (a : Reg) (d : Reg) : RoundTrip.Statement (.bbres a d) := fun h _ =>
  decode_single _ _ _ _ _ _ _ rfl (by
    show decode2x0A _ _ _ _ _ = _
    delta decode2x0A assigned
    simp [h])

theorem RoundTrip.bbcom (b : Reg) (a : Reg) (d : Reg) : RoundTrip.Statement (.bbcom b a d) := fun h _ =>
  decode_single _ _ _ _ _ _ _ rfl (by
    show decode2x0A _ _ _ _ _ = _
    delta decode2x0A assigned
    simp [h])

theorem RoundTrip.bbacq (a : Reg) (d : Reg) : RoundTrip.Statement (.bbacq a d) := fun h _ =>
  decode_single _ _ _ _ _ _ _ rfl (by
    show decode2x0A _ _ _ _ _ = _
    delta decode2x0A assigned
    simp [h])

theorem RoundTrip.bbrel (b : Reg) (a : Reg) (d : Reg) : RoundTrip.Statement (.bbrel b a d) := fun h _ =>
  decode_single _ _ _ _ _ _ _ rfl (by
    show decode2x0A _ _ _ _ _ = _
    delta decode2x0A assigned
    simp [h])

theorem RoundTrip.bbqry (a : Reg) (d : Reg) : RoundTrip.Statement (.bbqry a d) := fun h _ =>
  decode_single _ _ _ _ _ _ _ rfl (by
    show decode2x0A _ _ _ _ _ = _
    delta decode2x0A assigned
    simp [h])

theorem RoundTrip.msnd (b : Reg) (a : Reg) (d : Reg) : RoundTrip.Statement (.msnd b a d) := fun h _ =>
  decode_single _ _ _ _ _ _ _ rfl (by
    show decode2x0B _ _ _ _ _ = _
    delta decode2x0B assigned
    simp [h])

theorem RoundTrip.mrcv (d : Reg) : RoundTrip.Statement (.mrcv d) := fun h _ =>
  decode_single _ _ _ _ _ _ _ rfl (by
    show decode2x0B _ _ _ _ _ = _
    delta decode2x0B assigned
    simp [h])

theorem RoundTrip.mpoll (d : Reg) : RoundTrip.Statement (.mpoll d) := fun h _ =>
  decode_single _ _ _ _ _ _ _ rfl (by
    show decode2x0B _ _ _ _ _ = _
    delta decode2x0B assigned
    simp [h])

theorem RoundTrip.skw (c : Reg) (b : Reg) (a : Reg) (d : Reg) : RoundTrip.Statement (.skw c b a d) := fun h _ =>
  decode_single _ _ _ _ _ _ _ rfl (by
    show decode2x10 _ _ _ _ _ = _
    delta decode2x10 assigned
    simp [h])

theorem RoundTrip.skr (c : Reg) (b : Reg) (a : Reg) (d : Reg) : RoundTrip.Statement (.skr c b a d) := fun h _ =>
  decode_single _ _ _ _ _ _ _ rfl (by
    show decode2x11 _ _ _ _ _ = _
    delta decode2x11 assigned
    simp [h])

theorem RoundTrip.skre (c : Reg) (b : Reg) (a : Reg) (d : Reg) : RoundTrip.Statement (.skre c b a d) := fun h _ =>
  decode_single _ _ _ _ _ _ _ rfl (by
    show decode2x12 _ _ _ _ _ = _
    delta decode2x12 assigned
    simp [h])

theorem RoundTrip.skbind (b : Reg) (a : Reg) (d : Reg) : RoundTrip.Statement (.skbind b a d) := fun h _ =>
  decode_single _ _ _ _ _ _ _ rfl (by
    show decode2x13 _ _ _ _ _ = _
    delta decode2x13 assigned
    simp [h])

theorem RoundTrip.skflr (b : Reg) (a : Reg) (d : Reg) : RoundTrip.Statement (.skflr b a d) := fun h _ =>
  decode_single _ _ _ _ _ _ _ rfl (by
    show decode2x13 _ _ _ _ _ = _
    delta decode2x13 assigned
    simp [h])

theorem RoundTrip.skqry (n : BitVec 5) (a : Reg) (d : Reg) : RoundTrip.Statement (.skqry n a d) := fun h _ =>
  decode_single _ _ _ _ _ _ _ rfl (by
    show decode2x13 _ _ _ _ _ = _
    delta decode2x13 assigned
    simp [h])

theorem RoundTrip.skunb (b : Reg) (a : Reg) (d : Reg) : RoundTrip.Statement (.skunb b a d) := fun h _ =>
  decode_single _ _ _ _ _ _ _ rfl (by
    show decode2x13 _ _ _ _ _ = _
    delta decode2x13 assigned
    simp [h])

theorem RoundTrip.shtl (r : BitVec 1) (n : BitVec 3) (a : Reg) (d : Reg) : RoundTrip.Statement (.shtl r n a d) := fun h _ =>
  decode_single _ _ _ _ _ _ _ rfl (by
    show decode2x18 _ _ _ _ _ = _
    delta decode2x18 assigned
    simp [h])

theorem RoundTrip.mcst (b : Reg) (a : Reg) (d : Reg) : RoundTrip.Statement (.mcst b a d) := fun h _ =>
  decode_single _ _ _ _ _ _ _ rfl (by
    show decode2x19 _ _ _ _ _ = _
    delta decode2x19 assigned
    simp [h])

theorem RoundTrip.pubv (b : Reg) (a : Reg) (d : Reg) : RoundTrip.Statement (.pubv b a d) := fun h _ =>
  decode_single _ _ _ _ _ _ _ rfl (by
    show decode2x19 _ _ _ _ _ = _
    delta decode2x19 assigned
    simp [h])

theorem RoundTrip.subv (n : BitVec 5) (a : Reg) (d : Reg) : RoundTrip.Statement (.subv n a d) := fun h _ =>
  decode_single _ _ _ _ _ _ _ rfl (by
    show decode2x19 _ _ _ _ _ = _
    delta decode2x19 assigned
    simp [h])

theorem RoundTrip.ared (p : BitVec 3) (b : Reg) (a : Reg) (d : Reg) : RoundTrip.Statement (.ared p b a d) := fun h _ =>
  decode_single _ _ _ _ _ _ _ rfl (by
    show decode2x19 _ _ _ _ _ = _
    delta decode2x19 assigned
    simp [h])

theorem RoundTrip.shtr (a : Reg) (d : Reg) : RoundTrip.Statement (.shtr a d) := fun h _ =>
  decode_single _ _ _ _ _ _ _ rfl (by
    show decode2x19 _ _ _ _ _ = _
    delta decode2x19 assigned
    simp [h])

theorem RoundTrip.lreq (a : Reg) (d : Reg) : RoundTrip.Statement (.lreq a d) := fun h _ =>
  decode_single _ _ _ _ _ _ _ rfl (by
    show decode2x1A _ _ _ _ _ = _
    delta decode2x1A assigned
    simp [h])

theorem RoundTrip.lrel (b : Reg) (a : Reg) (d : Reg) : RoundTrip.Statement (.lrel b a d) := fun h _ =>
  decode_single _ _ _ _ _ _ _ rfl (by
    show decode2x1A _ _ _ _ _ = _
    delta decode2x1A assigned
    simp [h])

theorem RoundTrip.lqry (n : BitVec 5) (a : Reg) (d : Reg) : RoundTrip.Statement (.lqry n a d) := fun h _ =>
  decode_single _ _ _ _ _ _ _ rfl (by
    show decode2x1A _ _ _ _ _ = _
    delta decode2x1A assigned
    simp [h])

theorem RoundTrip.csrr (n : BitVec 12) (d : Reg) : RoundTrip.Statement (.csrr n d) := fun h _ =>
  decode_single _ _ _ _ _ _ _ rfl (by
    show decode3x00 _ _ _ _ _ = _
    delta decode3x00 assigned
    simp [h])

theorem RoundTrip.csrw (n : BitVec 12) (a : Reg) (d : Reg) : RoundTrip.Statement (.csrw n a d) := fun h _ =>
  decode_single _ _ _ _ _ _ _ rfl (by
    show decode3x01 _ _ _ _ _ = _
    delta decode3x01 assigned
    simp [h])

theorem RoundTrip.csrs (n : BitVec 12) (a : Reg) (d : Reg) : RoundTrip.Statement (.csrs n a d) := fun h _ =>
  decode_single _ _ _ _ _ _ _ rfl (by
    show decode3x02 _ _ _ _ _ = _
    delta decode3x02 assigned
    simp [h])

theorem RoundTrip.csrc (n : BitVec 12) (a : Reg) (d : Reg) : RoundTrip.Statement (.csrc n a d) := fun h _ =>
  decode_single _ _ _ _ _ _ _ rfl (by
    show decode3x03 _ _ _ _ _ = _
    delta decode3x03 assigned
    simp [h])

theorem RoundTrip.trap (a : Reg) : RoundTrip.Statement (.trap a) := fun h _ =>
  decode_single _ _ _ _ _ _ _ rfl (by
    show decode3x04 _ _ _ _ _ = _
    delta decode3x04 assigned
    simp [h])

theorem RoundTrip.eret : RoundTrip.Statement (.eret) := fun h _ =>
  decode_single _ _ _ _ _ _ _ rfl (by
    show decode3x04 _ _ _ _ _ = _
    delta decode3x04 assigned
    simp [h])

theorem RoundTrip.kill : RoundTrip.Statement (.kill) := fun h _ =>
  decode_single _ _ _ _ _ _ _ rfl (by
    show decode3x04 _ _ _ _ _ = _
    delta decode3x04 assigned
    simp [h])

theorem RoundTrip.yield : RoundTrip.Statement (.yield) := fun h _ =>
  decode_single _ _ _ _ _ _ _ rfl (by
    show decode3x04 _ _ _ _ _ = _
    delta decode3x04 assigned
    simp [h])

theorem RoundTrip.sleep (a : Reg) (d : Reg) : RoundTrip.Statement (.sleep a d) := fun h _ =>
  decode_single _ _ _ _ _ _ _ rfl (by
    show decode3x04 _ _ _ _ _ = _
    delta decode3x04 assigned
    simp [h])

theorem RoundTrip.wake (a : Reg) (d : Reg) : RoundTrip.Statement (.wake a d) := fun h _ =>
  decode_single _ _ _ _ _ _ _ rfl (by
    show decode3x04 _ _ _ _ _ = _
    delta decode3x04 assigned
    simp [h])

theorem RoundTrip.kexit : RoundTrip.Statement (.kexit) := fun h _ =>
  decode_single _ _ _ _ _ _ _ rfl (by
    show decode3x04 _ _ _ _ _ = _
    delta decode3x04 assigned
    simp [h])

theorem RoundTrip.twin (d : Reg) : RoundTrip.Statement (.twin d) := fun h _ =>
  decode_single _ _ _ _ _ _ _ rfl (by
    show decode3x05 _ _ _ _ _ = _
    delta decode3x05 assigned
    simp [h])

theorem RoundTrip.untwin (d : Reg) : RoundTrip.Statement (.untwin d) := fun h _ =>
  decode_single _ _ _ _ _ _ _ rfl (by
    show decode3x05 _ _ _ _ _ = _
    delta decode3x05 assigned
    simp [h])

theorem RoundTrip.follow (d : Reg) : RoundTrip.Statement (.follow d) := fun h _ =>
  decode_single _ _ _ _ _ _ _ rfl (by
    show decode3x05 _ _ _ _ _ = _
    delta decode3x05 assigned
    simp [h])

theorem RoundTrip.detach (d : Reg) : RoundTrip.Statement (.detach d) := fun h _ =>
  decode_single _ _ _ _ _ _ _ rfl (by
    show decode3x05 _ _ _ _ _ = _
    delta decode3x05 assigned
    simp [h])

theorem RoundTrip.join (d : Reg) : RoundTrip.Statement (.join d) := fun h _ =>
  decode_single _ _ _ _ _ _ _ rfl (by
    show decode3x05 _ _ _ _ _ = _
    delta decode3x05 assigned
    simp [h])

theorem RoundTrip.chk (d : Reg) : RoundTrip.Statement (.chk d) := fun h _ =>
  decode_single _ _ _ _ _ _ _ rfl (by
    show decode3x05 _ _ _ _ _ = _
    delta decode3x05 assigned
    simp [h])

theorem RoundTrip.nest (a : Reg) (d : Reg) : RoundTrip.Statement (.nest a d) := fun h _ =>
  decode_single _ _ _ _ _ _ _ rfl (by
    show decode3x06 _ _ _ _ _ = _
    delta decode3x06 assigned
    simp [h])

theorem RoundTrip.iter (f : BitVec 14) (a : Reg) : RoundTrip.Statement (.iter f a) := fun h _ =>
  decode_single _ _ _ _ _ _ _ rfl (by
    show decode3x07 _ _ _ _ _ = _
    delta decode3x07 assigned
    simp [h])

theorem RoundTrip.rdcyc (d : Reg) : RoundTrip.Statement (.rdcyc d) := fun h _ =>
  decode_single _ _ _ _ _ _ _ rfl (by
    show decode3x08 _ _ _ _ _ = _
    delta decode3x08 assigned
    simp [h])

theorem RoundTrip.rdtim (d : Reg) : RoundTrip.Statement (.rdtim d) := fun h _ =>
  decode_single _ _ _ _ _ _ _ rfl (by
    show decode3x08 _ _ _ _ _ = _
    delta decode3x08 assigned
    simp [h])

theorem RoundTrip.rdstep (n : BitVec 5) (a : Reg) (d : Reg) : RoundTrip.Statement (.rdstep n a d) := fun h _ =>
  decode_single _ _ _ _ _ _ _ rfl (by
    show decode3x08 _ _ _ _ _ = _
    delta decode3x08 assigned
    simp [h])

theorem RoundTrip.launch (b : Reg) (a : Reg) (d : Reg) : RoundTrip.Statement (.launch b a d) := fun h _ =>
  decode_single _ _ _ _ _ _ _ rfl (by
    show decode3x09 _ _ _ _ _ = _
    delta decode3x09 assigned
    simp [h])

theorem RoundTrip.tokw (a : Reg) (d : Reg) : RoundTrip.Statement (.tokw a d) := fun h _ =>
  decode_single _ _ _ _ _ _ _ rfl (by
    show decode3x0A _ _ _ _ _ = _
    delta decode3x0A assigned
    simp [h])

theorem RoundTrip.toks (b : Reg) (a : Reg) (d : Reg) : RoundTrip.Statement (.toks b a d) := fun h _ =>
  decode_single _ _ _ _ _ _ _ rfl (by
    show decode3x0A _ _ _ _ _ = _
    delta decode3x0A assigned
    simp [h])

theorem RoundTrip.tokq (a : Reg) (d : Reg) : RoundTrip.Statement (.tokq a d) := fun h _ =>
  decode_single _ _ _ _ _ _ _ rfl (by
    show decode3x0A _ _ _ _ _ = _
    delta decode3x0A assigned
    simp [h])

theorem RoundTrip.toke (a : Reg) (d : Reg) : RoundTrip.Statement (.toke a d) := fun h _ =>
  decode_single _ _ _ _ _ _ _ rfl (by
    show decode3x0A _ _ _ _ _ = _
    delta decode3x0A assigned
    simp [h])

theorem RoundTrip.segr (s : BitVec 3) (w : BitVec 2) (d : Reg) : RoundTrip.Statement (.segr s w d) := fun h _ =>
  decode_single _ _ _ _ _ _ _ rfl (by
    show decode3x0B _ _ _ _ _ = _
    delta decode3x0B assigned
    simp [h])

theorem RoundTrip.segw (s : BitVec 3) (w : BitVec 2) (a : Reg) (d : Reg) : RoundTrip.Statement (.segw s w a d) := fun h _ =>
  decode_single _ _ _ _ _ _ _ rfl (by
    show decode3x0B _ _ _ _ _ = _
    delta decode3x0B assigned
    simp [h])

theorem RoundTrip.segn (s : BitVec 3) (b : Reg) (a : Reg) (d : Reg) : RoundTrip.Statement (.segn s b a d) := fun h _ =>
  decode_single _ _ _ _ _ _ _ rfl (by
    show decode3x0B _ _ _ _ _ = _
    delta decode3x0B assigned
    simp [h])

theorem RoundTrip.splk (b : Reg) (a : Reg) (d : Reg) : RoundTrip.Statement (.splk b a d) := fun h _ =>
  decode_single _ _ _ _ _ _ _ rfl (by
    show decode3x0C _ _ _ _ _ = _
    delta decode3x0C assigned
    simp [h])

theorem RoundTrip.spul (a : Reg) (d : Reg) : RoundTrip.Statement (.spul a d) := fun h _ =>
  decode_single _ _ _ _ _ _ _ rfl (by
    show decode3x0C _ _ _ _ _ = _
    delta decode3x0C assigned
    simp [h])

theorem RoundTrip.pinv (b : Reg) (a : Reg) (d : Reg) : RoundTrip.Statement (.pinv b a d) := fun h _ =>
  decode_single _ _ _ _ _ _ _ rfl (by
    show decode3x0D _ _ _ _ _ = _
    delta decode3x0D assigned
    simp [h])

theorem RoundTrip.pprobe (a : Reg) (d : Reg) : RoundTrip.Statement (.pprobe a d) := fun h _ =>
  decode_single _ _ _ _ _ _ _ rfl (by
    show decode3x0D _ _ _ _ _ = _
    delta decode3x0D assigned
    simp [h])

theorem RoundTrip.migr (b : Reg) (a : Reg) (d : Reg) : RoundTrip.Statement (.migr b a d) := fun h _ =>
  decode_single _ _ _ _ _ _ _ rfl (by
    show decode3x0E _ _ _ _ _ = _
    delta decode3x0E assigned
    simp [h])

theorem RoundTrip.ctxhalt (b : Reg) (a : Reg) (d : Reg) : RoundTrip.Statement (.ctxhalt b a d) := fun h _ =>
  decode_single _ _ _ _ _ _ _ rfl (by
    show decode3x0E _ _ _ _ _ = _
    delta decode3x0E assigned
    simp [h])

theorem RoundTrip.ctxsave (b : Reg) (a : Reg) (d : Reg) : RoundTrip.Statement (.ctxsave b a d) := fun h _ =>
  decode_single _ _ _ _ _ _ _ rfl (by
    show decode3x0E _ _ _ _ _ = _
    delta decode3x0E assigned
    simp [h])

theorem RoundTrip.ctxrest (b : Reg) (a : Reg) (d : Reg) : RoundTrip.Statement (.ctxrest b a d) := fun h _ =>
  decode_single _ _ _ _ _ _ _ rfl (by
    show decode3x0E _ _ _ _ _ = _
    delta decode3x0E assigned
    simp [h])

theorem RoundTrip.notAnInstruction (x0 : W32) (x1 : Bool) (x2 : Nat) : RoundTrip.Statement (.notAnInstruction x0 x1 x2) := fun _ h => absurd rfl h

theorem RoundTrip.fetchSegmentFault : RoundTrip.Statement (.fetchSegmentFault) := fun _ h => absurd rfl h

theorem RoundTrip.pcieCompletionTimeout (x0 : Nat) (x1 : Nat) : RoundTrip.Statement (.pcieCompletionTimeout x0 x1) := fun _ h => absurd rfl h

theorem RoundTrip.rtboundExpiry (x0 : Nat) (x1 : Nat) (x2 : BitVec 10) : RoundTrip.Statement (.rtboundExpiry x0 x1 x2) := fun _ h => absurd rfl h

theorem RoundTrip.acknowledgementTimeout (x0 : Nat) (x1 : Nat) (x2 : BitVec 10) : RoundTrip.Statement (.acknowledgementTimeout x0 x1 x2) := fun _ h => absurd rfl h

theorem RoundTrip.versionBumpArrival (x0 : BitVec 10) (x1 : BitVec 4) (x2 : Byte) (x3 : W64) (x4 : Bool) (x5 : List Host.Cell) : RoundTrip.Statement (.versionBumpArrival x0 x1 x2 x3 x4 x5) := fun _ h => absurd rfl h

theorem RoundTrip.switchNoPath (x0 : BitVec 10) (x1 : Bool) : RoundTrip.Statement (.switchNoPath x0 x1) := fun _ h => absurd rfl h

theorem RoundTrip.tokenRequest (x0 : Nat) (x1 : Nat) : RoundTrip.Statement (.tokenRequest x0 x1) := fun _ h => absurd rfl h

theorem RoundTrip.launchRecordArrival (x0 : Nat) (x1 : Nat) : RoundTrip.Statement (.launchRecordArrival x0 x1) := fun _ h => absurd rfl h

end Sys2Proof.Laws
end

