-- ==== Sys2Proof/Tests/Slice0.lean ====
section
/-! SUPPORT. Tests: ill-formed terms and words decoded from the encodings as the spec writes them; single steps on small
states against values the spec gives; and, for every statement, states and operands that meet its hypotheses. -/

open Sys2Proof Sys2Proof.Machine

namespace Sys2Proof.Tests

set_option Elab.async false

noncomputable def illFormed1 : List Instr := [
    .instructionComplete 1284 0, .instructionComplete 0 8, .parkWake 1284 0, .parkWake 0 8, .waitLimitExpiry 1284 0,
    .waitLimitExpiry 0 8, .sleepTimeout 1284 0, .sleepTimeout 0 8, .handlerStart 1284, .scrubComplete 1284 0,
    .scrubComplete 0 8, .lockTimeout 1284 0, .cpartWrite 1284 0, .followerWaitExpiry 1284 0, .followerWaitExpiry 0 8,
    .seqEntryIssue 1284 0, .seqEntryIssue 0 8, .seqEntryComplete 1284 0, .seqEntryComplete 0 8,
    .streamPrefetch 1284 0 0 .inside, .streamPrefetch 0 8 0 .inside, .streamPrefetch 0 0 8 .inside, .sfuAccept 324,
    .sfuResult 324, .normaliserService 324, .matrixEntryStart 1284 false, .jobStepIssue 1284 false, .jobPromotion 1284 false,
    .enginePause 1284 false false, .engineResume 1284 false false, .mldbEnd 1284 false, .mzeroEnd 1284 false,
    .mrdEnd 1284 false, .copyRow 1284 false .inside, .copyEnd 1284 false, .storeAccept 1284 0,
    .remoteReplyArrival 1284 0 .inside, .remoteReplyArrival 0 8 .inside, .tileAccessMessage 1284 0, .tileAccessMessage 0 8,
    .homeAtomic 1284 0, .homeAtomic 0 8, .writebackMerge 324 0, .stagingEviction 324 0, .scrubUnit 1284 0 0 [] 0,
    .tagMessage 1284 0, .tagMessage 0 8, .tagRequestRetry 1284 0, .tagRequestRetry 0 8, .weftRequest 1284 0, .weftRequest 0 8,
    .qcfgOpen 18 0 0, .qcfgClose 18 0 0, .qcfgDrain 18 0 0, .qcfgThaw 18 0 0, .qcfgPurge 18 0 0, .qcntClear 18 0 0,
    .enqueueWindowWrite 18 0 [] false, .rankBind 1284, .tokenHostWrite 18 0 0, .migrationEnd 1284, .tableWalkEnd 324 0 0 0 0,
    .peerAck 1284 0 0 false 0, .peerAck 0 8 0 false 0, .remoteAccessTimeout 1284 0, .remoteAccessTimeout 0 8,
    .shuttleRefusal 1284 0 0 0 0, .shuttleRefusal 0 8 0 0 0, .bar2Write 18 0 [], .bar2Read 18 0 0, .bar2Atomic 18 0 0 0 0 0,
    .mailboxMessage 18 [], .attestRequest 18 [], .escalKillServed 1284, .escalKillAll 1284, .smbusSetPowerLimit 399,
    .smbusSetPowerLimit 1601, .lq 0 0 3, .ldaW 6 0 0, .ldaD 6 0 0]

theorem test_ill_formed_1 : illFormed1.all (fun i => !i.wf) = true := by decide +kernel

noncomputable def illFormed2 : List Instr := [
    .ldaQ 6 0 0, .ldaQ 0 0 3, .sq 0 3 0, .strlW 6 0 0, .strlD 6 0 0, .strlQ 6 0 0, .strlQ 0 3 0, .atomAddW 6 0 0 0 0,
    .atomAndW 6 0 0 0 0, .atomOrW 6 0 0 0 0, .atomXorW 6 0 0 0 0, .atomMinW 6 0 0 0 0, .atomMaxW 6 0 0 0 0,
    .atomMinuW 6 0 0 0 0, .atomMaxuW 6 0 0 0 0, .atomSwapW 6 0 0 0 0, .atomAddD 6 0 0 0 0, .atomAndD 6 0 0 0 0,
    .atomOrD 6 0 0 0 0, .atomXorD 6 0 0 0 0, .atomMinD 6 0 0 0 0, .atomMaxD 6 0 0 0 0, .atomMinuD 6 0 0 0 0,
    .atomMaxuD 6 0 0 0 0, .atomSwapD 6 0 0 0 0, .fatomFadd 0 6 0 0 0 0, .fatomFadd 3 0 0 0 0 0, .fatomFmin 0 6 0 0 0 0,
    .fatomFmin 3 0 0 0 0 0, .fatomFmax 0 6 0 0 0 0, .fatomFmax 3 0 0 0 0 0, .fatompFadd 0 6 0 0 0 0, .fatompFadd 2 0 0 0 0 0,
    .fatompFmin 0 6 0 0 0 0, .fatompFmin 2 0 0 0 0 0, .fatompFmax 0 6 0 0 0 0, .fatompFmax 2 0 0 0 0 0, .casW 6 0 0 0 0,
    .casD 6 0 0 0 0, .casQ 6 0 0 0 2, .casQ 0 0 0 0 3, .casQ 0 0 3 0 2, .casQ 0 0 0 0 0, .wbr 6 0 0, .invr 6 0 0, .disc 6 0 0,
    .pref 6 0 0, .fence 6 0, .fence 4 1, .rel 6, .acq 6, .fadd 3 0 0 0, .fsub 3 0 0 0, .fmul 3 0 0 0, .fdiv 3 0 0 0,
    .fsqrt 3 0 0, .fmin 3 0 0 0, .fmax 3 0 0 0, .fcpys 3 0 0 0, .fcpyns 3 0 0 0, .fxors 3 0 0 0, .feq 3 0 0 0, .flt 3 0 0 0,
    .fle 3 0 0 0, .fkind 3 0 0, .fmadd 3 0 0 0 0, .fmsub 3 0 0 0 0, .fnmadd 3 0 0 0 0, .fnmsub 3 0 0 0 0, .fcvt 11 1 0 0 0,
    .fcvt 0 11 0 0 0, .fcvt 0 0 0 0 0, .splat 13 0 0, .shuf 13 0 0 0, .shuf 8 0 0 0, .qadd 3 0 0 0, .qsub 3 0 0 0,
    .qmul 3 0 0 0, .qshr 3 0 0 0, .qrng 3 0 0]

theorem test_ill_formed_2 : illFormed2.all (fun i => !i.wf) = true := by decide +kernel

noncomputable def illFormed3 : List Instr := [
    .qabs 3 0 0, .fexp2 3 0 0, .flog2 3 0 0, .frcp 3 0 0, .frsq 3 0 0, .fsinpi 3 0 0, .fcospi 3 0 0, .ftanh 3 0 0, .ferf 3 0 0,
    .fsigm 3 0 0, .seq 0 16, .qwg 4 0 0, .qwf 3 0, .qwf 8 0, .qrg 3 0, .qrg 8 0, .qrf 4 0, .qcnt 8 0, .mldb 3 0 0 0 0,
    .lde 6 0 0, .ldf 6 0 0, .stf 6 0 0, .ste 6 0 0, .tagi 6 0 0, .tagr 6 0 0, .mrcv 3, .mrcv 0, .skqry 5 0 0, .shtl 0 7 0 0,
    .subv 2 0 0, .ared 6 0 0 0, .lqry 5 0 0, .csrr 0x006 0, .csrw 0x006 0 0, .csrs 0x006 0 0, .csrc 0x006 0 0, .rdstep 3 0 0,
    .segr 0 3 0, .segw 0 3 0 0, .pcieCompletionTimeout 1284 0, .pcieCompletionTimeout 0 8, .rtboundExpiry 1284 0 0,
    .rtboundExpiry 0 8 0, .acknowledgementTimeout 1284 0 0, .acknowledgementTimeout 0 8 0, .tokenRequest 1284 0,
    .tokenRequest 0 8, .launchRecordArrival 1284 0, .launchRecordArrival 0 8]

theorem test_ill_formed_3 : illFormed3.all (fun i => !i.wf) = true := by decide +kernel

/-! ### Decoding: words of the spec's worked programs, and one word of each other major written out from the field tables of
R26 and R34-R38 -/

/-- A word of form RR or RRR: k, c, b, a, d, major, quadrant. -/
def rr (k c b a d m q : Nat) : Nat := k * 2 ^ 28 + c * 2 ^ 23 + b * 2 ^ 18 + a * 2 ^ 13 + d * 2 ^ 8 + m * 4 + q
/-- Form RI: the immediate in [31:18]. -/
def ri (imm a d m q : Nat) : Nat := imm * 2 ^ 18 + a * 2 ^ 13 + d * 2 ^ 8 + m * 4 + q
/-- Forms RS and RB: the immediate's high nine bits in [31:23], its low five in [12:8]. -/
def rs (imm b a m q : Nat) : Nat := imm / 32 * 2 ^ 23 + b * 2 ^ 18 + a * 2 ^ 13 + imm % 32 * 2 ^ 8 + m * 4 + q
/-- Forms RU and RJ: the immediate in [31:13]. -/
def ru (imm d m q : Nat) : Nat := imm * 2 ^ 13 + d * 2 ^ 8 + m * 4 + q

/-- A word, with zero parameter words where it heads a block, decodes to an instruction. -/
noncomputable def decodesTo (x : Nat × Instr) : Bool :=
  match decodeWord (BitVec.ofNat 32 x.1) 0 0 0 0 with
  | .ok i => decide (i = x.2)
  | .error _ => false

/-- Words the spec prints beside their assembly. -/
noncomputable def printedWords : List (Nat × Instr) := [
  (0x000D0C30, .shli 3 8 12), (0x00308C00, .add 0 12 4 12), (0x002180CC, .sd 0 8 12), (0x60000013, .kexit),
  (0x01500420, .addi 84 0 4), (0x00006168, .jal 3 1), (0x0000A550, .beq 5 0 5), (0x0D148600, .remu 0 5 4 6),
  (0xFF80BD54, .bne 0x3FFD 0 5), (0x0000206C, .jalr 0 1 0), (0x12344C44, .ldh 0x91A2 12), (0x59E18C20, .addi 0x1678 12 12),
  (0x77358006, .mldb 7 14 13 12 0), (0x1001E002, .mjobOvr 0 0 15 0 0 0 0), (0x0001F012, .ewait 15 16), (0x00218588, .lw 8 12 5),
  (0x00B580D4, .snib 1 13 12), (0x043580E0, .atomAddW 2 0 13 12 0), (0x19BD8EF0, .casD 4 3 15 12 14), (0x083580F4, .wbr 4 13 12),
  (0x22358E2F, .segn 1 13 12 14), (0x180185A4, .ldaD 4 12 5), (0x081980D8, .strlW 4 6 12), (0x0A0005F8, .fence 5 5),
  (0x160000F8, .rel 3), (0x240000F8, .acq 2), (0x1080F004, .zext 1 7 16), (0x0040F134, .shri 16 7 17), (0x09C10C00, .mul 0 16 8 12),
  (0x007DCE24, .andi 31 14 14), (0x00081303, .csrr 2 19), (0x20026022, .reedSync 19 0), (0x0066E0C4, .sh 0 25 23),
  (0x184C80F4, .invr 4 19 4), (0x0002F994, .lhu 0 23 25), (0x01EB7B00, .or 0 26 27 27), (0x00358F2A, .bbinit 13 12 15),
  (0x4030940E, .cpyBob 0 12 4 20 0 0 0 0), (0x3001902A, .bbacq 12 16), (0x4041932A, .bbrel 16 12 19), (0x06039526, .lde 3 28 21),
  (0x26578026, .stf 3 21 28), (0x5001F026, .tagr 0 15 16), (0x06D22007, .csrw 0x1B4 17 0), (0x10000013, .eret), (0x20000013, .kill),
  (0x003D854E, .skbind 15 12 5), (0x07358042, .skw 14 13 12 0), (0x07358646, .skr 14 13 12 6), (0x32830819, .splat 5 24 8),
  (0x0002811D, .flq 0 20 1), (0x50844301, .fsub 5 1 2 3), (0x50A06105, .fmadd 5 1 8 3 1), (0x00068021, .fsq 0 1 20),
  (0x1059F04E, .skflr 22 15 16), (0x0845F2E4, .atomAddD 4 0 17 15 18), (0x40018D13, .sleep 12 13), (0x103DA02B, .toks 15 13 0),
  (0x16019062, .shtl 1 3 12 16), (0x0001B12B, .tokw 13 17), (0x1000122E, .mrcv 18)]

theorem test_printed_words_decode : printedWords.all decodesTo = true := by decide +kernel

/-- Words the encoding sections give as examples. -/
noncomputable def exampleWords : List (Nat × Instr) := [
  (0x34023041, .sen 2 17 16), (0x00018045, .seq 12 0), (0x5CE11A05, .fmadd 5 25 24 8 26), (0x0401AC26, .lde 2 13 12),
  (0x2639A026, .stf 3 14 13), (0x0039AC2E, .msnd 14 13 12), (0x0039AC27, .launch 14 13 12), (0x0001AC2B, .tokw 13 12),
  (0x1039A02B, .toks 14 13 0), (0x2001AC2B, .tokq 13 12), (0x3001A02B, .toke 13 0), (0x0039AC3B, .migr 14 13 12),
  (0x1001AC3B, .ctxhalt 0 13 12), (0x2039AC3B, .ctxsave 14 13 12), (0x3001AC3B, .ctxrest 0 13 12), (0x0039AC37, .pinv 14 13 12),
  (0x1001AC37, .pprobe 13 12), (0x0001AC6A, .lreq 13 12), (0x1039AC6A, .lrel 14 13 12), (0x2101AC6A, .lqry 2 13 12),
  (0x1601AC62, .shtl 1 3 13 12), (0x0C01A062, .shtl 0 6 13 0), (0x0039AC66, .mcst 14 13 12), (0x1039AC66, .pubv 14 13 12),
  (0x2081AC66, .subv 1 13 12), (0x3439AC66, .ared 2 14 13 12), (0x4001AC66, .shtr 13 12), (0x00018013, .trap 12),
  (0x000000FC, .hint 0), (0xFF80BE54, .bne 0x3FFE 0 5)]

theorem test_example_words_decode : exampleWords.all decodesTo = true := by decide +kernel

/-- One word of each other major, written out field by field. -/
noncomputable def fieldWords : List (Nat × Instr) := [
  (rr 0 7 6 5 4 2 0, .csel 7 6 5 4), (rr 1 7 6 5 4 3 0, .madd 1 7 6 5 4), (rr 0 7 6 5 4 4 0, .msub 0 7 6 5 4),
  (ri 0x3FFF 5 4 0x0A 0, .ori 0x3FFF 5 4), (ri 1 5 4 0x0B 0, .xori 1 5 4), (ri 63 5 4 0x0E 0, .shrai 63 5 4),
  (ri 2 5 4 0x0F 0, .slti 2 5 4), (ri 3 5 4 0x10 0, .sltiu 3 5 4), (ru 0x7FFFF 4 0x12 0, .addpc 0x7FFFF 4),
  (rs 33 6 5 0x16 0, .blt 33 6 5), (rs 34 6 5 0x17 0, .bge 34 6 5), (rs 35 6 5 0x18 0, .bltu 35 6 5),
  (rs 36 6 5 0x19 0, .bgeu 36 6 5), (ri 9 5 4 0x20 0, .lb 9 5 4), (ri 9 5 4 0x21 0, .lh 9 5 4), (ri 8 5 4 0x23 0, .ld 8 5 4),
  (ri 9 5 4 0x24 0, .lbu 9 5 4), (ri 9 5 4 0x26 0, .lwu 9 5 4), (ri 16 5 4 0x27 0, .lq 16 5 4), (ri 8 5 4 0x28 0, .ldc 8 5 4),
  (rr 2 (5 * 4) 0 5 4 0x29 0, .ldaQ 5 5 4), (rs 70 6 5 0x30 0, .sb 70 6 5), (rs 70 6 5 0x32 0, .sw 70 6 5),
  (rs 64 6 5 0x34 0, .sq 64 6 5), (rr 2 (3 * 4) 6 5 0 0x36 0, .strlQ 3 6 5), (rr 6 (1 * 4 + 2) 7 6 4 0x3A 0, .fatomFmin 2 1 2 7 6 4),
  (rr 9 (5 * 4 + 1) 7 6 4 0x3B 0, .fatompFmax 1 5 1 7 6 4), (rr 3 (2 * 4) 6 5 0 0x3D 0, .pref 2 6 5),
  (rr 5 4 0 6 4 0 1, .fsqrt 5 6 4), (rr 6 11 7 6 4 0 1, .flt 6 7 6 4), (rr 4 7 6 5 8 2 1, .fmsub 4 7 6 5 8),
  (rr 5 7 6 5 8 3 1, .fnmadd 5 7 6 5 8), (rr 6 7 6 5 8 4 1, .fnmsub 6 7 6 5 8), (rr 4 10 7 6 5 5 1, .fcvt 4 10 7 6 5),
  (rr 2 0 7 6 5 6 1, .gtof 7 6 5), (rr 4 12 7 6 5 6 1, .shuf 12 7 6 5), (rr 9 2 7 6 5 0x0B 1, .qmul 9 7 6 5),
  (rr 10 5 0 6 5 0x0B 1, .qrng 10 6 5), (rr 1 3 7 6 5 0x0C 1, .rsdiv 1 7 6 5), (rr 0 16 0 6 0 0x0C 1, .rsldt 6),
  (rr 6 8 0 6 5 0x0D 1, .fsigm 6 6 5), (rr 0 (7 * 4 + 3) 0 6 0 0x10 1, .sbound 7 3 6), (rr 0 3 7 6 0 0x12 1, .qwg 3 7 6),
  (rr 4 7 0 0 5 0x12 1, .qcnt 7 5), (rr 0 9 0 0 3 2 2, .mzero 9 3), (rr 1 9 7 6 2 2 2, .mrd 9 7 6 2),
  (rr 1 0b10011 0 0 0 4 2, .efence 0b10011), (rr 1 0 7 6 5 8 2, .reedWait 7 6 5), (rr 4 (2 * 4) 0 6 1 9 2, .tagi 2 6 1),
  (rr 0 8 7 6 5 0x12 2, .skre 8 7 6 5), (rr 2 4 0 6 5 0x13 2, .skqry 4 6 5), (ri 0x106 6 5 2 3, .csrs 0x106 6 5),
  (ri 0x105 6 5 3 3, .csrc 0x105 6 5), (rr 0 0 0 0 5 5 3, .twin 5), (rr 5 0 0 0 5 5 3, .chk 5), (rr 0 0 0 6 5 6 3, .nest 6 5),
  (rs 4 0 6 7 3, .iter 4 6), (rr 2 1 0 6 5 8 3, .rdstep 1 6 5), (rr 1 0 0 6 5 0x0C 3, .spul 6 5), (rr 0 0 7 6 5 0x0C 3, .splk 7 6 5)]

theorem test_field_words_decode : fieldWords.all decodesTo = true := by decide +kernel

/-- Reserved words that no instruction has: an ALU selector above .W, a CSEL with k, a shift by 64, order bits on LDA, a scope of 6,
an unassigned major, a pair register that is odd, CPY kind 3, an unassigned CSR. -/
def reservedWords : List Nat := [
  rr 2 0 0 0 0 0 0, rr 1 7 6 5 4 2 0, ri 64 5 4 0x0C 0, rr 0 1 0 5 4 0x29 0, rr 0 24 0 5 4 0x29 0, rr 0 0 0 0 0 5 0, ri 0 5 3 0x27 0,
  rr 12 0 7 6 5 3 2, ri 0x006 0 5 0 3, 0xFFFFFFFF]

theorem test_reserved_words_are_refused : reservedWords.all (fun w =>
    match decodeWord (BitVec.ofNat 32 w) 0 0 0 0 with | .ok _ => false | .error _ => true) = true := by decide +kernel

/-! ### Small states, and single steps against the spec's worked values -/

/-- Segments that let everything pass: global, local, tile and host. -/
def gloSeg : Seg := { base := 0, lim := 0x800000000000, attr := 0x11F }
def locSeg : Seg := { base := 0, lim := 0x100000, attr := 0x21F }
def tileSeg : Seg := { base := 0, lim := 0x50000000, attr := 0x31F }
def hostSeg : Seg := { base := 0, lim := 0x1000000000000, attr := 0x51F }

/-- A READY thread with some g registers and those segments. -/
def thr (g : Tab W64) : Thread :=
  { Thread.reset with state := .ready, g := g, sg := [(1, gloSeg), (2, locSeg), (3, tileSeg), (5, hostSeg)], bound := true }

/-- Its state in slot 0 of core 0, in partition 0, which is RESIDENT. -/
def stt (t : Thread) : State :=
  { State.reset with threads := [(0, t)], cores := [(0, { Core.reset with asg := true })], parts := [(0, { ctx := .resident })] }
def st (g : Tab W64) : State := stt (thr g)

/-- A g register, an f register, the pc and the cause of a trap after a step. -/
def gAfter (o : Out) (r : Reg) : Option W64 := match o with | .next t => some (t.me.rg r) | _ => none
def fAfter (o : Out) (r : Reg) : Option W128 := match o with | .next t => some (t.me.rf r) | _ => none
def pcAfter (o : Out) : Option W64 := match o with | .next t => some t.me.pc | _ => none
def trapAfter (o : Out) : Option (Byte × W64) :=
  match o with | .next t => (t.arch t.myCore).trapq.getLast?.map (fun r => (r.cause, r.eval)) | _ => none
def isNext (o : Out) (t : State) : Bool := match o with | .next u => decide (u = t) | _ => false
/-- A property of the state after a step. -/
def after (o : Out) (p : State → Bool) : Bool := match o with | .next t => p t | _ => false
def waitAfter (o : Out) : Option (Byte × W64) := match o with | .next t => t.me.wait.map (fun w => (w.kind, w.eval)) | _ => none

/-- R92's table: g4, g5 and the result. -/
theorem test_div_table :
    gAfter (exec (.div 0 5 4 6) (st [(4, -7), (5, 2)])) 6 = some (-3) ∧ gAfter (exec (.rem 0 5 4 6) (st [(4, -7), (5, 2)])) 6 = some (-1) ∧
    gAfter (exec (.div 0 5 4 6) (st [(4, 5)])) 6 = some (-1) ∧ gAfter (exec (.remu 0 5 4 6) (st [(4, 5)])) 6 = some 5 ∧
    gAfter (exec (.div 0 5 4 6) (st [(4, 0x8000000000000000), (5, -1)])) 6 = some 0x8000000000000000 ∧
    gAfter (exec (.div 1 5 4 6) (st [(4, 0x80000000), (5, 0xFFFFFFFF)])) 6 = some 0xFFFFFFFF80000000 ∧
    gAfter (exec (.divu 1 5 4 6) (st [(4, 0x100000009), (5, 2)])) 6 = some 4 ∧
    gAfter (exec (.minu 1 5 4 6) (st [(4, 0xFFFFFFFF), (5, 3)])) 6 = some 3 ∧
    gAfter (exec (.maxu 1 5 4 6) (st [(4, 0xFFFFFFFF), (5, 3)])) 6 = some (-1) := by decide +kernel
/-- R94's example: BFX.W of 0x1234_5678 with 0x0804. -/
theorem test_bfx_example : gAfter (exec (.bfx 2 5 4 6) (st [(4, 0x12345678), (5, 0x0804)])) 6 = some 0x67 := by decide +kernel
/-- R98's example: LDH and ADDI build 0x1234_5678. -/
theorem test_ldh_example : gAfter (exec (.ldh 0x91A2 12) (st [])) 12 = some 0x12344000 ∧
    gAfter (exec (.addi 0x1678 12 12) (st [(12, 0x12344000)])) 12 = some 0x12345678 ∧
    gAfter (exec (.ldh 0x7FFFE 12) (st [])) 12 = some (-16384) := by decide +kernel
/-- R97: SLTIU with 1 tells zero, with −1 everything but all ones. -/
theorem test_sltiu_examples : gAfter (exec (.sltiu 1 6 5) (st [])) 5 = some 1 ∧ gAfter (exec (.sltiu 1 6 5) (st [(6, 1)])) 5 = some 0 ∧
    gAfter (exec (.sltiu 0x3FFF 6 5) (st [(6, -1)])) 5 = some 0 := by decide +kernel
/-- R100: JALR with d = a uses the old register, and a misaligned target traps with it in EVAL. -/
theorem test_jalr_reads_first : pcAfter (exec (.jalr 8 4 4) (st [(4, 0x100)])) = some 0x108 ∧
    gAfter (exec (.jalr 8 4 4) (st [(4, 0x100)])) 4 = some 4 ∧ trapAfter (exec (.jalr 1 4 4) (st [(4, 0x100)])) = some (ALIGN, 0x101) := by
  decide +kernel
/-- R126's examples of packing. -/
theorem test_pack_examples : rcPack 0x2800 = 0xB2 ∧ rcUnpack 0xB2 = 0x3800 ∧ rcPack 0x4002 = 0xE3 := by decide +kernel

/-! ### Witnesses: concrete states and operands that meet the hypotheses of each statement, clause by clause -/

/-- Branches and jumps: a target inside sg0, one at 2^61 and one that is no word address. -/
def sJump : State := stt { thr [(4, 0x1FFFFFFFFFFFFFFC), (5, 0x102)] with pc := 0x1FFFFFFFFFFFFFFC }
theorem test_witness_branches_and_jumps :
    twinLag sJump sJump.cur = false ∧ 2 ^ 61 ≤ (sJump.me.pc + 4).toNat ∧ (sJump.me.pc + BitVec.ofInt 64 (4 * (0x3FFF : BitVec 14).toInt)).toNat < 2 ^ 61 ∧
    trapAfter (exec (.bne 1 0 0) sJump) = some (SEGV, 0x2000000000000000) ∧ pcAfter (exec (.beq 0x3FFF 0 0) sJump) = some 0x1FFFFFFFFFFFFFF8 ∧
    trapAfter (exec (.jal 1 1) sJump) = some (SEGV, 0x2000000000000000) ∧ trapAfter (exec (.jalr 4 4 1) sJump) = some (SEGV, 0x2000000000000000) ∧
    trapAfter (exec (.jalr 0 5 1) sJump) = some (ALIGN, 0x102) ∧ pcAfter (exec (.jalr 2 5 1) sJump) = some 0x104 ∧
    trapAfter (exec (.jal 0 1) (stt { thr [] with pc := 2 })) = some (ALIGN, 2) := by decide +kernel

/-- Loads and stores: g12 at the last words of the scratchpad, g13 at a global line held in L1 and in the constant cache. -/
def leaf0 : Leaf := { word := 0x000000000000031F, size := 4096, entry := 0x8000 }
def sLoad : State := { st [(4, 5), (12, 0x40000000000FFFF0), (13, 0x2000000000001000), (14, 0x4000000000100000), (15, 0x40000000000FFFF1)] with
  clusters := [(0, { Cluster.reset with tlb := [(tlbKey 0 0x1000 4096, leaf0)] })],
  cores := [(0, { Core.reset with asg := true, l1 := [(64, 7)], cc := [(64, 9)] })] }
theorem test_witness_loads : Claims.InSegment sLoad 8 12 ∧ Claims.OwnBytes sLoad (Claims.effective sLoad 8 12) 8 rightR 0xFFFF8 ∧
    Claims.Quiet sLoad 0xFFFF8 8 ∧ Claims.OwnBytes sLoad (sLoad.me.rg 12) 16 rightR 0xFFFF0 ∧ sLoad.me.run = none ∧
    (sLoad.me.stream 7).state = .off ∧
    Claims.SegOk sLoad.me (sLoad.me.rg 13) 8 rightR 1 0x1000 ∧ (translate sLoad 0 0 0x1000 accRead (sLoad.me.rg 13)).toOption.map (·.2) = some (0x31F, 0) ∧
    leafUC 0x31F = false ∧ leafCls 0x31F ≠ 4 ∧ tfind (sLoad.core 0).l1 64 = some 7 ∧ tfind (sLoad.core 0).cc 64 = some 9 ∧
    isNext (exec (.ld 0 13 5) sLoad) (sLoad.finish (sLoad.me.wg 5 7) 10) ∧ isNext (exec (.ldc 0 13 5) sLoad) (sLoad.finish (sLoad.me.wg 5 9) 10) ∧
    isNext (exec (.flq 0 12 31) sLoad) (sLoad.finish (sLoad.me.wf 31 0) 8) := by decide +kernel
theorem test_witness_stores : Claims.CanStore sLoad ∧ Claims.OwnBytes sLoad (sLoad.me.rg 12) 16 rightW 0xFFFF0 ∧ Claims.NoReleaseWait sLoad 5 ∧ sLoad.me.cmp = [] ∧
    (ownPending sLoad 0 (.spad 0 0xFFFF0) 8).all (fun e => !e.late) = true ∧
    isNext (exec (.sq 0 4 12) sLoad) ((Claims.queued sLoad (Claims.ownEntry sLoad (sLoad.me.rg 12) 0xFFFF0 (bytesOfNat 16 5) .write)).finish sLoad.me 8) ∧
    (atomicOf (.atomAddD 4 0 4 12 0)).map (fun x => (x.n, x.a, x.d, x.rel)) = some (8, 12, 0, false) := by decide +kernel
/-- A load after a store to the same word takes its value from the queue. -/
theorem test_load_after_store : (match exec (.sd 0 4 12) sLoad with | .next t => gAfter (exec (.ld 0 12 6) t) 6 | _ => none) = some 5 := by
  decide +kernel
/-- The oldest store of core 0 is to its scratchpad, or to a global line homed elsewhere. -/
def oldest (p : Place) : StoreEntry :=
  { slot := 0, stream := none, part := 0, place := p, addr := 0, bytes := [1, 2], op := .write, epoch := 0 }
def sAccept (p : Place) : State := { st [] with cores := [(0, { Core.reset with asg := true, storeq := [oldest p] })] }
theorem test_witness_store_accept : let s := sAccept (.spad 0 0xFFFFE); let e := oldest (.spad 0 0xFFFFE)
    (s.core 0).storeq = [e] ∧ e.sent = false ∧ storeLocked s 0 e = false ∧ storeHeld s 0 e = false ∧ dieReachable s 0 = true ∧
    after (exec (.storeAccept 0 0) s) (fun t => spadBytes t.mem 0 0xFFFFE 2 == [1, 2] && (t.core 0).storeq.isEmpty) := by decide +kernel
theorem test_witness_store_accept_staging : let s := sAccept (.global 0x103E 0x203E 0x31F); let e := oldest (.global 0x103E 0x203E 0x31F)
    leafUC 0x31F = false ∧ leafCls 0x31F ≠ 4 ∧ homedIn s 0 0 0x103E 0x203E 0x31F = false ∧ 0x103E % 64 + e.bytes.length ≤ 64 ∧ e.sent = false ∧
    dieReachable s (dieOf 0) = true ∧ (s.cluster (clusterOf 0)).staging.length < stageCap s (clusterOf 0) ∧
    after (exec (.storeAccept 0 0) s) (fun t => t.mem = s.mem) := by decide +kernel
theorem test_witness_own_atomic : Claims.OwnAtomic sLoad 12 5 3 8 0xFFFF0 ∧ Claims.OwnAtomic sLoad 12 4 3 16 0xFFFF0 := by
  refine ⟨⟨?_, ?_, ?_, ?_, fun _ => ?_⟩, ?_, ?_, ?_, ?_, fun _ => ?_⟩ <;> decide +kernel
theorem test_witness_atomics :
    after (Claims.ownAtomic sLoad 1 0 0xFFFF0 8 (some 5) [(6, 0)]) (isNext (exec (.casD 1 0 4 12 6) sLoad)) ∧
    after (Claims.ownAtomic sLoad 4 3 0xFFFF0 8 (some (fatomNew 0 2 1 0 5)) [(6, 0)]) (isNext (exec (.fatomFadd 2 4 3 4 12 6) sLoad)) ∧
    isNext (exec (.ldaQ 5 12 6) sLoad) (acquireAt (sLoad.finish (Claims.wgAll sLoad.me [(6, 0), (7, 0)]) 8) 0 5) := by decide +kernel
theorem test_witness_memory_traps : ¬Claims.InSegment sLoad 0x2000 0 ∧ Claims.SegBad sLoad.me (sLoad.me.rg 14) 8 rightR ∧ (sLoad.me.rg 15).toNat % 8 ≠ 0 ∧
    trapAfter (exec (.ld 0x2000 0 5) sLoad) = some (SEGV, -8192) ∧ trapAfter (exec (.ld 0 14 5) sLoad) = some (SEGV, sLoad.me.rg 14) ∧
    trapAfter (exec (.sd 0 5 15) sLoad) = some (ALIGN, sLoad.me.rg 15) := by decide +kernel

/-- Copies in the cluster: line 64 partly dirty, line 65 clean, line 66 of an SM page; g12 names bytes in lines 64 and 65. -/
def staged (v d : W64) (cls : BitVec 3) : Staged := { pa := 0x203000, data := 7, valid := v, dirty := d, cls := cls, poison := 0, home := 0 }
def sCopies : State := { st [(12, 0x2000000000001000), (13, 65), (14, 0x100000001), (15, 0x4000000000000000)] with
  clusters := [(0, { Cluster.reset with staging := [(64, staged 0xFF 0xF 0), (65, staged 1 0 0), (66, staged 1 0 1)] })],
  cores := [(0, { Core.reset with asg := true, l1 := [(64, 7)], cc := [(64, 9)] })] }
theorem test_witness_copies : Claims.NoReleaseWait sCopies 5 ∧ sCopies.me.refusedStore = false ∧ (∀ p ∈ sCopies.me.peers, p.2.pending = [] ∧ p.2.failed = false) ∧
    after (exec (.rel 3) sCopies) (fun t => (t.cluster 0).staging.all (fun x => x.2.dirty == 0 || x.2.cls == 1)) ∧
    isNext (exec (.rel 2) sCopies) (sCopies.finish sCopies.me 6) ∧ isNext (exec (.acq 1) sCopies) (sCopies.finish sCopies.me 6) ∧
    after (exec (.acq 3) sCopies) (fun t => (t.cluster 0).staging.map (fun x => (x.1, x.2.valid)) == [(64, 0xF), (66, 1)] && (t.core 0).l1 == []) ∧
    after (exec (.fence 5 6) sCopies) (fun t => t.me.fenst == 0 && (t.core 0).l1 == []) := by decide +kernel
theorem test_witness_fence_of_a_refused_store :
    let s := stt { thr [] with refusedStore := true }
    slotOf s.cur ≠ 7 ∧ Claims.NoReleaseWait s 5 ∧ s.me.refusedStore = true ∧ after (exec (.fence 5 6) s) (fun t => t.me.rg 6 == 0x4000000000000000) ∧
    trapAfter (exec (.fence 5 0) s) = some (FENCEERR, 0x4000000000000000) := by decide +kernel
theorem test_witness_dies_reachable : ∀ d, dieReachable sCopies d = true := fun _ => rfl
theorem test_witness_ranges : Claims.SegOk sCopies.me (sCopies.me.rg 12) 65 rightR 1 0x1000 ∧ Claims.SegOk sCopies.me (sCopies.me.rg 12) 65 rightW 1 0x1000 ∧
    Claims.SegOk sCopies.me (sCopies.me.rg 15) 65 rightW 2 0 ∧ rangePending sCopies 0x1000 65 = false ∧ rangeOpen sCopies 0x1000 65 = true ∧
    rangeAtomics sCopies 0x1000 65 = false ∧ sCopies.me.rangeAt < 65 ∧ sCopies.me.rg 11 = 0 ∧ 2 ^ 32 < (sCopies.me.rg 14).toNat ∧
    after (exec (.wbr 3 13 12) sCopies) (fun t => (t.cluster 0).staging.all (fun x => x.1 == 66 || x.2.dirty == 0)) ∧
    after (exec (.invr 3 13 12) sCopies) (fun t => (t.cluster 0).staging.map (·.1) == [66] && (t.core 0).l1 == []) ∧
    after (exec (.disc 2 13 12) sCopies) (fun t => t.clusters = sCopies.clusters && (t.core 0).l1 == []) ∧
    isNext (exec (.disc 3 13 15) sCopies) (sCopies.finish sCopies.me 6) ∧ isNext (exec (.wbr 3 11 12) sCopies) (sCopies.finish sCopies.me 6) ∧
    trapAfter (exec (.pref 3 14 12) sCopies) = some (FORMAT, 0x100000001) ∧ after (exec .cinv sCopies) (fun t => (t.core 0).cc == []) := by decide +kernel
/-- Slot 7 of core 0 runs in F mode; slot 0 does not. -/
def sHandler (g : Tab W64) : State := { st [] with threads := [(7, thr g)], cur := 7 }
theorem test_witness_segments : modeOf (st []).cur = 0 ∧ twinLag (st []) 0 = false ∧ 1 ≤ modeOf (sHandler []).cur ∧
    trapAfter (exec (.segw 2 0 4 5) (st [])) = some (PRIV, 0) ∧ gAfter (exec (.segw 2 2 4 5) (sHandler [(4, 0x720)])) 5 = some 1 ∧
    gAfter (exec (.segw 2 1 4 5) (sHandler [(4, 0x2000000000000001)])) 5 = some 1 ∧
    after (exec (.segw 2 1 4 5) (sHandler [(4, 0x2000000000000000)])) (fun t => (t.me.seg 2).lim == 0x2000000000000000 && t.me.rg 5 == 0) ∧
    gAfter (exec (.segn 2 4 5 6) (st [(4, -1), (5, 0x100001)])) 6 = some 1 ∧
    after (exec (.segn 2 4 5 6) (st [(4, 0x0800000000000010), (5, 0x100000)])) (fun t => t.me.seg 2 = { base := 0x100000, lim := 0, attr := 0x201 }) ∧
    after (exec (.segn 2 4 5 6) (st [(4, -1), (5, 16)])) (fun t => t.me.seg 2 = { base := 16, lim := 0xFFFF0, attr := 0x21F }) := by decide +kernel

/-! Arithmetic: no run, every stream off; the boundary between f23 and f24, which is stream 0 -/
/-- f1 and f2 of R158's example, f3 and f4 for the other checks, an RC8 and an RS16 set. -/
def fthr : Thread := { thr [(5, 0x3210), (6, 2)] with f := [(1, 0x40C00000800000003F8000003F800000), (2, 0x40000000000000000000000040400000),
  (3, 0x7FFF8000), (4, 0x7FFF8000), (5, 0x14000000), (6, 0x01000000)] }
def sF : State := stt fthr
theorem test_witness_plain : Claims.Plain sF [1, 2, 24] ∧ Claims.Plain sF [31] := by decide +kernel
/-- R158's example of FDIV, its flags, and FKIND of the operands. -/
theorem test_fdiv_example : fAfter (exec (.fdiv 5 2 1 3) sF) 3 = some 0x404000007FC000007F8000003EAAAAAB ∧
    after (exec (.fdiv 5 2 1 3) sF) (fun t => t.me.fcsr == 0b10011) := by decide +kernel
theorem test_fkind_example : gAfter (exec (.fkind 5 1 4) sF) 4 = some 0x2822 := by decide +kernel
/-- R116's examples: 0.3 and 500 into E43. -/
theorem test_e43_examples : (laneRound 7 0 (fpDecode f32 0x3E99999A)).1 = 0x2A ∧ (laneRound 7 0 (fpDecode f32 0x43FA0000)).1 = 0x7E := by decide +kernel
/-- R124's examples of the reset tables: {1, 2} + {0.5}, (0.5, 1) + (0.5, 1), ∞·0, 1/0. -/
theorem test_ring_examples : fAfter (exec (.rsadd 0 6 5 7) sF) 7 = some 0x28000000 ∧ tableEntry none (16 * 9 + 9) = 0x0800 ∧
    tableEntry none (512 + 16 * 14 + 6) = 0xFFFF ∧ tableEntry none (768 + 16 * 10 + 6) = 0x4000 := by decide +kernel
/-- QRNG under FCSR.QT traps with the mask of lanes out of range; Q15 lanes 0x8000 and 0x7FFF, QHI 0x7FFE_FFFF. -/
theorem test_witness_qrng : let s := stt { fthr with fqhi := 0x7FFEFFFF, fcsr := 0x1000 }
    Claims.Plain s [3] ∧ s.me.fcsr.getLsbD 12 = true ∧ trapAfter (exec (.qrng 10 3 4) s) = some (FORMAT, 2) ∧
    gAfter (exec (.qrng 10 3 4) (stt { fthr with fqhi := 0x7FFEFFFF })) 4 = some 2 := by decide +kernel
theorem test_saturation : fAfter (exec (.qadd 10 4 3 7) sF) 7 = some 0x7FFF8000 ∧ after (exec (.qadd 10 4 3 7) sF) (fun t => t.me.fcsr == 32) := by decide +kernel
/-- A mask that holds elements 0 to 14 alone needs length 14; one that needs length 15 has no shorter cover. -/
theorem test_witness_packing : rcPack 0x7FFF = 0x0E ∧ rcPack 0xFFFF = 0x0F ∧ rcPack 1 = 0x00 ∧ rcPack 0x8000 = 0xF0 := by decide +kernel

/-! Units, tables, streams, queue registers, runs -/
theorem test_witness_sfu : Claims.Plain sF [1, 7] ∧ (sF.cluster 0).sfuq = [] ∧ waitAfter (exec (.frcp 5 1 7) sF) = some (0x02, 0) ∧
    slotOf sF.cur ≠ 6 ∧ sF.me.pse = false ∧
    after (exec (.frcp 5 1 7) sF) (fun t => after (exec (.sfuAccept 0) t) (fun u => after (exec (.sfuResult 0) (Claims.later u 0 24)) (fun v =>
      after (exec (.parkWake 0 0) v) (fun x => x.me.pc == 4 && x.me.state == .ready && x.me.rf 7 == (sfuPack 2 5 0 (sF.me.rf 1)).1)))) := by decide +kernel
def sNorm : State := { sF with
  clusters := [(0, { Cluster.reset with normq := [(3, 0)] })], dies := [(0, { Die.reset with cyc := 4 })],
  threads := [(0, { fthr with busy := some 9 })] }
theorem test_witness_normaliser : let s := sNorm
    (s.cluster 0).normq = [(3, 0)] ∧ max 3 (s.cluster 0).normAt < (s.die 0).cyc ∧
    after (exec (.normaliserService 0) s) (fun t => (t.cluster 0).normAt == 4 && t.me.busy == some 9) := by decide +kernel
/-- g12 names 32 bytes that hold the points 1 to 7 and the mark of R121, g13 a table image at the end of the scratchpad. -/
def sRing : State := { st [(12, 0x4000000000000100), (13, 0x40000000000FF780)] with
  mem := { State.reset.mem with
    spad := mwriteN [] 0x100 (bytesOfNat 32 0x7F80000040E0000040C0000040A000004080000040400000400000003F800000) } }
theorem test_witness_ring : (sRing.me.rg 12).toNat % 16 = 0 ∧ Claims.SegOk sRing.me (sRing.me.rg 12) 32 rightR 2 0x100 ∧ Claims.Unlocked sRing 0x100 32 ∧
    spadPoisoned sRing.mem 0 0x100 32 = false ∧ Claims.NoStores sRing ∧ (sRing.cluster 0).normq = [] ∧
    sRing.me.run = none ∧ sRing.me.state = .ready ∧ sRing.me.pse = false ∧ (sRing.die 0).relock = none ∧
    (sRing.me.rg 13).toNat % 16 = 0 ∧ Claims.SegOk sRing.me (sRing.me.rg 13) 2176 rightR 2 0xFF780 ∧
    (List.range 6).all (fun k => fpLt (fpDecode f32 (Claims.ownValue sRing (0x100 + 4 * k) 4)) (fpDecode f32 (Claims.ownValue sRing (0x104 + 4 * k) 4))) ∧
    (List.range 7).all (fun k => !(fpDecode f32 (Claims.ownValue sRing (0x100 + 4 * k) 4)).isNaN) ∧ Claims.ownValue sRing 0x11C 4 = 0x7F800000 ∧
    after (exec (.rsldg 12) sRing) (fun t => after (exec (.instructionComplete 0 0) (Claims.later t 0 8)) (fun u =>
      (u.arch 0).ring == [0x3F800000, 0x40000000, 0x40400000, 0x40800000, 0x40A00000, 0x40C00000, 0x40E00000] && u.me.pc == 4)) := by decide +kernel
theorem test_witness_tables : after (exec (.rsldt 13) sRing) (fun t => after (exec (.instructionComplete 0 0) (Claims.later t 0 8)) (fun u =>
    (u.arch 0).tables.map (·.length) == some 1088 && u.me.pc == 4)) := by decide +kernel
/-- Stream 0 off with one valid level, stream 1 reading, stream 2 writing, stream 3 done; packs of 16 bytes at 0x100 and 0x200. -/
def stream0 : Stream := { base := 0x4000000000000100, bound := [(0, 3)], stride := [(0, 16)] }
def sthr : Thread := { thr [(4, 0), (5, 9), (6, 1)] with streams := [(0, stream0),
  (1, { stream0 with state := .active, levels := 1, packs := [{ idx := 0, data := 0x77, cause := 0, addr := 0 }] }),
  (2, { stream0 with state := .active, levels := 1, write := true, pos := 2 }), (3, { stream0 with state := .done, levels := 1, pos := 3 }),
  (4, { stream0 with state := .active, levels := 1, pos := 1 }), (5, { stream0 with base := 0xC000000000000100, state := .active, levels := 1 })] }
def sStream : State := stt sthr
theorem test_witness_stream_control : sStream.me.run = none ∧ (sStream.me.stream 0).state = .off ∧ Claims.packCount (sStream.me.stream 0) 1 < 2 ^ 32 ∧
    (sStream.me.stream 2).state ≠ .off ∧ streamStores sStream 0 2 = false ∧
    gAfter (exec (.sen 0 4 7) sStream) 7 = some 0 ∧ gAfter (exec (.sen 0 5 7) sStream) 7 = some 1 ∧ gAfter (exec (.sen 2 4 7) sStream) 7 = some 2 ∧
    gAfter (exec (.sdrain 0 7) sStream) 7 = some 1 ∧ gAfter (exec (.sdrain 2 7) sStream) 7 = some 0 ∧
    trapAfter (exec (.sbase 1 4) sStream) = some (STREAM, 1) ∧ gAfter (exec (.sstat 2 7) sStream) 7 = some 0x100000009 := by decide +kernel
theorem test_witness_streams : sStream.me.twl = false ∧ sStream.me.twt = false ∧
    (sStream.me.stream 1).packs.find? (fun p => p.idx == (sStream.me.stream 1).pos && p.cause != 0xFF) = some { idx := 0, data := 0x77, cause := 0, addr := 0 } ∧
    gAfter (exec (.ftog 25 7) sStream) 7 = some 0x77 ∧ trapAfter (exec (.ftog 27 7) sStream) = some (STREAM, 3) ∧
    trapAfter (exec (.ftog 26 7) sStream) = some (STREAM, 2) ∧ trapAfter (exec (.gtof 4 5 25) sStream) = some (STREAM, 1) ∧
    Claims.packOffset (sStream.me.stream 2) 2 = 0x120 ∧ Claims.OwnBytes sStream 0x4000000000000120 16 rightW 0x120 ∧
    after (exec (.gtof 4 5 26) sStream) (fun t => (t.me.stream 2).state == .done && (t.core 0).storeq == [{
      Claims.ownEntry sStream 0x4000000000000120 0x120 (bytesOfNat 16 9) .write with stream := some 2 }]) := by decide +kernel
theorem test_witness_prefetch : ctxStopped sStream 0 = false ∧ (sStream.core 0).migrating = none ∧ sStream.me.killed = none ∧ (sStream.me.stream 4).packs = [] ∧ (sStream.me.stream 4).pos < (sStream.me.stream 4).total ∧
    Claims.OwnBytes sStream 0x4000000000000110 16 rightR 0x110 ∧ Claims.NoStores sStream ∧ spadPoisoned sStream.mem 0 0x110 16 = false ∧
    Claims.SegBad sStream.me 0xC000000000000100 16 rightR ∧
    after (exec (.streamPrefetch 0 0 4 .inside) sStream) (fun t => (t.me.stream 4).packs.map (fun p => (p.idx, p.cause)) == [(1, 0)]) ∧
    after (exec (.streamPrefetch 0 0 5 .inside) sStream) (fun t => (t.me.stream 5).packs.map (fun p => (p.idx, p.cause)) == [(0, SEGV)]) := by decide +kernel
/-- q0 holds seven packs, q1 eight, q4 one. -/
def sQueue : State := stt { thr [(4, 1), (5, 2)] with q := [(0, List.replicate 7 3), (1, List.replicate 8 3), (4, [6])] }
theorem test_witness_queues : (sQueue.me.qreg 0).length < 8 ∧ 8 ≤ (sQueue.me.qreg 1).length ∧ sQueue.me.qreg 5 = [] ∧ Claims.Plain sQueue [1] ∧
    after (exec (.qwg 0 5 4) sQueue) (fun t => t.me.qreg 0 == List.replicate 7 3 ++ [0x20000000000000001]) ∧
    waitAfter (exec (.qwg 1 5 4) sQueue) = some (0x04, 1) ∧ waitAfter (exec (.qrg 5 7) sQueue) = some (0x03, 5) ∧
    gAfter (exec (.qrg 4 7) sQueue) 7 = some 6 ∧ gAfter (exec (.qcnt 1 7) sQueue) 7 = some 8 := by decide +kernel
/-- SEQ at 0 in the scratchpad with one FCPYS word after it; sg0 is local code. -/
def codeSeg : Seg := { base := 0, lim := 0x100000, attr := 0x204 }
def fcpys : W32 := 0x43840001
def sSeq (c : W64) (r : Option Run) : State := { stt { fthr with g := [(4, c)], sg := [(0, codeSeg), (2, locSeg)], run := r } with
  mem := { State.reset.mem with spad := mwriteN [] 4 (bytesOfNat 4 fcpys.toNat) } }
def run1 (k : Nat) (fl : List (Nat × W32)) : Run :=
  { words := [fcpys], count := k, entry := 0, iter := 0, flight := fl, sfu := none, stall := none, held := false }
theorem test_witness_seq : (fetchWords (sSeq 0 none) 0 4 1).toOption = some (sSeq 0 none, [fcpys]) ∧
    (decodeWord fcpys 0 0 0 0).toOption.map (fun i => runWord i && (fOpOf i).isSome) = some true ∧
    entriesUsed (sSeq 3 none) 0 + 1 ≤ 16 ∧ pcAfter (exec (.seq 4 0) (sSeq 0 none)) = some 8 ∧
    after (exec (.seq 4 0) (sSeq 3 none)) (fun t => t.me.run == some (run1 3 []) && t.me.pc == 8 && t.me.runSer == 1) ∧
    trapAfter (exec (.seq 4 0) (sSeq 0x100000000 none)) = some (STREAM, 0x100000000) := by decide +kernel
/-- The thread's word is in flight, so the barrel leaves the pipe to its run. -/
def sRun (r : Run) : State := let s := sSeq 0 (some r); s.setMe { s.me with busy := some 9 }
theorem test_witness_takes_entry : Claims.TakesEntry (sRun (run1 2 [])) (run1 2 []) := by
  constructor <;> decide +kernel
theorem test_witness_run_entries : let r := run1 2 []; let s := sRun r
    runReady s 0 = some r ∧ (pipeCycle s 0).isSome = true ∧ entryTurn s 0 0 = true ∧ Claims.StreamsOff s.me ∧
    (decodeWord (Claims.entryWord r) 0 0 0 0).toOption.map (fun i => runWord i && (fOpOf i).isSome) = some true ∧
    after (exec (.seqEntryIssue 0 0) s) (fun t => t.me.run.map (fun y => (y.entry, y.iter, y.flight)) == some (0, 1, [(6, fcpys)]) &&
      t.me.pc == 0 && (t.core 0).pipeAt == some 0) ∧
    after (exec (.seqEntryComplete 0 0) (sRun { run1 2 [(0, fcpys)] with iter := 1 })) (fun t => t.me.run == some { run1 2 [] with iter := 1 }) ∧
    after (exec (.seqEntryComplete 0 0) (sRun { run1 2 [(0, fcpys)] with iter := 2 })) (fun t => t.me.run == none) := by decide +kernel

/-! Engines -/
def entry (serial : W32) (slot : Nat) (kind : EntryKind) (st : EntryState) : Entry := {
  serial := serial, slot := slot, kind := kind, state := st, released := false, cancelled := false, start := 0, nest := [], next := 0, pipe := [],
  rowsDone := [], fault := none, page := false, bobSlot := none, after := [] }
/-- Core 0 with matrix and copy queues, over a thread. -/
def sEng (t : Thread) (m c : List Entry) : State := { stt t with
  cores := [(0, { Core.reset with asg := true, arch := { CoreArch.reset with mq := { entries := m, enq := 7, ended := 4 }, cq := { entries := c, enq := 3, ended := 2 } } })] }
/-- g12: a tile image at the end of the scratchpad; g13: MRD of rows 0-127; g14 one row too far; g15 a bank number; g16 a copy destination. -/
def ethr : Thread := thr [(12, 0x40000000000F8000), (13, 0x7F00), (14, 0x7F01), (16, 0x4000000000001000), (17, 0x16), (18, 0xF0)]
def sEng1 : State := sEng ethr [entry 7 0 (.mzero 0) .running] []
theorem test_witness_enqueue : sEng1.myCore < 1280 ∧ (Claims.myQueue sEng1 1).entries.length < Claims.places sEng1 ∧ Claims.NoneCancelled sEng1 0 ∧
    (sEng1.me.faultOf 1).unreported = false ∧ Claims.LocalRange sEng1.me (sEng1.me.rg 12) 16384 rightR 0xF8000 ∧ tileSize 7 = 16384 ∧
    Claims.LocalRange sEng1.me (sEng1.me.rg 16) 0x10000 rightW 0x1000 ∧ gAfter (exec (.mzero 20 3) sEng1) 20 = some 0x4000000008 ∧
    gAfter (exec (.mldb 7 14 0 12 0) sEng1) 14 = some 0x4000000008 ∧ trapAfter (exec (.mrd 20 14 16 0) sEng1) = some (FORMAT, 0x7F01) := by decide +kernel
theorem test_witness_params : Claims.paramIs sEng1.me 0xFD800000 0xF8000 ∧ Claims.paramIs sEng1.me 0x70000000 0x70000000 ∧
    (0x70000000 : W32).getLsbD 27 = false ∧ (0x78000000 : W32).getLsbD 27 = true ∧
    trapAfter (exec (.mjobAcc 0 0 20 0x78000000 0 0 0) sEng1) = some (FORMAT, 4) := by decide +kernel
theorem test_witness_copies_allowed : Claims.CopyAllowed 0 (sEng1.me.rg 16) 0 0xFFFF 0x100000 0 ∧ Claims.CopyAllowed 1 15 0 0 1 0 ∧
    Claims.CopyAllowed 2 0x70 0 1 16384 0 ∧ ¬Claims.CopyAllowed 0 0 0 0x10000 1 0 ∧
    trapAfter (exec (.cpyMem 0 16 12 20 0 0x10000 1 0) sEng1) = some (FORMAT, 0) := by
  refine ⟨?_, ?_, ?_, ?_, ?_⟩ <;> decide +kernel
theorem test_witness_full_queue : let s := sEng ethr [entry 6 0 (.mzero 0) .running, entry 7 0 (.mzero 1) .queued] []
    Claims.places s ≤ (Claims.myQueue s 1).entries.length ∧ waitAfter (exec (.mzero 20 3) s) = some (0x0A, 20) := by decide +kernel
/-- A PARK job with a follow credit is released at once. -/
theorem test_witness_follow_credit : let s := sEng { ethr with fcred := 1 } [] []
    after (exec (.mjobAcc 1 0 20 0x70000000 0 0x100000 0) s) (fun t => t.me.fcred == 0 && (t.arch 0).mq.entries.map (·.released) == [true]) := by decide +kernel
/-- Serial 4 has ended and 5 has not; serial 4 faulted, unreported; g12 to g15 hold tokens of slot 0 and one of slot 1. -/
def wthr : Thread := { thr [(12, 0x4000000004), (13, 0x4000000007), (14, 0x4800000004), (15, 0x8000000000000000)] with
  efault := [(1, { fser := 4, fcause := FORMAT, faddr := 0x99, unreported := true })] }
theorem test_witness_engine_waits : let s := sEng wthr [entry 7 0 (.mzero 0) .running] []
    s.me.rg 12 = Claims.token 1 0 4 ∧ s.me.rg 13 = Claims.token 1 0 7 ∧ s.me.rg 14 = Claims.token 1 1 4 ∧ 2 ^ 40 ≤ (s.me.rg 15).toNat ∧
    ((s.arch 0).mq.ended - 4).toNat < 2 ^ 31 ∧ ¬((s.arch 0).mq.ended - 7).toNat < 2 ^ 31 ∧
    waitAfter (exec (.ewait 13 20) s) = some (0x0A, 13) ∧ gAfter (exec (.ewait 12 20) s) 20 = some (0x400000100 + FORMAT.setWidth 64) ∧
    trapAfter (exec (.ewait 12 0) s) = some (ENGINE, 0x99) ∧ gAfter (exec (.ewait 14 20) s) 20 = some 0 ∧ trapAfter (exec (.ewait 15 20) s) = some (FORMAT, s.me.rg 15) ∧
    gAfter (exec (.ecancel 14 20) s) 20 = some 0 ∧ after (exec (.ecancel 13 20) s) (fun t => (t.arch 0).mq.entries == [] && t.me.rg 20 == 1) ∧
    isNext (exec (.efence 0b10000) s) (s.finish s.me 6) ∧ waitAfter (exec (.efence 0b10001) s) = some (0x0A, 0) ∧
    after (exec (.efence 0b00011) s) (fun t => (tget [] t.me.efence 2).contains (1, 7)) := by decide +kernel
theorem test_witness_cancel_with_pipe : let s := sEng wthr [{ entry 7 0 (.mzero 0) .running with pipe := [{ row := 0, ovr := false, vals := [], ofl := false, at_ := 9 }] }] []
    Claims.NoneCancelled s 0 ∧ after (exec (.ecancel 13 20) s) (fun t => (t.arch 0).mq.entries.map (·.cancelled) == [true] && t.me.busy == some 6) := by decide +kernel
/-- MSTAT's word while slot 0's entry runs. -/
theorem test_mstat : after (exec (.mstat 0 20) (sEng wthr [entry 7 0 (.mzero 0) .running] [])) (fun t =>
    (t.me.rg 20).toNat / 4 % 4 == 1 && (t.me.rg 20).toNat / 16 % 8 == 0 && (t.me.rg 20).toNat / 2 ^ 48 == 0) := by decide +kernel

/-! Matrix entries and copies -/
/-- A job over one E43 step: table of one level at 0x100 with count 1, tile at bank 0, s_A = 1. -/
def jobKind : EntryKind := .job true 0 false 0x70000000 0x00100000 0x00100100 0
def tile0 : Tile := { first := 0, fmt := 7, sB := 0x3F800000 }
/-- Core 0 with a matrix head: a level table, and A row and tile elements 0x38 (1.0 in E43). -/
def sMat (e : Entry) : State := { sEng (thr []) [e] [] with
  cores := [(0, { Core.reset with asg := true, arch := { CoreArch.reset with
    mq := { entries := [e], enq := 7, ended := 4 }, tiles := [(0, tile0), (1, tile0)], cim := [(0, 0x38), (128, 0x40)], acc := [(0, 0x40000000), (5, 1)] } })]
  mem := { State.reset.mem with spad := [(0, 0x38), (0x100, 1)] } }
def level1 : NestLevel := { count := 1, astr := 0, sstr := 0, accstr := 0, bankstr := 0 }
theorem test_witness_job_start : let s := sMat (entry 7 0 jobKind .queued); let e := entry 7 0 jobKind .queued
    Claims.Head s 0 1 false e [] ∧ Claims.MayStart s 0 1 false e ∧ Claims.NoOwnStores s 0 e ∧
    (let c := jobCard 0x70000000 0x00100000 0x00100100 0
     (checkCard c).toOption = some () ∧ lockedByte (s.arch 0) 0 c.nbase (16 * c.levels) = none ∧
     (readNest c (spadBytes s.mem 0 c.nbase (16 * c.levels), spadPoisoned s.mem 0 c.nbase (16 * c.levels))).toOption = some [level1] ∧
     (checkNest s 0 c [level1]).toOption = some ()) ∧
    (∀ v, (s.engine 0 2 v).entries = [] ∧ (v ≠ false → (s.engine 0 1 v).entries = [])) ∧
    after (exec (.matrixEntryStart 0 false) s) (fun t => (t.arch 0).mq.entries == [{ e with nest := [level1], state := .running, start := 32 }]) := by
  decide +kernel
theorem test_witness_job_faults : let k := EntryKind.job true 0 false 0x70000000 0x00100000 0x00000100 0; let j := EntryKind.job true 0 false 0x70000000 0x00100000 0x00100101 0
    (jobCard 0x70000000 0x00100000 0x00000100 0).levels = 0 ∧ (jobCard 0x70000000 0x00100000 0x00100101 0).nbase % 16 ≠ 0 ∧
    after (exec (.matrixEntryStart 0 false) (sMat (entry 7 0 k .queued))) (fun t => (t.me.faultOf 1).fcause == FORMAT && (t.arch 0).mq.entries == []) ∧
    after (exec (.matrixEntryStart 0 false) (sMat (entry 7 0 j .queued))) (fun t => (t.me.faultOf 1).fcause == ALIGN && (t.me.faultOf 1).faddr == 0x4000000000000101) ∧
    after (exec (.matrixEntryStart 0 false) (sMat { entry 7 0 jobKind .queued with released := false })) (fun t => t.mem = (sMat (entry 7 0 jobKind .queued)).mem) := by
  decide +kernel
def parkJob : EntryKind := .job true 0 true 0x70000000 0x00100000 0x00100100 0
theorem test_witness_parked_job : (entry 7 0 parkJob .queued).unreleased = true ∧
    after (exec (.matrixEntryStart 0 false) (sMat (entry 7 0 parkJob .queued))) (fun t => (t.arch 0).mq.entries.map (·.state) == [.parked]) := by decide +kernel
/-- One step of 1.0 · 1.0 in column 0 and 1.0 · 2.0 in column 1, and its promotion. -/
theorem test_witness_job_step : let e := { entry 7 0 jobKind .running with nest := [level1] }; let s := sMat e
    Claims.Due s 0 false e ∧ Claims.NoOwnStores s 0 e ∧ e.next < stepCount e.nest ∧ tilePoisoned (s.arch 0) tile0 = false ∧ spadPoisoned s.mem 0 0 (rowBytes 7) = false ∧ Claims.NoLocks s 0 ∧
    after (exec (.jobStepIssue 0 false) s) (fun t => (t.arch 0).mq.entries.map (fun x => (x.next, x.pipe.map (fun p => (p.at_, p.row, p.ovr, p.vals.length)))) ==
      [(1, [(40, 0, true, 128)])]) := by decide +kernel
def promo : Promotion := { row := 0, ovr := true, vals := List.replicate 128 0x3F800000, ofl := false, at_ := 0 }
theorem test_witness_promotion : let e := { entry 7 0 jobKind .running with nest := [level1], next := 1, pipe := [promo] }; let s := sMat e
    promo.at_ ≤ s.pk.array ∧ (s.die 0).relock = none ∧ rowPoisoned (s.arch 0) 0 0 = false ∧
    after (exec (.jobPromotion 0 false) s) (fun t => tget 0 (t.arch 0).acc 0 == 0x3F800000 && tget 0 (t.arch 0).acc 127 == 0x3F800000 &&
      tget 0 (t.arch 0).acc 128 == 0 && (t.arch 0).mq == { entries := [], enq := 7, ended := 7 }) := by decide +kernel
theorem test_witness_mldb : let e := entry 7 0 (.mldb 8 4 0 0x40000000) .running; let s := sMat e
    Claims.Due s 0 false e ∧ Claims.NoOwnStores s 0 e ∧ (List.range (tileSize 8 / 16)).all (fun k => !spadPoisoned s.mem 0 (16 * k) 16) ∧
    after (exec (.matrixEntryStart 0 false) (sMat (entry 7 0 (.mldb 7 0 0 1) .queued))) (fun t => (t.arch 0).tiles == [] && (t.arch 0).mq.entries.map (·.start) == [80]) := by
  decide +kernel
theorem test_witness_mzero_mrd : let e := entry 7 0 (.mzero 0) .running; let r := entry 7 0 (.mrd 0 0 1 false true 0x200) .running
    Claims.Due (sMat e) 0 false e ∧ Claims.NoOwnStores (sMat r) 0 r ∧ rowPoisoned ((sMat r).arch 0) 0 0 = false ∧
    after (exec (.mzeroEnd 0 false) (sMat e)) (fun t => (t.arch 0).acc == [] && (t.arch 0).mq.ended == 7) ∧
    after (exec (.mrdEnd 0 false) (sMat r)) (fun t => spadBytes t.mem 0 0x200 4 == [0, 0, 0, 0x40] && (t.arch 0).acc == []) ∧
    after (exec (.matrixEntryStart 0 false) (sMat (entry 7 0 (.mzero 3) .queued))) (fun t => (t.arch 0).mq.entries.map (·.start) == [128]) ∧
    after (exec (.matrixEntryStart 0 false) (sMat (entry 7 0 (.mrd 0 0 128 false true 0) .queued))) (fun t => (t.arch 0).mq.entries.map (·.start) == [272]) := by
  decide +kernel
/-- A copy of the scratchpad's first 4 KiB to its second, and of one byte to the last one. -/
def copyKind (follow : Bool) (rowb : Nat) (dst : W64) : EntryKind := .copy 0 follow 0x4000000000000000 dst rowb 1 rowb rowb
def sCopy (e : Entry) (m : List Entry) : State := { sEng (thr []) m [e] with mem := { State.reset.mem with spad := [(0, 5), (4095, 6)] } }
theorem test_witness_copy_row : let e := entry 3 0 (copyKind false 4096 0x4000000000001000) .queued; let s := sCopy e []
    Claims.NoLocks s 0 ∧
    Claims.Head s 0 2 false e [] ∧ Claims.MayStart s 0 2 false e ∧ Claims.SegOk s.me 0x4000000000000000 4096 rightR 2 0 ∧
    Claims.SegOk s.me 0x4000000000001000 4096 rightW 2 4096 ∧ s.mem.spadPoison = [] ∧ (s.core 0).storeq = [] ∧ s.me.cmp = [] ∧
    after (exec (.copyRow 0 false .inside) s) (fun t => t.mem.spad == [(0, 5), (4095, 6), (4096, 5), (8191, 6)] &&
      (t.arch 0).cq.entries == [{ e with state := .running, next := 1 }]) := by decide +kernel
theorem test_witness_copy_end : let e := { entry 3 0 (copyKind true 1 0x40000000000FFFFF) .running with next := 1 }
    let f := { entry 3 0 (copyKind false 1 0x40000000000FFFFF) .running with fault := some (SEGV, 7) }
    copyHead (sCopy e []) 0 false = some e ∧ f.page = false ∧ ((sCopy f []).die 0).relock = none ∧
    after (exec (.copyEnd 0 false) (sCopy e [])) (fun t => t.me.fcred == 1 && (t.arch 0).cq == { entries := [], enq := 3, ended := 3 }) ∧
    after (exec (.copyEnd 0 false) (sCopy e [entry 7 0 parkJob .parked])) (fun t => (t.arch 0).mq.entries.map (fun x => (x.released, x.state)) == [(true, .queued)]) ∧
    after (exec (.copyEnd 0 false) (sCopy f [])) (fun t => t.me.faultOf 2 == { fser := 3, fcause := SEGV, faddr := 7, unreported := true }) := by decide +kernel
/-- Urgent work makes the running entry pause; without it the paused entry goes on. -/
theorem test_witness_pause : let e := { entry 7 0 (.mzero 0) .running with start := 9 }; let p := { e with state := .paused }
    let s := (sEng (thr []) [e] []).setEngine 0 1 true { entries := [entry 1 6 (.mzero 1) .queued] }
    (s.engine 0 1 true).entries ≠ [] ∧ ctxStopped (sMat p) 0 = false ∧ ((sMat p).core 0).migrating = none ∧
    after (exec (.enginePause 0 false false) s) (fun t => (t.arch 0).mq.entries == [p]) ∧
    after (exec (.engineResume 0 false false) (sMat p)) (fun t => (t.arch 0).mq.entries == [e]) := by decide +kernel

/-! Groups, tagged words, bobbins, messages -/
/-- A PARKED wait for an instruction, its request received. -/
def waitOf (i : Instr) (kind : Byte) (eval : W64) (sent : Bool) : Wait := {
  kind := kind, eval := eval, deadline := none, remote := none, instr := i, taken := [], sent := sent, aux := 0, reply := none }
def parkedThr (g : Tab W64) (w : Wait) : Thread := { thr g with state := .parked, wait := some w }
def hasReply (t : State) (k : Nat) : Option (List (Reg × W64)) := (Claims.replyOf t k).map (·.g)
/-- Slot 0 of core 0 is a member of group 3; slot 1 waits in that group for phase 5; g12 = 3. -/
def grp (arr ex : BitVec 16) : Group := { state := 2, scope := 0, hcore := 0, exp := ex, phase := 5, arrived := arr }
noncomputable def sGrp (x : Group) : State := { State.reset with
  threads := [(0, { thr [(12, 3), (13, 4), (14, 5), (15, 256), (16, 7)] with gm := [(0, 3)] }),
    (1, parkedThr [(12, 3), (14, 5)] (waitOf (.reedWait 14 12 20) 0x06 3 true))]
  cores := [(0, { Core.reset with asg := true })], parts := [(0, { ctx := .resident, groups := [(3, x)] })] }
theorem test_witness_reeds : let s := sGrp (grp 0 2); let z := sGrp (grp 1 2); let x := Claims.myGroup s 3
    Claims.MayArrive s 12 3 ∧ x.hpkg = s.pk.pkg ∧ x.hcore.toNat = s.myCore ∧ tfind s.me.arrived 3 ≠ some x.phase ∧
    x.arrived + 1 ≠ x.exp - x.done ∧ (Claims.myGroup z 3).arrived + 1 = (Claims.myGroup z 3).exp - (Claims.myGroup z 3).done ∧
    gAfter (exec (.reedArr 12 20) s) 20 = some 5 ∧ waitAfter (exec (.reedSync 12 20) s) = some (6, 3) ∧
    after (exec (.reedArr 12 20) z) (fun t => (Claims.myGroup t 3).phase == 6 && hasReply t 1 == some [(20, 6)]) ∧
    gAfter (exec (.reedSync 12 20) z) 20 = some 6 ∧ gAfter (exec (.reedWait 13 12 20) s) 20 = some 5 ∧
    waitAfter (exec (.reedWait 14 12 20) s) = some (6, 3) ∧ waitAfter (exec (.reedWait 16 12 20) s) = some (6, 3) ∧
    trapAfter (exec (.reedSync 15 20) s) = some (ACCESS, 256) ∧
    trapAfter (exec (.reedArr 13 20) s) = some (ACCESS, 4) := by
  refine ⟨?_, ?_, ?_, ?_, ?_, ?_, ?_, ?_, ?_, ?_, ?_, ?_, ?_, ?_, ?_⟩ <;> decide +kernel
theorem test_witness_reed_waiter : let s := sGrp (grp 1 2); Claims.WaitsOnReed s 1 3 (Claims.myGroup s 3).phase 20 :=
  ⟨by decide +kernel, by decide +kernel, by decide +kernel, _, 12, 14, rfl, rfl, rfl, rfl, rfl, by decide +kernel, by decide +kernel⟩
theorem test_witness_reed_states : let rep := sGrp (grp 0 2)
    let s := rep.setMe { rep.me with arrived := [(3, 5)] }; let far := sGrp { grp 0 2 with hcore := 9 }
    tfind s.me.arrived 3 = some (Claims.myGroup s 3).phase ∧ gAfter (exec (.reedArr 12 20) s) 20 = some 0x4000000000000005 ∧
    gAfter (exec (.reedArr 12 20) (sGrp { grp 0 2 with state := 3 })) 20 = some 0x8000000000000000 ∧
    gAfter (exec (.reedSync 12 20) (sGrp {})) 20 = some 0x2000000000000000 ∧
    gAfter (exec (.reedQry 0 12 20) rep) 20 = some 0x8000000200000000 ∧ gAfter (exec (.reedQry 1 12 20) rep) 20 = some 0x500000000 ∧
    (Claims.myGroup far 3).hpkg = far.pk.pkg ∧ (Claims.myGroup far 3).hcore.toNat ≠ far.myCore ∧ dieReachable far 0 = true ∧
    after (exec (.reedArr 12 20) far) (fun t => after (exec (.reedArrivalMessage (.thread 0 0)) t) (fun u =>
      (Claims.myGroup u 3).arrived == 1 && hasReply u 0 == some [(20, 5)])) ∧
    (0x10007 : W64).extractLsb' 16 10 ≠ rep.pk.pkg ∧
    after (exec (.reedArrivalMessage (.peer 0 3 0x10007 .arr)) rep) (fun t => (t.group 0 3).arrived == 1 && (t.group 0 3).peerIn == [0x10007] &&
      t.out == [.reply 1 0x10007 5 3 [5, 0, 0, 0, 0, 0, 0, 0]]) ∧
    after (exec (.reedArrivalMessage (.peer 0 3 0x10007 .arr)) (sGrp { grp 1 3 with peerIn := [0x10007] })) (fun t =>
      (t.group 0 3).arrived == 1 && t.out == [.reply 1 0x10007 5 3 [5, 0, 0, 0, 0, 0, 0, 0x40]]) ∧
    after (exec (.reedArrivalMessage (.peer 0 3 0x10007 (.wait 5))) rep) (fun t => (t.group 0 3).peerWaits == [(0x10007, 5, false)] && t.out == []) ∧
    after (exec (.reedArrivalMessage (.peer 0 3 0x10007 (.wait 4))) rep) (fun t => t.out == [.reply 1 0x10007 5 3 [5, 0, 0, 0, 0, 0, 0, 0]]) := by
  refine ⟨?_, ?_, ?_, ?_, ?_, ?_, ?_, ?_, ?_, ?_, ?_, ?_, ?_, ?_⟩ <;> decide +kernel
/-- g12: the word at 0x100, g13 = 9; its tag as given; slot 1 waits on it. -/
def tagThr : Thread := { thr [(12, 0x4000000000000100), (13, 9), (14, 0x4000000000000104), (15, 0x6000000000000100)] with
  sg := [(2, { locSeg with attr := 0x21F }), (3, { tileSeg with attr := 0x30F })] }
noncomputable def sTag (full : Bool) (list : List Nat) : State := { stt tagThr with
  mem := { State.reset.mem with spad := [(0x100, 5)], full := if full then [0x20] else [] }
  threads := [(0, tagThr), (1, parkedThr [(12, 0x4000000000000100)] (waitOf (.lde 0 12 20) 0x05 0x4000000000000100 true))]
  cores := [(0, { Core.reset with asg := true, tagWait := list })] }
theorem test_witness_tags : Claims.TagWord (sTag true []) 12 rightR 0x100 ∧ Claims.TagWord (sTag true []) 12 rightW 0x100 ∧ (0x20 ∈ (sTag true []).mem.full) ∧
    Claims.NoReleaseWait (sTag true []) 5 ∧ (tagPlace (sTag false [1]) 1 (.lde 0 12 20)).toOption = some (0, 0x100) ∧ ((sTag false [1]).arch 0).locks = [] ∧
    after (exec (.lde 0 12 20) (sTag true [])) (fun t => t.me.rg 20 == 5 && t.mem.full == []) ∧
    after (exec (.ldf 0 12 20) (sTag true [])) (fun t => t.me.rg 20 == 5 && t.mem.full == [0x20]) ∧
    gAfter (exec (.tagr 0 12 20) (sTag true [])) 20 = some 1 ∧ after (exec (.tagi 0 12 1) (sTag false [])) (fun t => t.mem.full == [0x20]) ∧
    after (exec (.stf 0 13 12) (sTag false [])) (fun t => t.mem.full == [0x20] && t.mem.spad == [(0x100, 9)]) ∧
    waitAfter (exec (.lde 0 12 20) (sTag false [])) = some (5, 0x4000000000000100) ∧ waitAfter (exec (.stf 0 13 12) (sTag true [])) = some (5, 0x4000000000000100) ∧
    after (exec (.stf 0 13 12) (sTag false [1])) (fun t => t.mem.full == [] && hasReply t 1 == some [(20, 9)]) ∧
    trapAfter (exec (.lde 0 14 20) (sTag true [])) = some (ALIGN, 0x4000000000000104) ∧
    trapAfter (exec (.tagr 0 15 20) (sTag true [])) = some (SEGV, 0x6000000000000100) := by
  refine ⟨?_, ?_, ?_, ?_, ?_, ?_, ?_, ?_, ?_, ?_, ?_, ?_, ?_, ?_, ?_, ?_⟩ <;> decide +kernel
theorem test_witness_full_tag_list : let s := sTag false (List.replicate 64 1); Claims.TagWord s 12 rightR 0x100 ∧ ¬(0x20 ∈ s.mem.full) ∧
    after (exec (.lde 0 12 20) s) (fun t => t.me.wait.map (·.aux) == some 256 && (t.core 0).tagWait.length == 64) := by
  refine ⟨?_, ?_, ?_⟩ <;> decide +kernel
/-- Slot 0 of core 0 asks core 9 for the tag of its word 0x100, for the first time and again after a refusal. -/
noncomputable def sTagFar (i : Instr) (aux : Nat) (full : Bool) (list : List Nat) : State := { State.reset with
  threads := [(0, parkedThr [(12, 0x6000000000900100)] { waitOf i 0x05 0x6000000000900100 false with aux := aux })]
  cores := [(0, { Core.reset with asg := true }), (9, { Core.reset with asg := true, tagWait := list })]
  parts := [(0, { ctx := .resident })], dies := [(0, { Die.reset with cyc := 300 })]
  mem := { State.reset.mem with full := if full then [9 * 2 ^ 17 + 0x20] else [] } }
theorem test_witness_tag_messages : let s := sTagFar (.lde 0 12 20) 0 false []; let f := sTagFar (.lde 0 12 20) 256 false (List.replicate 64 8)
    (tagPlace s 0 (.lde 0 12 20)).toOption = some (9, 0x100) ∧ (s.arch 9).locks = [] ∧ dieReachable s 0 = true ∧ (s.core 9).migrating = none ∧ (256 : Nat) ≤ f.cyc 0 ∧
    after (exec (.tagMessage 0 0) s) (fun t => (t.core 9).tagWait == [0]) ∧
    after (exec (.tagRequestRetry 0 0) f) (fun t => (t.thread 0).wait.map (·.aux) == some 556 && (t.core 9).tagWait.length == 64) ∧
    after (exec (.tagMessage 0 0) (sTagFar (.tagr 0 12 20) 0 true [])) (fun t => hasReply t 0 == some [(20, 1)]) := by
  refine ⟨?_, ?_, ?_, ?_, ?_, ?_, ?_, ?_⟩ <;> decide +kernel
/-- Bobbin 3 of core 0 with two slots of 64 bytes at 0x1000. -/
def bob (sl : Tab (BobState × Nat)) : Bobbin := { init := true, base := 0x1000, slotsz := 64, nslot := 2, slots := sl, free := 1, filled := 1 }
noncomputable def sBob (x : Bobbin) : State := { State.reset with
  threads := [(0, thr [(12, 3), (13, 0x4000000000001000), (14, 0x4000000000001001), (15, 0x20001000), (16, 0x20004001000), (17, 16)]),
    (1, parkedThr [] (waitOf (.bbacq 12 20) 0x07 3 true))]
  cores := [(0, { Core.reset with asg := true, arch := { CoreArch.reset with bobbins := [(3, x)] } })], parts := [(0, { ctx := .resident })] }
theorem test_witness_bobbins : let x := bob [(0, (.filled, 9))]; let y := bob [(0, (.reserved, 0))]; let z := bob [(0, (.acquired, 0))]
    Claims.BobbinOk x ∧ Claims.Still x ∧ Claims.BobbinOk y ∧ Claims.Still y ∧ Claims.BobbinOk z ∧ Claims.Still z ∧ (sBob y).me.rg 13 = Claims.slotAddr y 0 ∧
    releaseHeld (sBob y) 0 = false ∧ gAfter (exec (.bbres 12 20) (sBob { x with resi := 1 })) 20 = some 0x4000000000001040 ∧
    gAfter (exec (.bbacq 12 20) (sBob x)) 20 = some 0x4000000000001000 ∧
    after (exec (.bbcom 13 12 20) (sBob y)) (fun t => (t.bobbin 0 3).slot 0 == (.filled, 9) && (t.bobbin 0 3).fili == 1) ∧
    after (exec (.bbcom 13 12 20) (sBob { y with fili := 1 })) (fun t => ((t.bobbin 0 3).slot 0).1 == .committed) ∧
    after (exec (.bbrel 13 12 20) (sBob z)) (fun t => ((t.bobbin 0 3).slot 0).1 == .free && (t.bobbin 0 3).reli == 1) ∧
    after (exec (.bbrel 13 12 20) (sBob { z with reli := 1 })) (fun t => ((t.bobbin 0 3).slot 0).1 == .released) ∧
    gAfter (exec (.bbcom 14 12 20) (sBob y)) 20 = some 1 ∧
    after (exec (.bbcom 13 12 20) (sBob { y with filled := 0, consw := [1] })) (fun t => hasReply t 1 == some [(20, 0x4000000000001000)]) := by
  refine ⟨?_, ?_, ?_, ?_, ?_, ?_, ?_, ?_, ?_, ?_, ?_, ?_, ?_, ?_, ?_, ?_⟩ <;> decide +kernel
theorem test_witness_bobbin_edges : trapAfter (exec (.bbres 17 20) (sBob {})) = some (FORMAT, 16) ∧ trapAfter (exec (.bbacq 12 20) (sBob {})) = some (FORMAT, 3) ∧
    gAfter (exec (.bbinit 15 12 20) (sBob {})) 20 = some 1 ∧ gAfter (exec (.bbinit 16 12 20) (sBob (bob [(0, (.reserved, 0))]))) 20 = some 2 ∧
    after (exec (.bbinit 16 12 20) (sBob {})) (fun t => t.bobbin 0 3 == { init := true, base := 0x1000, slotsz := 64, nslot := 2, free := 2 }) ∧
    waitAfter (exec (.bbres 12 20) (sBob { bob [] with free := 0 })) = some (7, 3) ∧ waitAfter (exec (.bbacq 12 20) (sBob { bob [] with filled := 0 })) = some (7, 3) ∧
    gAfter (exec (.bbqry 12 20) (sBob (bob []))) 20 = some 0x8000200100020000 := by
  refine ⟨?_, ?_, ?_, ?_, ?_, ?_, ?_, ?_⟩ <;> decide +kernel
/-- g12 names slot 1 of core 0, g14 slot 1 of core 9, g15 no thread. -/
noncomputable def sMsg (x : Thread) : State := { State.reset with
  threads := [(0, { thr [(12, 1), (13, 0xAB), (14, 73), (15, 0x4000)] with inbox := [(5, 6)] }), (1, x), (73, x)]
  cores := [(0, { Core.reset with asg := true }), (9, { Core.reset with asg := true })], parts := [(0, { ctx := .resident })] }
theorem test_witness_messages : let s := sMsg (thr []); let w := sMsg (parkedThr [] (waitOf (.mrcv 20) 0x0B 0 true))
    s.me.rg 12 = Claims.tidOf s 0 1 ∧ s.me.rg 14 = Claims.tidOf s 9 1 ∧ Claims.Reachable s 0 0 1 ∧ Claims.Reachable s 0 9 1 ∧ Claims.Reachable w 0 0 1 ∧
    Claims.NoReleaseWait s 5 ∧ (s.thread 1).unanswered = none ∧ s.links.replies = [] ∧ dieReachable s 0 = true ∧ Claims.CanStore s ∧ gAfter (exec (.msnd 13 15 20) s) 20 = some 2 ∧
    after (exec (.msnd 13 12 20) s) (fun t => (t.thread 1).inbox == [(0xAB, 0)] && t.me.rg 20 == 0) ∧
    gAfter (exec (.msnd 13 12 20) (sMsg { thr [] with inbox := List.replicate 16 (0, 0) })) 20 = some 1 ∧
    after (exec (.msnd 13 12 20) w) (fun t => hasReply t 1 == some [(20, 0xAB), (21, 0)]) ∧
    after (exec (.msnd 13 14 20) s) (fun t => after (exec (.inboxDelivery 9 1 (.sender 0 0)) t) (fun u => (u.thread 73).inbox == [(0xAB, 0)] && hasReply u 0 == some [(20, 0)])) ∧
    after (exec (.msnd 13 14 0) s) (fun t => (t.core 0).storeq.map (fun e => (e.place, e.op)) == [(.inbox 73, .message)]) ∧
    after (exec (.mrcv 20) s) (fun t => t.me.rg 20 == 5 && t.me.rg 21 == 6 && t.me.inbox == []) ∧ gAfter (exec (.mpoll 20) s) 20 = some 1 := by
  refine ⟨?_, ?_, ?_, ?_, ?_, ?_, ?_, ?_, ?_, ?_, ?_, ?_, ?_, ?_, ?_, ?_, ?_, ?_⟩ <;> decide +kernel
theorem test_witness_message_edges : waitAfter (exec (.mrcv 20) (st [])) = some (0x0B, 0) ∧ gAfter (exec (.msnd 13 12 20) (sMsg Thread.reset)) 20 = some 2 ∧
    after (exec (.inboxDelivery 9 1 (.peer 0 7 8 none)) (sMsg (thr []))) (fun t => (t.thread 73).inbox == [(7, 8)]) := by
  refine ⟨?_, ?_, ?_⟩ <;> decide +kernel

/-! CSRs, traps, handlers, rings -/
theorem test_witness_csrs : let s := st [(12, 0x1FFFF), (13, 0xE000)]; (Claims.readOnlyCsrs.map (·.1)).Nodup ∧ s.me.run = none ∧
    gAfter (exec (.csrr 0x011 20) s) 20 = some 0x80000000 ∧ trapAfter (exec (.csrw 0x020 12 20) s) = some (ILLOP, 0) ∧
    after (exec (.csrw 0x010 12 20) s) (fun t => t.me.fcsr == 0x187F && t.me.rg 20 == 0) ∧ trapAfter (exec (.csrr 0x0FF 20) s) = some (ILLOP, 0) ∧
    after (exec (.csrs 0x012 12 20) s) (fun t => t.me.fqhi == 0x7FFFFFFF && t.me.rg 20 == 0x7FFFFFFF) ∧
    after (exec (.csrc 0x014 13 20) s) (fun t => t.me.wlim == 0) ∧ trapAfter (exec (.csrr 0x100 20) s) = some (PRIV, 0) ∧
    trapAfter (exec (.csrr 0x200 20) s) = some (PRIV, 0) ∧ (fcsrWrite 0x2000 0xE001) = 0x2001 ∧ (fcsrWrite 0x2000 0x8000) = 0x8000 := by
  refine ⟨?_, ?_, ?_, ?_, ?_, ?_, ?_, ?_, ?_, ?_, ?_, ?_⟩ <;> decide +kernel
/-- Slot 7 of a core serves a trap of slot 0, which stopped with cause 0x0A at pc 8. -/
def rec0 : TrapRecord := { slot := 0, epc := 8, cause := 0x0A, wkind := 0, eval := 7, seq := none, twin := false }
def sHand (core : Nat) : State := { State.reset with
  threads := [(core * 8, { thr [(1, 11)] with state := .trapped, pc := 8, f := [(2, 5)], ix := [(1, 6)], bound := false, deferred := [{ kind := 1, word := 3, tid := 4, reply := none }] }),
    (core * 8 + 7, { thr [(12, 0x77)] with bound := false })]
  cores := [(core, { Core.reset with asg := true, hevecPend := some 0x300, arch := { CoreArch.reset with serving := some rec0, epc := 8, evec := 0x100 } })]
  parts := [(0, { ctx := .resident })], cur := core * 8 + 7 }
theorem test_witness_views : let s := sHand 0; 1 ≤ modeOf s.cur ∧ slotOf s.cur = 7 ∧ (s.arch 0).serving ≠ none ∧ keyOf 0 (s.arch 0).eslot.toNat ≠ s.cur ∧ s.me.run = none ∧
    gAfter (exec (.csrr 0x141 20) s) 20 = some 11 ∧ gAfter (exec (.csrr 0x164 20) s) 20 = some 5 ∧ gAfter (exec (.csrr 0x1C1 20) s) 20 = some 6 ∧
    after (exec (.csrw 0x141 12 20) s) (fun t => (t.thread 0).rg 1 == 0x77 && t.me.rg 20 == 11) ∧
    after (exec (.csrw 0x100 12 20) s) (fun t => (t.arch 0).epc == 0x74) ∧ after (exec (.csrw 0x106 12 20) s) (fun t => (t.arch 0).lockmax == 256) ∧
    trapAfter (exec (.csrw 0x101 12 20) s) = none ∧ trapAfter (exec (.csrr 0x200 20) s) = none := by
  refine ⟨?_, ?_, ?_, ?_, ?_, ?_, ?_, ?_, ?_, ?_, ?_, ?_, ?_⟩ <;> decide +kernel
theorem test_witness_machine_registers : let s := sHand 1280; let m := s.setDie 0 { s.die 0 with midx := 16 }
    modeOf s.cur = 2 ∧ (s.die 0).midx.toNat < 16 ∧ 16 ≤ (m.die 0).midx.toNat ∧
    after (exec (.csrw 0x204 12 20) s) (fun t => (t.part 0).codeb == 0x77) ∧ after (exec (.csrw 0x202 12 20) s) (fun t => (t.part 0).proot == 1) ∧
    after (exec (.csrw 0x200 12 20) s) (fun t => (t.die 0).midx == 0x77) ∧ after (exec (.csrw 0x204 12 20) m) (fun t => (t.part 0).codeb == 0 && t.me.rg 20 == 0) ∧
    after (exec (.registerWrite (.mcsr 0 0x208 15) 9) s) (fun t => (t.part 15).htb == 9) := by
  refine ⟨?_, ?_, ?_, ?_, ?_, ?_, ?_, ?_⟩ <;> decide +kernel
theorem test_witness_traps : let s := st [(12, 0x55)]; let h := sHand 0; slotOf s.cur ≠ 7 ∧ s.me.twl = false ∧ s.me.twt = false ∧ slotOf h.cur = 7 ∧
    (h.die (dieOf h.myCore)).events.length < 4096 ∧ trapAfter (exec (.trap 12) s) = some (SWTRAP, 0x55) ∧
    after (exec (.trap 12) h) (fun t => t.me.state == .trapped && (t.arch 0).escalated && ((t.die 0).events.map (fun r => r.w0.toNat % 256)) == [3]) ∧
    trapAfter (exec (.notAnInstruction 0 true 2) s) = some (PRIV, 8) ∧ trapAfter (exec .fetchSegmentFault s) = some (SEGV, 0) ∧
    trapAfter (exec .eret s) = some (PRIV, 0) := by
  refine ⟨?_, ?_, ?_, ?_, ?_, ?_, ?_, ?_, ?_, ?_⟩ <;> decide +kernel
theorem test_witness_handler : let s := sHand 0; (s.arch 0).serving = some rec0 ∧ (s.thread 0).state = .trapped ∧ Claims.Lone s 0 0 ∧ rec0.slot < 7 ∧ releaseHeld s s.cur = false ∧ rec0.twin = false ∧
    (∀ m ∈ (s.thread 0).deferred, m.reply = none ∧ m.kind ≠ 6) ∧
    after (exec .eret s) (fun t => (t.thread 0).state == .ready && (t.thread 0).pc == 8 && (t.thread 0).inbox == [(3, 4)] && t.me.state == .parked && (t.arch 0).evec == 0x300) ∧
    after (exec .kill s) (fun t => (t.thread 0).killed == some 0x0A && (t.thread 0).g == (s.thread 0).g && (t.thread 0).inbox == [] && t.me.state == .parked) ∧
    after (exec (.escalKillServed 0) s) (fun t => (t.thread 0).killed == some 0x0A && (t.arch 0).serving == none) ∧
    (List.range 7).all (fun k => k == 0 || ((s.thread (keyOf 0 k)).state == .empty && !(s.thread (keyOf 0 k)).twt)) ∧
    after (exec (.escalKillAll 0) s) (fun t => (t.thread 0).killed == some 0x0A && !(t.arch 0).escalated) := by
  refine ⟨?_, ?_, ?_, ?_, ?_, ?_, ?_, ?_, ?_, ?_, ?_, ?_⟩ <;> decide +kernel
/-- A thread that trapped for its run while it waited goes back to its wait. -/
theorem test_witness_eret_to_a_wait : let b := sHand 0; let w := waitOf (.mrcv 20) 0x0B 0 true
    let s := b.setThread 0 { b.thread 0 with wait := some w, deferred := [] }
    let h := s.setCore 0 { s.core 0 with storeq := [{ oldest (.spad 0 0) with slot := 7 }] }
    releaseHeld s s.cur = false ∧ (s.thread 0).state = .trapped ∧ w.reply = none ∧ releaseHeld h h.cur = true ∧ isNext (exec .eret h) h ∧
    after (exec .eret s) (fun t => (t.thread 0).state == .parked && (t.thread 0).wait == some w && (t.thread 0).pc == 8 && t.me.state == .parked) := by
  refine ⟨?_, ?_, ?_, ?_, ?_, ?_⟩ <;> decide +kernel
theorem test_witness_handler_start : let b := st []; let s := b.setArch 0 { b.arch 0 with trapq := [rec0], evec := 0x40 }
    Claims.HandlerIdle s 0 ∧ (s.arch 0).serving = none ∧ (s.arch 0).escalated = false ∧ slotStores s 0 0 = false ∧ (s.thread 7).pse = false ∧
    after (exec (.handlerStart 0) s) (fun t => (t.thread 7).pc == 0x40 && (t.thread 7).state == .ready && (t.arch 0).ecause == 0x0A && (t.arch 0).eval == 7) := by
  refine ⟨?_, ?_, ?_, ?_, ?_, ?_⟩ <;> decide +kernel
def ev (n : W64) : EventRecord := { w0 := n, stim := 2, data0 := 3, data1 := 4 }
def pgr : PagerRecord := { rid := 5, clu := 3, part := 2, dva := 0x200000, kind := 1, acc := 2, src := 4, joined := [], listed := true }
def sRings (n : Nat) : State := { State.reset with dies := [(1, { Die.reset with events := [ev 1, ev 9], evRead := n, pagers := [pgr], pgRead := n })] }
theorem test_witness_rings : after (exec (.evpop 1) (sRings 3)) (fun t => (t.die 1).events == [ev 9] && t.out == [.popped 1 4]) ∧
    after (exec (.evpop 1) (sRings 0)) (fun t => (t.die 1).evRead == 1 && t.out == [.popped 1 1]) ∧
    after (exec (.evpop 1) State.reset) (fun t => t.out == [.popped 1 0]) ∧
    after (exec (.pgpop 1) (sRings 1)) (fun t => t.out == [.popped 1 0x0102000300000005]) ∧
    after (exec (.pgpop 1) (sRings 3)) (fun t => t.out == [.popped 1 0] && (t.die 1).pagers.map (·.listed) == [false]) ∧
    State.reset.dies = [] ∧ ((sRings 3).die 1).pagers.find? (·.listed) ≠ none ∧ (State.reset.die 1).pagers.find? (·.listed) = none ∧
    after (exec (.evstatClear 1 0) (sRings 0)) (fun t => (t.die 1).evovf == 0) := by
  refine ⟨?_, ?_, ?_, ?_, ?_, ?_, ?_, ?_, ?_⟩ <;> decide +kernel

/-! Thread control, waits, nests, locks, remote accesses -/
noncomputable def sWake (x : Thread) : State := { st [(12, 1), (13, 0x20000), (14, 9), (15, 8)] with threads := [(0, thr [(12, 1), (13, 0x20000), (14, 9), (15, 8)]), (1, x)] }
noncomputable def sleeper (aux : Nat) : Thread := parkedThr [] { waitOf (.sleep 12 20) 0x0E 0 true with aux := aux }
theorem test_witness_sleep_and_wake : let s := sWake (thr []); let z := sWake (sleeper 0); let w : Wait := { waitOf (.sleep 12 20) 0x0E 0 true with aux := 0 }
    s.me.rg 12 = Claims.tidOf s 0 1 ∧ (s.thread 1).state ≠ .empty ∧ s.partOf 0 = s.partOf s.myCore ∧ Claims.NoReleaseWait s 5 ∧ Claims.WaitsFor z 1 w ∧ (z.thread 1).wait = some w ∧
    after (exec (.wake 12 20) s) (fun t => (t.thread 1).wakef && (t.thread 1).wakeSc == 1 && t.me.rg 20 == 0) ∧ after (exec (.wake 12 20) z) (fun t => hasReply t 1 == some [(20, 0)]) ∧
    gAfter (exec (.wake 12 20) (sWake Thread.reset)) 20 = some 1 ∧ gAfter (exec (.wake 13 20) s) 20 = some 3 ∧ gAfter (exec (.wake 15 20) s) 20 = some 1 ∧
    waitAfter (exec (.sleep 14 20) s) = some (0x0E, 0) ∧ after (exec (.sleep 14 20) s) (fun t => t.me.wait.map (fun w => (w.aux, w.deadline)) == some (9, none)) ∧
    gAfter (exec (.sleep 14 20) (stt { thr [(20, 7)] with wakef := true })) 20 = some 0 ∧
    after (exec (.sleepTimeout 0 1) (let s := sWake (sleeper 5); { s with pk := { s.pk with tim := 5 } })) (fun t => hasReply t 1 == some [(20, 1)]) := by
  refine ⟨?_, ?_, ?_, ?_, ?_, ?_, ?_, ?_, ?_, ?_, ?_, ?_, ?_, ?_, ?_⟩ <;> decide +kernel
theorem test_witness_wake_across : let s := { sWake (thr []) with cores := [(0, { Core.reset with asg := true })] }
    let t : State := { (s.setThread 8 (thr [])) with cores := [(0, { Core.reset with asg := true }), (1, { Core.reset with part := 3 })] }
    t.me.rg 15 = Claims.tidOf t 1 0 ∧ (t.thread 8).state ≠ .empty ∧ t.partOf 1 ≠ t.partOf t.myCore ∧ gAfter (exec (.wake 15 20) t) 20 = some 2 := by
  refine ⟨?_, ?_, ?_, ?_⟩ <;> decide +kernel
/-- An unbound thread, alone on its core. -/
def lone : Thread := { thr [(12, 5)] with bound := false, ck := true, pend := some (12, 6) }
theorem test_witness_thread_ends : let s := stt lone; let k := stt { lone with killed := some 1, state := .parked }
    Claims.Lone s 0 0 ∧ releaseHeld s 0 = false ∧ s.me.pend = some (12, 6) ∧ s.me.ck = true ∧ (k.thread (keyOf 0 0)).killed ≠ none ∧
    after (exec .kexit s) (fun t => t.me == Thread.reset) ∧ after (exec (.chk 12) s) (fun t => t.me.bad == [(12, 6)] && t.me.pend == none) ∧
    after (exec (.scrubComplete 0 0) k) (fun t => (t.thread 0).state == .empty && (t.thread 0).g == []) ∧
    hasEntries (sEng lone [entry 7 0 (.mzero 0) .running] []) 0 0 = true ∧ isNext (exec (.scrubComplete 0 0) s) s := by
  refine ⟨?_, ?_, ?_, ?_, ?_, ?_, ?_, ?_, ?_, ?_⟩ <;> decide +kernel
/-- Slot 0 of cores 0 and 1 run the same kernel; core 1's waits at FOLLOW. -/
noncomputable def sGang (x y : Thread) (cur : Nat) : State := { State.reset with
  threads := [(0, x), (8, y)]
  cur := cur
  cores := [(0, { Core.reset with asg := true }), (1, { Core.reset with asg := true })], parts := [(0, { ctx := .resident })] }
theorem test_witness_twins : let s := st [(12, 5)]; let l := stt { thr [] with twl := true }
    s.me.twl = false ∧ s.me.twt = false ∧ s.followerOf s.cur = none ∧ slotOf s.cur % 2 = 0 ∧ slotOf s.cur < 6 ∧ (s.thread (keyOf 0 1)).state = .empty ∧ l.me.cmp = [] ∧
    after (exec (.twin 20) s) (fun t => t.me.twl && (t.thread 1).twt && (t.thread 1).g == t.me.g && (t.thread 1).pc == 4) ∧
    gAfter (exec (.twin 20) (sWake (thr []))) 20 = some 1 ∧ gAfter (exec (.twin 20) { sWake (thr []) with cur := 1 }) 20 = some 2 ∧ gAfter (exec (.twin 20) l) 20 = some 3 ∧
    gAfter (exec (.untwin 20) s) 20 = some 1 ∧ after (exec (.untwin 20) l) (fun t => !t.me.twl && t.thread 1 == Thread.reset) := by
  refine ⟨?_, ?_, ?_, ?_, ?_, ?_, ?_, ?_, ?_, ?_, ?_, ?_, ?_⟩ <;> decide +kernel
theorem test_witness_followers : let s := sGang (thr []) { thr [] with det := true } 8; let w := waitOf (.follow 20) 0x0F 0 true
    let g := sGang (thr []) (parkedThr [] w) 0; let f := sGang (thr []) { thr [] with state := .following, wlim := 3 } 8
    Claims.MayFollow s 0 ∧ waitAfter (exec (.follow 20) s) = some (0x0F, 0) ∧ waitAfter (exec (.join 20) s) = some (0x0F, 0) ∧ predecessor (st []).cur = none ∧
    gAfter (exec (.follow 20) (st [])) 20 = some 2 ∧ gAfter (exec (.join 20) (st [])) 20 = some 2 ∧ gAfter (exec (.detach 20) (st [])) 20 = some 1 ∧
    gAfter (exec (.follow 20) (stt { thr [] with twl := true })) 20 = some 3 ∧
    after (exec (.detach 20) f) (fun t => t.me.state == .ready && t.me.det) ∧ gAfter (exec (.follow 20) f) 20 = some 0 ∧
    follower 0 = some 8 ∧ Claims.WaitsFor g 8 w ∧ ((meetPoint g 0 0).thread 8).state = .following ∧ ((meetPoint g 0 0).thread 8).pc = 4 := by
  refine ⟨?_, ?_, ?_, ?_, ?_, ?_, ?_, ?_, ?_, ?_, ?_, ?_, ?_, ?_⟩ <;> decide +kernel
/-- Slot 1 of core 0 waits; its reply, its deadline or its timeout ends the wait. -/
noncomputable def wld (r : Option Reply) : Wait := { waitOf (.ld 0 12 20) 0x01 0x70 true with deadline := some 5, remote := some 5, reply := r }
noncomputable def sWait (w : Wait) (tim : Nat) : State := let s := sWake (parkedThr [] w); { s with pk := { s.pk with tim := tim } }
theorem test_witness_replies : let s := sWait (wld none) 0; let wakes (r : Reply) := exec (.parkWake 0 1) (sWait (wld (some r)) 0)
    Claims.WaitsFor s 1 (wld none) ∧ Claims.NoFollower s 1 ∧ sfuOf (wld none).instr = none ∧
    after (wakes (Reply.reg 20 9)) (fun t => (t.thread 1).rg 20 == 9 && (t.thread 1).pc == 4 && (t.thread 1).state == .ready) ∧
    after (wakes Reply.again) (fun t => (t.thread 1).pc == 0 && (t.thread 1).state == .ready) ∧
    after (wakes (Reply.fail ACCESS 7)) (fun t => (t.thread 1).state == .trapped && (t.arch 0).trapq.map (fun r => (r.cause, r.eval)) == [(ACCESS, 7)]) := by
  refine ⟨?_, ?_, ?_, ?_, ?_, ?_⟩ <;> decide +kernel
theorem test_witness_poisoned_reply : let s := sGang lone Thread.reset 0; let t := s.setThread 0 { lone with state := .parked, wait := some (wld none) }
    Claims.Lone t 0 0 ∧ Claims.WaitsFor t 0 (wld none) ∧
    after (exec (.parkWake 0 0) (t.setThread 0 { lone with state := .parked, wait := some (wld (some { Reply.plain with kill := true })) })) (fun u => (u.thread 0).killed == some POISON) := by
  refine ⟨?_, ?_, ?_⟩ <;> decide +kernel
theorem test_witness_limits : let s := sWait (wld none) 5; let m := sWait { waitOf (.msnd 13 12 20) 0x01 1 true with remote := some 5 } 5
    Claims.ContextLive s 0 ∧ (s.thread 1).run = none ∧ (5 : Nat) ≤ s.pk.tim ∧
    after (exec (.waitLimitExpiry 0 1) s) (fun t => (t.arch 0).trapq.map (fun r => (r.cause, r.wkind, r.eval)) == [(WAITLIM, 1, 0x70)]) ∧
    isNext (exec (.waitLimitExpiry 0 1) (sWait (wld none) 4)) (sWait (wld none) 4) ∧
    after (exec (.remoteAccessTimeout 0 1) s) (fun t => (t.arch 0).trapq.map (fun r => (r.cause, r.eval)) == [(LINKDOWN, 0x70)]) ∧
    after (exec (.remoteAccessTimeout 0 1) m) (fun t => hasReply t 1 == some [(20, 4)]) ∧
    after (exec (.instructionComplete 0 0) (stt { thr [] with busy := some 0 })) (fun t => t.me.busy == none && t.me.state == .ready) ∧
    isNext (exec (.instructionComplete 0 0) (stt { thr [] with busy := some 1 })) (stt { thr [] with busy := some 1 }) := by
  refine ⟨?_, ?_, ?_, ?_, ?_, ?_, ?_, ?_, ?_⟩ <;> decide +kernel
/-- Core 0 with locks and a waiter in slot 1. -/
def lock0 : Lock := { slot := 0, lo := 0x1000, hi := 0x1080, start := 0 }
noncomputable def sLock (ls : List Lock) (q : List Nat) (cyc : Nat) : State := { State.reset with
  threads := [(0, thr [(12, 0x4000000000001010), (13, 64), (14, 0x4000000000100000), (15, 0x4000000000001000)]), (1, parkedThr [(12, 0x4000000000001010), (13, 64)] (waitOf (.splk 13 12 20) 0x0C 0 true))]
  dies := [(0, { Die.reset with cyc := cyc })]
  cores := [(0, { Core.reset with asg := true, arch := { CoreArch.reset with locks := ls, lockq := q } })], parts := [(0, { ctx := .resident })] }
theorem test_witness_locks : let s := sLock [] [] 0; let o := sLock [{ lock0 with slot := 2 }] [] 0; let m := sLock [lock0] [1] 0
    Claims.SplRange s 12 64 0x1010 ∧ Claims.SplRange s 15 1 0x1000 ∧ Claims.SplRange { m with cur := 1 } 12 ((m.thread 1).rg 13).toNat 0x1010 ∧
    Claims.WaitsFor m 1 (waitOf (.splk 13 12 20) 0x0C 0 true) ∧
    after (exec (.splk 13 12 20) s) (fun t => (t.arch 0).locks == [lock0] && t.me.rg 20 == 0) ∧ (waitAfter (exec (.splk 13 12 20) o)).map (·.1) = some 0x0C ∧
    gAfter (exec (.splk 13 12 20) (sLock [lock0] [] 0)) 20 = some 2 ∧
    gAfter (exec (.splk 13 12 20) (sLock (List.replicate 4 { lock0 with slot := 3, lo := 0, hi := 64 }) [] 0)) 20 = some 1 ∧
    trapAfter (exec (.splk 13 14 20) s) = some (SEGV, 0x4000000000100000) ∧ gAfter (exec (.spul 15 20) s) 20 = some 2 ∧
    after (exec (.spul 15 20) (sLock [lock0] [] 0)) (fun t => (t.arch 0).locks == [] && t.me.rg 20 == 0) ∧
    after (exec (.spul 15 20) m) (fun t => (t.arch 0).locks == [{ lock0 with slot := 1 }] && (t.arch 0).lockq == [] && hasReply t 1 == some [(20, 0)]) := by
  refine ⟨?_, ?_, ?_, ?_, ?_, ?_, ?_, ?_, ?_, ?_, ?_, ?_⟩ <;> decide +kernel
theorem test_witness_lock_timeout : let s := sLock [lock0] [] 70000
    (s.arch 0).locks = [lock0] ∧ (s.core 0).tagWait = [] ∧ lock0.start + (s.arch 0).lockmax.toNat < s.cyc 0 ∧ Claims.ContextLive s 0 ∧ (s.die 0).events.length < 4096 ∧
    after (exec (.lockTimeout 0 0x1000) s) (fun t => (t.arch 0).locks == [] && (t.arch 0).lost == [(0, 0x1000)] && t.me.lkx && (t.die 0).events.length == 1) := by
  refine ⟨?_, ?_, ?_, ?_, ?_, ?_⟩ <;> decide +kernel
theorem test_witness_follower_limit : let f : Thread := { thr [] with state := .following, wlim := 3 }; let s := sGang (thr []) f 8
    let p := sGang { thr [] with state := .dropped } f 8; let q := { p with pk := { p.pk with tim := 3 } }
    predecessor 8 = some 0 ∧ f.fwdTick + f.wlim.toNat ≤ q.pk.tim ∧ (q.thread 0).state = .dropped ∧ (s.thread 8).fwd = [] ∧
    after (exec (.followerWaitExpiry 1 0) q) (fun t => t.thread 8 == { f with state := .ready, det := true }) := by
  refine ⟨?_, ?_, ?_, ?_, ?_⟩ <;> decide +kernel
/-- A descriptor of two levels, 3 and 2, at DVA 0, which core 0 homes; page 0x1000 is homed elsewhere. -/
def leafN : Leaf := { word := 0x40031F, size := 4096, entry := 0x8000 }
def descRam (next all : Byte) : Mem := (if next = 0 then [] else [(0x10000, next)]) ++ [(0x10008, all), (0x10010, 3), (0x10014, 2), (0x10024, 2), (0x10026, 1), (0x10028, 1)]
noncomputable def sNest (t : Thread) (next all : Byte) : State := { stt t with
  clusters := [(0, { Cluster.reset with tlb := [(tlbKey 0 0 4096, leafN), (tlbKey 0 0x1000 4096, leafN)] })]
  mem := { State.reset.mem with ram := descRam next all } }
def nthr : Thread := { thr [(12, 0x2000000000000000), (13, 0x2000000000001000), (14, 5)] with itdsc := 0x2000000000000000, itcur := 4, itend := 6, itN := [3, 2] }
theorem test_witness_nests : let s := sNest nthr 0 1; let p := sNest { nthr with state := .parked, wait := some (waitOf (.iter 5 12) 0x10 0x2000000000000000 true) } 0 6
    Claims.NestAt s 0 (s.me.rg 12) 0 0x10000 0x40031F ∧ Claims.NestAt s 0 (s.me.rg 13) 0x1000 0x10000 0x40031F ∧ Claims.NoReleaseWait s 4 ∧
    homedIn s 0 0 0 0x10000 0x40031F = true ∧ homedIn s 0 0 0x1000 0x10000 0x40031F = false ∧ Claims.field s 0x10000 36 1 = 2 ∧ Claims.product s 0x10000 2 = 6 ∧
    (∀ i < 2, Claims.bound s 0x10000 i ≠ 0) ∧ s.me.itN.length ≤ 5 ∧ (∀ n ∈ s.me.itN, n ≠ 0) ∧ Claims.NestAt p 0 ((p.thread 0).rg 12) 0 0x10000 0x40031F ∧ tfind p.mem.records 0x400 = none := by
  refine ⟨?_, ?_, ?_, ?_, ?_, ?_, ?_, ?_, ?_, ?_, ?_, ?_⟩ <;> decide +kernel
theorem test_nest_and_iter : let s := sNest nthr 0 1; let p (next : Byte) := sNest { nthr with state := .parked, wait := some (waitOf (.iter 5 12) 0x10 0x2000000000000000 true) } next 6
    after (exec (.nest 12 20) s) (fun t => mreadN t.mem.ram 0x10008 8 == [6, 0, 0, 0, 0, 0, 0, 0] && t.me.rg 20 == 0) ∧
    waitAfter (exec (.nest 13 20) s) = some (1, 0x2000000000001000) ∧
    after (exec (.iter 5 12) s) (fun t => t.me.pc == 20 && t.me.itcur == 5 && [0, 1, 2].map (tget 0 t.me.ix ·) == [1, 1, 0]) ∧
    waitAfter (exec (.iter 5 12) (sNest { nthr with itcur := 6 } 0 1)) = some (0x10, 0x2000000000000000) ∧
    after (exec (.homeAtomic 0 0) (p 0)) (fun t => mread t.mem.ram 0x10000 == 3 &&
      (Claims.replyOf t 0).map (fun r => (r.pc, r.itN)) == some (some 20, some [3, 2])) ∧
    after (exec (.homeAtomic 0 0) (p 6)) (fun t => mread t.mem.ram 0x10000 == 6 && (Claims.replyOf t 0).map (·.pc) == some none) := by
  refine ⟨?_, ?_, ?_, ?_, ?_, ?_⟩ <;> decide +kernel
/-- A load from core 9's scratchpad, an atomic at a home, a staging copy written back. -/
def rthr : Thread := thr [(12, 0x6000000000900100), (13, 7), (14, 0x2000000000000008)]
noncomputable def sRemote (w : Option Wait) : State := { sNest (match w with | some w => { rthr with state := .parked, wait := some w } | none => rthr) 0 1 with
  cores := [(0, { Core.reset with asg := true }), (9, { Core.reset with asg := true })] }
theorem test_witness_remote : let s := sRemote none; let w := waitOf (.atomAddD 4 0 13 14 20) 0x01 0x2000000000000008 true; let p := sRemote (some w)
    Claims.NoStores s ∧ Claims.InSegment s 0 12 ∧ Claims.SegOk s.me (s.me.rg 12) 8 rightR 3 0x900100 ∧ tileAllowed s 0 9 = true ∧ forwardCore s s.me.kid 9 = 9 ∧
    spadPoisoned s.mem 9 0x100 8 = false ∧ (s.core 9).migrating = none ∧ acquirePending p 0 = false ∧ after (exec (.ld 0 12 20) s) (fun t => after (exec (.tileAccessMessage 0 0) t) (fun u => hasReply u 0 == some [(20, 0)])) ∧
    Claims.WaitsFor p 0 w ∧ Claims.GlobalAt p 0 ((p.thread 0).rg 14) 8 rightR 5 8 0x10008 0x40031F ∧ Claims.NoCopies p 0 ∧
    dieReachable p (dieOf (homeOf p 0 8 0x10008 0x40031F)) = true ∧
    after (exec (.homeAtomic 0 0) p) (fun t => mread t.mem.ram 0x10008 == 8 && hasReply t 0 == some [(20, 1)]) := by
  refine ⟨?_, ?_, ?_, ?_, ?_, ?_, ?_, ?_, ?_, ?_, ?_, ?_, ?_, ?_⟩ <;> decide +kernel
theorem test_witness_external_replies : let p := sRemote (some (wld none)); let m := sRemote (some { waitOf (.msnd 13 12 20) 0x01 1 true with remote := some 5 })
    let h := sRemote (some { wld none with eval := 0xA000000000000000 })
    Claims.WaitsFor p 0 (wld none) ∧ (∀ e ∈ (p.core 0).storeq, e.sent = false) ∧ ((h.thread 0).seg 5).attr.toNat / 256 = 5 ∧
    after (exec (.remoteReplyArrival 0 0 (.bytes [1, 2, 0, 0, 0, 0, 0, 0])) p) (fun t => hasReply t 0 == some [(20, 0x201)]) ∧
    after (exec (.remoteReplyArrival 0 0 .refused) p) (fun t => (Claims.replyOf t 0).map (·.trap) == some (some (ACCESS, 0x70))) ∧
    after (exec (.remoteReplyArrival 0 0 .poison) p) (fun t => (Claims.replyOf t 0).map (·.kill) == some true) ∧
    after (exec (.remoteReplyArrival 0 0 (.status 3)) m) (fun t => hasReply t 0 == some [(20, 3)]) ∧
    after (exec (.pcieCompletionTimeout 0 0) h) (fun t => (Claims.replyOf t 0).map (·.trap) == some (some (ACCESS, 0xA000000000000000))) := by
  refine ⟨?_, ?_, ?_, ?_, ?_, ?_, ?_, ?_⟩ <;> decide +kernel
noncomputable def sWb : State := { State.reset with clusters := [(3, { Cluster.reset with wb := [{ key := 64, copy := staged 0xFF 1 0 }], staging := [(65, staged 0xFF 3 0)] })] }
theorem test_witness_write_back : let s := sWb
    (s.cluster 3).wb.length = 1 ∧ tfind (s.cluster 3).staging 65 = some (staged 0xFF 3 0) ∧ homeUp s (staged 0xFF 1 0) = true ∧ dieReachable s (dieOfCluster 3) = true ∧
    after (exec (.writebackMerge 3 0) s) (fun t => t.mem.ram == [(0x203000, 7)] && (t.cluster 3).wb.isEmpty) ∧
    after (exec (.stagingEviction 3 65) s) (fun t => (t.cluster 3).wb.length == 2 && (t.cluster 3).staging.isEmpty) := by
  refine ⟨?_, ?_, ?_, ?_, ?_, ?_⟩ <;> decide +kernel
/-- Every slice of die 3 at the reset ratio but two, which raise the mean. -/
def sSlices : State := { State.reset with cores := [(960, { Core.reset with l2slice := 0x200 }), (1279, { Core.reset with l2slice := 0x140 })] }
theorem test_witness_l2eff : ((List.range 320).map (fun k => (sSlices.core (3 * 320 + k)).l2slice.toNat)).sum / 320 = 0x101 ∧
    after (exec (.l2effSample 3 0x101 []) sSlices) (fun t => (t.core 970).l2die == 0x101 && (t.core 959).l2die == 0x100) ∧ isNext (exec (.l2effSample 3 0x180 []) sSlices) sSlices ∧
    isNext (exec (.l2effSample 3 0xFF []) sSlices) sSlices := by
  refine ⟨?_, ?_, ?_, ?_⟩ <;> decide +kernel

/-! Pages and leases -/
/-- Four levels of tables at 0x10000, 0x11000, 0x12000, 0x13000, the leaf of page 0 at frame 0x10, its A and D clear. -/
def tabRam (w1 w0 : Byte) : Mem :=
  [(0x10000, 1), (0x10002, 0x44), (0x11000, 1), (0x11002, 0x48)] ++ (if w1 = 0 then [] else [(0x12000, w1), (0x12002, 0x4C)]) ++ [(0x13000, w0), (0x13002, 0x40)]
def pthr : Thread := thr [(12, 0x2000000000000000), (13, 0x1000), (14, 0x4000000000000000), (15, 0xA000000000005000), (16, 0x8000000000001000), (17, 1), (18, 256)]
def sWalk (w1 w0 : Byte) : State := { stt pthr with
  mem := { State.reset.mem with ram := tabRam w1 w0, spad := [(0, 9), (2, 1), (4, 255), (5, 255)] }
  parts := [(0, { ctx := .resident, proot := 0x10001 })] }
def leafW : W64 := 0x40000F
theorem test_witness_walks : let s := sWalk 1 0x0F; Claims.NextTable 0x440001 ∧ Claims.NextTable 0x480001 ∧ Claims.NextTable 0x4C0001 ∧
    (s.part 0).proot.getLsbD 0 = true ∧ Claims.entryAt (0x10001 / 2 ^ 12 % 2 ^ 28 * 4096) 0 3 = 0x10000 ∧ Claims.entryAt (Claims.frameOf 0x440001) 0 2 = 0x11000 ∧
    Claims.entryAt (Claims.frameOf 0x480001) 0 1 = 0x12000 ∧ Claims.entryAt (Claims.frameOf 0x4C0001) 0 0 = 0x13000 ∧
    Claims.wordAt s 0x10000 = 0x440001 ∧ Claims.wordAt s 0x11000 = 0x480001 ∧ Claims.wordAt s 0x12000 = 0x4C0001 ∧ Claims.wordAt s 0x13000 = leafW ∧
    malformed 0 leafW = false ∧ (match walk s 0 0 with | .leaf l => l == { word := leafW, size := 4096, entry := 0x13000 } | _ => false) = true := by
  refine ⟨?_, ?_, ?_, ?_, ?_, ?_, ?_, ?_, ?_, ?_, ?_, ?_, ?_, ?_⟩ <;> decide +kernel
theorem test_witness_walk_faults : let k (w1 w0 : Byte) := (match walk (sWalk w1 w0) 0 0 with | .fault k => some k | _ => none)
    k 0 0x0F = some 0 ∧ k 1 0x0E = some 0 ∧ malformed 0 0x40002F = true ∧ k 1 0x2F = some 1 ∧ malformed 1 0x800070F = false ∧
    (match walk { sWalk 1 0x0F with parts := [] } 0 0 with | .fault k => some k | _ => none) = some 0 := by
  refine ⟨?_, ?_, ?_, ?_, ?_, ?_⟩ <;> decide +kernel
theorem test_witness_walk_end : walkReachable (sWalk 1 0x0F) 0 0 = true ∧ walkReachable (sWalk 1 0x0E) 0 0 = true ∧ leafAllows leafW 2 = true ∧ leafW.toNat / 2 ^ 61 ≤ 1 ∧
    after (exec (.tableWalkEnd 3 0 0 2 1) (sWalk 1 0x0F)) (fun t => mreadN t.mem.ram 0x13000 3 == [0x0F, 3, 0x40] && (tlbFind (t.cluster 3) 0 0).isSome) ∧
    after (exec (.tableWalkEnd 3 0 0 2 1) (sWalk 1 0x0E)) (fun t => ((t.die 0).pagers.map (fun r => (r.clu, r.dva, r.kind, r.acc, r.src))) == [(3, 0, 0, 2, 1)]) := by
  refine ⟨?_, ?_, ?_, ?_, ?_, ?_⟩ <;> decide +kernel
def sTlb (w : W64) (k : Nat) : State := { sWalk 1 0x0F with clusters := [(0, { Cluster.reset with tlb := [(tlbKey 0 0 4096, { word := w, size := 4096, entry := 0x13000 }), (tlbKey 1 0 4096, leaf0)], staging := [(64, staged 1 1 0)] })], cur := k }
theorem test_witness_translations : let l : Leaf := { word := 0x40030F, size := 4096, entry := 0x13000 }; tlbFind ((sTlb 0x40030F 0).cluster 0) 0 0 = some l ∧
    leafAllows l.word 7 = true ∧ l.word ||| Claims.usedBits 7 = l.word ∧ (0x400309 : W64).getLsbD 1 = false ∧ (0x40030B : W64).getLsbD 2 = false ∧
    ((translate (sTlb 0x40030F 0) 0 0 5 1 9).toOption.map (·.2)) = some (0x40030F, 0x10005) := by
  refine ⟨?_, ?_, ?_, ?_, ?_, ?_⟩ <;> decide +kernel
theorem test_witness_pages : let s := sTlb 0x40030F 7; let h := s.setMe { thr [(12, 0), (13, 0x8000000000001000), (14, 0x1001), (15, 0x2000)] with bound := false }
    1 ≤ modeOf h.cur ∧ (h.me.rg 13).getLsbD 62 = false ∧ (h.me.rg 13).toNat % 2 ^ 62 % 4096 = 0 ∧ pagesPending h 0 0 0x1000 = false ∧ pagesPending h 0 0 0 = false ∧ pagesOpen h 0 0 0x1000 = true ∧
    gAfter (exec (.pinv 13 14 20) h) 20 = some 1 ∧ lineIn 0 0x1000 0x1000 64 = true ∧
    after (exec (.pinv 13 12 20) h) (fun t => (t.cluster 0).tlb.length == 1 && t.me.rg 20 == 0 && (t.cluster 0).staging.length == 1) ∧
    after (exec (.pinv 0 15 20) h) (fun t => (t.cluster 0).tlb.length == 1) ∧
    trapAfter (exec (.pinv 13 12 20) (sTlb 0x40030F 0)) = some (PRIV, 0) := by
  refine ⟨?_, ?_, ?_, ?_, ?_, ?_, ?_, ?_, ?_, ?_, ?_⟩ <;> decide +kernel
theorem test_witness_probes : let s := sTlb 0x40030F 0; gAfter (exec (.pprobe 12 20) s) 20 = some 0x8038000000000000 := by decide +kernel
theorem test_witness_probe_misses : let s := sWalk 1 0x0F; (s.me.seg 2).attr.toNat / 256 ≠ 1 ∧ gAfter (exec (.pprobe 14 20) s) 20 = some 0 ∧
    tlbFind (s.cluster 0) 0 0 = none ∧ recordOpen s 0 0 0 = false ∧ waitAfter (exec (.pprobe 12 20) s) = some (1, 0x2000000000000000) := by
  refine ⟨?_, ?_, ?_, ?_, ?_⟩ <;> decide +kernel
theorem test_witness_page_faults : let s := sWalk 1 0x0E; Claims.InSegment s 0 12 ∧ Claims.SegOk s.me (Claims.effective s 0 12) 8 rightR 1 0 ∧ offThreads s 0 = [] ∧
    s.me.pse = false ∧ tlbFind (s.cluster 0) 0 0 = none ∧ walkReachable s 0 0 = true ∧ acquirePending s s.cur = false ∧ (s.die 0).pagers = [] ∧
    after (exec (.ld 0 12 20) s) (fun t => t.me.state == .dropped && (t.die 0).pagers.map (fun r => (r.rid, r.dva, r.kind, r.acc, r.joined)) == [(0, 0, 0, 1, [.thread 0 0 0x2000000000000000])] &&
      after (exec (.pgwakeWake 0 0) t) (fun u => u.me.state == .ready) &&
      after (exec (.pgwakeRefuse 0 0) t) (fun u => u.me.state == .trapped && (u.arch 0).trapq.map (·.cause) == [PAGE])) := by
  refine ⟨?_, ?_, ?_, ?_, ?_, ?_, ?_, ?_, ?_⟩ <;> decide +kernel
theorem test_witness_ats : let b := sWalk 1 0x0F; let s := { b with host := { b.host with atsOn := true, ats := [4, 6] } }
    Claims.InSegment s 0 15 ∧ Claims.SegOk s.me (Claims.effective s 0 15) 8 rightR 5 0x5000 ∧ (5 : Nat) ∉ s.host.ats ∧ s.host.ats.length < 512 ∧ atsPending s 4 2 = false ∧
    after (exec (.ld 0 15 20) s) (fun t => t.me.state == .dropped && t.out == [.atsRequest 5] && after (exec (.atsResponse 5 true) t) (fun u => u.me.state == .ready) &&
      after (exec (.atsResponse 5 false) t) (fun u => u.me.state == .dropped && u.out == [.atsRequest 5, .priRequest 5] &&
        after (exec (.atsResponse 5 true) u) (fun x => x.me.state == .ready && x.host.ats == [4, 6]) &&
        after (exec (.atsResponse 5 false) u) (fun x => x.me.state == .trapped))) ∧
    after (exec (.atsInvalidation 4 2) s) (fun t => t.host.ats == [6] && t.out == [.atsComplete 4 2]) := by
  refine ⟨?_, ?_, ?_, ?_, ?_, ?_, ?_⟩ <;> decide +kernel
/-- The request block at 0 asks package 9 for one granule at DVA 0 with no token; leases as given. -/
def sLease (l : Lease) : State := { sWalk 1 0x0F with parts := [(0, { ctx := .resident, leases := [(1, l)] })] }
theorem test_witness_lease_requests : let s := sLease { state := 2, dva := 0x40000000, ngran := 1 }; let f := Claims.blockField s 0
    (s.me.rg 14).toNat % 32 = 0 ∧ Claims.SegOk s.me (s.me.rg 14) 32 rightR 2 0 ∧ Claims.Unlocked s 0 32 ∧ Claims.NoStores s ∧ spadPoisoned s.mem 0 0 32 = false ∧
    f 6 2 = 0 ∧ f 24 8 = 0 ∧ f 0 2 = 9 ∧ s.pk.pkg = 0 ∧ f 2 2 = 1 ∧ f 8 8 = 0 ∧ f 4 2 = 0xFFFF ∧
    overlaps 0 (2 ^ 21) 0x40000000 (2 ^ 21) = false ∧ (List.range 256).all (fun i => i == 1 || (s.lease 0 i).state == 0) ∧
    after (exec (.lreq 14 20) s) (fun t => after (exec (.remoteReplyArrival 0 0 .inside) t) (fun u => (u.lease 0 0).state == 1 && (u.lease 0 0).lpkg == 9 && hasReply u 0 == some [(20, 0)])) := by
  refine ⟨?_, ?_, ?_, ?_, ?_, ?_, ?_, ?_, ?_, ?_, ?_, ?_, ?_, ?_, ?_⟩ <;> decide +kernel
theorem test_lease_refusals : let st (s : State) := (match exec (.lreq 14 20) s with | .next t => (match exec (.remoteReplyArrival 0 0 .inside) t with | .next u => hasReply u 0 | _ => none) | _ => none)
    let full : State := { sWalk 1 0x0F with parts := [(0, { ctx := .resident, leases := (List.range 256).map (fun i => (i, { state := 4, dva := 0x40000000, ngran := 1 })) })] }
    let bad : State := { sLease {} with mem := State.reset.mem }
    st (sLease { state := 1, ngran := 1 }) = some [(20, 0x300000000000000)] ∧ st full = some [(20, 0x100000000000000)] ∧ st bad = some [(20, 0x200000000000000)] := by
  refine ⟨?_, ?_, ?_⟩ <;> decide +kernel
theorem test_witness_lease_returns : let g (l : Lease) (b : Reg) := exec (.lrel b 17 20) (sLease l); let h : Lease := { state := 2, tEvict := 250, ngrant := 1, ngran := 1 }
    after (g { state := 5 } 0) (fun t => t.lease 0 1 == {} && t.me.rg 20 == 0) ∧ after (g {} 0) (fun t => t.me.rg 20 == 1) ∧ after (g h 12) (fun t => t.me.rg 20 == 2) ∧
    after (g h 17) (fun t => (t.lease 0 1).state == 3 && (t.lease 0 1).deadline == 250000) ∧
    gAfter (exec (.lqry 4 17 20) (sLease h)) 20 = some 250 ∧ gAfter (exec (.lqry 1 18 20) (sLease h)) 20 = some 0 ∧
    gAfter (exec (.lqry 2 17 20) (sLease { h with state := 3, deadline := 8 })) 20 = some 8 ∧ gAfter (exec (.lqry 0 17 20) (sLease h)) 20 = some 0x4000000000100000 := by
  refine ⟨?_, ?_, ?_, ?_, ?_, ?_, ?_, ?_⟩ <;> decide +kernel
theorem test_witness_lease_dies : ∀ d < 4, dieReachable (sLease {}) d = true := fun _ _ => rfl
theorem test_witness_lease_events : let h : Lease := { state := 2, tEvict := 250, ngrant := 1, ngran := 1, frames := [0x600000], accessed := [0] }
    let r : Lease := { h with state := 3 }; let d (l : Lease) (i : Instr) (p : Lease → Bool) := after (exec i (sLease l)) (fun t => p (t.lease 0 1))
    d { state := 1, ngran := 1 } (.leaseGrant 0 1 1 5 0 [0x600000]) (fun l => l.state == 2 && l.tEvict == 250) ∧ d { state := 1 } (.leaseDeny 0 1) (fun l => l.state == 4 && l.den) ∧
    d h (.leaseReclaim 0 1) (fun l => l.state == 3 && l.deadline == 250000) ∧ d { h with termEnd := 0 } (.leaseTermEnd 0 1) (fun l => l.state == 2) ∧
    granuleBusy (sLease r) 0 0 = false ∧ ((sLease r).part 0).proot.getLsbD 0 = false ∧
    d { r with copied := [0] } (.leaseAck 0 1) (fun l => l.state == 4) ∧ d r (.reclaimDeadline 0 1) (fun l => l.state == 5 && l.lost) ∧
    d { r with deadline := 9 } (.reclaimDeadline 0 1) (fun l => l.state == 3) := by
  refine ⟨?_, ?_, ?_, ?_, ?_, ?_, ?_, ?_, ?_⟩ <;> decide +kernel

/-! Skeins -/
/-- Skein 5 of partition 0: four 2-byte elements, P = 2, H = 1, F = 3, homed at core 0, stored at DVA 0. -/
def dsc5 : SkeinDesc := { fmt := 6, p := 2, deg := 0, count := 4, h := 1, f := 3, hcore := 0, base := 0 }
def sk5 (picks : List (Nat × Nat)) : Skein := { desc := some dsc5, wgrp := some 7, rgrp := [(3, 8)], picks := picks }
/-- Slot 0's g12 names the skein, g13 an instant, g14 an element, g15 a buffer; it reads as group 3 and writes as group 7. -/
def kthr (tau i : W64) : Thread := { thr [(12, 5), (13, tau), (14, i), (15, 0x4000000000000100), (16, 0x10003), (17, 65536), (18, -1)] with gm := [(0, 3), (1, 7)] }
noncomputable def sSk (t : Thread) (w : Option Wait) (k : Skein) : State := { stt t with
  threads := [(0, match w with | some w => { t with state := .parked, wait := some w } | none => t)]
  clusters := [(0, { Cluster.reset with tlb := [(tlbKey 0 0 4096, leafN)] })]
  mem := { State.reset.mem with ram := [(0x10002, 7), (0x10042, 9)], spad := [(0x100, 1)] }
  parts := [(0, { ctx := .resident, skeins := [(5, k)], skt := 0x77 })] }
noncomputable def wre : Wait := waitOf (.skre 14 13 12 20) 0x08 5 false
theorem test_witness_skein_issue : let s := sSk (kthr 10 1) none (sk5 [(10, 0), (12, 1)]); (∀ j < 4, s.me.gmOf j = (if j = 0 then 3 else if j = 1 then 7 else 0xFFFF)) ∧
    Claims.SkeinBuffer s (s.me.rg 15) ∧ Claims.NoReleaseWait s 4 ∧ Claims.Unasked (s.skein 0 5) ∧ trapAfter (exec (.skr 15 13 17 20) s) = some (FORMAT, 65536) ∧
    trapAfter (exec (.skw 15 18 12 20) s) = some (FORMAT, 0xFFFFFFFFFFFFFFFF) ∧ trapAfter (exec (.skw 14 13 12 20) s) = some (ALIGN, 1) ∧
    waitAfter (exec (.skre 14 13 12 20) s) = some (8, 5) ∧ waitAfter (exec (.skw 15 13 12 20) s) = some (9, 5) ∧ waitAfter (exec (.skbind 16 12 20) s) = some (8, 5) ∧
    after (exec (.skflr 13 12 20) s) (fun t => (t.skein 0 5).rgrp == [(3, 10)] && t.me.rg 20 == 0) ∧
    gAfter (exec (.skqry 0 12 20) s) 20 = some 12 ∧ gAfter (exec (.skqry 1 12 20) s) 20 = some 10 ∧ gAfter (exec (.skqry 2 12 20) s) 20 = some 0x8000000700000102 ∧
    gAfter (exec (.skqry 3 12 20) s) 20 = some 8 ∧ gAfter (exec (.skqry 4 12 20) s) 20 = some 0x77 := by
  refine ⟨?_, ?_, ?_, ?_, ?_, ?_, ?_, ?_, ?_, ?_, ?_, ?_, ?_, ?_, ?_, ?_⟩ <;> decide +kernel
theorem test_witness_skein_reader : Claims.ReadsThrough (sk5 [(10, 0), (12, 1)]) (kthr 10 1) 3 8 :=
  ⟨by decide +kernel, by decide +kernel, by decide +kernel, 0, by decide +kernel, by decide +kernel, by decide +kernel⟩
theorem test_witness_skein_stranger : Claims.ReadsNothing (sk5 [(10, 0)]) (thr []) := by intro j _; exact .inl (by decide +revert +kernel)
theorem test_witness_skein_storage : Claims.SlotAt (sSk (kthr 10 1) (some wre) (sk5 [(10, 0), (12, 1)])) 0 dsc5 1 0x10040 1 :=
  ⟨by decide +kernel, by decide +kernel, by decide +kernel, 0x40031F, by decide +kernel, by decide +kernel, fun _ => rfl⟩
theorem test_witness_skein_request : Claims.AtEngine (sSk (kthr 10 1) (some wre) (sk5 [(10, 0), (12, 1)])) 0 0 wre dsc5 :=
  ⟨by decide +kernel, by decide +kernel, by decide +kernel, by decide +kernel, by decide +kernel, by decide +kernel, by decide +kernel, by decide +kernel,
   by decide +kernel, by decide +kernel, by decide +kernel⟩
/-- An SKW waits for the thread's earlier stores. -/
theorem test_witness_skw_held : let b := sSk (kthr 10 1) none (sk5 []); let s := b.setCore 0 { b.core 0 with storeq := [oldest (.spad 0 0)] }
    releaseWaits s s.cur 4 false = true ∧ isNext (exec (.skw 15 13 12 20) s) s := by
  refine ⟨?_, ?_⟩ <;> decide +kernel
def replyF (s : State) : Option (List (Reg × W128)) := (Claims.replyOf s 0).map (·.f)
def replyT (s : State) : Option (Option (Byte × W64)) := (Claims.replyOf s 0).map (·.trap)
/-- R280: the kinds of a read against picks 10 and 12, H = 1 and F = 3: behind, exact, between, near, waiting, far. -/
theorem test_skein_reads : let r (tau i : W64) (k : Skein) := exec (.weftRequest 0 0) (sSk (kthr tau i) (some wre) k); let k := sk5 [(10, 0), (12, 1)]
    after (r 9 1 k) (fun t => replyT t == some (some (SKBEHIND, 9))) ∧ after (r 7 1 (sk5 [])) (fun t => replyT t == some (some (SKBEHIND, 7))) ∧
    after (r 10 1 k) (fun t => replyF t == some [(20, 7)] && (t.skein 0 5).rgrp == [(3, 10)]) ∧ after (r 12 1 k) (fun t => replyF t == some [(20, 9)]) ∧
    after (r 14 1 k) (fun t => replyF t == none && (t.skein 0 5).parked == [0] && (t.group 0 3).wv && (t.part 0).walks == [3]) ∧
    after (r 16 1 k) (fun t => replyT t == some (some (SKFAR, 16))) ∧ after (r 10 4 k) (fun t => replyT t == some (some (FORMAT, 4))) ∧
    after (exec (.weftRequest 0 0) (sSk { kthr 10 1 with gm := [] } (some wre) k)) (fun t => replyT t == some (some (ACCESS, 5))) := by
  refine ⟨?_, ?_, ?_, ?_, ?_, ?_, ?_, ?_⟩ <;> decide +kernel
theorem test_witness_whole_state : let w := waitOf (.skr 15 13 12 20) 0x08 5 false; let s := sSk (kthr 10 1) (some w) (sk5 [(10, 0), (12, 1)])
    Claims.SegOk (s.thread 0) ((s.thread 0).rg 15) (Claims.stateSize dsc5) rightW 2 0x100 ∧ (10, 0) ∈ (s.skein 0 5).picks ∧ ((s.skein 0 5).picks.map (·.1)).Nodup ∧
    after (exec (.weftRequest 0 0) s) (fun t => spadBytes t.mem 0 0x100 8 == [0, 0, 7, 0, 0, 0, 0, 0] && hasReply t 0 == some [(20, 1)]) := by
  refine ⟨?_, ?_, ?_, ?_⟩ <;> decide +kernel
theorem test_witness_picks : let w := waitOf (.skw 15 13 12 20) 0x09 5 false; let r (tau : W64) (k : Skein) := exec (.weftRequest 0 0) (sSk (kthr tau 1) (some w) k)
    let s := sSk (kthr 14 1) (some w) (sk5 [(10, 0), (12, 1)])
    Claims.SegOk (s.thread 0) ((s.thread 0).rg 15) 8 rightR 2 0x100 ∧ Claims.stateSize dsc5 = 8 ∧ (∃ j < 4, (s.thread 0).gmOf j = 7) ∧ spadPoisoned s.mem 0 0x100 8 = false ∧
    after (r 10 (sk5 [(10, 0)])) (fun t => replyT t == some (some (FORMAT, 10))) ∧
    after (r 14 (sk5 [(10, 0)])) (fun t => (t.skein 0 5).picks == [(10, 0), (14, 1)] && mread t.mem.ram 0x10040 == 1 && hasReply t 0 == some [(20, 0)]) ∧
    after (r 14 { sk5 [(10, 0), (12, 1)] with rgrp := [(3, 12)] }) (fun t => (t.skein 0 5).picks == [(12, 1), (14, 0)] && hasReply t 0 == some [(20, 1)]) ∧
    after (r 14 (sk5 [(10, 0), (12, 1)])) (fun t => (t.skein 0 5).parked == [0] && (t.group 0 7).wv && (t.group 0 7).wret) ∧
    after (r 14 { sk5 [] with wgrp := some 9 }) (fun t => replyT t == some (some (ACCESS, 5))) := by
  refine ⟨?_, ?_, ?_, ?_, ?_, ?_, ?_, ?_, ?_⟩ <;> decide +kernel
theorem test_witness_registrations : let b (v : W64) (k : Skein) := exec (.weftRequest 0 0) (sSk (kthr v 1) (some (waitOf (.skbind 13 12 20) 0x08 5 false)) k)
    let u (v : W64) (k : Skein) := exec (.weftRequest 0 0) (sSk (kthr v 1) (some (waitOf (.skunb 13 12 20) 0x08 5 false)) k); let k := sk5 [(10, 0)]
    after (b 0x20003 k) (fun t => replyT t == some (some (ACCESS, 0x20003))) ∧ after (b 5 k) (fun t => replyT t == some (some (ACCESS, 5))) ∧
    after (b 3 k) (fun t => hasReply t 0 == some [(20, 1)]) ∧ after (b 0x10003 k) (fun t => hasReply t 0 == some [(20, 2)]) ∧
    after (b 7 { k with rgrp := List.replicate 8 (3, 0) }) (fun t => hasReply t 0 == some [(20, 3)]) ∧
    after (b 7 k) (fun t => (t.skein 0 5).rgrp == [(3, 8), (7, 10)]) ∧ after (b 0x10007 { k with wgrp := none }) (fun t => (t.skein 0 5).wgrp == some 7) ∧
    after (u 7 k) (fun t => hasReply t 0 == some [(20, 1)]) ∧ after (u 0x10007 k) (fun t => (t.skein 0 5).wgrp == none && (t.skein 0 5).rgrp == [(3, 8)]) ∧
    after (u 3 { k with wgrp := none }) (fun t => t.skein 0 5 == {} && hasReply t 0 == some [(20, 0)]) := by
  refine ⟨?_, ?_, ?_, ?_, ?_, ?_, ?_, ?_, ?_, ?_⟩ <;> decide +kernel
/-- Group 3 reads what it writes itself. -/
noncomputable def sCycle (wv : Bool) : State := let s := sSk (kthr 14 1) (some { wre with sent := true }) { sk5 [(10, 0)] with wgrp := some 3, parked := [0], past6 := [0] }
  s.setPart 0 { s.part 0 with walks := [3], groups := [(3, { wv := wv, wskein := 5, winst := 14, wthread := 0 })] }
theorem test_witness_causality : let s := sCycle true; let x := s.group 0 3
    x.wv = true ∧ x.wret = false ∧ (s.skein 0 5).wgrp.map (·.toNat) = some 3 ∧ Claims.WaitsFor s 0 { wre with sent := true } ∧ (s.skein 0 5).queue = [] ∧ (s.skein 0 5).serving = [] ∧ dieReachable s (dieOf dsc5.hcore) = true ∧ (s.thread 0).rg 13 = x.winst ∧
    after (exec (.causalityWalk 0) s) (fun t => replyF t == some [(20, 7)] && (t.part 0).walks == [] && !(t.group 0 3).wv && ((Claims.replyOf t 0).map (·.csr)) == some [(0x30, 0x500000014)]) ∧
    after (exec (.causalityWalk 0) (sCycle false)) (fun t => (t.part 0).walks == [] && replyF t == none) := by
  refine ⟨?_, ?_, ?_, ?_, ?_, ?_, ?_, ?_, ?_, ?_⟩ <;> decide +kernel
theorem test_witness_cycle_storage : Claims.SlotAt (sCycle true) 0 dsc5 0 0x10000 1 :=
  ⟨by decide +kernel, by decide +kernel, by decide +kernel, 0x40031F, by decide +kernel, by decide +kernel, fun _ => rfl⟩

/-! Tokens, work queues, kernels -/
noncomputable def sTok (i : Instr) (tk : Token) : State := { stt lone with
  threads := [(0, { thr [(12, 9), (13, 2), (14, 0x8000000000000005), (15, 65536)] with state := .parked, wait := some (waitOf i 0x01 9 true) }),
    (1, parkedThr [(12, 9)] (waitOf (.tokw 12 21) 0x0D 9 true))]
  parts := [(0, { ctx := .resident, tokens := [(9, tk)] })] }
theorem test_witness_tokens : let r (i : Instr) (tk : Token) := exec (.tokenRequest 0 0) (sTok i tk); let s := sTok (.tokq 12 20) { count := 2 }; let i := st [(12, 9), (15, 65536)]
    Claims.WaitsFor s 0 (waitOf (.tokq 12 20) 0x01 9 true) ∧ Claims.NoKernels s ∧ Claims.WaitsFor s 1 (waitOf (.tokw 12 21) 0x0D 9 true) ∧ Claims.NoReleaseWait i 4 ∧ dieReachable s 0 = true ∧
    trapAfter (exec (.tokq 15 20) i) = some (FORMAT, 65536) ∧ waitAfter (exec (.tokw 12 20) i) = some (1, 9) ∧ waitAfter (exec (.toks 0 12 20) i) = some (1, 9) ∧
    after (r (.tokq 12 20) { err := true, count := 2 }) (fun t => hasReply t 0 == some [(20, 0x100000002)]) ∧ after (r (.toke 12 20) {}) (fun t => (t.token 0 9).err && hasReply t 0 == some [(20, 0)]) ∧
    after (r (.tokw 12 20) { count := 1 }) (fun t => (t.thread 0).wait.map (·.kind) == some 0x0D) ∧ after (r (.tokw 12 20) {}) (fun t => hasReply t 0 == some [(20, 0)]) ∧
    after (r (.tokw 12 20) { err := true }) (fun t => hasReply t 0 == some [(20, 1)]) ∧
    after (r (.toks 0 12 20) { count := 3 }) (fun t => (t.token 0 9).count == 2) ∧ after (r (.toks 13 12 20) { count := 1 }) (fun t => hasReply t 0 == some [(20, 1)] && (t.token 0 9).count == 0) ∧
    after (r (.toks 13 12 20) { count := 2 }) (fun t => hasReply t 1 == some [(21, 0)]) := by
  refine ⟨?_, ?_, ?_, ?_, ?_, ?_, ?_, ?_, ?_, ?_, ?_, ?_, ?_, ?_, ?_, ?_⟩ <;> decide +kernel
theorem test_witness_token_writes : let r (i : Instr) (tk : Token) := exec (.tokenRequest 0 0) (sTok i tk)
    after (r (.toks 14 12 20) { err := true }) (fun t => t.token 0 9 == { err := false, count := 5 }) ∧ after (r (.toks 13 12 20) { err := true }) (fun t => hasReply t 0 == some [(20, 2)]) ∧
    after (exec (.tokenHostWrite 3 7 8) (st [])) (fun t => (t.token 2 7).count == 8) ∧ isNext (exec (.tokenHostWrite 17 7 8) (st [])) (st []) := by
  refine ⟨?_, ?_, ?_, ?_⟩ <;> decide +kernel
/-- A relock of the token's die, or an own store that is not accepted, holds the write. -/
theorem test_witness_tokens_held : let r := (st []).setDie 0 { Die.reset with relock := some (5, 0) }; let b := st [(12, 9)]
    let h := b.setCore 0 { b.core 0 with storeq := [oldest (.spad 0 0)] }
    dieReachable r (7 / 16384) = false ∧ isNext (exec (.tokenHostWrite 3 7 8) r) r ∧ releaseWaits h h.cur 4 false = true ∧ isNext (exec (.toks 0 12 20) h) h := by
  refine ⟨?_, ?_, ?_, ?_⟩ <;> decide +kernel
/-- A record at scratchpad byte 0x100: pc 0x40, scope 2, token 9 signalled at the end, no rank. -/
def rec512 (nthr scope wdog : Nat) : BitVec 512 := BitVec.ofNat 512 (0x40 + scope * 2 ^ 48 + 2 ^ 62 + wdog * 2 ^ 416 + nthr * 2 ^ 448 + 9 * 2 ^ 496)
def kern (r : BitVec 512) (st : KernelState) : Kernel := Claims.accepted {} r st
def sRec (w : WorkQueue) : State := { st [(12, 0x4000000000000100), (13, 5), (14, 0x4000000000000101), (15, 40000)] with
  mem := { State.reset.mem with spad := [(0x100, 0x40), (0x106, 2)] }
  queues := [(5, w)] }
theorem test_witness_records : let w : WorkQueue := { state := .opened }; let s := sRec w
    let st (w : WorkQueue) := (match exec (.launch 13 12 20) (sRec w) with | .next t => (match exec (.launchRecordArrival 0 0) t with | .next u => hasReply u 0 | _ => none) | _ => none)
    Claims.SegOk s.me (s.me.rg 12) 64 rightR 2 0x100 ∧ Claims.Unlocked s 0x100 64 ∧ Claims.NoStores s ∧ s.me.run = none ∧ w.depth ≤ w.qdep.toNat ∧ acquirePending s s.cur = false ∧ Claims.NoReleaseWait s 4 ∧
    (w.spills = false ∨ w.spill = false) ∧
    st w = some [(20, 0)] ∧ st {} = some [(20, 2)] ∧ st { w with shuttle := true } = some [(20, 4)] ∧ st { w with qdep := 0, kernels := [kern 0 .waiting] } = some [(20, 1)] ∧
    ({ w with qdep := 0, kernels := [kern 0 .waiting] } : WorkQueue).depth = 1 ∧ trapAfter (exec (.launch 13 14 20) s) = some (ALIGN, 0x4000000000000101) ∧
    gAfter (exec (.launch 15 12 20) s) 20 = some 3 ∧
    after (exec (.launch 13 12 20) s) (fun t => after (exec (.launchRecordArrival 0 0) t) (fun u => (u.queue 5).kernels == [kern (BitVec.ofNat 512 0x0002000000000040) .waiting] && (u.queue 5).serial == 1)) := by
  refine ⟨?_, ?_, ?_, ?_, ?_, ?_, ?_, ?_, ?_, ?_, ?_, ?_, ?_, ?_, ?_, ?_⟩ <;> decide +kernel
theorem test_witness_windows : let w : WorkQueue := { state := .opened }; let b := bytesOfNat 64 0x0002000000000040
    let r := (sRec w).setDie 0 { Die.reset with relock := some (5, 0) }
    queueHeld (sRec w) 5 = false ∧ queueHeld r 5 = true ∧ isNext (exec (.enqueueWindowWrite 1 5 b true) r) r ∧
    after (exec (.enqueueWindowWrite 1 5 b true) (sRec w)) (fun t => (t.queue 5).serial == 1 && (t.queue 5).kernels.length == 1) ∧
    after (exec (.enqueueWindowWrite 2 5 b true) (sRec w)) (fun t => (t.queue 5).badw == 1) ∧ after (exec (.enqueueWindowWrite 0 5 b false) (sRec w)) (fun t => (t.queue 5).badw == 1) ∧
    after (exec (.enqueueWindowWrite 0 5 b true) (sRec { w with qdep := 0, kernels := [kern 0 .waiting] })) (fun t => (t.queue 5).ovf == 1) := by
  refine ⟨?_, ?_, ?_, ?_, ?_, ?_, ?_⟩ <;> decide +kernel
theorem test_witness_only_queue (w : WorkQueue) : Claims.OnlyQueue (sRec w) 5 ∧ Claims.NoErrors (sRec w) 0 :=
  ⟨fun _ hx => ⟨fun _ => List.mem_singleton.1 hx ▸ rfl, fun h => absurd (List.mem_singleton.1 hx ▸ rfl) h⟩, fun _ => rfl⟩
theorem test_witness_queue_commands : let o : WorkQueue := { state := .opened }; let f : WorkQueue := { o with state := .frozen, prior := .opened, eser := 1, ecause := 2 }
    let q (i : Instr) (w : WorkQueue) (p : WorkQueue → Bool) := after (exec i (sRec w)) (fun t => p (t.queue 5)); let v : W64 := 0x0001080003000007
    q (.qcfgOpen 0 5 v) {} (fun w => w == { state := .opened, vec := 1, prio := 3, qdep := 7, shuttle := true }) ∧ q (.qcfgOpen 1 5 v) {} (fun w => w == { state := .opened, vec := 1, prio := 3 }) ∧
    q (.qcfgOpen 2 5 v) {} (fun w => w == {}) ∧ q (.qcfgClose 0 5 0) o (fun w => w.state == .closed) ∧ q (.qcfgDrain 0 5 0) o (fun w => w.state == .closed) ∧
    q (.qcfgThaw 0 5 0) f (fun w => w.state == .opened && w.eser == 0) ∧ q (.qcfgDrain 0 5 0) { o with kernels := [kern 0 .running] } (fun w => w.state == .draining) ∧
    q (.qcfgPurge 0 5 0) { o with kernels := [kern (rec512 0 2 0) .waiting] } (fun w => w.kernels == []) ∧
    q (.qcntClear 0 5 0) { o with ovf := 3, badw := 4 } (fun w => w == o) ∧ q (.qcntClear 1 5 0) { o with ovf := 3 } (fun w => w.ovf == 3) ∧
    Claims.Signals (kern (rec512 0 2 0) .waiting) 9 ∧ Claims.recordField (rec512 0 2 0) 448 16 = 0 := by
  refine ⟨?_, ?_, ?_, ?_, ?_, ?_, ?_, ?_, ?_, ?_, ?_, ?_⟩ <;> decide +kernel
def sKern (r : BitVec 512) (k : KernelState) : State := sRec { state := .opened, kernels := [kern r k] }
theorem test_witness_dispatch : let r := rec512 0 2 0; let s := sKern r .waiting; Claims.AtBoundary s 0 s.pk.dispatchedAt ∧ Claims.WaitsOnNone (kern r .waiting) ∧ Claims.RecordOk r ∧
    r.getLsbD 63 = false ∧ ¬Claims.RecordOk (rec512 0 0 0) ∧
    after (exec .dispatchDecision s) (fun t => (t.queue 5).pass == 0x100000 && (t.queue 5).kernels.map (·.state) == [.releasing]) ∧
    after (exec .dispatchDecision (sKern (rec512 0 0 0) .waiting)) (fun t => (t.queue 5).kernels == [] && (t.queue 5).state == .frozen && (t.queue 5).ecause == FORMAT && (t.token 0 9).err) := by
  refine ⟨?_, ?_, ?_, ?_, ?_, ?_, ?_⟩ <;> decide +kernel
/-- Rank 0 of one, placed in slot 2 of core 4. -/
def sBind : State := let r := rec512 1 2 0 ||| BitVec.ofNat 512 (2 ^ 59 + 0x11 * 2 ^ 64)
  let b := sRec { state := .opened, kernels := [{ kern r .dispatching with valid := true, places := [(4, 2)] }] }
  { b with cores := [(4, { Core.reset with asg := true })] }
theorem test_witness_bind : let s := sBind; Claims.AtBoundary s 0 (s.core 4).boundAt ∧ (s.part 0).ctx = .resident ∧ (∀ x ∈ s.cores, x.2.migrating = none) ∧
    (∀ x < 7, (s.thread (keyOf 4 x)).state = .empty ∧ (s.thread (keyOf 4 x)).bound = false ∧ (s.thread (keyOf 4 x)).twl = false) ∧
    after (exec (.rankBind 4) s) (fun t => (t.thread 34).state == .ready && (t.thread 34).pc == 0x40 && (t.thread 34).rg 4 == 0x11 && (t.thread 34).rg 9 == 1 &&
      (t.queue 5).kernels.map (·.state) == [.running]) := by
  refine ⟨?_, ?_, ?_, ?_, ?_⟩ <;> decide +kernel
theorem test_witness_release : let s := sKern (rec512 0 2 0) .releasing; let b := s.setToken 0 9 { count := 4 }
    (∀ c ∈ (kern (rec512 0 2 0) .releasing).clusters, dieReachable s (dieOfCluster c) = true ∧ (3 ≤ 5 → drainOpen s c = true)) ∧ (b.token 0 9).err = false ∧
    after (exec (.kernelReleaseEnd 5 0) b) (fun t => (t.queue 5).kernels == [] && (t.queue 5).qdone == 1 && (t.token 0 9).count == 3) ∧
    after (exec (.kernelReleaseEnd 5 0) (sRec { state := .opened, kernels := [{ kern (rec512 0 5 0) .releasing with refused := true }] }))
      (fun t => (t.queue 5).ecause == FENCEERR && (t.token 0 9).err) := by
  refine ⟨?_, ?_, ?_, ?_⟩ <;> decide +kernel
/-- One thread runs kernel 0 of queue 5, whose watchdog has 3 ticks. -/
def sDog (tim : Nat) : State := let b := sRec { state := .opened, kernels := [{ kern (rec512 1 2 3) .running with nextRank := 1 }] }
  { b with threads := [(34, { thr [] with kid := kidOf 0 5 0 })], cores := [(4, { Core.reset with asg := true })], pk := { b.pk with tim := tim } }
theorem test_witness_watchdog : let s := sDog 3; boundKeys s (kidOf 0 5 0) = [keyOf 4 2] ∧ (s.thread 34).gm = [] ∧ Claims.EnginesIdle s 4 ∧ Claims.NoFollower s 34 ∧
    (s.part 0).frozenAt = none ∧ Claims.recordField (rec512 1 2 3) 416 32 = 3 ∧
    after (exec (.watchdogExpiry 5 0) s) (fun t => (t.queue 5).ecause == HANG && (t.token 0 9).err && (t.thread 34).killed == some HANG) ∧
    isNext (exec (.watchdogExpiry 5 0) (sDog 2)) (sDog 2) := by
  refine ⟨?_, ?_, ?_, ?_, ?_, ?_, ?_, ?_⟩ <;> decide +kernel

/-! Contexts -/
/-- Treadle's thread on the service core of die 0, or a handler in slot 7 of core 0, over a partition 0 of core 0. -/
def ctThr : Thread := { thr [(13, 1), (14, 16), (15, 0x2000000000000040), (16, 2)] with bound := false }
def sCtx (p : Partition) (cur : Nat) (ts : List (Nat × Thread)) (c0 : Core) : State := { State.reset with
  threads := ts ++ (if cur = 10247 then [(10247, ctThr)] else [])
  cur := cur
  cores := [(0, c0), (1, Core.reset)]
  clusters := [(160, { Cluster.reset with tlb := [(tlbKey 0 0 4096, leafN)] }), (320, { Cluster.reset with tlb := [(tlbKey 0 0 4096, leafN)] }), (0, { Cluster.reset with tlb := [(tlbKey 0 0 4096, leafN)] })]
  parts := [(0, p)] }
def asgd : Core := { Core.reset with asg := true }
def readyThr : Thread := thr [(4, 9)]
def pausedThr : Thread := { readyThr with state := .paused, prior := .ready }
def stOf (s : State) : Nat := (s.me.rg 20).toNat / 2 ^ 60
def resOf (s : State) : Nat := (s.me.rg 20).toNat % 256
theorem test_witness_partitions : let s := sCtx {} 10247 [] asgd; Claims.NoKernels s ∧ Claims.Assigned s 0 0 ∧ boundKernels s 0 = [] ∧
    after (exec (.partitionOpen 0) s) (fun t => (t.part 0).ctx == .resident) ∧ after (exec (.partitionClose 0) (sCtx { ctx := .halted } 10247 [] asgd)) (fun t => (t.part 0).ctx == .absent) ∧
    after (exec (.hevecWrite 0 0x47) s) (fun t => (t.part 0).hevec == 0x44 && (t.arch 0).evec == 0x44) ∧
    after (exec (.hevecWrite 0 0x47) (s.setArch 0 { s.arch 0 with serving := some rec0 })) (fun t => (t.core 0).hevecPend == some 0x44 && (t.arch 0).evec == 0) ∧
    after (exec (.cpartWrite 1 0x102) s) (fun t => (t.core 1).asg && (t.core 1).part == 2) ∧ after (exec (.cpartWrite 0 0x300) s) (fun t => (t.core 0).vict) ∧
    isNext (exec (.cpartWrite 1280 0x102) s) s := by
  refine ⟨?_, ?_, ?_, ?_, ?_, ?_, ?_, ?_, ?_, ?_⟩ <;> decide +kernel
theorem test_witness_halts : let p : Partition := { ctx := .resident }; let s := sCtx p 10247 [(0, readyThr)] asgd; let h := sCtx { ctx := .halted, prior := .resident, frozenAt := some 0 } 10247 [(0, pausedThr)] asgd
    Claims.Names s 0 ∧ ¬Claims.OwnHandler s 0 ∧ modeOf s.cur = 2 ∧ Claims.OwnHandler (sCtx p 7 [] asgd) 0 ∧ Claims.NoMigration s ∧
    after (exec (.ctxhalt 0 0 20) s) (fun t => stOf t == 1 && resOf t == 0 && (t.part 0).ctx == .halting && (t.thread 0).state == .paused && (t.thread 0).prior == .ready) ∧
    after (exec (.ctxhalt 16 0 20) s) (fun t => resOf t == 2) ∧ after (exec (.ctxhalt 13 0 20) s) (fun t => resOf t == 0 && (t.part 0).ctx == .resident) ∧
    after (exec (.ctxhalt 0 0 20) (sCtx p 7 [(7, ctThr)] asgd)) (fun t => resOf t == 4) ∧ after (exec (.ctxhalt 0 0 20) h) (fun t => resOf t == 1) ∧
    gAfter (exec (.ctxhalt 0 14 20) s) 20 = some 2 ∧ trapAfter (exec (.ctxhalt 0 0 20) (st [])) = some (PRIV, 0) ∧
    after (exec (.ctxrest 0 0 20) h) (fun t => stOf t == 3 && (t.part 0).ctx == .resident && (t.thread 0).state == .ready) := by
  refine ⟨?_, ?_, ?_, ?_, ?_, ?_, ?_, ?_, ?_, ?_, ?_, ?_, ?_⟩ <;> decide +kernel
noncomputable def sLimit : State := { sCtx { ctx := .halted, prior := .resident, frozenAt := some 2 } 10247 [(0, parkedThr [] { waitOf (.mrcv 20) 0x0B 0 true with deadline := some 9 })] asgd with
  pk := { State.reset.pk with tim := 5 } }
theorem test_witness_limits_shift : after (exec (.ctxrest 0 0 20) sLimit) (fun t => (t.thread 0).wait.map (·.deadline) == some (some 12)) := by decide +kernel
theorem test_witness_rest : let s := sCtx { ctx := .halting } 10247 [(0, pausedThr)] asgd; let c7 : Thread := { pausedThr with bound := false }
    let z := s.setThread 7 c7; (∀ slot < 8, (z.thread (keyOf 0 slot)).wait = none ∧ (z.thread (keyOf 0 slot)).busy = none) ∧ Claims.AtRest z 0 ∧
    after (exec (.haltComplete 0) z) (fun t => (t.part 0).ctx == .halted) ∧ isNext (exec (.haltComplete 0) (z.setThread 0 readyThr)) (z.setThread 0 readyThr) := by
  refine ⟨?_, ?_, ?_, ?_⟩ <;> decide +kernel
theorem test_witness_saves : let s (p : Partition) (c : Core) := sCtx p 10247 [(0, pausedThr)] c; let h : Partition := { ctx := .halted }
    let full : Core := { asgd with shadow := some { part := 0, arch := CoreArch.reset, threads := [], spad := [], full := [], poison := [], hevecPend := none, tagWait := [] } }
    after (exec (.ctxsave 0 0 20) (s h asgd)) (fun t => stOf t == 3 && resOf t == 0 && (t.part 0).busy) ∧ after (exec (.ctxsave 0 0 20) (s h full)) (fun t => resOf t == 3) ∧
    after (exec (.ctxsave 0 0 20) (s { h with busy := true } asgd)) (fun t => resOf t == 1) ∧ after (exec (.ctxsave 0 0 20) (s { ctx := .resident } asgd)) (fun t => resOf t == 1) ∧
    after (exec (.ctxrest 0 0 20) (s { ctx := .shadowed } full)) (fun t => (t.part 0).ctx == .restoring && (t.part 0).busy) ∧
    after (exec (.ctxsave 0 0 20) (sCtx h 7 [(7, ctThr)] asgd)) (fun t => resOf t == 4) ∧ gAfter (exec (.ctxsave 0 14 20) (s h asgd)) 20 = some 2 ∧
    after (exec (.shadowTransferEnd 0 []) (s { h with busy := true } asgd)) (fun t => (t.part 0).ctx == .shadowed && (t.core 0).shadow.isSome && (t.thread 0).state == .empty) := by
  refine ⟨?_, ?_, ?_, ?_, ?_, ?_, ?_, ?_⟩ <;> decide +kernel
def saved0 : Saved := { part := 0, arch := CoreArch.reset, threads := (List.range 8).map (fun i => (keyOf 0 i, pausedThr)), spad := [(5, 6)], full := [], poison := [], hevecPend := none, tagWait := [] }
theorem test_witness_shadow_restore : let s := sCtx { ctx := .restoring, busy := true } 10247 [] { asgd with shadow := some saved0 }
    shadowCores s 0 = [0] ∧ memWf saved0.spad = true ∧ saved0.threads = (List.range 8).map (fun i => (keyOf 0 i, (fun _ => pausedThr) i)) ∧
    after (exec (.shadowTransferEnd 0 []) s) (fun t => (t.part 0).ctx == .resident && (t.thread 3).rg 4 == 9 && t.mem.spad == [(5, 6)] && (t.core 0).shadow.isNone) := by
  refine ⟨?_, ?_, ?_, ?_⟩ <;> decide +kernel
/-- g15 addresses the words of an area at DVA 0: its base and length, given at DVA 0x40. -/
def sArea (ctx : CtxState) (len : Byte) : State := let s := sCtx { ctx := ctx } 10247 [(0, pausedThr)] asgd
  { s with mem := { s.mem with ram := (if len = 0 then [] else [(0x10049, len)]) } }
theorem test_witness_areas : let s := sArea .halted 0x10; (readArea s s.cur (s.me.rg 15)).toOption.map (·.2) = some (0, 4096) ∧
    after (exec (.ctxsave 15 0 20) s) (fun t => (t.part 0).ctx == .spilling && (t.part 0).area == some { base := 0, len := 4096, core := 1280, stim := 0 }) ∧
    after (exec (.ctxsave 15 0 20) (sArea .halted 0)) (fun t => resOf t == 2) ∧ after (exec (.ctxrest 15 0 20) (sArea .halted 0x10)) (fun t => resOf t == 1) ∧
    after (exec (.ctxrest 15 0 20) (sArea .spilled 0)) (fun t => resOf t == 2) := by
  refine ⟨?_, ?_, ?_, ?_, ?_⟩ <;> decide +kernel
theorem test_witness_header : let s := sArea .spilled 0x10; (readHeader s s.cur 0).toOption.map (fun x => (x.2.length, fieldAt x.2 0 4)) = some (4096, 0) ∧
    after (exec (.ctxrest 15 0 20) s) (fun t => resOf t == 2) := by
  refine ⟨?_, ?_⟩ <;> decide +kernel
def area0 (len : Nat) : SaveArea := { base := 0, len := len, core := 1280, stim := 0 }
theorem test_witness_spills : let p : Partition := { ctx := .spilling, spillFrom := .halted, busy := true, area := some (area0 4096) }; let s := sCtx p 10247 [] asgd
    after (exec (.spillEnd 0 false) s) (fun t => (t.part 0).ctx == .halted && (t.part 0).psm && !(t.part 0).busy) ∧
    after (exec (.spillEnd 0 true) s) (fun t => (t.part 0).ctx == .halted && (t.part 0).psm && (t.part 0).soff == 1) ∧
    after (exec (.restoreEnd 0 [] (some PAGE)) (sCtx { p with ctx := .restoring } 10247 [] asgd)) (fun t => (t.part 0).ctx == .failed) ∧
    boundKernels s 0 = [] ∧ s.images = [] := by
  refine ⟨?_, ?_, ?_, ?_, ?_⟩ <;> decide +kernel
/-- Core 0's context moves to core 1. -/
def sMig (p : Partition) (c0 c1 : Core) (cur : Nat) : State := let s := sCtx p cur [(0, readyThr), (7, { ctThr with g := [(13, 1), (14, 1300)] })] c0
  { s with cores := [(0, c0), (1, c1)] }
theorem test_witness_migrations : let p : Partition := { ctx := .resident }; let s := sMig p asgd asgd 10247
    Claims.Assigned s 1 0 ∧ Claims.EnginesIdle s 1 ∧ (s.core 0).forwards = [] ∧
    after (exec (.migr 13 0 20) s) (fun t => resOf t == 0 && (t.core 0).migrating == some 1 && (t.thread 0).state == .paused) ∧
    after (exec (.migr 13 0 20) (sMig p asgd asgd 7)) (fun t => resOf t == 4) ∧ after (exec (.migr 13 0 20) (sMig p asgd Core.reset 10247)) (fun t => resOf t == 2) ∧
    after (exec (.migr 13 0 20) (sMig { ctx := .halted } asgd asgd 10247)) (fun t => resOf t == 1) ∧
    after (exec (.migr 13 0 20) (sMig p { asgd with migrating := some 1 } asgd 10247)) (fun t => resOf t == 3) ∧ gAfter (exec (.migr 0 13 20) (sMig p asgd Core.reset 10247)) 20 = some 2 := by
  refine ⟨?_, ?_, ?_, ?_, ?_, ?_, ?_, ?_, ?_⟩ <;> decide +kernel
theorem test_witness_migration_end : let b := sCtx { ctx := .resident } 10247 [(0, { pausedThr with bound := true, kid := 7 }), (7, { pausedThr with bound := false })] { asgd with migrating := some 1 }
    let s := { b with cores := [(0, { asgd with migrating := some 1 }), (1, asgd)], mem := { b.mem with spad := [(5, 6)] } }
    Claims.AtRest s 0 ∧ memWf s.mem.spad = true ∧ (s.core 0).migrating = some 1 ∧
    after (exec (.migrationEnd 0) s) (fun t => (t.thread 8).rg 4 == 9 && (t.thread 0).state == .empty && t.mem.spad == [(2 ^ 20 + 5, 6)] && (t.core 0).forwards == [{ dest := 1, kids := [7] }]) := by
  refine ⟨?_, ?_, ?_, ?_⟩ <;> decide +kernel

/-! A save area that one cached page of 2 MiB holds: every unit of a record can be written, and read back -/
def bigLeaf : Leaf := { word := 0x800031F, size := 2 ^ 21, entry := 0x8000 }
/-- The cluster of service core 1280 has that page of partition 0 cached, and no die relocks. -/
abbrev HasBig (s : State) : Prop := (s.cluster 320).tlb = [(2, bigLeaf)] ∧ ∀ d, dieReachable s d = true
theorem tlbFind_big (c : Cluster) (h : c.tlb = [(2, bigLeaf)]) (a : Nat) (ha : a < 2 ^ 21) : tlbFind c 0 a = some bigLeaf := by
  have h1 : tlbKey 0 a 4096 ≠ 2 := by simp [tlbKey]; omega
  have h2 : tlbKey 0 a 65536 ≠ 2 := by simp [tlbKey]
  have h3 : tlbKey 0 a (2 ^ 21) = 2 := by simp [tlbKey]; omega
  simp only [tlbFind, List.findSome?, h, tfind, h1.symm, h2.symm, h3, if_false, if_true]
theorem translate_big (s : State) (h : HasBig s) (a : Nat) (ha : a < 2 ^ 21) (acc : BitVec 4) (hacc : acc = 1 ∨ acc = 2) :
    Machine.translate s 320 0 a acc 0#64 = .ok (s, bigLeaf.word, 0x200000 + a) := by
  have h3 : a % 2097152 = a := Nat.mod_eq_of_lt ha
  rcases hacc with rfl | rfl <;> simp [Machine.translate, tlbFind_big _ h.1 a ha, bigLeaf, leafCls, leafAllows, accWrites, leafPA, h3]
theorem pieces_inside (fuel : Nat) : ∀ a n p, p ∈ pieces fuel a n → p.1 < a + n := by
  induction fuel with
  | zero => intro a n p h; simp [pieces] at h
  | succ k ih =>
    intro a n p h
    simp only [pieces] at h
    split at h
    · simp at h
    · rcases List.mem_cons.1 h with rfl | h
      · simp; omega
      · have := ih _ _ _ h
        have hm : Nat.min n (4096 - a % 4096) ≤ n := Nat.min_le_left _ _
        omega
theorem translateRange_big (s : State) (h : HasBig s) (a n : Nat) (hn : a + n ≤ 2 ^ 21) (acc : BitVec 4) (hacc : acc = 1 ∨ acc = 2) :
    ∃ l, translateRange s 320 0 a n acc 0 = .ok (s, l) := by
  have key : ∀ (ps : List (Nat × Nat)) (l : List (Nat × Nat)), (∀ p ∈ ps, p.1 < 2 ^ 21) → ∃ l', ps.foldl (fun r p => do
      let (s, l) ← r
      let x ← Machine.translate s 320 0 p.1 acc 0
      need (leafCls x.2.1 ≠ 4) ACCESS 0
      if !dieReachable s (dieOf (homeOf s 0 p.1 x.2.2 x.2.1)) then .error .hold
      return (x.1, l ++ [(x.2.2, p.2)])) (Except.ok (ε := Stop) (s, l)) = .ok (s, l') := by
    intro ps
    induction ps with
    | nil => exact fun l _ => ⟨l, rfl⟩
    | cons p ps ih =>
      intro l hp
      obtain ⟨l', hl⟩ := ih (l ++ [(0x200000 + p.1, p.2)]) (fun q hq => hp q (List.mem_cons_of_mem _ hq))
      refine ⟨l', ?_⟩
      rw [List.foldl_cons, ← hl]
      congr 1
      simp [bind, Except.bind, translate_big s h _ (hp p List.mem_cons_self) acc hacc, h.2, need, pure, Except.pure, show leafCls bigLeaf.word ≠ 4 by decide]
  exact key _ _ (fun p hp => Nat.lt_of_lt_of_le (pieces_inside _ _ _ p hp) hn)
theorem homeWriteRange_big (s : State) (h : HasBig s) (a : Nat) (bs : List Byte) (hn : a + bs.length ≤ 2 ^ 21) :
    ∃ m, homeWriteRange s 320 0 a bs 0 = .ok { s with mem := m } := by
  obtain ⟨l, hl⟩ := translateRange_big s h a bs.length hn accWrite (.inr rfl)
  exact ⟨_, by simp only [homeWriteRange, hl, bind, Except.bind]; rfl⟩
theorem spillUnits_big (area : SaveArea) (hc : area.core = 1280) (hb : area.base = 0) (n : Nat) :
    ∀ (s : State) (bs : List Byte) (u : Nat), HasBig s → s.partOf 1280 = 0 → 4096 * (u + n) ≤ 2 ^ 21 →
      ∃ m, spillUnits s area bs u n = ({ s with mem := m }, none) := by
  induction n with
  | zero => exact fun s bs u _ _ _ => ⟨s.mem, rfl⟩
  | succ k ih =>
    intro s bs u h hp hu
    have hl : (bs.take 4096).length ≤ 4096 := by simp
    obtain ⟨m, hm⟩ := homeWriteRange_big s h (0 + 4096 * u) (bs.take 4096) (by omega)
    obtain ⟨m', hm'⟩ := ih { s with mem := m } (bs.drop 4096) (u + 1) h hp (by omega)
    exact ⟨m', by simp only [spillUnits, hc, hb, hp, show clusterOf 1280 = 320 from rfl, hm, hm']⟩
/-- Core 0's context, halted, on its way into an area of one record at DVA 0, or out of it. -/
def area1 : SaveArea := { base := 0, len := 0x1A1000, core := 1280, stim := 0 }
def sBig (ctx : CtxState) : State := let s := sCtx { ctx := ctx, spillFrom := .halted, busy := true, area := some area1 } 10247 [(0, pausedThr)] asgd
  { s with clusters := [(320, { Cluster.reset with tlb := [(2, bigLeaf)] })] }
theorem sBig_page (ctx : CtxState) : HasBig (sBig ctx) ∧ (sBig ctx).partOf 1280 = 0 := ⟨⟨rfl, fun _ => rfl⟩, rfl⟩
theorem test_witness_spill_record : let s := sBig .spilling; coresOf s 0 = [0] ∧ 4096 + 0x1A0000 ≤ area1.len ∧ (∃ c, Claims.Assigned s c 0) ∧
    ∃ s1, spillUnits s area1 (recordBytes area1.free 0) 1 0x1A0 = (s1, none) ∧
      let s2 := s1.setPart 0 { s1.part 0 with soff := 0x1A1 }
      ∀ bs : List Byte, bs.length = 4096 → ∃ s3, homeWriteRange s2 (clusterOf area1.core) (s2.partOf area1.core) area1.base bs 0 = .ok s3 := by
  obtain ⟨m, hm⟩ := spillUnits_big area1 rfl rfl 0x1A0 (sBig .spilling) (recordBytes area1.free 0) 1 (sBig_page _).1 rfl (by decide)
  refine ⟨by decide +kernel, by decide, ⟨0, by decide +kernel⟩, _, hm, fun bs hb => ?_⟩
  obtain ⟨m', h'⟩ := homeWriteRange_big (({ sBig .spilling with mem := m } : State).setPart 0
    { ({ sBig .spilling with mem := m } : State).part 0 with soff := 0x1A1 }) ⟨rfl, fun _ => rfl⟩ 0 bs (by omega)
  exact ⟨_, h'⟩
theorem test_witness_header_length (s : State) (stim : Nat) (dig : List Byte) (h : dig.length = 32) :
    (headerBytes s 0 [0] stim false dig).length = 4096 := by
  have hb : ∀ n v, (bytesOfNat n v).length = n := by intro n; induction n with | zero => exact fun _ => rfl | succ k ih => intro v; simp [bytesOfNat, ih]
  simp only [headerBytes, List.flatMap_cons, List.flatMap_nil, List.length_append, hb, h, List.length_replicate, List.length_nil]
theorem test_witness_restore_record : let s := sBig .restoring; ∃ ls, checkRecord s area1 0 0 [] = .ok (s, ls) := by
  obtain ⟨l, hl⟩ := translateRange_big (sBig .restoring) (sBig_page _).1 4096 recordSize (by decide) accRead (.inl rfl)
  exact ⟨_, by simp only [checkRecord, homeReadRange, show clusterOf area1.core = 320 from rfl, show (sBig .restoring).partOf area1.core = 0 from rfl,
    show area1.base + 4096 + 0 * recordSize = 4096 from rfl, hl, bind, Except.bind, pure, Except.pure]; rfl⟩

/-! Ports, peers, publications, all-reduce, shuttles -/
def sPort (p : PortState) (tim : Nat) : State := { State.reset with
  links := { State.reset.links with ports := [(5, p)], route := [(9, 0x20)] }, pk := { State.reset.pk with tim := tim } }
theorem test_witness_ports : let e (i : Instr) (p : PortState) (tim : Nat) := (match exec i (sPort p tim) with | .next t => some (portState t 5) | _ => none)
    e (.portcEnable 5) .down 0 = some .training ∧ e (.trainingComplete 5 7) .training 0 = some .up ∧ e (.trainingTimeout 5) .training 10000000 = some .failed ∧
    e (.trainingTimeout 5) .training 9999999 = some .training ∧ e (.linkError 5) .up 0 = some .retraining ∧ e (.retrainComplete 5) .retraining 0 = some .up ∧
    e (.retrainTimeout 5) .retraining 2000000 = some .failed ∧ e (.partnerLost 5) .up 0 = some .down ∧ e (.partnerLost 5) .fenced 0 = some .fenced ∧
    e (.portcFence 5) .up 0 = some .fenced ∧ e (.portcDisable 5) .fenced 0 = some .down ∧ e (.portcDisable 5) .up 0 = some .up ∧
    after (exec (.retrainTimeout 5) (sPort .retraining 2000000)) (fun t => (t.die 1).events.map (fun r => (r.w0.toNat % 256, r.data0)) == [(5, 5)]) ∧
    after (exec (.switchNoPath 9 true) (sPort .up 0)) (fun t => peerState t 9 == .failed) ∧ peerState (sPort .up 0) 9 = .up := by
  refine ⟨?_, ?_, ?_, ?_, ?_, ?_, ?_, ?_, ?_, ?_, ?_, ?_, ?_, ?_, ?_⟩ <;> decide +kernel
/-- Publication 0, at DVA 0x200, copies DVA 0 to member 9, the handler entry 0 stands at DVA 0x800; page 1 is PS. -/
def pubRam : Mem := [(0x10209, 0x50), (0x10210, 1), (0x10212, 7), (0x10213, 1), (0x10220, 4), (0x10241, 2), (0x10806, 2), (0x10807, 0x80), (0x10808, 1), (0x1080A, 1)]
def lthr : Thread := { thr [(4, 0x44), (12, 0x2000000000000100), (13, 0x77), (14, 0), (15, 256), (16, 9), (17, 0x1009), (18, 0x80103), (19, 0x4000000000000100)] with gm := [(0, 3)] }
def sLink (t : Thread) : State := { stt t with
  clusters := [(0, { Cluster.reset with tlb := [(tlbKey 0 0 4096, leafN)] })]
  mem := { State.reset.mem with ram := pubRam.foldl (fun m c => mwrite m c.1 c.2) (tabRam 1 0x0F ++ [(0x13008, 0x0F), (0x1300A, 0x80), (0x1300F, 0x60)]) }
  parts := [(0, { ctx := .resident, proot := 0x10001, pubt := 0x200, htb := 0x800, subs := [(7, { live := true, ppkg := 9 })], groups := [(3, { state := 2, exp := 2 })] })]
  links := { State.reset.links with ports := [(5, .up)], route := [(9, 0x20)] } }
theorem test_witness_link_state : let s := sLink lthr; memWf s.mem.ram = true ∧ Claims.FromPeer s 9 0 ∧ anyPoison s.mem.ramPoison 0x10000 16 = false ∧ Claims.Failed s 8 ∧ ¬Claims.Failed s 9 ∧
    (match walk s 0 0 with | .leaf l => l.size | _ => 0) = 4096 ∧ (match walk s 0 0x1010 with | .leaf l => leafCls l.word | _ => 0) = 3 := by
  refine ⟨?_, ?_, ?_, ?_, ?_, ?_, ?_⟩ <;> decide +kernel
theorem test_witness_peer_page : Claims.PeerPage (sLink lthr) 0 0x100 8 0x10100 4 :=
  ⟨by decide +kernel, by decide +kernel, by decide +kernel, by decide +kernel, { word := 0x40000F, size := 4096, entry := 0x13000 }, 0x40031F, rfl, by decide +kernel, rfl⟩
theorem test_witness_ps_page : Claims.PsAt (sLink lthr) 0 0x1010 0x20010 :=
  ⟨by decide +kernel, by decide +kernel, { word := 0x600000000080000F, size := 4096, entry := 0x13008 }, rfl, by decide +kernel, by decide +kernel⟩
theorem test_witness_entry : Claims.EntryAt (sLink lthr) 0 0x200 192 0x10200 ∧ Claims.EntryAt (sLink lthr) 0 0x800 32 0x10800 :=
  ⟨⟨by decide +kernel, { word := 0x40000F, size := 4096, entry := 0x13000 }, rfl, by decide +kernel, by decide +kernel⟩, ⟨by decide +kernel, { word := 0x40000F, size := 4096, entry := 0x13000 }, rfl, by decide +kernel, by decide +kernel⟩⟩
/-- Every die relocks: the request stays where it is. -/
def relocked (s : State) : State := (List.range 4).foldl (fun z i => z.setDie i { Die.reset with relock := some (5, 0) }) s
theorem test_witness_peer_requests : let s := sLink lthr; let ask (op : PeerOp) (e : Option (BitVec 16)) := exec (.peerRequest 9 0 5 { op := op, epoch := e, release := none }) s
    after (ask (.load 0x212 1 false) none) (fun t => t.out == [.reply 9 5 0 0x212 [7]]) ∧ after (ask (.store 0x100 [1, 2]) (some 3)) (fun t => mreadN t.mem.ram 0x10100 2 == [1, 2] && performedCount t 9 5 3 == 1) ∧
    after (ask (.atomic 0 0x220 4 3 true false) none) (fun t => mread t.mem.ram 0x10220 == 7 && t.out == [.reply 9 5 0 0x220 [4, 0, 0, 0]]) ∧
    after (exec (.peerRequest 9 0 5 { op := .store 0x100 [1], epoch := none, release := some (3, 1) }) s) (fun t => t.links.held.length == 1 && t.out == []) ∧
    after (ask (.load 0x3000 8 false) none) (fun t => t.links.waiting.length == 1 && t.out == []) ∧
    after (exec (.peerRequest 9 4 5 { op := .load 0 8 false, epoch := none, release := none }) s) (fun t => t.out == [.reply 9 5 2 0 []]) ∧
    after (exec (.mcstCopyWrite 9 0 5 7 0x1010 6) s) (fun t => (t.sub 0 7).isOpen && mread t.mem.ram 0x20010 == 6) ∧ after (exec (.mcstCopyWrite 9 0 5 8 0x1010 6) s) (fun t => t.out == [.reply 9 5 6 0x1010 []]) ∧
    walkReachable s 0 0x3000 = true ∧ dvaHeld s 0 0x100 = false ∧ dvaHeld (relocked s) 0 0x212 = true ∧
    isNext (exec (.peerRequest 9 0 5 { op := .load 0x212 1 false, epoch := none, release := none }) (relocked s)) (relocked s) ∧ dvaHeld s 4 0 = false ∧
    after (exec (.staleNotice 9 0 7) s) (fun t => (t.sub 0 7).stale) ∧ after (exec (.versionBumpArrival 9 0 7 5 false []) s) (fun t => (t.sub 0 7).ver == 5) := by
  refine ⟨?_, ?_, ?_, ?_, ?_, ?_, ?_, ?_, ?_, ?_, ?_, ?_, ?_, ?_, ?_⟩ <;> decide +kernel
def heldReq (e : BitVec 16) : PeerWait := { pkg := 9, part := 0, tid := 5, req := { op := .store 0x100 [1], epoch := none, release := some (e, 1) }, tick := 0 }
theorem test_witness_counted_releases : let b := sLink lthr; let s : State := { b with links := { b.links with held := [heldReq 3], performed := [{ pkg := 9, tid := 5, epoch := 3, count := 1 }] } }
    let z : State := { b with links := { b.links with held := [heldReq 4] }, pk := { b.pk with tim := 500000 } }
    performedCount s 9 5 3 = 1 ∧ performedCount z 9 5 4 = 0 ∧ after (exec (.countedReleasePerform 0) s) (fun t => t.links.held == [] && mread t.mem.ram 0x10100 == 1) ∧
    isNext (exec (.countedReleasePerform 0) z) z ∧ after (exec (.countedReleaseTimeout 0) z) (fun t => t.links.held == []) ∧ isNext (exec (.countedReleaseTimeout 0) s) s := by
  refine ⟨?_, ?_, ?_, ?_, ?_, ?_⟩ <;> decide +kernel
/-- A store to package 9 is not acknowledged yet. -/
def ackThr : Thread := { lthr with peers := [(9, { epoch := 0, count := 0, pending := [(0x100, 0)], failed := false })], fenceStart := some (0, 200) }
theorem test_witness_acknowledgements : let s := sLink ackThr; let l (t : State) := Claims.unacknowledged t 0 9; let z := { s with pk := { s.pk with tim := 500000 } }
    let r : State := { z with links := { z.links with ports := [(5, .retraining)] } }
    Claims.NoKernels s ∧ l s = [] ++ [(0x100, 0)] ++ [] ∧ peerState s 9 = .up ∧ peerState r 9 = .retraining ∧ after (exec (.peerAck 0 0 9 false 0x100) s) (fun t => l t == [] && !t.me.refusedStore) ∧
    after (exec (.peerAck 0 0 9 true 0x100) s) (fun t => t.me.refusedStore && (t.die 0).events.map (fun r => r.w0.toNat % 256) == [0x0A]) ∧
    after (exec (.acknowledgementTimeout 0 0 9) z) (fun t => l t == [] && (t.me.peer 9).failed) ∧ isNext (exec (.rtboundExpiry 0 0 9) z) z ∧
    after (exec (.rtboundExpiry 0 0 9) r) (fun t => (t.me.peer 9).failed && l t == [(0x100, 0)]) := by
  refine ⟨?_, ?_, ?_, ?_, ?_, ?_, ?_, ?_, ?_⟩ <;> decide +kernel
/-- Slot 0's MCST waits for its one member. -/
def mc1 : McstPending := { seq := 1, pub := 0, pkg := 9, dva := 0x5100, tick := 0 }
noncomputable def wMc : Wait := { waitOf (.mcst 13 12 20) 0x01 0 true with aux := 1 }
noncomputable def sMc : State := sLink { lthr with state := .parked, wait := some wMc, mcstSeq := 1, mcstOpen := [mc1] }
theorem test_witness_mcst_waits : Claims.McstWaits sMc 0 9 0x5100 20 mc1 :=
  ⟨wMc, 13, 12, by decide +kernel, rfl, rfl, rfl, rfl, rfl, rfl, rfl, rfl⟩
theorem test_witness_mcst_ends : (sMc.me.peer 9).pending = [] ∧ after (exec (.peerAck 0 0 9 false 0x5100) sMc) (fun t => hasReply t 0 == some [(20, 0)]) ∧
    after (exec (.peerAck 0 0 9 true 0x5100) sMc) (fun t => hasReply t 0 == some [(20, Claims.oneFailed false 9)] && (staleOf t 0 0).contains 9) ∧
    after (exec (.acknowledgementTimeout 0 0 9) { sMc with pk := { sMc.pk with tim := 500000 } }) (fun t => hasReply t 0 == some [(20, Claims.oneFailed false 9)]) := by
  refine ⟨?_, ?_, ?_, ?_⟩ <;> decide +kernel
def pub0 : Publication := { psrc := 0, pdst := 0x5000, npage := 1, sub := 7, live := true, v := 4, memb := 0x200 }
theorem test_witness_publications : let s := sLink lthr; pubAt s 0 0 = some pub0 ∧ pub0.members = [9] ∧ Claims.GlobalAt s 0 (s.me.rg 12) 8 rightW 2 0x100 0x10100 0x40031F ∧ Claims.CanStore s ∧ (0x100 : Nat) % 4096 ≤ 4088 ∧ acquirePending s s.cur = false ∧ Claims.NoReleaseWait s 5 ∧
    after (exec (.mcst 13 12 0) s) (fun t => (t.core 0).storeq.map (fun e => (e.place, e.op)) == [(.global 0x100 0x10100 0x40031F, .mcst 0 1)] && t.me.mcstSeq == 1) ∧
    (waitAfter (exec (.mcst 13 12 20) s)).map (·.1) = some 1 ∧ trapAfter (exec (.mcst 13 18 20) s) = some (ALIGN, 0x80103) ∧ trapAfter (exec (.mcst 13 19 20) s) = some (SEGV, 0x4000000000000100) ∧
    trapAfter (exec (.pubv 14 15 20) s) = some (FORMAT, 256) ∧ trapAfter (exec (.pubv 14 16 20) s) = some (ACCESS, 9) ∧
    after (exec (.pubv 14 14 20) s) (fun t => mread t.mem.ram 0x10220 == 5 && t.me.rg 20 == 0 && t.out == [.bump 9 0 7 5 false []]) := by
  refine ⟨?_, ?_, ?_, ?_, ?_, ?_, ?_, ?_, ?_, ?_, ?_, ?_, ?_, ?_⟩ <;> decide +kernel
theorem test_witness_resync : let s := (sLink { lthr with g := [(13, 1)] }); pub0.npage = 1 ∧ (translate s 0 0 0 accRead 0).toOption.map (·.2) = some (0x40031F, 0x10000) ∧
    Claims.NoCopies s 0 ∧ Claims.NoReleaseWait s 5 ∧ s.me.rg 13 = 1 ∧ dieReachable s (dieOf (homeOf s 0 0 0x10000 0x40031F)) = true ∧ anyPoison s.mem.ramPoison 0x10000 4096 = false := by
  refine ⟨?_, ?_, ?_, ?_, ?_, ?_, ?_⟩ <;> decide +kernel
theorem test_witness_accepted_mcst : let b := sLink lthr; let e : StoreEntry := { oldest (.global 0x1100 0x10100 0x40031F) with bytes := [1, 0, 0, 0, 0, 0, 0, 0], op := .mcst 0 1 }
    let s : State := { b with cores := [(0, { Core.reset with asg := true, storeq := [e] })] }
    homedIn s 0 0 0x1100 0x10100 0x40031F = false ∧ pub0.psrc ≤ 0x1100 ∧ e.sent = false ∧ (s.cluster (clusterOf 0)).staging.length < stageCap s (clusterOf 0) ∧ dieReachable s (dieOf 0) = true ∧ after (exec (.storeAccept 0 0) s) (fun t => t.out == [.mcst 9 0 0 7 0x6100 1]) := by
  refine ⟨?_, ?_, ?_, ?_, ?_, ?_⟩ <;> decide +kernel
theorem test_witness_subscriptions : let s := sLink lthr; let z := s.setMe { s.me with g := [(12, 7), (13, 256)] }
    gAfter (exec (.subv 1 12 20) z) 20 = some 0x8000000000000009 ∧ gAfter (exec (.subv 0 12 20) z) 20 = some 0 ∧ trapAfter (exec (.subv 0 13 20) z) = some (FORMAT, 256) := by
  refine ⟨?_, ?_, ?_⟩ <;> decide +kernel
/-- Slots 0 and 1 contribute two 32-bit numbers each to group 3. -/
def con (op : BitVec 3) (x : Byte) : AredContrib := { op := op, fmt := 1, data := [x, 0, 0, 0, 0xFF, 0xFF, 0xFF, 0xFF] }
noncomputable def wAr : Wait := waitOf (.ared 0 19 18 20) 0x06 3 true
noncomputable def sAred (x : Group) : State := let b := sLink { lthr with state := .parked, wait := some wAr, aredIn := [(3, 0)] }; b.setGroup 0 3 x
def g3 (cs : List (Nat × AredContrib)) : Group := { state := 2, exp := 2, contribs := cs }
theorem test_witness_all_reduce : let s := sLink lthr; Claims.AredArgs (s.me.rg 18) 0 ∧ s.me.memberOf 3 = true ∧ Claims.AredBuffer s.me (s.me.rg 19) 8 0x100 ∧ Claims.NoReleaseWait s (s.group 0 3).scope.toNat ∧
    Claims.Unlocked s 0x100 8 ∧ Claims.Quiet s 0x100 8 ∧ (waitAfter (exec (.ared 0 19 18 20) s)) = some (6, 3) ∧
    after (exec (.ared 0 19 18 20) s) (fun t => (t.group 0 3).contribs.map (·.1) == [0] && t.me.aredIn == [(3, 0)]) ∧ trapAfter (exec (.ared 0 19 16 20) s) = some (FORMAT, 9) ∧
    (gAfter (exec (.ared 0 19 18 20) (s.setGroup 0 3 {})) 20) = some 0x1000000000000000 ∧ (gAfter (exec (.ared 0 19 18 20) (s.setGroup 0 3 { state := 3 })) 20) = some 0x8000000000000000 ∧
    trapAfter (exec (.ared 0 19 18 20) (s.setMe { s.me with gm := [] })) = some (ACCESS, 3) ∧ trapAfter (exec (.ared 0 18 18 20) s) = some (ALIGN, 0x80103) ∧
    after (exec (.ared 0 19 18 20) ((s.setMe { s.me with aredIn := [(3, 7)] }).setGroup 0 3 { g3 [] with alast := (0, [1, 2, 3, 4, 5, 6, 7, 8]) })) (fun t => spadBytes t.mem 0 0x100 8 == [1, 2, 3, 4, 5, 6, 7, 8] && t.me.rg 20 == 0x800000000000000) := by
  refine ⟨?_, ?_, ?_, ?_, ?_, ?_, ?_, ?_, ?_, ?_, ?_, ?_, ?_, ?_⟩ <;> decide +kernel
theorem test_witness_reduction_waiter : Claims.WaitsOnAred (sAred (g3 [(0, con 0 1), (1, con 0 2)])) 0 0 3 8 0x100 20 := by
  refine ⟨by decide +kernel, by decide +kernel, by decide +kernel, ⟨wAr, 0, 19, 18, rfl, rfl, rfl, rfl, rfl, by decide +kernel, by decide +kernel⟩, by decide +kernel, fun j h1 h2 => ?_⟩
  have hj : j < 8 := by simp only [coreOf] at h2; omega
  have h : ∀ j < 8, j ≠ 0 → ((sAred (g3 [(0, con 0 1), (1, con 0 2)])).thread j).wait = none := by decide +kernel
  exact h j hj h1
theorem test_witness_reductions : let s (cs : List (Nat × AredContrib)) := sAred (g3 cs); let e := Instr.aredPhaseComplete 0 3 [] false
    after (exec e (s [(0, con 0 1), (1, con 0 2)])) (fun t => spadBytes t.mem 0 0x100 8 == [3, 0, 0, 0, 0xFE, 0xFF, 0xFF, 0xFF] && hasReply t 0 == some [(20, 0)] && (t.group 0 3).aphase == 1) ∧
    after (exec e (s [(0, con 0 1), (1, con 1 2)])) (fun t => hasReply t 0 == some [(20, 0x4000000000000000)]) ∧ isNext (exec e (s [(0, con 0 1)])) (s [(0, con 0 1)]) ∧
    after (exec (.aredPhaseComplete 0 3 [] true) (let z := sAred { g3 [(0, con 0 1)] with scope := 5 }; { z with links := { z.links with route := [(8, 1), (9, 0x20)] } }))
      (fun t => hasReply t 0 == some [(20, 0x2000000000000000)] && t.mem == (s []).mem) := by
  refine ⟨?_, ?_, ?_, ?_⟩ <;> decide +kernel
/-- A result for a buffer under another slot's lock is stored when the reply is delivered (R65, R377). -/
theorem test_all_reduce_behind_a_lock : let s := sAred (g3 [(0, con 0 1), (1, con 0 2)])
    let locked (t : State) : State := t.setArch 0 { t.arch 0 with locks := [{ slot := 1, lo := 0x100, hi := 0x140, start := 0 }] }
    after (exec (.aredPhaseComplete 0 3 [] false) (locked s)) (fun t => (t.mem == s.mem) && isNext (exec (.parkWake 0 0) t) t &&
      after (exec (.parkWake 0 0) (t.setArch 0 { t.arch 0 with locks := [] }))
        (fun u => spadBytes u.mem 0 0x100 8 == [3, 0, 0, 0, 0xFE, 0xFF, 0xFF, 0xFF] && u.me.rg 20 == 0 && u.me.state == .ready && u.me.aredIn == [])) := by
  decide +kernel
theorem test_witness_shuttles : let s := sLink lthr; (s.me.rg 16).setWidth 10 = (9 : BitVec 10) ∧ s.pk.pkg ≠ 9 ∧ Claims.NoReleaseWait s 5 ∧ Claims.CanStore s ∧ trapAfter (exec (.shtl 1 1 17 20) s) = some (FORMAT, 0x1009) ∧
    after (exec (.shtl 1 1 16 20) s) (fun t => t.out == [.shuttle 9 0 { desc := 9, args := [0x44], tid := 0, reply := true, kid := 0 } (some (0, 0))] && t.me.wait.isSome) ∧
    gAfter (exec (.shtl 1 1 13 20) s) 20 = some 6 ∧ after (exec (.shtl 0 0 16 20) s) (fun t => (t.core 0).storeq.length == 1 && t.me.wait == none) ∧
    gAfter (exec (.shtr 16 20) (stt lone)) 20 = some 3 := by
  refine ⟨?_, ?_, ?_, ?_, ?_, ?_, ?_, ?_, ?_⟩ <;> decide +kernel
/-- A store that is not accepted holds SHTL. -/
theorem test_witness_shuttle_held : let b := sLink lthr; let s := b.setCore 0 { b.core 0 with storeq := [oldest (.spad 0 0)] }
    releaseWaits s s.cur 5 false = true ∧ isNext (exec (.shtl 1 1 16 20) s) s := by
  refine ⟨?_, ?_⟩ <;> decide +kernel
def shut (r : Bool) : Shuttle := { desc := 0x50000, args := [], tid := 0x90001, reply := r, kid := 3 }
def sShk (r rep : Bool) : State := let b := sLink { lthr with kid := kidOf 0 5 0 }
  { b with queues := [(5, { state := .opened, shuttle := true, kernels := [{ kern 0 .running with shuttle := some (shut r), replied := rep }] })] }
theorem test_witness_shuttle_replies : gAfter (exec (.shtr 13 20) (sShk false false)) 20 = some 2 ∧ gAfter (exec (.shtr 13 20) (sShk true true)) 20 = some 1 ∧
    after (exec (.shtr 13 20) (sShk true false)) (fun t => t.me.rg 20 == 0 && t.out == [.shuttleReply 9 0 3 0x90001 0x77 0x8000000000000000 0]) ∧ (sShk true false).kernel 5 0 ≠ none ∧ Claims.NoReleaseWait (sShk true false) 5 ∧
    (let b := sShk true false; let h := b.setCore 0 { b.core 0 with storeq := [oldest (.spad 0 0)] }; releaseWaits h h.cur 5 false = true ∧ isNext (exec (.shtr 13 20) h) h) := by
  refine ⟨?_, ?_, ?_, ?_, ?_, ?_⟩ <;> decide +kernel
def sArr (w : WorkQueue) : State := { sLink lthr with queues := [(5, w)] }
theorem test_witness_shuttle_arrivals : let w : WorkQueue := { state := .opened, shuttle := true }; let a (w : WorkQueue) := exec (.shuttleArrival 9 0 (shut true) none) (sArr w)
    let told (o : Out) (st : BitVec 4) := after o (fun t => t.out == [.shuttleStatus 9 0x90001 0x50000 st])
    queueHeld (sArr w) 5 = false ∧ queueHeld (relocked (sArr w)) 5 = true ∧ isNext (exec (.shuttleArrival 9 0 (shut true) none) (relocked (sArr w))) (relocked (sArr w)) ∧
    told (a { w with part := 3 }) 3 ∧ told (a { w with shuttle := false }) 4 ∧ told (a { w with state := .closed }) 2 ∧ told (a { w with qdep := 0, kernels := [kern 0 .waiting] }) 1 ∧
    after (a w) (fun t => (t.queue 5).kernels.map (fun k => (k.shuttle, k.state)) == [(some (shut true), .waiting)] && t.out == [.shuttleStatus 9 0x90001 0x50000 0]) ∧
    after (exec (.shuttleArrival 9 0 { shut true with desc := 0x100050000 } none) (sArr w)) (fun t => t.out == [.shuttleStatus 9 0x90001 0x100050000 5]) := by
  refine ⟨?_, ?_, ?_, ?_, ?_, ?_, ?_, ?_, ?_⟩ <;> decide +kernel
theorem test_witness_handler_entry (w : WorkQueue) : Claims.EntryAt (sArr {}) 0 0x800 32 0x10800 ∧ Claims.OnlyQueue (sArr w) 5 :=
  ⟨⟨by decide, { word := 0x40000F, size := 4096, entry := 0x13000 }, by decide +kernel, by decide, by decide +kernel⟩,
   fun _ hx => ⟨fun _ => List.mem_singleton.1 hx ▸ rfl, fun h => absurd (List.mem_singleton.1 hx ▸ rfl) h⟩⟩
theorem test_witness_shuttle_answers : let b := sLink { lthr with kid := 3 }; let p := sLink { lthr with kid := 3, inbox := List.replicate 16 (0, 0) }; let e := (sLink Thread.reset).setToken 0 6 { count := 2 }
    Claims.Sender b 3 (Claims.tidOf b 0 0) 0 0 ∧ b.links.loop = [] ∧ offThreads b 0 = [] ∧ (0x90000 : W64).extractLsb' 16 10 ≠ b.pk.pkg ∧
    after (exec (.shuttleRefusal 0 0 3 0x9 4) b) (fun t => t.me.shst == 0x0001000040000000) ∧ isNext (exec (.shuttleRefusal 0 0 4 0x9 4) b) b ∧
    after (exec (.shuttleReplyArrival 0 3 0 7 0x90000 0xFFFF) b) (fun t => t.me.inbox == [(7, 0x90000)]) ∧ after (exec (.shuttleReplyArrival 0 3 0 7 0x90000 6) p) (fun t => t.links.replies.length == 1) ∧
    after (exec (.shuttleReplyArrival 0 3 0 7 0x90000 6) e) (fun t => (t.token 0 6).count == 1 && t.me.inbox == []) := by
  refine ⟨?_, ?_, ?_, ?_, ?_, ?_, ?_, ?_, ?_⟩ <;> decide +kernel
theorem test_witness_held_replies : let b := sLink { lthr with kid := 3 }; let r : HeldReply := { part := 0, kid := 3, tid := 0, w1 := 1, w2 := 2, rtok := 0xFFFF, tick := 0 }
    let s (tim : Nat) : State := { b with links := { b.links with replies := [r] }, pk := { b.pk with tim := tim } }
    isNext (exec (.replyHoldTimeout 0) (s 499999)) (s 499999) ∧ after (exec (.replyHoldTimeout 0) (s 500000)) (fun t => t.links.replies == [] && t.me.shst == 0x0000010000000000) := by
  refine ⟨?_, ?_⟩ <;> decide +kernel

/-! Clocks, errors, the host, steps -/
def sDie (x : Die) (draw : Nat) : State := { State.reset with dies := [(1, x)], pk := { State.reset.pk with tim := 70000, powerLimit := draw } }
theorem test_witness_clocks : let d (i : Instr) (x : Die) (p : Die → Bool) := after (exec i (sDie x 500)) (fun t => p (t.die 1)); let r : Die := { Die.reset with relock := some (9, 4464), cyc := 5 }
    d (.mreqWrite 1 9) Die.reset (fun x => x.relock == some (9, 70000) && x.mreq == 9) ∧ d (.mreqWrite 1 4) Die.reset (fun x => x.relock == none && x.mreq == 4) ∧
    d (.mreqWrite 1 13) Die.reset (fun x => x == Die.reset) ∧ d (.mreqWrite 1 6) r (fun x => x.held == some 6) ∧ Claims.Fastest (sDie { Die.reset with mcur := 7 } 500) 1 ∧ Claims.Fastest State.reset 0 ∧
    d (.powerComparison 500) { Die.reset with mcur := 7 } (fun x => x.relock == some (6, 70000)) ∧ d (.powerComparison 499) { Die.reset with mcur := 7 } (fun x => x.relock == none) ∧
    after (exec (.powerComparison 1600) State.reset) (fun t => t.pk.alert) ∧ d (.powerComparison 500) { r with mcur := 7, held := some 5 } (fun x => x.held == some 5 && x.heldLim == some 6) ∧
    d (.relockEnd 1) r (fun x => x.mcur == 9 && x.stepn == 1 && x.relock == none && tget (0, 0, 0) x.log 1 == (70000, 5, 0x0000000100000049)) ∧
    d (.relockEnd 1) { r with held := some 6 } (fun x => x.relock == some (6, 70000) && x.held == none) ∧
    d (.relockEnd 1) { r with heldLim := some 8 } (fun x => x.relock == some (8, 70000)) ∧ d (.relockEnd 1) { r with heldLim := some 11 } (fun x => x.relock == none) ∧
    d (.relockEnd 1) { r with held := some 7, heldLim := some 5 } (fun x => x.relock == some (5, 70000)) := by
  refine ⟨?_, ?_, ?_, ?_, ?_, ?_, ?_, ?_, ?_, ?_, ?_, ?_, ?_, ?_, ?_⟩ <;> decide +kernel
/-- A reclaim that a relock of a die of its frames involves: its deadline is 65,536 ticks later; one on another die keeps it. -/
theorem test_witness_relocked_reclaim : let l (f : Nat) : Lease := { state := 3, deadline := 500, frames := [f] }
    let s (f : Nat) : State := { sDie { Die.reset with relock := some (9, 4464) } 500 with parts := [(0, { leases := [(2, l f)] })] }
    (∃ f ∈ (l (2 ^ 38)).frames, f / 2 ^ 38 % 4 = 1) ∧ after (exec (.relockEnd 1) (s (2 ^ 38))) (fun t => (t.lease 0 2).deadline == 66036) ∧
    after (exec (.relockEnd 1) (s 0)) (fun t => (t.lease 0 2).deadline == 500) := by
  refine ⟨?_, ?_, ?_⟩ <;> decide +kernel
def sScrub : State := { State.reset with
  clusters := [(0, { Cluster.reset with staging := [(5, staged 1 1 0)] })]
  cores := [(1, { Core.reset with shadow := some { part := 0, arch := CoreArch.reset, threads := [], spad := [], full := [], poison := [], hevecPend := none, tagWait := [] } })] }
theorem test_witness_scrubs : let c (t : State) (a : Nat) := tget 0 (t.die 0).raskts a; let s := sScrub
    after (exec (.scrubUnit 0 2 5 [] 3) s) (fun t => c t 2 == 3) ∧ after (exec (.scrubUnit 0 2 5 [1] 0) s) (fun t => c t 2 == 0x100000000 && t.mem.spadPoison == [21] && (t.die 0).events.length == 1) ∧
    after (exec (.scrubUnit 0 3 11 [1] 0) s) (fun t => t.mem.ramPoison == [21]) ∧ after (exec (.scrubUnit 0 3 10 [1] 0) s) (fun t => (tfind (t.cluster 0).staging 5).map (·.poison) == some 2) ∧
    after (exec (.scrubUnit 1 4 5 [1] 0) s) (fun t => (t.core 1).shadow.map (·.poison) == some [21]) ∧
    isNext (exec (.scrubUnit 0 2 5 [1] 0) { s with dies := [(0, { Die.reset with scrub := false })] }) { s with dies := [(0, { Die.reset with scrub := false })] } := by
  refine ⟨?_, ?_, ?_, ?_, ?_, ?_⟩ <;> decide +kernel
/-- Errors in arrays that no scrubber reads: the bank of core 0 of the loop's thread. -/
theorem test_witness_array_errors : let s : State := { st [] with mem := State.reset.mem }; let t0 := s.me
    t0.state ≠ .empty ∧ after (exec (.scrubUnit 0 1 (8 * 20) [0] 0) s) (fun t => tfind t.me.bad 20 == some (t0.rg 20 ^^^ 3)) ∧
    after (exec (.scrubUnit 0 1 (8 * 40) [0] 0) s) (fun t => t.me.killed == some POISON) ∧ after (exec (.scrubUnit 0 5 6 [0] 0) s) (fun t => (t.arch 0).accPoison == [3]) ∧
    after (exec (.scrubUnit 0 5 7 [0] 0) s) (fun t => (t.arch 0).cimPoison == [3]) ∧ after (exec (.scrubUnit 0 6 5 [1] 0) s) (fun t => t.mem.ramPoison == [21]) ∧
    after (exec (.scrubUnit 0 7 5 [1] 0) s) (fun t => t.pk.fatal == some 0) := by
  refine ⟨?_, ?_, ?_, ?_, ?_, ?_, ?_⟩ <;> decide +kernel
theorem test_witness_recovery : let s := sScrub; let b := { st [] with clusters := s.clusters }; (∀ c ∈ s.cores, ¬(c.2.asg = true)) ∧ (∃ c ∈ b.cores, c.1 < 1280 ∧ dieOf c.1 = 0 ∧ c.2.asg = true ∧ (b.part c.2.part.toNat).ctx = .resident) ∧
    (∀ j < 80, drainOpen s (0 * 80 + j) = true ∧ ∀ x ∈ (s.cluster (0 * 80 + j)).staging, homeUp s x.2 = true) ∧ homeUp (relocked s) (staged 1 1 0) = false ∧
    isNext (exec (.l2Recovery 0 true) (relocked s)) (relocked s) ∧
    after (exec (.l2Recovery 0 true) s) (fun t => (t.die 0).dected && (t.cluster 0).staging == []) ∧ isNext (exec (.l2Recovery 0 true) b) b := by
  refine ⟨?_, ?_, ?_, ?_, ?_, ?_, ?_⟩ <;> decide +kernel
theorem test_witness_dumps : let s (due : Option Nat) (tim : Nat) : State := { State.reset with pk := { State.reset.pk with dumpDue := due, tim := tim, dumpl := 100 } }
    after (exec (.fatalError 7) (s none 5)) (fun t => t.pk.fatal == some 7 && t.pk.dumpDue == some 5) ∧ after (exec .dumpWrite (s (some 0) 0)) (fun t => t.pk.stage == 0x88 && t.pk.dumpDue == none) ∧
    7920 ≤ { (s none 5).pk with dumpl := 8000 }.dumpl.toNat ∧ isNext (exec .dumpTimeout (s none 5)) (s none 5) ∧ isNext (exec .dumpTimeout (s (some 0) 9999999)) (s (some 0) 9999999) ∧ after (exec .dumpTimeout (s (some 0) 10000000)) (fun t => t.pk.stage == 0x88) ∧
    after (exec (.thermtrip 2) (s none 0)) (fun t => t.pk.thermtrip) := by
  refine ⟨?_, ?_, ?_, ?_, ?_, ?_, ?_⟩ <;> decide +kernel
/-- DVA 0 of partition 0 through BAR2 of function 1. -/
def sHost : State := sLink lthr
theorem test_witness_host_page : Claims.HostPage sHost 1 0x100 8 0 4 0x13000 0x10100 ∧ Claims.HostRefused sHost 1 0x3000 8 0 4 :=
  ⟨⟨by decide +kernel, by decide +kernel, by decide +kernel, by decide +kernel, { word := 0x40000F, size := 4096, entry := 0x13000 }, rfl, by decide +kernel, by decide +kernel, by decide +kernel, by decide +kernel, by decide +kernel⟩,
   ⟨by decide +kernel, by decide +kernel, by decide +kernel, by decide +kernel, .inl ⟨0, rfl⟩⟩⟩
theorem test_witness_host : let s := sHost; after (exec (.bar2Write 1 0x100 [1, 2]) s) (fun t => mreadN t.mem.ram 0x10100 2 == [1, 2]) ∧
    after (exec (.bar2Read 1 0x220 4) s) (fun t => t.out == [.hostRead 1 4]) ∧ after (exec (.bar2Read 1 0x3000 4) s) (fun t => t.out == [.hostRead 1 0xFFFFFFFF] && (t.die 0).events.length == 1) ∧
    after (exec (.bar2Atomic 1 0x220 0 4 3 0) s) (fun t => mread t.mem.ram 0x10220 == 7 && t.out == [.hostRead 1 4]) ∧ after (exec (.bar2Atomic 1 0x220 2 4 3 9) s) (fun t => mread t.mem.ram 0x10220 == 4) ∧
    after (exec (.bar2Atomic 1 0x220 3 4 3 9) s) (fun t => t.out == [.hostUnsupported 1]) ∧ after (exec (.mailboxMessage 0 [5]) s) (fun t => t.host.mailIn == [5]) ∧
    isNext (exec (.mailboxMessage 1 [5]) s) s ∧
    (let r := relocked s; dvaHeld r 0 ((tget 0 r.host.wbase 1).toNat + 0x100) = true ∧ isNext (exec (.bar2Write 1 0x100 [1, 2]) r) r ∧ isNext (exec (.bar2Read 1 0x220 4) r) r ∧
      isNext (exec (.bar2Atomic 1 0x220 0 4 3 0) r) r) := by
  refine ⟨?_, ?_, ?_, ?_, ?_, ?_, ?_, ?_, ?_⟩ <;> decide +kernel
/-- An image that every check passes, whatever the fused key and version are. -/
def image (treadle sig : Bool) : Image := { treadle := treadle, version := Config.minVersion, body := [], digest := sha256 [], keyDigest := Config.keyDigest, sigOk := sig }
theorem test_witness_image (t : Bool) : Claims.Verified t (image t true) ∧ ¬Claims.Verified t (image t false) := ⟨⟨rfl, rfl, rfl, Nat.le_refl _, rfl⟩, fun h => by cases h.2.1⟩
/-- FIPS 180-4's digest of the empty message. -/
theorem test_sha_empty : sha256 [] = 0xe3b0c44298fc1c149afbf4c8996fb92427ae41e4649b934ca495991b7852b855 := by decide +kernel
theorem test_witness_stages : let s (st : Byte) : State := { State.reset with pk := { State.reset.pk with stage := st } }
    after (exec (.imageSubmit 0 (image false false)) (s 0x82)) (fun t => t.pk.stage == 0x82) ∧ after (exec (.imageSubmit 0 (image true false)) (s 3)) (fun t => t.pk.stage == 0x84) ∧
    isNext (exec (.imageSubmit 0 (image true true)) (s 5)) (s 5) ∧ isNext (exec (.attestRequest 0 []) (s 1)) (s 1) ∧
    after (exec (.packageReset 9 5 false none) (s 5)) (fun t => t.pk.stage == 0x81 && t.pk.pkg == 9 && (t.die 2).dected && !(t.die 1).dected) ∧
    after (exec (.packageReset 9 5 true none) (s 5)) (fun t => t.pk.stage == 0x82) ∧ after (exec (.smbusReadTelemetry [40, 41] 300) (s 0)) (fun t => t.out == [.smbus [40, 41, 300]]) ∧
    after (exec .smbusReadStage (s 5)) (fun t => t.out == [.smbus [5]]) ∧ after (exec (.smbusSetPowerLimit 400) (s 0)) (fun t => t.pk.powerLimit == 400) ∧
    isNext (exec (.smbusSetPowerLimit 399) (s 0)) (s 0) := by
  refine ⟨?_, ?_, ?_, ?_, ?_, ?_, ?_, ?_, ?_, ?_⟩ <;> decide +kernel
/-- Slot 0 of core 0 fetches ADD g3, g1, g2 from its scratchpad, or any other word. -/
def pcThr (pc : W64) : Thread := { thr [(1, 5), (2, 6)] with pc := pc, sg := [(0, { base := 0, lim := 0x100000, attr := 0x204 })] }
noncomputable def sFetch (w : W32) (pc : W64) : State := { stt (pcThr pc) with
  mem := { State.reset.mem with spad := mwriteN [] 0x100 (bytesOfWord w) }
  schedule := [.issue 0] }
theorem test_witness_turn : let s := sFetch 0x00620860 0x100; Claims.OnlySlot s 0 0 ∧ Claims.Alone s 0 ∧ s.schedule = [.issue 0] ∧ 2 ^ 61 ≤ ((sFetch 0 0x2000000000000000).thread 0).pc.toNat ∧
    Claims.SegBad (pcThr 0x200000) 0x200000 4 rightX := by
  refine ⟨?_, ?_, ?_, ?_, ?_⟩ <;> decide +kernel
theorem test_witness_code : Claims.CodeAt (sFetch 0x00620860 0x100) 0 0x100 (bytesOfWord 0x00620860) :=
  ⟨by decide +kernel, 2, 0x100, by decide +kernel, .inl ⟨rfl, by decide +kernel, by decide +kernel, by decide +kernel⟩⟩
/-- A page of code that the cluster has translated. -/
theorem test_witness_code_page : let s : State := { sFetch 0 0 with
      threads := [(0, { pcThr 0 with sg := [(0, { base := 0, lim := 0x1000, attr := 0x104 })] })]
      clusters := [(0, { Cluster.reset with tlb := [(tlbKey 0 0 4096, leafN)] })] }
    Claims.CodeAt s 0 0 [0, 0, 0, 0] :=
  ⟨by decide +kernel, 1, 0, by decide +kernel, .inr ⟨by decide, by decide, 0x10000, fun k hk => ⟨0x40031F, by decide +kernel, fun e => by
      have : k = 0 := by simp only [List.length_cons, List.length_nil] at hk; omega
      subst this; rfl, by
      have : k = 0 := by simp only [List.length_cons, List.length_nil] at hk; omega
      subst this; change _ ∧ _ ∧ _; refine ⟨?_, ?_, ?_⟩ <;> decide +kernel⟩⟩⟩
theorem test_step_runs_add : after (step (sFetch 0x00620860 0x100)) (fun t => (t.thread 0).pc == 0x104 && (t.core 0).last == 0 && t.schedule == []) ∧
    after (step (sFetch 0xFFFFFFFF 0x100)) (fun t => (t.thread 0).state == .trapped && (t.arch 0).trapq.map (·.cause) == [ILLOP]) ∧
    after (step (sFetch 0 0x2000000000000000)) (fun t => (t.arch 0).trapq.map (·.cause) == [SEGV]) ∧
    after (step { State.reset with schedule := [.tick] }) (fun t => t.pk.tim == 1) ∧
    after (step { State.reset with schedule := [.event (.smbusSetPowerLimit 500)] }) (fun t => t.pk.powerLimit == 500) := by
  refine ⟨?_, ?_, ?_, ?_, ?_⟩ <;> decide +kernel
theorem test_witness_tick : let s := { State.reset with schedule := [.tick] }; s.pk.arrayFrac < 10 ∧ (s.die 3).relock = none ∧ (s.die 3).frac < 20 := by decide +kernel
theorem test_power_off : let s := { State.reset with pk := { State.reset.pk with thermtrip := true } }; s.schedule = [] ∧ (match step s with | .fault .powerOff => true | _ => false) = true := by
  refine ⟨?_, ?_⟩ <;> decide +kernel
theorem test_witness_canonical : Canonical State.reset ∧ after (step { State.reset with schedule := [.tick] }) (fun _ => true) := by
  refine ⟨?_, ?_⟩
  · unfold Canonical; decide +kernel
  · decide +kernel

theorem test_witness_encoding : (Instr.add 0 1 2 3).wf = true ∧ encode (Instr.add 0 1 2 3) = [0x44300] ∧ decodesTo (0x44300, .add 0 1 2 3) = true := by decide +kernel

end Sys2Proof.Tests
end

section
/-! PROOFS. Ticks, frequency steps, the power limiter and relocks (R14-R21), and the values reset leaves. -/

namespace Sys2Proof.Laws

open Sys2Proof Sys2Proof.Machine

/-! ## What the clock events run -/

theorem exec_mreqWrite (d : BitVec 2) (m : BitVec 4) (s : State) : exec (.mreqWrite d m) s = execMreqWrite d m s := rfl

theorem exec_powerComparison (draw : Nat) (s : State) : exec (.powerComparison draw) s = execPowerComparison draw s := rfl

theorem exec_relockEnd (d : BitVec 2) (s : State) : exec (.relockEnd d) s = execRelockEnd d s := rfl

/-! ## Ticks (R14, R15, R17) -/

theorem step_tick {s : State} {rest : List Turn} (h : s.schedule = .tick :: rest) :
    step s = .next (tickState { s with schedule := rest }) := by
  rw [step, h]; rfl

@[simp] theorem tickState_tim (s : State) : (tickState s).pk.tim = s.pk.tim + 1 := rfl
@[simp] theorem tickState_array (s : State) : (tickState s).pk.array = s.pk.array + (s.pk.arrayFrac + 11) / 10 := rfl
@[simp] theorem tickState_arrayFrac (s : State) : (tickState s).pk.arrayFrac = (s.pk.arrayFrac + 11) % 10 := rfl
@[simp] theorem tickState_threads (s : State) : (tickState s).threads = s.threads := rfl
@[simp] theorem tickState_cores (s : State) : (tickState s).cores = s.cores := rfl
@[simp] theorem tickState_mem (s : State) : (tickState s).mem = s.mem := rfl
@[simp] theorem tickState_schedule (s : State) : (tickState s).schedule = s.schedule := rfl

/-- Updating the first `n` dies in turn updates each of them once. -/
theorem die_upTo_setDie (f : Die → Die) (n : Nat) (s : State) (d : Nat) :
    (upTo n (fun s d => s.setDie d (f (s.die d))) s).die d = if d < n then f (s.die d) else s.die d := by
  induction n with
  | zero => rfl
  | succ n ih =>
    have last (g : State → Nat → State) : upTo (n + 1) g s = g (upTo n g s) n := by
      simp [upTo, List.range_succ]
    rw [last]
    by_cases hd : d = n
    · subst hd
      simpa using congrArg f ih
    · rw [die_setDie_other _ _ (Ne.symm hd), ih]
      simp only [show d < n + 1 ↔ d < n by omega]

theorem die_tickState (s : State) {d : Nat} (h : d < 4) : (tickState s).die d = dieTick (s.die d) :=
  (die_upTo_setDie dieTick 4 s d).trans (if_pos h)

theorem dieTick_relocking {x : Die} (h : x.relock ≠ none) : dieTick x = x := by
  obtain ⟨r, hr⟩ := Option.ne_none_iff_exists'.mp h
  rw [dieTick, hr]

theorem dieTick_running {x : Die} (h : x.relock = none) :
    dieTick x = { x with cyc := x.cyc + (x.frac + 3 * x.mcur.toNat) / 20, frac := (x.frac + 3 * x.mcur.toNat) % 20 } := by
  rw [dieTick, h]

theorem ticksMoveTheClocks : Claims.TicksMoveTheClocks := by
  intro s rest hs
  refine ⟨_, step_tick hs, tickState_tim _, tickState_threads _, tickState_mem _, tickState_cores _, tickState_schedule _, ?array,
    ?relocking, ?running⟩
  case array =>
    intro _
    simp only [tickState_array, tickState_arrayFrac]
    omega
  case relocking =>
    intro d hd hr
    exact (die_tickState _ hd).trans (dieTick_relocking hr)
  case running =>
    intro d hd hr _
    have ticked : (tickState { s with schedule := rest }).die d = dieTick (s.die d) := die_tickState _ hd
    simp only [ticked, dieTick_running hr]
    omega

/-! ## Changes of one die's record -/

theorem dieIs_refl (s : State) (d : Nat) : Claims.DieIs s s d (s.die d) := ⟨rfl, fun _ _ => rfl, rfl, rfl⟩

theorem dieIs_setDie (s : State) (d : Nat) (x : Die) : Claims.DieIs s (s.setDie d x) d x :=
  ⟨die_setDie_same s d x, fun _ h => die_setDie_other s x (Ne.symm h), rfl, rfl⟩

theorem dieIs_of_eq {s t : State} {d : Nat} {x y : Die} (h : Claims.DieIs s t d x) (e : x = y) : Claims.DieIs s t d y := e ▸ h

theorem dieIs_trans {s t u : State} {d : Nat} {x y : Die} (h : Claims.DieIs s t d x) (h' : Claims.DieIs t u d y) :
    Claims.DieIs s u d y := by
  obtain ⟨-, others, pk, mem⟩ := h
  obtain ⟨own, others', pk', mem'⟩ := h'
  exact ⟨own, fun e he => (others' e he).trans (others e he), pk'.trans pk, mem'.trans mem⟩

/-! ## Requests for a step (R17, R20) -/

/-- A die's record after a request for multiplier `m` at tick `tim`. -/
def requestedDie (x : Die) (tim : Nat) (m : BitVec 4) (limiter : Bool) : Die :=
  if x.relock = none then
    if m = x.mcur then x else { x with relock := some (m, tim) }
  else if limiter then { x with heldLim := some m } else { x with held := some m }

section
variable {x : Die} {tim : Nat} {m : BitVec 4} {limiter : Bool}

theorem requestedDie_starts (h : x.relock = none) (hm : m ≠ x.mcur) :
    requestedDie x tim m limiter = { x with relock := some (m, tim) } := (if_pos h).trans (if_neg hm)

theorem requestedDie_present (h : x.relock = none) (hm : m = x.mcur) : requestedDie x tim m limiter = x :=
  (if_pos h).trans (if_pos hm)

theorem requestedDie_holds (h : x.relock ≠ none) : requestedDie x tim m false = { x with held := some m } := if_neg h

theorem requestedDie_holdsLimiter (h : x.relock ≠ none) : requestedDie x tim m true = { x with heldLim := some m } := if_neg h

end

/-- A request changes at most its die's record: it names the present multiplier, or it is taken into the record. -/
theorem requestStep_eq (s : State) (d : Nat) (m : BitVec 4) (limiter : Bool) :
    (requestStep s d m limiter = s ∧ requestedDie (s.die d) s.pk.tim m limiter = s.die d) ∨
      requestStep s d m limiter = s.setDie d (requestedDie (s.die d) s.pk.tim m limiter) := by
  cases hr : (s.die d).relock with
  | some r => cases limiter <;> exact .inr (by simp only [requestStep, requestedDie, hr]; rfl)
  | none =>
    by_cases hm : m = (s.die d).mcur
    · exact .inl ⟨by simp only [requestStep, hr, if_pos hm], requestedDie_present hr hm⟩
    · exact .inr (by simp only [requestStep, hr, if_neg hm, requestedDie_starts hr hm, State.tim])

theorem dieIs_requestStep (s : State) (d : Nat) (m : BitVec 4) (limiter : Bool) :
    Claims.DieIs s (requestStep s d m limiter) d (requestedDie (s.die d) s.pk.tim m limiter) := by
  obtain ⟨hs, hx⟩ | hs := requestStep_eq s d m limiter
  · rw [hs, hx]
    exact dieIs_refl s d
  · rw [hs]
    exact dieIs_setDie s d _

theorem lease_requestStep (s : State) (d : Nat) (m : BitVec 4) (limiter : Bool) (p n : Nat) :
    (requestStep s d m limiter).lease p n = s.lease p n := by
  obtain ⟨hs, -⟩ | hs := requestStep_eq s d m limiter <;> rw [hs]
  rfl

theorem exec_mreqWrite_ignored {m : BitVec 4} (h : m.toNat < 4 ∨ 12 < m.toNat) (d : BitVec 2) (s : State) :
    exec (.mreqWrite d m) s = .next s :=
  (exec_mreqWrite d m s).trans (if_pos (by simpa [BitVec.lt_def] using h))

/-- A multiplier in range is kept in MREQ and requested. -/
theorem exec_mreqWrite_requests {m : BitVec 4} (lo : 4 ≤ m.toNat) (hi : m.toNat ≤ 12) (d : BitVec 2) (s : State) :
    ∃ t, exec (.mreqWrite d m) s = .next t ∧
      Claims.DieIs s t d.toNat (requestedDie { s.die d.toNat with mreq := m } s.pk.tim m false) := by
  have inRange : ¬(m < 4 ∨ 12 < m) := by simp [BitVec.lt_def]; omega
  refine ⟨_, (exec_mreqWrite d m s).trans (if_neg inRange),
    dieIs_trans (dieIs_setDie s d.toNat { s.die d.toNat with mreq := m }) ?_⟩
  simpa using dieIs_requestStep (s.setDie d.toNat { s.die d.toNat with mreq := m }) d.toNat m false

/-! ## The power limiter (R16) -/

/-- The die with the highest multiplier among the first `n`, ties to the lowest number. -/
def FastestBelow (s : State) (n d : Nat) : Prop :=
  d < n ∧ ∀ e < n, (s.die e).mcur.toNat ≤ (s.die d).mcur.toNat ∧ (e < d → (s.die e).mcur.toNat < (s.die d).mcur.toNat)

/-- The present best, or the next die where it is faster. -/
def fasterDie (s : State) (b d : Nat) : Nat := if (s.die b).mcur < (s.die d).mcur then d else b

theorem fastestBelow_fasterDie {s : State} {n b : Nat} (h : FastestBelow s n b) : FastestBelow s (n + 1) (fasterDie s b n) := by
  obtain ⟨hb, best⟩ := h
  unfold fasterDie
  split
  next faster =>
    rw [BitVec.lt_def] at faster
    refine ⟨Nat.lt_succ_self n, fun e he => ?_⟩
    obtain rfl | hen : e = n ∨ e < n := by omega
    · exact ⟨le_rfl, fun hlt => absurd hlt (lt_irrefl _)⟩
    · have := (best e hen).1
      omega
  next slower =>
    rw [BitVec.lt_def] at slower
    refine ⟨by omega, fun e he => ?_⟩
    obtain rfl | hen : e = n ∨ e < n := by omega
    · omega
    · exact best e hen

theorem fastest_fastestDie (s : State) : Claims.Fastest s (fastestDie s) := by
  have one : FastestBelow s 1 0 := by
    refine ⟨Nat.one_pos, fun e he => ?_⟩
    obtain rfl : e = 0 := by omega
    exact ⟨le_rfl, fun h => absurd h (lt_irrefl _)⟩
  exact fastestBelow_fasterDie (fastestBelow_fasterDie (fastestBelow_fasterDie one))

theorem fastest_unique {s : State} {j k : Nat} (hj : Claims.Fastest s j) (hk : Claims.Fastest s k) : j = k := by
  obtain ⟨j4, bestJ⟩ := hj
  obtain ⟨k4, bestK⟩ := hk
  have := bestJ k k4
  have := bestK j j4
  omega

theorem exec_powerComparison_below {draw : Nat} {s : State} (h : draw < s.pk.powerLimit) :
    exec (.powerComparison draw) s = .next { s with pk := { s.pk with alert := false } } :=
  (exec_powerComparison draw s).trans (if_pos h)

section
variable {draw k : Nat} {s : State} (atLimit : s.pk.powerLimit ≤ draw) (fastest : Claims.Fastest s k)
include atLimit fastest

theorem exec_powerComparison_lowest (h : (s.die k).mcur.toNat ≤ 4) :
    exec (.powerComparison draw) s = .next { s with pk := { s.pk with alert := true } } := by
  have lowest : (s.die k).mcur ≤ 4 := by simpa [BitVec.le_def] using h
  rw [exec_powerComparison, execPowerComparison, if_neg (by omega), fastest_unique (fastest_fastestDie s) fastest]
  exact if_pos lowest

theorem exec_powerComparison_requests (h : 4 < (s.die k).mcur.toNat) :
    ∃ t, exec (.powerComparison draw) s = .next t ∧
      Claims.DieIs s t k (requestedDie (s.die k) s.pk.tim ((s.die k).mcur - 1) true) := by
  have higher : ¬(s.die k).mcur ≤ 4 := by simp [BitVec.le_def]; omega
  refine ⟨_, ?_, dieIs_requestStep s k _ true⟩
  rw [exec_powerComparison, execPowerComparison, if_neg (by omega), fastest_unique (fastest_fastestDie s) fastest]
  exact if_neg higher

end

/-! ## The end of a relock (R17, R19-R21) -/

theorem tfind_map {α β : Type} (f : α → β) (t : Tab α) (a : Nat) : tfind (t.map (fun c => (c.1, f c.2))) a = (tfind t a).map f := by
  induction t with
  | nil => rfl
  | cons c r ih =>
    simp only [List.map_cons, tfind]
    split
    · rfl
    · exact ih

theorem tget_map {α β : Type} (f : α → β) (d : α) (t : Tab α) (a : Nat) :
    tget (f d) (t.map (fun c => (c.1, f c.2))) a = f (tget d t a) := by
  rw [tget, tfind_map, tget]
  cases tfind t a <;> rfl

/-- A lease after a relock of the die from tick `start` to tick `tim`. -/
def lengthenedLease (tim die start : Nat) (l : Lease) : Lease :=
  if l.state = 3 ∧ l.involves die then { l with deadline := l.deadline + (tim - max start l.since) } else l

/-- A partition after a relock of the die: its leases. -/
def lengthenedPart (tim die start : Nat) (p : Partition) : Partition :=
  { p with leases := p.leases.map (fun l => (l.1, lengthenedLease tim die start l.2)) }

theorem lease_lengthenReclaims (s : State) (die start p n : Nat) :
    (lengthenReclaims s die start).lease p n = lengthenedLease s.pk.tim die start (s.lease p n) := by
  have hpart : (lengthenReclaims s die start).part p = lengthenedPart s.pk.tim die start (s.part p) :=
    tget_map (lengthenedPart s.pk.tim die start) {} s.parts p
  rw [State.lease, hpart]
  exact tget_map (lengthenedLease s.pk.tim die start) {} (s.part p).leases n

theorem involves_iff (l : Lease) (die : Nat) : l.involves die = true ↔ ∃ f ∈ l.frames, f / 2 ^ 38 % 4 = die := by
  simp only [Lease.involves, List.any_eq_true, beq_iff_eq]

/-- A die's record when its relock to `m` ends, before a held request starts its step. -/
def relockedDie (x : Die) (tim : Nat) (m : BitVec 4) (start : Nat) : Die :=
  { x with
    relock := none, held := none, heldLim := none, mcur := m, rotBase := x.cyc, frac := 0, stepn := x.stepn + 1,
    log := tput x.log ((x.stepn + 1).toNat % 16) (logEntry x tim m start) }

/-- What a held request starts on a die at multiplier `m`. -/
def heldRelock (m : BitVec 4) (tim : Nat) : Option (BitVec 4) → Option (BitVec 4 × Nat)
  | some h => if h = m then none else some (h, tim)
  | none => none

theorem exec_relockEnd_idle {s : State} {d : BitVec 2} (h : (s.die d.toNat).relock = none) : exec (.relockEnd d) s = .next s := by
  rw [exec_relockEnd, execRelockEnd, h]

/-- The state in which a relock to `m` has ended: the die's record and the reclaims. -/
def relockEnded (s : State) (d : Nat) (m : BitVec 4) (start : Nat) : State :=
  lengthenReclaims (s.setDie d (relockedDie (s.die d) s.pk.tim m start)) d start

/-- Start the step that a die held, if any. -/
def startHeld (s : State) (d : Nat) : Option (BitVec 4) → State
  | some h => requestStep s d h false
  | none => s

theorem exec_relockEnd_relocking {s : State} {d : BitVec 2} {m : BitVec 4} {start : Nat}
    (h : (s.die d.toNat).relock = some (m, start)) :
    exec (.relockEnd d) s = .next (startHeld (relockEnded s d.toNat m start) d.toNat (heldStep (s.die d.toNat) m)) := by
  simp only [exec_relockEnd, execRelockEnd, h]
  cases heldStep (s.die d.toNat) m <;> rfl

theorem dieIs_relockEnded (s : State) (d : Nat) (m : BitVec 4) (start : Nat) :
    Claims.DieIs s (relockEnded s d m start) d (relockedDie (s.die d) s.pk.tim m start) := dieIs_setDie s d _

theorem lease_relockEnded (s : State) (d : Nat) (m : BitVec 4) (start p n : Nat) :
    (relockEnded s d m start).lease p n = lengthenedLease s.pk.tim d start (s.lease p n) := lease_lengthenReclaims _ d start p n

/-- On a die that does not relock, a held step becomes its relock. -/
theorem dieIs_startHeld {s : State} {d : Nat} (h : (s.die d).relock = none) (o : Option (BitVec 4)) :
    Claims.DieIs s (startHeld s d o) d { s.die d with relock := heldRelock (s.die d).mcur s.pk.tim o } := by
  cases o with
  | none => exact dieIs_of_eq (dieIs_refl s d) (by rw [heldRelock, ← h])
  | some r =>
    refine dieIs_of_eq (dieIs_requestStep s d r false) ?_
    by_cases hr : r = (s.die d).mcur
    · rw [requestedDie_present h hr, heldRelock, if_pos hr, ← h]
    · rw [requestedDie_starts h hr, heldRelock, if_neg hr]

theorem lease_startHeld (s : State) (d : Nat) (o : Option (BitVec 4)) (p n : Nat) : (startHeld s d o).lease p n = s.lease p n := by
  cases o with
  | none => rfl
  | some r => exact lease_requestStep s d r false p n

/-- What RELOCK_END leaves of the die's record: the next relock is that of what was held. -/
theorem dieIs_relockEnd (s : State) (d : Nat) (m : BitVec 4) (start : Nat) :
    Claims.DieIs s (startHeld (relockEnded s d m start) d (heldStep (s.die d) m)) d
      { relockedDie (s.die d) s.pk.tim m start with relock := heldRelock m s.pk.tim (heldStep (s.die d) m) } := by
  have ended := dieIs_relockEnded s d m start
  have ⟨own, _, pk, _⟩ := ended
  have started := dieIs_startHeld (s := relockEnded s d m start) (d := d) (by rw [own]; rfl) (heldStep (s.die d) m)
  rw [own, pk] at started
  exact dieIs_trans ended started

/-! ### The fields of the step log's third word (R21) -/

theorem toNat_append_eq {m n : Nat} (x : BitVec m) (y : BitVec n) : (x ++ y).toNat = x.toNat * 2 ^ n + y.toNat := by
  rw [BitVec.toNat_append, ← Nat.shiftLeft_add_eq_or_of_lt y.isLt, Nat.shiftLeft_eq]

theorem logEntry_fields (x : Die) (tim : Nat) (m : BitVec 4) (start : Nat) :
    let w := (logEntry x tim m start).2.2.toNat
    w / 2 ^ 32 = (x.stepn + 1).toNat % 2 ^ 32 ∧ w / 2 ^ 16 % 2 ^ 16 = (tim - start) % 2 ^ 16 ∧ w / 2 ^ 8 % 2 ^ 8 = 0 ∧
      w / 2 ^ 4 % 16 = x.mcur.toNat ∧ w % 16 = m.toNat := by
  have word : (logEntry x tim m start).2.2.toNat =
      (((x.stepn + 1).toNat % 2 ^ 32 * 2 ^ 16 + (tim - start) % 2 ^ 16) * 2 ^ 8 * 2 ^ 4 + x.mcur.toNat) * 2 ^ 4 + m.toNat := by
    simp only [logEntry, toNat_append_eq, BitVec.extractLsb'_toNat, BitVec.toNat_ofNat, Nat.shiftRight_zero, Nat.zero_mod, Nat.add_zero]
  have hold := x.mcur.isLt
  have hnew := m.isLt
  simp only [word]
  omega

/-! ### What was held, by what was pending (R20) -/

theorem heldRelock_heldStep (x : Die) (m : BitVec 4) (tim : Nat) :
    let steps (h : BitVec 4) : Prop :=
      heldRelock m tim (heldStep x m) = if h = m then none else some (h, tim)
    (x.held = none → x.heldLim = none → heldRelock m tim (heldStep x m) = none) ∧
      (∀ h, x.held = some h → x.heldLim = none → steps h) ∧
      (∀ l, x.held = none → x.heldLim = some l →
        if l.toNat < m.toNat then steps l else heldRelock m tim (heldStep x m) = none) ∧
      (∀ h l, x.held = some h → x.heldLim = some l → steps (if l.toNat < h.toNat then l else h)) := by
  refine ⟨fun hh hl => ?neither, fun h hh hl => ?request, fun l hh hl => ?limiter, fun h l hh hl => ?both⟩ <;>
    simp only [heldStep, hh, hl]
  case neither => rfl
  case request => rfl
  case limiter =>
    simp only [BitVec.lt_def]
    split <;> rfl
  case both => rfl

theorem lengthenedLease_involved {l : Lease} {die : Nat} (tim start : Nat) (hs : l.state = 3)
    (hf : ∃ f ∈ l.frames, f / 2 ^ 38 % 4 = die) :
    lengthenedLease tim die start l = { l with deadline := l.deadline + (tim - max start l.since) } :=
  if_pos ⟨hs, (involves_iff l die).mpr hf⟩

theorem lengthenedLease_other {l : Lease} {die : Nat} (tim start : Nat)
    (h : l.state ≠ 3 ∨ ∀ f ∈ l.frames, f / 2 ^ 38 % 4 ≠ die) : lengthenedLease tim die start l = l := by
  refine if_neg fun ⟨hs, hi⟩ => ?_
  obtain ⟨f, hf, hd⟩ := (involves_iff l die).mp hi
  exact h.elim (· hs) (· f hf hd)

/-! ## The statements -/

theorem clocksStepAndRelock : Claims.ClocksStepAndRelock := by
  intro s d m draw k x y write compare becomes
  refine ⟨fun h => exec_mreqWrite_ignored h d s, fun lo hi => ?mreq, exec_powerComparison_below,
    fun atLimit fastest => ⟨?lowest, ?limiter⟩, exec_relockEnd_idle, fun n start hr => ?relockEnd⟩
  case mreq =>
    obtain ⟨t, ht, changed⟩ := exec_mreqWrite_requests lo hi d s
    exact ⟨fun hr hm => ⟨t, ht, dieIs_of_eq changed (requestedDie_starts hr hm)⟩,
      fun hr hm => ⟨t, ht, dieIs_of_eq changed (requestedDie_present hr hm)⟩,
      fun hr => ⟨t, ht, dieIs_of_eq changed (requestedDie_holds hr)⟩⟩
  case lowest => exact exec_powerComparison_lowest atLimit fastest
  case limiter =>
    intro higher
    obtain ⟨t, ht, changed⟩ := exec_powerComparison_requests atLimit fastest higher
    have lower : y.mcur - 1 ≠ y.mcur := by bv_omega
    exact ⟨fun hr => ⟨t, ht, dieIs_of_eq changed (requestedDie_starts hr lower)⟩,
      fun hr => ⟨t, ht, dieIs_of_eq changed (requestedDie_holdsLimiter hr)⟩⟩
  case relockEnd =>
    refine ⟨_, exec_relockEnd_relocking hr, ?_⟩
    obtain ⟨own, others, -, mem⟩ := dieIs_relockEnd s d.toNat n start
    have lease := lease_startHeld (relockEnded s d.toNat n start) d.toNat (heldStep x n)
    intro z
    have recorded : z = { relockedDie x s.pk.tim n start with relock := heldRelock n s.pk.tim (heldStep x n) } := own
    clear_value z
    subst recorded
    intro e
    have logged : e = logEntry x s.pk.tim n start := tget_tput_same _ _ _ _
    clear_value e
    subst logged
    obtain ⟨number, duration, reserved, old, new⟩ := logEntry_fields x s.pk.tim n start
    refine ⟨rfl, rfl, rfl, rfl, rfl, number, duration, reserved, old, new, rfl, rfl, heldRelock_heldStep x n s.pk.tim,
      fun p i => ?_, others, mem⟩
    rw [lease, lease_relockEnded]
    exact ⟨fun ⟨reclaiming, copies⟩ => lengthenedLease_involved _ _ reclaiming copies, lengthenedLease_other _ _⟩

/-! ## The reset state (R15, R49, R59, R297, R325, R364): every table is empty, so an entry has the value of an unlisted one -/

theorem canonical_reset : Canonical State.reset := by
  rw [Canonical, wf_iff]
  exact ⟨memWf_nil, memWf_nil, memWf_nil⟩

@[simp] theorem die_reset (d : Nat) : State.reset.die d = Die.reset := rfl
@[simp] theorem core_reset (c : Nat) : State.reset.core c = Core.reset := rfl
@[simp] theorem arch_reset (c : Nat) : State.reset.arch c = CoreArch.reset := rfl
@[simp] theorem part_reset (p : Nat) : State.reset.part p = {} := rfl
@[simp] theorem queue_reset (q : Nat) : State.reset.queue q = {} := rfl
@[simp] theorem portState_reset (p : Nat) : portState State.reset p = .down := rfl
@[simp] theorem group_reset (p n : Nat) : State.reset.group p n = {} := rfl
@[simp] theorem token_reset (p n : Nat) : State.reset.token p n = {} := rfl
@[simp] theorem lease_reset (p n : Nat) : State.reset.lease p n = {} := rfl
@[simp] theorem sub_reset (p n : Nat) : State.reset.sub p n = {} := rfl
@[simp] theorem thread_reset (key : Nat) : State.reset.thread key = Thread.default key := rfl

theorem thread_reset_general {core slot : Nat} (h : slot < 7) : State.reset.thread (keyOf core slot) = Thread.reset :=
  if_neg (by simp only [keyOf]; omega)

theorem thread_reset_system (core : Nat) : State.reset.thread (keyOf core 7) = { Thread.reset with state := .parked } :=
  if_pos (by simp only [keyOf]; omega)

/-- Settles O51: a tick ticks each die once, a request and the limiter change one die's record to what `requestedDie` says, and the
end of a relock leaves `relockedDie` with the relock of what was held. -/
theorem clocksTickStepAndRelock : Obligations.ClocksTickStepAndRelock := ⟨ticksMoveTheClocks, clocksStepAndRelock⟩

/-- Settles O60: an unlisted entry of each table of the state has its reset value, and reset lists none. -/
theorem resetLeavesTheStatedValues : Obligations.ResetLeavesTheStatedValues := by
  refine ⟨canonical_reset, rfl, rfl, rfl, rfl, rfl, fun d => ?die, fun p => ?partition, fun c => ?core, fun core slot h => ?general,
    fun core => ?system, fun q => ?queue, fun p n => ?tables⟩
  case die => simp only [die_reset]; exact ⟨rfl, rfl, rfl, rfl, rfl, rfl⟩
  case partition => simp only [portState_reset, part_reset, and_self]
  case core => simp only [arch_reset, core_reset]; exact ⟨rfl, rfl, rfl, rfl⟩
  case general => rw [thread_reset_general h]; rfl
  case system => rw [thread_reset_system]; exact ⟨rfl, rfl⟩
  case queue => simp only [queue_reset, and_self]
  case tables => simp only [group_reset, token_reset, lease_reset, sub_reset, and_self]

end Sys2Proof.Laws
end

section
/-! PROOFS. The words of instructions (R23-R39): each instruction decodes from its own words, and a word that decodes is a word of
the instruction it decodes to. -/

namespace Sys2Proof.Laws

open Sys2Proof

/-! ## From an instruction to its words and back -/

/-- The round trip of every instruction: the law of its constructor, in the order of `Instr`. -/
theorem roundTrip : ∀ i, RoundTrip.Statement i :=
  @Instr.rec RoundTrip.Statement
    RoundTrip.mreqWrite RoundTrip.powerComparison RoundTrip.relockEnd RoundTrip.instructionComplete RoundTrip.parkWake
    RoundTrip.waitLimitExpiry RoundTrip.sleepTimeout RoundTrip.handlerStart RoundTrip.scrubComplete RoundTrip.lockTimeout
    RoundTrip.hevecWrite RoundTrip.cpartWrite RoundTrip.followerWaitExpiry RoundTrip.seqEntryIssue RoundTrip.seqEntryComplete
    RoundTrip.streamPrefetch RoundTrip.sfuAccept RoundTrip.sfuResult RoundTrip.normaliserService RoundTrip.matrixEntryStart
    RoundTrip.jobStepIssue RoundTrip.jobPromotion RoundTrip.enginePause RoundTrip.engineResume RoundTrip.mldbEnd RoundTrip.mzeroEnd
    RoundTrip.mrdEnd RoundTrip.copyRow RoundTrip.copyEnd RoundTrip.storeAccept RoundTrip.remoteReplyArrival RoundTrip.tileAccessMessage
    RoundTrip.homeAtomic RoundTrip.writebackMerge RoundTrip.stagingEviction RoundTrip.l2effSample RoundTrip.scrubUnit
    RoundTrip.reedArrivalMessage RoundTrip.tagMessage RoundTrip.tagRequestRetry RoundTrip.inboxDelivery RoundTrip.weftRequest
    RoundTrip.causalityWalk RoundTrip.qcfgOpen RoundTrip.qcfgClose RoundTrip.qcfgDrain RoundTrip.qcfgThaw RoundTrip.qcfgPurge
    RoundTrip.qcntClear RoundTrip.enqueueWindowWrite RoundTrip.dispatchDecision RoundTrip.rankBind RoundTrip.kernelReleaseEnd
    RoundTrip.watchdogExpiry RoundTrip.tokenHostWrite RoundTrip.partitionOpen RoundTrip.partitionClose RoundTrip.haltComplete
    RoundTrip.shadowTransferEnd RoundTrip.spillEnd RoundTrip.restoreEnd RoundTrip.migrationEnd RoundTrip.tableWalkEnd
    RoundTrip.pgwakeWake RoundTrip.pgwakeRefuse RoundTrip.evpop RoundTrip.pgpop RoundTrip.evstatClear RoundTrip.atsResponse
    RoundTrip.atsInvalidation RoundTrip.leaseGrant RoundTrip.leaseDeny RoundTrip.leaseReclaim RoundTrip.leaseTermEnd
    RoundTrip.reclaimGranuleCopy RoundTrip.leaseAck RoundTrip.reclaimDeadline RoundTrip.portcEnable RoundTrip.portcFence
    RoundTrip.portcDisable RoundTrip.trainingComplete RoundTrip.trainingTimeout RoundTrip.linkError RoundTrip.retrainComplete
    RoundTrip.retrainTimeout RoundTrip.partnerLost RoundTrip.peerRequest RoundTrip.peerAck RoundTrip.remoteAccessTimeout
    RoundTrip.countedReleaseTimeout RoundTrip.countedReleasePerform RoundTrip.mcstCopyWrite RoundTrip.staleNotice
    RoundTrip.aredPhaseComplete RoundTrip.shuttleArrival RoundTrip.shuttleReplyArrival RoundTrip.replyHoldTimeout
    RoundTrip.shuttleRefusal RoundTrip.bar2Write RoundTrip.bar2Read RoundTrip.bar2Atomic RoundTrip.mailboxMessage RoundTrip.imageSubmit
    RoundTrip.attestRequest RoundTrip.packageReset RoundTrip.l2Recovery RoundTrip.fatalError RoundTrip.dumpWrite RoundTrip.dumpTimeout
    RoundTrip.escalKillServed RoundTrip.escalKillAll RoundTrip.thermtrip RoundTrip.smbusReadTelemetry RoundTrip.smbusReadStage
    RoundTrip.smbusSetPowerLimit RoundTrip.registerWrite RoundTrip.add RoundTrip.sub RoundTrip.and RoundTrip.or RoundTrip.xor
    RoundTrip.andn RoundTrip.orn RoundTrip.xnor RoundTrip.shl RoundTrip.shr RoundTrip.shra RoundTrip.rol RoundTrip.ror RoundTrip.slt
    RoundTrip.sltu RoundTrip.min RoundTrip.max RoundTrip.minu RoundTrip.maxu RoundTrip.mul RoundTrip.hmul RoundTrip.hmulu
    RoundTrip.hmulm RoundTrip.div RoundTrip.divu RoundTrip.rem RoundTrip.remu RoundTrip.clz RoundTrip.ctz RoundTrip.popc RoundTrip.brev
    RoundTrip.bswap RoundTrip.sext RoundTrip.zext RoundTrip.bfx RoundTrip.bfi RoundTrip.csel RoundTrip.madd RoundTrip.msub
    RoundTrip.addi RoundTrip.andi RoundTrip.ori RoundTrip.xori RoundTrip.shli RoundTrip.shri RoundTrip.shrai RoundTrip.slti
    RoundTrip.sltiu RoundTrip.ldh RoundTrip.addpc RoundTrip.beq RoundTrip.bne RoundTrip.blt RoundTrip.bge RoundTrip.bltu RoundTrip.bgeu
    RoundTrip.jal RoundTrip.jalr RoundTrip.lb RoundTrip.lh RoundTrip.lw RoundTrip.ld RoundTrip.lbu RoundTrip.lhu RoundTrip.lwu
    RoundTrip.lq RoundTrip.ldc RoundTrip.ldaW RoundTrip.ldaD RoundTrip.ldaQ RoundTrip.sb RoundTrip.sh RoundTrip.sw RoundTrip.sd
    RoundTrip.sq RoundTrip.snib RoundTrip.strlW RoundTrip.strlD RoundTrip.strlQ RoundTrip.atomAddW RoundTrip.atomAndW RoundTrip.atomOrW
    RoundTrip.atomXorW RoundTrip.atomMinW RoundTrip.atomMaxW RoundTrip.atomMinuW RoundTrip.atomMaxuW RoundTrip.atomSwapW
    RoundTrip.atomAddD RoundTrip.atomAndD RoundTrip.atomOrD RoundTrip.atomXorD RoundTrip.atomMinD RoundTrip.atomMaxD RoundTrip.atomMinuD
    RoundTrip.atomMaxuD RoundTrip.atomSwapD RoundTrip.fatomFadd RoundTrip.fatomFmin RoundTrip.fatomFmax RoundTrip.fatompFadd
    RoundTrip.fatompFmin RoundTrip.fatompFmax RoundTrip.casW RoundTrip.casD RoundTrip.casQ RoundTrip.wbr RoundTrip.invr RoundTrip.disc
    RoundTrip.pref RoundTrip.cinv RoundTrip.fence RoundTrip.rel RoundTrip.acq RoundTrip.hint RoundTrip.fadd RoundTrip.fsub
    RoundTrip.fmul RoundTrip.fdiv RoundTrip.fsqrt RoundTrip.fmin RoundTrip.fmax RoundTrip.fcpys RoundTrip.fcpyns RoundTrip.fxors
    RoundTrip.feq RoundTrip.flt RoundTrip.fle RoundTrip.fkind RoundTrip.fmadd RoundTrip.fmsub RoundTrip.fnmadd RoundTrip.fnmsub
    RoundTrip.fcvt RoundTrip.ftog RoundTrip.ftogh RoundTrip.gtof RoundTrip.splat RoundTrip.shuf RoundTrip.flq RoundTrip.fsq
    RoundTrip.qadd RoundTrip.qsub RoundTrip.qmul RoundTrip.qshr RoundTrip.qsat RoundTrip.qrng RoundTrip.qabs RoundTrip.rsadd
    RoundTrip.rssub RoundTrip.rsmul RoundTrip.rsdiv RoundTrip.rsneg RoundTrip.rsrec RoundTrip.rssqr RoundTrip.rssqrt RoundTrip.rsuni
    RoundTrip.rsint RoundTrip.rsfrom RoundTrip.rslo RoundTrip.rshi RoundTrip.rspack RoundTrip.rsunpk RoundTrip.rsemp RoundTrip.rsldt
    RoundTrip.rsldg RoundTrip.fexp2 RoundTrip.flog2 RoundTrip.frcp RoundTrip.frsq RoundTrip.fsinpi RoundTrip.fcospi RoundTrip.ftanh
    RoundTrip.ferf RoundTrip.fsigm RoundTrip.sbound RoundTrip.sstride RoundTrip.sbase RoundTrip.sen RoundTrip.sdis RoundTrip.sdrain
    RoundTrip.sstat RoundTrip.seq RoundTrip.qwg RoundTrip.qwf RoundTrip.qrg RoundTrip.qrf RoundTrip.qcnt RoundTrip.mjobAcc
    RoundTrip.mjobOvr RoundTrip.mldb RoundTrip.mzero RoundTrip.mrd RoundTrip.mstat RoundTrip.cpyMem RoundTrip.cpyBob RoundTrip.cpyCim
    RoundTrip.ewait RoundTrip.efence RoundTrip.ecancel RoundTrip.reedArr RoundTrip.reedWait RoundTrip.reedSync RoundTrip.reedQry
    RoundTrip.lde RoundTrip.ldf RoundTrip.stf RoundTrip.ste RoundTrip.tagi RoundTrip.tagr RoundTrip.bbinit RoundTrip.bbres
    RoundTrip.bbcom RoundTrip.bbacq RoundTrip.bbrel RoundTrip.bbqry RoundTrip.msnd RoundTrip.mrcv RoundTrip.mpoll RoundTrip.skw
    RoundTrip.skr RoundTrip.skre RoundTrip.skbind RoundTrip.skflr RoundTrip.skqry RoundTrip.skunb RoundTrip.shtl RoundTrip.mcst
    RoundTrip.pubv RoundTrip.subv RoundTrip.ared RoundTrip.shtr RoundTrip.lreq RoundTrip.lrel RoundTrip.lqry RoundTrip.csrr
    RoundTrip.csrw RoundTrip.csrs RoundTrip.csrc RoundTrip.trap RoundTrip.eret RoundTrip.kill RoundTrip.yield RoundTrip.sleep
    RoundTrip.wake RoundTrip.kexit RoundTrip.twin RoundTrip.untwin RoundTrip.follow RoundTrip.detach RoundTrip.join RoundTrip.chk
    RoundTrip.nest RoundTrip.iter RoundTrip.rdcyc RoundTrip.rdtim RoundTrip.rdstep RoundTrip.launch RoundTrip.tokw RoundTrip.toks
    RoundTrip.tokq RoundTrip.toke RoundTrip.segr RoundTrip.segw RoundTrip.segn RoundTrip.splk RoundTrip.spul RoundTrip.pinv
    RoundTrip.pprobe RoundTrip.migr RoundTrip.ctxhalt RoundTrip.ctxsave RoundTrip.ctxrest RoundTrip.notAnInstruction
    RoundTrip.fetchSegmentFault RoundTrip.pcieCompletionTimeout RoundTrip.rtboundExpiry RoundTrip.acknowledgementTimeout
    RoundTrip.versionBumpArrival RoundTrip.switchNoPath RoundTrip.tokenRequest RoundTrip.launchRecordArrival

/-- Settles O54, by cases on the instruction: each constructor has its round trip. -/
theorem instructionsDecodeFromTheirWords : Obligations.InstructionsDecodeFromTheirWords := roundTrip

theorem decode_of_encode_single {i : Instr} {w : W32} (hwf : i.wf = true) (hw : encode i = [w]) :
    decode (bytesOfWord w) = .ok (i, []) := by
  have own := roundTrip i hwf (by rw [hw]; exact List.cons_ne_nil _ _)
  rwa [hw, List.flatMap_singleton] at own

theorem writtenWords_encode : ∀ x ∈ Claims.writtenWords, x.2.wf = true ∧ encode x.2 = [BitVec.ofNat 32 x.1] := by
  simp only [Claims.writtenWords]
  decide

/-- Its low byte 0xFF is no assigned major and quadrant (R39). -/
theorem decode_ones : decode (bytesOfWord 0xFFFFFFFF) = .error .major := rfl

/-- Settles O56: the written words are the encodings of well-formed instructions, so these decode from them; the word of ones has
no assigned major. -/
theorem writtenWordsDecode : Obligations.WrittenWordsDecode := by
  refine ⟨fun x hx => ?written, fun ⟨i, rest, h⟩ => ?ones⟩
  case written =>
    obtain ⟨hwf, hw⟩ := writtenWords_encode x hx
    exact decode_of_encode_single hwf hw
  case ones => cases decode_ones.symm.trans h

/-! ## From a word to its instruction and back: a field that passes its mask is made of its parts again -/

theorem flag0_of_mask {x : BitVec 4} (h : x &&& 14#4 = 0#4) : 0#3 ++ x.extractLsb' 0 1 = x := by
  revert x; decide

theorem flag2_of_mask {x : BitVec 4} (h : x &&& 14#4 = 4#4) : 2#3 ++ x.extractLsb' 0 1 = x := by
  revert x; decide

theorem flag4_of_mask {x : BitVec 4} (h : x &&& 14#4 = 8#4) : 4#3 ++ x.extractLsb' 0 1 = x := by
  revert x; decide

theorem width0_of_mask {x : BitVec 4} (h : x &&& 12#4 = 0#4) : 0#2 ++ x.extractLsb' 0 2 = x := by
  revert x; decide

theorem width1_of_mask {x : BitVec 4} (h : x &&& 12#4 = 4#4) : 1#2 ++ x.extractLsb' 0 2 = x := by
  revert x; decide

theorem width2_of_mask {x : BitVec 4} (h : x &&& 12#4 = 8#4) : 2#2 ++ x.extractLsb' 0 2 = x := by
  revert x; decide

theorem bit_of_mask {x : BitVec 5} (h : x &&& 30#5 = 0#5) : 0#4 ++ x.extractLsb' 0 1 = x := by
  revert x; decide

theorem format_of_mask {x : BitVec 5} (h : x &&& 16#5 = 0#5) : 0#1 ++ x.extractLsb' 0 4 = x := by
  revert x; decide

theorem banks_of_mask {x : BitVec 5} (h : x &&& 24#5 = 0#5) : 0#2 ++ x.extractLsb' 0 3 = x := by
  revert x; decide

theorem pair_of_mask {x : BitVec 5} (h : x &&& 28#5 = 0#5) : 0#3 ++ x.extractLsb' 0 2 = x := by
  revert x; decide

theorem scope_of_mask {x : BitVec 5} (h : x &&& 3#5 = 0#5) : x.extractLsb' 2 3 ++ 0#2 = x := by
  revert x; decide

theorem job_of_mask {x : BitVec 5} (h : x &&& 12#5 = 0#5) : x.extractLsb' 4 1 ++ 0#2 ++ x.extractLsb' 0 2 = x := by
  revert x; decide

theorem scope_order (x : BitVec 5) : x.extractLsb' 2 3 ++ x.extractLsb' 0 2 = x := by
  revert x; decide

/-! An immediate is cut at the fields it was joined from. -/

theorem fields6 (c : BitVec 1) (b : BitVec 5) :
    (c ++ b : BitVec 6).extractLsb' 5 1 = c ∧ (c ++ b : BitVec 6).extractLsb' 0 5 = b := by
  refine ⟨?_, ?_⟩ <;>
    simp (disch := omega) only [BitVec.extractLsb'_append_eq_of_le, BitVec.extractLsb'_append_eq_of_add_le] <;> simp

theorem fields12 (k : BitVec 2) (c b : BitVec 5) :
    (k ++ c ++ b : BitVec 12).extractLsb' 10 2 = k ∧
      (k ++ c ++ b : BitVec 12).extractLsb' 5 5 = c ∧
      (k ++ c ++ b : BitVec 12).extractLsb' 0 5 = b := by
  refine ⟨?_, ?_, ?_⟩ <;>
    simp (disch := omega) only [BitVec.extractLsb'_append_eq_of_le, BitVec.extractLsb'_append_eq_of_add_le] <;> simp

theorem fields14 (k : BitVec 4) (c b : BitVec 5) :
    (k ++ c ++ b : BitVec 14).extractLsb' 10 4 = k ∧
      (k ++ c ++ b : BitVec 14).extractLsb' 5 5 = c ∧
      (k ++ c ++ b : BitVec 14).extractLsb' 0 5 = b := by
  refine ⟨?_, ?_, ?_⟩ <;>
    simp (disch := omega) only [BitVec.extractLsb'_append_eq_of_le, BitVec.extractLsb'_append_eq_of_add_le] <;> simp

theorem fields19 (k : BitVec 4) (c b a : BitVec 5) :
    (k ++ c ++ b ++ a : BitVec 19).extractLsb' 15 4 = k ∧
      (k ++ c ++ b ++ a : BitVec 19).extractLsb' 10 5 = c ∧
      (k ++ c ++ b ++ a : BitVec 19).extractLsb' 5 5 = b ∧
      (k ++ c ++ b ++ a : BitVec 19).extractLsb' 0 5 = a := by
  refine ⟨?_, ?_, ?_, ?_⟩ <;>
    simp (disch := omega) only [BitVec.extractLsb'_append_eq_of_le, BitVec.extractLsb'_append_eq_of_add_le] <;> simp

theorem fields24 (k : BitVec 4) (c b a d : BitVec 5) :
    (k ++ c ++ b ++ a ++ d : BitVec 24).extractLsb' 20 4 = k ∧
      (k ++ c ++ b ++ a ++ d : BitVec 24).extractLsb' 15 5 = c ∧
      (k ++ c ++ b ++ a ++ d : BitVec 24).extractLsb' 10 5 = b ∧
      (k ++ c ++ b ++ a ++ d : BitVec 24).extractLsb' 5 5 = a ∧
      (k ++ c ++ b ++ a ++ d : BitVec 24).extractLsb' 0 5 = d := by
  refine ⟨?_, ?_, ?_, ?_, ?_⟩ <;>
    simp (disch := omega) only [BitVec.extractLsb'_append_eq_of_le, BitVec.extractLsb'_append_eq_of_add_le] <;> simp

theorem packWord_fields (w : W32) : packWord (fieldK w) (fieldC w) (fieldB w) (fieldA w) (fieldD w) (fieldOp w) = w := by
  unfold packWord fieldK fieldC fieldB fieldA fieldD fieldOp
  iterate 5 rw [BitVec.extractLsb'_append_extractLsb'_eq_extractLsb' (by rfl)]
  exact BitVec.extractLsb'_eq_self

/-- The words of an instruction whose first word has the given fields: an RP word and its four parameter words, or one word (R27). -/
def wordsOfFields (k : BitVec 4) (c b a d : Reg) (op : Byte) (p0 p1 p2 p3 : W32) : List W32 :=
  packWord k c b a d op :: if op == 0x02 || op == 0x0E then [p0, p1, p2, p3] else []

theorem wordsOfFields_word (w p0 p1 p2 p3 : W32) :
    wordsOfFields (fieldK w) (fieldC w) (fieldB w) (fieldA w) (fieldD w) (fieldOp w) p0 p1 p2 p3 =
      if isBlockWord w then [w, p0, p1, p2, p3] else [w] := by
  rw [wordsOfFields, packWord_fields, isBlockWord]
  split <;> rfl

/-- What a decoder answers is an error or a well-formed instruction whose words are `ws`. -/
def AnswersFor (ws : List W32) (r : Except DecodeError Instr) : Prop := ∀ i, r = .ok i → i.wf = true ∧ encode i = ws

theorem answersFor_error (ws : List W32) (e : DecodeError) : AnswersFor ws (.error e) := nofun

theorem answersFor_assigned {ws : List W32} {fits : Bool} {i : Instr} {other : Except DecodeError Instr}
    (hit : fits = true → encode i = ws) (miss : AnswersFor ws other) : AnswersFor ws (assigned fits i other) := by
  intro j h
  unfold assigned at h
  split at h
  next hf =>
    split at h
    next hwf =>
      cases h
      exact ⟨hwf, hit hf⟩
    next => cases h
  next => exact miss j h

section
variable {k : BitVec 4} {c b a d : Reg} {p0 p1 p2 p3 : W32}

/-- An assignment answers for the word when the fields of its instruction are those of the word wherever it fits. -/
theorem answersFor_assigned_fields {op : Byte} {fits : Bool} {i : Instr} {other : Except DecodeError Instr} {k' : BitVec 4}
    {c' b' a' d' : Reg} (words : encode i = wordsOfFields k' c' b' a' d' op p0 p1 p2 p3)
    (hit : fits = true → k' = k ∧ c' = c ∧ b' = b ∧ a' = a ∧ d' = d)
    (miss : AnswersFor (wordsOfFields k c b a d op p0 p1 p2 p3) other) :
    AnswersFor (wordsOfFields k c b a d op p0 p1 p2 p3) (assigned fits i other) := by
  refine answersFor_assigned (fun hf => ?_) miss
  obtain ⟨rfl, rfl, rfl, rfl, rfl⟩ := hit hf
  exact words

/-! The two majors with the most assignments; the others are cases of the opcode map below. -/

theorem answersFor_decode0x00 : AnswersFor (wordsOfFields k c b a d 0 p0 p1 p2 p3) (decode0x00 k c b a d) := by
  repeat' refine answersFor_assigned_fields rfl ?_ ?_
  all_goals simp +contextual [answersFor_error, flag0_of_mask]

theorem answersFor_decode1x0C : AnswersFor (wordsOfFields k c b a d 49 p0 p1 p2 p3) (decode1x0C k c b a d) := by
  repeat' refine answersFor_assigned_fields rfl ?_ ?_
  all_goals simp +contextual [answersFor_error, flag0_of_mask]

end

/-- By the opcode map: in each major, an assignment whose fixed fields and masks fit keeps every field of the word. -/
theorem answersFor_decodeFields (k : BitVec 4) (c b a d : Reg) (op : Byte) (p0 p1 p2 p3 : W32) :
    AnswersFor (wordsOfFields k c b a d op p0 p1 p2 p3) (decodeFields k c b a d op p0 p1 p2 p3) := by
  obtain ⟨n, hn⟩ := op
  unfold decodeFields
  rw [BitVec.toNat_ofFin]
  dsimp only
  split
  case h_1 => exact answersFor_decode0x00
  case h_42 => exact answersFor_decode1x0C
  all_goals repeat' refine answersFor_assigned_fields rfl ?_ ?_
  all_goals simp +contextual [answersFor_error, flag0_of_mask, flag2_of_mask, flag4_of_mask, width0_of_mask, width1_of_mask,
      width2_of_mask, bit_of_mask, format_of_mask, banks_of_mask, pair_of_mask, scope_of_mask, scope_order, job_of_mask,
      fields6, fields12, fields14, fields19, fields24]

/-- Settles O55: the fields of a word that decodes are those of its instruction's first word, and a word is made of its fields. -/
theorem decodedWordsEncodeBack : Obligations.DecodedWordsEncodeBack := by
  intro w p0 p1 p2 p3 i h
  rw [← wordsOfFields_word]
  exact answersFor_decodeFields _ _ _ _ _ _ _ _ _ _ i h

end Sys2Proof.Laws
end

section
/-! PROOFS. A turn of a core does not run every block that stands where its thread fetches: the line that the block's first word
brings into a full instruction store can displace the line that holds its parameter words (R25, R27, logs 89 and 91). -/

namespace Sys2Proof.Laws

open Sys2Proof Sys2Proof.Machine

/-! ## A trap of a thread that is in no pair (R58, R68) -/

/-- A thread that has taken a trap. -/
def trappedThread (t : Thread) : Thread :=
  { t.detach with state := .trapped, busy := none, wait := none, flight := false, rangeAt := 0, fenceStart := none }

theorem thread_takeTrap_alone {s : State} {key : Nat} (general : slotOf key < 6) (twl : (s.thread key).twl = false)
    (twt : (s.thread key).twt = false) (cause : Byte) (epc eval : W64) (k : Nat) :
    (takeTrap s key cause epc eval).thread k = if key = k then trappedThread (s.thread key) else s.thread k := by
  have system : slotOf key ≠ 7 := by omega
  have urgent : slotOf key ≠ 6 := by omega
  simp [takeTrap, system, repauseIf6, urgent, twl, twt, trappedThread, thread_setThread]

/-- MJOB whose first parameter word is an invalid marker traps ILLOP at that word (R28, R41). -/
theorem exec_mjobAcc_invalidMarker {p0 : W32} (marker : p0.extractLsb' 26 6 = 0x3F) (invalid : p0.extractLsb' 0 21 ≠ 0)
    (park : BitVec 1) (m : BitVec 2) (a : Reg) (p1 p2 p3 : W32) {s : State} (leads : twinLag s s.cur = false) :
    exec (.mjobAcc park m a p0 p1 p2 p3) s = .next (trapMe s ILLOP (s.me.pc + 4)) := by
  have body : mjobBody false park m a p0 p1 p2 p3 s = .error (.trap ILLOP (s.me.pc + 4)) := by
    rw [mjobBody, resolveParams, resolveParam, if_pos marker, if_neg invalid]
    rfl
  change run _ s (mjobBody false park m a p0 p1 p2 p3 s) = _
  rw [body, run, runBody, leads]
  rfl

/-! ## A block over two lines of code

Its first word is the last of line 0. The core's instruction store is full: it does not hold line 0, and line 1, its lowest, still
holds parameter words that the home has since lost. -/

/-- A line whose first word is an invalid marker and the rest zero. -/
def staleLine : BitVec 512 := 0xFC000001

/-- The block of line 1 as the store holds it. -/
noncomputable def staleBlock : Instr := .mjobAcc 0 0 0 0xFC000001 0 0 0

/-- A full instruction store: lines 1 … 1,024. -/
def fullStore : Tab (BitVec 512) := (List.range 1024).map (fun k => (k + 1, staleLine))

/-- A page of code, of class LC, with A set. -/
def codeLeaf : Leaf := { word := 0x40031F, size := 4096, entry := 0x8000 }

/-- A READY thread at the last word of line 0, whose sg0 holds that page as code. -/
def blockThread : Thread :=
  { Thread.reset with state := .ready, pc := 60, sg := [(0, { base := 0, lim := 0x1000, attr := 0x104 })], bound := true }

/-- It is in slot 0 of core 0, whose turn it is and whose instruction store holds `store`; the page is in the cluster's translation cache;
its home holds the block's first word and zeros after it. -/
def blockState (store : Tab (BitVec 512)) : State :=
  { State.reset with
    threads := [(0, blockThread)], cores := [(0, { Core.reset with asg := true, l1i := store })],
    clusters := [(0, { Cluster.reset with tlb := [(0, codeLeaf)] })], parts := [(0, { ctx := .resident })],
    mem := { State.reset.mem with ram := [(0x1003C, 2)] }, schedule := [.issue 0] }

theorem decode_staleBlock : decode (Claims.bytesOf staleBlock) = .ok (staleBlock, []) :=
  instructionsDecodeFromTheirWords staleBlock rfl (List.cons_ne_nil _ _)

theorem tfind_fullStore_line0 : tfind fullStore 0 = none := by decide +kernel

theorem tfind_fullStore_line1 : tfind fullStore 1 = some staleLine := by decide +kernel

theorem lineBytes_staleLine : ∀ k < 5, 0 < k →
    lineBytes staleLine ((60 + 4 * k) % 64) 4 = ((Claims.bytesOf staleBlock).drop (4 * k)).take 4 := by decide +kernel

section
variable (store : Tab (BitVec 512))

theorem onlySlot_blockState : Claims.OnlySlot (blockState store) 0 0 :=
  show Claims.OnlySlot (blockState []) 0 0 by decide +kernel

theorem segOk_blockState : Claims.SegOk ((blockState store).thread 0) 60 20 rightX 1 60 :=
  show Claims.SegOk blockThread 60 20 rightX 1 60 by decide +kernel

variable {a : Nat} (inPage : a < 4096)
include inPage

theorem tlbFind_blockState : tlbFind ((blockState store).cluster 0) 0 a = some codeLeaf := by
  have page : tlbKey 0 a 4096 = 0 := by simp [tlbKey]; omega
  change List.findSome? (fun size => tfind [(0, codeLeaf)] (tlbKey 0 a size)) [4096, 65536, 2 ^ 21, 2 ^ 30] = _
  rw [List.findSome?_cons, page]
  rfl

theorem translate_blockState (e : W64) :
    Machine.translate (blockState store) 0 0 a accExec e = .ok (blockState store, codeLeaf.word, 0x10000 + a) := by
  have pa : leafPA codeLeaf.word + a % codeLeaf.size = 0x10000 + a := congrArg (0x10000 + ·) (Nat.mod_eq_of_lt inPage)
  rw [Machine.translate.eq_1, tlbFind_blockState store inPage, ← pa]
  rfl

end

/-- The block's bytes stand where the thread fetches: its first word at home, its parameter words in the store's line 1. -/
theorem codeAt_blockState {store : Tab (BitVec 512)} (line0 : tfind store 0 = none) (line1 : tfind store 1 = some staleLine) :
    Claims.CodeAt (blockState store) 0 60 (Claims.bytesOf staleBlock) := by
  have part : (blockState store).partOf (coreOf 0) = 0 := rfl
  have held : ((blockState store).core (coreOf 0)).l1i = store := rfl
  have length : (Claims.bytesOf staleBlock).length = 20 := rfl
  rw [Claims.CodeAt, length]
  refine ⟨by decide, 1, 60, segOk_blockState store, .inr ⟨by decide, rfl, 0x1003C, fun k hk =>
    ⟨codeLeaf.word, by decide, fun e => ?translated, ?bytes⟩⟩⟩
  case translated =>
    rw [part, show 0x1003C + 4 * k = 0x10000 + (60 + 4 * k) by omega]
    exact translate_blockState store (by omega) e
  case bytes =>
    rw [part, held]
    obtain rfl | later : k = 0 ∨ 0 < k := by omega
    · rw [show lineKey 0 (60 + 4 * 0) = 0 from rfl, line0]
      exact ⟨rfl, rfl, rfl⟩
    · rw [show lineKey 0 (60 + 4 * k) = 1 by simp [lineKey]; omega, line1]
      exact lineBytes_staleLine k (by omega) later

/-! ## What the turn runs -/

/-- The state of a thread after a step. -/
def threadStateAfter (o : Out) (key : Nat) : Option SlotState :=
  match o with
  | .next t => some (t.thread key).state
  | _ => none

/-- Line 0 takes the place of line 1, the parameter words are fetched from the home, where they are zero, and MJOB does not trap. -/
theorem step_blockState_fullStore : threadStateAfter (step (blockState fullStore)) 0 = some .ready := by decide +kernel

/-- The block that stands in the state traps, and nothing takes part in its trap. -/
theorem exec_staleBlock_traps {s u : State} (thread : ∀ k, u.thread k = s.thread k) (cur : u.cur = 0)
    (alone : Claims.Alone s 0) : ∃ v, exec staleBlock u = .next v ∧ (v.thread 0).state = .trapped ∧ Claims.Alone v 0 := by
  obtain ⟨twl, twt, next⟩ := alone
  rw [← thread] at twl twt
  have after : ∀ k, (trapMe u ILLOP (u.me.pc + 4)).thread k = if 0 = k then trappedThread (u.thread 0) else u.thread k := by
    rw [trapMe, cur]
    exact thread_takeTrap_alone (by decide) twl twt _ _ _
  have pair : (trappedThread (u.thread 0)).twl = (u.thread 0).twl ∧ (trappedThread (u.thread 0)).twt = (u.thread 0).twt := by
    simp only [trappedThread, Thread.detach]
    split <;> exact ⟨rfl, rfl⟩
  refine ⟨_, exec_mjobAcc_invalidMarker (by decide) (by decide) _ _ _ _ _ _ ?leads, ?state, ?alone⟩
  case leads => rw [cur, twinLag, twl, Bool.false_and]
  case state => rw [after, if_pos rfl]; rfl
  case alone =>
    refine ⟨by rw [after, if_pos rfl, pair.1, twl], by rw [after, if_pos rfl, pair.2, twt], fun f hf => ?_⟩
    obtain rfl : f = 8 := (Option.some.inj hf).symm
    rw [after, if_neg (by decide), thread]
    exact next 8 hf

/-- Refutes O59: in `blockState fullStore` the bytes of `staleBlock`, which traps, stand at the thread's pc, yet its core's turn leaves
the thread READY: the first word's line displaces that of the parameter words, which then come from their home. -/
theorem not_stepRunsTheDecodedInstruction : ¬ Obligations.StepRunsTheDecodedInstruction := by
  rintro ⟨turns, -⟩
  have code := codeAt_blockState tfind_fullStore_line0 tfind_fullStore_line1
  obtain ⟨u, ⟨-, -, cur, thread, -⟩, runs⟩ :=
    (turns (blockState fullStore) 0 0 [] _ rfl (onlySlot_blockState _) code).1 staleBlock decode_staleBlock (by decide)
  obtain ⟨v, meaning, trapped, alone⟩ := exec_staleBlock_traps thread cur (by decide +kernel)
  obtain ⟨x, step_x, -, -, -, -, -, -, done⟩ := runs v meaning alone
  have ready : (x.thread 0).state = .ready := by
    have := step_blockState_fullStore
    rw [step_x] at this
    exact Option.some.inj this
  have still : x.thread 0 = { v.thread 0 with pass := false, flight := false } :=
    done (fun held => by simp [show keyOf 0 0 = 0 from rfl, trapped] at held)
  rw [still] at ready
  exact absurd (trapped.symm.trans ready) (by decide)

end Sys2Proof.Laws
end

section
/-! PROOFS. Results of the scalar integer instructions (R88-R98), their branches and jumps (R99-R101), the counter reads and HINT
(R107, R42), and what all of them leave alone (R87, R88). -/

namespace Sys2Proof.Laws

open Sys2Proof Sys2Proof.Machine

/-! ## The operations of R91 as functions of the views As, Au, Bs and Bu -/

theorem ofInt_sub (n : Nat) (i j : Int) : BitVec.ofInt n (i - j) = BitVec.ofInt n i - BitVec.ofInt n j := by
  rw [Int.sub_eq_add_neg, BitVec.ofInt_add, BitVec.ofInt_neg, BitVec.sub_eq_add_neg]

section
variable (n : Nat) (x y : BitVec n)

theorem opAdd_eq : opAdd n x y = BitVec.ofInt n (x.toInt + y.toInt) := by
  rw [BitVec.ofInt_add, BitVec.ofInt_toInt, BitVec.ofInt_toInt, opAdd]

theorem opSub_eq : opSub n x y = BitVec.ofInt n (x.toInt - y.toInt) := by
  rw [ofInt_sub, BitVec.ofInt_toInt, BitVec.ofInt_toInt, opSub]

theorem opMul_eq : opMul n x y = BitVec.ofInt n (x.toInt * y.toInt) := by
  rw [BitVec.ofInt_mul, BitVec.ofInt_toInt, BitVec.ofInt_toInt, opMul]

theorem shiftLeft_eq_ofNat (k : Nat) : x <<< k = BitVec.ofNat n (x.toNat * 2 ^ k) := by
  apply BitVec.eq_of_toNat_eq
  rw [BitVec.toNat_shiftLeft, BitVec.toNat_ofNat, Nat.shiftLeft_eq]

theorem shiftLeft_eq_ofInt (k : Nat) : x <<< k = BitVec.ofInt n (x.toInt * 2 ^ k) := by
  have power : BitVec.ofInt n (2 ^ k) = BitVec.twoPow n k := by
    apply BitVec.eq_of_toNat_eq
    rw [BitVec.toNat_twoPow, ← BitVec.toNat_ofNat, ← BitVec.ofInt_natCast, Nat.cast_pow]
    rfl
  rw [BitVec.shiftLeft_eq_mul_twoPow, BitVec.ofInt_mul, BitVec.ofInt_toInt, power]

theorem ushiftRight_eq_ofNat (k : Nat) : x >>> k = BitVec.ofNat n (x.toNat / 2 ^ k) := by
  rw [← Nat.shiftRight_eq_div_pow, ← BitVec.toNat_ushiftRight, BitVec.ofNat_toNat, BitVec.setWidth_eq]

theorem sshiftRight_eq_ofInt (k : Nat) : x.sshiftRight k = BitVec.ofInt n (x.toInt / 2 ^ k) := by
  rw [BitVec.sshiftRight_eq, Int.shiftRight_eq_div_pow, Nat.cast_pow]
  rfl

theorem opSlt_eq : opSlt n x y = BitVec.ofNat n (if x.toInt < y.toInt then 1 else 0) := by
  rw [opSlt, apply_ite (BitVec.ofNat n)]
  simp only [BitVec.slt_iff_toInt_lt]

theorem opSltu_eq : opSltu n x y = BitVec.ofNat n (if x.toNat < y.toNat then 1 else 0) := by
  rw [opSltu, apply_ite (BitVec.ofNat n)]
  simp only [BitVec.ult_iff_lt, BitVec.lt_def]

theorem opMin_eq : opMin n x y = BitVec.ofInt n (min x.toInt y.toInt) := by
  rw [opMin]
  by_cases less : x.toInt < y.toInt
  · rw [if_pos (BitVec.slt_iff_toInt_lt.mpr less), min_eq_left less.le, BitVec.ofInt_toInt]
  · rw [if_neg (mt BitVec.slt_iff_toInt_lt.mp less), min_eq_right (not_lt.mp less), BitVec.ofInt_toInt]

theorem opMax_eq : opMax n x y = BitVec.ofInt n (max x.toInt y.toInt) := by
  rw [opMax]
  by_cases less : x.toInt < y.toInt
  · rw [if_pos (BitVec.slt_iff_toInt_lt.mpr less), max_eq_right less.le, BitVec.ofInt_toInt]
  · rw [if_neg (mt BitVec.slt_iff_toInt_lt.mp less), max_eq_left (not_lt.mp less), BitVec.ofInt_toInt]

theorem opMinu_eq : opMinu n x y = BitVec.ofNat n (min x.toNat y.toNat) := by
  rw [opMinu]
  by_cases less : x.toNat < y.toNat
  · rw [if_pos (BitVec.ult_iff_lt.mpr less), min_eq_left less.le, BitVec.ofNat_toNat, BitVec.setWidth_eq]
  · rw [if_neg (mt BitVec.ult_iff_lt.mp less), min_eq_right (not_lt.mp less), BitVec.ofNat_toNat, BitVec.setWidth_eq]

theorem opMaxu_eq : opMaxu n x y = BitVec.ofNat n (max x.toNat y.toNat) := by
  rw [opMaxu]
  by_cases less : x.toNat < y.toNat
  · rw [if_pos (BitVec.ult_iff_lt.mpr less), max_eq_right less.le, BitVec.ofNat_toNat, BitVec.setWidth_eq]
  · rw [if_neg (mt BitVec.ult_iff_lt.mp less), max_eq_left (not_lt.mp less), BitVec.ofNat_toNat, BitVec.setWidth_eq]

/-! ## Divisions and remainders (R92) -/

theorem toInt_eq_zero_iff : y.toInt = 0 ↔ y = 0#n := by
  rw [← BitVec.toInt_inj, BitVec.toInt_zero]

theorem toNat_eq_zero_iff : y.toNat = 0 ↔ y = 0#n := by
  rw [← BitVec.toNat_inj, BitVec.toNat_ofNat, Nat.zero_mod]

theorem sdiv_eq_ofInt : x.sdiv y = BitVec.ofInt n (x.toInt.tdiv y.toInt) := by
  apply BitVec.eq_of_toInt_eq
  rw [BitVec.toInt_sdiv, BitVec.toInt_ofInt]

theorem srem_eq_ofInt : x.srem y = BitVec.ofInt n (x.toInt - y.toInt * x.toInt.tdiv y.toInt) := by
  rw [← Int.tmod_def, ← BitVec.toInt_srem, BitVec.ofInt_toInt]

/-- The one quotient that no `n` bits hold, 2^(n-1), wraps to the -2^(n-1) that R92 gives. -/
theorem ofInt_tdiv_overflow : BitVec.ofInt n ((-(2 ^ (n - 1)) : Int).tdiv (-1)) = BitVec.ofInt n (-(2 ^ (n - 1))) := by
  cases n with
  | zero => exact Subsingleton.elim _ _
  | succ m =>
    apply BitVec.eq_of_toInt_eq
    have wraps : (2 ^ m : Int) = -(2 ^ m) + (2 ^ (m + 1) : Nat) := by push_cast; ring
    rw [Int.neg_tdiv_neg, Int.tdiv_one, BitVec.toInt_ofInt, BitVec.toInt_ofInt, Nat.add_sub_cancel]
    conv_lhs => rw [wraps, Int.add_bmod_right]

theorem opDiv_eq : opDiv n x y = if y.toInt = 0 then BitVec.ofInt n (-1)
    else if x.toInt = -(2 ^ (n - 1)) ∧ y.toInt = -1 then BitVec.ofInt n (-(2 ^ (n - 1)))
    else BitVec.ofInt n (x.toInt.tdiv y.toInt) := by
  simp only [opDiv, toInt_eq_zero_iff]
  split
  case isTrue => rw [BitVec.not_zero, ← BitVec.neg_one_eq_allOnes, BitVec.ofInt_neg]; rfl
  case isFalse =>
    rw [sdiv_eq_ofInt]
    split
    case isTrue overflow =>
      obtain ⟨hx, hy⟩ := overflow
      rw [hx, hy, ofInt_tdiv_overflow]
    case isFalse => rfl

theorem opRem_eq : opRem n x y = if y.toInt = 0 then x
    else if x.toInt = -(2 ^ (n - 1)) ∧ y.toInt = -1 then 0
    else BitVec.ofInt n (x.toInt - y.toInt * x.toInt.tdiv y.toInt) := by
  simp only [opRem, toInt_eq_zero_iff]
  split
  case isTrue => rfl
  case isFalse =>
    rw [srem_eq_ofInt]
    split
    case isTrue overflow =>
      obtain ⟨-, hy⟩ := overflow
      rw [hy, ← Int.tmod_def, Int.tmod_neg, Int.tmod_one]
      rfl
    case isFalse => rfl

theorem opDivu_eq : opDivu n x y = BitVec.ofNat n (if y.toNat = 0 then 2 ^ n - 1 else x.toNat / y.toNat) := by
  rw [opDivu, apply_ite (BitVec.ofNat n)]
  simp only [toNat_eq_zero_iff]
  split
  case isTrue => rw [BitVec.not_zero, ← BitVec.toNat_allOnes, BitVec.ofNat_toNat, BitVec.setWidth_eq]
  case isFalse => rw [← BitVec.toNat_udiv, BitVec.ofNat_toNat, BitVec.setWidth_eq]

theorem opRemu_eq : opRemu n x y =
    BitVec.ofNat n (if y.toNat = 0 then x.toNat else x.toNat - y.toNat * (x.toNat / y.toNat)) := by
  rw [opRemu, apply_ite (BitVec.ofNat n), ← Nat.mod_eq_sub, ← BitVec.toNat_umod]
  simp only [toNat_eq_zero_iff, BitVec.ofNat_toNat, BitVec.setWidth_eq]

end

/-! ## The two widths of an operation (R88) -/

theorem inWidth_eq_aluOp (w : BitVec 1) (f : (n : Nat) → BitVec n → BitVec n → BitVec n) (x y : W64) :
    Claims.inWidth w f x y = aluOp w f x y := by
  obtain rfl | rfl : w = 0 ∨ w = 1 := by revert w; decide
  · rfl
  · rfl

/-- An operation is computed in n bits and extended by the sign, n = 64 or, for .W, 32. -/
theorem aluOp_eq_signExtend (w : BitVec 1) (f : (n : Nat) → BitVec n → BitVec n → BitVec n) (x y : W64) :
    aluOp w f x y = (f (if w = 0 then 64 else 32) (x.setWidth _) (y.setWidth _)).signExtend 64 := by
  obtain rfl | rfl : w = 0 ∨ w = 1 := by revert w; decide
  · exact (BitVec.signExtend_eq _).symm
  · rfl

/-! ## The rows of the tables -/

/-- An instruction that ends with the value of `op` follows a row that gives the same value. -/
theorem scalarEnd_of_op {i : Instr} {s : State} {d : Reg} {w : BitVec 1} {x y : W64} {lat : Nat}
    {op res : (n : Nat) → BitVec n → BitVec n → BitVec n} (ends : exec i s = .next (aluDone s d (aluOp w op x y) lat))
    (value : ∀ n x y, op n x y = res n x y) : exec i s = Claims.scalarEnd s d (Claims.inWidth w res x y) lat := by
  obtain rfl : op = res := funext fun n => funext fun x => funext fun y => value n x y
  rw [ends, inWidth_eq_aluOp]
  rfl

theorem aluResultsFollowTheTable : Claims.AluResultsFollowTheTable := by
  simp only [Claims.AluResultsFollowTheTable, Claims.aluTable, List.forall_mem_cons]
  exact ⟨fun _ _ _ _ _ => scalarEnd_of_op rfl opAdd_eq,
    fun _ _ _ _ _ => scalarEnd_of_op rfl opSub_eq,
    fun _ _ _ _ _ => scalarEnd_of_op (op := opAnd) rfl fun _ _ _ => rfl,
    fun _ _ _ _ _ => scalarEnd_of_op (op := opOr) rfl fun _ _ _ => rfl,
    fun _ _ _ _ _ => scalarEnd_of_op (op := opXor) rfl fun _ _ _ => rfl,
    fun _ _ _ _ _ => scalarEnd_of_op (op := opAndn) rfl fun _ _ _ => rfl,
    fun _ _ _ _ _ => scalarEnd_of_op (op := opOrn) rfl fun _ _ _ => rfl,
    fun _ _ _ _ _ => scalarEnd_of_op (op := opXnor) rfl fun _ _ _ => rfl,
    fun _ _ _ _ _ => scalarEnd_of_op (op := opShl) rfl fun n x _ => shiftLeft_eq_ofNat n x _,
    fun _ _ _ _ _ => scalarEnd_of_op (op := opShr) rfl fun n x _ => ushiftRight_eq_ofNat n x _,
    fun _ _ _ _ _ => scalarEnd_of_op (op := opShra) rfl fun n x _ => sshiftRight_eq_ofInt n x _,
    fun _ _ _ _ _ => scalarEnd_of_op (op := opRol) rfl fun _ _ _ => rfl,
    fun _ _ _ _ _ => scalarEnd_of_op (op := opRor) rfl fun _ _ _ => rfl,
    fun _ _ _ _ _ => scalarEnd_of_op rfl opSlt_eq,
    fun _ _ _ _ _ => scalarEnd_of_op rfl opSltu_eq,
    fun _ _ _ _ _ => scalarEnd_of_op rfl opMin_eq,
    fun _ _ _ _ _ => scalarEnd_of_op rfl opMax_eq,
    fun _ _ _ _ _ => scalarEnd_of_op rfl opMinu_eq,
    fun _ _ _ _ _ => scalarEnd_of_op rfl opMaxu_eq,
    fun _ _ _ _ _ => scalarEnd_of_op rfl opMul_eq,
    fun _ _ _ _ _ => scalarEnd_of_op (op := opHmul) rfl fun _ _ _ => rfl,
    fun _ _ _ _ _ => scalarEnd_of_op (op := opHmulu) rfl fun _ _ _ => rfl,
    fun _ _ _ _ _ => scalarEnd_of_op (op := opHmulm) rfl fun _ _ _ => rfl, nofun⟩

theorem divLat_eq (w : BitVec 1) : divLat w = if w = 0 then 40 else 24 := by
  revert w; decide

theorem divisionResultsAreTotal : Claims.DivisionResultsAreTotal := by
  simp only [Claims.DivisionResultsAreTotal, Claims.divTable, List.forall_mem_cons, ← divLat_eq]
  exact ⟨fun _ _ _ _ _ => scalarEnd_of_op rfl opDiv_eq, fun _ _ _ _ _ => scalarEnd_of_op rfl opRem_eq,
    fun _ _ _ _ _ => scalarEnd_of_op rfl opDivu_eq, fun _ _ _ _ _ => scalarEnd_of_op rfl opRemu_eq, nofun⟩

/-! ## Counts and reversals, bit by bit (R91, rows 27 to 31) -/

section
variable {n : Nat} (x : BitVec n)

theorem clzOf_le : clzOf x ≤ n := by
  unfold clzOf
  split <;> omega

/-- The highest one bit stands `clzOf` below the top, and only zero bits stand above it. -/
theorem getLsbD_above_clzOf {k : Nat} (h : k < clzOf x) : x.getLsbD (n - 1 - k) = false := by
  unfold clzOf at h
  split at h
  case isTrue zero => rw [zero, BitVec.getLsbD_zero]
  case isFalse =>
    have above : Nat.log2 x.toNat + 1 ≤ n - 1 - k := by omega
    exact Nat.testBit_lt_two_pow (lt_of_lt_of_le Nat.lt_log2_self (Nat.pow_le_pow_right two_pos above))

theorem getLsbD_at_clzOf (h : clzOf x < n) : x.getLsbD (n - 1 - clzOf x) = true := by
  unfold clzOf at h ⊢
  split
  case isTrue zero => rw [if_pos zero] at h; omega
  case isFalse nonzero =>
    have nonzero : x.toNat ≠ 0 := mt (toNat_eq_zero_iff n x).mp nonzero
    have below : Nat.log2 x.toNat < n := (Nat.log2_lt nonzero).mpr x.isLt
    rw [show n - 1 - (n - 1 - Nat.log2 x.toNat) = Nat.log2 x.toNat by omega]
    exact Nat.testBit_log2 nonzero

/-- The lowest one bit, where there is one. -/
theorem ctzOf_spec : ctzOf x ≤ n ∧ (∀ k < ctzOf x, x.getLsbD k = false) ∧ (ctzOf x < n → x.getLsbD (ctzOf x) = true) := by
  unfold ctzOf
  cases found : (List.range n).find? fun i => x.getLsbD i with
  | none =>
    have zeros := List.find?_range_eq_none.mp found
    exact ⟨le_rfl, fun k hk => (Bool.not_eq_true' _).mp (zeros k hk), fun h => absurd h (lt_irrefl n)⟩
  | some z =>
    obtain ⟨one, inRange, zeros⟩ := List.find?_range_eq_some.mp found
    exact ⟨(List.mem_range.mp inRange).le, fun k hk => (Bool.not_eq_true' _).mp (zeros k hk), fun _ => one⟩

theorem getLsbD_reverse_eq {k : Nat} (h : k < n) : x.reverse.getLsbD k = x.getLsbD (n - 1 - k) := by
  rw [BitVec.getLsbD_reverse, BitVec.getMsbD, decide_eq_true h, Bool.true_and]

end

/-! ## Bytes of a number -/

@[simp] theorem length_bytesOfNat (m v : Nat) : (bytesOfNat m v).length = m := by
  induction m generalizing v with
  | zero => rfl
  | succ m ih => rw [bytesOfNat, List.length_cons, ih]

theorem getElem?_bytesOfNat {m k : Nat} (v : Nat) (h : k < m) : (bytesOfNat m v)[k]? = some (BitVec.ofNat 8 (v / 256 ^ k)) := by
  induction m generalizing v k with
  | zero => omega
  | succ m ih =>
    cases k with
    | zero => rw [bytesOfNat, List.getElem?_cons_zero, Nat.pow_zero, Nat.div_one]
    | succ k => rw [bytesOfNat, List.getElem?_cons_succ, ih _ (by omega), Nat.div_div_eq_div_mul, Nat.pow_succ']

theorem ofNat_natOfBytes_div (bs : List Byte) {k : Nat} {b : Byte} (h : bs[k]? = some b) :
    BitVec.ofNat 8 (natOfBytes bs / 256 ^ k) = b := by
  induction bs generalizing k with
  | nil => cases h
  | cons c bs ih =>
    apply BitVec.eq_of_toNat_eq
    rw [natOfBytes, BitVec.toNat_ofNat]
    cases k with
    | zero =>
      obtain rfl := Option.some.inj h
      have := c.isLt
      omega
    | succ k =>
      rw [← ih h, BitVec.toNat_ofNat, Nat.pow_succ', ← Nat.div_div_eq_div_mul, Nat.add_mul_div_left _ _ (by decide),
        Nat.div_eq_of_lt c.isLt, Nat.zero_add]

/-- Byte `k` of a word. -/
theorem extractLsb'_byte {n : Nat} (v k : Nat) (h : k < n / 8) :
    (BitVec.ofNat n v).extractLsb' (8 * k) 8 = BitVec.ofNat 8 (v / 256 ^ k) := by
  apply BitVec.eq_of_getLsbD_eq
  intro i hi
  rw [BitVec.getLsbD_extractLsb', BitVec.getLsbD_ofNat, BitVec.getLsbD_ofNat, show 256 = 2 ^ 8 from rfl, ← Nat.pow_mul,
    Nat.testBit_div_two_pow, Nat.add_comm i, decide_eq_true hi, decide_eq_true (show 8 * k + i < n by omega), Bool.true_and]

theorem extractLsb'_bswapOf {n : Nat} (x : BitVec n) {k : Nat} (h : k < n / 8) :
    (bswapOf x).extractLsb' (8 * k) 8 = x.extractLsb' (8 * (n / 8 - 1 - k)) 8 := by
  have mirrored : n / 8 - 1 - k < n / 8 := by omega
  have byte : (bytesOfNat (n / 8) x.toNat).reverse[k]? = some (BitVec.ofNat 8 (x.toNat / 256 ^ (n / 8 - 1 - k))) := by
    rw [List.getElem?_reverse (by rwa [length_bytesOfNat]), length_bytesOfNat, getElem?_bytesOfNat _ mirrored]
  rw [bswapOf, extractLsb'_byte _ _ h, ofNat_natOfBytes_div _ byte, ← extractLsb'_byte _ _ mirrored, BitVec.ofNat_toNat,
    BitVec.setWidth_eq]

/-- A one-operand instruction ends with its operation on the low n bits, extended by the sign. -/
theorem scalarEnd_of_unary {i : Instr} {s : State} {d : Reg} {w : BitVec 1} {x y : W64}
    (op : (n : Nat) → BitVec n → BitVec n) (ends : exec i s = .next (aluDone s d (aluOp w (fun n x _ => op n x) x y) 6)) :
    exec i s = Claims.scalarEnd s d ((op (if w = 0 then 64 else 32) (x.setWidth _)).signExtend 64) 6 := by
  rw [ends, aluOp_eq_signExtend]
  rfl

theorem bitCountsAndReversals : Claims.BitCountsAndReversals := by
  intro s w a d n x ends
  exact ⟨⟨clzOf x, clzOf_le x, scalarEnd_of_unary (fun n x => BitVec.ofNat n (clzOf x)) rfl, fun _ => getLsbD_above_clzOf x,
      getLsbD_at_clzOf x⟩,
    ⟨ctzOf x, (ctzOf_spec x).1, scalarEnd_of_unary (fun n x => BitVec.ofNat n (ctzOf x)) rfl, (ctzOf_spec x).2⟩,
    scalarEnd_of_unary (fun n x => BitVec.ofNat n (popcOf x)) rfl,
    ⟨x.reverse, scalarEnd_of_unary (fun _ x => x.reverse) rfl, fun _ => getLsbD_reverse_eq x⟩,
    ⟨bswapOf x, scalarEnd_of_unary (fun _ x => bswapOf x) rfl, fun _ => extractLsb'_bswapOf x⟩⟩

/-- Settles O1: row by row the operation of the model is the table's, and the counts and reversals are read off their definitions. -/
theorem integerResultsFollowTheirTables : Obligations.IntegerResultsFollowTheirTables :=
  ⟨aluResultsFollowTheTable, divisionResultsAreTotal, bitCountsAndReversals⟩

/-! ## Extensions and bit fields (R94) -/

theorem toNat_zextOf (m : Nat) (x : W64) : (zextOf m x).toNat = x.toNat % 2 ^ m := by
  rw [zextOf, BitVec.toNat_setWidth, BitVec.toNat_setWidth]
  exact Nat.mod_eq_of_lt (lt_of_le_of_lt (Nat.mod_le _ _) x.isLt)

theorem zextOf_eq_ofNat (m : Nat) (x : W64) : zextOf m x = BitVec.ofNat 64 (x.toNat % 2 ^ m) := by
  rw [← toNat_zextOf, BitVec.ofNat_toNat, BitVec.setWidth_eq]

theorem getLsbD_zextOf (m : Nat) (x : W64) (k : Nat) : (zextOf m x).getLsbD k = (decide (k < m) && x.getLsbD k) := by
  rw [BitVec.getLsbD, toNat_zextOf, Nat.testBit_mod_two_pow]
  rfl

theorem bitsWidth_le (w : BitVec 2) : bitsWidth w ≤ 64 := by
  revert w; decide

theorem signExtend_eq_ofInt {m : Nat} (h : m ≤ 64) (x : BitVec m) : x.signExtend 64 = BitVec.ofInt 64 x.toInt := by
  rw [← BitVec.toInt_signExtend_of_le h, BitVec.ofInt_toInt]

theorem fieldPos_eq (b : W64) : fieldPos b = b.toNat % 64 := by
  rw [fieldPos, BitVec.extractLsb'_toNat, Nat.shiftRight_zero]

theorem fieldLen_eq (w : BitVec 2) (b : W64) :
    fieldLen w b = if b.toNat % 64 < bitsWidth w then min (b.toNat / 256 % 128) (bitsWidth w - b.toNat % 64) else 0 := by
  rw [fieldLen, fieldPos_eq, BitVec.extractLsb'_toNat, Nat.shiftRight_eq_div_pow]

theorem bfxOf_eq (w : BitVec 2) (a b : W64) :
    bfxOf w a b = BitVec.ofNat 64 (a.toNat % 2 ^ bitsWidth w / 2 ^ fieldPos b % 2 ^ fieldLen w b) := by
  rw [bfxOf, zextOf_eq_ofNat, BitVec.toNat_ushiftRight, toNat_zextOf, Nat.shiftRight_eq_div_pow]

/-- The inserted field takes the low bits of `a`, every other bit of the container that of `d`. -/
theorem getLsbD_bfiOf (w : BitVec 2) (a b d : W64) {k : Nat} (h : k < 64) :
    (bfiOf w a b d).getLsbD k = if fieldPos b ≤ k ∧ k < fieldPos b + fieldLen w b then a.getLsbD (k - fieldPos b)
      else decide (k < bitsWidth w) && d.getLsbD k := by
  simp only [bfiOf, BitVec.getLsbD_or, BitVec.getLsbD_and, BitVec.getLsbD_not, BitVec.getLsbD_shiftLeft, getLsbD_zextOf]
  by_cases low : k < fieldPos b
  · rw [if_neg (by omega)]
    simp [h, low]
  · by_cases within : k < fieldPos b + fieldLen w b
    · rw [if_pos (by omega)]
      simp [h, low, show k - fieldPos b < fieldLen w b by omega, show k - fieldPos b < 64 by omega]
    · rw [if_neg (by omega)]
      simp [h, low, show ¬ k - fieldPos b < fieldLen w b by omega]

/-! ## Three sources (R96) -/

/-- The product of a .W form is extended by its sign and cut again on its way to the sum. -/
theorem aluOp_aluOp (w : BitVec 1) (f g : (n : Nat) → BitVec n → BitVec n → BitVec n) (c x y : W64) :
    aluOp w f c (aluOp w g x y) = aluOp w (fun n x y => f n (c.setWidth n) (g n x y)) x y := by
  obtain rfl | rfl : w = 0 ∨ w = 1 := by revert w; decide
  · exact congrArg (f 64 · _) (BitVec.setWidth_eq c).symm
  · have cut (p : BitVec 32) : (p.signExtend 64).setWidth 32 = p := by
      refine BitVec.eq_of_getLsbD_eq fun i hi => ?_
      rw [BitVec.getLsbD_setWidth, BitVec.getLsbD_signExtend, if_pos hi, decide_eq_true hi, decide_eq_true (show i < 64 by omega),
        Bool.true_and, Bool.true_and]
    simp only [aluOp, if_true, cut]

/-- An instruction that joins its third source with a product ends with the joined value. -/
theorem scalarEnd_of_product {i : Instr} {s : State} {d : Reg} {w : BitVec 1} {z x y : W64}
    {join res : (n : Nat) → BitVec n → BitVec n → BitVec n}
    (ends : exec i s = .next (aluDone s d (aluOp w join z (aluOp w opMul x y)) 6))
    (value : ∀ n x y, join n (z.setWidth n) (opMul n x y) = res n x y) :
    exec i s = Claims.scalarEnd s d (Claims.inWidth w res x y) 6 := by
  rw [aluOp_aluOp] at ends
  exact scalarEnd_of_op ends value

theorem fieldAndThreeSourceResults : Claims.FieldAndThreeSourceResults := by
  intro s w v c b a d W A B pos len m
  have hpos : fieldPos B = pos := fieldPos_eq B
  have hm : fieldLen w B = m := fieldLen_eq w B
  refine ⟨?sext, ?zext, ?bfx, ⟨bfiOf w A B (s.me.rg d), rfl, ?bfi⟩, rfl, ?madd, ?msub⟩
  case sext => exact congrArg (Claims.scalarEnd s d · 6) (signExtend_eq_ofInt (bitsWidth_le w) (A.setWidth _))
  case zext => exact congrArg (Claims.scalarEnd s d · 6) (zextOf_eq_ofNat _ A)
  case bfx => exact congrArg (Claims.scalarEnd s d · 6) (hpos ▸ hm ▸ bfxOf_eq w A B)
  case bfi =>
    intro k hk
    rw [getLsbD_bfiOf w A B _ hk, hpos, hm]
    rfl
  case madd =>
    refine scalarEnd_of_product rfl fun n x y => ?_
    rw [BitVec.ofInt_add, ← opMul_eq, BitVec.ofInt_toInt]
  case msub =>
    refine scalarEnd_of_product rfl fun n x y => ?_
    rw [ofInt_sub, ← opMul_eq, BitVec.ofInt_toInt]

/-! ## Immediates (R97, R98) -/

theorem toInt_sx {n : Nat} (h : n ≤ 64) (im : BitVec n) : (sx im).toInt = im.toInt := BitVec.toInt_signExtend_of_le h

theorem sx_eq_ofInt {n : Nat} (h : n ≤ 64) (im : BitVec n) : sx im = BitVec.ofInt 64 im.toInt := signExtend_eq_ofInt h im

theorem sx_shiftLeft {n : Nat} (h : n ≤ 64) (im : BitVec n) (k : Nat) : sx im <<< k = BitVec.ofInt 64 (im.toInt * 2 ^ k) := by
  rw [shiftLeft_eq_ofInt, toInt_sx h]

theorem immediateResults : Claims.ImmediateResults := by
  intro s im sh hi a d A I
  have immediate : sx im = I := sx_eq_ofInt (by decide) im
  refine ⟨?addi, ?andi, ?ori, ?xori, ?shli, ?shri, ?shrai, ?slti, ?sltiu, ?ldh, ?addpc⟩
  all_goals refine congrArg (Claims.scalarEnd s d · 6) ?_
  case addi => show A + sx im = _; rw [BitVec.ofInt_add, BitVec.ofInt_toInt, immediate]
  case andi => exact congrArg (A &&& ·) immediate
  case ori => exact congrArg (A ||| ·) immediate
  case xori => exact congrArg (A ^^^ ·) immediate
  case shli => exact shiftLeft_eq_ofNat 64 A _
  case shri => exact ushiftRight_eq_ofNat 64 A _
  case shrai => exact sshiftRight_eq_ofInt 64 A _
  case slti =>
    show (if A.slt (sx im) then (1 : W64) else 0) = _
    simp only [BitVec.slt_iff_toInt_lt, toInt_sx (show 14 ≤ 64 by decide)]
  case sltiu =>
    show (if A.ult (sx im) then (1 : W64) else 0) = _
    simp only [BitVec.ult_iff_lt, BitVec.lt_def, immediate]
  case ldh => exact sx_shiftLeft (by decide) hi 13
  case addpc =>
    show s.me.pc + sx hi <<< 13 = _
    rw [BitVec.ofInt_add, BitVec.ofInt_toInt, sx_shiftLeft (by decide)]

/-- Settles O2: fields are compared as numbers or bit by bit, and every immediate is its signed value modulo 2^64. -/
theorem fieldAndImmediateResults : Obligations.FieldAndImmediateResults := ⟨fieldAndThreeSourceResults, immediateResults⟩

/-! ## Branches and jumps (R99-R101) -/

theorem segmentBits_eq_zero_iff (t : W64) : t.extractLsb' 61 3 = 0 ↔ t.toNat < 2 ^ 61 := by
  rw [← BitVec.toNat_inj, BitVec.extractLsb'_toNat, Nat.shiftRight_eq_div_pow]
  have := t.isLt
  change t.toNat / 2 ^ 61 % 2 ^ 3 = 0 ↔ _
  omega

theorem wordBits_eq_zero_iff (t : W64) : t.extractLsb' 0 2 = 0 ↔ t.toNat % 4 = 0 := by
  rw [← BitVec.toNat_inj, BitVec.extractLsb'_toNat, Nat.shiftRight_zero]
  rfl

theorem branchTo_eq {n : Nat} (h : n ≤ 64) (pc : W64) (f : BitVec n) : branchTo pc f = pc + BitVec.ofInt 64 (4 * f.toInt) := by
  rw [branchTo, BitVec.ofInt_mul, ← sx_eq_ofInt h]
  rfl

/-- The thread that a transfer leaves: with the return address in its link register, where it has one. -/
def linkedThread (s : State) : Option Reg → Thread
  | some d => s.me.wg d (s.me.pc + 4)
  | none => s.me

section
variable {s : State} {t : W64} (i : Instr)

theorem run_trap (cause : Byte) (alone : twinLag s s.cur = false) :
    run i s (.error (.trap cause t)) = .next (trapMe s cause t) := by
  rw [run, runBody, alone]
  rfl

theorem run_transfer_goes (link : Option Reg) (h : t.toNat < 2 ^ 61) :
    run i s (transfer s t link) = Claims.goesTo s (linkedThread s link) t := by
  unfold transfer
  rw [need, decide_eq_true ((segmentBits_eq_zero_iff t).mpr h)]
  cases link <;> rfl

theorem run_transfer_traps (link : Option Reg) (h : 2 ^ 61 ≤ t.toNat) (alone : twinLag s s.cur = false) :
    run i s (transfer s t link) = .next (trapMe s SEGV t) := by
  unfold transfer
  rw [need, decide_eq_false (mt (segmentBits_eq_zero_iff t).mp (not_lt.mpr h)), ← run_trap i SEGV alone]
  rfl

theorem run_jumpBody_goes (d : Reg) (h : t.toNat < 2 ^ 61) (word : t.toNat % 4 = 0) :
    run i s (jumpBody t d s) = Claims.goesTo s (s.me.wg d (s.me.pc + 4)) t := by
  rw [jumpBody, need, need, decide_eq_true ((segmentBits_eq_zero_iff t).mpr h), decide_eq_true ((wordBits_eq_zero_iff t).mpr word)]
  exact run_transfer_goes i (some d) h

theorem run_jumpBody_segv (d : Reg) (h : 2 ^ 61 ≤ t.toNat) (alone : twinLag s s.cur = false) :
    run i s (jumpBody t d s) = .next (trapMe s SEGV t) := by
  rw [jumpBody, need, decide_eq_false (mt (segmentBits_eq_zero_iff t).mp (not_lt.mpr h)), ← run_trap i SEGV alone]
  rfl

theorem run_jumpBody_align (d : Reg) (h : t.toNat < 2 ^ 61) (word : t.toNat % 4 ≠ 0) (alone : twinLag s s.cur = false) :
    run i s (jumpBody t d s) = .next (trapMe s ALIGN t) := by
  rw [jumpBody, need, need, decide_eq_true ((segmentBits_eq_zero_iff t).mpr h), decide_eq_false (mt (wordBits_eq_zero_iff t).mp word),
    ← run_trap i ALIGN alone]
  rfl

end

/-- A branch follows a row of R99 where it runs `branchBody` on that row's condition. -/
theorem branch_of_body {i : Instr} {s : State} {f : BitVec 14} {c c' : Bool} (runs : exec i s = run i s (branchBody c f s))
    (cond : c = c') :
    let t := if c' then s.me.pc + BitVec.ofInt 64 (4 * f.toInt) else s.me.pc + 4
    (t.toNat < 2 ^ 61 → exec i s = Claims.goesTo s s.me t) ∧
    (2 ^ 61 ≤ t.toNat → twinLag s s.cur = false → exec i s = .next (trapMe s SEGV t)) := by
  intro t
  have target : branchBody c f s = transfer s t none := by rw [branchBody, branchTo_eq (by decide), cond]
  rw [runs, target]
  exact ⟨run_transfer_goes i none, run_transfer_traps i none⟩

theorem branchesFollowTheirConditions : Claims.BranchesFollowTheirConditions := by
  simp only [Claims.BranchesFollowTheirConditions, Claims.branchTable, List.forall_mem_cons]
  exact ⟨fun _ _ _ _ => branch_of_body rfl (beq_eq_decide _ _),
    fun _ _ _ _ => branch_of_body rfl (by rw [bne, beq_eq_decide, decide_not]),
    fun _ _ _ _ => branch_of_body rfl BitVec.slt_eq_decide,
    fun _ _ _ _ => branch_of_body rfl (by rw [BitVec.slt_eq_decide, ← decide_not]; simp only [not_lt]),
    fun _ _ _ _ => branch_of_body rfl BitVec.ult_eq_decide,
    fun _ _ _ _ => branch_of_body rfl (by rw [BitVec.ult_eq_decide, ← decide_not]; simp only [not_lt]), nofun⟩

theorem jumpsLinkAndGo : Claims.JumpsLinkAndGo := by
  intro s f im a d j t
  have jal : exec (.jal f d) s = run (.jal f d) s (jumpBody j d s) := by
    rw [show j = branchTo s.me.pc f from (branchTo_eq (by decide) _ f).symm]
    rfl
  have jalr : exec (.jalr im a d) s = run (.jalr im a d) s (jumpBody t d s) := by
    rw [show t = s.me.rg a + sx im from congrArg (s.me.rg a + ·) (sx_eq_ofInt (by decide) im).symm]
    rfl
  rw [jal, jalr]
  exact ⟨run_jumpBody_goes _ d, run_jumpBody_segv _ d, run_jumpBody_align _ d, run_jumpBody_goes _ d, run_jumpBody_segv _ d,
    run_jumpBody_align _ d⟩

/-- Settles O3: what a transfer does is decided by the target's bits [63:61] and, for a jump, [1:0]. -/
theorem branchesAndJumpsGoToTheirTargets : Obligations.BranchesAndJumpsGoToTheirTargets :=
  ⟨branchesFollowTheirConditions, jumpsLinkAndGo⟩

/-! ## Counter reads and HINT (R107, R42) -/

theorem stepWord_eq (x : Die) (st : W64) (n : BitVec 5) :
    stepWord x st n.toNat = if st.toNat = 0 ∨ x.stepn.toNat < st.toNat ∨ 16 ≤ x.stepn.toNat - st.toNat then 0
      else if n = 0 then (tget (0, 0, 0) x.log (st.toNat % 16)).1
      else if n = 1 then (tget (0, 0, 0) x.log (st.toNat % 16)).2.1 else (tget (0, 0, 0) x.log (st.toNat % 16)).2.2 := by
  have absent : st = 0 ∨ x.stepn < st ∨ 16 ≤ (x.stepn - st).toNat ↔
      st.toNat = 0 ∨ x.stepn.toNat < st.toNat ∨ 16 ≤ x.stepn.toNat - st.toNat := by
    rw [show st = 0 ↔ st.toNat = 0 from (toNat_eq_zero_iff 64 st).symm, BitVec.lt_def]
    by_cases reached : st.toNat ≤ x.stepn.toNat
    · rw [BitVec.toNat_sub_of_le (BitVec.le_def.mpr reached)]
    · omega
  have word (k : Nat) (h : k < 32) : n.toNat = k ↔ n = BitVec.ofNat 5 k := by
    rw [← BitVec.toNat_inj, BitVec.toNat_ofNat, Nat.mod_eq_of_lt h]
  exact if_congr absent rfl (if_congr (word 0 (by decide)) rfl (if_congr (word 1 (by decide)) rfl rfl))

theorem counterReads : Claims.CounterReads := by
  intro s n h a d x st e
  refine ⟨rfl, rfl, ?rdstep, rfl⟩
  exact congrArg (Claims.regEnd s d · 6) (stepWord_eq x _ n)

/-! ## What the end of an instruction leaves alone (R87, R88) -/

theorem sameElsewhere_finish (s : State) (t : Thread) (lat : Nat) : Claims.SameElsewhere s (s.finish t lat) :=
  ⟨rfl, fun _ h => thread_finish_other s t lat h.symm⟩

theorem sameBut_adv {u v : Thread} (h : Claims.SameBut u v) (n : Nat) : Claims.SameBut u (v.adv n) := h

theorem sameBut_wg (t : Thread) (d : Reg) (v : W64) : Claims.SameBut t (t.wg d v) := by
  unfold Thread.wg
  split <;> rfl

theorem sameBut_wgChecked (t : Thread) (d : Reg) (v : W64) : Claims.SameBut t (t.wgChecked d v) := by
  unfold Thread.wgChecked
  split
  · rfl
  · split
    · exact sameBut_wg t d v
    · exact sameBut_wg t d v

theorem bad_wg {d : Reg} (h : d ≠ 0) (t : Thread) (v : W64) : (t.wg d v).bad = tdel t.bad d.toNat := by
  rw [Thread.wg, if_neg h]

theorem bad_wg_other {d r : Reg} (h : r ≠ d) (t : Thread) (v : W64) : tfind (t.wg d v).bad r.toNat = tfind t.bad r.toNat := by
  by_cases zero : d = 0
  · rw [zero, wg_zero]
  · rw [bad_wg zero, tfind_tdel_other _ (mt BitVec.eq_of_toNat_eq h.symm)]

theorem pend_wgChecked {d : Reg} (h : d ≠ 0) {t : Thread} (checked : t.ck = true) (v : W64) :
    (t.wgChecked d v).pend = some (d, v) := by
  rw [Thread.wgChecked, if_neg h, if_pos checked]

theorem registerWritesReachOnlyTheDestination : Claims.RegisterWritesReachOnlyTheDestination := by
  intro s d r v lat t u
  have ht : t.me = (s.me.wg d v).adv (s.doneAt lat) := me_finish ..
  have hu : u.me = (s.me.wgChecked d v).adv (s.doneAt lat) := me_finish ..
  rw [ht, hu]
  refine ⟨rg_zero _, ?same, rg_wg_same _ _ _, rg_wg_other _ _, by simp, by simp, rfl, (bad_wg_other · _ _), fun h => ?bad,
    fun h ck => pend_wgChecked h ck v, sameElsewhere_finish .., sameElsewhere_finish .., sameBut_adv (sameBut_wg ..) _,
    sameBut_adv (sameBut_wgChecked ..) _⟩
  case same => rw [rg_adv, rg_adv, rg_wg, rg_wgChecked]
  case bad => rw [adv_bad, bad_wg h, tfind_tdel_same]

/-- The instruction of the acting thread is over, with one g register written, with or without check bits. -/
def EndsWriting (s : State) (d : Reg) (o : Out) : Prop :=
  ∃ u lat, o = .next (s.finish u lat) ∧ ∃ v, u = s.me.wgChecked d v ∨ u = s.me.wg d v

theorem exec_scalar_endsWriting {i : Instr} {d : Reg} (h : Claims.scalarDest i = some d) (s : State) : EndsWriting s d (exec i s) := by
  unfold Claims.scalarDest at h
  split at h
  -- 50 results of the integer unit stand before the counter reads and HINT; what follows has no destination.
  case h_55 => cases h
  all_goals obtain rfl := Option.some.inj h
  case h_51 | h_52 | h_53 => exact ⟨_, _, rfl, _, .inr rfl⟩
  case h_54 => exact ⟨_, _, rfl, 0, .inr (wg_zero ..).symm⟩
  all_goals exact ⟨_, _, rfl, _, .inl rfl⟩

theorem scalarFrame : Claims.ScalarFrame := by
  intro i d hd s t ht
  obtain ⟨u, lat, ends, v, write⟩ := exec_scalar_endsWriting hd s
  obtain rfl : s.finish u lat = t := Host.Outcome.next.inj (ends.symm.trans ht)
  have sameBut : Claims.SameBut s.me u := by
    rcases write with rfl | rfl
    · exact sameBut_wgChecked ..
    · exact sameBut_wg ..
  have others (r : Reg) (h : r ≠ d) : u.rg r = s.me.rg r := by
    rcases write with rfl | rfl
    · rw [rg_wgChecked, if_neg (h ·.1)]
    · exact rg_wg_other _ _ h
  have pc : u.pc = s.me.pc := by
    rcases write with rfl | rfl <;> simp
  rw [me_finish]
  exact ⟨sameElsewhere_finish .., sameBut_adv sameBut _, others, rg_zero _, congrArg (· + 4) pc, fun _ => ⟨rfl, rfl⟩⟩

/-- Settles O4: each of these instructions ends with one write of a g register, and such an end leaves the rest alone. -/
theorem scalarInstructionsLeaveTheRestAlone : Obligations.ScalarInstructionsLeaveTheRestAlone :=
  ⟨counterReads, registerWritesReachOnlyTheDestination, scalarFrame⟩

end Sys2Proof.Laws
end

section
/-! PROOFS. How a stream-pipe instruction whose operands are registers ends (R127, R135, R141), and the lanes of a pack (R109). -/

namespace Sys2Proof.Laws

open Sys2Proof Sys2Proof.Machine

/-! ## One thread written twice -/

theorem tput_tput {α : Type} (t : Tab α) (k : Nat) (v w : α) : tput (tput t k v) k w = tput t k w := by
  induction t with
  | nil => simp [tput]
  | cons c r ih =>
    obtain ⟨j, x⟩ := c
    rcases lt_trichotomy k j with below | rfl | above
    · simp [tput, below]
    · simp [tput]
    · simp [tput, above.not_gt, above.ne, ih]

@[simp] theorem setThread_setThread (s : State) (k : Nat) (t u : Thread) : (s.setThread k t).setThread k u = s.setThread k u := by
  simp [State.setThread, tput_tput]

@[simp] theorem finish_setThread_cur (s : State) (t u : Thread) (n : Nat) : (s.setThread s.cur t).finish u n = s.finish u n :=
  setThread_setThread s s.cur t _

@[simp] theorem me_setThread_cur (s : State) (t : Thread) : (s.setThread s.cur t).me = t := thread_setThread_same s s.cur t

/-! ## Operands that are registers (R141, R144) -/

theorem streamOf_plain {s : State} {rs : List Reg} (plain : Claims.Plain s rs) {r : Reg} (named : r ∈ rs) :
    s.me.streamOf r = none := by
  obtain ⟨-, registers⟩ := plain
  refine if_neg fun ⟨high, on⟩ => ?_
  rcases registers r named with low | off
  · exact absurd low (not_lt.mpr high)
  · exact on off

theorem readFs_registers {s : State} {key : Nat} {rs : List Reg} (registers : ∀ r ∈ rs, (s.thread key).streamOf r = none) :
    readFs s key rs = .ok (s, rs.map (s.thread key).rf) := by
  induction rs with
  | nil => rfl
  | cons r rs ih =>
    obtain ⟨first, rest⟩ := List.forall_mem_cons.mp registers
    have read : readF s key r = .ok (s, (s.thread key).rf r) := by rw [readF, first]
    rw [readFs, read]
    simp only [bind, Except.bind, ih rest]
    rfl

theorem stepStreams_registers {s : State} {key : Nat} {rs : List Reg} (registers : ∀ r ∈ rs, (s.thread key).streamOf r = none) :
    stepStreams s key rs = s := by
  have none : rs.filterMap (s.thread key).streamOf = [] := List.filterMap_eq_nil_iff.mpr registers
  rw [stepStreams, none]
  rfl

theorem writeF_register {s : State} {key : Nat} {d : Reg} (register : (s.thread key).streamOf d = none) (v : W128) :
    writeF s key d v = .ok (s.setThread key ((s.thread key).wf d v)) := by
  rw [writeF, register]

/-! ## The end of a stream-pipe instruction (R127, R135) -/

theorem orFlags_eq (fcsr : BitVec 16) (fl : FlagBits) : orFlags fcsr fl = fcsr ||| BitVec.ofNat 16 (fl % 128) := by
  refine congrArg (fcsr ||| ·) (BitVec.eq_of_toNat_eq ?_)
  rw [BitVec.toNat_setWidth, BitVec.toNat_ofNat, BitVec.toNat_ofNat]

theorem runFree_plain {s : State} {rs : List Reg} (plain : Claims.Plain s rs) : runFree s = .ok () := by
  rw [runFree, plain.1]
  rfl

section
variable {o : FOp} {s : State} (i : Instr) {d : Reg} {fl : FlagBits} {sub : Bool}

/-- An operation of registers that makes a pack. -/
theorem run_fBody_pack {v : W128} (plain : Claims.Plain s (o.srcs ++ [d]))
    (makes : o.comp s.me (s.arch s.myCore) (o.srcs.map s.me.rf) = { f := some (d, v), flags := fl, sub := sub }) :
    run i s (fBody o s) = Claims.fEnd s d v fl o.lat sub := by
  have sources : ∀ r ∈ o.srcs, s.me.streamOf r = none := fun r hr => streamOf_plain plain (List.mem_append_left _ hr)
  have target : s.me.streamOf d = none := streamOf_plain plain (List.mem_append_right _ (List.mem_singleton.mpr rfl))
  have stepped : stepStreams (s.setThread s.cur (s.me.wf d v)) s.cur o.srcs = s.setThread s.cur (s.me.wf d v) :=
    stepStreams_registers (by rwa [thread_setThread_same])
  have applied : fApply o s s.cur =
      .ok (s.setThread s.cur { s.me.wf d v with fcsr := s.me.fcsr ||| BitVec.ofNat 16 (fl % 128) }, sub) := by
    simp only [fApply, readFs_registers sources, bind, Except.bind, ← State.me.eq_1, ← State.myCore.eq_1, makes,
      writeF_register target, stepped, thread_setThread_same, setThread_setThread, orFlags_eq, wf_fcsr, pure, Except.pure]
  simp only [fBody, runFree_plain plain, applied, bind, Except.bind, me_setThread_cur, finish_setThread_cur]
  rfl

/-- An operation of registers that makes a number. -/
theorem run_fBody_number {v : W64} (plain : Claims.Plain s o.srcs)
    (makes : o.comp s.me (s.arch s.myCore) (o.srcs.map s.me.rf) = { g := some (d, v), flags := fl, sub := sub }) :
    run i s (fBody o s) = Claims.gEnd s d v fl o.lat sub := by
  have sources : ∀ r ∈ o.srcs, s.me.streamOf r = none := fun r hr => streamOf_plain plain hr
  have applied : fApply o s s.cur =
      .ok (s.setThread s.cur { s.me.wg d v with fcsr := s.me.fcsr ||| BitVec.ofNat 16 (fl % 128) }, sub) := by
    simp only [fApply, readFs_registers sources, bind, Except.bind, ← State.me.eq_1, ← State.myCore.eq_1, makes,
      stepStreams_registers sources, orFlags_eq, wg_fcsr, pure, Except.pure]
  simp only [fBody, runFree_plain plain, applied, bind, Except.bind, me_setThread_cur, finish_setThread_cur]
  rfl
end

/-! ## Lanes of a pack (R109) -/

theorem packLanes_lt (w : Nat) (xs : List Nat) : packLanes w xs < 2 ^ (w * xs.length) := by
  induction xs with
  | nil => exact Nat.one_pos
  | cons x xs ih =>
    rw [packLanes, List.length_cons, Nat.mul_add_one, Nat.pow_add, Nat.add_comm]
    exact Nat.mul_add_lt_mul_of_lt_of_lt ih (Nat.mod_lt _ (Nat.two_pow_pos w))

theorem bitsOf_packLanes (w : Nat) (xs : List Nat) (j : Nat) : bitsOf (packLanes w xs) (w * j) w = xs.getD j 0 % 2 ^ w := by
  induction xs generalizing j with
  | nil => simp [packLanes, bitsOf]
  | cons x xs ih =>
    cases j with
    | zero => simp [packLanes, bitsOf]
    | succ j =>
      rw [List.getD_cons_succ, ← ih, bitsOf, bitsOf, packLanes, Nat.mul_add_one, Nat.add_comm (w * j), Nat.pow_add,
        ← Nat.div_div_eq_div_mul, Nat.add_mul_div_left _ _ (Nat.two_pow_pos w),
        Nat.div_eq_of_lt (Nat.mod_lt _ (Nat.two_pow_pos w)), Nat.zero_add]

theorem lane_packLanes {w : Nat} {xs : List Nat} (fits : w * xs.length ≤ 128) (j : Nat) :
    lane w (BitVec.ofNat 128 (packLanes w xs)) j = xs.getD j 0 % 2 ^ w := by
  have small : packLanes w xs < 2 ^ 128 := (packLanes_lt w xs).trans_le (Nat.pow_le_pow_right two_pos fits)
  rw [lane, BitVec.toNat_ofNat, Nat.mod_eq_of_lt small, bitsOf_packLanes]

theorem lane_packLanes_range {w L : Nat} (fits : w * L ≤ 128) (out : Nat → Nat) {j : Nat} (h : j < L) :
    lane w (BitVec.ofNat 128 (packLanes w ((List.range L).map out))) j = out j % 2 ^ w := by
  rw [lane_packLanes (by simpa using fits)]
  simp [h]

theorem lane_packLanes_beyond {w L : Nat} (fits : w * L ≤ 128) (out : Nat → Nat) {j : Nat} (h : L ≤ j) :
    lane w (BitVec.ofNat 128 (packLanes w ((List.range L).map out))) j = 0 := by
  rw [lane_packLanes (by simpa using fits)]
  simp [h]

theorem laneBits_of_packed {i : Instr} {s : State} {d : Reg} {w L : Nat} {out : Nat → Nat} (fits : w * L ≤ 128)
    (ends : exec i s = Claims.fEnd s d (BitVec.ofNat 128 (packLanes w ((List.range L).map out))) 0 6 false) :
    Claims.LaneBits i s d w L out :=
  ⟨_, 0, false, ends, fun _ h => lane_packLanes_range fits out h, fun _ h _ => lane_packLanes_beyond fits out h,
    by simp, by simp⟩

/-! ## Folds over the bits of a number -/

theorem upTo_succ {β : Type} (n : Nat) (f : β → Nat → β) (b : β) : upTo (n + 1) f b = f (upTo n f b) n := by
  simp [upTo, List.range_succ]

/-- A fold each step of which can only add bits holds the bits that some step adds. -/
theorem testBit_upTo {f : Nat → Nat → Nat} {adds : Nat → Prop} {k : Nat}
    (step : ∀ m i, (f m i).testBit k = true ↔ m.testBit k = true ∨ adds i) (n m : Nat) :
    (upTo n f m).testBit k = true ↔ m.testBit k = true ∨ ∃ i < n, adds i := by
  induction n with
  | zero => simp [upTo]
  | succ n ih => rw [upTo_succ, step, ih, or_assoc, Nat.exists_lt_succ_right]

/-- The union of the numbers `e i` that are selected. -/
theorem testBit_upTo_or (selected : Nat → Bool) (e : Nat → Nat) (n m k : Nat) :
    (upTo n (fun m i => if selected i then m ||| e i else m) m).testBit k = true ↔
      m.testBit k = true ∨ ∃ i < n, selected i = true ∧ (e i).testBit k = true := by
  refine testBit_upTo (fun m i => ?_) n m
  cases selected i <;> simp

/-- The mask of the indices below n that pass a test. -/
theorem upTo_mask (p : Nat → Bool) (n : Nat) : upTo n (fun m i => if p i then m + 2 ^ i else m) 0 < 2 ^ n ∧
    ∀ j, (upTo n (fun m i => if p i then m + 2 ^ i else m) 0).testBit j = (decide (j < n) && p j) := by
  induction n with
  | zero => simp [upTo]
  | succ n ih =>
    obtain ⟨small, bits⟩ := ih
    rw [upTo_succ]
    generalize upTo n _ 0 = m at small bits ⊢
    have joined : m + 2 ^ n = 2 ^ n ||| m := by simpa [Nat.add_comm] using Nat.two_pow_add_eq_or_of_lt small 1
    refine ⟨by split <;> omega, fun j => ?_⟩
    have last : (if p n then m + 2 ^ n else m).testBit j = (m.testBit j || decide (n = j) && p n) := by
      cases p n <;> simp [joined, Nat.testBit_two_pow, Bool.or_comm]
    rw [last, bits]
    rcases eq_or_ne n j with rfl | earlier
    · simp
    · simp [earlier, show j < n + 1 ↔ j < n by omega]

end Sys2Proof.Laws
end

section
/-! PROOFS. Ring-set operations on masks, ring-sets and F32 lanes, and RC8 codes (R123, R125-R127, R164). -/

namespace Sys2Proof.Laws

open Sys2Proof Sys2Proof.Machine

/-! ## Tables of the ring (R123) -/

theorem ringBinary_rsBinary (s : State) (op x y : Nat) :
    Claims.ringBinary s op x y (rsBinary (s.arch s.myCore).tables op x y) := by
  intro k
  have row (m i : Nat) : (if x.testBit i then upTo 16 (fun m j => if y.testBit j then
        m ||| tableEntry (s.arch s.myCore).tables (op * 256 + i * 16 + j) else m) m else m).testBit k = true ↔
      m.testBit k = true ∨ ∃ j < 16, x.testBit i = true ∧ y.testBit j = true ∧
        (tableEntry (s.arch s.myCore).tables (256 * op + 16 * i + j)).testBit k = true := by
    rw [Nat.mul_comm 256, Nat.mul_comm 16]
    split
    case isTrue set => simp [testBit_upTo_or, set]
    case isFalse clear => simp [clear]
  rw [rsBinary, testBit_upTo row, Nat.zero_testBit]
  simp

theorem ringUnary_rsUnary (s : State) (op x : Nat) : Claims.ringUnary s op x (rsUnary (s.arch s.myCore).tables op x) := by
  intro k
  rw [rsUnary, testBit_upTo_or, Nat.zero_testBit, Nat.mul_comm 16]
  simp

/-! ## Ring-set lanes (R164) -/

theorem rsWidth_fits (l : BitVec 1) : rsWidth l * (128 / rsWidth l) ≤ 128 := Nat.mul_div_le 128 _

theorem rsIn_lane (s : State) (l : BitVec 1) (r : Reg) (j : Nat) :
    rsIn l (lane (rsWidth l) (s.me.rf r) j) = Claims.rsLane s l r j := by
  unfold rsIn rsWidth Claims.rsLane
  split <;> rfl

section
variable {i : Instr} {s : State} {l : BitVec 1} {a b d : Reg}

theorem laneBits_rsOp_two {f : CoreArch → Nat → Nat → Nat} (runs : exec i s = run i s (fBody (rsOp l [a, b] d f) s))
    (plain : Claims.Plain s [a, b, d]) : Claims.LaneBits i s d (rsWidth l) (128 / rsWidth l)
      (fun j => Claims.rsBack l (f (s.arch s.myCore) (Claims.rsLane s l a j) (Claims.rsLane s l b j))) := by
  refine laneBits_of_packed (rsWidth_fits l) (runs.trans (run_fBody_pack i plain ?_))
  simp only [← rsIn_lane]
  rfl

theorem laneBits_rsOp_one {f : CoreArch → Nat → Nat} (runs : exec i s = run i s (fBody (rsOp l [a] d fun c x _ => f c x) s))
    (plain : Claims.Plain s [a, d]) : Claims.LaneBits i s d (rsWidth l) (128 / rsWidth l)
      (fun j => Claims.rsBack l (f (s.arch s.myCore) (Claims.rsLane s l a j))) := by
  refine laneBits_of_packed (rsWidth_fits l) (runs.trans (run_fBody_pack i plain ?_))
  simp only [← rsIn_lane]
  rfl

theorem binary_rsOp {op : Nat} (runs : exec i s = run i s (fBody (rsOp l [a, b] d fun c => rsBinary c.tables op) s))
    (plain : Claims.Plain s [a, b, d]) : ∃ m : Nat → Nat,
      (∀ j < 128 / rsWidth l, Claims.ringBinary s op (Claims.rsLane s l a j) (Claims.rsLane s l b j) (m j)) ∧
      Claims.LaneBits i s d (rsWidth l) (128 / rsWidth l) (fun j => Claims.rsBack l (m j)) :=
  ⟨_, fun _ _ => ringBinary_rsBinary s op _ _, laneBits_rsOp_two runs plain⟩

theorem unary_rsOp {op : Nat} (runs : exec i s = run i s (fBody (rsOp l [a] d fun c x _ => rsUnary c.tables op x) s))
    (plain : Claims.Plain s [a, d]) : ∃ m : Nat → Nat,
      (∀ j < 128 / rsWidth l, Claims.ringUnary s op (Claims.rsLane s l a j) (m j)) ∧
      Claims.LaneBits i s d (rsWidth l) (128 / rsWidth l) (fun j => Claims.rsBack l (m j)) :=
  ⟨_, fun _ _ => ringUnary_rsUnary s op _, laneBits_rsOp_one runs plain⟩

end

/-- RSEMP: bit j says that lane j holds the empty set. -/
theorem getLsbD_emptyMask (s : State) (l : BitVec 1) (a : Reg) (j : Nat) :
    (BitVec.ofNat 64 (upTo (128 / rsWidth l) (fun m i =>
        if rsIn l (lane (rsWidth l) (s.me.rf a) i) = 0 then m + 2 ^ i else m) 0)).getLsbD j =
      decide (j < 128 / rsWidth l ∧ Claims.rsLane s l a j = 0) := by
  have lanes : 128 / rsWidth l ≤ 64 := by revert l; decide
  have bits := (upTo_mask (fun i => decide (Claims.rsLane s l a i = 0)) (128 / rsWidth l)).2 j
  simp only [decide_eq_true_eq, ← rsIn_lane] at bits
  rw [BitVec.getLsbD_ofNat, bits, rsIn_lane, ← Bool.decide_and, ← Bool.decide_and]
  exact decide_eq_decide.mpr ⟨And.right, fun h => ⟨h.1.trans_le lanes, h⟩⟩

theorem ringSetOperationsActOnMasks : Claims.RingSetOperationsActOnMasks := by
  intro s l b a d w n x y
  simp only [List.forall_mem_cons]
  refine ⟨⟨binary_rsOp rfl, binary_rsOp rfl, binary_rsOp rfl, binary_rsOp rfl, nofun⟩,
    ⟨unary_rsOp rfl, unary_rsOp rfl, unary_rsOp rfl, unary_rsOp rfl, nofun⟩,
    fun plain => ⟨laneBits_rsOp_two (f := fun _ x y => x ||| y) rfl plain,
      laneBits_rsOp_two (f := fun _ x y => x &&& y) rfl plain, ?rspack⟩,
    fun plain => laneBits_of_packed (by decide) (run_fBody_pack _ plain rfl),
    fun plain => ⟨_, run_fBody_number _ plain rfl, getLsbD_emptyMask s l a⟩⟩
  case rspack =>
    refine laneBits_of_packed (by decide) (run_fBody_pack _ plain ?_)
    simp only [apply_ite s.me.rf]
    rfl

/-! ## RC8 codes (R125, R126) -/

theorem ne_zero_of_testBit {m k : Nat} (h : m.testBit k = true) : m ≠ 0 := by
  rintro rfl
  simp at h

theorem testBit_runMask (p l k : Nat) : (runMask p l).testBit k = true ↔ ∃ j ≤ l, k = (p + j) % 16 := by
  rw [runMask, testBit_upTo (adds := fun j => k = (p + j) % 16) (fun m j => by simp [Nat.testBit_two_pow, eq_comm (a := k)]),
    Nat.zero_testBit]
  simp

theorem runMask_lt (p l : Nat) : runMask p l < 2 ^ 16 := by
  refine Nat.lt_pow_two_of_testBit _ fun k high => Bool.eq_false_iff.mpr fun set => ?_
  obtain ⟨j, -, rfl⟩ := (testBit_runMask p l k).mp set
  omega

/-- The run p, …, p+l of elements holds every element of the mask. -/
def Covers (m p l : Nat) : Prop := ∀ k < 16, m.testBit k = true → ∃ j ≤ l, k = (p + j) % 16

theorem covers_iff_and_runMask {m : Nat} (small : m < 2 ^ 16) (p l : Nat) : Covers m p l ↔ m &&& runMask p l = m := by
  constructor
  · intro covers
    refine Nat.eq_of_testBit_eq fun k => ?_
    rw [Nat.testBit_and]
    cases set : m.testBit k with
    | false => rfl
    | true =>
      have inRing : k < 16 := by
        by_contra high
        rw [Nat.testBit_lt_two_pow (small.trans_le (Nat.pow_le_pow_right two_pos (not_lt.mp high)))] at set
        cases set
      rw [(testBit_runMask p l k).mpr (covers k inRing set)]
      rfl
  · intro inside k _ set
    rw [← inside, Nat.testBit_and, Bool.and_eq_true] at set
    exact (testBit_runMask p l k).mp set.2

/-- The run that packing tries at index 16·l + p starts at p and has length l. -/
theorem candidate_iff_covers {m p : Nat} (small : m < 2 ^ 16) (start : p < 16) (l : Nat) :
    (m &&& runMask ((16 * l + p) % 16) ((16 * l + p) / 16) == m) = true ↔ Covers m p l := by
  rw [show (16 * l + p) % 16 = p by omega, show (16 * l + p) / 16 = l by omega, beq_iff_eq, covers_iff_and_runMask small]

/-- R126's choice for a mask: of the runs of length below 15 that cover it the shortest, and of those the one that starts lowest. -/
structure TightestRun (m p l : Nat) : Prop where
  start : p < 16
  length : l < 15
  covers : Covers m p l
  least : ∀ q n, q < 16 → n < 15 → Covers m q n → l < n ∨ l = n ∧ p ≤ q

/-- What packing gives for a set that is not empty. -/
theorem rcPack_cases {m : Nat} (small : m < 2 ^ 16) (nonempty : m ≠ 0) :
    (∃ p l, TightestRun m p l ∧ rcPack m = 16 * p + l) ∨
    ((∀ p l, p < 16 → l < 15 → ¬Covers m p l) ∧ rcPack m = 0x0F) := by
  rw [rcPack, if_neg nonempty]
  cases found : (List.range 240).find? fun k => m &&& runMask (k % 16) (k / 16) == m with
  | none =>
    refine .inr ⟨fun p l start length covers => ?_, rfl⟩
    have missed := List.find?_range_eq_none.mp found (16 * l + p) (by omega)
    rw [(candidate_iff_covers small start l).mpr covers] at missed
    cases missed
  | some k =>
    obtain ⟨holds, inRange, earlier⟩ := List.find?_range_eq_some.mp found
    have bound := List.mem_range.mp inRange
    have covered : Covers m (k % 16) (k / 16) := (covers_iff_and_runMask small _ _).mpr (beq_iff_eq.mp holds)
    refine .inl ⟨k % 16, k / 16, ⟨by omega, by omega, covered, ?_⟩, congrArg (· + k / 16) (Nat.mul_comm _ _)⟩
    intro q n start length covers
    by_contra later
    have missed := earlier (16 * n + q) (by omega)
    rw [(candidate_iff_covers small start n).mpr covers] at missed
    cases missed

theorem rcPack_empty : rcPack 0 = 0xFF := rfl

theorem rcPack_lt {m : Nat} (small : m < 2 ^ 16) : rcPack m < 2 ^ 8 := by
  rcases eq_or_ne m 0 with rfl | nonempty
  · decide
  · rcases rcPack_cases small nonempty with ⟨p, l, run, code⟩ | ⟨-, code⟩
    · have := run.start
      have := run.length
      omega
    · omega

theorem rcUnpack_run {p l : Nat} (short : l < 15) : rcUnpack (16 * p + l) = runMask p l := by
  rw [rcUnpack, if_neg (by omega), if_neg (by omega), show (16 * p + l) / 16 = p by omega, show (16 * p + l) % 16 = l by omega]

theorem testBit_rcUnpack (c : Nat) {k : Nat} (inRing : k < 16) :
    (rcUnpack c).testBit k = true ↔ c ≠ 0xFF ∧ (c % 16 = 15 ∨ ∃ j ≤ c % 16, k = (c / 16 + j) % 16) := by
  unfold rcUnpack
  split
  case isTrue empty => simp [empty]
  case isFalse nonempty =>
    split
    case isTrue whole =>
      have set : (0xFFFF : Nat).testBit k = true := by
        rw [show 0xFFFF = 2 ^ 16 - 1 from rfl, Nat.testBit_two_pow_sub_one, decide_eq_true inRing]
      simp [nonempty, whole, set]
    case isFalse short => simp [nonempty, short, testBit_runMask]

/-- Unpacking loses no element. -/
theorem and_rcUnpack_rcPack {m : Nat} (small : m < 2 ^ 16) : m &&& rcUnpack (rcPack m) = m := by
  rcases eq_or_ne m 0 with rfl | nonempty
  · exact Nat.zero_and _
  · rcases rcPack_cases small nonempty with ⟨p, l, run, code⟩ | ⟨-, code⟩
    · rw [code, rcUnpack_run run.length]
      exact (covers_iff_and_runMask small p l).mp run.covers
    · rw [code]
      exact (Nat.and_two_pow_sub_one_eq_mod m 16).trans (Nat.mod_eq_of_lt small)

/-- A run of fewer than 16 elements has one start: one that covers it and is no longer is the run itself. -/
theorem run_unique {p l q n : Nat} (start : p < 16) (length : l < 15) (start' : q < 16) (shorter : n ≤ l)
    (covers : Covers (runMask p l) q n) : q = p ∧ n = l := by
  have within (j : Nat) (h : j ≤ l) : ∃ i ≤ n, (p + j) % 16 = (q + i) % 16 :=
    covers _ (Nat.mod_lt _ (by decide)) ((testBit_runMask p l _).mpr ⟨j, h, rfl⟩)
  obtain ⟨i, hi, first⟩ := within 0 (Nat.zero_le l)
  obtain rfl | after : i = 0 ∨ 0 < i := by omega
  · obtain ⟨k, hk, last⟩ := within l le_rfl
    omega
  · obtain ⟨k, hk, beyond⟩ := within (n + 1 - i) (by omega)
    omega

theorem covers_runMask (p l : Nat) : Covers (runMask p l) p l := fun k _ set => (testBit_runMask p l k).mp set

theorem rcPack_runMask {p l : Nat} (start : p < 16) (length : l < 15) : rcPack (runMask p l) = 16 * p + l := by
  have first : (runMask p l).testBit ((p + 0) % 16) = true := (testBit_runMask p l _).mpr ⟨0, Nat.zero_le l, rfl⟩
  rcases rcPack_cases (runMask_lt p l) (ne_zero_of_testBit first) with ⟨q, n, run, code⟩ | ⟨uncovered, -⟩
  · have shorter := run.least p l start length (covers_runMask p l)
    obtain ⟨rfl, rfl⟩ := run_unique start length run.start (by omega) run.covers
    exact code
  · exact absurd (covers_runMask p l) (uncovered p l start length)

/-- A run of fewer than 16 elements misses the one after its last. -/
theorem rcPack_whole : rcPack 0xFFFF = 0x0F := by
  rcases rcPack_cases (m := 0xFFFF) (by decide) (by decide) with ⟨p, l, run, -⟩ | ⟨-, code⟩
  · have short := run.length
    have next : (p + l + 1) % 16 < 16 := Nat.mod_lt _ (by decide)
    have set : (2 ^ 16 - 1).testBit ((p + l + 1) % 16) = true := by rw [Nat.testBit_two_pow_sub_one, decide_eq_true next]
    obtain ⟨j, inRun, same⟩ := run.covers _ next set
    omega
  · exact code

theorem rcPack_rcUnpack {c : Nat} (byte : c < 256) (canonical : c % 16 < 15 ∨ c = 0x0F ∨ c = 0xFF) : rcPack (rcUnpack c) = c := by
  rcases canonical with run | rfl | rfl
  · have split : c = 16 * (c / 16) + c % 16 := by omega
    rw [split, rcUnpack_run run, rcPack_runMask (by omega) run]
  · exact rcPack_whole
  · exact rcPack_empty

theorem ringSetPackingIsTightest : Claims.RingSetPackingIsTightest := by
  refine ⟨fun c k _ => testBit_rcUnpack c, rcPack_empty, fun m small => ⟨and_rcUnpack_rcPack small, rcPack_lt small⟩,
    fun m p l small nonempty start length covers => ?shortest, fun m small nonempty uncovered => ?whole, fun c => rcPack_rcUnpack⟩
  case shortest =>
    rcases rcPack_cases small nonempty with ⟨q, n, run, code⟩ | ⟨uncovered, -⟩
    · have := run.length
      have := run.least p l start length covers
      omega
    · exact absurd covers (uncovered p l start length)
  case whole =>
    rcases rcPack_cases small nonempty with ⟨p, l, run, -⟩ | ⟨-, code⟩
    · exact absurd run.covers (uncovered p l run.start run.length)
    · exact code

/-! ## The element of the ring that holds a number (R121, R164) -/

section
variable {ring : List W32} {x : Nat}

/-- The value of point k of a ring. -/
def ringPoint (ring : List W32) (k : Nat) : Fp := fpDecode f32 (ring.getD k 0).toNat

/-- The arc below point k, where k is the first point above a number, or the arc above every point. -/
def arcBelow : Option Nat → Nat
  | some 0 => 2 ^ 15
  | some (k + 1) => 2 ^ (2 * k + 1)
  | none => 2 ^ 13

theorem elementMask_nan (nan : (fpDecode f32 x).isNaN = true) : elementMask ring x = 0xFFFF := by
  unfold elementMask
  cases value : fpDecode f32 x with
  | nan => rfl
  | inf => simp [value, Fp.isNaN] at nan
  | fin => simp [value, Fp.isNaN] at nan

theorem elementMask_infinity {n : Bool} (value : fpDecode f32 x = .inf n) : elementMask ring x = 2 ^ 14 := by
  rw [elementMask, value]

section
variable (finite : ∃ n p q, fpDecode f32 x = .fin n p q)
include finite

/-- A number equal to point k is in element 2k. -/
theorem elementMask_point {k : Nat} (point : k < 7) (equal : fpEq (fpDecode f32 x) (ringPoint ring k) = true)
    (first : ∀ i < k, fpEq (fpDecode f32 x) (ringPoint ring i) = false) : elementMask ring x = 2 ^ (2 * k) := by
  obtain ⟨n, p, q, value⟩ := finite
  have found : (List.range 7).find? (fun k => fpEq (fpDecode f32 x) (ringPoint ring k)) = some k := by
    simpa [point, equal] using first
  simp only [value, ringPoint] at found
  simp only [elementMask, value, found]

variable (between : ∀ k < 7, fpEq (fpDecode f32 x) (ringPoint ring k) = false)
include between

theorem elementMask_arc :
    elementMask ring x = arcBelow ((List.range 7).find? fun k => fpLt (fpDecode f32 x) (ringPoint ring k)) := by
  obtain ⟨n, p, q, value⟩ := finite
  have found : (List.range 7).find? (fun k => fpEq (fpDecode f32 x) (ringPoint ring k)) = none := by
    simpa using between
  simp only [value, ringPoint] at found ⊢
  simp only [elementMask, value, found]
  split <;> simp only [*, arcBelow]

theorem elementMask_below_point {k : Nat} (point : k < 7) (less : fpLt (fpDecode f32 x) (ringPoint ring k) = true)
    (first : ∀ i < k, fpLt (fpDecode f32 x) (ringPoint ring i) = false) : elementMask ring x = arcBelow (some k) := by
  rw [elementMask_arc finite between]
  exact congrArg arcBelow (by simpa [point, less] using first)

theorem elementMask_above_points (above : ∀ k < 7, fpLt (fpDecode f32 x) (ringPoint ring k) = false) :
    elementMask ring x = 2 ^ 13 := by
  rw [elementMask_arc finite between, List.find?_eq_none.mpr (by simpa using above)]
  rfl

end

end

/-! ## The bounds of a ring-set (R164) -/

/-- The search from above finds the highest index that passes. -/
theorem find?_reverse_range {p : Nat → Bool} {n e : Nat} (below : e < n) (holds : p e = true)
    (highest : ∀ k, e < k → k < n → p k = false) : (List.range n).reverse.find? p = some e := by
  induction n with
  | zero => omega
  | succ n ih =>
    rw [List.range_succ, List.reverse_append, List.reverse_singleton, List.singleton_append, List.find?_cons]
    rcases (Nat.lt_succ_iff_lt_or_eq.mp below) with inner | rfl
    · rw [highest n inner (Nat.lt_succ_self n)]
      exact ih inner fun k above small => highest k above (by omega)
    · rw [holds]

section
variable {ring : List W32} {m : Nat}

theorem lowBound_lt (ring : List W32) (m : Nat) : lowBound ring m < 2 ^ 32 := by
  unfold lowBound
  split
  · decide
  · split
    · decide
    · split <;> exact BitVec.isLt _

theorem highBound_lt (ring : List W32) (m : Nat) : highBound ring m < 2 ^ 32 := by
  unfold highBound
  split
  · decide
  · split
    · decide
    · split <;> exact BitVec.isLt _

theorem lowBound_unbounded (h : m.testBit 14 = true ∨ m.testBit 15 = true) : lowBound ring m = 0xFF800000 := by
  have nonzero : m ≠ 0 := h.elim ne_zero_of_testBit ne_zero_of_testBit
  rw [lowBound, if_neg nonzero, if_pos (by simpa using h)]
  rfl

theorem highBound_unbounded (h : m.testBit 13 = true ∨ m.testBit 14 = true) : highBound ring m = 0x7F800000 := by
  have nonzero : m ≠ 0 := h.elim ne_zero_of_testBit ne_zero_of_testBit
  rw [highBound, if_neg nonzero, if_pos (by simpa using h)]
  rfl

section
variable {e : Nat} (inner : e ≤ 12) (held : m.testBit e = true)
include inner held

theorem ne_zero_of_testBit_inner : m ≠ 0 ∧ m % 2 ^ 13 ≠ 0 := by
  have bit : (m % 2 ^ 13).testBit e = true := by
    rw [Nat.testBit_mod_two_pow, held, decide_eq_true (show e < 13 by omega), Bool.and_self]
  exact ⟨ne_zero_of_testBit held, ne_zero_of_testBit bit⟩

theorem lowBound_element (b14 : m.testBit 14 = false) (b15 : m.testBit 15 = false) (lowest : ∀ k < e, m.testBit k = false) :
    lowBound ring m = (ring.getD (e / 2) 0).toNat := by
  obtain ⟨nonzero, some⟩ := ne_zero_of_testBit_inner inner held
  have found : (List.range 13).find? (fun e => m.testBit e) = Option.some e := by
    simpa [held, show e < 13 by omega] using lowest
  rw [lowBound, if_neg nonzero, b14, b15, if_neg (by decide), if_neg some, lowPoint, found]
  rfl

theorem highBound_element (b13 : m.testBit 13 = false) (b14 : m.testBit 14 = false)
    (highest : ∀ k, e < k → k ≤ 12 → m.testBit k = false) : highBound ring m = (ring.getD ((e + 1) / 2) 0).toNat := by
  obtain ⟨nonzero, some⟩ := ne_zero_of_testBit_inner inner held
  have found : (List.range 13).reverse.find? (fun e => m.testBit e) = Option.some e :=
    find?_reverse_range (by omega) held fun k above below => highest k above (by omega)
  rw [highBound, if_neg nonzero, b13, b14, if_neg (by decide), if_neg some, highPoint, found]
  rfl

end

end

/-! ## RSFROM, RSLO and RSHI -/

/-- Lane j of the two packs that RSFROM reads. -/
def floatLane (s : State) (b a : Reg) (j : Nat) : Nat := lane 32 (s.me.rf (if j < 4 then a else b)) (j % 4)

/-- The lanes that RSFROM makes: in RC8, eight empty sets stand above the elements. -/
def elementLanes (s : State) (l : BitVec 1) (b a : Reg) : List Nat :=
  (List.range 8).map (fun j => rsOut l (elementMask (s.arch s.myCore).ring (floatLane s b a j))) ++
    if l = 1 then List.replicate 8 0xFF else []

theorem exec_rsfrom {s : State} (l : BitVec 1) {b a d : Reg} (plain : Claims.Plain s [a, b, d]) :
    exec (.rsfrom l b a d) s = Claims.fEnd s d (BitVec.ofNat 128 (packLanes (rsWidth l) (elementLanes s l b a))) 0 6
      (!Claims.fz s && (List.range 4).any fun j =>
        isSubnormal f32 (floatLane s b a j) || isSubnormal f32 (floatLane s b a (j + 4))) :=
  run_fBody_pack _ plain rfl

theorem exec_rslo {s : State} (l : BitVec 1) {a d : Reg} (plain : Claims.Plain s [a, d]) :
    exec (.rslo l a d) s = Claims.fEnd s d (BitVec.ofNat 128 (packLanes 32 ((List.range 4).map fun j =>
      lowBound (s.arch s.myCore).ring (Claims.rsLane s l a j)))) 0 6 false := by
  simp only [← rsIn_lane]
  exact run_fBody_pack _ plain rfl

theorem exec_rshi {s : State} (l : BitVec 1) {a d : Reg} (plain : Claims.Plain s [a, d]) :
    exec (.rshi l a d) s = Claims.fEnd s d (BitVec.ofNat 128 (packLanes 32 ((List.range 4).map fun j =>
      highBound (s.arch s.myCore).ring (Claims.rsLane s l a j)))) 0 6 false := by
  simp only [← rsIn_lane]
  exact run_fBody_pack _ plain rfl

theorem exists_floatLane (s : State) (b a : Reg) (holds : Nat → Bool) : (∃ j < 8, holds (floatLane s b a j) = true) ↔
    ∃ j < 4, (holds (floatLane s b a j) || holds (floatLane s b a (j + 4))) = true := by
  simp only [Bool.or_eq_true]
  constructor
  · rintro ⟨j, inPacks, h⟩
    rcases lt_or_ge j 4 with low | high
    · exact ⟨j, low, .inl h⟩
    · exact ⟨j - 4, by omega, .inr (by rwa [Nat.sub_add_cancel high])⟩
  · rintro ⟨j, inPack, h | h⟩
    · exact ⟨j, by omega, h⟩
    · exact ⟨j + 4, by omega, h⟩

theorem rsOut_lt (l : BitVec 1) {m : Nat} (small : m < 2 ^ 16) : rsOut l m < 2 ^ rsWidth l := by
  unfold rsOut rsWidth
  split
  · exact rcPack_lt small
  · exact small

theorem elementLanes_fit (s : State) (l : BitVec 1) (b a : Reg) : rsWidth l * (elementLanes s l b a).length ≤ 128 := by
  obtain rfl | rfl : l = 0 ∨ l = 1 := by revert l; decide
  · exact le_rfl
  · exact le_rfl

theorem lane_elementLanes {s : State} {l : BitVec 1} {b a : Reg} {j m : Nat} (lower : j < 8)
    (element : elementMask (s.arch s.myCore).ring (floatLane s b a j) = m) (small : m < 2 ^ 16) :
    lane (rsWidth l) (BitVec.ofNat 128 (packLanes (rsWidth l) (elementLanes s l b a))) j = Claims.rsBack l m := by
  have made : (elementLanes s l b a).getD j 0 = rsOut l m := by
    rw [elementLanes, List.getD_append _ _ _ _ (by simpa using lower)]
    simp [lower, element]
  rw [lane_packLanes (elementLanes_fit s l b a), made]
  exact Nat.mod_eq_of_lt (rsOut_lt l small)

theorem lane_elementLanes_upper (s : State) (b a : Reg) {j : Nat} (upper : 8 ≤ j) (inPack : j < 16) :
    lane 8 (BitVec.ofNat 128 (packLanes 8 (elementLanes s 1 b a))) j = 0xFF := by
  have made : (elementLanes s 1 b a).getD j 0 = 0xFF := by
    rw [elementLanes, List.getD_append_right _ _ _ _ (by simpa using upper), if_pos rfl]
    exact List.getD_replicate _ (by simp; omega)
  exact (lane_packLanes (elementLanes_fit s 1 b a) j).trans (congrArg (· % 2 ^ 8) made)

theorem ringSetsAndFloats : Claims.RingSetsAndFloats := by
  intro s l b a d ring pt w src inElement
  refine ⟨fun plain => ⟨_, _, _, exec_rsfrom l plain, rfl, ?subnormal, fun j lower => ⟨?element, ?nan⟩, ?upper⟩,
    fun plain => ⟨⟨_, exec_rslo l plain, fun j inLanes => ?low⟩, ⟨_, exec_rshi l plain, fun j inLanes => ?high⟩⟩⟩
  case subnormal =>
    rw [Bool.and_eq_true, Bool.not_eq_true', List.any_eq_true]
    simp only [List.mem_range]
    exact and_congr_right' (exists_floatLane s b a (isSubnormal f32)).symm
  case nan => exact fun nan => lane_elementLanes lower (elementMask_nan nan) (by decide)
  case upper =>
    rintro rfl j
    exact lane_elementLanes_upper s b a
  case element =>
    intro e bound held
    refine lane_elementLanes lower ?_ (Nat.pow_lt_pow_right (by decide) bound)
    simp only [inElement] at held
    split_ifs at held with infinite above below even
    · subst infinite
      exact held.elim elementMask_infinity elementMask_infinity
    · subst above
      obtain ⟨finite, outside⟩ := held
      exact elementMask_above_points finite (fun k point => (outside k point).1) (fun k point => (outside k point).2)
    · subst below
      obtain ⟨finite, less, between⟩ := held
      exact elementMask_below_point finite between (by decide) less nofun
    · obtain ⟨finite, equal, first⟩ := held
      rw [show e = 2 * (e / 2) by omega]
      exact elementMask_point finite (by omega) equal first
    · obtain ⟨less, between, finite, first⟩ := held
      rw [show e = 2 * (e / 2) + 1 by omega]
      exact elementMask_below_point finite between (by omega) less fun i before => first i (Nat.le_of_lt_succ before)
  case low =>
    rw [lane_packLanes_range (by decide) _ inLanes, Nat.mod_eq_of_lt (lowBound_lt ..)]
    exact ⟨fun empty => empty ▸ rfl, lowBound_unbounded, fun e inner b14 b15 held => lowBound_element inner held b14 b15⟩
  case high =>
    rw [lane_packLanes_range (by decide) _ inLanes, Nat.mod_eq_of_lt (highBound_lt ..)]
    exact ⟨fun empty => empty ▸ rfl, highBound_unbounded, fun e inner b13 b14 held => highBound_element inner held b13 b14⟩

/-- Settles O14: each instruction ends with a pack or mask made lane by lane; a packed code is the first, in order of length, then
start, of the runs that cover the mask. RSLO and RSHI ask the normaliser for no ring point, not even a subnormal one (log 93). -/
theorem ringSetOperationsAndPacking : Obligations.RingSetOperationsAndPacking :=
  ⟨ringSetOperationsActOnMasks, ringSetsAndFloats, ringSetPackingIsTightest⟩

end Sys2Proof.Laws
end

section
/-! PROOFS. Arithmetic of the stream pipe, lane by lane: floating point (R127, R157-R160), moves between registers and lanes
(R161), and fixed point (R163). -/

namespace Sys2Proof.Laws

open Sys2Proof Sys2Proof.Machine

/-! ## Packs of lanes with flags (R109, R135) -/

theorem testBit_foldl_or {α : Type} (bits : α → Nat) (xs : List α) (m k : Nat) :
    (xs.foldl (fun m x => m ||| bits x) m).testBit k = true ↔ m.testBit k = true ∨ ∃ x ∈ xs, (bits x).testBit k = true := by
  induction xs generalizing m with
  | nil => simp
  | cons x xs ih => simp [ih, or_assoc]

theorem laneWise_of_packOut {i : Instr} {o : FOp} {s : State} {d : Reg} {w L : Nat} {out : Nat → LaneOut}
    (runs : exec i s = run i s (fBody o s)) (plain : Claims.Plain s (o.srcs ++ [d])) (fits : w * L ≤ 128)
    (makes : o.comp s.me (s.arch s.myCore) (o.srcs.map s.me.rf) = packOut d w ((List.range L).map out)) :
    Claims.LaneWise i s d w L o.lat out := by
  have ends := runs.trans (run_fBody_pack i plain makes)
  rw [List.map_map] at ends
  refine ⟨_, _, _, ends, fun j inLanes => lane_packLanes_range fits _ inLanes,
    fun j beyond _ => lane_packLanes_beyond fits _ beyond, fun k => ?flags, ?sub⟩
  case flags => simp [testBit_foldl_or]
  case sub => simp

/-! ## IEEE lanes (R111, R113, R127, R128) -/

theorem width_fpFmtOf {t : BitVec 4} (ieee : t = 4 ∨ t = 5 ∨ t = 6) : (fpFmtOf t.toNat).width = laneWidth t.toNat := by
  rcases ieee with rfl | rfl | rfl <;> rfl

theorem laneCount_fits (t : Nat) : laneWidth t * laneCount t ≤ 128 := Nat.mul_div_le 128 _

theorem rmOf_fcsr (s : State) : rmOf s.me.fcsr = Claims.rm s := by
  rw [rmOf, Claims.rm, BitVec.extractLsb'_toNat, Nat.shiftRight_eq_div_pow]
  exact Nat.mod_eq_of_lt (by have := s.me.fcsr.isLt; omega)

/-- An arithmetic lane whose rounded result is `r`: FZ flushes it, and the normaliser is asked for a subnormal operand or result. -/
def roundedLane (s : State) (t : BitVec 4) (rs : List Reg) (j : Nat) (r : Nat × FlagBits) : LaneOut :=
  let F := fpFmtOf t.toNat
  let y := flushOut (Claims.fz s) F r
  { bits := y.1, flags := y.2,
    sub := !Claims.fz s && (isSubnormal F y.1 || rs.any (fun q => isSubnormal F (Claims.laneOf s t q j))) }

theorem arithLane_lanes (s : State) (t : BitVec 4) (rs : List Reg) (j : Nat) (f : List Nat → Nat × FlagBits) :
    arithLane (fpFmtOf t.toNat) (fzOf s.me.fcsr) (rs.map fun r => Claims.laneOf s t r j) f =
      roundedLane s t rs j (f (rs.map fun r => flushIn (Claims.fz s) (fpFmtOf t.toNat) (Claims.laneOf s t r j))) := by
  rw [arithLane, roundedLane, List.map_map, List.any_map, Bool.or_comm]
  rfl

/-- R157, R159: an operation whose lanes round `f` of the lanes of its sources. -/
theorem laneWise_arith {i : Instr} {o : FOp} {s : State} {t : BitVec 4} {d : Reg} {f : List Nat → Nat × FlagBits}
    (ieee : t = 4 ∨ t = 5 ∨ t = 6) (runs : exec i s = run i s (fBody o s)) (plain : Claims.Plain s (o.srcs ++ [d]))
    (makes : o.comp s.me (s.arch s.myCore) (o.srcs.map s.me.rf) = packOut d (fpFmtOf t.toNat).width ((List.range (laneCount t.toNat)).map
      fun j => arithLane (fpFmtOf t.toNat) (fzOf s.me.fcsr) (o.srcs.map fun r => lane (fpFmtOf t.toNat).width (s.me.rf r) j) f)) :
    Claims.LaneWise i s d (fpFmtOf t.toNat).width (laneCount t.toNat) o.lat (fun j => roundedLane s t o.srcs j
      (f (o.srcs.map fun r => flushIn (Claims.fz s) (fpFmtOf t.toNat) (Claims.laneOf s t r j)))) := by
  refine laneWise_of_packOut runs plain (width_fpFmtOf ieee ▸ laneCount_fits _) (makes.trans ?_)
  simp only [width_fpFmtOf ieee, ← arithLane_lanes]
  rfl

theorem laneWise_arith2 {i : Instr} {s : State} {t : BitVec 4} {b a d : Reg} {short long : Nat}
    {f : FpFmt → Nat → Nat → Nat → Nat × FlagBits} (ieee : t = 4 ∨ t = 5 ∨ t = 6)
    (runs : exec i s = run i s (fBody (arith2 t b a d short long f) s)) (plain : Claims.Plain s [a, b, d]) :
    Claims.LaneWise i s d (fpFmtOf t.toNat).width (laneCount t.toNat) (if t = 4 then long else short)
      (fun j => roundedLane s t [a, b] j (f (fpFmtOf t.toNat) (Claims.rm s)
        (flushIn (Claims.fz s) (fpFmtOf t.toNat) (Claims.laneOf s t a j))
        (flushIn (Claims.fz s) (fpFmtOf t.toNat) (Claims.laneOf s t b j)))) := by
  rw [← rmOf_fcsr]
  exact laneWise_arith (o := arith2 t b a d short long f) (f := fun xs => f _ _ (xs.getD 0 0) (xs.getD 1 0)) ieee runs plain rfl

theorem laneWise_fma {i : Instr} {s : State} {t : BitVec 4} {c b a d : Reg} {negProd negC : Bool} (ieee : t = 4 ∨ t = 5 ∨ t = 6)
    (runs : exec i s = run i s (fBody (fmaOp t c b a d negProd negC) s)) (plain : Claims.Plain s [a, b, c, d]) :
    let value (r : Reg) (j : Nat) := fpDecode (fpFmtOf t.toNat) (flushIn (Claims.fz s) (fpFmtOf t.toNat) (Claims.laneOf s t r j))
    Claims.LaneWise i s d (fpFmtOf t.toNat).width (laneCount t.toNat) (if t = 4 then 10 else 8)
      (fun j => roundedLane s t [a, b, c] j (fpFma (fpFmtOf t.toNat) (Claims.rm s) negProd (value a j) (value b j)
        (if negC then (value c j).neg else value c j))) := by
  rw [← rmOf_fcsr]
  exact laneWise_arith (o := fmaOp t c b a d negProd negC) (f := fun xs => fpFma _ _ negProd (fpDecode _ (xs.getD 0 0))
    (fpDecode _ (xs.getD 1 0)) (if negC then (fpDecode _ (xs.getD 2 0)).neg else fpDecode _ (xs.getD 2 0))) ieee runs plain rfl

/-- Settles O11: lane by lane, the operation of each row of the tables is the one its instruction runs. -/
theorem floatArithmeticIsLaneWise : Obligations.FloatArithmeticIsLaneWise := by
  intro s t c b a d ieee F x out
  simp only [Claims.fpTable, Claims.fmaTable, List.forall_mem_cons]
  refine ⟨⟨fun plain => ?add, fun plain => ?sub, fun plain => ?mul, fun plain => ?div, fun plain => ?min, fun plain => ?max, nofun⟩,
    fun plain => ?sqrt, fun plain => ?fmadd, fun plain => ?fmsub, fun plain => ?fnmadd, fun plain => ?fnmsub, nofun⟩
  case add => exact laneWise_arith2 (f := onValues fpAdd) ieee rfl plain
  case sub => exact laneWise_arith2 (f := onValues fun F rm x y => fpAdd F rm x y.neg) ieee rfl plain
  case mul => exact laneWise_arith2 (f := onValues fpMul) ieee rfl plain
  case div => exact laneWise_arith2 (f := onValues fpDiv) ieee rfl plain
  case min => exact laneWise_arith2 (f := fun F _ x y => fpMinMax F false x y) ieee rfl plain
  case max => exact laneWise_arith2 (f := fun F _ x y => fpMinMax F true x y) ieee rfl plain
  case sqrt =>
    rw [← rmOf_fcsr]
    exact laneWise_arith (o := opFsqrt t a d) (f := fun xs => fpSqrt _ _ (fpDecode _ (xs.getD 0 0))) ieee rfl plain rfl
  case fmadd => exact laneWise_fma (negProd := false) (negC := false) ieee rfl plain
  case fmsub => exact laneWise_fma (negProd := false) (negC := true) ieee rfl plain
  case fnmadd => exact laneWise_fma (negProd := true) (negC := true) ieee rfl plain
  case fnmsub => exact laneWise_fma (negProd := true) (negC := false) ieee rfl plain

/-! ## The top bit of a lane (R111) -/

theorem lane_lt (w : Nat) (p : W128) (j : Nat) : lane w p j < 2 ^ w := Nat.mod_lt _ (Nat.two_pow_pos w)

theorem bitsOf_top {n x : Nat} (positive : 0 < n) (small : x < 2 ^ n) :
    bitsOf x (n - 1) 1 = if 2 ^ (n - 1) ≤ x then 1 else 0 := by
  have twice := Nat.two_pow_pred_mul_two positive
  rw [bitsOf]
  split
  case isTrue set => rw [Nat.div_eq_of_lt_le (k := 1) (by omega) (by omega)]; rfl
  case isFalse clear => rw [Nat.div_eq_of_lt (by omega)]; rfl

theorem testBit_top {n x : Nat} (positive : 0 < n) (small : x < 2 ^ n) : x.testBit (n - 1) = decide (2 ^ (n - 1) ≤ x) := by
  have top := bitsOf_top positive small
  rw [Nat.testBit_eq_decide_div_mod_eq]
  refine decide_eq_decide.mpr ?_
  rw [← Nat.pow_one 2, Nat.pow_one, ← Nat.pow_one 2, ← bitsOf, top]
  simp

/-! ## Sign operations (R157) -/

theorem width_pos (t : Nat) : 0 < laneWidth t := by
  unfold laneWidth
  split_ifs <;> decide

theorem laneBits_signOp {i : Instr} {s : State} {t : BitVec 4} {b a d : Reg} {sign : Bool → Bool → Bool}
    (ieee : t = 4 ∨ t = 5 ∨ t = 6) (runs : exec i s = run i s (fBody (signOp t b a d sign) s)) (plain : Claims.Plain s [a, b, d]) :
    Claims.LaneBits i s d (fpFmtOf t.toNat).width (laneCount t.toNat) (fun j =>
      (if sign (decide (2 ^ ((fpFmtOf t.toNat).width - 1) ≤ Claims.laneOf s t a j))
          (decide (2 ^ ((fpFmtOf t.toNat).width - 1) ≤ Claims.laneOf s t b j)) then 2 ^ ((fpFmtOf t.toNat).width - 1) else 0) +
        Claims.laneOf s t a j % 2 ^ ((fpFmtOf t.toNat).width - 1)) := by
  have width := width_fpFmtOf ieee
  refine laneWise_of_packOut (o := signOp t b a d sign) runs plain (width ▸ laneCount_fits _) ?_
  simp only [width, Claims.laneOf, ← testBit_top (width_pos _) (lane_lt ..)]
  simp only [← width]
  rfl

/-! ## Comparisons (R157) -/

theorem flushOut_nv (fz : Bool) (F : FpFmt) (r : Nat × FlagBits) : (flushOut fz F r).2.testBit 0 = r.2.testBit 0 := by
  unfold flushOut
  split
  · rw [Nat.testBit_or]
    exact Bool.or_false _
  · rfl

theorem and_one_eq (m : Nat) : m &&& 1 = if m.testBit 0 then 1 else 0 := by
  rw [Nat.and_one_is_mod, Nat.testBit_zero]
  rcases Nat.mod_two_eq_zero_or_one m with h | h <;> simp [h]

/-- The lanes of a comparison raise NV alone, where `invalid` says so. -/
theorem compareFlags {α : Type} (lanes : List α) (out : α → LaneOut) (invalid : α → Bool)
    (nv : ∀ x, (out x).flags.testBit 0 = invalid x) :
    ((lanes.map out).foldl (fun f (l : LaneOut) => f ||| l.flags) 0) &&& 1 = if lanes.any invalid then 1 else 0 := by
  have bit : ((lanes.map out).foldl (fun f (l : LaneOut) => f ||| l.flags) 0).testBit 0 = lanes.any invalid := by
    rw [Bool.eq_iff_iff, testBit_foldl_or]
    simp only [List.mem_map, Nat.zero_testBit, List.any_eq_true, ← nv]
    simp
  rw [and_one_eq, bit]

theorem laneCount_ieee {t : BitVec 4} (ieee : t = 4 ∨ t = 5 ∨ t = 6) : laneCount t.toNat ≤ 8 := by
  rcases ieee with rfl | rfl | rfl <;> decide

theorem getLsbD_upTo_mask {L : Nat} (p : Nat → Bool) (fits : L ≤ 64) (j : Nat) :
    (BitVec.ofNat 64 (upTo L (fun m i => if p i then m + 2 ^ i else m) 0)).getLsbD j = (decide (j < L) && p j) := by
  rw [BitVec.getLsbD_ofNat, (upTo_mask p L).2]
  by_cases inLanes : j < L
  · simp [inLanes, inLanes.trans_le fits]
  · simp [inLanes]

/-- What a comparison raises: a quiet one NV for a signalling NaN only, the others for any NaN. -/
def compareNV (quiet : Bool) (x y : Fp) : Bool := if quiet then decide (0 < sNaN x + sNaN y) else x.isNaN || y.isNaN

theorem testBit_compareFlag (quiet : Bool) (x y : Fp) :
    (if quiet then (if sNaN x + sNaN y = 0 then 0 else 1) else if x.isNaN || y.isNaN then 1 else 0).testBit 0 =
      compareNV quiet x y := by
  cases quiet
  case false =>
    rw [if_neg Bool.false_ne_true, compareNV, if_neg Bool.false_ne_true]
    cases x.isNaN || y.isNaN <;> rfl
  case true =>
    rw [if_pos rfl, compareNV, if_pos rfl]
    rcases Nat.eq_zero_or_pos (sNaN x + sNaN y) with h | h
    · rw [if_pos h, h]; rfl
    · rw [if_neg h.ne', decide_eq_true h]; rfl

theorem compares_compareOp {i : Instr} {s : State} {t : BitVec 4} {b a d : Reg} {quiet : Bool} {rel : Fp → Fp → Bool}
    (ieee : t = 4 ∨ t = 5 ∨ t = 6) (runs : exec i s = run i s (fBody (compareOp t b a d quiet rel) s)) (plain : Claims.Plain s [a, b]) :
    let num (r : Reg) (j : Nat) : Fp := fpDecode (fpFmtOf t.toNat) (flushIn (Claims.fz s) (fpFmtOf t.toNat) (Claims.laneOf s t r j))
    ∃ v fl sub, exec i s = Claims.gEnd s d v fl 6 sub ∧ (∀ j, v.getLsbD j = (decide (j < laneCount t.toNat) && rel (num a j) (num b j))) ∧
      fl = if (List.range (laneCount t.toNat)).any (fun j => compareNV quiet (num a j) (num b j)) then 1 else 0 := by
  intro num
  have width := width_fpFmtOf ieee
  refine ⟨_, _, _, runs.trans (run_fBody_number (o := compareOp t b a d quiet rel) i plain rfl), fun j => ?_, ?_⟩
  · rw [getLsbD_upTo_mask _ ((laneCount_ieee ieee).trans (by decide)), width]
    rfl
  · refine compareFlags _ _ _ fun j => ?_
    rw [width]
    exact (flushOut_nv ..).trans (testBit_compareFlag quiet _ _)

/-! ## Kinds (R158) -/

theorem scale2_num_eq_zero (n : Nat) (e : Int) : (scale2 n e).1 = 0 ↔ n = 0 := by
  unfold scale2
  split <;> simp

theorem fpKind_eq {F : FpFmt} {x : Nat} (positive : 0 < F.width) (fraction : 0 < F.mbits) (small : x < 2 ^ F.width) :
    let e := x / 2 ^ F.mbits % 2 ^ F.ebits
    let m := x % 2 ^ F.mbits
    fpKind F x = (if 2 ^ (F.width - 1) ≤ x then 8 else 0) +
      (if e = 2 ^ F.ebits - 1 then (if m = 0 then 3 else if 2 ^ (F.mbits - 1) ≤ m then 4 else 5)
       else if e = 0 then (if m = 0 then 0 else 1) else 2) := by
  intro e m
  have exponent : bitsOf x F.mbits F.ebits = e := rfl
  have rest : bitsOf x 0 F.mbits = m := by rw [bitsOf, Nat.pow_zero, Nat.div_one]
  have quiet : bitsOf m (F.mbits - 1) 1 = if 2 ^ (F.mbits - 1) ≤ m then 1 else 0 :=
    bitsOf_top fraction (Nat.mod_lt _ (Nat.two_pow_pos _))
  have sign : 8 * bitsOf x (F.width - 1) 1 = if 2 ^ (F.width - 1) ≤ x then 8 else 0 := by
    rw [bitsOf_top positive small, mul_ite]
  rw [fpKind, sign, fpDecode, isSubnormal, exponent, rest]
  refine congrArg (Nat.add _) ?_
  by_cases top : e = 2 ^ F.ebits - 1
  · rw [if_pos top, if_pos top]
    by_cases zero : m = 0
    · rw [if_pos zero, if_pos zero]
    · rw [if_neg zero, if_neg zero, quiet]
      by_cases bit : 2 ^ (F.mbits - 1) ≤ m
      · simp [bit]
      · simp [bit]
  · rw [if_neg top, if_neg top]
    by_cases small : e = 0
    · by_cases zero : m = 0
      · simp [small, zero, scale2_num_eq_zero]
      · simp [small, zero, scale2_num_eq_zero]
    · simp [small, scale2_num_eq_zero]

theorem toNat_packLanes {w n : Nat} {xs : List Nat} (fits : w * xs.length ≤ n) :
    (BitVec.ofNat n (packLanes w xs)).toNat = packLanes w xs :=
  Nat.mod_eq_of_lt ((packLanes_lt w xs).trans_le (Nat.pow_le_pow_right two_pos fits))

theorem kinds_opFkind {s : State} {t : BitVec 4} {a d : Reg} (ieee : t = 4 ∨ t = 5 ∨ t = 6) (plain : Claims.Plain s [a]) :
    ∃ v : W64, exec (.fkind t a d) s = Claims.gEnd s d v 0 6 false ∧ v.toNat < 16 ^ laneCount t.toNat ∧
      ∀ j < laneCount t.toNat, v.toNat / 16 ^ j % 16 = fpKind (fpFmtOf t.toNat) (Claims.laneOf s t a j) % 16 := by
  refine ⟨_, run_fBody_number (o := opFkind t a d) _ plain rfl, ?_, fun j inLanes => ?_⟩
  all_goals
    rw [toNat_packLanes (by simpa using (Nat.mul_le_mul_left 4 (laneCount_ieee ieee)).trans (by decide)), show 16 = 2 ^ 4 from rfl,
      ← Nat.pow_mul]
  · simpa using packLanes_lt 4 ((List.range (laneCount t.toNat)).map _)
  · rw [← bitsOf, bitsOf_packLanes, width_fpFmtOf ieee]
    simp [inLanes]
    rfl

theorem signOperationsComparisonsAndKinds : Claims.SignOperationsComparisonsAndKinds := by
  intro s t b a d ieee F L half num signed compares
  refine ⟨fun plain => ⟨?copy, ?opposite, ?xor⟩, fun plain => ⟨?eq, ?lt, ?le⟩, fun plain => ?kind⟩
  case copy => exact laneBits_signOp (sign := fun _ y => y) ieee rfl plain
  case opposite => exact laneBits_signOp (sign := fun _ y => !y) ieee rfl plain
  case xor => exact laneBits_signOp (sign := fun x y => x != y) ieee rfl plain
  case eq => exact compares_compareOp (quiet := true) (rel := fpEq) ieee rfl plain
  case lt => exact compares_compareOp (quiet := false) (rel := fpLt) ieee rfl plain
  case le => exact compares_compareOp (quiet := false) (rel := fun x y => fpLt x y || fpEq x y) ieee rfl plain
  case kind =>
    obtain ⟨v, ends, small, kinds⟩ := kinds_opFkind (d := d) ieee plain
    refine ⟨v, ends, small, fun j inLanes => (kinds j inLanes).trans ?_⟩
    have width := width_fpFmtOf ieee
    have fraction : 0 < F.mbits := by rcases ieee with rfl | rfl | rfl <;> decide
    rw [fpKind_eq (width ▸ width_pos _) fraction (width ▸ lane_lt ..)]
    refine Nat.mod_eq_of_lt ?_
    split_ifs <;> decide

/-! ## Conversions (R160) -/

theorem conversionsAreLaneWise : Claims.ConversionsAreLaneWise := by
  intro s u t b a d plain L scale narrow ieee
  have fits : laneWidth t.toNat * L ≤ 128 := (Nat.mul_le_mul_left _ (min_le_right ..)).trans (laneCount_fits _)
  have low : ((s.me.rg b).extractLsb' 0 32).toNat = (s.me.rg b).toNat % 2 ^ 32 := BitVec.extractLsb'_toNat ..
  refine laneWise_of_packOut (o := opFcvt u t b a d) rfl plain fits ?_
  simp only [opFcvt, low, rmOf_fcsr, ← Bool.decide_and]
  rfl

/-! ## Moves and shuffles (R161) -/

theorem append_words_eq (x y : W64) : x ++ y = BitVec.ofNat 128 (y.toNat + 2 ^ 64 * x.toNat) := by
  refine BitVec.eq_of_toNat_eq ?_
  rw [BitVec.toNat_append, ← Nat.shiftLeft_add_eq_or_of_lt y.isLt, Nat.shiftLeft_eq, BitVec.toNat_ofNat,
    Nat.mod_eq_of_lt (by have := x.isLt; have := y.isLt; omega)]
  omega

theorem movesAndShuffles : Claims.MovesAndShuffles := by
  intro s t b a d w L
  refine ⟨fun plain => ⟨run_fBody_number _ plain rfl, ?high⟩, fun plain => ⟨?join, ?splat⟩, fun plain => ?shuffle⟩
  case high =>
    rw [← Nat.shiftRight_eq_div_pow]
    exact run_fBody_number (o := opFtogh a d) _ plain rfl
  case join =>
    rw [← append_words_eq]
    exact run_fBody_pack (o := opGtof b a d) _ plain rfl
  case splat =>
    refine laneBits_of_packed (laneCount_fits _) ((run_fBody_pack (o := opSplat t a d) _ plain rfl).trans ?_)
    rw [List.map_const', List.length_range]
    rfl
  case shuffle =>
    simp only [show 16 = 2 ^ 4 from rfl, ← Nat.pow_mul]
    exact laneBits_of_packed (laneCount_fits _) (run_fBody_pack (o := opShuf t b a d) _ plain rfl)

/-- Settles O12: each operation of the model computes its lanes from those of its sources. -/
theorem signsConversionsAndMoves : Obligations.SignsConversionsAndMoves :=
  ⟨signOperationsComparisonsAndKinds, conversionsAreLaneWise, movesAndShuffles⟩

/-! ## Fixed point (R163) -/

theorem satSigned_eq (n : Nat) (v : Int) : satSigned n v = (Claims.satBits n v, Claims.satChanges n v) := by
  have positive : (0 : Int) < 2 ^ (n - 1) := pow_pos two_pos _
  unfold satSigned Claims.satBits Claims.satChanges
  generalize (2 ^ (n - 1) : Int) = h at positive ⊢
  rcases lt_or_ge v (-h) with below | least
  · simp [below, below.ne', show min v (h - 1) = v by omega, show max (-h) v = -h by omega]
  · rcases lt_or_ge (h - 1) v with above | most
    · simp [least.not_gt, above, above.ne, show min v (h - 1) = h - 1 by omega, show max (-h) (h - 1) = h - 1 by omega]
    · simp [least.not_gt, most.not_gt, show min v (h - 1) = v by omega, show max (-h) v = v by omega]

/-- Halves away from zero: the quotient of 2a + den and 2 den. -/
theorem roundInt_half_up (a : Nat) {den : Nat} (positive : 0 < den) : (roundInt 1 false a den).1 = (2 * a + den) / (2 * den) := by
  have whole : 2 * a + den = 2 * (a % den) + den + 2 * den * (a / den) := by
    have := Nat.mod_add_div a den
    rw [Nat.mul_assoc]
    omega
  have rest := Nat.mod_lt a positive
  have half : (2 * (a % den) + den) / (2 * den) = if den ≤ 2 * (a % den) then 1 else 0 := by
    split
    · exact Nat.div_eq_of_lt_le (by omega) (by omega)
    · exact Nat.div_eq_of_lt (by omega)
  rw [whole, Nat.add_mul_div_left _ _ (by omega), half]
  by_cases up : den ≤ 2 * (a % den)
  · simp [roundInt, up, show a % den ≠ 0 by omega, Nat.add_comm]
  · simp [roundInt, up]

theorem rha_eq (n : Int) {den : Nat} (positive : 0 < den) : rha n den = Claims.roundAway n den := by
  simp only [rha, Claims.roundAway, roundInt_half_up _ positive]
  rcases lt_trichotomy n 0 with negative | rfl | positive
  · simp [negative, Int.sign_eq_neg_one_of_neg negative]
  · simp [Nat.div_eq_of_lt (show den < 2 * den by omega)]
  · simp [positive.not_gt, Int.sign_eq_one_of_pos positive]

theorem laneWise_qfx {i : Instr} {s : State} {t : BitVec 4} {srcs : List Reg} {d : Reg} {f : Thread → Nat → Int → Int → Int}
    {value : Nat → Int}
    (runs : exec i s = run i s (fBody (qfxOp t srcs d f) s)) (plain : Claims.Plain s (srcs ++ [d]))
    (values : ∀ j, f s.me (laneWidth t.toNat - 1) (signedOf (laneWidth t.toNat) (lane (laneWidth t.toNat) (pack0 (srcs.map s.me.rf)) j))
      (signedOf (laneWidth t.toNat) (lane (laneWidth t.toNat) (pack1 (srcs.map s.me.rf)) j)) = value j) :
    Claims.LaneWise i s d (laneWidth t.toNat) (laneCount t.toNat) 6 (fun j => Claims.qOut (laneWidth t.toNat) (value j)) := by
  refine laneWise_of_packOut (o := qfxOp t srcs d f) runs plain (laneCount_fits _) ?_
  simp only [qfxOp, satSigned_eq, values]
  rfl

/-- An operation that traps has no other effect (R58). -/
theorem run_fBody_trap {o : FOp} {s : State} (i : Instr) {cause : Byte} {eval : W64} (plain : Claims.Plain s o.srcs)
    (traps : (o.comp s.me (s.arch s.myCore) (o.srcs.map s.me.rf)).trap = some (cause, eval)) (leads : twinLag s s.cur = false) :
    run i s (fBody o s) = .next (trapMe s cause eval) := by
  have applied : fApply o s s.cur = .error (.trap cause eval) := by
    simp only [fApply, readFs_registers fun r hr => streamOf_plain plain hr, bind, Except.bind, ← State.me.eq_1, ← State.myCore.eq_1,
      traps]
  simp only [fBody, runFree_plain plain, applied, bind, Except.bind, run, runBody, leads]
  rfl

/-- Lane j is out of the range FQLO to FQHI. -/
def outOfRange (s : State) (t : BitVec 4) (a : Reg) (j : Nat) : Bool :=
  decide (Claims.signedLane s t a j * 2 ^ (32 - laneWidth t.toNat) < s.me.fqlo.toInt) ||
    decide (s.me.fqhi.toInt < Claims.signedLane s t a j * 2 ^ (32 - laneWidth t.toNat))

/-- The mask that QRNG makes. -/
def rangeMask (s : State) (t : BitVec 4) (a : Reg) : Nat :=
  upTo (laneCount t.toNat) (fun m i => if outOfRange s t a i then m + 2 ^ i else m) 0

theorem laneCount_le (t : Nat) : laneCount t ≤ 32 := by
  unfold laneCount laneWidth
  split_ifs <;> decide

theorem rangeMask_eq_zero (s : State) (t : BitVec 4) (a : Reg) : BitVec.ofNat 64 (rangeMask s t a) = 0 ↔ rangeMask s t a = 0 := by
  have small : rangeMask s t a < 2 ^ 64 := (upTo_mask _ _).1.trans_le (Nat.pow_le_pow_right two_pos ((laneCount_le _).trans (by decide)))
  rw [← BitVec.toNat_inj, BitVec.toNat_ofNat, Nat.mod_eq_of_lt small]
  rfl

theorem comp_opQrng (s : State) (t : BitVec 4) (a d : Reg) :
    (opQrng t a d).comp s.me (s.arch s.myCore) ([a].map s.me.rf) =
      { g := some (d, BitVec.ofNat 64 (rangeMask s t a)), flags := if rangeMask s t a = 0 then 0 else flagQOV,
        trap := if rangeMask s t a ≠ 0 ∧ s.me.fcsr.getLsbD 12 then some (FORMAT, BitVec.ofNat 64 (rangeMask s t a)) else none } := rfl

/-- Settles O13: each operation saturates the exact result of its lanes; QRNG's mask has the bits of the lanes out of range. -/
theorem fixedPointIsLaneWise : Obligations.FixedPointIsLaneWise := by
  intro s t b a d w L A B
  refine ⟨fun plain => ⟨?add, ?sub, ?mul⟩, fun plain => ⟨?abs, ?shift, ?sat⟩, fun plain narrow => ?range⟩
  case add => exact laneWise_qfx (f := fun _ _ x y => x + y) rfl plain fun _ => rfl
  case sub => exact laneWise_qfx (f := fun _ _ x y => x - y) rfl plain fun _ => rfl
  case mul => exact laneWise_qfx (f := fun _ F x y => rha (x * y) (2 ^ F)) rfl plain fun _ => rha_eq _ (Nat.two_pow_pos _)
  case abs => exact laneWise_qfx (f := fun _ _ x _ => (x.natAbs : Int)) rfl plain fun _ => rfl
  case shift =>
    exact laneWise_qfx (f := fun th _ x _ => rha x (2 ^ Nat.min (th.rg b).toNat 63)) rfl plain fun _ => rha_eq _ (Nat.two_pow_pos _)
  case sat =>
    refine laneWise_of_packOut (o := opQsat a d) rfl plain (by decide) ?_
    simp only [opQsat, satSigned_eq, rha_eq _ (Nat.two_pow_pos _)]
    rfl
  case range =>
    refine ⟨BitVec.ofNat 64 (rangeMask s t a), fun j => ?mask, fun stays => ?number, fun outside asked leads => ?trap⟩
    case mask =>
      rw [rangeMask, getLsbD_upTo_mask _ ((laneCount_le _).trans (by decide)), outOfRange, ← Bool.decide_or, ← Bool.decide_and]
    case number =>
      simp only [rangeMask_eq_zero] at stays ⊢
      have quiet : ¬(rangeMask s t a ≠ 0 ∧ s.me.fcsr.getLsbD 12 = true) := fun ⟨outside, asked⟩ =>
        stays.elim outside fun clear => Bool.false_ne_true (clear.symm.trans asked)
      exact run_fBody_number (o := opQrng t a d) _ plain ((comp_opQrng s t a d).trans (by rw [if_neg quiet]))
    case trap =>
      refine run_fBody_trap (o := opQrng t a d) _ plain ?_ leads
      exact (congrArg FOut.trap (comp_opQrng s t a d)).trans (if_pos ⟨(rangeMask_eq_zero s t a).not.mp outside, asked⟩)

end Sys2Proof.Laws
end

section
/-! PROOFS. What parking a thread leaves alone (R54, R55), and the queue registers (R155, R156). -/

namespace Sys2Proof.Laws

open Sys2Proof Sys2Proof.Machine

/-! ## Pauses (R54) -/

/-- Bringing one slot in line with what must be paused writes at most its thread. -/
def repauseSlot (core : Nat) (s : State) (slot : Nat) : State :=
  let t := s.thread (keyOf core slot)
  let t' := pauseSlot (wantPaused s core slot) t
  if t' = t then s else s.setThread (keyOf core slot) t'

theorem repause_eq (s : State) (core : Nat) : repause s core = [6, 0, 1, 2, 3, 4, 5, 7].foldl (repauseSlot core) s := rfl

theorem repause_threads (s : State) (core : Nat) : ∃ threads, repause s core = { s with threads := threads } := by
  refine foldl_keeps (fun u : State => ∃ threads, u = { s with threads := threads }) (repauseSlot core) ?_ _ s ⟨s.threads, rfl⟩
  rintro _ slot ⟨threads, rfl⟩
  unfold repauseSlot
  simp only
  split
  · exact ⟨threads, rfl⟩
  · exact ⟨_, rfl⟩

/-- A thread that is marked, or no longer. -/
def markedThread (t : Thread) (pse : Bool) : Thread := { t with pse := pse }

theorem pauseSlot_parked {t : Thread} (parked : t.state = .parked) (want : Bool) : pauseSlot want t = markedThread t want := by
  unfold pauseSlot markedThread
  cases want <;> simp [parked]

/-- A parked thread is at most marked. -/
theorem thread_repause_parked {s : State} {k : Nat} (parked : (s.thread k).state = .parked) (core : Nat) :
    ∃ pse, (repause s core).thread k = markedThread (s.thread k) pse := by
  refine foldl_keeps (fun u : State => ∃ pse, u.thread k = markedThread (s.thread k) pse) (repauseSlot core) ?_ _ s ⟨(s.thread k).pse, rfl⟩
  rintro u slot ⟨pse, marked⟩
  unfold repauseSlot
  simp only
  split
  · exact ⟨pse, marked⟩
  · rw [thread_setThread]
    split
    case isTrue own =>
      rw [own, marked, pauseSlot_parked (t := markedThread (s.thread k) pse) parked]
      exact ⟨_, rfl⟩
    case isFalse => exact ⟨pse, marked⟩

/-! ## Parking (R55) -/

/-- The thread that parks on `i`: a follower detaches first (R73). -/
def parkedThread (s : State) (kind : Byte) (eval : W64) (i : Instr) (pse : Bool) : Thread :=
  { s.me.detach with
    state := .parked, busy := none, pse := pse,
    wait := some { kind := kind, eval := eval, deadline := deadlineOf s s.me.detach, remote := none, instr := i, taken := [],
                   walk := false, sent := false, aux := 0, reply := none } }

theorem parkMe_eq (s : State) (kind : Byte) (eval : W64) (i : Instr) : ∃ pse threads,
    parkMe s kind eval i = { s with threads := threads } ∧ (parkMe s kind eval i).me = parkedThread s kind eval i pse ∧
      (slotOf s.cur ≠ 6 → pse = s.me.detach.pse) := by
  have unfolded : parkMe s kind eval i = repauseIf6 (s.setMe (parkedThread s kind eval i s.me.detach.pse)) s.cur := rfl
  rw [unfolded, repauseIf6]
  split
  case isTrue urgent =>
    obtain ⟨threads, frame⟩ := repause_threads (s.setMe (parkedThread s kind eval i s.me.detach.pse)) (coreOf s.cur)
    obtain ⟨pse, marked⟩ := thread_repause_parked (s := s.setMe (parkedThread s kind eval i s.me.detach.pse)) (k := s.cur)
      (by rw [thread_setMe_cur]; rfl) (coreOf s.cur)
    refine ⟨pse, threads, frame, ?_, fun other => absurd urgent other⟩
    rw [State.me, show (repause _ _).cur = s.cur by rw [frame]; rfl, marked, thread_setMe_cur]
    rfl
  case isFalse => exact ⟨_, _, rfl, me_setMe .., fun _ => rfl⟩

@[simp] theorem detach_pc (t : Thread) : t.detach.pc = t.pc := by unfold Thread.detach; split <;> rfl
@[simp] theorem detach_q (t : Thread) : t.detach.q = t.q := by unfold Thread.detach; split <;> rfl

/-! ## Queue registers -/

theorem qWake_none {s : State} {key : Nat} (free : (s.thread key).wait = none) (n : Nat) : qWake s key n = s := by
  rw [qWake, free]

section
variable {s : State} (free : s.me.wait = none) {n : Nat}
include free

theorem qPush_room {v : W128} (room : (s.me.qreg n).length < 8) :
    qPush s s.cur n v = .ok (s.setThread s.cur (s.me.setQreg n (s.me.qreg n ++ [v]))) := by
  have woken := qWake_none (s := s.setThread s.cur (s.me.setQreg n (s.me.qreg n ++ [v]))) (key := s.cur)
    (by rwa [thread_setThread_same]) n
  exact (if_neg room.not_ge).trans (congrArg Except.ok woken)

theorem qPop_cons {v : W128} {rest : List W128} (held : s.me.qreg n = v :: rest) :
    qPop s s.cur n = .ok (s.setThread s.cur (s.me.setQreg n rest), v) := by
  have woken := qWake_none (s := s.setThread s.cur (s.me.setQreg n rest)) (key := s.cur) (by rwa [thread_setThread_same]) n
  rw [qPop, ← State.me.eq_1, held]
  simp only [woken]

end

theorem qPush_full {s : State} {n : Nat} (v : W128) (full : 8 ≤ (s.me.qreg n).length) :
    qPush s s.cur n v = .error (.park 0x04 (BitVec.ofNat 64 n) false [] []) := if_pos full

theorem qPop_nil {s : State} {n : Nat} (empty : s.me.qreg n = []) :
    qPop s s.cur n = .error (.park 0x03 (BitVec.ofNat 64 n) false [] []) := by
  rw [qPop, ← State.me.eq_1, empty]

/-- A body that parks on a queue register parks its instruction. -/
theorem run_park_queue {s : State} {i : Instr} {body : Except Stop State} {kind : Byte} {n : Nat} (queue : kind ≠ 0x0C)
    (parks : body = .error (.park kind (BitVec.ofNat 64 n) false [] [])) :
    ∃ t w, run i s body = .next t ∧ t.me.state = .parked ∧ t.me.wait = some w ∧ w.kind = kind ∧ w.eval = BitVec.ofNat 64 n ∧
      w.instr = i ∧ t.me.pc = s.me.pc ∧ t.me.q = s.me.q := by
  obtain ⟨pse, _, -, parked, -⟩ := parkMe_eq s kind (BitVec.ofNat 64 n) i
  have ran : run i s body = .next (parkMe s kind (BitVec.ofNat 64 n) i) := by
    rw [parks, run, runBody]
    exact congrArg Host.Outcome.next (if_neg queue)
  exact ⟨_, _, ran, by rw [parked]; rfl, by rw [parked]; rfl, rfl, rfl, rfl, by rw [parked]; exact detach_pc _,
    by rw [parked]; exact detach_q _⟩

theorem readF_register {s : State} {key : Nat} {r : Reg} (register : (s.thread key).streamOf r = none) :
    readF s key r = .ok (s, (s.thread key).rf r) := by
  rw [readF, register]

section
variable {s : State} {q : BitVec 5} {a d : Reg}

theorem qwfBody_register (register : s.me.streamOf a = none) (free : s.me.wait = none) (room : (s.me.qreg q.toNat).length < 8) :
    qwfBody s s.cur q a = .ok (s.setThread s.cur (s.me.setQreg q.toNat (s.me.qreg q.toNat ++ [s.me.rf a]))) := by
  have stays : stepStreams (s.setThread s.cur (s.me.setQreg q.toNat (s.me.qreg q.toNat ++ [s.me.rf a]))) s.cur [a] = _ :=
    stepStreams_registers fun r named => by rw [thread_setThread_same, List.mem_singleton.mp named]; exact register
  simp only [qwfBody, readF_register register, bind, Except.bind, ← State.me.eq_1, qPush_room free room, stays]
  rfl

theorem qwfBody_full (register : s.me.streamOf a = none) (full : 8 ≤ (s.me.qreg q.toNat).length) :
    qwfBody s s.cur q a = .error (.park 0x04 (BitVec.ofNat 64 q.toNat) false [] []) := by
  simp only [qwfBody, readF_register register, bind, Except.bind, qPush_full _ full]

theorem qrfBody_register (register : s.me.streamOf d = none) (free : s.me.wait = none) {v : W128} {rest : List W128}
    (held : s.me.qreg q.toNat = v :: rest) :
    qrfBody s s.cur q d = .ok (s.setThread s.cur ((s.me.setQreg q.toNat rest).wf d v)) := by
  have target : ((s.setThread s.cur (s.me.setQreg q.toNat rest)).thread s.cur).streamOf d = none := by
    rw [thread_setThread_same]; exact register
  simp only [qrfBody, qPop_cons free held, bind, Except.bind, writeF_register target, thread_setThread_same, setThread_setThread]

theorem qrfBody_empty (empty : s.me.qreg q.toNat = []) :
    qrfBody s s.cur q d = .error (.park 0x03 (BitVec.ofNat 64 q.toNat) false [] []) := by
  simp only [qrfBody, qPop_nil empty, bind, Except.bind]

end

/-- Settles O17: a push appends at the end of the queue's list, a pop takes its head, and either parks where it cannot. -/
theorem queueRegistersAreFifos : Obligations.QueueRegistersAreFifos := by
  intro s q b a d free l put parks
  refine ⟨fun room => ?qwg, fun room plain => ?qwf, fun v r held => ⟨?qrg, fun plain => ?qrf⟩, rfl,
    fun full => ⟨?qwgFull, fun plain => ?qwfFull⟩, fun empty => ⟨?qrgEmpty, fun plain => ?qrfEmpty⟩⟩
  case qwg =>
    change execQwg q b a s = _
    simp only [execQwg, append_words_eq, qPush_room free room, bind, Except.bind, me_setThread_cur, finish_setThread_cur]
    rfl
  case qwf =>
    change execQwf q a s = _
    simp only [execQwf, runFree_plain plain, qwfBody_register (streamOf_plain plain (List.mem_singleton.mpr rfl)) free room,
      bind, Except.bind, me_setThread_cur, finish_setThread_cur]
    rfl
  case qrg =>
    change execQrg q d s = _
    simp only [execQrg, qPop_cons free held, bind, Except.bind, State.finishG, me_setThread_cur, finish_setThread_cur]
    rfl
  case qrf =>
    change execQrf q d s = _
    simp only [execQrf, runFree_plain plain, qrfBody_register (streamOf_plain plain (List.mem_singleton.mpr rfl)) free held,
      bind, Except.bind, me_setThread_cur, finish_setThread_cur]
    rfl
  case qwgFull => exact run_park_queue (by decide) (by simp only [qPush_full _ full, bind, Except.bind])
  case qwfFull =>
    exact run_park_queue (by decide) (by simp only [runFree_plain plain,
      qwfBody_full (streamOf_plain plain (List.mem_singleton.mpr rfl)) full, bind, Except.bind])
  case qrgEmpty => exact run_park_queue (by decide) (by simp only [qPop_nil empty, bind, Except.bind])
  case qrfEmpty => exact run_park_queue (by decide) (by simp only [runFree_plain plain, qrfBody_empty empty, bind, Except.bind])

end Sys2Proof.Laws
end

section
/-! PROOFS. The segment check (R193), and accesses to the own scratchpad through W0 that nothing makes wait (R65, R196). -/

namespace Sys2Proof.Laws

open Sys2Proof Sys2Proof.Machine

theorem keyOf_coreOf_slotOf (key : Nat) : keyOf (coreOf key) (slotOf key) = key := Nat.div_add_mod' key 8

@[simp] theorem keyOf_myCore (s : State) : keyOf s.myCore (slotOf s.cur) = s.cur := keyOf_coreOf_slotOf s.cur

/-! ## The segment check (R193) -/

theorem toNat_extract_segment (ea : W64) : (ea.extractLsb' 61 3).toNat = ea.toNat / 2 ^ 61 := by
  rw [BitVec.extractLsb'_toNat, Nat.shiftRight_eq_div_pow]
  exact Nat.mod_eq_of_lt (by have := ea.isLt; omega)

theorem toNat_extract_offset (ea : W64) : (ea.extractLsb' 0 61).toNat = ea.toNat % 2 ^ 61 := BitVec.extractLsb'_toNat ..

theorem seg_kind (g : Seg) : g.kind = g.attr.toNat / 256 := by
  rw [Seg.kind, BitVec.extractLsb'_toNat, Nat.shiftRight_eq_div_pow]
  exact Nat.mod_eq_of_lt (by have := g.attr.isLt; omega)

section
variable {t : Thread} {ea : W64} {n right kind o : Nat}

theorem segCheck_of_segOk (ok : Claims.SegOk t ea n right kind o) : segCheck t ea n right = .ok (kind, o) := by
  obtain ⟨isKind, inUse, allowed, inSegment, rfl, inSpace⟩ := ok
  simp only [segCheck, toNat_extract_segment, toNat_extract_offset, seg_kind, isKind, allowed]
  rw [if_neg (by simp; omega), if_neg (by omega), if_neg (by omega)]

theorem segCheck_of_segBad (bad : Claims.SegBad t ea n right) : segCheck t ea n right = .error (.trap SEGV ea) := by
  have kinds : (t.seg (ea.toNat / 2 ^ 61)).attr.toNat / 256 < 8 := by have := (t.seg (ea.toNat / 2 ^ 61)).attr.isLt; omega
  simp only [segCheck, toNat_extract_segment, toNat_extract_offset, seg_kind]
  split_ifs with unused beyond outside
  · rfl
  · rfl
  · rfl
  · simp only [not_or] at unused
    rcases bad with free | refused | long | far
    · omega
    · exact absurd refused unused.2.2
    · exact absurd long beyond
    · exact absurd far outside

end

/-! ## The own scratchpad -/

section
variable {s : State} {o n : Nat}

theorem lockedByte_unlocked (unlocked : Claims.Unlocked s o n) : lockedByte (s.arch s.myCore) (slotOf s.cur) o n = none := by
  refine List.find?_eq_none.mpr fun byte inRange => ?_
  simp only [List.mem_map, List.mem_range] at inRange
  obtain ⟨i, bound, rfl⟩ := inRange
  simp only [List.any_eq_true, Bool.and_eq_true, bne_iff_ne, decide_eq_true_eq, not_exists, not_and]
  intro l held ⟨other, low⟩
  have := unlocked l held other
  omega

theorem resolve_own {ea : W64} (k : AccessKind) (inside : o + n ≤ 0x100000) (unlocked : Claims.Unlocked s o n)
    (free : acquirePending s s.cur = false) : resolve s s.cur ea n k 2 o = .ok (s, .spad s.myCore o) := by
  have window : o / 0x400000 = 0 := by omega
  have view : o % 0x400000 = o := by omega
  have waits : lockWait s s.cur 0 o n (s.thread s.cur).wscb ea = .ok () := by
    rw [lockWait]
    split
    · rfl
    · simp only [winRanges, if_pos, List.findSome?_cons, List.findSome?_nil, ← State.myCore.eq_1, lockedByte_unlocked unlocked]
  have checks : winCheck k 0 o n (s.thread s.cur).wscb ea = .ok () := by
    rw [winCheck, if_pos rfl, need, if_pos (by simpa using inside)]
  simp only [resolve, free, window, view, checks, waits, bind, Except.bind, pure, Except.pure]
  rfl

theorem acquirePending_noStores (none : Claims.NoStores s) : acquirePending s s.cur = false := by
  obtain ⟨queue, comparator⟩ := none
  rw [acquirePending, ← State.myCore.eq_1, ← State.me.eq_1, queue, comparator]
  rfl

theorem bytesNow_own (none : Claims.NoStores s) (positive : 0 < n) :
    bytesNow s s.cur (.spad s.myCore o) n = .ok (s, spadBytes s.mem s.myCore o n, spadPoisoned s.mem s.myCore o n) := by
  obtain ⟨queue, comparator⟩ := none
  have pending : ownPending s s.cur (.spad s.myCore o) n = [] := by
    rw [ownPending, ← State.myCore.eq_1, ← State.me.eq_1, queue, comparator]
    rfl
  have partly : allTaken (takenBytes []) (Place.spad s.myCore o).addr n = false := by
    obtain ⟨m, rfl⟩ := Nat.exists_eq_succ_of_ne_zero positive.ne'
    simp [allTaken, List.range_succ_eq_map, takenBytes]
  simp only [bytesNow, pending, Place.own, ← State.myCore.eq_1, beq_self_eq_true, ownLoad, List.filter_nil, partly]
  rfl

end

end Sys2Proof.Laws
end

section
/-! PROOFS. SEQ, and the entries of a run at issue and at completion (R136, R149-R151, R154). -/

namespace Sys2Proof.Laws

open Sys2Proof Sys2Proof.Machine

/-! ## Operations that a run's entries and the integer stream share (R149) -/

/-- What every word with an operation of packs is: its instruction runs that operation, which makes one pack, and what it makes
does not depend on the run. -/
structure MakesPacks (i : Instr) (o : FOp) : Prop where
  runs : ∀ s, exec i s = run i s (fBody o s)
  packs : ∀ t c ps, ∃ d v flags sub, o.comp t c ps = { f := some (d, v), flags := flags, sub := sub }
  anyRun : ∀ (t : Thread) r c ps, o.comp { t with run := r } c ps = o.comp t c ps

theorem makesPacks_of_fOpOf {i : Instr} {o : FOp} (operation : fOpOf i = some o) : MakesPacks i o := by
  unfold fOpOf at operation
  split at operation
  all_goals cases operation
  all_goals exact ⟨fun _ => rfl, fun _ _ _ => ⟨_, _, _, _, rfl⟩, fun _ _ _ _ => rfl⟩

theorem streamOf_off {t : Thread} (off : Claims.StreamsOff t) (r : Reg) : t.streamOf r = none :=
  if_neg fun ⟨_, on⟩ => on (off _ (by have := r.isLt; omega))

theorem plain_off {s : State} (off : Claims.StreamsOff s.me) (idle : s.me.run = none) (rs : List Reg) : Claims.Plain s rs :=
  ⟨idle, fun r _ => (lt_or_ge r.toNat 24).imp_right fun _ => off _ (by have := r.isLt; omega)⟩

theorem fApply_pack {o : FOp} {s : State} {d : Reg} {v : W128} {flags : FlagBits} {sub : Bool} (off : Claims.StreamsOff s.me)
    (makes : o.comp s.me (s.arch s.myCore) (o.srcs.map s.me.rf) = { f := some (d, v), flags := flags, sub := sub }) :
    fApply o s s.cur =
      .ok (s.setThread s.cur { s.me.wf d v with fcsr := s.me.fcsr ||| BitVec.ofNat 16 (flags % 128) }, sub) := by
  have stays : stepStreams (s.setThread s.cur (s.me.wf d v)) s.cur o.srcs = s.setThread s.cur (s.me.wf d v) :=
    stepStreams_registers fun r _ => by rw [thread_setThread_same]; exact streamOf_off (t := s.me.wf d v) off r
  simp only [fApply, readFs_registers (key := s.cur) fun r _ => streamOf_off off r, bind, Except.bind, ← State.me.eq_1,
    ← State.myCore.eq_1, makes, writeF_register (key := s.cur) (streamOf_off off d), stays, thread_setThread_same,
    setThread_setThread, orFlags_eq, wf_fcsr, pure, Except.pure]

/-! ## A subnormal that is served (R127) -/

section
variable (s : State) (key : Nat) (sub : Bool)

theorem thread_noteSub : (noteSub s key sub).thread key =
    { s.thread key with forfeit := if sub then 6 else (s.thread key).forfeit } := by
  cases sub
  · rfl
  · exact thread_setThread_same ..

@[simp] theorem noteSub_mem : (noteSub s key sub).mem = s.mem := by cases sub <;> rfl
@[simp] theorem noteSub_cur : (noteSub s key sub).cur = s.cur := by cases sub <;> rfl
@[simp] theorem core_noteSub (c : Nat) : (noteSub s key sub).core c = s.core c := by cases sub <;> rfl

end

/-! ## An entry at issue (R136, R149) -/

/-- The run once its next entry has issued, to complete at `done`. -/
def issuedRun (r : Run) (done : Nat) : Run := { r.advance with flight := r.flight ++ [(done, Claims.entryWord r)], stall := none }

section
variable (r : Run) (done : Nat)

theorem issuedRun_parts : ((issuedRun r done).words, (issuedRun r done).count, (issuedRun r done).flight) =
    (r.words, r.count, r.flight ++ [(done, Claims.entryWord r)]) := by
  unfold issuedRun Run.advance
  split <;> rfl

theorem issuedRun_place : ((issuedRun r done).entry, (issuedRun r done).iter) = Claims.placeAfter r := by
  unfold issuedRun Run.advance Claims.placeAfter
  split <;> rfl

end

/-- The thread whose run's entry has made a pack. -/
def entryThread (s : State) (r : Run) (d : Reg) (v : W128) (flags : FlagBits) (sub : Bool) (lat : Nat) : Thread :=
  { s.me.wf d v with
    fcsr := s.me.fcsr ||| BitVec.ofNat 16 (flags % 128), run := some (issuedRun r (s.cyc s.myCore + lat)),
    forfeit := if sub then 6 else s.me.forfeit }

theorem entryRun_operation {s : State} {r : Run} {i : Instr} {o : FOp} (decodes : decodeWord (Claims.entryWord r) 0 0 0 0 = .ok i)
    (operation : fOpOf i = some o) : entryRun s s.cur r = (fApply o s s.cur).map fun x =>
      noteSub (setRun x.1 s.cur (some (issuedRun r (s.cyc s.myCore + o.lat)))) s.cur x.2 := by
  rw [entryRun, decodes]
  unfold fOpOf at operation
  split at operation
  all_goals cases operation
  all_goals
    simp only [sfuOf, fOpOf, bind, Except.bind]
    cases fApply _ s s.cur <;> rfl

theorem seqEntryIssue_pack {s : State} {r : Run} {i : Instr} {o : FOp} (ready : runReady s s.cur = some r)
    {x : Nat} (pipe : pipeCycle s s.myCore = some x) (turn : entryTurn s s.myCore (slotOf s.cur) = true)
    (decodes : decodeWord (Claims.entryWord r) 0 0 0 0 = .ok i) (operation : fOpOf i = some o) (off : Claims.StreamsOff s.me)
    {d : Reg} {v : W128} {flags : FlagBits} {sub : Bool}
    (makes : o.comp s.me (s.arch s.myCore) (o.srcs.map s.me.rf) = { f := some (d, v), flags := flags, sub := sub }) :
    ∃ u, exec (.seqEntryIssue s.myCore (slotOf s.cur)) s = .next u ∧ u.me = entryThread s r d v flags sub o.lat ∧
      u.mem = s.mem ∧ (u.core s.myCore).pipeAt = some x := by
  have issued : ∃ t, entryRun s s.cur r = .ok t ∧ t.cur = s.cur ∧ t.me = entryThread s r d v flags sub o.lat ∧ t.mem = s.mem := by
    rw [entryRun_operation decodes operation, fApply_pack off makes]
    refine ⟨_, rfl, noteSub_cur .., ?_, noteSub_mem ..⟩
    rw [State.me, noteSub_cur]
    refine (thread_noteSub ..).trans ?_
    simp only [setRun, thread_setThread_same]
    rfl
  obtain ⟨t, ran, cur, me, mem⟩ := issued
  refine ⟨t.setCore s.myCore { t.core s.myCore with pipeAt := some x, seqLast := slotOf s.cur }, ?_, me, mem, ?_⟩
  · change execSeqEntryIssue s.myCore (slotOf s.cur) s = _
    simp only [execSeqEntryIssue, keyOf_myCore, ready, ran, pipe, turn]
    rfl
  · rw [core_setCore_same]

/-! ## Which entry the pipe takes (R136, R149) -/

theorem runReady_takesEntry {s : State} {r : Run} (takes : Claims.TakesEntry s r) : runReady s s.cur = some r := by
  obtain ⟨run, left, ⟨flight, after, sfu, held⟩, ⟨state, forfeit, killed⟩, ⟨context, migrating, relock⟩, -, -⟩ := takes
  have free : entryFree s.me r = true := by
    unfold entryFree
    split
    · rfl
    · rw [flight]; rfl
  rw [runReady, ← State.me.eq_1, run]
  simp only [left, free, sfu, held, forfeit, killed, ← State.myCore.eq_1, context, migrating, relock, after]
  rcases state with ready | parked
  · simp [ready]
  · simp [parked]

theorem pipeCycle_takesEntry {s : State} {r : Run} (takes : Claims.TakesEntry s r) : pipeCycle s s.myCore = some (s.cyc s.myCore) := by
  obtain ⟨unused, waits⟩ := takes.pipe
  simp [pipeCycle, unused, waits]

theorem entryTurn_takesEntry {s : State} {r : Run} (takes : Claims.TakesEntry s r) :
    entryTurn s s.myCore (slotOf s.cur) = true := by
  refine List.all_eq_true.mpr fun j before => ?_
  have other : j ≠ slotOf s.cur := by
    have := List.mem_takeWhile_imp before
    simpa using this
  have slot : j < 8 := by
    obtain ⟨k, -, rfl⟩ := List.mem_map.mp ((List.takeWhile_prefix _).subset before)
    exact Nat.mod_lt _ (by decide)
  have none : runReady s (keyOf s.myCore j) = none := by rw [runReady, takes.others j slot other]
  rw [none]

theorem runEntriesIssue : Claims.RunEntriesIssue := by
  intro s r i o takes off decodes operation core x
  obtain ⟨d, v, flags, sub, makes⟩ := (makesPacks_of_fOpOf operation).packs s.me (s.arch s.myCore) (o.srcs.map s.me.rf)
  obtain ⟨u, issues, me, mem, pipe⟩ := seqEntryIssue_pack (runReady_takesEntry takes) (pipeCycle_takesEntry takes)
    (entryTurn_takesEntry takes) decodes operation off makes
  have made : x = { f := some (d, v), flags := flags, sub := sub } := makes
  refine ⟨u, d, v, issues, by rw [made], by rw [me]; rfl, by rw [me, made]; rfl, ?forfeit, by rw [me]; rfl, by rw [me]; rfl,
    by rw [me]; rfl, mem, pipe, ?flight, ?place⟩
  case forfeit =>
    obtain ⟨-, forfeit, -⟩ := takes.thread
    rw [me, made]
    exact congrArg (ite _ 6) forfeit
  case flight =>
    obtain ⟨flight, -, -, -⟩ := takes.alone
    rw [me]
    exact congrArg some ((issuedRun_parts r _).trans (by rw [flight]; rfl))
  case place =>
    rw [me]
    exact congrArg some (issuedRun_place r _)

/-! ## Entries and the words of the integer stream (R149) -/

theorem me_of_fEnd {s t : State} {d : Reg} {v : W128} {flags : FlagBits} {lat : Nat} {sub : Bool}
    (ends : Claims.fEnd s d v flags lat sub = .next t) :
    t.me = { ({ s.me.wf d v with fcsr := s.me.fcsr ||| BitVec.ofNat 16 (flags % 128) } : Thread).adv (s.doneAt lat) with
      forfeit := if sub then 6 else s.me.forfeit } := by
  obtain rfl := Host.Outcome.next.inj ends
  rw [State.me, noteSub_cur]
  refine (thread_noteSub ..).trans ?_
  rw [show (s.finish _ lat).thread s.cur = _ from me_finish ..]
  rfl

theorem normBusy_eq_false {s : State} (idle : ∀ x ∈ (s.cluster (clusterOf s.myCore)).normq, x.2 ≠ s.cur) : normBusy s s.cur = false :=
  List.any_eq_false.mpr fun x queued => by simpa using idle x queued

theorem settleRun_left {s : State} {key : Nat} {r : Run} (left : r.iter < r.count) : settleRun s key r = setRun s key (some r) :=
  if_neg fun ended => absurd ended.1 left.not_ge

theorem settleRun_ended {s : State} {key : Nat} {r : Run} (ended : r.count ≤ r.iter) (empty : r.flight = []) :
    settleRun s key r =
      s.setThread key { s.thread key with run := none, seqRes := (s.thread key).seqRes - r.words.length } :=
  if_pos ⟨ended, empty⟩

theorem runEntriesActAsTheirWords : Claims.RunEntriesActAsTheirWords := by
  intro s t r i o core slot
  refine ⟨fun ready pipe turn decodes operation off executes busy pc => ?issue, fun done w run flight due normq => ?complete⟩
  case issue =>
    obtain ⟨x, pipe⟩ := Option.isSome_iff_exists.mp pipe
    obtain ⟨runs, packs, anyRun⟩ := makesPacks_of_fOpOf operation
    obtain ⟨d, v, flags, sub, makes⟩ := packs s.me (s.arch s.myCore) (o.srcs.map s.me.rf)
    obtain ⟨u, issues, me, -, -⟩ := seqEntryIssue_pack ready pipe turn decodes operation off makes
    have stream : (s.setMe { s.me with run := none }).me = { s.me with run := none } := me_setMe ..
    have ends := run_fBody_pack (o := o) (s := s.setMe { s.me with run := none }) i (d := d) (v := v) (fl := flags) (sub := sub)
      (plain_off (by rw [stream]; exact off) (by rw [stream]) _)
      (by rw [stream, anyRun]; exact makes)
    have word := me_of_fEnd ((runs _).symm.trans executes |> ends.symm.trans)
    rw [stream] at word
    exact ⟨u, issues, by rw [me, word]; rfl, by rw [me, word]; rfl, by rw [me]; rfl, by rw [me, word]; rfl,
      ⟨s.cyc core + o.lat, by rw [word]; rfl, by rw [me]; rfl⟩, by rw [me]; rfl⟩
  case complete =>
    have completes : ([(done, w)].any fun x => decide (x.1 ≤ s.cyc core)) = true := by simpa using due
    have settles : exec (.seqEntryComplete core slot) s = .next (settleRun s s.cur { r with flight := [] }) := by
      change execSeqEntryComplete s.myCore (slotOf s.cur) s = _
      simp only [execSeqEntryComplete, keyOf_myCore, ← State.me.eq_1, run, flight, normBusy_eq_false normq]
      simp [List.findIdx?_cons, due, removeAt, core]
    refine ⟨_, settles, ?_⟩
    rcases lt_or_ge r.iter r.count with left | ended
    · rw [settleRun_left (r := { r with flight := [] }) left, setRun, me_setThread_cur, if_pos left]
      exact ⟨rfl, rfl⟩
    · rw [settleRun_ended (r := { r with flight := [] }) ended rfl, me_setThread_cur, if_neg ended.not_gt]
      exact ⟨rfl, rfl⟩

/-! ## SEQ (R150, R154) -/

theorem checkRun_words {ws : List W32} (words : ∀ w ∈ ws, ∃ i, decodeWord w 0 0 0 0 = .ok i ∧ runWord i = true) (pc : W64) :
    checkRun ws pc = .ok () := by
  induction ws generalizing pc with
  | nil => rfl
  | cons w ws ih =>
    obtain ⟨⟨i, decodes, held⟩, rest⟩ := List.forall_mem_cons.mp words
    have checked : checkRunWord w pc = .ok () := by rw [checkRunWord, decodes]; exact if_pos held
    simp only [checkRun, checked, bind, Except.bind]
    exact ih rest _

theorem seqHandsARunToTheSequencer : Claims.SeqHandsARunToTheSequencer := by
  intro s a n ws idle
  dsimp only
  have free : runFree s = .ok () := by rw [runFree, idle]; rfl
  refine ⟨fun small twl twt fetched words => ?runs, fun excess leads => ?traps⟩
  case runs =>
    have checked := checkRun_words (List.forall_mem_iff_forall_getElem.mpr words) (s.me.pc + 4)
    have counted : need (decide ((s.me.rg a).toNat < 2 ^ 32)) STREAM (s.me.rg a) = .ok () := if_pos (decide_eq_true small)
    have alone : need (!(s.me.twl || s.me.twt) || decide (n.toNat + 1 ≤ 8)) STREAM (s.me.rg a) = .ok () := by rw [twl, twt]; rfl
    have entries : reserveEntries s (n.toNat + 1) = s := by rw [reserveEntries, twl]; rfl
    refine ⟨fun skips => ?_, fun repeats room => ?_⟩
    · change execSeq a n s = _
      simp only [execSeq, free, bind, Except.bind, counted, alone, fetched, checked]
      rw [if_pos skips]
      rfl
    · have fits : ¬((!s.me.twt) = true ∧ 16 < entriesUsed s s.myCore + if s.me.twl = true then 2 * (n.toNat + 1) else n.toNat + 1) := by
        rw [twl]
        exact fun full => absurd full.2 room.not_gt
      change execSeq a n s = _
      simp only [execSeq, free, bind, Except.bind, counted, alone, fetched, checked, entries]
      rw [if_neg repeats, if_neg fits]
      rfl
  case traps =>
    change execSeq a n s = _
    rw [← run_trap (.seq a n) STREAM leads]
    by_cases small : (s.me.rg a).toNat < 2 ^ 32
    case neg =>
      have refused : need (decide ((s.me.rg a).toNat < 2 ^ 32)) STREAM (s.me.rg a) = .error (.trap STREAM (s.me.rg a)) :=
        if_neg (by simpa using small)
      simp only [execSeq, free, bind, Except.bind, refused]
    case pos =>
      obtain ⟨twl, long⟩ := excess.resolve_left small.not_ge
      have counted : need (decide ((s.me.rg a).toNat < 2 ^ 32)) STREAM (s.me.rg a) = .ok () := if_pos (decide_eq_true small)
      have refused : need (!(s.me.twl || s.me.twt) || decide (n.toNat + 1 ≤ 8)) STREAM (s.me.rg a) = .error (.trap STREAM (s.me.rg a)) :=
        if_neg (by rw [twl]; simpa using long)
      simp only [execSeq, free, bind, Except.bind, counted, refused]

/-- Settles O18: the pipe's step on an entry and the instruction's body both end with the operation's pack and flags. -/
theorem runsActAsTheirWords : Obligations.RunsActAsTheirWords :=
  ⟨seqHandsARunToTheSequencer, runEntriesIssue, runEntriesActAsTheirWords⟩

end Sys2Proof.Laws
end

section
/-! PROOFS. Stream control (R142, R143, R146, R147). -/

namespace Sys2Proof.Laws

open Sys2Proof Sys2Proof.Machine

theorem runFree_idle {s : State} (idle : s.me.run = none) : runFree s = .ok () := by
  rw [runFree, idle]
  rfl

/-! ## The number of packs (R140) -/

theorem total_eq_packCount (x : Stream) : x.total = Claims.packCount x x.levels := List.foldl_map.symm

/-! ## Configuration (R142) -/

section
variable {s : State} {n : BitVec 3}

theorem run_configBody_off (i : Instr) (idle : s.me.run = none) (off : (s.me.stream n.toNat).state = .off) (f : Stream → Stream) :
    run i s (configBody n f s) = .next (s.finish (s.me.setStream n.toNat (f (s.me.stream n.toNat))) 6) := by
  have allowed : need (decide ((s.me.stream n.toNat).state = .off)) STREAM (n.setWidth 64) = .ok () := if_pos (decide_eq_true off)
  simp only [configBody, runFree_idle idle, allowed, bind, Except.bind]
  rfl

theorem run_configBody_on (i : Instr) (idle : s.me.run = none) (on : (s.me.stream n.toNat).state ≠ .off)
    (alone : twinLag s s.cur = false) (f : Stream → Stream) :
    run i s (configBody n f s) = .next (trapMe s STREAM (BitVec.ofNat 64 n.toNat)) := by
  have refused : need (decide ((s.me.stream n.toNat).state = .off)) STREAM (n.setWidth 64) =
      .error (.trap STREAM (n.setWidth 64)) := if_neg (by simpa using on)
  rw [← run_trap i STREAM alone, BitVec.ofNat_toNat]
  simp only [configBody, runFree_idle idle, refused, bind, Except.bind]

end

/-! ## SEN (R143) -/

theorem toNat_extract_levels (v : W64) : (v.extractLsb' 1 2).toNat = v.toNat / 2 % 4 := by
  rw [BitVec.extractLsb'_toNat, Nat.shiftRight_eq_div_pow]

theorem senValid_iff (x : Stream) (v : W64) :
    let levels := v.toNat / 2 % 4 + 1
    senValid x v = true ↔ v.toNat < 8 ∧ x.base.toNat % 16 = 0 ∧
      (∀ k < levels, (tget 0 x.stride k).toNat % 16 = 0 ∧ tget 0 x.bound k ≠ 0) ∧ Claims.packCount x levels < 2 ^ 32 := by
  have high : v.extractLsb' 3 61 = 0 ↔ v.toNat < 8 := by
    rw [← BitVec.toNat_inj, BitVec.extractLsb'_toNat, Nat.shiftRight_eq_div_pow]
    have := v.isLt
    simp only [BitVec.ofNat_eq_ofNat, BitVec.toNat_ofNat]
    omega
  have low : x.base.extractLsb' 0 4 = 0 ↔ x.base.toNat % 16 = 0 := by
    rw [← BitVec.toNat_inj, BitVec.extractLsb'_toNat]
    rfl
  simp only [senValid, total_eq_packCount, toNat_extract_levels, Bool.and_eq_true, beq_iff_eq, high, low, List.all_eq_true, List.mem_range, bne_iff_ne,
    decide_eq_true_eq, and_assoc]
  rfl

/-! ## The status word (R147) -/

/-- The cause that SSTAT shows: that of the pack at an ACTIVE stream's position. -/
def shownCause (x : Stream) : Byte :=
  if x.state = .active then ((x.packs.find? (fun p => p.idx == x.pos)).map (·.cause)).getD 0 else 0

/-- The code of a stream's state. -/
def streamCode (x : Stream) : BitVec 3 :=
  match x.state with
  | .off => 0
  | .active => 1
  | .done => 2

theorem sstatWord_fields (x : Stream) :
    let w := (sstatWord x).toNat
    w / 2 ^ 32 = (if x.state = .off then 0 else (x.total - x.pos) % 2 ^ 32) ∧ w / 2 ^ 16 % 2 ^ 16 = 0 ∧
      w / 2 ^ 8 % 2 ^ 8 = (shownCause x).toNat ∧
      w / 2 ^ 6 % 4 = 0 ∧ w / 16 % 4 = (x.levels - 1) % 4 ∧ w / 8 % 2 = (if x.write then 1 else 0) ∧
      w % 8 = (streamCode x).toNat := by
  have word : (sstatWord x).toNat = (((((((if x.state = .off then 0 else x.total - x.pos) % 2 ^ 32) * 2 ^ 16) * 2 ^ 8 +
      (shownCause x).toNat) * 2 ^ 2 * 2 ^ 2 + (x.levels - 1) % 2 ^ 2) * 2 + (if x.write then 1 else 0)) * 2 ^ 3 +
      (streamCode x).toNat) := by
    have bit : (BitVec.ofBool x.write).toNat = if x.write then 1 else 0 := by cases x.write <;> rfl
    simp only [sstatWord, toNat_append_eq, BitVec.toNat_ofNat, Nat.zero_mod, Nat.add_zero, bit]
    rfl
  have cause := (shownCause x).isLt
  have code := (streamCode x).isLt
  have dir : (if x.write then 1 else 0) < 2 := by split <;> decide
  have left : (if x.state = .off then 0 else (x.total - x.pos) % 2 ^ 32) = (if x.state = .off then 0 else x.total - x.pos) % 2 ^ 32 := by
    split <;> rfl
  rw [left]
  simp only [word]
  omega

theorem streamControl : Claims.StreamControl := by
  intro s n l a d idle x v levels valid set
  have free := runFree_idle idle
  have config (i : Instr) (f : Stream → Stream) (runs : exec i s = run i s (configBody n f s)) : set i (f x) :=
    ⟨fun off => runs.trans (run_configBody_off i idle off f), fun on alone => runs.trans (run_configBody_on i idle on alone f)⟩
  refine ⟨?sbound, config (.sstride n l a) (fun x => { x with stride := tput x.stride l.toNat v }) rfl,
    config (.sbase n a) (fun x => { x with base := v }) rfl, fun off ok => ?senOk, fun off bad => ?senBad, fun on => ?senOn,
    fun off => ⟨?sdisOff, ?sdrainOff⟩, fun read => ?sdrainRead, fun on accepted => ⟨?sdis, fun write => ?sdrain⟩, ?sstat⟩
  case sbound =>
    rw [BitVec.ofNat_toNat]
    exact config (.sbound n l a) (fun x => { x with bound := tput x.bound l.toNat (v.setWidth 32) }) rfl
  case senOk =>
    change execSen n a d s = _
    simp only [execSen, free, bind, Except.bind]
    rw [if_neg (not_not.mpr off), if_pos ((senValid_iff x v).mpr ok), toNat_extract_levels]
    rfl
  case senBad =>
    change execSen n a d s = _
    simp only [execSen, free, bind, Except.bind]
    rw [if_neg (not_not.mpr off), if_neg (mt (senValid_iff x v).mp bad)]
    rfl
  case senOn =>
    change execSen n a d s = _
    simp only [execSen, free, bind, Except.bind]
    rw [if_pos on]
    rfl
  case sdisOff =>
    change execSdis n s = _
    simp only [execSdis, free, bind, Except.bind]
    rw [if_pos off]
    rfl
  case sdrainOff =>
    change execSdrain n d s = _
    simp only [execSdrain, free, bind, Except.bind]
    rw [if_pos (.inl off)]
    rfl
  case sdrainRead =>
    change execSdrain n d s = _
    simp only [execSdrain, free, bind, Except.bind]
    rw [if_pos (.inr (by simpa using read))]
    rfl
  case sdis =>
    change execSdis n s = _
    simp only [execSdis, free, bind, Except.bind]
    rw [if_neg on, if_neg (by simp [accepted])]
    rfl
  case sdrain =>
    change execSdrain n d s = _
    have writes : ¬(x.state = .off ∨ (!x.write) = true) := by simp [on, write]
    simp only [execSdrain, free, bind, Except.bind]
    rw [if_neg writes, if_neg (by simp [accepted])]
    rfl
  case sstat =>
    obtain ⟨remaining, zeros, cause, low, level, dir, state⟩ := sstatWord_fields x
    have ran : exec (.sstat n d) s = Claims.regEnd s d (sstatWord x) 6 := by
      change execSstat n d s = _
      simp only [execSstat, free, bind, Except.bind]
      rfl
    refine ⟨_, ran, remaining, zeros, low, level, dir, ?_, fun p active found => ?_⟩
    · rw [state, streamCode]
      cases x.state <;> rfl
    · rw [cause, shownCause, if_pos active, found]
      rfl

end Sys2Proof.Laws
end

section
/-! PROOFS. Streams as operands, and their prefetch (R140-R145). -/

namespace Sys2Proof.Laws

open Sys2Proof Sys2Proof.Machine

/-! ## The address of a pack (R140) -/

theorem packCount_succ (x : Stream) (l : Nat) : Claims.packCount x (l + 1) = Claims.packCount x l * (tget 0 x.bound l).toNat := by
  rw [Claims.packCount, List.range_succ, List.map_append, List.foldl_append]
  rfl

theorem offset_eq_packOffset (x : Stream) (i : Nat) : x.offset i = Claims.packOffset x i := by
  have walk (levels : Nat) : (List.range levels).foldl (fun (r : Int × Nat) l =>
      (r.1 + ((r.2 % (tget 0 x.bound l).toNat : Nat) : Int) * (tget 0 x.stride l).toInt, r.2 / (tget 0 x.bound l).toNat))
        (((x.base.extractLsb' 0 61).toNat : Int), i) =
      ((x.base.toNat % 2 ^ 61 : Nat) + ((List.range levels).map (fun l =>
        ((i / Claims.packCount x l % (tget 0 x.bound l).toNat : Nat) : Int) * (tget 0 x.stride l).toInt)).sum,
        i / Claims.packCount x levels) := by
    induction levels with
    | zero =>
      rw [toNat_extract_offset]
      simp [Claims.packCount]
    | succ levels ih =>
      rw [List.range_succ, List.foldl_append, ih, List.map_append, List.sum_append, packCount_succ, ← Nat.div_div_eq_div_mul]
      simp only [List.foldl_cons, List.foldl_nil, List.map_cons, List.map_nil, List.sum_singleton, add_assoc]
  exact congrArg Prod.fst (walk x.levels)

theorem addr_inRange {x : Stream} {i : Nat} {ea : W64} (low : 0 ≤ Claims.packOffset x i) (high : Claims.packOffset x i < 2 ^ 61)
    (at_ : ea = BitVec.ofNat 64 (x.base.toNat / 2 ^ 61 * 2 ^ 61 + (Claims.packOffset x i).toNat)) : x.addr i = (ea, true) := by
  obtain ⟨o, offset⟩ := Int.eq_ofNat_of_zero_le low
  rw [offset] at high at_
  rw [Stream.addr, offset_eq_packOffset, offset, decide_eq_true ⟨Int.natCast_nonneg o, high⟩, at_]
  refine congrArg (·, true) (BitVec.eq_of_toNat_eq ?_)
  have bounded : o < 2 ^ 61 := by exact_mod_cast high
  have base := x.base.isLt
  rw [toNat_append_eq, toNat_extract_segment, BitVec.ofInt_natCast, BitVec.toNat_ofNat, BitVec.toNat_ofNat, Int.toNat_natCast,
    Nat.mod_eq_of_lt bounded, Nat.mod_eq_of_lt (by omega)]

/-! ## The streams of a thread (R139, R141) -/

theorem stream_setStream (t : Thread) (n j : Nat) (x : Stream) : (t.setStream n x).stream j = if n = j then x else t.stream j :=
  tget_tput ..

/-- The f register that names a stream. -/
abbrev streamReg (n : BitVec 3) : Reg := 24 + n.setWidth 5

theorem toNat_streamReg (n : BitVec 3) : (streamReg n).toNat = 24 + n.toNat := by
  have := n.isLt
  rw [BitVec.toNat_add, BitVec.toNat_setWidth]
  simp only [BitVec.ofNat_eq_ofNat, BitVec.toNat_ofNat]
  omega

theorem streamOf_streamReg {t : Thread} {n : BitVec 3} (on : (t.stream n.toNat).state ≠ .off) :
    t.streamOf (streamReg n) = some n.toNat := by
  rw [Thread.streamOf, toNat_streamReg, Nat.add_sub_cancel_left]
  exact if_pos ⟨Nat.le_add_right .., on⟩

/-- The thread whose stream moves to its next pack. -/
def steppedThread (t : Thread) (n : Nat) : Thread := t.setStream n (t.stream n).step

theorem stepStreams_streamReg {s : State} {key : Nat} {n : BitVec 3} (on : ((s.thread key).stream n.toNat).state ≠ .off) :
    stepStreams s key [streamReg n] = s.setThread key (steppedThread (s.thread key) n.toNat) := by
  rw [stepStreams, List.filterMap_cons, streamOf_streamReg on]
  rfl

section
variable {s : State} {key : Nat} {n : BitVec 3}

/-! ## A stream as a source (R144) -/

theorem readF_pack {p : Pack} (active : ((s.thread key).stream n.toNat).state = .active)
    (reads : ((s.thread key).stream n.toNat).write = false) (leads : (s.thread key).twl = false) (follows : (s.thread key).twt = false)
    (found : ((s.thread key).stream n.toNat).packs.find?
      (fun p => p.idx == ((s.thread key).stream n.toNat).pos && p.cause != 0xFF) = some p) (whole : p.cause = 0) :
    readF s key (streamReg n) = .ok (s, p.data) := by
  have on : ((s.thread key).stream n.toNat).state ≠ .off := by rw [active]; decide
  have usable : ¬(((s.thread key).stream n.toNat).state = .done ∨ ((s.thread key).stream n.toNat).write = true) := by
    simp [active, reads]
  rw [readF, streamOf_streamReg on]
  simp only [if_neg usable, follows, found, whole, twinPack, leads]
  rfl

theorem readF_unreadable (bad : ((s.thread key).stream n.toNat).state = .done ∨
      (((s.thread key).stream n.toNat).state = .active ∧ ((s.thread key).stream n.toNat).write = true)) :
    readF s key (streamReg n) = .error (.trap STREAM (BitVec.ofNat 64 n.toNat)) := by
  have on : ((s.thread key).stream n.toNat).state ≠ .off := by rcases bad with done | ⟨active, -⟩ <;> simp_all
  rw [readF, streamOf_streamReg on]
  exact if_pos (bad.imp_right And.right)

/-! ## A stream as the destination (R144) -/

theorem writeF_unwritable (v : W128) (bad : ((s.thread key).stream n.toNat).state = .done ∨
      (((s.thread key).stream n.toNat).state = .active ∧ ((s.thread key).stream n.toNat).write = false)) :
    writeF s key (streamReg n) v = .error (.trap STREAM (BitVec.ofNat 64 n.toNat)) := by
  have on : ((s.thread key).stream n.toNat).state ≠ .off := by rcases bad with done | ⟨active, -⟩ <;> simp_all
  rw [writeF, streamOf_streamReg on]
  exact if_pos (bad.imp_right fun ⟨_, reads⟩ => by simp [reads])

end

section
variable {s : State} {ea : W64} {o n right : Nat}

theorem accessCheck_own (own : Claims.OwnBytes s ea n right o) : accessCheck s.me ea n right = .ok (2, o) := by
  obtain ⟨aligned, inSegment, -⟩ := own
  have even : need (decide (ea.toNat % n = 0)) ALIGN ea = .ok () := if_pos (decide_eq_true aligned)
  simp only [accessCheck, even, bind, Except.bind, segCheck_of_segOk inSegment]

theorem accessCheck_segBad (aligned : ea.toNat % n = 0) (bad : Claims.SegBad s.me ea n right) :
    accessCheck s.me ea n right = .error (.trap SEGV ea) := by
  have even : need (decide (ea.toNat % n = 0)) ALIGN ea = .ok () := if_pos (decide_eq_true aligned)
  simp only [accessCheck, even, bind, Except.bind, segCheck_of_segBad bad]

/-- A store to the own scratchpad enters the queue (R197). -/
theorem storeOrCompare_own {bs : List Byte} {op : StoreOp} {stream : Option Nat} (alone : s.me.twl = false)
    (room : (s.core s.myCore).storeq.length < 16) :
    storeOrCompare s s.cur ea (.spad s.myCore o) bs op stream =
      .ok (Claims.queued s { Claims.ownEntry s ea o bs op with stream := stream }) := by
  rw [storeOrCompare, ← State.me.eq_1, alone]
  exact if_pos room

end

/-- The store-queue entry of a pack that a write stream takes. -/
def packEntry (s : State) (ea : W64) (o k : Nat) (v : W128) : StoreEntry :=
  { Claims.ownEntry s ea o (bytesOfNat 16 v.toNat) .write with stream := some k }

theorem writeF_pack {s : State} {n : BitVec 3} {ea : W64} {o : Nat} (v : W128) (active : (s.me.stream n.toNat).state = .active)
    (writes : (s.me.stream n.toNat).write = true) (leads : s.me.twl = false) (follows : s.me.twt = false)
    (located : (s.me.stream n.toNat).addr (s.me.stream n.toNat).pos = (ea, true)) (own : Claims.OwnBytes s ea 16 rightW o)
    (room : (s.core s.myCore).storeq.length < 16) :
    writeF s s.cur (streamReg n) v = .ok ((Claims.queued s (packEntry s ea o n.toNat v)).setThread s.cur (steppedThread s.me n.toNat)) := by
  have on : (s.me.stream n.toNat).state ≠ .off := by rw [active]; decide
  have usable : ¬((s.me.stream n.toNat).state = .done ∨ (!(s.me.stream n.toNat).write) = true) := by simp [active, writes]
  obtain ⟨-, -, inside, unlocked, free⟩ := id own
  rw [writeF, ← State.me.eq_1, streamOf_streamReg on]
  simp only [if_neg usable, located, need, bind, Except.bind, accessCheck_own own, follows,
    resolve_own .store inside unlocked free, storeOrCompare_own leads room]
  rfl

theorem stream_steppedThread (t : Thread) (k j : Nat) :
    (steppedThread t k).stream j = if k = j then (t.stream k).step else t.stream j := stream_setStream ..

/-- A thread to which the flags of an operation have come. -/
def flaggedThread (t : Thread) (flags : FlagBits) : Thread := { t with fcsr := orFlags t.fcsr flags }

theorem run_fBody_ok {o : FOp} {s u : State} {t : Thread} (i : Instr) (idle : s.me.run = none)
    (applied : fApply o s s.cur = .ok (u.setThread u.cur t, false)) : run i s (fBody o s) = .next (u.finish t o.lat) := by
  simp only [fBody, runFree_idle idle, applied, bind, Except.bind, me_setThread_cur, finish_setThread_cur]
  rfl

theorem streamsFeedOperands : Claims.StreamsFeedOperands := by
  intro s n b a d idle leads follows k x r moved
  have free := runFree_idle idle
  have movesOn {t : State} (streams : t.me.streams = (steppedThread s.me k).streams) (next : t.me.pc = s.me.pc + 4) : moved t := by
    have stream (j : Nat) : t.me.stream j = (steppedThread s.me k).stream j := by rw [Thread.stream, streams]; rfl
    simp only [moved, stream, stream_steppedThread, if_pos, next, true_and]
    exact ⟨rfl, rfl, fun j other => if_neg other.symm⟩
  refine ⟨fun p active reads found whole => ?pack, fun bad alone => ?sourceTraps, fun bad alone => ?targetTraps,
    fun ea o active writes low high at_ own room => ?store⟩
  case pack =>
    have on : (s.me.stream k).state ≠ .off := by rw [active]; decide
    have read : readF s s.cur r = .ok (s, p.data) := readF_pack active reads leads follows found whole
    have stepped : stepStreams s s.cur [r] = _ := stepStreams_streamReg on
    have applied : fApply (opFtog r d) s s.cur = .ok (s.setThread s.cur
        (flaggedThread ((steppedThread s.me k).wg d (p.data.extractLsb' 0 64)) 0), false) := by
      simp only [fApply, opFtog, readFs, read, bind, Except.bind, stepped, thread_setThread_same, setThread_setThread,
        pure, Except.pure]
      rfl
    refine ⟨_, run_fBody_ok (.ftog r d) idle applied, movesOn ?_ ?_, rfl, fun named => ?_⟩
    · rw [me_finish]; exact wg_streams ..
    · rw [me_finish, adv_pc]; exact congrArg (· + 4) (wg_pc ..)
    · rw [me_finish, rg_adv, ← BitVec.setWidth_eq_extractLsb' (by decide), BitVec.ofNat_toNat]; exact rg_wg_same _ _ _ named
  case sourceTraps =>
    rw [← run_trap (.ftog r d) STREAM alone]
    change execFtog r d s = _
    have refused : readF s s.cur r = _ := readF_unreadable bad
    simp only [execFtog, fBody, fApply, opFtog, readFs, free, refused, bind, Except.bind]
    rfl
  case targetTraps =>
    rw [← run_trap (.gtof b a r) STREAM alone]
    change execGtof b a r s = _
    have refused (v : W128) : writeF s s.cur r v = _ := writeF_unwritable v bad
    simp only [execGtof, fBody, fApply, opGtof, readFs, free, refused, bind, Except.bind]
    rfl
  case store =>
    have wrote : writeF s s.cur r (s.me.rg b ++ s.me.rg a) = _ :=
      writeF_pack _ active writes leads follows (addr_inRange low high at_) own room
    have applied : fApply (opGtof b a r) s s.cur = .ok ((Claims.queued s (packEntry s ea o k (s.me.rg b ++ s.me.rg a))).setThread s.cur
        (flaggedThread (steppedThread s.me k) 0), false) := by
      simp only [fApply, opGtof, readFs, pure, Except.pure, bind, Except.bind, ← State.me.eq_1, wrote,
        stepStreams_registers (rs := []) (List.forall_mem_nil _), thread_setThread_same, setThread_setThread]
      rfl
    have halves : (s.me.rg a).toNat + 2 ^ 64 * (s.me.rg b).toNat = (s.me.rg b ++ s.me.rg a).toNat := by
      rw [toNat_append_eq, Nat.add_comm, Nat.mul_comm]
    refine ⟨_, run_fBody_ok (.gtof b a r) idle applied, movesOn ?_ ?_, rfl, ?_⟩
    · rw [me_finish]; rfl
    · rw [me_finish]; rfl
    · rw [halves]; exact congrArg Core.storeq (core_setCore_same ..)

/-! ## Prefetch (R145) -/

/-- The index that a prefetch takes: the first of the four from the position that the stream has and holds no pack of. -/
theorem prefetchIndex_empty {x : Stream} (empty : x.packs = []) (left : x.pos < x.total) :
    ((List.range 4).map (x.pos + ·) |>.find? (fun i => decide (i < x.total) && !x.packs.any (fun p => p.idx == i))) = some x.pos := by
  rw [List.range_succ_eq_map, List.map_cons, List.find?_cons]
  simp [empty, left]

/-- A stream keeps `p`, its first pack. -/
theorem keepPack_first {s : State} {n : Nat} {p : Pack} (empty : (s.me.stream n).packs = []) :
    let t := keepPack s s.cur n p
    (t.me.stream n).packs = [p] ∧ (t.me.stream n).pos = (s.me.stream n).pos ∧ t.mem = s.mem ∧ t.me.state = s.me.state ∧
      t.me.pc = s.me.pc := by
  simp only [keepPack, me_setThread_cur, stream_setStream, if_pos, ← State.me.eq_1, empty, setStream_state, setStream_pc]
  exact ⟨rfl, trivial, rfl, trivial, trivial⟩

theorem natOfBytes_lt (bs : List Byte) : natOfBytes bs < 256 ^ bs.length := by
  induction bs with
  | nil => exact Nat.one_pos
  | cons b bs ih =>
    rw [natOfBytes, List.length_cons, Nat.pow_succ]
    have := b.isLt
    omega

section
variable {s : State} {n : Nat} (running : ctxStopped s s.myCore = false) (stays : (s.core s.myCore).migrating = none)
  (alive : s.me.killed = none) (active : (s.me.stream n).state = .active) (reads : (s.me.stream n).write = false)
  (empty : (s.me.stream n).packs = []) (left : (s.me.stream n).pos < (s.me.stream n).total)
include running stays alive active reads empty left

theorem streamPrefetch_pack {v : W128} (fetched : packFetch s s.cur (s.me.stream n) (s.me.stream n).pos .inside = .ok (s, v)) :
    exec (.streamPrefetch s.myCore (slotOf s.cur) n .inside) s = .next (keepPack s s.cur n
      { idx := (s.me.stream n).pos, data := v, cause := 0, addr := ((s.me.stream n).addr (s.me.stream n).pos).1 }) := by
  change execStreamPrefetch s.myCore (slotOf s.cur) n .inside s = _
  simp only [execStreamPrefetch, keyOf_myCore, ← State.me.eq_1, prefetchIndex_empty empty left, fetched]
  exact if_neg (by simp [active, reads, alive, running, stays])

theorem streamPrefetch_fault {c : Byte} {e : W64}
    (fetched : packFetch s s.cur (s.me.stream n) (s.me.stream n).pos .inside = .error (.trap c e)) :
    exec (.streamPrefetch s.myCore (slotOf s.cur) n .inside) s = .next (keepPack s s.cur n
      { idx := (s.me.stream n).pos, data := 0, cause := c, addr := ((s.me.stream n).addr (s.me.stream n).pos).1 }) := by
  change execStreamPrefetch s.myCore (slotOf s.cur) n .inside s = _
  simp only [execStreamPrefetch, keyOf_myCore, ← State.me.eq_1, prefetchIndex_empty empty left, fetched]
  exact if_neg (by simp [active, reads, alive, running, stays])

end

@[simp] theorem length_mreadN (m : Mem) (a n : Nat) : (mreadN m a n).length = n := by
  induction n generalizing a with
  | zero => rfl
  | succ n ih => rw [mreadN, List.length_cons, ih]

@[simp] theorem length_spadBytes (m : Memory) (core off n : Nat) : (spadBytes m core off n).length = n := length_mreadN ..

theorem prefetchKeepsThePackOrItsFault : Claims.PrefetchKeepsThePackOrItsFault := by
  intro s n ea o x running stays active reads alive empty left low high at_ aligned kept
  have located : x.addr x.pos = (ea, true) := addr_inRange low high at_
  refine ⟨fun own quiet whole => ?pack, fun bad => ?fault⟩
  case pack =>
    obtain ⟨-, -, inside, unlocked, -⟩ := id own
    have fetched : packFetch s s.cur x x.pos .inside = .ok (s, BitVec.ofNat 128 (natOfBytes (spadBytes s.mem s.myCore o 16))) := by
      simp only [packFetch, located, need, bind, Except.bind, ← State.me.eq_1, accessCheck_own own,
        resolve_own .load inside unlocked (acquirePending_noStores quiet), Place.external, bytesNow_own quiet (n := 16) (by decide), whole]
      rfl
    refine ⟨_, _, streamPrefetch_pack running stays alive active reads empty left fetched, keepPack_first empty, rfl, rfl, ?_⟩
    have bounded := natOfBytes_lt (spadBytes s.mem s.myCore o 16)
    rw [length_spadBytes] at bounded
    exact (BitVec.toNat_ofNat ..).trans (Nat.mod_eq_of_lt bounded)
  case fault =>
    have fetched : packFetch s s.cur x x.pos .inside = .error (.trap SEGV ea) := by
      simp only [packFetch, located, need, bind, Except.bind, ← State.me.eq_1, accessCheck_segBad aligned bad]
      rfl
    refine ⟨_, _, streamPrefetch_fault running stays alive active reads empty left fetched, keepPack_first empty, rfl, rfl, ?_⟩
    rw [located]

/-- Settles O16: control by the rules of each instruction; operands and prefetch through the address of the position's pack. -/
theorem streamsFeedAndPrefetchPacks : Obligations.StreamsFeedAndPrefetchPacks :=
  ⟨streamControl, streamsFeedOperands, prefetchKeepsThePackOrItsFault⟩

end Sys2Proof.Laws
end
section
/-! PROOFS. What follows the end of an instruction leaves alone (R54, R67, R71-R73). -/

namespace Sys2Proof.Laws

open Sys2Proof Sys2Proof.Machine

/-! ## A thread that pauses, or goes on (R54) -/

/-- A thread whose state, mark and place beside its predecessor may be others. -/
def haltedThread (t : Thread) (state prior : SlotState) (pse det : Bool) (fwd : List Forwarded) : Thread :=
  { t with state := state, prior := prior, pse := pse, det := det, fwd := fwd }

/-- `t'` is `t` but for what a pause changes. -/
def Halts (t t' : Thread) : Prop := ∃ state prior pse det fwd, t' = haltedThread t state prior pse det fwd

theorem Halts.refl (t : Thread) : Halts t t := ⟨t.state, t.prior, t.pse, t.det, t.fwd, rfl⟩

theorem Halts.trans {t t' t'' : Thread} (first : Halts t t') (second : Halts t' t'') : Halts t t'' := by
  obtain ⟨_, _, _, _, _, rfl⟩ := first
  obtain ⟨state, prior, pse, det, fwd, rfl⟩ := second
  exact ⟨state, prior, pse, det, fwd, rfl⟩

theorem halts_detach (t : Thread) : Halts t t.detach := by
  unfold Thread.detach
  split
  · exact ⟨_, _, _, _, _, rfl⟩
  · exact .refl t

theorem halts_pauseSlot (want : Bool) (t : Thread) : Halts t (pauseSlot want t) := by
  unfold pauseSlot
  split
  · split
    case h_1 => split <;> exact ⟨_, _, _, _, _, rfl⟩
    case h_2 =>
      split
      · exact (halts_detach t).trans ⟨_, _, _, _, _, rfl⟩
      · exact ⟨_, _, _, _, _, rfl⟩
    all_goals exact ⟨_, _, _, _, _, rfl⟩
  · split <;> exact ⟨_, _, _, _, _, rfl⟩

theorem halts_repause (s : State) (core k : Nat) : Halts (s.thread k) ((repause s core).thread k) := by
  refine foldl_keeps (fun u : State => Halts (s.thread k) (u.thread k)) (repauseSlot core) ?_ _ s (.refl _)
  intro u slot halts
  unfold repauseSlot
  simp only
  split
  · exact halts
  · rw [thread_setThread]
    split
    case isTrue own => exact halts.trans (own ▸ halts_pauseSlot _ _)
    case isFalse => exact halts

theorem halts_repauseIf6 (s : State) (key k : Nat) : Halts (s.thread k) ((repauseIf6 s key).thread k) := by
  unfold repauseIf6
  split
  · exact halts_repause ..
  · exact .refl _

theorem repauseIf6_threads (s : State) (key : Nat) : ∃ threads, repauseIf6 s key = { s with threads := threads } := by
  unfold repauseIf6
  split
  · exact repause_threads ..
  · exact ⟨s.threads, rfl⟩

theorem coreOf_keyOf (core : Nat) {slot : Nat} (h : slot < 8) : coreOf (keyOf core slot) = core := by
  unfold coreOf keyOf
  omega

theorem thread_repause_otherCore {s : State} {core k : Nat} (other : coreOf k ≠ core) : (repause s core).thread k = s.thread k := by
  have slots : ∀ slot ∈ [6, 0, 1, 2, 3, 4, 5, 7], slot < 8 := by decide
  rw [repause_eq]
  generalize [6, 0, 1, 2, 3, 4, 5, 7] = l at slots
  induction l generalizing s with
  | nil => rfl
  | cons slot l ih =>
    obtain ⟨bound, rest⟩ := List.forall_mem_cons.mp slots
    rw [List.foldl_cons, ih rest]
    unfold repauseSlot
    simp only
    split
    · rfl
    · exact thread_setThread_other _ _ fun own => other (own ▸ coreOf_keyOf core bound)

/-! ## States that differ in other threads only -/

/-- `u` is `s` but for threads other than `key`'s. -/
structure Beside (key : Nat) (s u : State) : Prop where
  frame : ∃ threads, u = { s with threads := threads }
  own : u.thread key = s.thread key

section
variable {key : Nat} {s u v : State}

theorem Beside.refl : Beside key s s := ⟨⟨_, rfl⟩, rfl⟩

theorem Beside.trans (first : Beside key s u) (second : Beside key u v) : Beside key s v := by
  obtain ⟨⟨_, rfl⟩, own⟩ := first
  obtain ⟨⟨_, rfl⟩, own'⟩ := second
  exact ⟨⟨_, rfl⟩, own'.trans own⟩

theorem beside_setThread {f : Nat} (other : f ≠ key) (t : Thread) : Beside key s (s.setThread f t) :=
  ⟨⟨_, rfl⟩, thread_setThread_other _ _ other⟩

theorem beside_repauseIf6 {f : Nat} (other : coreOf key ≠ coreOf f) : Beside key s (repauseIf6 s f) := by
  refine ⟨repauseIf6_threads s f, ?_⟩
  unfold repauseIf6
  split
  · exact thread_repause_otherCore other
  · rfl

/-! ## Followers and twins (R67, R71-R73) -/

theorem follower_coreOf {f : Nat} (follows : follower key = some f) : coreOf key ≠ coreOf f := by
  unfold follower at follows
  dsimp only at follows
  split at follows
  · cases follows
  · obtain rfl := Option.some.inj follows
    unfold coreOf
    omega

theorem beside_follower {f : Nat} (follows : follower key = some f) (t : Thread) : Beside key s (s.setThread f t) :=
  beside_setThread (fun same => follower_coreOf follows (congrArg coreOf same.symm)) t

theorem followerOf_follower {f : Nat} (follows : s.followerOf key = some f) : follower key = some f := by
  unfold State.followerOf at follows
  split at follows
  · split at follows
    · cases follows; assumption
    · cases follows
  · cases follows

theorem beside_forwardWord (i : Instr) (pc next : W64) : Beside key s (forwardWord s key i pc next) := by
  unfold forwardWord
  split
  · exact .refl
  · exact .refl
  case h_3 follows _ => exact beside_follower (followerOf_follower follows) _

theorem beside_meetPoint (pc : W64) : Beside key s (meetPoint s key pc) := by
  unfold meetPoint
  split
  · exact .refl
  case h_2 f follows =>
    simp only
    split
    · split
      · exact (beside_follower follows _).trans (beside_repauseIf6 (follower_coreOf follows))
      · exact .refl
    · exact .refl

theorem beside_answer {f : Nat} (other : f ≠ key) (r : Reply) : Beside key s (answer s f r) := by
  unfold answer
  simp only
  split
  · split
    · exact .refl
    · exact beside_setThread other _
  · split
    · exact beside_setThread other _
    · exact .refl
  · exact .refl

theorem beside_twinWake {f : Nat} (other : f ≠ key) : Beside key s (twinWake s f) := by
  unfold twinWake
  split
  · split
    · exact beside_answer other _
    · exact .refl
  · exact .refl

theorem partnerOf_ne (key : Nat) : partnerOf key ≠ key := by
  unfold partnerOf
  split <;> omega

end

/-- A thread whose pair has gone on by some instructions. -/
def twinnedThread (t : Thread) (n : Nat) : Thread := { t with twinAt := n }

theorem twinDone_beside (s : State) (key : Nat) (i : Instr) (pc : W64) :
    ∃ n, Beside key (s.setThread key (twinnedThread (s.thread key) n)) (twinDone s key i pc) := by
  have partner := partnerOf_ne key
  refine iteInduction (motive := fun u => ∃ n, Beside key (s.setThread key (twinnedThread (s.thread key) n)) u)
    (fun _ => ⟨(s.thread key).twinAt, ⟨s.threads, rfl⟩, (thread_setThread_same ..).symm⟩)
    (fun _ => ⟨(s.thread key).twinAt + 1, ?_⟩)
  split
  · split
    · exact beside_setThread partner _
    · exact (beside_setThread partner _).trans (beside_twinWake partner)
    · exact beside_twinWake partner
  · exact beside_twinWake partner

theorem afterComplete_beside (s : State) (key : Nat) (i : Instr) (pc : W64) :
    ∃ n, Beside key (s.setThread key (twinnedThread (s.thread key) n)) (afterComplete s key i pc) := by
  have before : Beside key s (meetPoint (forwardWord s key i pc (s.thread key).pc) key pc) :=
    (beside_forwardWord ..).trans (beside_meetPoint _)
  obtain ⟨n, after⟩ := twinDone_beside (meetPoint (forwardWord s key i pc (s.thread key).pc) key pc) key i pc
  rw [before.own] at after
  obtain ⟨⟨threads, frame⟩, own⟩ := after
  obtain ⟨⟨threads', frame'⟩, -⟩ := before
  rw [afterComplete]
  refine ⟨n, ⟨threads, ?_⟩, own.trans ?_⟩
  · rw [frame, frame']; rfl
  · rw [thread_setThread_same, thread_setThread_same]

/-! ## The acting thread goes on -/

theorem me_afterComplete {s : State} {key : Nat} (acts : s.cur = key) (i : Instr) (pc : W64) :
    ∃ n threads, afterComplete s key i pc = { s with threads := threads } ∧
      (afterComplete s key i pc).me = twinnedThread s.me n := by
  obtain ⟨n, ⟨threads, frame⟩, own⟩ := afterComplete_beside s key i pc
  refine ⟨n, threads, frame, ?_⟩
  rw [State.me, show (afterComplete s key i pc).cur = key by rw [frame]; exact acts, own, thread_setThread_same, State.me, acts]

theorem me_repauseIf6 (s : State) (key : Nat) : Halts s.me (repauseIf6 s key).me := by
  have halts := halts_repauseIf6 s key s.cur
  obtain ⟨threads, frame⟩ := repauseIf6_threads s key
  rwa [State.me, State.me, show (repauseIf6 s key).cur = s.cur by rw [frame]]

theorem repauseIf6_other {s : State} {key : Nat} (other : slotOf key ≠ 6) : repauseIf6 s key = s := if_neg other

end Sys2Proof.Laws
end

section
/-! PROOFS. The special-function unit (R165, R50) and the normaliser (R127). -/

namespace Sys2Proof.Laws

open Sys2Proof Sys2Proof.Machine

theorem dieOfCluster_clusterOf (core : Nat) : dieOfCluster (clusterOf core) = dieOf core := by
  unfold dieOfCluster clusterOf dieOf
  split
  · rw [if_pos (by omega)]
    omega
  · rw [if_neg (by omega)]
    omega

/-! ## What parking leaves alone -/

section
variable (t : Thread)

@[simp] theorem detach_g : t.detach.g = t.g := by unfold Thread.detach; split <;> rfl
@[simp] theorem detach_f : t.detach.f = t.f := by unfold Thread.detach; split <;> rfl
@[simp] theorem detach_fcsr : t.detach.fcsr = t.fcsr := by unfold Thread.detach; split <;> rfl
@[simp] theorem detach_streams : t.detach.streams = t.streams := by unfold Thread.detach; split <;> rfl
@[simp] theorem detach_pse : t.detach.pse = t.pse := by unfold Thread.detach; split <;> rfl

end

theorem streamOf_congr {t t' : Thread} (same : t'.streams = t.streams) (r : Reg) : t'.streamOf r = t.streamOf r := by
  have streams : t'.stream = t.stream := by funext n; rw [Thread.stream, same]; rfl
  rw [Thread.streamOf, streams]
  rfl

/-! ## The unit's queue (R165) -/

section
variable {s : State} {clu : Nat} {r : SfuRequest}

theorem sfuAdmit_first {w : Wait} (alone : (s.cluster clu).sfuq = [r]) (waits : r.number = none) (integer : r.seq = false)
    (parked : (s.thread (keyOf r.core r.slot)).wait = some w) :
    sfuAdmit s clu =
      (s.setCluster clu { s.cluster clu with
        sfuCount := (s.cluster clu).sfuCount + 1, sfuq := [{ r with number := some (s.cluster clu).sfuCount }] }).setThread
        (keyOf r.core r.slot) { s.thread (keyOf r.core r.slot) with
          wait := some { w with eval := (s.cluster clu).sfuCount.setWidth 64 } } := by
  simp [sfuAdmit, alone, waits, integer, parked, replaceFirst]

theorem sfuAdmit_accepted {c : Cluster} {n : W32} (accepted : c.sfuq = [r]) (numbered : r.number = some n) : sfuAdmit (s.setCluster clu c) clu = s.setCluster clu c := by
  simp [sfuAdmit, accepted, numbered]

theorem sfuAccept_first {n : W32} (alone : (s.cluster clu).sfuq = [r]) (numbered : r.number = some n) (waits : r.ready = none) :
    ∃ u, exec (.sfuAccept clu) s = .next u ∧ u.die = s.die ∧ (∀ k, u.thread k = s.thread k) ∧ u.cur = s.cur ∧
      (u.cluster clu).sfuq = [{ r with ready := some ((s.die (dieOfCluster clu)).cyc + 24) }] := by
  have open_ : ¬(s.cluster clu).sfuq.any (fun r => r.ready == some ((s.die (dieOfCluster clu)).cyc + 24)) = true := by
    simp [alone, waits]
  have takes : replaceFirst (fun r => r.number.isSome && r.ready.isNone)
      (fun r => { r with ready := some ((s.die (dieOfCluster clu)).cyc + 24) }) (s.cluster clu).sfuq =
        [{ r with ready := some ((s.die (dieOfCluster clu)).cyc + 24) }] := by
    simp [alone, replaceFirst, numbered, waits]
  have accepts : exec (.sfuAccept clu) s = .next (s.setCluster clu { s.cluster clu with
      sfuq := [{ r with ready := some ((s.die (dieOfCluster clu)).cyc + 24) }] }) := by
    change execSfuAccept clu s = _
    rw [execSfuAccept, if_neg open_, takes]
    exact congrArg Host.Outcome.next (sfuAdmit_accepted rfl numbered)
  exact ⟨_, accepts, rfl, fun _ => rfl, rfl, congrArg Cluster.sfuq (cluster_setCluster_same ..)⟩

theorem sfuResult_first {d : Nat} {u : State} (alone : (s.cluster clu).sfuq = [r]) (taken : r.ready = some d)
    (passed : d ≤ (s.die (dieOfCluster clu)).cyc) (served : sfuServe s clu r = some u) : exec (.sfuResult clu) s = .next u := by
  change execSfuResult clu s = _
  simp [execSfuResult, alone, taken, passed, served]

end

/-- The reply of the unit. -/
def sfuReply (d : Reg) (v : W128) (flags : FlagBits) : Reply :=
  { Reply.plain with f := [(d, v)], csr := [(0x010, BitVec.ofNat 64 flags)] }

/-- A thread whose wait has its reply. -/
def repliedThread (t : Thread) (w : Wait) (r : Reply) : Thread := { t with wait := some { w with reply := some r } }

section
variable {s : State} {key : Nat} {w : Wait} {op : Nat} {f : BitVec 4} {a d : Reg}

theorem answer_parked {r : Reply} (parked : (s.thread key).state = .parked) (waits : (s.thread key).wait = some w)
    (open_ : w.reply = none) : answer s key r = s.setThread key (repliedThread (s.thread key) w r) := by
  simp [answer, repliedThread, parked, waits, open_]

theorem sfuServe_integer {clu : Nat} {r : SfuRequest} {t : Thread} (integer : r.seq = false)
    (operation : sfuOf r.instr = some (op, f, a, d)) (own : s.thread (keyOf r.core r.slot) = t) (parked : t.state = .parked)
    (waits : t.wait = some w) (open_ : w.reply = none) :
    ∃ v, sfuServe s clu r = some v ∧ v.cur = s.cur ∧ v.thread (keyOf r.core r.slot) =
      repliedThread t w (sfuReply d (sfuPack op f r.fcsr r.pack).1 (sfuPack op f r.fcsr r.pack).2) := by
  subst own
  have untrapped : ¬(s.thread (keyOf r.core r.slot)).state = .trapped := by rw [parked]; decide
  simp only [sfuServe, operation, if_neg untrapped, integer]
  exact ⟨_, congrArg some (answer_parked parked waits open_), rfl, thread_setThread_same ..⟩

/-! ## The reply completes the instruction (R50) -/

theorem replyData_sfu {r : Reply} {x : Nat × BitVec 4 × Reg × Reg} (operation : sfuOf w.instr = some x) (empty : r.data = none) :
    replyData s key w r = .ok s := by
  have unlocked : lockedByte (s.arch (coreOf key)) (slotOf key) 0 0 = none := rfl
  simp only [replyData, empty, Option.getD_none, List.length_nil, unlocked]
  generalize w.instr = i at operation
  unfold sfuOf at operation
  split at operation
  all_goals cases operation
  all_goals rfl

/-- A thread whose instruction has ended with the unit's result. -/
def servedThread (t : Thread) (d : Reg) (v : W128) (flags : FlagBits) : Thread :=
  { t.wf d v with fcsr := orFlags t.fcsr (BitVec.ofNat 64 flags).toNat, pc := t.pc + 4 }

theorem completeReply_sfu {v : W128} {flags : FlagBits} (operation : sfuOf w.instr = some (op, f, a, d)) (here : w.at_ = none)
    (source : (s.thread key).streamOf a = none) (target : (s.thread key).streamOf d = none) :
    completeReply s key w (sfuReply d v flags) = .ok (afterComplete
      (repauseIf6 (s.setThread key (servedThread (s.thread key) d v flags).resume) key) key w.instr (s.thread key).pc) := by
  have sources : stepStreams (s.setThread key ((s.thread key).wf d v)) key [a] = s.setThread key ((s.thread key).wf d v) :=
    stepStreams_registers fun r named => by rw [thread_setThread_same, List.mem_singleton.mp named]; exact source
  have stored : replyF s key (sfuReply d v flags).f = .ok (s.setThread key ((s.thread key).wf d v)) := by
    simp only [sfuReply, replyF, writeF_register target, bind, Except.bind]
  simp only [completeReply, here, replyData_sfu (r := sfuReply d v flags) operation rfl, bind, Except.bind, stored, waitSources,
    operation, sources, thread_setThread_same, setThread_setThread]
  rfl

theorem deliver_reply {r : Reply} {u : State} (parked : (s.thread key).state = .parked) (waits : (s.thread key).wait = some w)
    (answered : w.reply = some r) (lives : r.kill = false) (untrapped : r.trap = none) (ends : r.reissue = false)
    (completes : completeReply s key w r = .ok u) (here : w.at_ = none) : deliver s key = u := by
  simp only [deliver, parked, waits, answered, lives, untrapped, ends, backTo, here, completes]
  rfl

theorem halts_resume (t : Thread) : Halts { t with wait := none, busy := none } t.resume := by
  unfold Thread.resume
  split
  · exact ⟨_, _, _, _, _, rfl⟩
  · exact ⟨.ready, t.prior, t.pse, t.det, t.fwd, rfl⟩

theorem resume_state {t : Thread} (unmarked : t.pse = false) : t.resume.state = .ready := by
  rw [Thread.resume, unmarked]
  rfl

end

/-! ## A special-function instruction, event by event -/

theorem exec_sfu {o : (BitVec 4 → Reg → Reg → Instr) × Nat} (listed : o ∈ Claims.sfuTable) (f : BitVec 4) (a d : Reg) :
    (∀ s, exec (o.1 f a d) s = run (o.1 f a d) s (sfuBody (o.1 f a d) a s)) ∧ sfuOf (o.1 f a d) = some (o.2, f, a, d) := by
  simp only [Claims.sfuTable, List.mem_cons, List.not_mem_nil, or_false] at listed
  rcases listed with rfl | rfl | rfl | rfl | rfl | rfl | rfl | rfl | rfl <;> exact ⟨fun _ => rfl, rfl⟩

/-- The wait on the unit's return token. -/
def sfuWait (s : State) (i : Instr) (n : W32) : Wait :=
  { kind := 0x02, eval := n.setWidth 64, deadline := deadlineOf s s.me.detach, remote := none, instr := i, taken := [], sent := false,
    aux := 0, reply := none }

/-- The thread that waits for the unit. -/
def sfuThread (s : State) (i : Instr) (n : W32) (pse : Bool) : Thread :=
  { parkedThread s 0x02 0 i pse with wait := some (sfuWait s i n) }

/-- The request of the acting thread, with its number and the cycle of its result once it has them. -/
def sfuRequest (s : State) (i : Instr) (p : W128) (number : Option W32) (ready : Option Nat) : SfuRequest :=
  { core := s.myCore, slot := slotOf s.cur, number := number, seq := false, instr := i, pack := p, fcsr := s.me.fcsr, ready := ready }

theorem sfuSend_first {s : State} {w : Wait} (i : Instr) (p : W128) (waits : s.me.wait = some w)
    (empty : (s.cluster (clusterOf s.myCore)).sfuq = []) :
    let n := (s.cluster (clusterOf s.myCore)).sfuCount
    let u := sfuSend s s.cur false i p
    u.cur = s.cur ∧ u.me = { s.me with wait := some { w with eval := n.setWidth 64 } } ∧
      (u.cluster (clusterOf s.myCore)).sfuq = [sfuRequest s i p (some n) none] := by
  intro n u
  have alone : ((s.setCluster (clusterOf s.myCore) { s.cluster (clusterOf s.myCore) with
      sfuq := (s.cluster (clusterOf s.myCore)).sfuq ++ [sfuRequest s i p none none] }).cluster (clusterOf s.myCore)).sfuq =
        [sfuRequest s i p none none] := by
    rw [cluster_setCluster_same, empty]
    rfl
  have key : keyOf (sfuRequest s i p none none).core (sfuRequest s i p none none).slot = s.cur := keyOf_myCore s
  have sent := sfuAdmit_first alone rfl rfl (by rw [key, thread_setCluster]; exact waits)
  rw [key, cluster_setCluster_same] at sent
  refine ⟨(congrArg State.cur sent).trans rfl, ?_, ?_⟩
  · rw [show u = _ from sent]
    exact thread_setThread_same ..
  · rw [show u = _ from sent, cluster_setThread, cluster_setCluster_same]
    rfl

theorem sfuBody_sends {s : State} {i : Instr} {a d : Reg} (plain : Claims.Plain s [a, d])
    (empty : (s.cluster (clusterOf s.myCore)).sfuq = []) :
    ∃ t pse, run i s (sfuBody i a s) = .next t ∧ t.cur = s.cur ∧ (slotOf s.cur ≠ 6 → pse = s.me.pse) ∧
      t.me = sfuThread s i (s.cluster (clusterOf s.myCore)).sfuCount pse ∧ (t.cluster (clusterOf s.myCore)).sfuq =
        [sfuRequest s i (s.me.rf a) (some (s.cluster (clusterOf s.myCore)).sfuCount) none] := by
  obtain ⟨pse, threads, frame, parked, unmarked⟩ := parkMe_eq s 0x02 0 i
  have read : readF s s.cur a = .ok (s, s.me.rf a) := readF_register (streamOf_plain plain (by simp))
  have ran : run i s (sfuBody i a s) = .next (sfuSend (parkMe s 0x02 0 i) s.cur false i (s.me.rf a)) := by
    simp only [sfuBody, runFree_plain plain, read, bind, Except.bind]
    rfl
  have fcsr : (parkMe s 0x02 0 i).me.fcsr = s.me.fcsr := by rw [parked]; exact detach_fcsr s.me
  have cur : (parkMe s 0x02 0 i).cur = s.cur := by rw [frame]
  have core : (parkMe s 0x02 0 i).myCore = s.myCore := by rw [State.myCore, cur]; rfl
  have cluster : (parkMe s 0x02 0 i).cluster (clusterOf s.myCore) = s.cluster (clusterOf s.myCore) := by rw [frame]; rfl
  obtain ⟨sentCur, sentMe, sentQueue⟩ := sfuSend_first (s := parkMe s 0x02 0 i) i (s.me.rf a) (congrArg Thread.wait parked)
    (by rw [core, cluster, empty])
  rw [core, cluster] at sentQueue sentMe
  rw [cur] at sentCur sentMe sentQueue
  refine ⟨_, pse, ran, sentCur, fun other => (unmarked other).trans (detach_pse _), sentMe.trans ?_, sentQueue.trans ?_⟩
  · rw [parked]
    rfl
  · rw [sfuRequest, core, cur, fcsr]
    rfl

/-- PARK_WAKE with the unit's reply: what the thread that goes on has. -/
theorem parkWake_sfu {s : State} {w : Wait} {op : Nat} {f : BitVec 4} {a d : Reg} {v : W128} {flags : FlagBits} {t : Thread}
    (own : s.me = repliedThread t w (sfuReply d v flags)) (parked : t.state = .parked) (operation : sfuOf w.instr = some (op, f, a, d))
    (here : w.at_ = none) (source : t.streamOf a = none) (target : t.streamOf d = none) :
    ∃ x, exec (.parkWake s.myCore (slotOf s.cur)) s = .next x ∧ x.me.rf d = v ∧
      x.me.fcsr = t.fcsr ||| BitVec.ofNat 16 (flags % 128) ∧ x.me.pc = t.pc + 4 ∧ x.me.wait = none ∧ (∀ r, x.me.rg r = t.rg r) ∧
      (∀ r, r ≠ d → x.me.rf r = t.rf r) ∧ (slotOf s.cur ≠ 6 → t.pse = false → x.me.state = .ready) := by
  have thread : s.thread s.cur = repliedThread t w (sfuReply d v flags) := own
  have streams (r : Reg) : (s.thread s.cur).streamOf r = t.streamOf r := streamOf_congr (by rw [thread]; rfl) r
  have completes := completeReply_sfu (s := s) (key := s.cur) (w := { w with reply := some (sfuReply d v flags) }) (v := v)
    (flags := flags) operation here (by rw [streams, source]) (by rw [streams, target])
  have delivered := deliver_reply (by rw [thread]; exact parked) (by rw [thread]; rfl) rfl rfl rfl rfl completes here
  obtain ⟨pausedThreads, paused⟩ := repauseIf6_threads (s.setThread s.cur (servedThread (s.thread s.cur) d v flags).resume) s.cur
  have halts := me_repauseIf6 (s.setThread s.cur (servedThread (s.thread s.cur) d v flags).resume) s.cur
  obtain ⟨n, threads, frame, me⟩ := me_afterComplete
    (s := repauseIf6 (s.setThread s.cur (servedThread (s.thread s.cur) d v flags).resume) s.cur) (key := s.cur)
    (by rw [paused]; rfl) w.instr (s.thread s.cur).pc
  rw [me_setThread_cur] at halts
  obtain ⟨state, prior, pse, det, fwd, halted⟩ := (halts_resume _).trans halts
  rw [thread] at delivered me halted
  refine ⟨_, congrArg Host.Outcome.next ((congrArg (deliver s) (keyOf_myCore s)).trans delivered), ?_⟩
  rw [me, halted]
  refine ⟨?_, ?_, rfl, rfl, fun _ => rfl, fun r other => ?_, fun slot unmarked => ?_⟩
  · exact (rf_wf t d d v).trans (if_pos rfl)
  · refine (orFlags_eq t.fcsr _).trans ?_
    rw [BitVec.toNat_ofNat, Nat.mod_mod_of_dvd _ (by decide)]
  · exact (rf_wf t d r v).trans (if_neg other)
  · rw [repauseIf6_other slot, me_setThread_cur] at halted
    exact (congrArg Thread.state halted).symm.trans (resume_state (t := servedThread _ d v flags) unmarked)

theorem cyc_later (s : State) (die n : Nat) : ((Claims.later s die n).die die).cyc = (s.die die).cyc + n := by
  rw [Claims.later, die_setDie_same]

/-- The unit accepts the waiting request and answers it 24 core cycles later. -/
theorem sfu_answers {s t : State} {i : Instr} {p : W128} {n : W32} {pse : Bool} {op : Nat} {f : BitVec 4} {a d : Reg}
    (operation : sfuOf i = some (op, f, a, d)) (cur : t.cur = s.cur) (me : t.me = sfuThread s i n pse)
    (sent : (t.cluster (clusterOf s.myCore)).sfuq = [sfuRequest s i p (some n) none]) :
    ∃ u v, exec (.sfuAccept (clusterOf s.myCore)) t = .next u ∧
      exec (.sfuResult (clusterOf s.myCore)) (Claims.later u (dieOf s.myCore) 24) = .next v ∧ v.cur = s.cur ∧
      v.me = repliedThread (sfuThread s i n pse) (sfuWait s i n)
        (sfuReply d (sfuPack op f s.me.fcsr p).1 (sfuPack op f s.me.fcsr p).2) := by
  have key : keyOf s.myCore (slotOf s.cur) = s.cur := keyOf_myCore s
  have thread : t.thread (keyOf s.myCore (slotOf s.cur)) = sfuThread s i n pse := by rw [key, ← cur]; exact me
  obtain ⟨u, accepts, die, threads, acts, queue⟩ := sfuAccept_first sent rfl rfl
  rw [dieOfCluster_clusterOf] at queue
  have passed : (t.die (dieOf s.myCore)).cyc + 24 ≤
      ((Claims.later u (dieOf s.myCore) 24).die (dieOfCluster (clusterOf s.myCore))).cyc := by
    rw [dieOfCluster_clusterOf, cyc_later, die]
  have own : (Claims.later u (dieOf s.myCore) 24).thread (keyOf s.myCore (slotOf s.cur)) = sfuThread s i n pse :=
    (threads _).trans thread
  obtain ⟨v, serves, stays, answered⟩ := sfuServe_integer (s := Claims.later u (dieOf s.myCore) 24) (clu := clusterOf s.myCore)
    (r := sfuRequest s i p (some n) (some ((t.die (dieOf s.myCore)).cyc + 24))) rfl operation
    own rfl rfl rfl
  have vcur : v.cur = s.cur := (stays.trans acts).trans cur
  refine ⟨u, v, accepts, sfuResult_first (by exact queue) rfl passed serves, vcur, ?_⟩
  rw [State.me, vcur, ← key]
  exact answered

theorem specialFunctionsReturnThroughTheUnit : Claims.SpecialFunctionsReturnThroughTheUnit := by
  intro o listed s f a d core clu plain empty
  obtain ⟨runs, operation⟩ := exec_sfu listed f a d
  obtain ⟨t, pse, sends, cur, mark, me, sent⟩ := sfuBody_sends (i := o.1 f a d) plain empty
  obtain ⟨u, v, accepts, answers, acts, answered⟩ := sfu_answers operation cur me sent
  have plainStream (r : Reg) (named : r ∈ [a, d]) : (sfuThread s (o.1 f a d) (s.cluster clu).sfuCount pse).streamOf r = none :=
    (streamOf_congr (t := s.me) (detach_streams s.me) r).trans (streamOf_plain plain named)
  obtain ⟨x, wakes, result, flags, pc, wait, g, others, ready⟩ := parkWake_sfu answered rfl operation rfl
    (plainStream a (by simp)) (plainStream d (by simp))
  rw [State.myCore, acts] at wakes
  refine ⟨t, u, v, x, (runs s).trans sends, by rw [me]; rfl, ?_, accepts, answers, wakes, result, flags.trans ?_, pc.trans ?_, wait,
    fun r => (g r).trans ?_, fun r other => (others r other).trans ?_, fun slot unmarked => ready (acts ▸ slot) ?_⟩
  · rw [me, BitVec.ofNat_toNat]
    rfl
  · exact congrArg (· ||| _) (detach_fcsr s.me)
  · exact congrArg (· + 4) (detach_pc s.me)
  · exact congrArg (fun g => if r = 0 then 0 else tget 0 g r.toNat) (detach_g s.me)
  · exact congrArg (fun f => tget 0 f r.toNat) (detach_f s.me)
  · exact (mark slot).trans unmarked

/-! ## The normaliser (R127) -/

theorem lengthen_free {t : Thread} (free : t.run = none) (n : Nat) : lengthen t n = { t with busy := t.busy.map (· + n) } := by
  rw [lengthen, free]

theorem normaliserServesOneRequestACycle : Claims.NormaliserServesOneRequestACycle := by
  intro s clu c key alone passed turn
  have serves : exec (.normaliserService clu) s = .next
      ((s.setCluster clu { s.cluster clu with normq := [], normAt := turn + 1 }).setThread key
        (lengthen (s.thread key) (turn - c))) := by
    change execNormaliserService clu s = _
    have rest : removeAt [(c, key)] (([(c, key)].findIdx? (· == (c, key))).getD 0) = [] := by simp [removeAt]
    simp only [execNormaliserService, alone, List.foldl_nil, rest]
    exact if_neg passed.not_ge
  refine ⟨_, serves, ?_, ?_, fun b free busy => ?_, fun k other => ?_, rfl⟩
  · rw [cluster_setThread, cluster_setCluster_same]
  · rw [cluster_setThread, cluster_setCluster_same]
  · rw [thread_setThread_same, lengthen_free free, busy]
    rfl
  · rw [thread_setThread_other _ _ other.symm, thread_setCluster]

end Sys2Proof.Laws
end
section
/-! PROOFS. RSLDT and RSLDG from the own scratchpad (R121, R122). -/

namespace Sys2Proof.Laws

open Sys2Proof Sys2Proof.Machine

/-! ## Bytes of a range -/

theorem mreadN_append (m : Mem) (a n k : Nat) : mreadN m a (n + k) = mreadN m a n ++ mreadN m (a + n) k := by
  induction n generalizing a with
  | zero => rw [Nat.zero_add]; rfl
  | succ n ih => rw [Nat.succ_add_eq_add_succ, Nat.add_succ, mreadN, ih, mreadN, List.cons_append, Nat.add_assoc, Nat.add_comm 1]

theorem spadBytes_append (m : Memory) (core o n k : Nat) :
    spadBytes m core o (n + k) = spadBytes m core o n ++ spadBytes m core (o + n) k := by
  rw [spadBytes, mreadN_append, Nat.add_assoc]
  rfl

theorem take_drop_spadBytes (m : Memory) (core o : Nat) {n j k : Nat} (inside : j + k ≤ n) :
    ((spadBytes m core o n).drop j).take k = spadBytes m core (o + j) k := by
  obtain ⟨rest, rfl⟩ := Nat.exists_eq_add_of_le inside
  rw [Nat.add_assoc, spadBytes_append, spadBytes_append, List.drop_left' (length_spadBytes ..), List.take_left' (length_spadBytes ..)]

theorem spadPoisoned_part {m : Memory} {core o n j k : Nat} (whole : spadPoisoned m core o n = false) (inside : j + k ≤ n) :
    spadPoisoned m core (o + j) k = false := by
  simp only [spadPoisoned, anyPoison, List.any_eq_false, Bool.and_eq_true, decide_eq_true_eq, not_and, not_lt] at whole ⊢
  intro c listed below
  have := whole c listed
  omega

/-! ## The places of a range (R122) -/

/-- The places of `m` chunks of the own scratchpad from chunk `i` of a range at byte `o`. -/
def ownPlaces (core o i m : Nat) : List Place := (List.range' i m).map (fun k => .spad core (o + 16 * k))

section
variable {s : State} {o n : Nat} (unlocked : Claims.Unlocked s o n) (quiet : Claims.NoStores s)

theorem unlocked_part {j k : Nat} (unlocked : Claims.Unlocked s o n) (inside : j + k ≤ n) : Claims.Unlocked s (o + j) k := by
  intro l held other
  have := unlocked l held other
  omega

include unlocked quiet

theorem resolveRange_own {ea : W64} (space : o + n ≤ 0x100000) {i m : Nat} (inside : 16 * (i + m) ≤ n) :
    resolveRange s s.cur ea 2 o m i = .ok (s, ownPlaces s.myCore o i m) := by
  induction m generalizing i with
  | zero => rfl
  | succ m ih =>
    have first := resolve_own (ea := ea + BitVec.ofNat 64 (16 * i)) (o := o + 16 * i) (n := 16) .load (by omega)
      (unlocked_part unlocked (by omega)) (acquirePending_noStores quiet)
    simp only [resolveRange, first, bind, Except.bind, ih (i := i + 1) (by omega)]
    rfl

theorem tableRange_own {ea : W64} (aligned : ea.toNat % 16 = 0) (inSegment : Claims.SegOk s.me ea n rightR 2 o)
    (space : o + n ≤ 0x100000) : tableRange s s.cur ea n = .ok (s, ownPlaces s.myCore o 0 (n / 16)) := by
  have even : ea.extractLsb' 0 4 = 0 := by
    rw [← BitVec.toNat_inj, BitVec.extractLsb'_toNat]
    exact aligned
  simp only [tableRange, need, even, bind, Except.bind, ← State.me.eq_1, segCheck_of_segOk inSegment]
  exact resolveRange_own unlocked quiet space (by omega)

end

section
variable {s : State} {o n : Nat} (quiet : Claims.NoStores s) (relock : (s.die (dieOf s.myCore)).relock = none)
include quiet relock

theorem readPlaces_own (whole : spadPoisoned s.mem s.myCore o n = false) {i m : Nat} (inside : 16 * (i + m) ≤ n) :
    readPlaces s s.cur (ownPlaces s.myCore o i m) = .ok (s, spadBytes s.mem s.myCore (o + 16 * i) (16 * m), false) := by
  induction m generalizing i with
  | zero => rfl
  | succ m ih =>
    have free : placeHeld s s.cur (.spad s.myCore (o + 16 * i)) 16 = false := by
      have reachable : dieReachable s (dieOf s.myCore) = true := by rw [dieReachable, relock]; rfl
      simp [placeHeld, placeReachable, reachable, ← State.myCore.eq_1]
    have places : ownPlaces s.myCore o i (m + 1) = .spad s.myCore (o + 16 * i) :: ownPlaces s.myCore o (i + 1) m := rfl
    have chunk := spadPoisoned_part (j := 16 * i) (k := 16) whole (by omega)
    rw [places, readPlaces, free, Nat.mul_succ, Nat.add_comm (16 * m), spadBytes_append]
    simp only [bind, Except.bind, bytesNow_own quiet (n := 16) (by decide), ih (i := i + 1) (by omega), chunk]
    rfl

end

theorem mapM_placeLat_own (s : State) (o i m : Nat) :
    (ownPlaces s.myCore o i m).mapM (placeLat s s.cur) = some (List.replicate m 8) := by
  induction m generalizing i with
  | zero => rfl
  | succ m ih =>
    have places : ownPlaces s.myCore o i (m + 1) = .spad s.myCore (o + 16 * i) :: ownPlaces s.myCore o (i + 1) m := rfl
    have latency : placeLat s s.cur (.spad s.myCore (o + 16 * i)) = some 8 := if_pos rfl
    rw [places, List.mapM_cons, latency, ih]
    rfl

theorem foldl_max_replicate (n m : Nat) : (List.replicate m n).foldl Nat.max n = n := by
  induction m with
  | zero => rfl
  | succ m ih => rw [List.replicate_succ, List.foldl_cons, show Nat.max n n = n from max_self n, ih]

/-- A table of `n` bytes stands at g_a, byte `o` of the own scratchpad, and nothing makes its load wait. -/
def TableAt (s : State) (a : Reg) (n o : Nat) : Prop :=
  (s.me.rg a).toNat % 16 = 0 ∧ Claims.SegOk s.me (s.me.rg a) n rightR 2 o ∧ o + n ≤ 0x100000 ∧ Claims.Unlocked s o n ∧
    spadPoisoned s.mem s.myCore o n = false ∧ Claims.NoStores s ∧ s.me.run = none ∧ s.me.state = .ready ∧ s.me.pse = false ∧
    (s.die (dieOf s.myCore)).relock = none ∧ ∀ r ∈ (s.cluster (clusterOf s.myCore)).normq, r.2 ≠ s.cur

/-! ## RSLDT and RSLDG at issue, and when their data has arrived (R122) -/

/-- What a load of a table in flight leaves with its thread. -/
def loadingWait (i : Instr) (ea : W64) : Wait :=
  { kind := 0, eval := ea, deadline := none, remote := none, instr := i, taken := [], sent := true, aux := 0, reply := none }

/-- The thread whose load of a table is in flight. -/
def loadingThread (s : State) (i : Instr) (ea : W64) : Thread :=
  { s.me with busy := some (s.doneAt 8), wait := some (loadingWait i ea) }

/-- The thread whose table has been loaded. -/
def loadedThread (t : Thread) : Thread := { t with wait := none, busy := none, pc := t.pc + 4 }

section
variable {s : State} {i : Instr} {a : Reg} {o n : Nat} (ready : TableAt s a n o)
include ready

theorem tableBody_own : tableBody i (s.me.rg a) n s = .ok (s.setMe (loadingThread s i (s.me.rg a))) := by
  obtain ⟨aligned, inSegment, space, unlocked, whole, quiet, idle, -, -, relock, -⟩ := ready
  simp only [tableBody, runFree_idle idle, bind, Except.bind, tableRange_own unlocked quiet aligned inSegment space,
    mapM_placeLat_own, readPlaces_own quiet relock whole (i := 0) (m := n / 16) (by omega), foldl_max_replicate]
  rfl

theorem tableArrive_own (table : (i = .rsldt a ∧ n = 2176) ∨ (i = .rsldg a ∧ n = 32)) :
    tableArrive s s.cur i none = tableLoad s s.cur i (spadBytes s.mem s.myCore o n) := by
  obtain ⟨aligned, inSegment, space, unlocked, whole, quiet, -, -, -, relock, -⟩ := ready
  have range := tableRange_own unlocked quiet aligned inSegment space
  have places := readPlaces_own quiet relock whole (i := 0) (m := n / 16) (by omega)
  rw [State.me] at range
  rcases table with ⟨rfl, rfl⟩ | ⟨rfl, rfl⟩ <;>
  · simp only [tableArrive, range, bind, Except.bind, places]
    rfl

end

/-- The state in which the data of a load of a table arrives: 8 core cycles after issue. -/
def arrivalState (s : State) (i : Instr) (ea : W64) : State := Claims.later (s.setMe (loadingThread s i ea)) (dieOf s.myCore) 8

/-- The state in which a table's data is taken. -/
def takingState (s : State) (i : Instr) (ea : W64) : State :=
  (arrivalState s i ea).setThread s.cur { (arrivalState s i ea).me with wait := none }

/-- The state in which a table has taken effect. -/
def takenState (s : State) (i : Instr) (ea : W64) (x : CoreArch) : State := (takingState s i ea).setArch s.myCore x

theorem me_arrivalState (s : State) (i : Instr) (ea : W64) : (arrivalState s i ea).me = loadingThread s i ea := me_setMe ..

theorem me_takingState (s : State) (i : Instr) (ea : W64) : (takingState s i ea).me = { loadingThread s i ea with wait := none } := by
  rw [← me_arrivalState]
  exact thread_setThread_same ..

theorem tableAt_takingState {s : State} {a : Reg} {n o : Nat} (ready : TableAt s a n o) (i : Instr) (ea : W64) :
    TableAt (takingState s i ea) a n o := by
  obtain ⟨aligned, inSegment, space, unlocked, whole, ⟨queue, comparator⟩, idle, lives, unmarked, relock, normq⟩ := ready
  have held : ((takingState s i ea).die (dieOf s.myCore)).relock = none :=
    (congrArg Die.relock (die_setDie_same ..)).trans relock
  refine ⟨?_, ?_, space, unlocked, whole, ⟨queue, ?_⟩, ?_, ?_, ?_, held, normq⟩
  all_goals rw [me_takingState]
  · exact aligned
  · exact inSegment
  · exact comparator
  · exact idle
  · exact lives
  · exact unmarked

section
variable {s : State}

theorem instructionComplete_table {u : State} {i : Instr} {a : Reg} (table : i = .rsldt a ∨ i = .rsldg a) {w : Wait} {d : Nat}
    (busy : s.me.busy = some d) (passed : d ≤ s.cyc s.myCore) (served : normBusy s s.cur = false) (waits : s.me.wait = some w)
    (pending : w.instr = i) (ready : s.me.state = .ready) (unmarked : s.me.pse = false)
    (arrives : tableArrive (s.setThread s.cur { s.me with wait := none }) s.cur i none = .ok u)
    (kept : u.thread s.cur = { s.me with wait := none }) :
    exec (.instructionComplete s.myCore (slotOf s.cur)) s =
      .next (repauseIf6 (afterComplete (u.setThread s.cur (loadedThread s.me)) s.cur i s.me.pc) s.cur) := by
  change execInstructionComplete s.myCore (slotOf s.cur) s = _
  have due : ¬(s.cyc s.myCore < d ∨ normBusy s s.cur = true) := by simp [passed, served]
  have stays : popForwarded { s.me with wait := none, pc := s.me.pc + 4 } = { s.me with wait := none, pc := s.me.pc + 4 } := by
    simp only [popForwarded, ready]
  have lives : decide (s.me.state = .ready ∨ s.me.state = .following) = true := by simp [ready]
  have unended : ¬(s.me.pse = true ∧ (s.me.state = .ready ∨ s.me.state = .following)) := by simp [unmarked]
  rcases table with rfl | rfl <;>
  · simp only [busy] at arrives kept stays
    simp only [execInstructionComplete, keyOf_myCore, ← State.me.eq_1, busy, if_neg due, waits, lives, pending, arrives, kept, stays,
      if_neg unended]
    rfl

end

/-- How a thread goes on after an instruction of it has completed. -/
theorem afterComplete_goesOn {u : State} {key : Nat} (acts : u.cur = key) (t : Thread) (i : Instr) (pc : W64) :
    ∃ threads n, repauseIf6 (afterComplete (u.setThread key t) key i pc) key = { u with threads := threads } ∧
      Halts (twinnedThread t n) (repauseIf6 (afterComplete (u.setThread key t) key i pc) key).me := by
  subst acts
  obtain ⟨n, threads, frame, me⟩ := me_afterComplete (s := u.setThread u.cur t) (key := u.cur) rfl i pc
  obtain ⟨threads', paused⟩ := repauseIf6_threads (afterComplete (u.setThread u.cur t) u.cur i pc) u.cur
  have halts := me_repauseIf6 (afterComplete (u.setThread u.cur t) u.cur i pc) u.cur
  rw [me, me_setThread_cur] at halts
  exact ⟨threads', n, by rw [paused, frame]; rfl, halts⟩

theorem table_loads {s : State} {i : Instr} {a : Reg} {n o : Nat} {effect : CoreArch → CoreArch}
    (table : (i = .rsldt a ∧ n = 2176) ∨ (i = .rsldg a ∧ n = 32)) (ready : TableAt s a n o)
    (takes : ∀ (u : State) key, tableLoad u key i (spadBytes s.mem s.myCore o n) =
      .ok (u.setArch (coreOf key) (effect (u.arch (coreOf key))))) :
    ∃ t u, exec i s = .next t ∧ t.me.busy = some (s.cyc s.myCore + 8) ∧ t.me.pc = s.me.pc ∧ t.arch s.myCore = s.arch s.myCore ∧
      exec (.instructionComplete s.myCore (slotOf s.cur)) (Claims.later t (dieOf s.myCore) 8) = .next u ∧
      u.arch s.myCore = effect (s.arch s.myCore) ∧ u.me.pc = s.me.pc + 4 ∧ u.me.busy = none ∧ u.me.wait = none ∧ u.mem = s.mem ∧
      ∀ r, u.me.rg r = s.me.rg r := by
  have issues : exec i s = .next (s.setMe (loadingThread s i (s.me.rg a))) := by
    rcases table with ⟨rfl, rfl⟩ | ⟨rfl, rfl⟩ <;>
    · exact congrArg (run _ s) (tableBody_own ready)
  have arrives := tableArrive_own (tableAt_takingState ready i (s.me.rg a)) table
  obtain ⟨-, -, -, -, -, -, -, lives, unmarked, -, normq⟩ := ready
  have me := me_arrivalState s i (s.me.rg a)
  have taken : tableArrive (takingState s i (s.me.rg a)) s.cur i none =
      .ok (takenState s i (s.me.rg a) (effect (s.arch s.myCore))) := arrives.trans (takes _ _)
  have completes := instructionComplete_table (s := arrivalState s i (s.me.rg a)) (i := i) (a := a) (table.imp And.left And.left)
    (by rw [me]; rfl) (by exact (cyc_later ..).ge) (normBusy_eq_false normq) (by rw [me]; rfl) rfl (by rw [me]; exact lives)
    (by rw [me]; exact unmarked) taken (thread_setThread_same ..)
  obtain ⟨threads, n, frame, state, prior, pse, det, fwd, own⟩ := afterComplete_goesOn
    (u := takenState s i (s.me.rg a) (effect (s.arch s.myCore))) (key := (arrivalState s i (s.me.rg a)).cur) rfl
    (loadedThread (arrivalState s i (s.me.rg a)).me) i (arrivalState s i (s.me.rg a)).me.pc
  have arch := congrArg (State.arch · s.myCore) frame
  have mem := congrArg State.mem frame
  rw [me] at own arch mem completes
  refine ⟨_, _, issues, by rw [me_setMe]; rfl, by rw [me_setMe]; rfl, rfl, completes, arch.trans (arch_setArch_same ..), ?_⟩
  rw [own]
  exact ⟨rfl, rfl, rfl, mem, fun _ => rfl⟩

/-! ## What the tables and the ring become (R121, R122) -/

theorem toNat_ofNat_natOfBytes {w : Nat} {bs : List Byte} (width : 2 ^ w = 256 ^ bs.length) :
    (BitVec.ofNat w (natOfBytes bs)).toNat = natOfBytes bs := by
  rw [BitVec.toNat_ofNat, width, Nat.mod_eq_of_lt (natOfBytes_lt bs)]

theorem getD_map_range {α : Type} (f : Nat → α) (d : α) {n k : Nat} (h : k < n) : ((List.range n).map f).getD k d = f k := by
  simp [h]

/-- The tables that an image holds. -/
def tablesOf (bs : List Byte) : List (BitVec 16) :=
  (List.range 1088).map (fun k => BitVec.ofNat 16 (natOfBytes ((bs.drop (2 * k)).take 2)))

/-- The points of a ring that an image holds. -/
def ringPoints (bs : List Byte) : List W32 := (List.range 7).map (fun k => BitVec.ofNat 32 (natOfBytes ((bs.drop (4 * k)).take 4)))

theorem ringOf_valid {s : State} {o : Nat} (finite : ∀ k < 7, ∃ n p q, fpDecode f32 (Claims.ownValue s (o + 4 * k) 4) = .fin n p q)
    (rising : ∀ k < 6, fpLt (fpDecode f32 (Claims.ownValue s (o + 4 * k) 4))
      (fpDecode f32 (Claims.ownValue s (o + 4 * (k + 1)) 4)) = true)
    (top : Claims.ownValue s (o + 4 * 7) 4 = 0x7F800000) :
    ringOf (spadBytes s.mem s.myCore o 32) = some (ringPoints (spadBytes s.mem s.myCore o 32)) := by
  have point {k : Nat} (h : k < 8) : natOfBytes (((spadBytes s.mem s.myCore o 32).drop (4 * k)).take 4) =
      Claims.ownValue s (o + 4 * k) 4 := by
    rw [take_drop_spadBytes _ _ _ (by omega)]
    rfl
  refine if_pos ?_
  simp only [Bool.and_eq_true, List.all_eq_true, List.mem_range, beq_iff_eq]
  refine ⟨⟨fun k bound => ?_, fun k bound => ?_⟩, (point (by decide)).trans top⟩
  · obtain ⟨n, p, q, decodes⟩ := finite k bound
    rw [point (by omega), decodes]
  · rw [point (by omega), point (by omega)]
    exact rising k bound

theorem tablesAndRingsAreLoadedWhole : Claims.TablesAndRingsAreLoadedWhole := by
  intro s a o core ready loads pt
  refine ⟨fun at_ => ?rsldt, fun at_ finite rising top => ?rsldg⟩
  case rsldt =>
    obtain ⟨t, u, issues, busy, pc, arch, completes, taken, rest⟩ := table_loads
      (effect := fun x => { x with tables := some (tablesOf (spadBytes s.mem core o 2176)) }) (.inl ⟨rfl, rfl⟩) at_ (fun _ _ => rfl)
    refine ⟨t, u, issues, busy, pc, arch, completes, ?_, rest⟩
    rw [taken]
    refine ⟨_, rfl, by simp [tablesOf], fun k bound => ?_⟩
    rw [tablesOf, getD_map_range _ _ bound, take_drop_spadBytes _ _ _ (by omega)]
    exact toNat_ofNat_natOfBytes (by rw [length_spadBytes]; rfl)
  case rsldg =>
    have valid := ringOf_valid finite rising top
    obtain ⟨t, u, issues, busy, pc, arch, completes, taken, rest⟩ := table_loads
      (effect := fun x => { x with ring := ringPoints (spadBytes s.mem core o 32) }) (.inr ⟨rfl, rfl⟩) at_
      (fun _ _ => by rw [tableLoad]; simp only [valid]; rfl)
    refine ⟨t, u, issues, busy, pc, arch, completes, ?_, rest⟩
    rw [taken]
    refine ⟨by simp [ringPoints], fun k bound => ?_⟩
    rw [ringPoints, getD_map_range _ _ bound, take_drop_spadBytes _ _ _ (by omega)]
    exact toNat_ofNat_natOfBytes (by rw [length_spadBytes]; rfl)

/-- Settles O15: the unit's answer, the normaliser's turn and a table's data each end the instruction by its own event. -/
theorem unitsAnswerFunctionsAndTables : Obligations.UnitsAnswerFunctionsAndTables :=
  ⟨specialFunctionsReturnThroughTheUnit, normaliserServesOneRequestACycle, tablesAndRingsAreLoadedWhole⟩

end Sys2Proof.Laws
end

section
/-! PROOFS. Engine queues (R168-R171, R181): what enqueueing, cancelling, reaping and ending an entry do to the queues of a core, and what
they leave alone. -/

namespace Sys2Proof.Laws

open Sys2Proof Sys2Proof.Machine

/-! ## The four queues of a core -/

@[simp] theorem archQueue_setQueue_same (a : CoreArch) (eng : Nat) (u : Bool) (q : EngineQueue) : (a.setQueue eng u q).queue eng u = q := by
  unfold CoreArch.setQueue CoreArch.queue
  split <;> cases u <;> rfl

theorem archQueue_setQueue_other (a : CoreArch) {eng eng' : Nat} {u u' : Bool} (q : EngineQueue) (other : ¬((eng = 1 ↔ eng' = 1) ∧ u = u')) :
    (a.setQueue eng u q).queue eng' u' = a.queue eng' u' := by
  unfold CoreArch.setQueue CoreArch.queue
  by_cases h : eng = 1 <;> by_cases h' : eng' = 1 <;> cases u <;> cases u' <;> simp_all

section
variable (s : State) (core eng : Nat) (u : Bool) (q : EngineQueue)

@[simp] theorem engine_setEngine_same : (s.setEngine core eng u q).engine core eng u = q := by
  simp [State.setEngine, State.engine]

theorem engine_setEngine_other {eng' : Nat} {u' : Bool} (other : ¬((eng = 1 ↔ eng' = 1) ∧ u = u')) :
    (s.setEngine core eng u q).engine core eng' u' = s.engine core eng' u' := by
  simp [State.setEngine, State.engine, archQueue_setQueue_other _ _ other]

@[simp] theorem setEngine_mem : (s.setEngine core eng u q).mem = s.mem := rfl
@[simp] theorem setEngine_threads : (s.setEngine core eng u q).threads = s.threads := rfl
@[simp] theorem setEngine_cur : (s.setEngine core eng u q).cur = s.cur := rfl
@[simp] theorem setEngine_pk : (s.setEngine core eng u q).pk = s.pk := rfl
@[simp] theorem thread_setEngine (k : Nat) : (s.setEngine core eng u q).thread k = s.thread k := rfl
@[simp] theorem me_setEngine : (s.setEngine core eng u q).me = s.me := rfl
@[simp] theorem engine_setThread (k : Nat) (t : Thread) : (s.setThread k t).engine core eng u = s.engine core eng u := rfl
@[simp] theorem engine_setMe (t : Thread) : (s.setMe t).engine core eng u = s.engine core eng u := rfl
@[simp] theorem engine_withThreads (threads : Tab Thread) : { s with threads := threads }.engine core eng u = s.engine core eng u := rfl

end

/-- What holds of the four queues holds of every queue an engine names. -/
theorem forall_engineQueues (s : State) (core : Nat) (P : EngineQueue → Prop) :
    (∀ q ∈ Claims.engineQueues s core, P q) ↔ ∀ eng u, P (s.engine core eng u) := by
  simp only [Claims.engineQueues, State.engine, CoreArch.queue, List.mem_cons, List.not_mem_nil, or_false, forall_eq_or_imp, forall_eq]
  constructor
  · rintro ⟨mq, cq, umq, ucq⟩ eng u
    split <;> cases u <;> assumption
  · intro all
    exact ⟨all 1 false, all 2 false, all 1 true, all 2 true⟩

theorem noneCancelled_iff (s : State) (core : Nat) :
    Claims.NoneCancelled s core ↔ ∀ eng u, ∀ e ∈ (s.engine core eng u).entries, e.cancelled = false :=
  forall_engineQueues s core fun q => ∀ e ∈ q.entries, e.cancelled = false

/-- Setting a queue of entries that are not cancelled leaves none cancelled. -/
theorem noneCancelled_setEngine {s : State} {core : Nat} (none : Claims.NoneCancelled s core) (eng : Nat) (u : Bool) {q : EngineQueue}
    (live : ∀ e ∈ q.entries, e.cancelled = false) : Claims.NoneCancelled (s.setEngine core eng u q) core := by
  rw [noneCancelled_iff] at none ⊢
  intro eng' u'
  by_cases same : (eng = 1 ↔ eng' = 1) ∧ u = u'
  · obtain ⟨engine, rfl⟩ := same
    have : (s.setEngine core eng u q).engine core eng' u = (s.setEngine core eng u q).engine core eng u := by
      simp only [State.engine, CoreArch.queue, engine]
    rw [this, engine_setEngine_same]
    exact live
  · rw [engine_setEngine_other _ _ _ _ _ same]
    exact none eng' u'

/-! ## Reaping (R171, R181) -/

/-- No head of the core's queues has been cancelled with nothing left in its pipe. -/
def HeadsStay (s : State) (core : Nat) : Prop := ∀ eng u, ∀ e ∈ (s.engine core eng u).entries.head?, e.reapable = false

theorem reapQueue_stays {s : State} {core eng : Nat} {u : Bool} (stays : ∀ e ∈ (s.engine core eng u).entries.head?, e.reapable = false)
    (fuel : Nat) : reapQueue fuel s core eng u = s := by
  cases fuel with
  | zero => rfl
  | succ n =>
    rw [reapQueue]
    split
    case h_1 e rest head => rw [if_neg]; simpa using stays e (by rw [head]; rfl)
    case h_2 => rfl

theorem reapCore_stays {s : State} {core : Nat} (stay : HeadsStay s core) : reapCore s core = s := by
  simp only [reapCore, reapQueue_stays (stay _ _)]

theorem headsStay_of_noneCancelled {s : State} {core : Nat} (none : Claims.NoneCancelled s core) : HeadsStay s core := by
  intro eng u e head
  rw [Entry.reapable, (noneCancelled_iff s core).mp none eng u e (List.mem_of_mem_head? head)]
  rfl

/-! ## Waking what waits on an engine -/

/-- The thread's request may have been answered meanwhile, at once or for later. -/
def Answered (t t' : Thread) : Prop := ∃ wait deferred, t' = { t with wait := wait, deferred := deferred }

theorem Answered.refl (t : Thread) : Answered t t := ⟨t.wait, t.deferred, rfl⟩

theorem Answered.trans {t t' t'' : Thread} (first : Answered t t') (second : Answered t' t'') : Answered t t'' := by
  obtain ⟨wait, deferred, rfl⟩ := first
  obtain ⟨wait', deferred', rfl⟩ := second
  exact ⟨wait', deferred', rfl⟩

/-- The states differ in what threads have been answered, and in nothing else. -/
def OnlyAnswers (s t : State) : Prop := (∃ threads, t = { s with threads := threads }) ∧ ∀ k, Answered (s.thread k) (t.thread k)

theorem OnlyAnswers.refl (s : State) : OnlyAnswers s s := ⟨⟨s.threads, rfl⟩, fun _ => .refl _⟩

theorem OnlyAnswers.trans {s t u : State} (first : OnlyAnswers s t) (second : OnlyAnswers t u) : OnlyAnswers s u := by
  obtain ⟨⟨threads, rfl⟩, answered⟩ := first
  obtain ⟨⟨threads', rfl⟩, answered'⟩ := second
  exact ⟨⟨threads', rfl⟩, fun k => (answered k).trans (answered' k)⟩

theorem onlyAnswers_setThread {s : State} {key : Nat} {t : Thread} (answered : Answered (s.thread key) t) :
    OnlyAnswers s (s.setThread key t) := by
  refine ⟨⟨_, rfl⟩, fun k => ?_⟩
  rw [thread_setThread]
  split
  case isTrue own => exact own ▸ answered
  case isFalse => exact .refl _

theorem onlyAnswers_answer (s : State) (key : Nat) (r : Reply) : OnlyAnswers s (answer s key r) := by
  unfold answer
  simp only
  split
  · split
    · exact .refl s
    · exact onlyAnswers_setThread ⟨_, _, rfl⟩
  · split
    · exact onlyAnswers_setThread ⟨_, _, rfl⟩
    · exact .refl s
  · exact .refl s

theorem onlyAnswers_wakeEngine (s : State) (core : Nat) : OnlyAnswers s (wakeEngine s core) := by
  refine upTo_keeps (OnlyAnswers s) 8 _ (fun u slot before => ?_) s (.refl s)
  split
  · split
    · exact before.trans (onlyAnswers_answer ..)
    · exact before
  · exact before

section
variable {s t : State} (only : OnlyAnswers s t)
include only

theorem OnlyAnswers.engine (core eng : Nat) (u : Bool) : t.engine core eng u = s.engine core eng u := by
  obtain ⟨⟨threads, rfl⟩, -⟩ := only; rfl
theorem OnlyAnswers.arch (core : Nat) : t.arch core = s.arch core := by obtain ⟨⟨threads, rfl⟩, -⟩ := only; rfl
theorem OnlyAnswers.mem : t.mem = s.mem := by obtain ⟨⟨threads, rfl⟩, -⟩ := only; rfl
theorem OnlyAnswers.cur : t.cur = s.cur := by obtain ⟨⟨threads, rfl⟩, -⟩ := only; rfl

theorem OnlyAnswers.faultOf (k eng : Nat) : (t.thread k).faultOf eng = (s.thread k).faultOf eng := by
  obtain ⟨wait, deferred, same⟩ := only.2 k
  rw [same]; rfl

theorem OnlyAnswers.fcred (k : Nat) : (t.thread k).fcred = (s.thread k).fcred := by
  obtain ⟨wait, deferred, same⟩ := only.2 k
  rw [same]

theorem OnlyAnswers.me : Answered s.me t.me := by
  have answered := only.2 s.cur
  rwa [State.me, State.me, only.cur]

theorem OnlyAnswers.headsStay {core : Nat} (stay : HeadsStay s core) : HeadsStay t core := fun eng u e head =>
  stay eng u e (by rwa [only.engine] at head)

end

/-! ## The end of an entry (R170, R171) -/

/-- The entry is no copy to a bobbin and releases no job when it ends. -/
def EndsAlone (e : Entry) : Prop := match e.kind with
  | .copy kind follow _ _ _ _ _ _ => kind ≠ 1 ∧ follow = false
  | _ => True

/-- The head has left its queue. -/
def leftQueue (s : State) (core eng : Nat) (u : Bool) (e : Entry) (rest : List Entry) : State :=
  s.setEngine core eng u { s.engine core eng u with entries := rest, ended := e.serial }

section
variable {s : State} {core eng : Nat} {u : Bool} {e : Entry} {rest : List Entry} (head : (s.engine core eng u).entries = e :: rest)
include head

/-- An entry that ends alone leaves its queue, with its fault where it has one, and wakes what waits for that. -/
theorem popEntry_alone (alone : EndsAlone e) (how : EntryEnd) : popEntry s core eng u how =
    wakeEngine (match how with
      | .faulted c a => faultEntry (leftQueue s core eng u e rest) core eng e c a
      | _ => leftQueue s core eng u e rest) core := by
  simp only [popEntry, head]
  rw [EndsAlone] at alone
  cases kind : e.kind with
  | copy kind follow src dst sp rows rowb dp =>
    rw [kind] at alone
    obtain ⟨noBobbin, rfl⟩ := alone
    simp only [noBobbin, false_and, if_false]
    cases e.bobSlot <;> cases how <;> rfl
  | _ => cases how <;> rfl

/-- What stays of a queue's entries when its head leaves was there before. -/
theorem noneCancelled_leftQueue (none : Claims.NoneCancelled s core) : Claims.NoneCancelled (leftQueue s core eng u e rest) core :=
  noneCancelled_setEngine none eng u fun x among =>
    (noneCancelled_iff s core).mp none eng u x (by rw [head]; exact List.mem_cons_of_mem e among)

/-- An entry that ends DONE leaves its queue, and nothing else changes but what threads are answered. -/
theorem endEntry_done (none : Claims.NoneCancelled s core) (alone : EndsAlone e) :
    OnlyAnswers (leftQueue s core eng u e rest) (endEntry s core eng u .done) := by
  have woken := onlyAnswers_wakeEngine (leftQueue s core eng u e rest) core
  rw [endEntry, popEntry_alone head alone]
  rwa [reapCore_stays (woken.headsStay (headsStay_of_noneCancelled (noneCancelled_leftQueue head none)))]

theorem endsDone_endEntry (none : Claims.NoneCancelled s core) (alone : EndsAlone e) :
    Claims.EndsDone s (endEntry s core eng u .done) core eng u e rest := by
  rw [Claims.EndsDone, (endEntry_done head none alone).engine]
  exact engine_setEngine_same ..

end

/-! ## Faults of an entry (R171) -/

theorem recordFault_threads (s : State) (core slot eng : Nat) (serial : W32) (cause : Byte) (addr : W64) :
    ∃ threads, recordFault s core slot eng serial cause addr = { s with threads := threads } := by
  simp only [recordFault]
  split
  · exact ⟨s.threads, rfl⟩
  · split
    · exact ⟨s.threads, rfl⟩
    · exact ⟨_, rfl⟩

/-- A record that holds no unreported fault takes the fault. -/
theorem faultOf_recordFault {s : State} {core slot eng : Nat} (live : slot < 16)
    (reported : ((s.thread (keyOf core slot)).faultOf eng).unreported = false) (serial : W32) (cause : Byte) (addr : W64) :
    ((recordFault s core slot eng serial cause addr).thread (keyOf core slot)).faultOf eng =
      { fser := serial, fcause := cause, faddr := addr, unreported := true } := by
  simp only [recordFault, if_neg (Nat.not_le.mpr live), reported, Bool.false_eq_true, if_false, thread_setThread_same]
  exact tget_tput_same ..

/-- An entry that ends FAULTED with no other behind it. -/
theorem endsFaulted_endEntry {s : State} {core eng : Nat} {u : Bool} {e : Entry} (head : (s.engine core eng u).entries = [e])
    (none : Claims.NoneCancelled s core) (alone : EndsAlone e) (own : u = isUrgentSlot e.slot) (cause : Byte) (addr : W64) :
    Claims.EndsFaulted s (endEntry s core eng u (.faulted cause addr)) core eng u e cause addr := by
  obtain ⟨threads, recorded⟩ := recordFault_threads (leftQueue s core eng u e []) core e.slot eng e.serial cause addr
  have queue : (recordFault (leftQueue s core eng u e []) core e.slot eng e.serial cause addr).engine core eng u =
      { s.engine core eng u with entries := [], ended := e.serial } := by
    rw [recorded]
    exact engine_setEngine_same ..
  have faulted : faultEntry (leftQueue s core eng u e []) core eng e cause addr =
      (recordFault (leftQueue s core eng u e []) core e.slot eng e.serial cause addr).setEngine core eng u
        { s.engine core eng u with entries := [], ended := e.serial } := by
    simp only [faultEntry, cancelWhere, ← own, queue, List.map_nil]
  have live : Claims.NoneCancelled (faultEntry (leftQueue s core eng u e []) core eng e cause addr) core := by
    rw [faulted, recorded]
    exact noneCancelled_setEngine (noneCancelled_leftQueue head none) eng u (fun _ among => absurd among List.not_mem_nil)
  have woken := onlyAnswers_wakeEngine (faultEntry (leftQueue s core eng u e []) core eng e cause addr) core
  have ended : endEntry s core eng u (.faulted cause addr) = wakeEngine (faultEntry (leftQueue s core eng u e []) core eng e cause addr) core := by
    rw [endEntry, popEntry_alone head alone]
    exact reapCore_stays (woken.headsStay (headsStay_of_noneCancelled live))
  rw [Claims.EndsFaulted, ended, woken.engine]
  refine ⟨by rw [faulted, engine_setEngine_same], by rw [faulted, engine_setEngine_same], fun slot reported => ?_⟩
  rw [woken.faultOf, faulted, thread_setEngine]
  exact faultOf_recordFault (s := leftQueue s core eng u e []) (by omega) reported ..

end Sys2Proof.Laws
end

section
/-! PROOFS. Engine instructions: operand checks, and the entry they enqueue (R182, R184, R185, R187, R188). -/

namespace Sys2Proof.Laws

open Sys2Proof Sys2Proof.Machine

/-! ## Parking -/

/-- A body that parks on a wait of the inside of the package parks its instruction. -/
theorem parksOn_of_run {s : State} {i : Instr} {kind : Byte} {eval : W64} (lockless : kind ≠ 0x0C)
    (runs : exec i s = run i s (.error (.park kind eval false [] []))) : Claims.ParksOn s i kind eval := by
  obtain ⟨pse, threads, frame, parked, -⟩ := parkMe_eq s kind eval i
  have ran : exec i s = .next (parkMe s kind eval i) := by
    rw [runs, run, runBody]
    exact congrArg Host.Outcome.next (if_neg lockless)
  refine ⟨_, ran, ⟨?state, ?pc, ?g, _, by rw [parked]; rfl, rfl, rfl, rfl, rfl⟩, by rw [frame]⟩
  case state => rw [parked]; rfl
  case pc => rw [parked]; exact detach_pc _
  case g => rw [parked]; exact detach_g _

/-! ## Enqueueing (R169, R170, R182) -/

/-- The enqueued job is released by a follow credit at once (R180). -/
def takesCredit (kind : EntryKind) (t : Thread) : Bool :=
  (match kind with | .job _ _ park _ _ _ _ => park | _ => false) && t.fcred != 0

/-- The acting thread's credits after its entry has been enqueued. -/
def creditsLeft (kind : EntryKind) (t : Thread) : BitVec 8 := if takesCredit kind t then t.fcred - 1 else t.fcred

/-- The acting thread has paid for its entry's release. -/
def credited (kind : EntryKind) (s : State) : State :=
  if takesCredit kind s.me then s.setMe { s.me with fcred := s.me.fcred - 1 } else s

/-- The entry an instruction of the acting thread enqueues. -/
def enqueuedEntry (s : State) (eng : Nat) (kind : EntryKind) : Entry :=
  mkEntry (slotOf s.cur) ((Claims.myQueue s eng).enq + 1) kind (takesCredit kind s.me) (s.me.faultOf eng).unreported
    ((tget [] s.me.efence eng).filter fun x => !barrierPassed s s.cur x)

/-- The queue with an entry appended. -/
def grownQueue (q : EngineQueue) (e : Entry) : EngineQueue :=
  { q with entries := q.entries ++ [e], enq := e.serial, lap := q.lap || e.serial.getLsbD 31 }

theorem engineSize_places (s : State) : engineSize (isUrgentSlot (slotOf s.cur)) = Claims.places s := by
  have slot : slotOf s.cur < 8 := Nat.mod_lt _ (by decide)
  simp only [engineSize, isUrgentSlot, beq_iff_eq, Claims.places, Nat.mod_eq_of_lt (show slotOf s.cur < 16 by omega)]

theorem credited_threads (kind : EntryKind) (s : State) : ∃ threads, credited kind s = { s with threads := threads } := by
  unfold credited
  split
  · exact ⟨_, rfl⟩
  · exact ⟨s.threads, rfl⟩

theorem me_credited (kind : EntryKind) (s : State) : (credited kind s).me = { s.me with fcred := creditsLeft kind s.me } := by
  unfold credited creditsLeft
  split
  · exact me_setMe ..
  · rfl

theorem thread_credited (kind : EntryKind) (s : State) {k : Nat} (other : s.cur ≠ k) : (credited kind s).thread k = s.thread k := by
  unfold credited
  split
  · exact thread_setMe_other s _ other
  · rfl

/-- The state once the entry stands in its queue. -/
def enqueued (s : State) (eng : Nat) (kind : EntryKind) : State :=
  (credited kind s).setEngine s.myCore eng (isUrgentSlot (slotOf s.cur)) (grownQueue (Claims.myQueue s eng) (enqueuedEntry s eng kind))

section
variable {s : State} {eng : Nat} (kind : EntryKind)

theorem enqueueEntry_room (compute : s.myCore < 1280) (room : (Claims.myQueue s eng).entries.length < Claims.places s)
    (none : Claims.NoneCancelled s s.myCore) (reported : (s.me.faultOf eng).unreported = false) :
    enqueueEntry s s.cur eng kind = some (enqueued s eng kind, (Claims.myQueue s eng).enq + 1) := by
  have free : ¬(engineSize (isUrgentSlot (slotOf s.cur)) ≤ (Claims.myQueue s eng).entries.length ∨ 1280 ≤ s.myCore) := by
    rw [engineSize_places]; omega
  have live : Claims.NoneCancelled (enqueued s eng kind) s.myCore := by
    obtain ⟨threads, frame⟩ := credited_threads kind s
    rw [enqueued, frame]
    refine noneCancelled_setEngine (s := { s with threads := threads }) none eng _ fun e among => ?_
    rcases List.mem_append.mp among with old | new
    · exact (noneCancelled_iff s s.myCore).mp none eng _ e old
    · rw [List.mem_singleton.mp new]; exact reported
  have unfolded : enqueueEntry s s.cur eng kind =
      if engineSize (isUrgentSlot (slotOf s.cur)) ≤ (Claims.myQueue s eng).entries.length ∨ 1280 ≤ s.myCore then Option.none
      else some (reapCore (enqueued s eng kind) s.myCore, (Claims.myQueue s eng).enq + 1) := rfl
  rw [unfolded, if_neg free, reapCore_stays (headsStay_of_noneCancelled live)]

theorem enqueueEntry_full (full : Claims.places s ≤ (Claims.myQueue s eng).entries.length ∨ 1280 ≤ s.myCore) :
    enqueueEntry s s.cur eng kind = Option.none := by
  rw [← engineSize_places] at full
  exact if_pos full

/-- The thread that has enqueued an entry and holds its token. -/
def tokenThread (s : State) (eng : Nat) (kind : EntryKind) (d : Reg) (words : Nat) : Thread :=
  let t := { s.me with fcred := creditsLeft kind s.me }.wg d (Claims.token eng (slotOf s.cur) ((Claims.myQueue s eng).enq + 1))
  { t with pc := t.pc + BitVec.ofNat 64 (4 * words), busy := some (s.cyc s.myCore + 6) }

theorem rg_tokenThread (d r : Reg) (words : Nat) : (tokenThread s eng kind d words).rg r =
    if r = d ∧ d ≠ 0 then Claims.token eng (slotOf s.cur) ((Claims.myQueue s eng).enq + 1) else s.me.rg r := rg_wg ..

/-- An instruction that ends by enqueueing an entry does what R169 and R170 say of it. -/
theorem enqueues_of_run {i : Instr} {d : Reg} {words : Nat} (runs : exec i s = run i s (enqueueBody s eng kind d words)) :
    Claims.Enqueues s i eng kind d words := by
  refine ⟨fun compute room none reported => ?room, fun full => parksOn_of_run (by decide) ?full⟩
  case full => rw [runs, enqueueBody, enqueueEntry_full kind full]
  case room =>
    have me : (enqueued s eng kind).me = { s.me with fcred := creditsLeft kind s.me } := me_credited kind s
    have ran : exec i s = .next ((enqueued s eng kind).setMe (tokenThread s eng kind d words)) := by
      rw [runs, enqueueBody, enqueueEntry_room kind compute room none reported]
      simp only [run, runBody, me]
      rfl
    obtain ⟨threads, frame⟩ := credited_threads kind s
    have own : ((enqueued s eng kind).setMe (tokenThread s eng kind d words)).me = tokenThread s eng kind d words := me_setMe ..
    have cur : (enqueued s eng kind).cur = s.cur := by rw [enqueued, frame]; rfl
    refine ⟨_, enqueuedEntry s eng kind, ran, ?queue, rfl, rfl, rfl, rfl, reported, rfl, ?credit, ?token, ?pc, ?busy, ?mem, ?cores, ?threads⟩
    case queue =>
      rw [Claims.myQueue, State.myCore, setMe_cur, cur, engine_setMe]
      exact engine_setEngine_same ..
    case credit => rw [own, tokenThread, wg_fcred]; rfl
    case token => intro r; rw [own]; exact rg_tokenThread ..
    case pc => rw [own, tokenThread, wg_pc]
    case busy => rw [own]; rfl
    case mem => rw [setMe_mem, enqueued, frame]; rfl
    case cores =>
      intro c other
      rw [core_setMe, enqueued, frame]
      exact core_setArch_other _ _ other.symm
    case threads =>
      intro k other
      rw [thread_setMe_other _ _ (by rw [cur]; exact other.symm), enqueued, thread_setEngine, thread_credited kind s other.symm]

end

/-! ## Operand checks -/

theorem extract_eq_zero_iff {w : Nat} (x : BitVec w) (lo n : Nat) : x.extractLsb' lo n = 0 ↔ x.toNat / 2 ^ lo % 2 ^ n = 0 := by
  rw [← BitVec.toNat_inj, BitVec.extractLsb'_toNat, Nat.shiftRight_eq_div_pow]
  rfl

theorem need_true {c : Bool} (holds : c = true) (cause : Byte) (eval : W64) : need c cause eval = .ok () := if_pos holds
theorem need_false {c : Bool} (fails : c = false) (cause : Byte) (eval : W64) : need c cause eval = .error (.trap cause eval) :=
  if_neg (by rw [fails]; decide)

/-- A body that ends in a trap traps its instruction. -/
theorem traps_of_run {s : State} {i : Instr} {cause : Byte} {eval : W64} (runs : exec i s = run i s (.error (.trap cause eval))) :
    Claims.Traps s i cause eval := fun alone => by rw [runs, run_trap i cause alone]

theorem resolveParam_of_paramIs {t : Thread} {p x : W32} (is : Claims.paramIs t p x) (n : Nat) : resolveParam t n p = .ok x := by
  unfold Claims.paramIs at is
  unfold resolveParam
  split at is
  case isTrue marker => rw [if_pos marker, if_pos is.1, is.2]
  case isFalse plain => rw [if_neg plain, is]

theorem resolveParams_of_paramIs {t : Thread} {p0 p1 p2 p3 x0 x1 x2 x3 : W32}
    (are : Claims.paramIs t p0 x0 ∧ Claims.paramIs t p1 x1 ∧ Claims.paramIs t p2 x2 ∧ Claims.paramIs t p3 x3) :
    resolveParams t p0 p1 p2 p3 = .ok (x0, x1, x2, x3) := by
  obtain ⟨is0, is1, is2, is3⟩ := are
  simp only [resolveParams, resolveParam_of_paramIs is0, resolveParam_of_paramIs is1, resolveParam_of_paramIs is2,
    resolveParam_of_paramIs is3]
  rfl

/-! ## MJOB (R182) -/

section
variable {s : State} {p0 p1 p2 p3 x0 x1 x2 x3 : W32} (params : resolveParams s.me p0 p1 p2 p3 = .ok (x0, x1, x2, x3))
  (ovr : Bool) (park : BitVec 1) (m : BitVec 2) (a : Reg)
include params

theorem mjobBody_enqueues (zero0 : x0.getLsbD 27 = false) (zero1 : x1.toNat / 2 ^ 28 = 0) (zero1' : x1.toNat / 2 ^ 21 % 16 = 0)
    (zero2 : x2.toNat / 2 ^ 23 = 0) (zero3 : x3.toNat / 2 ^ 20 = 0) :
    mjobBody ovr park m a p0 p1 p2 p3 s = enqueueBody s 1 (.job ovr m.toNat (park == 1) x0 x1 x2 x3) a 5 := by
  have fields1 : x1.extractLsb' 28 4 = 0 ∧ x1.extractLsb' 21 4 = 0 := by
    rw [extract_eq_zero_iff, extract_eq_zero_iff]; omega
  have fields2 : x2.extractLsb' 23 9 = 0 := by rw [extract_eq_zero_iff]; omega
  have fields3 : x3.extractLsb' 20 12 = 0 := by rw [extract_eq_zero_iff]; omega
  simp only [mjobBody, params, need_true (decide_eq_true zero0), need_true (decide_eq_true fields1), need_true (decide_eq_true fields2),
    need_true (decide_eq_true fields3), bind, Except.bind]

theorem mjobBody_traps (bit27 : x0.getLsbD 27 = true) :
    mjobBody ovr park m a p0 p1 p2 p3 s = .error (.trap FORMAT (s.me.pc + 4)) := by
  simp only [mjobBody, params, need_false (decide_eq_false (show ¬x0.getLsbD 27 = false by rw [bit27]; decide)), bind, Except.bind]
  rfl

end

/-! ## CPY (R187, R188) -/

/-- The value rules of R187, as the body of CPY checks them: sizes, a bobbin's number, a tile's descriptor. -/
def copySizes (rows rowb : W32) : Bool := decide (rows.toNat ≤ 65535) && decide (1 ≤ rowb.toNat) && decide (rowb.toNat ≤ 0x100000)
def bobbinRules (v : W64) (dp : W32) : Bool := decide (v.extractLsb' 4 60 = 0) && decide (dp = 0)
def tileRules (v : W64) (sp rows rowb dp : W32) : Bool :=
  let fmt := (v.extractLsb' 4 4).toNat
  decide (v.extractLsb' 8 24 = 0) && !v.getLsbD 3 && engFmt fmt && decide (v.toNat % 8 % tileBanks fmt = 0) && decide (rows = 1) &&
    decide (rowb.toNat = tileSize fmt) && decide (sp = 0) && decide (dp = 0)

theorem copyAllowed_iff (kind : BitVec 2) (v : W64) (sp rows rowb dp : W32) : Claims.CopyAllowed kind v sp rows rowb dp ↔
    copySizes rows rowb = true ∧ (kind = 1 → bobbinRules v dp = true) ∧ (kind = 2 → tileRules v sp rows rowb dp = true) := by
  have high : v.extractLsb' 4 60 = 0 ↔ v.toNat < 16 := by rw [extract_eq_zero_iff]; omega
  have fmt : (v.extractLsb' 4 4).toNat = v.toNat / 16 % 16 := by
    rw [BitVec.extractLsb'_toNat, Nat.shiftRight_eq_div_pow]
  simp only [Claims.CopyAllowed, copySizes, bobbinRules, tileRules, high, extract_eq_zero_iff v 8 24, fmt, engFmt, List.contains_iff_mem,
    Bool.and_eq_true, decide_eq_true_eq, Bool.not_eq_true', and_assoc]

section
variable {s : State} {p0 p1 p2 p3 sp rows rowb dp : W32} (params : resolveParams s.me p0 p1 p2 p3 = .ok (sp, rows, rowb, dp))
  (kind : BitVec 2) (follow : BitVec 1) (b a d : Reg)
include params

theorem cpyBody_eq : cpyBody kind follow b a d p0 p1 p2 p3 s = (do
    need (copySizes rows rowb) FORMAT s.me.pc
    if kind = 1 then need (bobbinRules (s.me.rg b) dp) FORMAT s.me.pc
    if kind = 2 then need (tileRules (s.me.rg b) sp rows rowb dp) FORMAT s.me.pc
    enqueueBody s 2 (.copy kind (follow == 1) (s.me.rg a) (s.me.rg b) (pitchOf sp rowb) rows.toNat rowb.toNat (pitchOf dp rowb)) d 5) := by
  rw [cpyBody, params]
  rfl

theorem cpyBody_enqueues (allowed : Claims.CopyAllowed kind (s.me.rg b) sp rows rowb dp) : cpyBody kind follow b a d p0 p1 p2 p3 s =
    enqueueBody s 2 (.copy kind (follow == 1) (s.me.rg a) (s.me.rg b) (pitchOf sp rowb) rows.toNat rowb.toNat (pitchOf dp rowb)) d 5 := by
  obtain ⟨sizes, bobbin, tile⟩ := (copyAllowed_iff ..).mp allowed
  rw [cpyBody_eq params, need_true sizes]
  by_cases bob : kind = 1
  · rw [if_pos bob, need_true (bobbin bob), if_neg (by rw [bob]; decide)]; rfl
  · by_cases cim : kind = 2
    · rw [if_neg bob, if_pos cim, need_true (tile cim)]; rfl
    · rw [if_neg bob, if_neg cim]; rfl

theorem cpyBody_traps (refused : ¬Claims.CopyAllowed kind (s.me.rg b) sp rows rowb dp) :
    cpyBody kind follow b a d p0 p1 p2 p3 s = .error (.trap FORMAT s.me.pc) := by
  rw [copyAllowed_iff, not_and_or, not_and_or, Classical.not_imp, Classical.not_imp] at refused
  rw [cpyBody_eq params]
  rcases refused with sizes | ⟨rfl, bobbin⟩ | ⟨rfl, tile⟩
  · rw [need_false (Bool.eq_false_iff.mpr sizes)]; rfl
  · rw [if_pos rfl, need_false (Bool.eq_false_iff.mpr bobbin)]
    cases copySizes rows rowb <;> rfl
  · rw [if_neg (by decide), if_pos rfl, need_false (Bool.eq_false_iff.mpr tile)]
    cases copySizes rows rowb <;> rfl

end

/-! ## MLDB and MRD (R184, R185) -/

theorem localRange_of_claim {t : Thread} {ea : W64} {n right o : Nat} (range : Claims.LocalRange t ea n right o) :
    localRange t ea n right = .ok o := by
  obtain ⟨aligned, ok, inside⟩ := range
  have isLocal : (t.seg (ea.extractLsb' 61 3).toNat).kind = 2 := by rw [toNat_extract_segment, seg_kind]; exact ok.1
  simp only [localRange, need_true (decide_eq_true isLocal), need_true (decide_eq_true aligned), segCheck_of_segOk ok,
    need_true (decide_eq_true inside), bind, Except.bind]
  rfl

section
variable {s : State} (f : BitVec 4) (n : BitVec 3) (c b a : Reg)

theorem enqueues_mldb {o : Nat} (firstBank : n.toNat % tileBanks f.toNat = 0)
    (range : Claims.LocalRange s.me (s.me.rg a) (tileSize f.toNat) rightR o) : Claims.Enqueues s (.mldb f c b a n) 1
      (.mldb f n.toNat o (if b = 0 then 0x3F800000 else (s.me.rg b).setWidth 32)) c 1 := by
  refine enqueues_of_run _ ?_
  change execMldb f c b a n s = _
  simp only [execMldb, need_true (decide_eq_true firstBank), localRange_of_claim range, bind, Except.bind,
    BitVec.setWidth_eq_extractLsb' (show 32 ≤ 64 by decide)]

theorem traps_mldb (otherBank : n.toNat % tileBanks f.toNat ≠ 0) : Claims.Traps s (.mldb f c b a n) FORMAT (n.setWidth 64) := by
  refine traps_of_run ?_
  change execMldb f c b a n s = _
  simp only [execMldb, need_false (decide_eq_false otherBank), bind, Except.bind]

end

/-- The value rules of MRD's g_b (R185): reserved bits, or a row past the last. -/
def badRows (v : W64) : Prop :=
  v.toNat / 2 ^ 7 % 2 = 1 ∨ v.toNat / 2 ^ 15 % 2 = 1 ∨ 2 ^ 18 ≤ v.toNat ∨ 128 < v.toNat % 128 + (v.toNat / 2 ^ 8 % 128 + 1)

theorem first_row (v : W64) : (v.extractLsb' 0 7).toNat = v.toNat % 128 := BitVec.extractLsb'_toNat ..
theorem row_count (v : W64) : (v.extractLsb' 8 7).toNat = v.toNat / 2 ^ 8 % 128 := by
  rw [BitVec.extractLsb'_toNat, Nat.shiftRight_eq_div_pow]

theorem getLsbD_eq_false_iff {w : Nat} (x : BitVec w) (k : Nat) : x.getLsbD k = false ↔ x.toNat / 2 ^ k % 2 = 0 := by
  rw [BitVec.getLsbD, Nat.testBit_eq_decide_div_mod_eq, decide_eq_false_iff_not, ← ne_eq, Nat.mod_two_ne_one]

theorem rowRules_iff (v : W64) : (v.getLsbD 7 = false ∧ v.getLsbD 15 = false ∧ v.extractLsb' 18 46 = 0 ∧
    (v.extractLsb' 0 7).toNat + ((v.extractLsb' 8 7).toNat + 1) ≤ 128) ↔ ¬badRows v := by
  rw [first_row, row_count, getLsbD_eq_false_iff, getLsbD_eq_false_iff, extract_eq_zero_iff, badRows]
  omega

section
variable {s : State} (c b a : Reg) (m : BitVec 2)

theorem traps_mrd (bad : badRows (s.me.rg b)) : Claims.Traps s (.mrd c b a m) FORMAT (s.me.rg b) := by
  refine traps_of_run ?_
  change execMrd c b a m s = _
  simp only [execMrd, need_false (decide_eq_false (mt (rowRules_iff (s.me.rg b)).mp (not_not.mpr bad))), bind, Except.bind]

theorem enqueues_mrd {o : Nat} (good : ¬badRows (s.me.rg b)) (range : Claims.LocalRange s.me (s.me.rg a)
      (((s.me.rg b).toNat / 2 ^ 8 % 128 + 1) * (if (s.me.rg b).getLsbD 16 then 256 else 512)) rightW o) :
    Claims.Enqueues s (.mrd c b a m) 1 (.mrd m.toNat ((s.me.rg b).toNat % 128) ((s.me.rg b).toNat / 2 ^ 8 % 128 + 1)
      ((s.me.rg b).getLsbD 16) ((s.me.rg b).getLsbD 17) o) c 1 := by
  refine enqueues_of_run _ ?_
  change execMrd c b a m s = _
  have rules := need_true (decide_eq_true ((rowRules_iff (s.me.rg b)).mpr good)) FORMAT (s.me.rg b)
  rw [first_row, row_count] at rules
  simp only [execMrd, first_row, row_count, rules, localRange_of_claim range, bind, Except.bind]

end

/-! ## The statement -/

theorem exec_copyInstr {kind : BitVec 2} (isKind : kind ≠ 3) (follow : BitVec 1) (b a d : Reg) (p0 p1 p2 p3 : W32) (s : State) :
    exec (Claims.copyInstr kind follow b a d p0 p1 p2 p3) s =
      run (Claims.copyInstr kind follow b a d p0 p1 p2 p3) s (cpyBody kind follow b a d p0 p1 p2 p3 s) := by
  have kinds : kind = 0 ∨ kind = 1 ∨ kind = 2 := by revert isKind; revert kind; decide
  rcases kinds with rfl | rfl | rfl <;> rfl

/-- Settles O19: each instruction's body is a check of its operands, and then the enqueueing of its entry. -/
theorem engineInstructionsEnqueueEntries : Obligations.EngineInstructionsEnqueueEntries := by
  intro s m park follow a b c d p0 p1 p2 p3 x0 x1 x2 x3
  refine ⟨fun are => ?params, fun f n o => ⟨traps_mldb f n c b a, enqueues_mldb f n c b a⟩, enqueues_of_run _ rfl,
    traps_mrd c b a m, fun o => enqueues_mrd c b a m⟩
  case params =>
    have params := resolveParams_of_paramIs are
    refine ⟨fun i ovr listed => ?mjob, fun kind isKind => ?cpy⟩
    case mjob =>
      have runs : exec i s = run i s (mjobBody ovr park m a p0 p1 p2 p3 s) := by
        rcases List.mem_pair.mp listed with h | h <;> obtain ⟨rfl, rfl⟩ := Prod.mk.inj h <;> rfl
      refine ⟨fun zero0 zero1 zero1' zero2 zero3 => enqueues_of_run _ ?_, fun bit27 => traps_of_run ?_⟩
      · rw [runs, mjobBody_enqueues params ovr park m a zero0 zero1 zero1' zero2 zero3]
      · rw [runs, mjobBody_traps params ovr park m a bit27]
    case cpy =>
      refine ⟨fun allowed => enqueues_of_run _ ?_, fun refused => traps_of_run ?_⟩
      · rw [exec_copyInstr isKind, cpyBody_enqueues params kind follow b a d allowed]
        rfl
      · rw [exec_copyInstr isKind, cpyBody_traps params kind follow b a d refused]

end Sys2Proof.Laws
end

section
/-! PROOFS. MSTAT, EWAIT, EFENCE and ECANCEL (R186, R190, R192). -/

namespace Sys2Proof.Laws

open Sys2Proof Sys2Proof.Machine

/-! ## MSTAT (R186) -/

/-- The number of the matrix status word, from its fields. -/
def statusNumber (fcred ofl nan bval bload slot len state : Nat) : Nat :=
  fcred * 2 ^ 40 + ofl * 2 ^ 36 + nan * 2 ^ 32 + bval * 2 ^ 24 + bload * 2 ^ 16 + slot * 16 + len * 4 + state

theorem statusNumber_fields {fcred ofl nan bval bload slot len state : Nat} (fcredFits : fcred < 256) (oflFits : ofl < 16)
    (nanFits : nan < 16) (bvalFits : bval < 256) (bloadFits : bload < 256) (slotFits : slot < 8) (lenFits : len < 4) (stateFits : state < 4) :
    let n := statusNumber fcred ofl nan bval bload slot len state
    n < 2 ^ 48 ∧ n % 4 = state ∧ n / 4 % 4 = len ∧ n / 16 % 8 = slot ∧ n / 2 ^ 24 % 2 ^ 8 = bval ∧ n / 2 ^ 32 % 16 = nan ∧
      n / 2 ^ 36 % 16 = ofl ∧ n / 2 ^ 40 % 256 = fcred := by
  simp only [statusNumber]
  omega

theorem bankBits_lt (l : List Nat) : bankBits l < 2 ^ 8 := (upTo_mask l.contains 8).1

theorem testBit_bankBits (l : List Nat) {k : Nat} (bank : k < 8) : (bankBits l).testBit k = l.contains k := by
  rw [bankBits, (upTo_mask l.contains 8).2 k, decide_eq_true bank, Bool.true_and]

theorem headState_lt (q : EngineQueue) : headState q < 4 := by
  unfold headState
  split
  · decide
  · split_ifs <;> decide

theorem headState_paused {q : EngineQueue} {e : Entry} {rest : List Entry} (head : q.entries = e :: rest) :
    headState q = 3 ↔ e.state = .paused := by
  simp only [headState, head]
  split_ifs <;> simp_all

/-- The matrix status word of a thread and a core. -/
def matrixStatus (t : Thread) (a : CoreArch) : Nat :=
  statusNumber t.fcred.toNat a.accOfl.toNat a.accNan.toNat (bankBits (a.tiles.map (·.1)))
    (bankBits ((loadingEntries a).flatMap loadBanks)) (headSlot a.mq) a.mq.entries.length (headState a.mq)

theorem mstatWord_zero (s : State) : mstatWord s s.cur 0 = BitVec.ofNat 64 (matrixStatus s.me (s.arch s.myCore)) := rfl

section
variable {a : CoreArch} (slots : ∀ e ∈ a.mq.entries, e.slot < 8)
include slots

theorem headSlot_cons {e : Entry} {r : List Entry} (head : a.mq.entries = e :: r) : headSlot a.mq = e.slot := by
  have := slots e (by rw [head]; exact List.mem_cons_self)
  simp only [headSlot, head, List.head?_cons, Option.map_some, Option.getD_some]
  omega

theorem headSlot_lt : headSlot a.mq < 8 := by
  cases queue : a.mq.entries with
  | nil => simp [headSlot, queue]
  | cons e r =>
    rw [headSlot_cons slots queue]
    exact slots e (by rw [queue]; exact List.mem_cons_self)

/-- The fields of the matrix status word, with at most two entries of ordinary slots. -/
theorem matrixStatus_fields (t : Thread) (short : a.mq.entries.length ≤ 2) {w : W64} (word : w = BitVec.ofNat 64 (matrixStatus t a)) :
    w.toNat / 4 % 4 = a.mq.entries.length ∧
      (∀ e r, a.mq.entries = e :: r → w.toNat / 16 % 8 = e.slot ∧ (w.toNat % 4 = 3 ↔ e.state = .paused)) ∧
      w.toNat / 2 ^ 40 % 256 = t.fcred.toNat ∧ w.toNat / 2 ^ 36 % 16 = a.accOfl.toNat ∧ w.toNat / 2 ^ 32 % 16 = a.accNan.toNat ∧
      (∀ k < 8, w.getLsbD (24 + k) = a.tiles.any (fun x => x.1 == k)) ∧ w.toNat / 2 ^ 48 = 0 := by
  obtain ⟨fits, state, len, slot, bval, nan, ofl, fcred⟩ := statusNumber_fields t.fcred.isLt a.accOfl.isLt a.accNan.isLt
    (bankBits_lt (a.tiles.map (·.1))) (bankBits_lt ((loadingEntries a).flatMap loadBanks)) (headSlot_lt slots)
    (by omega : a.mq.entries.length < 4) (headState_lt a.mq)
  rw [← matrixStatus] at fits state len slot bval nan ofl fcred
  have number : w.toNat = matrixStatus t a := by
    rw [word, BitVec.toNat_ofNat, Nat.mod_eq_of_lt (Nat.lt_trans fits (by decide))]
  rw [number]
  refine ⟨len, fun e r head => ⟨by rw [slot, headSlot_cons slots head], by rw [state, headState_paused head]⟩, fcred, ofl, nan,
    fun k bank => ?_, Nat.div_eq_of_lt fits⟩
  have bit : w.getLsbD (24 + k) = (w.toNat / 2 ^ 24 % 2 ^ 8).testBit k := by
    rw [BitVec.getLsbD, Nat.testBit_mod_two_pow, Nat.testBit_div_two_pow, decide_eq_true bank, Bool.true_and, Nat.add_comm]
  rw [bit, number, bval, testBit_bankBits _ bank, List.contains_eq_any_beq, List.any_map]
  simp only [Function.comp_def, Bool.beq_comm]

end

/-- The word of a fault record (R186). -/
theorem faultWord_fields (r : EngineFault) :
    let w : W64 := r.fser ++ 0#23 ++ BitVec.ofBool r.unreported ++ r.fcause
    w.toNat % 256 = r.fcause.toNat ∧ w.getLsbD 8 = r.unreported ∧ w.toNat / 2 ^ 32 = r.fser.toNat := by
  intro w
  have number : w.toNat = r.fser.toNat * 2 ^ 32 + r.unreported.toNat * 2 ^ 8 + r.fcause.toNat := by
    simp only [w, toNat_append_eq, BitVec.toNat_ofBool, BitVec.toNat_ofNat]
    omega
  have cause := r.fcause.isLt
  have flag := Bool.toNat_lt r.unreported
  refine ⟨by rw [number]; omega, ?_, by rw [number]; omega⟩
  rw [BitVec.getLsbD, Nat.testBit_eq_decide_div_mod_eq, number,
    show (r.fser.toNat * 2 ^ 32 + r.unreported.toNat * 2 ^ 8 + r.fcause.toNat) / 2 ^ 8 % 2 = r.unreported.toNat by omega]
  cases r.unreported <;> rfl

/-- MSTAT's word for each selector. -/
theorem mstat_words (s : State) (a d : Reg) :
    let tok := s.me.rg a
    let A := s.arch s.myCore
    ∃ w : W64, exec (.mstat a d) s = Claims.regEnd s d w 6 ∧
      (tok = 0 → A.mq.entries.length ≤ 2 → (∀ e ∈ A.mq.entries, e.slot < 8) → w.toNat / 4 % 4 = A.mq.entries.length ∧
        (∀ e r, A.mq.entries = e :: r → w.toNat / 16 % 8 = e.slot ∧ (w.toNat % 4 = 3 ↔ e.state = .paused)) ∧
        w.toNat / 2 ^ 40 % 256 = s.me.fcred.toNat ∧ w.toNat / 2 ^ 36 % 16 = A.accOfl.toNat ∧ w.toNat / 2 ^ 32 % 16 = A.accNan.toNat ∧
        (∀ k < 8, w.getLsbD (24 + k) = A.tiles.any (fun x => x.1 == k)) ∧ w.toNat / 2 ^ 48 = 0) ∧
      (∀ eng, tok.toNat = eng + 1 → eng = 1 ∨ eng = 2 → w.toNat % 256 = (s.me.faultOf eng).fcause.toNat ∧
        w.getLsbD 8 = (s.me.faultOf eng).unreported ∧ w.toNat / 2 ^ 32 = (s.me.faultOf eng).fser.toNat) ∧
      (tok = 4 → w = (s.me.faultOf 1).faddr) ∧ (tok = 5 → w = (s.me.faultOf 2).faddr) ∧ (6 ≤ tok.toNat → w = 0) := by
  intro tok A
  refine ⟨mstatWord s s.cur tok, rfl, fun zero short slots => ?status, fun eng selects engine => ?record, fun four => ?four, fun five => ?five,
    fun other => ?other⟩
  case status => exact matrixStatus_fields slots s.me short (by rw [zero, mstatWord_zero])
  case record =>
    have word : mstatWord s s.cur tok = (s.me.faultOf eng).fser ++ 0#23 ++ BitVec.ofBool (s.me.faultOf eng).unreported ++
        (s.me.faultOf eng).fcause := by
      rcases engine with rfl | rfl <;> (unfold mstatWord; rw [selects]; rfl)
    rw [word]
    exact faultWord_fields _
  case four => rw [four]; rfl
  case five => rw [five]; rfl
  case other =>
    unfold mstatWord
    obtain ⟨n, selects⟩ : ∃ n, tok.toNat = n + 6 := ⟨_, (Nat.sub_add_cancel other).symm⟩
    rw [selects]
    rfl

/-! ## Tokens (R170) -/

theorem toNat_token {eng slot : Nat} (engine : eng = 1 ∨ eng = 2) (ordinary : slot < 8) (serial : W32) :
    (Claims.token eng slot serial).toNat = eng * 2 ^ 38 + slot * 2 ^ 35 + serial.toNat := by
  have := serial.isLt
  rw [Claims.token, BitVec.toNat_ofNat, Nat.mod_eq_of_lt (by omega)]

theorem readToken_of_fields {t : W64} (high : t.extractLsb' 40 24 = 0) (low : t.extractLsb' 32 3 = 0)
    (engine : (t.extractLsb' 38 2).toNat = 1 ∨ (t.extractLsb' 38 2).toNat = 2) :
    readToken t = .ok ((t.extractLsb' 38 2).toNat, (t.extractLsb' 35 3).toNat, t.extractLsb' 0 32) := by
  rw [readToken, need_true (decide_eq_true ⟨high, low, engine⟩)]
  rfl

theorem readToken_token {t : W64} {eng slot : Nat} {serial : W32} (engine : eng = 1 ∨ eng = 2) (ordinary : slot < 8)
    (token : t = Claims.token eng slot serial) : readToken t = .ok (eng, slot, serial) := by
  have number : t.toNat = eng * 2 ^ 38 + slot * 2 ^ 35 + serial.toNat := by rw [token, toNat_token engine ordinary]
  have small := serial.isLt
  have engField : (t.extractLsb' 38 2).toNat = eng := by
    rw [BitVec.extractLsb'_toNat, Nat.shiftRight_eq_div_pow, number]; omega
  have slotField : (t.extractLsb' 35 3).toNat = slot := by
    rw [BitVec.extractLsb'_toNat, Nat.shiftRight_eq_div_pow, number]; omega
  have serialField : t.extractLsb' 0 32 = serial := by
    apply BitVec.eq_of_toNat_eq
    rw [BitVec.extractLsb'_toNat, Nat.shiftRight_eq_div_pow, number]; omega
  have fields := readToken_of_fields (t := t) (by rw [extract_eq_zero_iff, number]; omega) (by rw [extract_eq_zero_iff, number]; omega)
    (by rw [engField]; exact engine)
  rwa [engField, slotField, serialField] at fields

theorem readToken_malformed {t : W64}
    (bad : 2 ^ 40 ≤ t.toNat ∨ t.toNat / 2 ^ 32 % 8 ≠ 0 ∨ t.toNat / 2 ^ 38 = 0 ∨ t.toNat / 2 ^ 38 = 3) :
    readToken t = .error (.trap FORMAT t) := by
  have engField : (t.extractLsb' 38 2).toNat = t.toNat / 2 ^ 38 % 4 := by
    rw [BitVec.extractLsb'_toNat, Nat.shiftRight_eq_div_pow]
  have fixed : ¬(t.extractLsb' 40 24 = 0 ∧ t.extractLsb' 32 3 = 0 ∧ ((t.extractLsb' 38 2).toNat = 1 ∨ (t.extractLsb' 38 2).toNat = 2)) := by
    rw [extract_eq_zero_iff, extract_eq_zero_iff, engField]
    have := t.isLt
    omega
  simp only [readToken, need_false (decide_eq_false fixed), bind, Except.bind]

theorem traps_malformedToken {s : State} {i : Instr} {a d : Reg} (named : i = .ewait a d ∨ i = .ecancel a d)
    (bad : 2 ^ 40 ≤ (s.me.rg a).toNat ∨ (s.me.rg a).toNat / 2 ^ 32 % 8 ≠ 0 ∨ (s.me.rg a).toNat / 2 ^ 38 = 0 ∨ (s.me.rg a).toNat / 2 ^ 38 = 3) :
    Claims.Traps s i FORMAT (s.me.rg a) := by
  refine traps_of_run ?_
  rcases named with rfl | rfl
  · change execEwait a d s = _
    rw [execEwait, readToken_malformed bad]
    rfl
  · change execEcancel a d s = _
    rw [execEcancel, readToken_malformed bad]
    rfl

theorem serialEnded_iff (q : EngineQueue) (serial : W32) : serialEnded q serial = true ↔
    (q.ended - serial).toNat < 2 ^ 31 ∨ (q.lap = true ∧ (q.enq - q.ended).toNat < (serial - q.ended).toNat) := by
  simp only [serialEnded, Bool.or_eq_true, Bool.and_eq_true, decide_eq_true_eq]

/-! ## EWAIT (R190) -/

/-- The thread once EWAIT has marked its slot's fault as reported. -/
def reportedThread (t : Thread) (eng : Nat) : Thread :=
  { t with efault := tput t.efault eng { t.faultOf eng with unreported := false } }

theorem faultOf_reportedThread (t : Thread) (eng : Nat) :
    (reportedThread t eng).faultOf eng = { t.faultOf eng with unreported := false } := tget_tput_same ..

section
variable {s : State} {a d : Reg} {eng slot : Nat} {serial : W32} (token : readToken (s.me.rg a) = .ok (eng, slot, serial))
include token

theorem ewait_parks (runs : serialEnded (s.engine s.myCore eng (isUrgentSlot slot)) serial = false) :
    Claims.ParksOn s (.ewait a d) 0x0A (a.setWidth 64) := by
  refine parksOn_of_run (by decide) ?_
  change execEwait a d s = _
  simp only [execEwait, token, runs, bind, Except.bind, Bool.not_false, if_true]

section
variable (ended : serialEnded (s.engine s.myCore eng (isUrgentSlot slot)) serial = true)
include ended

theorem ewait_silent (silent : ¬(slot = slotOf s.cur ∧ (s.me.faultOf eng).unreported = true ∧ (serial - (s.me.faultOf eng).fser).toNat < 2 ^ 31)) :
    exec (.ewait a d) s = Claims.regEnd s d 0 6 := by
  change execEwait a d s = _
  simp only [execEwait, token, ended, bind, Except.bind, Bool.not_true, Bool.false_eq_true, if_false]
  exact congrArg (run _ s) (if_neg silent)

variable (reports : slot = slotOf s.cur ∧ (s.me.faultOf eng).unreported = true ∧ (serial - (s.me.faultOf eng).fser).toNat < 2 ^ 31)
include reports

theorem ewait_reports (named : d ≠ 0) : exec (.ewait a d) s = .next (s.finish ((reportedThread s.me eng).wg d
    ((s.me.faultOf eng).fser ++ 0#22 ++ BitVec.ofNat 2 eng ++ (s.me.faultOf eng).fcause)) 6) := by
  change execEwait a d s = _
  simp only [execEwait, token, ended, bind, Except.bind, Bool.not_true, Bool.false_eq_true, if_false]
  exact congrArg (run _ s) ((if_pos reports).trans (if_pos named))

theorem ewait_traps (alone : twinLag s s.cur = false) (nowhere : d = 0) :
    exec (.ewait a d) s = .next (trapMe (s.setMe (reportedThread s.me eng)) ENGINE (s.me.faultOf eng).faddr) := by
  change execEwait a d s = _
  simp only [execEwait, token, ended, bind, Except.bind, Bool.not_true, Bool.false_eq_true, if_false]
  refine congrArg (run _ s) ((if_pos reports).trans ((if_neg (not_not.mpr nowhere)).trans (if_neg ?_)))
  rw [alone]
  decide

end

end

/-- The report of a fault in g_d (R190). -/
theorem toNat_faultReport (r : EngineFault) {eng : Nat} (engine : eng = 1 ∨ eng = 2) :
    ((r.fser ++ 0#22 ++ BitVec.ofNat 2 eng ++ r.fcause : W64)).toNat = r.fser.toNat * 2 ^ 32 + eng * 2 ^ 8 + r.fcause.toNat := by
  simp only [toNat_append_eq, BitVec.toNat_ofNat]
  omega

/-! ## ECANCEL (R181, R190) -/

/-- The entry as a cancellation of those that pass a test leaves it. -/
def markedEntry (p : Entry → Bool) (e : Entry) : Entry := if p e then { e with cancelled := true } else e

theorem engine_cancelWhere (s : State) (core eng : Nat) (u : Bool) (p : Entry → Bool) : (cancelWhere s core eng u p).engine core eng u =
    { s.engine core eng u with entries := (s.engine core eng u).entries.map (markedEntry p) } := engine_setEngine_same ..

theorem markedEntry_missed {p : Entry → Bool} {e : Entry} (missed : p e = false) : markedEntry p e = e :=
  if_neg (by rw [missed]; decide)
theorem markedEntry_hit {p : Entry → Bool} {e : Entry} (hit : p e = true) : markedEntry p e = { e with cancelled := true } := if_pos hit

section
variable {s : State} {core eng : Nat} {u : Bool}

/-- A cancellation whose head still has work in its pipe, or is not meant, reaps nothing at once. -/
theorem reapCore_cancelWhere {p : Entry → Bool} (none : Claims.NoneCancelled s core)
    (busy : ∀ e ∈ (s.engine core eng u).entries.head?, p e = true → e.pipe ≠ []) :
    reapCore (cancelWhere s core eng u p) core = cancelWhere s core eng u p := by
  refine reapCore_stays fun eng' u' e head => ?_
  by_cases same : (eng = 1 ↔ eng' = 1) ∧ u = u'
  · obtain ⟨engine, rfl⟩ := same
    have queue : (cancelWhere s core eng u p).engine core eng' u = (cancelWhere s core eng u p).engine core eng u := by
      simp only [State.engine, CoreArch.queue, engine]
    rw [queue, engine_cancelWhere, List.head?_map] at head
    obtain ⟨x, first, rfl⟩ := Option.mem_map.mp head
    cases hit : p x with
    | true => rw [markedEntry_hit hit, Entry.reapable]; simpa using busy x first hit
    | false =>
      rw [markedEntry_missed hit, Entry.reapable,
        (noneCancelled_iff s core).mp none eng u x (List.mem_of_mem_head? first)]
      rfl
  · rw [cancelWhere, engine_setEngine_other _ _ _ _ _ same] at head
    exact headsStay_of_noneCancelled none eng' u' e head

/-- The only entry of its queue, cancelled with nothing in its pipe, leaves it; every other queue's head stays. -/
theorem reapCore_single {e : Entry} (engine : eng = 1 ∨ eng = 2) (head : (s.engine core eng u).entries = [e]) (reapable : e.reapable = true)
    (alone : EndsAlone e) (others : ∀ eng' u', ¬((eng = 1 ↔ eng' = 1) ∧ u = u') →
      ∀ x ∈ (s.engine core eng' u').entries.head?, x.reapable = false) :
    OnlyAnswers (leftQueue s core eng u e []) (reapCore s core) := by
  have woken := onlyAnswers_wakeEngine (leftQueue s core eng u e []) core
  have gone : (leftQueue s core eng u e []).engine core eng u = { s.engine core eng u with entries := [], ended := e.serial } :=
    engine_setEngine_same ..
  have stay : HeadsStay (wakeEngine (leftQueue s core eng u e []) core) core := woken.headsStay fun eng' u' x first => by
    by_cases same : (eng = 1 ↔ eng' = 1) ∧ u = u'
    · obtain ⟨engine, rfl⟩ := same
      have queue : (leftQueue s core eng u e []).engine core eng' u = (leftQueue s core eng u e []).engine core eng u := by
        simp only [State.engine, CoreArch.queue, engine]
      rw [queue, gone] at first
      cases first
    · rw [leftQueue, engine_setEngine_other _ _ _ _ _ same] at first
      exact others eng' u' same x first
  have reaped : reapQueue 2 s core eng u = wakeEngine (leftQueue s core eng u e []) core := by
    rw [reapQueue, head]
    simp only [reapable, if_true]
    rw [popEntry_alone head alone]
    exact reapQueue_stays (stay eng u) 1
  have ends : reapCore s core = wakeEngine (leftQueue s core eng u e []) core := by
    rcases engine with rfl | rfl <;> cases u
    case inl.false =>
      rw [reapCore, reapQueue_stays (others 2 false (by decide)), reapQueue_stays (others 2 true (by decide)), reaped,
        reapQueue_stays (stay 1 true)]
    case inl.true =>
      rw [reapCore, reapQueue_stays (others 2 false (by decide)), reapQueue_stays (others 2 true (by decide)),
        reapQueue_stays (others 1 false (by decide)), reaped]
    case inr.false =>
      simp only [reapCore, reaped, reapQueue_stays (stay _ _)]
    case inr.true =>
      simp only [reapCore, reapQueue_stays (others 2 false (by decide)), reaped, reapQueue_stays (stay _ _)]
  rwa [ends]

end

/-- The entries ECANCEL stops: the token's and every later one of the slot (R190). -/
def laterEntry (slot : Nat) (serial : W32) (e : Entry) : Bool := e.slot == slot && decide ((e.serial - serial).toNat < 2 ^ 31)

/-- The core once the entries have been marked, and those that can have left. -/
def afterCancel (s : State) (eng slot : Nat) (serial : W32) : State :=
  reapCore (cancelWhere s s.myCore eng (isUrgentSlot slot) (laterEntry slot serial)) s.myCore

/-- ECANCEL while a stopped entry has work in its pipe. -/
def cancellingThread (s t : State) (i : Instr) (n : Nat) : Thread :=
  { t.me with
    wait := some { kind := 0, eval := 0, deadline := none, remote := none, instr := i, taken := [], sent := true, aux := n, reply := none },
    busy := some (s.cyc s.myCore + 6) }

section
variable {s : State} {a d : Reg} {eng slot : Nat} {serial : W32} (token : readToken (s.me.rg a) = .ok (eng, slot, serial))
include token

theorem ecancel_other (other : slot ≠ slotOf s.cur) : exec (.ecancel a d) s = Claims.regEnd s d 0 6 := by
  change execEcancel a d s = _
  simp only [execEcancel, token, bind, Except.bind, if_pos other]
  rfl

theorem ecancel_own (own : slot = slotOf s.cur) : exec (.ecancel a d) s =
    let n := ((s.engine s.myCore eng (isUrgentSlot slot)).entries.filter (laterEntry slot serial)).length
    let t := afterCancel s eng slot serial
    .next (if (t.engine s.myCore eng (isUrgentSlot slot)).entries.any (fun e => laterEntry slot serial e && !e.pipe.isEmpty) then
        t.setMe (cancellingThread s t (.ecancel a d) n)
      else t.finishG d (BitVec.ofNat 64 n) 6) := by
  change execEcancel a d s = _
  simp only [execEcancel, token, bind, Except.bind, own, ne_eq, not_true_eq_false, if_false]
  split
  case isTrue busy => exact congrArg Host.Outcome.next (if_pos busy).symm
  case isFalse idle => exact congrArg Host.Outcome.next (if_neg idle).symm

end

section
variable {s : State} {a d : Reg} {eng slot : Nat} {serial : W32} {t : State}

/-- The queue the token names. -/
abbrev tokenQueue (s : State) (eng slot : Nat) : EngineQueue := s.engine s.myCore eng (isUrgentSlot slot)

/-- What ECANCEL counts: the entries it stops. -/
abbrev stoppedEntries (s : State) (eng slot : Nat) (serial : W32) : Nat := ((tokenQueue s eng slot).entries.filter (laterEntry slot serial)).length

section
variable (ran : exec (.ecancel a d) s = .next (t.finishG d (BitVec.ofNat 64 (stoppedEntries s eng slot serial)) 6))
include ran

/-- ECANCEL that completes at once has its count in g_d and goes on at the next word. -/
theorem ecancel_completes (answered : Answered s.me t.me) {n : Nat} (counted : stoppedEntries s eng slot serial = n) :
    ∃ t', exec (.ecancel a d) s = .next t' ∧ (∀ eng' u, t'.engine s.myCore eng' u = t.engine s.myCore eng' u) ∧
      (d ≠ 0 → t'.me.rg d = BitVec.ofNat 64 n) ∧ t'.me.pc = s.me.pc + 4 := by
  obtain ⟨wait, deferred, same⟩ := answered
  refine ⟨_, ran, fun _ _ => rfl, fun named => ?_, ?_⟩
  · rw [me_finishG, rg_adv, rg_wg_same _ _ _ named, counted]
  · rw [me_finishG, adv_pc, wg_pc, same]

end

section
variable (token : readToken (s.me.rg a) = .ok (eng, slot, serial)) (own : slot = slotOf s.cur)
include token own

theorem ecancel_waits (left : afterCancel s eng slot serial = t)
    (busy : (tokenQueue t eng slot).entries.any (fun e => laterEntry slot serial e && !e.pipe.isEmpty) = true) (core : t.myCore = s.myCore) :
    exec (.ecancel a d) s = .next (t.setMe (cancellingThread s t (.ecancel a d) (stoppedEntries s eng slot serial))) := by
  rw [tokenQueue, core] at busy
  rw [ecancel_own token own, left]
  exact congrArg Host.Outcome.next (if_pos busy)

theorem ecancel_ends (left : afterCancel s eng slot serial = t)
    (idle : (tokenQueue t eng slot).entries.any (fun e => laterEntry slot serial e && !e.pipe.isEmpty) = false) (core : t.myCore = s.myCore) :
    exec (.ecancel a d) s = .next (t.finishG d (BitVec.ofNat 64 (stoppedEntries s eng slot serial)) 6) := by
  rw [tokenQueue, core] at idle
  rw [ecancel_own token own, left]
  exact congrArg Host.Outcome.next (if_neg (by rw [idle]; decide))

variable (none : Claims.NoneCancelled s s.myCore)
include none

theorem ecancel_nothing (missed : (tokenQueue s eng slot).entries.any (laterEntry slot serial) = false) :
    ∃ t, exec (.ecancel a d) s = .next t ∧ t.me.rg d = 0 ∧ t.me.pc = s.me.pc + 4 ∧
      t.engine s.myCore eng (isUrgentSlot slot) = tokenQueue s eng slot := by
  have each : ∀ e ∈ (tokenQueue s eng slot).entries, laterEntry slot serial e = false := by
    simpa only [List.any_eq_false, Bool.not_eq_true] using missed
  have kept := reapCore_cancelWhere (s := s) (core := s.myCore) (eng := eng) (u := isUrgentSlot slot) (p := laterEntry slot serial) none
    fun e first hit => absurd hit (by rw [each e (List.mem_of_mem_head? first)]; decide)
  have queue : tokenQueue (cancelWhere s s.myCore eng (isUrgentSlot slot) (laterEntry slot serial)) eng slot = tokenQueue s eng slot := by
    refine (engine_cancelWhere ..).trans ?_
    rw [List.map_congr_left fun e among => markedEntry_missed (each e among), List.map_id']
  have idle : (tokenQueue s eng slot).entries.any (fun e => laterEntry slot serial e && !e.pipe.isEmpty) = false := by
    simp only [List.any_eq_false]
    intro e among
    simp [each e among]
  have zero : stoppedEntries s eng slot serial = 0 := by
    rw [stoppedEntries, List.filter_eq_nil_iff.mpr fun e among => by rw [each e among]; decide]
    rfl
  obtain ⟨t, ran, engines, count, pc⟩ := ecancel_completes (ecancel_ends (d := d) token own kept (by rw [queue]; exact idle) rfl) (.refl _) zero
  refine ⟨t, ran, ?_, pc, ?_⟩
  · by_cases nowhere : d = 0
    · rw [nowhere, rg_zero]
    · exact count nowhere
  · exact (engines ..).trans queue

theorem ecancel_headBusy {e : Entry} {rest : List Entry} (head : (tokenQueue s eng slot).entries = e :: rest)
    (hit : laterEntry slot serial e = true) (busy : e.pipe ≠ []) :
    ∃ t, exec (.ecancel a d) s = .next t ∧ t.me.pc = s.me.pc ∧ t.me.busy = some (s.cyc s.myCore + 6) ∧
      (t.engine s.myCore eng (isUrgentSlot slot)).entries = (tokenQueue s eng slot).entries.map (markedEntry (laterEntry slot serial)) := by
  have kept := reapCore_cancelWhere (s := s) (core := s.myCore) (eng := eng) (u := isUrgentSlot slot) (p := laterEntry slot serial) none
    fun x first _ => by rw [head] at first; cases first; exact busy
  have queue := congrArg EngineQueue.entries (engine_cancelWhere s s.myCore eng (isUrgentSlot slot) (laterEntry slot serial))
  refine ⟨_, ecancel_waits (d := d) token own kept ?_ rfl, ?_, ?_, ?_⟩
  · refine (congrArg (List.any · _) queue).trans ?_
    rw [head, List.map_cons, List.any_cons, markedEntry_hit hit]
    have : laterEntry slot serial { e with cancelled := true } = true := hit
    simp [this, busy]
  · rw [me_setMe]; rfl
  · rw [me_setMe]; rfl
  · exact queue

theorem ecancel_second {e0 e : Entry} (entries : (tokenQueue s eng slot).entries = [e0, e]) (missed : laterEntry slot serial e0 = false)
    (hit : laterEntry slot serial e = true) (idle : e.pipe = []) :
    ∃ t, exec (.ecancel a d) s = .next t ∧ (t.engine s.myCore eng (isUrgentSlot slot)).entries = [e0, { e with cancelled := true }] ∧
      (d ≠ 0 → t.me.rg d = 1) ∧ t.me.pc = s.me.pc + 4 := by
  have kept := reapCore_cancelWhere (s := s) (core := s.myCore) (eng := eng) (u := isUrgentSlot slot) (p := laterEntry slot serial) none
    fun x first also => by rw [entries] at first; cases first; rw [missed] at also; cases also
  have queue : (tokenQueue (cancelWhere s s.myCore eng (isUrgentSlot slot) (laterEntry slot serial)) eng slot).entries =
      [e0, { e with cancelled := true }] := by
    refine (congrArg EngineQueue.entries (engine_cancelWhere ..)).trans ?_
    rw [entries, List.map_cons, List.map_cons, markedEntry_missed missed, markedEntry_hit hit, List.map_nil]
  have one : stoppedEntries s eng slot serial = 1 := by
    rw [stoppedEntries, entries, List.filter_cons_of_neg (by rw [missed]; decide), List.filter_cons_of_pos hit]
    rfl
  obtain ⟨t, ran, engines, count, pc⟩ := ecancel_completes (ecancel_ends (d := d) token own kept (by rw [queue]; simp [missed, idle]) rfl) (.refl _) one
  exact ⟨t, ran, by rw [engines]; exact queue, count, pc⟩

theorem ecancel_single {e : Entry} (engine : eng = 1 ∨ eng = 2) (entries : (tokenQueue s eng slot).entries = [e])
    (hit : laterEntry slot serial e = true) (idle : e.pipe = []) (alone : EndsAlone e) :
    ∃ t, exec (.ecancel a d) s = .next t ∧
      t.engine s.myCore eng (isUrgentSlot slot) = { tokenQueue s eng slot with entries := [], ended := e.serial } ∧
      (d ≠ 0 → t.me.rg d = 1) ∧ t.me.pc = s.me.pc + 4 := by
  have queue := engine_cancelWhere s s.myCore eng (isUrgentSlot slot) (laterEntry slot serial)
  rw [entries, List.map_cons, List.map_nil, markedEntry_hit hit] at queue
  have reaped := reapCore_single (s := cancelWhere s s.myCore eng (isUrgentSlot slot) (laterEntry slot serial)) (core := s.myCore) engine
    (congrArg EngineQueue.entries queue) (by rw [Entry.reapable]; simp [idle]) alone fun eng' u' other x first => by
      rw [cancelWhere, engine_setEngine_other _ _ _ _ _ other] at first
      exact headsStay_of_noneCancelled none eng' u' x first
  have left : (afterCancel s eng slot serial).engine s.myCore eng (isUrgentSlot slot) =
      { tokenQueue s eng slot with entries := [], ended := e.serial } := by
    rw [afterCancel, reaped.engine, leftQueue, engine_setEngine_same, queue]
  have one : stoppedEntries s eng slot serial = 1 := by
    rw [stoppedEntries, entries, List.filter_cons_of_pos hit]
    rfl
  have core : (afterCancel s eng slot serial).myCore = s.myCore := congrArg coreOf reaped.cur
  obtain ⟨t, ran, engines, count, pc⟩ := ecancel_completes (ecancel_ends (d := d) token own rfl (by rw [tokenQueue, core, left]; rfl) core)
    reaped.me one
  exact ⟨t, ran, (engines ..).trans left, count, pc⟩

end

end

/-! ## EFENCE (R190, R192) -/

/-- The sources an EFENCE names. -/
def namedSources (m : BitVec 5) : List Nat :=
  (if m.getLsbD 0 then [1] else []) ++ (if m.getLsbD 1 then [2] else []) ++ (if m.getLsbD 2 then [3] else []) ++
    (if m.getLsbD 3 then [4] else [])

theorem mem_namedSources {m : BitVec 5} {src : Nat} (named : m.getLsbD (src - 1) = true) (least : 1 ≤ src) (most : src ≤ 4) :
    src ∈ namedSources m := by
  have one : src = 1 ∨ src = 2 ∨ src = 3 ∨ src = 4 := by omega
  rcases one with rfl | rfl | rfl | rfl <;> simp only [Nat.reduceSub] at named <;> simp [namedSources, named]

/-- What a source's later entries wait for once an EFENCE has named it. -/
def fencedSource (s : State) (before : List (Nat × W32)) (f : Tab (List (Nat × W32))) (src : Nat) : Tab (List (Nat × W32)) :=
  let old := (tget [] f src).filter (fun x => !barrierPassed s s.cur x)
  tput f src (old ++ before.filter (fun x => !old.contains x))

theorem mem_fencedSource_same (s : State) {before : List (Nat × W32)} (f : Tab (List (Nat × W32))) (src : Nat) {x : Nat × W32}
    (among : x ∈ before) : x ∈ tget [] (fencedSource s before f src) src := by
  rw [fencedSource, tget_tput_same, List.mem_append]
  by_cases already : x ∈ (tget [] f src).filter (fun x => !barrierPassed s s.cur x)
  · exact .inl already
  · exact .inr (List.mem_filter.mpr ⟨among, by rw [Bool.not_eq_true', ← Bool.not_eq_true, List.contains_iff_mem]; exact already⟩)

theorem mem_fencedSources (s : State) {before : List (Nat × W32)} {x : Nat × W32} (among : x ∈ before) (sources : List Nat)
    (f : Tab (List (Nat × W32))) {src : Nat} (named : src ∈ sources ∨ x ∈ tget [] f src) :
    x ∈ tget [] (sources.foldl (fencedSource s before) f) src := by
  induction sources generalizing f with
  | nil => simpa using named
  | cons first sources ih =>
    rw [List.foldl_cons]
    by_cases here : first = src
    · exact ih _ (.inr (here ▸ mem_fencedSource_same s f first among))
    · refine ih _ ?_
      rw [fencedSource, tget_tput_other _ _ _ here]
      simpa [Ne.symm here] using named

theorem mem_efenceEarlier {s : State} {m : BitVec 5} {eng : Nat} {e : Entry} (named : m.getLsbD (eng - 1) = true) (engine : eng = 1 ∨ eng = 2)
    (among : e ∈ slotEntries s s.cur eng) : (eng, e.serial) ∈ efenceEarlier s s.cur m := by
  rcases engine with rfl | rfl <;> simp only [Nat.reduceSub] at named <;> simp only [efenceEarlier, named, if_true, List.mem_append, List.mem_map]
  · exact .inl (.inl ⟨e, among, rfl⟩)
  · exact .inl (.inr ⟨e, among, rfl⟩)

theorem efence_orders {s : State} {m : BitVec 5} (later : m.getLsbD 4 = false) : exec (.efence m) s =
    .next (s.finish { s.me with efence := (namedSources m).foldl (fencedSource s (efenceEarlier s s.cur m)) s.me.efence } 6) := by
  change execEfence m s = _
  simp only [execEfence, later, Bool.false_eq_true, if_false]
  rfl

/-- EFENCE with bit 4 waits while a queue it names holds an entry of the slot. -/
theorem efence_parks {s : State} {m : BitVec 5} (waits : m.getLsbD 4 = true)
    (holds : (m.getLsbD 0 = true ∧ slotEntries s s.cur 1 ≠ []) ∨ (m.getLsbD 1 = true ∧ slotEntries s s.cur 2 ≠ [])) :
    Claims.ParksOn s (.efence m) 0x0A 0 := by
  refine parksOn_of_run (by decide) ?_
  change execEfence m s = _
  have notClear : efenceClear s s.cur m = false := by
    rcases holds with ⟨named, entries⟩ | ⟨named, entries⟩ <;> simp [efenceClear, named, entries]
  simp only [execEfence, waits, notClear, Bool.not_false, if_true]

theorem efence_passes {s : State} {m : BitVec 5} (waits : m.getLsbD 4 = true) (matrix : m.getLsbD 0 = true → slotEntries s s.cur 1 = [])
    (copies : m.getLsbD 1 = true → slotEntries s s.cur 2 = []) (noRun : s.me.run = none) (noStores : Claims.NoStores s) :
    exec (.efence m) s = .next (s.finish s.me 6) := by
  have clear : efenceClear s s.cur m = true := by
    rw [efenceClear, Bool.and_eq_true]
    constructor
    · cases named : m.getLsbD 0 with
      | false => rfl
      | true => rw [matrix named]; rfl
    · cases named : m.getLsbD 1 with
      | false => rfl
      | true => rw [copies named]; rfl
  obtain ⟨storeq, cmp⟩ := noStores
  change execEfence m s = _
  simp only [execEfence, waits, clear, noRun, storeq, cmp, if_true, Bool.not_true, Bool.false_eq_true, if_false, Option.isSome_none, Bool.and_false,
    List.isEmpty_nil, Bool.or_false, List.any_nil]
  rfl

/-! ## O20 -/

/-- Settles O20: the fields of MSTAT's word, then EWAIT and ECANCEL by what the token's queue holds and EFENCE by the slot's entries. -/
theorem engineStatusWaitsAndCancellation : Obligations.EngineStatusWaitsAndCancellation := by
  unfold Obligations.EngineStatusWaitsAndCancellation
  intro s m a d tok A mine
  refine ⟨mstat_words s a d, ?malformed, ?tokens, ?orders, efence_parks, ?passes⟩
  case malformed =>
    intro i named bad
    exact traps_malformedToken (by simpa using named) bad
  case tokens =>
    intro eng slot serial engine ordinary token q r ended reports
    have fields := readToken_token engine ordinary token
    have doneIff : serialEnded q serial = true ↔ ended := serialEnded_iff q serial
    refine ⟨fun runs => ?_, fun done => ewait_silent fields (doneIff.mpr done), fun done fault named => ?_, fun done fault nowhere alone => ?_,
      ecancel_other fields, fun own none => ⟨ecancel_nothing fields own none, fun e rest head hit busy => ecancel_headBusy fields own none head hit busy,
        fun e entries hit idle kind => ?_, fun e0 e entries missed hit idle => ecancel_second fields own none entries missed hit idle⟩⟩
    · exact ewait_parks fields (by rw [← Bool.not_eq_true, doneIff]; exact runs)
    · refine ⟨_, ewait_reports fields (doneIff.mpr done) fault named, ?_, ?_, ?_⟩
      · have marked := faultOf_reportedThread s.me eng
        rw [Thread.faultOf] at marked
        rw [me_finish, Thread.faultOf, adv_efault, wg_efault, marked]
      · rw [me_finish, rg_adv, rg_wg_same _ _ _ named]
        exact toNat_faultReport _ engine
      · rw [me_finish, adv_pc, wg_pc]; rfl
    · refine ⟨_, ewait_traps fields (doneIff.mpr done) fault alone nowhere, ?_, ?_⟩
      · rw [me_setMe, faultOf_reportedThread]
      · rw [me_setMe]; rfl
    · refine ecancel_single fields own none engine entries hit idle ?_
      rw [EndsAlone]
      split
      case h_1 copy => rw [copy] at kind; cases kind
      case h_2 => trivial
  case orders =>
    intro later
    exact ⟨_, efence_orders later, fun src eng named names least most engine e among =>
      mem_fencedSources s (mem_efenceEarlier names engine among) _ _ (.inl (mem_namedSources named least most))⟩
  case passes =>
    intro waits matrix copies noRun noStores
    exact efence_passes waits matrix copies noRun noStores

end Sys2Proof.Laws
end

section
/-! PROOFS. The matrix engine (R173-R180, R184, R185): how the head of a matrix queue starts. -/

namespace Sys2Proof.Laws

open Sys2Proof Sys2Proof.Machine

/-! ## What an engine entry reads and what holds it (R65, R184, R189) -/

theorem ownPending_eq_nil {s : State} {core slot : Nat} (ordinary : slot < 8) (accepted : (s.core core).storeq = [])
    (compared : (s.thread (keyOf core slot)).cmp = []) (p : Place) (n : Nat) : ownPending s (keyOf core slot) p n = [] := by
  rw [ownPending, coreOf_keyOf core ordinary, accepted, compared]
  rfl

theorem bytesNow_spad {s : State} {core slot : Nat} (ordinary : slot < 8) (accepted : (s.core core).storeq = [])
    (compared : (s.thread (keyOf core slot)).cmp = []) (o : Nat) {n : Nat} (positive : 0 < n) :
    bytesNow s (keyOf core slot) (.spad core o) n = .ok (s, spadBytes s.mem core o n, spadPoisoned s.mem core o n) := by
  have own := coreOf_keyOf core ordinary
  have partly : allTaken (takenBytes []) (Place.spad core o).addr n = false := by
    obtain ⟨m, rfl⟩ := Nat.exists_eq_succ_of_ne_zero positive.ne'
    simp [allTaken, List.range_succ_eq_map, takenBytes]
  simp only [bytesNow, ownPending_eq_nil ordinary accepted compared, Place.own, own, beq_self_eq_true, ownLoad, List.filter_nil, partly]
  rfl

/-- An entry of a slot with no store left reads the scratchpad's bytes with their poison. -/
theorem engineBytes_of_noOwnStores {s : State} {core : Nat} {e : Entry} (none : Claims.NoOwnStores s core e) (o : Nat) {n : Nat} (positive : 0 < n) :
    engineBytes s core e.slot o n = some (spadBytes s.mem core o n, spadPoisoned s.mem core o n) := by
  by_cases ordinary : e.slot < 8
  · rw [engineBytes, if_neg (by omega), bytesNow_spad ordinary none.1 none.2 o positive]
  · rw [engineBytes, if_pos (by omega)]

theorem lockedByte_of_noLocks {a : CoreArch} (unlocked : a.locks = []) (slot lo n : Nat) : lockedByte a slot lo n = none := by
  refine List.find?_eq_none.mpr fun byte _ => ?_
  rw [unlocked]
  exact Bool.false_ne_true

theorem dieReachable_of_mayRun {s : State} {core : Nat} (runs : engineMayRun s core = true) : dieReachable s (dieOf core) = true := by
  simp only [engineMayRun, Bool.and_eq_true] at runs
  exact runs.2

/-! ## The head of a queue -/

section
variable {s : State} {core eng : Nat} {u : Bool} {e : Entry} {rest : List Entry} (head : (s.engine core eng u).entries = e :: rest)
include head

theorem setHead_eq (e' : Entry) : setHead s core eng u e' = s.setEngine core eng u { s.engine core eng u with entries := e' :: rest } := by
  rw [setHead, head]
  rfl

theorem engine_setHead (e' : Entry) : (setHead s core eng u e').engine core eng u = { s.engine core eng u with entries := e' :: rest } := by
  rw [setHead_eq head, engine_setEngine_same]

end

/-! ## Starts (R173, R176, R178) -/

/-- What becomes of a job at the head of a matrix queue. -/
def startedJob (s : State) (core : Nat) (u : Bool) (e : Entry) : JobStart → State
  | .wait => s
  | .fault cause addr => endEntry s core 1 u (.faulted cause addr)
  | .begin_ nest => setHead s core 1 u { e with nest := nest, next := 0, state := .running, start := s.pk.array + 32 }

section
variable {s : State} {core : Nat} {u : Bool} {e : Entry} {rest : List Entry} (head : Claims.Head s core 1 u e rest)
include head

theorem head_notCancelled : e.cancelled = false :=
  (noneCancelled_iff s core).mp head.2 1 u e (by rw [head.1]; exact List.mem_cons_self)

theorem exec_start_parks (queued : e.state = .queued) (unreleased : e.unreleased = true) :
    exec (.matrixEntryStart core u) s = .next (setHead s core 1 u { e with state := .parked }) := by
  have waits : e.unreleased = true ∧ e.state = .queued ∧ (!e.cancelled) = true := ⟨unreleased, queued, by rw [head_notCancelled head]; rfl⟩
  change execMatrixEntryStart core u s = _
  rw [execMatrixEntryStart, ← State.engine.eq_1, head.1]
  exact if_pos waits

variable (may : Claims.MayStart s core 1 u e)
include may

/-- An entry that may start passes the gates of its start. -/
theorem start_gates : ¬(e.unreleased = true ∧ e.state = .queued ∧ (!e.cancelled) = true) ∧
    ¬(e.unreleased = true ∨ e.cancelled = true ∨ (!(e.state == .queued || e.state == .parked)) = true ∨ e.fault.isSome = true ∨
      (!engineMayRun s core) = true ∨ (!turnOf (s.arch core) 1 u) = true ∨ (!e.after.all (barrierPassed s (keyOf core (e.slot % 16)))) = true) := by
  obtain ⟨queued, released, faultless, -, runs, turn, after⟩ := may
  simp [released, queued, faultless, runs, turn, after, head_notCancelled head]

theorem exec_start_mzero {acc : Nat} (kind : e.kind = .mzero acc) :
    exec (.matrixEntryStart core u) s = .next (setHead s core 1 u { e with state := .running, start := s.pk.array + 128 }) := by
  obtain ⟨released, passes⟩ := start_gates head may
  change execMatrixEntryStart core u s = _
  rw [execMatrixEntryStart, ← State.engine.eq_1, head.1]
  simp only [if_neg released, if_neg passes, kind]

theorem exec_start_mrd {acc first n dst : Nat} {half clr : Bool} (kind : e.kind = .mrd acc first n half clr dst) :
    exec (.matrixEntryStart core u) s = .next (setHead s core 1 u
      { e with state := .running, start := s.pk.array + 16 + n * (if half then 1 else 2) }) := by
  obtain ⟨released, passes⟩ := start_gates head may
  have cycles : n * (if half = true then 256 else 512) / 256 = n * (if half = true then 1 else 2) := by split <;> omega
  change execMatrixEntryStart core u s = _
  rw [execMatrixEntryStart, ← State.engine.eq_1, head.1]
  simp only [if_neg released, if_neg passes, kind, cycles]

section
variable (quiet : ∀ v, (s.engine core 2 v).entries = [] ∧ (v ≠ u → (s.engine core 1 v).entries = []))
include quiet

/-- Where the other queues are empty no other head holds a bank. -/
theorem no_bankConflict (banks : List Nat) (jobsToo : Bool) :
    bankConflict (if u then headOf (s.arch core).mq else []) banks jobsToo = false ∧
      bankConflict (headOf (s.arch core).cq ++ headOf (s.arch core).ucq) banks jobsToo = false := by
  have copies : (s.arch core).cq.entries = [] := (quiet false).1
  have urgentCopies : (s.arch core).ucq.entries = [] := (quiet true).1
  constructor
  · cases u with
    | false => rfl
    | true =>
      have others : (s.arch core).mq.entries = [] := (quiet false).2 (by decide)
      rw [if_pos rfl, headOf, others]
      rfl
  · rw [headOf, headOf, copies, urgentCopies]
    rfl

theorem exec_start_mldb {f : BitVec 4} {bank src : Nat} {sB : W32} (kind : e.kind = .mldb f bank src sB) :
    exec (.matrixEntryStart core u) s =
      let t := setHead s core 1 u { e with state := .running, start := s.pk.array + 16 + tileSize f.toNat / 256 }
      .next (t.setArch core (invalidate (t.arch core) (bankRange bank (tileBanks f.toNat)))) := by
  obtain ⟨released, passes⟩ := start_gates head may
  have loads : loadBanks e = bankRange bank (tileBanks f.toNat) := by rw [loadBanks, kind]
  change execMatrixEntryStart core u s = _
  rw [execMatrixEntryStart, ← State.engine.eq_1, head.1]
  simp only [if_neg released, if_neg passes, kind, no_bankConflict head may quiet, Bool.false_eq_true, if_false]
  rw [loads]

variable {ovr park : Bool} {acc : Nat} {p0 p1 p2 p3 : W32} (kind : e.kind = .job ovr acc park p0 p1 p2 p3)
include kind

theorem exec_start_job : ∃ other copies, (∀ banks, bankConflict other banks false = false ∧ bankConflict copies banks false = false) ∧
    exec (.matrixEntryStart core u) s = .next (startedJob s core u e (jobStart s core e other copies)) := by
  obtain ⟨released, passes⟩ := start_gates head may
  refine ⟨_, _, fun banks => no_bankConflict head may quiet banks false, ?_⟩
  change execMatrixEntryStart core u s = _
  rw [execMatrixEntryStart, ← State.engine.eq_1, head.1]
  simp only [if_neg released, if_neg passes, kind]
  cases jobStart s core e _ _ <;> simp only [startedJob, kind]

end

end

/-! ## The job card (R174-R176) -/

theorem guardF_true (cause : Byte) (addr : W64) : guardF true cause addr = .ok () := rfl
theorem guardF_false (cause : Byte) (addr : W64) : guardF false cause addr = .error (cause, addr) := rfl

/-- FADDR of a byte of the scratchpad. -/
theorem localAddr_eq {n : Nat} (inside : n < 2 ^ 20) : localAddr n = BitVec.ofNat 64 (2 * 2 ^ 61 + n) := by
  apply BitVec.eq_of_toNat_eq
  rw [localAddr, BitVec.toNat_or, BitVec.toNat_setWidth, BitVec.ofInt_natCast, BitVec.toNat_ofNat, BitVec.toNat_ofNat, BitVec.toNat_ofNat,
    Nat.mod_eq_of_lt (a := n) (b := 2 ^ 61) (by omega), Nat.mod_eq_of_lt (a := n) (b := 2 ^ 64) (by omega),
    Nat.mod_eq_of_lt (a := 2 * 2 ^ 61 + n) (by omega)]
  exact (Nat.two_pow_add_eq_or_of_lt (i := 62) (by omega) 1).symm

theorem engFmt_iff (f : Nat) : engFmt f = true ↔ f ∈ [5, 6, 7, 8, 10] := List.contains_iff_mem

/-- The first check of R176. -/
def cardFormat (c : JobCard) : Bool :=
  engFmt c.fmt && decide (1 ≤ c.levels) && decide (c.levels ≤ 5) && (decide (c.fmt = 8) || decide (c.kbase = 0))

theorem cardFormat_iff (c : JobCard) :
    cardFormat c = true ↔ c.fmt ∈ [5, 6, 7, 8, 10] ∧ 1 ≤ c.levels ∧ c.levels ≤ 5 ∧ (c.fmt = 8 ∨ c.kbase = 0) := by
  simp only [cardFormat, Bool.and_eq_true, Bool.or_eq_true, decide_eq_true_eq, engFmt_iff, and_assoc]

theorem checkCard_format {c : JobCard} (bad : cardFormat c = false) : checkCard c = .error (FORMAT, localAddr c.nbase) := by
  rw [cardFormat] at bad
  simp only [checkCard, bad, guardF_false, bind, Except.bind]

theorem checkCard_align {c : JobCard} (good : cardFormat c = true) (misaligned : c.nbase % 16 ≠ 0) :
    checkCard c = .error (ALIGN, localAddr c.nbase) := by
  rw [cardFormat] at good
  simp only [checkCard, good, guardF_true, decide_eq_false misaligned, guardF_false, bind, Except.bind]

theorem cardFormat_of_checkCard {c : JobCard} (ok : checkCard c = .ok ()) : cardFormat c = true := by
  by_contra bad
  rw [checkCard_format (Bool.eq_false_of_not_eq_true bad)] at ok
  cases ok

theorem nbase_lt (p0 p1 p2 p3 : W32) : (jobCard p0 p1 p2 p3).nbase < 2 ^ 20 := Nat.mod_lt _ (by decide)

section
variable {s : State} {core : Nat} {e : Entry} {other copies : List Entry}

theorem jobStart_faults {cause : Byte} {addr : W64} (bad : checkCard (cardOf e) = .error (cause, addr)) :
    jobStart s core e other copies = .fault cause addr := by
  simp only [jobStart, bad]

theorem jobStart_begins (free : ∀ banks, bankConflict other banks false = false ∧ bankConflict copies banks false = false)
    {nest : List NestLevel} (card : checkCard (cardOf e) = .ok ()) (settled : Claims.NoOwnStores s core e)
    (unlocked : (lockedByte (s.arch core) (e.slot % 16) (cardOf e).nbase (16 * (cardOf e).levels)).isSome = false)
    (table : readNest (cardOf e) (spadBytes s.mem core (cardOf e).nbase (16 * (cardOf e).levels),
      spadPoisoned s.mem core (cardOf e).nbase (16 * (cardOf e).levels)) = .ok nest)
    (checked : checkNest s core (cardOf e) nest = .ok ()) : jobStart s core e other copies = .begin_ nest := by
  have levels : 1 ≤ (cardOf e).levels := ((cardFormat_iff _).mp (cardFormat_of_checkCard card)).2.1
  have read := engineBytes_of_noOwnStores settled (cardOf e).nbase (n := 16 * (cardOf e).levels) (by omega)
  simp only [jobStart, card, unlocked, read, table, checked, free, Bool.false_eq_true, if_false]

end

/-! ## Tables -/

theorem tfind_eq_none {α : Type} {t : Tab α} {a : Nat} (absent : ∀ x ∈ t, x.1 ≠ a) : tfind t a = none := by
  induction t with
  | nil => rfl
  | cons c t ih =>
    obtain ⟨k, v⟩ := c
    rw [tfind, if_neg (absent (k, v) List.mem_cons_self)]
    exact ih fun x among => absent x (List.mem_cons_of_mem _ among)

theorem tfind_filter {α : Type} (p : Nat → Bool) (t : Tab α) (a : Nat) :
    tfind (t.filter (fun x => p x.1)) a = if p a = true then tfind t a else none := by
  induction t with
  | nil => simp [tfind]
  | cons c t ih =>
    obtain ⟨k, v⟩ := c
    cases keep : p k with
    | true =>
      simp only [List.filter_cons, keep, if_true, tfind, ih]
      split
      case isTrue same => rw [if_pos (same ▸ keep)]
      case isFalse => rfl
    | false =>
      simp only [List.filter_cons, keep, Bool.false_eq_true, if_false, ih]
      split
      case isTrue other => rw [tfind, if_neg (fun same => by rw [same, other] at keep; cases keep)]
      case isFalse => rfl

/-- An MLDB makes the banks it names invalid (R173). -/
theorem tfind_invalidate {a : CoreArch} {banks : List Nat} {b : Nat} (named : b ∈ banks) : tfind (invalidate a banks).tiles b = none := by
  refine tfind_eq_none fun x kept same => ?_
  obtain ⟨among, missed⟩ := List.mem_filter.mp kept
  have hit : x.2 ∈ (a.tiles.filter (fun x => banks.contains x.1)).map (·.2) :=
    List.mem_map_of_mem (List.mem_filter.mpr ⟨among, by rw [same]; exact List.contains_iff_mem.mpr named⟩)
  have found : ((a.tiles.filter (fun x => banks.contains x.1)).map (·.2)).any (fun t => t.first == x.2.first) = true :=
    List.any_eq_true.mpr ⟨x.2, hit, beq_self_eq_true _⟩
  rw [found] at missed
  cases missed

theorem mem_bankRange {first n b : Nat} : b ∈ bankRange first n ↔ first ≤ b ∧ b < first + n := by
  simp only [bankRange, List.mem_map, List.mem_range]
  constructor
  · rintro ⟨i, bound, rfl⟩
    omega
  · rintro ⟨least, most⟩
    exact ⟨b - first, by omega, by omega⟩

/-! ## Entries of the matrix queue start in order -/

theorem endsAlone_of_job {e : Entry} {ovr park : Bool} {acc : Nat} {p0 p1 p2 p3 : W32} (kind : e.kind = .job ovr acc park p0 p1 p2 p3) :
    EndsAlone e := by
  rw [EndsAlone, kind]
  trivial

theorem setHead_starts {s : State} {core : Nat} {u : Bool} {e e' : Entry} {rest : List Entry} (head : (s.engine core 1 u).entries = e :: rest)
    (ran : exec (.matrixEntryStart core u) s = .next (setHead s core 1 u e')) : ∃ t, exec (.matrixEntryStart core u) s = .next t ∧
      t.engine core 1 u = { s.engine core 1 u with entries := e' :: rest } ∧ t.mem = s.mem ∧ t.threads = s.threads :=
  ⟨_, ran, engine_setHead head e', rfl, rfl⟩

theorem matrixEntriesStartInOrder : Claims.MatrixEntriesStartInOrder := by
  intro s core u e rest head q starts quiet
  refine ⟨fun queued unreleased => setHead_starts head.1 (exec_start_parks head queued unreleased), fun may => ⟨fun acc kind => ?mzero,
    fun acc first n half clr dst kind => ?mrd, fun f bank src sB kind others => ?mldb, fun ovr acc park p0 p1 p2 p3 kind others => ?job⟩⟩
  case mzero => exact setHead_starts head.1 (exec_start_mzero head may kind)
  case mrd => exact setHead_starts head.1 (exec_start_mrd head may kind)
  case mldb =>
    refine ⟨_, ⟨exec_start_mldb head may others kind, ?_, rfl, rfl⟩, fun b least most => ?_⟩
    · refine Eq.trans ?_ (engine_setHead head.1 { e with state := .running, start := s.pk.array + 16 + tileSize f.toNat / 256 })
      rw [State.engine, arch_setArch_same]
      rfl
    · rw [arch_setArch_same]
      exact tfind_invalidate (mem_bankRange.mpr ⟨least, most⟩)
  case job =>
    obtain ⟨other, copies, free, ran⟩ := exec_start_job head may others kind
    have card : cardOf e = jobCard p0 p1 p2 p3 := by rw [cardOf, kind]
    refine ⟨fun nest checked settled unlocked table nested => ?begins, fun only own => ?faults⟩
    case begins =>
      rw [← card] at checked unlocked table nested
      rw [jobStart_begins free checked settled unlocked table nested] at ran
      exact setHead_starts head.1 ran
    case faults =>
      subst only
      have faults : ∀ cause, checkCard (jobCard p0 p1 p2 p3) = .error (cause, localAddr (jobCard p0 p1 p2 p3).nbase) →
          ∃ t, exec (.matrixEntryStart core u) s = .next t ∧
            Claims.EndsFaulted s t core 1 u e cause (BitVec.ofNat 64 (2 * 2 ^ 61 + (jobCard p0 p1 p2 p3).nbase)) := fun cause bad => by
        rw [localAddr_eq (nbase_lt ..), ← card] at bad
        rw [jobStart_faults bad] at ran
        exact ⟨_, ran, card ▸ endsFaulted_endEntry head.1 head.2 (endsAlone_of_job kind) own cause _⟩
      refine ⟨fun bad => faults FORMAT (checkCard_format ?_), fun format least most block misaligned =>
        faults ALIGN (checkCard_align ((cardFormat_iff _).mpr ⟨format, least, most, block⟩) misaligned)⟩
      rw [← Bool.not_eq_true, cardFormat_iff]
      rintro ⟨format, least, most, block⟩
      rcases bad with other | none | many | ⟨notE21, based⟩
      · exact other format
      · omega
      · omega
      · exact block.elim notE21 based

end Sys2Proof.Laws
end

section
/-! PROOFS. What the entries of the matrix engine do (R177-R179, R184, R185): the products of a step, their promotion, and the effects of
MLDB, MZERO and MRD. -/

namespace Sys2Proof.Laws

open Sys2Proof Sys2Proof.Machine

/-! ## Bytes of the scratchpad -/

theorem getD_mreadN (m : Mem) (a : Nat) {n i : Nat} (inside : i < n) : (mreadN m a n).getD i 0 = mread m (a + i) := by
  induction n generalizing a i with
  | zero => omega
  | succ n ih =>
    cases i with
    | zero => rfl
    | succ i => rw [mreadN, List.getD_cons_succ, ih (a + 1) (by omega)]; congr 1; omega

theorem getD_spadBytes (m : Memory) (core o : Nat) {n i : Nat} (inside : i < n) :
    (spadBytes m core o n).getD i 0 = mread m.spad (core * 2 ^ 20 + o + i) := getD_mreadN m.spad _ inside

/-! ## The products of a step (R177) -/

/-- An element of a row depends on the bytes of its row and, in the block format, on its scale. -/
theorem elemOf_congr {fmt : Nat} (format : fmt ∈ [5, 6, 7, 8, 10]) {byte byte' : Nat → Nat} {k sc sc' : Nat} (column : k < 128)
    (bytes : ∀ i < rowBytes fmt, byte i = byte' i) (scale : fmt = 8 → sc = sc') : elemOf fmt byte k sc = elemOf fmt byte' k sc' := by
  simp only [List.mem_cons, List.not_mem_nil, or_false] at format
  rcases format with rfl | rfl | rfl | rfl | rfl
  case inl =>
    have row : rowBytes 5 = 512 := rfl
    simp only [elemOf]
    rw [bytes _ (by omega), bytes _ (by omega), bytes _ (by omega), bytes _ (by omega)]
  case inr.inl =>
    have row : rowBytes 6 = 256 := rfl
    simp only [elemOf]
    rw [bytes _ (by omega), bytes _ (by omega)]
  case inr.inr.inl =>
    have row : rowBytes 7 = 128 := rfl
    simp only [elemOf]
    rw [bytes _ (by omega)]
  case inr.inr.inr.inl =>
    have row : rowBytes 8 = 64 := rfl
    simp only [elemOf]
    rw [bytes _ (by omega), scale rfl]
  case inr.inr.inr.inr =>
    have row : rowBytes 10 = 256 := rfl
    simp only [elemOf]
    rw [bytes _ (by omega), bytes _ (by omega)]

theorem columnProducts_congr (fmt : Nat) {A A' : Nat → Fp} (B : Nat → Fp) (sc : Nat) (row : ∀ k < 128, A k = A' k) :
    columnProducts fmt A B sc = columnProducts fmt A' B sc := by
  have terms : ∀ h < 2, (List.range 64).map (fun j => (A (2 * j + h), B (2 * j + h))) = (List.range 64).map (fun j => (A' (2 * j + h), B (2 * j + h))) :=
    fun h half => List.map_congr_left fun j among => by rw [row _ (by have := List.mem_range.mp among; omega)]
  have chains : ∀ h < 2, chainOf fmt A B h = chainOf fmt A' B h := fun h half => by rw [chainOf, terms h half]; rfl
  simp only [columnProducts, chains 0 (by decide), chains 1 (by decide)]

/-- An element of the row of A at a byte offset, with the block scales at another. -/
def rowElement (m : Memory) (core fmt ao ko k : Nat) : Fp :=
  elemOf fmt (fun i => ((spadBytes m core ao (rowBytes fmt)).getD i 0).toNat) k
    ((if fmt = 8 then spadBytes m core ko 2 else []).getD (k / 64) 0).toNat

theorem rowElement_eq (m : Memory) (core ao ko : Nat) {fmt k : Nat} (format : fmt ∈ [5, 6, 7, 8, 10]) (column : k < 128) :
    rowElement m core fmt ao ko k = elemOf fmt (fun i => (mread m.spad (core * 2 ^ 20 + ao + i)).toNat) k
      (mread m.spad (core * 2 ^ 20 + ko + k / 64)).toNat := by
  refine elemOf_congr format column (fun i inside => by rw [getD_spadBytes _ _ _ inside]) fun block => ?_
  rw [if_pos block, getD_spadBytes _ _ _ (by omega)]

/-- The byte ranges a step reads: its row, its scale and its block scales. -/
def stepRanges (c : JobCard) (ao so ko : Nat) : List (Nat × Nat) :=
  [(ao, rowBytes c.fmt)] ++ (if c.usa then [] else [(so, 4)]) ++ (if c.fmt = 8 then [(ko, 2)] else [])

theorem mem_stepRanges {c : JobCard} {ao so ko : Nat} {r : Nat × Nat} (among : r ∈ stepRanges c ao so ko) :
    r = (ao, rowBytes c.fmt) ∨ (c.usa = false ∧ r = (so, 4)) ∨ (c.fmt = 8 ∧ r = (ko, 2)) := by
  simp only [stepRanges, List.mem_append, List.mem_singleton] at among
  rcases among with (row | scale) | blocks
  · exact .inl row
  · cases usa : c.usa with
    | true => rw [usa] at scale; cases scale
    | false => exact .inr (.inl ⟨rfl, by simpa [usa] using scale⟩)
  · by_cases block : c.fmt = 8
    · exact .inr (.inr ⟨block, by simpa [block] using blocks⟩)
    · rw [if_neg block] at blocks; cases blocks

theorem rowBytes_pos (fmt : Nat) : 0 < rowBytes fmt := by
  unfold rowBytes
  split_ifs <;> decide

/-- The scale of A of a step. -/
def scaleOfA (m : Memory) (core : Nat) (c : JobCard) (so : Nat) : Nat := if c.usa then 0x3F800000 else natOfBytes (spadBytes m core so 4)

/-- The promotion a step leaves in the pipe. -/
def stepPromotion (s : State) (core : Nat) (e : Entry) (c : JobCard) (ovr : Bool) (tile : Tile) : Promotion :=
  let ao := (stepValue c.abase (·.astr) e.nest e.next).toNat
  let products := stepProducts (s.arch core) tile (rowElement s.mem core c.fmt ao (c.kbase + ao / 32))
    (scaleOfA s.mem core c (stepValue c.sbase (·.sstr) e.nest e.next).toNat)
  { row := (stepValue c.row0 (·.accstr) e.nest e.next).toNat, ovr := ovr, vals := products.1, ofl := products.2, at_ := s.pk.array + 40 }

section
variable {s : State} {core : Nat} {u : Bool} {e : Entry} {rest : List Entry} (head : Claims.Head s core 1 u e rest)
  (due : Claims.Due s core u e)
include head due

theorem runningHead_due : runningHead s core u = some e := by
  obtain ⟨running, faultless, runs, turn, -⟩ := due
  rw [runningHead, head.1]
  exact if_pos ⟨running, faultless, runs, turn⟩

theorem exec_step (unlocked : Claims.NoLocks s core) (settled : Claims.NoOwnStores s core e) {ovr park : Bool} {acc : Nat} {p0 p1 p2 p3 : W32}
    (kind : e.kind = .job ovr acc park p0 p1 p2 p3) {c : JobCard} (card : c = jobCard p0 p1 p2 p3) (more : e.next < stepCount e.nest) {tile : Tile}
    (valid : tfind (s.arch core).tiles (stepValue c.bank0 (·.bankstr) e.nest e.next).toNat = some tile) (pure_ : tilePoisoned (s.arch core) tile = false)
    (clean : ∀ r ∈ stepRanges c (stepValue c.abase (·.astr) e.nest e.next).toNat (stepValue c.sbase (·.sstr) e.nest e.next).toNat
      (c.kbase + (stepValue c.abase (·.astr) e.nest e.next).toNat / 32), spadPoisoned s.mem core r.1 r.2 = false) :
    exec (.jobStepIssue core u) s = .next (setHead s core 1 u { e with
      next := e.next + 1, pipe := e.pipe ++ [stepPromotion s core e c ovr tile], start := s.pk.array + stepCycles c.fmt }) := by
  generalize ranges : stepRanges c _ _ _ = reads at clean
  have positive : ∀ r ∈ reads, 0 < r.2 := fun r among => by
    rw [← ranges] at among
    rcases mem_stepRanges among with rfl | ⟨-, rfl⟩ | ⟨-, rfl⟩
    · exact rowBytes_pos c.fmt
    · exact Nat.zero_lt_succ 3
    · exact Nat.zero_lt_succ 1
  have read : ∀ r ∈ reads, engineBytes s core e.slot r.1 r.2 = some (spadBytes s.mem core r.1 r.2, false) := fun r among => by
    rw [engineBytes_of_noOwnStores settled r.1 (positive r among), clean r among]
  have noneLocked : reads.any (fun r => (lockedByte (s.arch core) (e.slot % 16) r.1 r.2).isSome) = false :=
    List.any_eq_false.mpr fun r _ => by rw [lockedByte_of_noLocks unlocked]; exact Bool.false_ne_true
  have noneWaits : reads.any (fun r => (engineBytes s core e.slot r.1 r.2).isNone) = false :=
    List.any_eq_false.mpr fun r among => by rw [read r among]; exact Bool.false_ne_true
  have noneFaults : reads.find? (fun r => ((engineBytes s core e.slot r.1 r.2).map (·.2)).getD false) = none :=
    List.find?_eq_none.mpr fun r among => by rw [read r among]; exact Bool.false_ne_true
  have gate : ¬(e.cancelled = true ∨ stepCount e.nest ≤ e.next ∨ s.pk.array < e.start) := by
    obtain ⟨-, -, -, -, time⟩ := due
    rintro (cancelled | done | early)
    · rw [head_notCancelled head] at cancelled
      cases cancelled
    · omega
    · omega
  have ofEntry : cardOf e = c := by rw [cardOf, kind, card]
  change execJobStepIssue core u s = _
  simp only [execJobStepIssue, runningHead_due head due, kind, if_neg gate, ofEntry]
  rw [stepRanges] at ranges
  simp only [ranges, noneLocked, noneWaits, noneFaults, valid, pure_, Bool.false_eq_true, if_false]
  simp only [engineBytes_of_noOwnStores settled _ (rowBytes_pos c.fmt), engineBytes_of_noOwnStores settled _ (n := 2) (by decide),
    engineBytes_of_noOwnStores settled _ (n := 4) (by decide), Option.map_some, Option.getD_some]
  simp only [stepPromotion, scaleOfA]
  rfl

end

/-! ## Results of the IEEE formats fit their width (R111) -/

/-- A sign, an exponent and a fraction fill the format. -/
abbrev Packed (F : FpFmt) : Prop := F.width = F.ebits + F.mbits + 1 ∧ 1 ≤ F.mbits ∧ 1 ≤ F.ebits

section
variable {F : FpFmt} (packed : Packed F)
include packed

/-- A magnitude up to infinity's, with its sign, fits the format. -/
theorem signBit_add_lt (neg : Bool) {mag : Nat} (small : mag < 2 ^ (F.width - 1)) : F.signBit neg + mag < 2 ^ F.width := by
  obtain ⟨width, -, -⟩ := packed
  have twice : 2 ^ F.width = 2 * 2 ^ (F.width - 1) := by rw [← Nat.pow_succ']; congr 1; omega
  rw [FpFmt.signBit]
  split <;> omega

theorem infMagnitude_lt : (2 ^ F.ebits - 1) * 2 ^ F.mbits + 2 ^ (F.mbits - 1) < 2 ^ (F.width - 1) := by
  obtain ⟨width, fraction, -⟩ := packed
  have whole : 2 ^ (F.width - 1) = 2 ^ F.ebits * 2 ^ F.mbits := by rw [← Nat.pow_add]; congr 1; omega
  have half : 2 ^ F.mbits = 2 * 2 ^ (F.mbits - 1) := by rw [← Nat.pow_succ']; congr 1; omega
  have some : 0 < 2 ^ (F.mbits - 1) := Nat.two_pow_pos _
  have carry : 2 ^ F.mbits ≤ 2 ^ F.ebits * 2 ^ F.mbits := Nat.le_mul_of_pos_left _ (Nat.two_pow_pos _)
  rw [whole, Nat.sub_mul, Nat.one_mul]
  omega

theorem nan_lt : F.nan < 2 ^ F.width := by
  refine lt_of_lt_of_le (infMagnitude_lt packed) (Nat.pow_le_pow_right (by decide) (Nat.sub_le ..))

theorem inf_lt (neg : Bool) : F.inf neg < 2 ^ F.width := 
  signBit_add_lt packed neg (lt_of_le_of_lt (Nat.le_add_right _ _) (infMagnitude_lt packed))

theorem zero_lt_width (neg : Bool) : F.signBit neg < 2 ^ F.width := signBit_add_lt packed neg (Nat.two_pow_pos _)

/-- A magnitude either overflows to infinity or the greatest finite value, or stays below infinity's. -/
theorem narrowed_lt (neg toInf : Bool) (mag : Nat) (overflow inexact : FlagBits) :
    (if (2 ^ F.ebits - 1) * 2 ^ F.mbits ≤ mag then (if toInf then F.inf neg else F.maxFinite neg, overflow) else (F.signBit neg + mag, inexact)).1 <
      2 ^ F.width := by
  split
  case isTrue =>
    cases toInf with
    | true => exact inf_lt packed neg
    | false => exact lt_of_le_of_lt (Nat.sub_le ..) (inf_lt packed neg)
  case isFalse small =>
    exact signBit_add_lt packed neg (lt_of_lt_of_le (Nat.not_le.mp small) (le_trans (Nat.le_add_right _ _) (infMagnitude_lt packed).le))

theorem fpRound_lt (rm : Nat) (neg : Bool) (num den : Nat) : (fpRound F rm neg num den).1 < 2 ^ F.width := by
  rw [fpRound]
  split
  case isTrue => exact zero_lt_width packed neg
  case isFalse => exact narrowed_lt packed neg _ _ _ _

theorem fpAdd_lt (rm : Nat) (a b : Fp) : (fpAdd F rm a b).1 < 2 ^ F.width := by
  unfold fpAdd
  simp only
  split
  case h_1 => exact nan_lt packed
  case h_2 => exact nan_lt packed
  case h_3 =>
    split
    · exact inf_lt packed _
    · exact nan_lt packed
  case h_4 => exact inf_lt packed _
  case h_5 => exact inf_lt packed _
  case h_6 =>
    split
    · exact zero_lt_width packed _
    · exact fpRound_lt packed ..

end

theorem packed_f32 : Packed f32 := by decide
theorem packed_b16 : Packed b16 := by decide

/-! ## An entry ends with its effect -/

section
variable (a : CoreArch) (eng : Nat) (u : Bool) (q : EngineQueue)

theorem setQueue_storage : (a.setQueue eng u q).acc = a.acc ∧ (a.setQueue eng u q).tiles = a.tiles ∧ (a.setQueue eng u q).cim = a.cim ∧
    (a.setQueue eng u q).cimScale = a.cimScale ∧ (a.setQueue eng u q).accNan = a.accNan ∧ (a.setQueue eng u q).accOfl = a.accOfl := by
  unfold CoreArch.setQueue
  split <;> cases u <;> exact ⟨rfl, rfl, rfl, rfl, rfl, rfl⟩

end

/-- The states agree about the core's storage of the matrix engine, and about memory. -/
def SameStorage (s t : State) (core : Nat) : Prop :=
  (t.arch core).acc = (s.arch core).acc ∧ (t.arch core).tiles = (s.arch core).tiles ∧ (t.arch core).cim = (s.arch core).cim ∧
    (t.arch core).cimScale = (s.arch core).cimScale ∧ (t.arch core).accNan = (s.arch core).accNan ∧ (t.arch core).accOfl = (s.arch core).accOfl ∧
    t.mem = s.mem

theorem SameStorage.refl (s : State) (core : Nat) : SameStorage s s core := ⟨rfl, rfl, rfl, rfl, rfl, rfl, rfl⟩

theorem sameStorage_setEngine (s : State) (core eng : Nat) (u : Bool) (q : EngineQueue) : SameStorage s (s.setEngine core eng u q) core := by
  obtain ⟨acc, tiles, cim, scale, nan, ofl⟩ := setQueue_storage (s.arch core) eng u q
  have arch : (s.setEngine core eng u q).arch core = (s.arch core).setQueue eng u q := arch_setArch_same ..
  rw [SameStorage, arch]
  exact ⟨acc, tiles, cim, scale, nan, ofl, rfl⟩

theorem sameStorage_endEntry_done {s : State} {core eng : Nat} {u : Bool} {e : Entry} {rest : List Entry}
    (head : (s.engine core eng u).entries = e :: rest) (none : Claims.NoneCancelled s core) (alone : EndsAlone e) :
    SameStorage s (endEntry s core eng u .done) core := by
  have ended := endEntry_done head none alone
  rw [SameStorage, ended.arch, ended.mem]
  exact sameStorage_setEngine ..

/-- The queues of a core are those of its machine words. -/
theorem engine_setArch (s : State) (core : Nat) {a : CoreArch} (queues : ∀ eng u, a.queue eng u = (s.arch core).queue eng u) (eng : Nat) (u : Bool) :
    (s.setArch core a).engine core eng u = s.engine core eng u := by
  rw [State.engine, arch_setArch_same, queues]
  rfl

theorem noneCancelled_of_sameQueues {s s' : State} {core : Nat} (queues : ∀ eng u, s'.engine core eng u = s.engine core eng u)
    (none : Claims.NoneCancelled s core) : Claims.NoneCancelled s' core := by
  rw [noneCancelled_iff] at none ⊢
  intro eng u
  rw [queues]
  exact none eng u

theorem endsDone_of_sameQueue {s s' t : State} {core eng : Nat} {u : Bool} {e : Entry} {rest : List Entry}
    (queue : s'.engine core eng u = s.engine core eng u) (done : Claims.EndsDone s' t core eng u e rest) : Claims.EndsDone s t core eng u e rest := by
  rw [Claims.EndsDone, queue] at done
  exact done

/-- The head takes effect and ends: what it changed stays, and it leaves its queue. -/
theorem effect_then_done {s s' : State} {core eng : Nat} {u : Bool} {e : Entry} {rest : List Entry} (head : Claims.Head s core eng u e rest)
    (alone : EndsAlone e) (queues : ∀ eng u, s'.engine core eng u = s.engine core eng u) :
    Claims.EndsDone s (endEntry s' core eng u .done) core eng u e rest ∧ SameStorage s' (endEntry s' core eng u .done) core := by
  have none := noneCancelled_of_sameQueues queues head.2
  have head' : (s'.engine core eng u).entries = e :: rest := by rw [queues]; exact head.1
  exact ⟨endsDone_of_sameQueue (queues eng u) (endsDone_endEntry head' none alone), sameStorage_endEntry_done head' none alone⟩

/-! ## Promotions (R177-R179) -/

/-- Puts at keys that follow each other, each of a value and of what its key held. -/
theorem tget_foldl_tput {β : Type} {f : Tab W64 × β → W64 × Nat → Tab W64 × β} {base : Nat} {key : Nat → Nat} {pair : W64 → W64 → W64}
    (keys : ∀ i, key i = base + i) (puts : ∀ r x, (f r x).1 = tput r.1 (key x.2) (pair (tget 0 r.1 (key x.2)) x.1))
    (vals : List W64) (i : Nat) (r : Tab W64 × β) (k : Nat) : tget 0 ((vals.zipIdx i).foldl f r).1 k =
      if key i ≤ k ∧ k < key i + vals.length then pair (tget 0 r.1 k) (vals.getD (k - key i) 0) else tget 0 r.1 k := by
  induction vals generalizing i r with
  | nil => rw [if_neg (by simp)]; rfl
  | cons v vals ih =>
    have after : key (i + 1) = key i + 1 := by rw [keys, keys]; rfl
    rw [List.zipIdx_cons, List.foldl_cons, ih, puts, tget_tput, List.length_cons, after]
    by_cases here : key i = k
    · subst here
      rw [if_neg (by omega), if_pos rfl, if_pos (by omega), Nat.sub_self]
      rfl
    · rw [if_neg here]
      by_cases inside : key i + 1 ≤ k ∧ k < key i + 1 + vals.length
      · have next : k - key i = k - (key i + 1) + 1 := by omega
        rw [if_pos inside, if_pos (by omega), next, List.getD_cons_succ]
      · rw [if_neg inside, if_neg (by omega)]

/-- A pair of an accumulator once a product pair has been promoted to it. -/
def promotedPair (fresh : Bool) (old new : W64) : W64 :=
  let e := promoteHalf fresh (old.extractLsb' 0 32).toNat (new.extractLsb' 0 32).toNat
  let o := promoteHalf fresh (old.extractLsb' 32 32).toNat (new.extractLsb' 32 32).toNat
  BitVec.ofNat 64 (o.1 * 2 ^ 32 + e.1)

theorem tget_promoteRow (a : CoreArch) (acc : Nat) (p : Promotion) (fresh : Bool) (k : Nat) :
    tget 0 (promoteRow a acc p fresh).acc k =
      if accKey acc p.row 0 ≤ k ∧ k < accKey acc p.row 0 + p.vals.length then
        promotedPair fresh (tget 0 a.acc k) (p.vals.getD (k - accKey acc p.row 0) 0)
      else tget 0 a.acc k :=
  tget_foldl_tput (key := accKey acc p.row) (pair := promotedPair fresh) (fun _ => rfl) (fun _ _ => rfl) p.vals 0 _ k

theorem promoteHalf_lt (fresh : Bool) (old : Nat) {p : Nat} (small : p < 2 ^ 32) : (promoteHalf fresh old p).1 < 2 ^ 32 := by
  rw [promoteHalf]
  split
  · exact small
  · exact fpAdd_lt packed_f32 ..

/-- A pair of two words holds them. -/
theorem even_pair (o e : Nat) : (BitVec.ofNat 64 (o * 2 ^ 32 + e)).setWidth 32 = BitVec.ofNat 32 e := by
  apply BitVec.eq_of_toNat_eq
  rw [BitVec.toNat_setWidth, BitVec.toNat_ofNat, BitVec.toNat_ofNat]
  omega

theorem odd_pair (o : Nat) {e : Nat} (small : e < 2 ^ 32) : (BitVec.ofNat 64 (o * 2 ^ 32 + e)).extractLsb' 32 32 = BitVec.ofNat 32 o := by
  apply BitVec.eq_of_toNat_eq
  rw [BitVec.extractLsb'_toNat, BitVec.toNat_ofNat, BitVec.toNat_ofNat, Nat.shiftRight_eq_div_pow]
  omega

theorem even_promotedPair (fresh : Bool) (old new : W64) : (promotedPair fresh old new).setWidth 32 =
    BitVec.ofNat 32 (promoteHalf fresh (old.setWidth 32).toNat (new.setWidth 32).toNat).1 := by
  rw [BitVec.setWidth_eq_extractLsb' (x := old) (by decide), BitVec.setWidth_eq_extractLsb' (x := new) (by decide)]
  exact even_pair ..

theorem odd_promotedPair (fresh : Bool) (old new : W64) : (promotedPair fresh old new).extractLsb' 32 32 =
    BitVec.ofNat 32 (promoteHalf fresh (old.extractLsb' 32 32).toNat (new.extractLsb' 32 32).toNat).1 :=
  odd_pair _ (promoteHalf_lt fresh _ (new.extractLsb' 0 32).isLt)

theorem SameStorage.trans {s t v : State} {core : Nat} (first : SameStorage s t core) (second : SameStorage t v core) : SameStorage s v core := by
  obtain ⟨acc, tiles, cim, scale, nan, ofl, mem⟩ := first
  obtain ⟨acc', tiles', cim', scale', nan', ofl', mem'⟩ := second
  exact ⟨acc'.trans acc, tiles'.trans tiles, cim'.trans cim, scale'.trans scale, nan'.trans nan, ofl'.trans ofl, mem'.trans mem⟩

/-! ## The job's end -/

section
variable {s : State} {core : Nat} {u : Bool} {e : Entry} {rest : List Entry} (head : (s.engine core 1 u).entries = e :: rest)
include head

theorem settleJob_busy (busy : e.pipe ≠ []) : settleJob s core u = s := by
  rw [settleJob, head]
  exact if_pos (by simpa using busy)

theorem settleJob_live (empty : e.pipe = []) (faultless : e.fault = none) (live : e.cancelled = false) : settleJob s core u =
    if e.state = .running ∧ e.next = stepCount e.nest ∧ e.next ≠ 0 then endEntry s core 1 u .done else s := by
  simp only [settleJob, head, empty, faultless, live, List.isEmpty_nil, Bool.not_true, Bool.false_eq_true, if_false]

/-- A job without a fault settles with its results kept. -/
theorem sameStorage_settleJob (others : Claims.NoneCancelled s core) (faultless : e.fault = none) (alone : EndsAlone e) :
    SameStorage s (settleJob s core u) core := by
  have live : e.cancelled = false := (noneCancelled_iff s core).mp others 1 u e (by rw [head]; exact List.mem_cons_self)
  by_cases empty : e.pipe = []
  · rw [settleJob_live head empty faultless live]
    split
    · exact sameStorage_endEntry_done head others alone
    · exact .refl s core
  · rw [settleJob_busy head empty]
    exact .refl s core

end

/-! ## JOB_PROMOTION -/

/-- The state once a step has been promoted. -/
def promotedState (s : State) (core : Nat) (u : Bool) (e : Entry) (acc : Nat) (p : Promotion) (pipe : List Promotion) : State :=
  setHead (s.setArch core (promoteRow (s.arch core) acc p (p.ovr && !e.rowsDone.contains p.row))) core 1 u
    { e with pipe := pipe, rowsDone := sadd e.rowsDone p.row }

section
variable {s : State} {core : Nat} {u : Bool} {e : Entry} {rest : List Entry} (head : Claims.Head s core 1 u e rest)
include head

theorem engine_promotedState (acc : Nat) (p : Promotion) (pipe : List Promotion) : (promotedState s core u e acc p pipe).engine core 1 u =
    { s.engine core 1 u with entries := { e with pipe := pipe, rowsDone := sadd e.rowsDone p.row } :: rest } := by
  have queues := engine_setArch s core (a := promoteRow (s.arch core) acc p (p.ovr && !e.rowsDone.contains p.row)) (fun _ _ => rfl) 1 u
  rw [promotedState, engine_setHead (by rw [queues]; exact head.1), queues]

theorem noneCancelled_promotedState (acc : Nat) (p : Promotion) (pipe : List Promotion) :
    Claims.NoneCancelled (promotedState s core u e acc p pipe) core := by
  have queues := engine_setArch s core (a := promoteRow (s.arch core) acc p (p.ovr && !e.rowsDone.contains p.row)) (fun _ _ => rfl)
  have none := noneCancelled_of_sameQueues queues head.2
  rw [promotedState, setHead_eq (by rw [queues]; exact head.1)]
  refine noneCancelled_setEngine none 1 u fun x among => ?_
  rcases List.mem_cons.mp among with rfl | later
  · exact head_notCancelled (e := e) head
  · exact (noneCancelled_iff s core).mp head.2 1 u x (by rw [head.1]; exact List.mem_cons_of_mem e later)

theorem acc_promotedState (acc : Nat) (p : Promotion) (pipe : List Promotion) : ((promotedState s core u e acc p pipe).arch core).acc =
    (promoteRow (s.arch core) acc p (p.ovr && !e.rowsDone.contains p.row)).acc := by
  have queues := engine_setArch s core (a := promoteRow (s.arch core) acc p (p.ovr && !e.rowsDone.contains p.row)) (fun _ _ => rfl) 1 u
  rw [promotedState, setHead_eq (by rw [queues]; exact head.1), (sameStorage_setEngine ..).1, arch_setArch_same]

theorem exec_promotion {ovr park : Bool} {acc : Nat} {p0 p1 p2 p3 : W32} (kind : e.kind = .job ovr acc park p0 p1 p2 p3) {p : Promotion}
    {pipe : List Promotion} (steps : e.pipe = p :: pipe) (time : p.at_ ≤ s.pk.array) (locked : (s.die (dieOf core)).relock = none)
    (pure_ : (p.ovr && !e.rowsDone.contains p.row) = true ∨ rowPoisoned (s.arch core) acc p.row = false) :
    exec (.jobPromotion core u) s = .next (settleJob (promotedState s core u e acc p pipe) core u) := by
  have reach : dieReachable s (dieOf core) = true := by rw [dieReachable, locked]; rfl
  have gate : ¬(s.pk.array < p.at_ ∨ (!dieReachable s (dieOf core)) = true) := by
    rw [reach]
    rintro (early | stopped)
    · omega
    · cases stopped
  have clean : ¬((!(p.ovr && !e.rowsDone.contains p.row) && rowPoisoned (s.arch core) acc p.row) = true) := by
    rcases pure_ with fresh | row
    · rw [fresh]; exact Bool.false_ne_true
    · rw [row, Bool.and_false]; exact Bool.false_ne_true
  change execJobPromotion core u s = _
  rw [execJobPromotion, head.1]
  simp only [kind, steps, if_neg gate, if_neg clean, promotedState]

end

theorem promotedWord (fresh : Bool) (old new : BitVec 32) : BitVec.ofNat 32 (promoteHalf fresh old.toNat new.toNat).1 =
    if fresh then new else BitVec.ofNat 32 (fpAdd f32 0 (fpDecode f32 old.toNat) (fpDecode f32 new.toNat)).1 := by
  cases fresh with
  | true => exact BitVec.ofNat_toNat 32 new |>.trans (BitVec.setWidth_eq new)
  | false => rfl

/-! ## MZERO_END -/

theorem tget_filter (p : Nat → Bool) (t : Tab W64) (k : Nat) : tget 0 (t.filter (fun x => p x.1)) k = if p k then tget 0 t k else 0 := by
  rw [tget, tfind_filter]
  split <;> rfl

theorem getLsbD_cleared {acc m : Nat} (b : BitVec 4) (bit : m < 4) :
    (b &&& ~~~(1#4 <<< acc)).getLsbD m = (b.getLsbD m && m != acc) := by
  rw [BitVec.getLsbD_and, BitVec.getLsbD_not, BitVec.getLsbD_shiftLeft, decide_eq_true bit, BitVec.getLsbD_one]
  congr 1
  by_cases same : m = acc
  · subst same
    simp
  · rw [bne_iff_ne.mpr same]
    simp
    omega

section
variable {s : State} {core : Nat} {u : Bool} {e : Entry} {rest : List Entry} (head : Claims.Head s core 1 u e rest)
  (due : Claims.Due s core u e)
include head due

/-- The core's machine words once an accumulator has been zeroed. -/
def zeroed (a : CoreArch) (acc : Nat) : CoreArch := { a with
  acc := a.acc.filter (fun x => !(x.1 / 16384 == acc)), accPoison := a.accPoison.filter (fun k => !(k / 16384 == acc)),
  accNan := a.accNan &&& ~~~(1#4 <<< acc), accOfl := a.accOfl &&& ~~~(1#4 <<< acc) }

theorem exec_mzeroEnd {acc : Nat} (kind : e.kind = .mzero acc) :
    exec (.mzeroEnd core u) s = .next (endEntry (s.setArch core (zeroed (s.arch core) acc)) core 1 u .done) := by
  have time : ¬s.pk.array < e.start := by
    obtain ⟨-, -, -, -, time⟩ := due
    omega
  change execMzeroEnd core u s = _
  simp only [execMzeroEnd, runningHead_due head due, kind, if_neg time]
  rfl

theorem mzero_zeroes {acc : Nat} (kind : e.kind = .mzero acc) : ∃ t, exec (.mzeroEnd core u) s = .next t ∧
    Claims.EndsDone s t core 1 u e rest ∧ (∀ k, tget 0 (t.arch core).acc k = if k / 16384 = acc then 0 else tget 0 (s.arch core).acc k) ∧
    (∀ m < 4, (t.arch core).accNan.getLsbD m = ((s.arch core).accNan.getLsbD m && m != acc) ∧
      (t.arch core).accOfl.getLsbD m = ((s.arch core).accOfl.getLsbD m && m != acc)) := by
  obtain ⟨done, accs, -, -, -, nan, ofl, -⟩ := effect_then_done head (by rw [EndsAlone, kind]; trivial)
    (engine_setArch s core (a := zeroed (s.arch core) acc) fun _ _ => rfl)
  rw [arch_setArch_same] at accs nan ofl
  refine ⟨_, exec_mzeroEnd head due kind, done, fun k => ?_, fun m bit => ?_⟩
  · rw [accs, zeroed, tget_filter (fun k => !(k / 16384 == acc))]
    by_cases inside : k / 16384 = acc <;> simp [inside]
  · rw [nan, ofl]
    exact ⟨getLsbD_cleared _ bit, getLsbD_cleared _ bit⟩

end

/-! ## MLDB_END -/

theorem tfind_foldl_tput {α : Type} (v : α) {b : Nat} (banks : List Nat) (t : Tab α) (named : b ∈ banks ∨ tfind t b = some v) :
    tfind (banks.foldl (fun t b => tput t b v) t) b = some v := by
  induction banks generalizing t with
  | nil => exact named.resolve_left (List.not_mem_nil)
  | cons c banks ih =>
    refine ih _ ?_
    rw [tfind_tput]
    by_cases here : c = b
    · exact .inr (if_pos here)
    · rw [if_neg here]
      exact named.imp_left fun among => (List.mem_cons.mp among).resolve_left (Ne.symm here)

theorem tfind_validTile {a : CoreArch} {fmt : BitVec 4} {first b : Nat} (sB : W32) (named : first ≤ b ∧ b < first + tileBanks fmt.toNat) :
    tfind (validTile a fmt first sB).tiles b = some { first := first, fmt := fmt, sB := sB } :=
  tfind_foldl_tput _ _ _ (.inl (mem_bankRange.mpr named))

theorem tileSize_eq {f : Nat} (format : f ∈ [5, 6, 7, 8, 10]) : tileSize f = 8192 * tileBanks f + (if f = 8 then 256 else 0) := by
  simp only [List.mem_cons, List.not_mem_nil, or_false] at format
  rcases format with rfl | rfl | rfl | rfl | rfl <;> rfl

/-- The bytes of an image that fills its banks are in the arrays. -/
theorem mread_cim_placeImage (a : CoreArch) {fmt first i : Nat} {bs : List Byte} (full : 8192 * tileBanks fmt ≤ bs.length)
    (inside : i < 8192 * tileBanks fmt) : mread (placeImage a fmt first 0 bs).cim (8192 * first + i) = bs.getD i 0 := by
  have taken : (bs.take (8192 * tileBanks fmt)).length = 8192 * tileBanks fmt := by rw [List.length_take]; omega
  simp only [placeImage, Nat.sub_zero, Nat.add_zero]
  rw [mread_mwriteN, if_pos (by omega), Nat.add_sub_cancel_left]
  simp [List.getD, inside]

/-- The scales of a block image follow its data. -/
theorem mread_cimScale_placeImage (a : CoreArch) {fmt first i : Nat} {bs : List Byte} (block : fmt = 8) (full : bs.length = 8448)
    (inside : i < 256) : mread (placeImage a fmt first 0 bs).cimScale (256 * first + i) = bs.getD (8192 + i) 0 := by
  subst block
  have banks : 8192 * tileBanks 8 = 8192 := rfl
  have scales : (bs.drop 8192).length = 256 := by rw [List.length_drop, full]
  have some : (bs.drop 8192).isEmpty = false := by
    rw [List.isEmpty_eq_false_iff, ← List.length_pos_iff, scales]; decide
  simp only [placeImage, banks, Nat.sub_zero, some, Bool.false_eq_true, if_false]
  have start : Nat.max 0 8192 - 8192 = 0 := rfl
  rw [start, Nat.add_zero, mread_mwriteN, scales, if_pos (by omega), Nat.add_sub_cancel_left]
  simp [List.getD]

/-- The core's machine words once an MLDB has placed its tile. -/
def loaded (m : Memory) (core : Nat) (a : CoreArch) (f : BitVec 4) (bank src : Nat) (sB : W32) : CoreArch :=
  validTile (placeImage a f.toNat bank 0 (spadBytes m core src (tileSize f.toNat))) f bank sB

section
variable {s : State} {core : Nat} {u : Bool} {e : Entry} {rest : List Entry} (head : Claims.Head s core 1 u e rest)
  (due : Claims.Due s core u e) (unlocked : Claims.NoLocks s core) (settled : Claims.NoOwnStores s core e)
include head due unlocked settled

theorem exec_mldbEnd {f : BitVec 4} {bank src : Nat} {sB : W32} (kind : e.kind = .mldb f bank src sB) (format : f.toNat ∈ [5, 6, 7, 8, 10])
    (clean : ∀ k < tileSize f.toNat / 16, spadPoisoned s.mem core (src + 16 * k) 16 = false) : exec (.mldbEnd core u) s =
      .next (endEntry (s.setArch core (loaded s.mem core (s.arch core) f bank src sB)) core 1 u .done) := by
  have gate : ¬(s.pk.array < e.start ∨ (lockedByte (s.arch core) (e.slot % 16) src (tileSize f.toNat)).isSome = true) := by
    obtain ⟨-, -, -, -, time⟩ := due
    rw [lockedByte_of_noLocks unlocked]
    rintro (early | locked)
    · omega
    · cases locked
  have positive : 0 < tileSize f.toNat := by
    rw [tileSize_eq format, tileBanks]
    split_ifs <;> decide
  have pure_ : (List.range (tileSize f.toNat / 16)).find? (fun k =>
      ((engineBytes s core e.slot (src + 16 * k) 16).map (·.2)).getD false) = none :=
    List.find?_eq_none.mpr fun k among => by
      rw [engineBytes_of_noOwnStores settled _ (by decide), clean k (List.mem_range.mp among)]
      exact Bool.false_ne_true
  change execMldbEnd core u s = _
  simp only [execMldbEnd, runningHead_due head due, kind, if_neg gate, engineBytes_of_noOwnStores settled src positive, pure_]
  rfl

theorem mldb_places {f : BitVec 4} {bank src : Nat} {sB : W32} (kind : e.kind = .mldb f bank src sB) (format : f.toNat ∈ [5, 6, 7, 8, 10])
    (clean : ∀ k < tileSize f.toNat / 16, spadPoisoned s.mem core (src + 16 * k) 16 = false) :
    ∃ t, exec (.mldbEnd core u) s = .next t ∧ Claims.EndsDone s t core 1 u e rest ∧
      (∀ b, bank ≤ b → b < bank + tileBanks f.toNat → tfind (t.arch core).tiles b = some { first := bank, fmt := f, sB := sB }) ∧
      (∀ i < 8192 * tileBanks f.toNat, mread (t.arch core).cim (8192 * bank + i) = mread s.mem.spad (core * 2 ^ 20 + src + i)) ∧
      (f = 8 → ∀ i < 256, mread (t.arch core).cimScale (256 * bank + i) = mread s.mem.spad (core * 2 ^ 20 + src + 8192 + i)) := by
  obtain ⟨done, -, tiles, cim, scale, -⟩ := effect_then_done head (by rw [EndsAlone, kind]; trivial)
    (engine_setArch s core (a := loaded s.mem core (s.arch core) f bank src sB) fun _ _ => rfl)
  rw [arch_setArch_same] at tiles cim scale
  refine ⟨_, exec_mldbEnd head due unlocked settled kind format clean, done, fun b least most => ?_, fun i inside => ?_, fun block i inside => ?_⟩
  · rw [tiles]
    exact tfind_validTile sB ⟨least, most⟩
  · have image : 8192 * tileBanks f.toNat ≤ tileSize f.toNat := by rw [tileSize_eq format]; omega
    rw [cim, ← getD_spadBytes s.mem core src (n := tileSize f.toNat) (by omega)]
    exact mread_cim_placeImage _ (by rw [length_spadBytes]; exact image) inside
  · have number : f.toNat = 8 := by rw [block]; rfl
    have image : tileSize f.toNat = 8448 := by rw [number]; rfl
    rw [scale]
    refine (mread_cimScale_placeImage _ number ((length_spadBytes ..).trans image) inside).trans ?_
    rw [getD_spadBytes _ _ _ (by omega)]
    exact congrArg (mread s.mem.spad) (by omega)

end

/-! ## MRD_END -/

theorem natOfBytes_bytesOfNat (n v : Nat) : natOfBytes (bytesOfNat n v) = v % 256 ^ n := by
  induction n generalizing v with
  | zero => rw [Nat.pow_zero, Nat.mod_one]; rfl
  | succ n ih =>
    have more : 256 ^ (n + 1) = 2 ^ 8 * 256 ^ n := Nat.pow_succ'
    rw [bytesOfNat, natOfBytes, ih, BitVec.toNat_ofNat, more, Nat.mod_mul]
    rfl

theorem spadBytes_congr {m m' : Memory} {core o n : Nat}
    (same : ∀ x, core * 2 ^ 20 + o ≤ x → x < core * 2 ^ 20 + o + n → mread m.spad x = mread m'.spad x) : spadBytes m core o n = spadBytes m' core o n := by
  refine List.ext_getElem (by simp) fun i left right => ?_
  rw [length_spadBytes] at left
  have byte := same (core * 2 ^ 20 + o + i) (by omega) (by omega)
  rw [← getD_spadBytes m core o left, ← getD_spadBytes m' core o left] at byte
  simpa [List.getD, left] using byte

/-- A block of equal parts holds its parts. -/
theorem take_drop_flatMap {α β : Type} {f : α → List β} {w : Nat} (parts : ∀ x, (f x).length = w) (l : List α) {j : Nat} {x : α}
    (at_ : l[j]? = some x) : ((l.flatMap f).drop (j * w)).take w = f x := by
  induction l generalizing j with
  | nil => cases at_
  | cons y l ih =>
    cases j with
    | zero =>
      cases at_
      rw [Nat.zero_mul, List.drop_zero, List.flatMap_cons, List.take_left' (parts _)]
    | succ j =>
      rw [List.flatMap_cons, Nat.succ_mul, Nat.add_comm (j * w), ← List.drop_drop, List.drop_left' (parts y)]
      exact ih at_

section
variable {core dst L : Nat} {row : Nat → List Byte} (rows : ∀ r, (row r).length = L)
include rows

theorem mread_rows_other (m : Memory) (n : Nat) {x : Nat} (outside : x < core * 2 ^ 20 + dst ∨ core * 2 ^ 20 + dst + n * L ≤ x) :
    mread (upTo n (fun m r => spadWrite m core (dst + r * L) (row r)) m).spad x = mread m.spad x := by
  induction n with
  | zero => rfl
  | succ n ih =>
    rw [Nat.succ_mul] at outside
    rw [upTo_succ, spadWrite_other _ _ _ _ _ (by rw [rows]; omega), ih (by omega)]

theorem spadBytes_rows (m : Memory) (n : Nat) {r : Nat} (among : r < n) :
    spadBytes (upTo n (fun m r => spadWrite m core (dst + r * L) (row r)) m) core (dst + r * L) L = row r := by
  induction n with
  | zero => omega
  | succ n ih =>
    rw [upTo_succ]
    by_cases last : r = n
    · subst last
      have whole := spadBytes_spadWrite (upTo r (fun m r => spadWrite m core (dst + r * L) (row r)) m) core (dst + r * L) (row r)
      rwa [rows] at whole
    · have before : (r + 1) * L ≤ n * L := Nat.mul_le_mul_right L (by omega)
      rw [Nat.succ_mul] at before
      rw [← ih (by omega)]
      exact spadBytes_congr fun x least most => spadWrite_other _ _ _ _ _ (by omega)

end

/-- A row as MRD writes it. -/
def mrdRow (a : CoreArch) (half : Bool) (acc row : Nat) : List Byte :=
  (List.range 128).flatMap (fun j => bytesOfNat (if half then 2 else 4) (mrdElement half (tget 0 a.acc (accKey acc row j))))

theorem length_mrdRow (a : CoreArch) (half : Bool) (acc row : Nat) : (mrdRow a half acc row).length = 128 * (if half then 2 else 4) := by
  have parts : (List.range 128).map (fun j =>
      (bytesOfNat (if half then 2 else 4) (mrdElement half (tget 0 a.acc (accKey acc row j)))).length) =
      List.replicate 128 (if half then 2 else 4) := by
    simp only [length_bytesOfNat, List.map_const', List.length_range]
  rw [mrdRow, List.length_flatMap, parts, List.sum_replicate_nat]

theorem mrdElement_lt (half : Bool) (p : W64) : mrdElement half p < 256 ^ (if half then 2 else 4) := by
  cases half with
  | true => exact fpAdd_lt packed_b16 ..
  | false => exact fpAdd_lt packed_f32 ..

theorem mrdElement_eq (half : Bool) (p : W64) : mrdElement half p =
    (fpAdd (if half then b16 else f32) 0 (fpDecode f32 (p.toNat % 2 ^ 32)) (fpDecode f32 (p.toNat / 2 ^ 32))).1 := by
  have even : (p.extractLsb' 0 32).toNat = p.toNat % 2 ^ 32 := by rw [BitVec.extractLsb'_toNat]; rfl
  have odd : (p.extractLsb' 32 32).toNat = p.toNat / 2 ^ 32 := by
    have := p.isLt
    rw [BitVec.extractLsb'_toNat, Nat.shiftRight_eq_div_pow]
    omega
  rw [mrdElement, even, odd]

/-- An element of a row as MRD writes it. -/
theorem element_mrdRow (a : CoreArch) (half : Bool) (acc row : Nat) {j : Nat} (column : j < 128) :
    natOfBytes (((mrdRow a half acc row).drop (j * (if half then 2 else 4))).take (if half then 2 else 4)) =
      mrdElement half (tget 0 a.acc (accKey acc row j)) := by
  rw [mrdRow, take_drop_flatMap (fun _ => length_bytesOfNat ..) _ (List.getElem?_range column), natOfBytes_bytesOfNat,
    Nat.mod_eq_of_lt (mrdElement_lt ..)]

/-- The pairs MRD clears. -/
def readPairs (acc first n k : Nat) : Bool := accKey acc first 0 ≤ k && k < accKey acc (first + n) 0

/-- The state once MRD has written its rows, and cleared their pairs where asked. -/
def afterMrd (s : State) (core acc first n : Nat) (half clr : Bool) (dst : Nat) : State :=
  let mem := upTo n (fun m r => spadWrite m core (dst + r * (128 * if half then 2 else 4)) (mrdRow (s.arch core) half acc (first + r))) s.mem
  let a : CoreArch := if clr then { s.arch core with acc := (s.arch core).acc.filter (fun x => !readPairs acc first n x.1) } else s.arch core
  { s with mem := mem }.setArch core a

theorem engine_afterMrd (s : State) (core acc first n : Nat) (half clr : Bool) (dst eng : Nat) (u : Bool) :
    (afterMrd s core acc first n half clr dst).engine core eng u = s.engine core eng u := by
  rw [State.engine, afterMrd]
  simp only [arch_setArch_same]
  cases clr <;> rfl

theorem acc_afterMrd (s : State) (core acc first n : Nat) (half clr : Bool) (dst : Nat) :
    ((afterMrd s core acc first n half clr dst).arch core).acc =
      if clr then (s.arch core).acc.filter (fun x => !readPairs acc first n x.1) else (s.arch core).acc := by
  rw [afterMrd]
  simp only [arch_setArch_same]
  cases clr <;> rfl

theorem mem_afterMrd (s : State) (core acc first n : Nat) (half clr : Bool) (dst : Nat) : (afterMrd s core acc first n half clr dst).mem =
    upTo n (fun m r => spadWrite m core (dst + r * (128 * if half then 2 else 4)) (mrdRow (s.arch core) half acc (first + r))) s.mem := rfl

theorem readPairs_inside {acc first n r j : Nat} (among : r < n) (column : j < 128) : readPairs acc first n (accKey acc (first + r) j) = true := by
  rw [readPairs, Bool.and_eq_true, decide_eq_true_iff, decide_eq_true_iff]
  simp only [accKey]
  omega

section
variable {s : State} {core : Nat} {u : Bool} {e : Entry} {rest : List Entry} (head : Claims.Head s core 1 u e rest)
  (due : Claims.Due s core u e) (unlocked : Claims.NoLocks s core) (settled : Claims.NoOwnStores s core e)
  {acc first n dst : Nat} {half clr : Bool} (kind : e.kind = .mrd acc first n half clr dst)
  (clean : ∀ r < n, rowPoisoned (s.arch core) acc (first + r) = false)
include head due unlocked settled kind clean

theorem exec_mrdEnd : exec (.mrdEnd core u) s = .next (endEntry (afterMrd s core acc first n half clr dst) core 1 u .done) := by
  have gate : ¬(s.pk.array < e.start ∨
      (lockedByte (s.arch core) (e.slot % 16) dst (n * (128 * if half = true then 2 else 4))).isSome = true ∨
      (e.slot < 8 ∧ ownPending s (keyOf core e.slot) (.spad core dst) (n * (128 * if half = true then 2 else 4)) ≠ [])) := by
    obtain ⟨-, -, -, -, time⟩ := due
    rw [lockedByte_of_noLocks unlocked]
    rintro (early | locked | ⟨ordinary, pending⟩)
    · omega
    · cases locked
    · exact pending (ownPending_eq_nil ordinary settled.1 settled.2 ..)
  have pure_ : ¬((List.range n).any (fun r => rowPoisoned (s.arch core) acc (first + r)) = true) := by
    rw [Bool.not_eq_true, List.any_eq_false]
    intro r among
    rw [clean r (List.mem_range.mp among)]
    exact Bool.false_ne_true
  change execMrdEnd core u s = _
  simp only [execMrdEnd, runningHead_due head due, kind, if_neg gate, if_neg pure_, Nat.mul_assoc]
  rfl

theorem mrd_writes :
    let w := if half then 2 else 4
    let F := if half then b16 else f32
    ∃ t, exec (.mrdEnd core u) s = .next t ∧ Claims.EndsDone s t core 1 u e rest ∧
      (∀ r < n, ∀ j < 128,
        let p := tget 0 (s.arch core).acc (acc * 16384 + (first + r) * 128 + j)
        natOfBytes (spadBytes t.mem core (dst + (r * 128 + j) * w) w) =
          (fpAdd F 0 (fpDecode f32 (p.toNat % 2 ^ 32)) (fpDecode f32 (p.toNat / 2 ^ 32))).1) ∧
      (∀ x, x < core * 2 ^ 20 + dst ∨ core * 2 ^ 20 + dst + n * 128 * w ≤ x → mread t.mem.spad x = mread s.mem.spad x) ∧
      (clr = false → (t.arch core).acc = (s.arch core).acc) ∧
      (clr = true → ∀ r < n, ∀ j < 128, tget 0 (t.arch core).acc (acc * 16384 + (first + r) * 128 + j) = 0) := by
  intro w F
  obtain ⟨done, accs, -, -, -, -, -, mem⟩ := effect_then_done head (by rw [EndsAlone, kind]; trivial)
    (engine_afterMrd s core acc first n half clr dst)
  rw [acc_afterMrd] at accs
  rw [mem_afterMrd] at mem
  have rows := fun r => length_mrdRow (s.arch core) half acc (first + r)
  refine ⟨_, exec_mrdEnd head due unlocked settled kind clean, done, fun r among j column => ?_, fun x outside => ?_, fun keeps => ?_,
    fun clears r among j column => ?_⟩
  · have part : (j + 1) * w ≤ 128 * w := Nat.mul_le_mul_right w (by omega)
    have place : dst + (r * 128 + j) * w = dst + r * (128 * w) + j * w := by rw [Nat.add_mul, Nat.mul_assoc, Nat.add_assoc]
    rw [mem, place, ← take_drop_spadBytes _ _ _ (n := 128 * w) (by rwa [Nat.succ_mul] at part), spadBytes_rows rows _ n among]
    exact (element_mrdRow _ half acc _ column).trans (mrdElement_eq half _)
  · rw [mem, mread_rows_other rows _ n (by rwa [Nat.mul_assoc] at outside)]
  · rw [accs, keeps]
    rfl
  · rw [accs, if_pos clears, tget_filter (fun k => !readPairs acc first n k)]
    have inside := readPairs_inside (acc := acc) (first := first) among column
    rw [accKey] at inside
    rw [inside]
    rfl

end

/-! ## The work of the matrix engine -/

theorem getD_stepProducts (a : CoreArch) (t : Tile) (A : Nat → Fp) (sA : Nat) {n : Nat} (column : n < 128) :
    (stepProducts a t A sA).1.getD n 0 = (columnProducts t.fmt.toNat A (fun k => elemOf t.fmt.toNat
      (fun i => (mread a.cim (8192 * t.first + i)).toNat) (n * 128 + k) (mread a.cimScale (256 * t.first + 2 * n + k / 64)).toNat)
      (fpMul f32 0 (fpDecode f32 sA) (fpDecode f32 t.sB.toNat)).1).1 := by
  simp only [stepProducts, List.map_map]
  exact getD_map_range _ 0 column

theorem accKey_zero_add (acc row n : Nat) : accKey acc row 0 + n = accKey acc row n := congrArg (· + n) (Nat.add_zero (acc * 16384 + row * 128))

theorem pair_promoteRow (a : CoreArch) {acc : Nat} {p : Promotion} (whole : p.vals.length = 128) (fresh : Bool) {n : Nat} (column : n < 128) :
    tget 0 (promoteRow a acc p fresh).acc (accKey acc p.row n) =
      promotedPair fresh (tget 0 a.acc (accKey acc p.row n)) (p.vals.getD n 0) := by
  rw [← accKey_zero_add, tget_promoteRow, whole, if_pos (by omega), Nat.add_sub_cancel_left]

theorem pair_promoteRow_other (a : CoreArch) {acc : Nat} {p : Promotion} (whole : p.vals.length = 128) (fresh : Bool) {k : Nat}
    (outside : k < accKey acc p.row 0 ∨ accKey acc p.row 128 ≤ k) : tget 0 (promoteRow a acc p fresh).acc k = tget 0 a.acc k := by
  rw [← accKey_zero_add acc p.row 128] at outside
  rw [tget_promoteRow, whole, if_neg (by omega)]

theorem step_isPerformed {s : State} {core : Nat} {u : Bool} {e : Entry} {rest : List Entry} (head : Claims.Head s core 1 u e rest)
    (due : Claims.Due s core u e) (unlocked : Claims.NoLocks s core) (settled : Claims.NoOwnStores s core e) {ovr park : Bool} {acc : Nat}
    {p0 p1 p2 p3 : W32} (kind : e.kind = .job ovr acc park p0 p1 p2 p3) (more : e.next < stepCount e.nest) {tile : Tile}
    {c : JobCard} (card : c = jobCard p0 p1 p2 p3) (same : tile.fmt.toNat = c.fmt) (format : c.fmt ∈ [5, 6, 7, 8, 10])
    (valid : tfind (s.arch core).tiles (stepValue c.bank0 (·.bankstr) e.nest e.next).toNat = some tile)
    (pure_ : tilePoisoned (s.arch core) tile = false) {ao so ko : Nat} (row : ao = (stepValue c.abase (·.astr) e.nest e.next).toNat)
    (scale : so = (stepValue c.sbase (·.sstr) e.nest e.next).toNat) (blocks : ko = c.kbase + ao / 32)
    (rowClean : spadPoisoned s.mem core ao (rowBytes c.fmt) = false) (scaleClean : c.usa = false → spadPoisoned s.mem core so 4 = false)
    (blocksClean : c.fmt = 8 → spadPoisoned s.mem core ko 2 = false) :
    ∃ t p, exec (.jobStepIssue core u) s = .next t ∧ t.engine core 1 u = { s.engine core 1 u with entries :=
        { e with next := e.next + 1, pipe := e.pipe ++ [p], start := s.pk.array + stepCycles c.fmt } :: rest } ∧
      p.at_ = s.pk.array + 40 ∧ p.row = (stepValue c.row0 (·.accstr) e.nest e.next).toNat ∧ p.ovr = ovr ∧ p.vals.length = 128 ∧
      (∀ n < 128, p.vals.getD n 0 = (columnProducts c.fmt
        (fun k => elemOf c.fmt (fun i => (mread s.mem.spad (core * 2 ^ 20 + ao + i)).toNat) k
          (mread s.mem.spad (core * 2 ^ 20 + ko + k / 64)).toNat)
        (fun k => elemOf c.fmt (fun i => (mread (s.arch core).cim (8192 * tile.first + i)).toNat) (n * 128 + k)
          (mread (s.arch core).cimScale (256 * tile.first + 2 * n + k / 64)).toNat)
        (fpMul f32 0 (fpDecode f32 (scaleOfA s.mem core c so)) (fpDecode f32 tile.sB.toNat)).1).1) ∧ t.mem = s.mem := by
  subst row scale blocks
  refine ⟨_, _, exec_step head due unlocked settled kind card more valid pure_ fun r among => ?_, engine_setHead head.1 _, rfl, rfl, rfl,
    ?_, fun n column => ?_, rfl⟩
  · rcases mem_stepRanges among with rfl | ⟨usa, rfl⟩ | ⟨block, rfl⟩
    · exact rowClean
    · exact scaleClean usa
    · exact blocksClean block
  · simp only [stepPromotion, stepProducts, List.length_map, List.length_range]
  · refine (getD_stepProducts _ tile _ _ column).trans ?_
    rw [same]
    exact congrArg (·.1) (columnProducts_congr _ _ _ fun k inside => rowElement_eq _ _ _ _ format inside)

theorem promotion_isPerformed {s : State} {core : Nat} {u : Bool} {e : Entry} {rest : List Entry} (head : Claims.Head s core 1 u e rest)
    {ovr park : Bool} {acc : Nat} {p0 p1 p2 p3 : W32} (kind : e.kind = .job ovr acc park p0 p1 p2 p3) {p : Promotion} {pipe : List Promotion}
    (steps : e.pipe = p :: pipe) (faultless : e.fault = none) (time : p.at_ ≤ s.pk.array) (locked : (s.die (dieOf core)).relock = none)
    (pure_ : (p.ovr && !e.rowsDone.contains p.row) = true ∨ rowPoisoned (s.arch core) acc p.row = false) :
    ∃ t, exec (.jobPromotion core u) s = .next t ∧
      (t.arch core).acc = (promoteRow (s.arch core) acc p (p.ovr && !e.rowsDone.contains p.row)).acc ∧
      (pipe ≠ [] → (t.engine core 1 u).entries.head?.map (·.pipe) = some pipe) ∧
      (pipe = [] → e.state = .running → e.next = stepCount e.nest → e.next ≠ 0 → Claims.EndsDone s t core 1 u e rest) := by
  have queue := engine_promotedState head acc p pipe
  have none := noneCancelled_promotedState head acc p pipe
  have entries := congrArg EngineQueue.entries queue
  have alone : EndsAlone { e with pipe := pipe, rowsDone := sadd e.rowsDone p.row } := by rw [EndsAlone]; simp only [kind]
  refine ⟨_, exec_promotion head kind steps time locked pure_, ?_, fun more => ?_, fun last running whole some => ?_⟩
  · exact (sameStorage_settleJob entries none faultless alone).1.trans (acc_promotedState head acc p pipe)
  · rw [settleJob_busy entries more, queue]
    rfl
  · rw [settleJob_live entries last faultless (head_notCancelled (e := e) head), if_pos ⟨running, whole, some⟩]
    have done := endsDone_endEntry entries none alone
    rw [Claims.EndsDone, queue] at done
    exact done

theorem matrixWorkIsPerformed : Claims.MatrixWorkIsPerformed := by
  intro s core u e rest head unlocked a q
  refine ⟨?steps, ?promotions, ?mldb, ?mzero, ?mrd⟩
  case steps =>
    intro ovr acc park p0 p1 p2 p3 tile kind due settled more c at_ ao so ko A B sA scale same format valid pure_ rowClean scaleClean blocksClean
    exact step_isPerformed head due unlocked settled kind more rfl same format valid pure_ rfl rfl rfl rowClean scaleClean blocksClean
  case promotions =>
    intro ovr acc park p0 p1 p2 p3 p pipe kind steps faultless time locked small accumulator whole fresh half pure_
    obtain ⟨t, ran, accs, busy, done⟩ := promotion_isPerformed head kind steps faultless time locked pure_
    refine ⟨t, ran, fun n column => ?_, fun k outside => ?_, busy, done⟩
    · intro k
      have pair := pair_promoteRow a whole fresh column (acc := acc)
      have even := even_promotedPair fresh (tget 0 a.acc (accKey acc p.row n)) (p.vals.getD n 0)
      have odd := odd_promotedPair fresh (tget 0 a.acc (accKey acc p.row n)) (p.vals.getD n 0)
      rw [← pair, promotedWord] at even odd
      rw [accs]
      exact ⟨even, odd⟩
    · have start : accKey acc p.row 0 = acc * 16384 + p.row * 128 := Nat.add_zero _
      rw [accs]
      exact pair_promoteRow_other a whole _ (by rw [start]; exact outside)
  case mldb =>
    intro f bank src sB kind due settled format clean
    exact mldb_places head due unlocked settled kind format clean
  case mzero =>
    intro acc kind due _
    exact mzero_zeroes head due kind
  case mrd =>
    intro acc first n half clr dst kind due settled clean
    exact mrd_writes head due unlocked settled kind clean

/-! ## O21 -/

/-- Settles O21: the starts of a matrix queue's head, then the steps, promotions and ends of its entries. -/
theorem matrixEntriesStartAndWork : Obligations.MatrixEntriesStartAndWork := by
  unfold Obligations.MatrixEntriesStartAndWork
  exact ⟨matrixEntriesStartInOrder, matrixWorkIsPerformed⟩

end Sys2Proof.Laws
end

section
/-! PROOFS. Copies and pauses (R180, R181, R188): how a copy moves a row within a scratchpad and how it ends, and how the entries of the
engines pause and go on. -/

namespace Sys2Proof.Laws

open Sys2Proof Sys2Proof.Machine

/-! ## Accesses of a copy to its own scratchpad -/

/-- Nothing stands in the way of the copies of a slot in its core's scratchpad. -/
structure CopyOpen (s : State) (core slot : Nat) : Prop where
  ordinary : slot < 8
  unlocked : (s.arch core).locks = []
  accepted : (s.core core).storeq = []
  compared : (s.thread (keyOf core slot)).cmp = []
  reachable : dieReachable s (dieOf core) = true
  pure_ : s.mem.spadPoison = []

section
variable {s : State} {core slot : Nat} (free : CopyOpen s core slot)
include free

/-- A store to the scratchpad leaves the way open. -/
theorem CopyOpen.spadWrite (o : Nat) (bs : List Byte) : CopyOpen { s with mem := spadWrite s.mem core o bs } core slot where
  ordinary := free.ordinary
  unlocked := free.unlocked
  accepted := free.accepted
  compared := free.compared
  reachable := free.reachable
  pure_ := by
    change clearPoison s.mem.spadPoison _ _ = []
    rw [free.pure_]
    rfl

theorem resolve_spad (k : AccessKind) (ea : W64) {o n : Nat} (inside : o + n ≤ 0x100000) :
    resolve s (keyOf core slot) ea n k 2 o = .ok (s, .spad core (o % 0x400000)) := by
  have own := coreOf_keyOf core free.ordinary
  have window : o / 0x400000 = 0 := by omega
  have view : o % 0x400000 = o := by omega
  have settled : acquirePending s (keyOf core slot) = false := by
    rw [acquirePending, own, free.accepted, free.compared]
    rfl
  have waits : lockWait s (keyOf core slot) 0 o n (s.thread (keyOf core slot)).wscb ea = .ok () := by
    rw [lockWait, own]
    split
    · rfl
    · simp only [winRanges, if_pos, List.findSome?_cons, List.findSome?_nil, lockedByte_of_noLocks free.unlocked]
  have checks : winCheck k 0 o n (s.thread (keyOf core slot)).wscb ea = .ok () := by
    rw [winCheck, if_pos rfl, need_true (decide_eq_true inside)]
  simp only [resolve, settled, window, view, checks, waits, own, bind, Except.bind, pure, Except.pure]
  rfl

theorem placeHeld_spad (o n : Nat) : placeHeld s (keyOf core slot) (.spad core o) n = false := by
  simp [placeHeld, placeReachable, free.reachable, coreOf_keyOf core free.ordinary]

theorem copyRead_spad {ea : W64} {o n : Nat} (segment : Claims.SegOk (s.thread (keyOf core slot)) ea n rightR 2 o) (inside : o + n ≤ 0x100000)
    (positive : 0 < n) (pos : Nat) (ext : ExtReply) : copyRead s (keyOf core slot) ea n pos ext = .ok (s, spadBytes s.mem core o n) := by
  have view : o % 0x400000 = o := by omega
  have clean : spadPoisoned s.mem core o n = false := by
    rw [spadPoisoned, free.pure_]
    rfl
  simp only [copyRead, segCheck_of_segOk segment, resolve_spad free .load ea inside, view, bind, Except.bind, placeHeld_spad free,
    Place.external, bytesNow_spad free.ordinary free.accepted free.compared o positive, clean, pure, Except.pure]
  rfl

theorem engineStore_spad {ea : W64} {o : Nat} {bs : List Byte} (segment : Claims.SegOk (s.thread (keyOf core slot)) ea bs.length rightW 2 o)
    (inside : o + bs.length ≤ 0x100000) :
    engineStore s (keyOf core slot) ea bs = .ok { s with mem := spadWrite s.mem core o bs } := by
  have view : o % 0x400000 = o := by omega
  simp only [engineStore, segCheck_of_segOk segment, resolve_spad free .store ea inside, view, bind, Except.bind, storeNow, placeHeld_spad free,
    ownPending_eq_nil free.ordinary free.accepted free.compared]
  rfl

end

/-! ## Pieces of a row (R188) -/

section
variable {t : Thread} {ea : W64} {rowb right o pos : Nat} (segment : Claims.SegOk t ea rowb right 2 o) (within : pos ≤ rowb)
include segment within

theorem toNat_add_pos : (ea + BitVec.ofNat 64 pos).toNat = ea.toNat + pos ∧ (ea.toNat + pos) / 2 ^ 61 = ea.toNat / 2 ^ 61 ∧
    (ea.toNat + pos) % 2 ^ 61 = ea.toNat % 2 ^ 61 + pos := by
  obtain ⟨-, -, -, -, place, space⟩ := segment
  have size : spaceSize 2 = 0x2000000 := rfl
  have := ea.isLt
  rw [BitVec.toNat_add, BitVec.toNat_ofNat, Nat.mod_eq_of_lt (a := pos) (by omega)]
  omega

theorem rowAddr_piece : rowAddr ea pos = .ok (ea + BitVec.ofNat 64 pos) := by
  obtain ⟨sum, same, -⟩ := toNat_add_pos segment within
  have kept : (ea + BitVec.ofNat 64 pos).extractLsb' 61 3 = ea.extractLsb' 61 3 := by
    apply BitVec.eq_of_toNat_eq
    rw [toNat_extract_segment, toNat_extract_segment, sum, same]
  rw [rowAddr, effAddr, BitVec.ofInt_natCast]
  exact if_pos kept

theorem segOk_piece {n : Nat} (inside : pos + n ≤ rowb) : Claims.SegOk t (ea + BitVec.ofNat 64 pos) n right 2 (o + pos) := by
  obtain ⟨sum, same, offset⟩ := toNat_add_pos segment within
  obtain ⟨isKind, inUse, allowed, inSegment, place, space⟩ := segment
  rw [Claims.SegOk, sum, same, offset]
  exact ⟨isKind, inUse, allowed, by omega, by omega, by omega⟩

end

theorem pieceLen_bounds (src : W64) (sink : CopySink) (pos : Nat) {rest : Nat} (more : 0 < rest) :
    0 < pieceLen src sink pos rest 1 ∧ pieceLen src sink pos rest 1 ≤ rest := by
  have bounds : ∀ d, 0 < Nat.min rest (Nat.min (16 - (src.toNat + pos) % 16) (16 - d % 16)) ∧
      Nat.min rest (Nat.min (16 - (src.toNat + pos) % 16) (16 - d % 16)) ≤ rest := fun d => by
    simp only [Nat.min_def]
    split_ifs <;> omega
  cases sink <;> simp only [pieceLen, Nat.mod_one, Nat.sub_zero, if_neg (Nat.not_lt.mpr (bounds _).1)] <;> exact bounds _

/-- Bytes of `m` are moved within the scratchpad of a core, and no others change. -/
def Moved (m m' : Memory) (core src dst first stop : Nat) : Prop :=
  (∀ i, first ≤ i → i < stop → mread m'.spad (core * 2 ^ 20 + dst + i) = mread m.spad (core * 2 ^ 20 + src + i)) ∧
    (∀ x, x < core * 2 ^ 20 + dst + first ∨ core * 2 ^ 20 + dst + stop ≤ x → mread m'.spad x = mread m.spad x)

theorem Moved.none (m : Memory) (core src dst pos : Nat) : Moved m m core src dst pos pos :=
  ⟨fun i least most => by omega, fun _ _ => rfl⟩

theorem mread_spadWrite (m : Memory) (core o : Nat) {bs : List Byte} {i : Nat} (inside : i < bs.length) :
    mread (spadWrite m core o bs).spad (core * 2 ^ 20 + o + i) = bs.getD i 0 := by
  refine (mread_mwriteN m.spad (core * 2 ^ 20 + o) bs _).trans ?_
  rw [if_pos (by omega), Nat.add_sub_cancel_left]

/-- A piece written, then the rest moved. -/
theorem Moved.piece {m m' : Memory} {core src dst pos n stop rowb : Nat} (apart : src + rowb ≤ dst ∨ dst + rowb ≤ src) (within : stop ≤ rowb)
    (fits : pos + n ≤ stop) (rest : Moved (spadWrite m core (dst + pos) (spadBytes m core (src + pos) n)) m' core src dst (pos + n) stop) :
    Moved m m' core src dst pos stop := by
  obtain ⟨moved, kept⟩ := rest
  have length := length_spadBytes m core (src + pos) n
  have other := fun x => spadWrite_other m core (dst + pos) (spadBytes m core (src + pos) n) x
  rw [length] at other
  refine ⟨fun i least most => ?_, fun x outside => ?_⟩
  · by_cases later : pos + n ≤ i
    · rw [moved i later most, other _ (by omega)]
    · have target : core * 2 ^ 20 + dst + i = core * 2 ^ 20 + (dst + pos) + (i - pos) := by omega
      have source : core * 2 ^ 20 + (src + pos) + (i - pos) = core * 2 ^ 20 + src + i := by omega
      calc mread m'.spad (core * 2 ^ 20 + dst + i)
          = mread (spadWrite m core (dst + pos) (spadBytes m core (src + pos) n)).spad (core * 2 ^ 20 + dst + i) := kept _ (by omega)
        _ = (spadBytes m core (src + pos) n).getD (i - pos) 0 :=
          (congrArg (mread _) target).trans (mread_spadWrite _ _ _ (by rw [length]; omega))
        _ = mread m.spad (core * 2 ^ 20 + src + i) := (getD_spadBytes _ _ _ (by omega)).trans (congrArg (mread _) source)
  · have unwritten : x < core * 2 ^ 20 + (dst + pos) ∨ core * 2 ^ 20 + (dst + pos) + n ≤ x := by
      generalize core * 2 ^ 20 = base at outside ⊢
      omega
    have unmoved : x < core * 2 ^ 20 + dst + (pos + n) ∨ core * 2 ^ 20 + dst + stop ≤ x := outside.imp_left fun below => by
      generalize core * 2 ^ 20 = base at below ⊢
      omega
    exact (kept x unmoved).trans (other x unwritten)

section
variable {core slot : Nat} {src dst : W64} {rowb so d0 : Nat} (sources : so + rowb ≤ 0x100000) (targets : d0 + rowb ≤ 0x100000)
include sources targets

/-- One piece of a row, read and put in its place. -/
theorem piece_moves {s : State} (free : CopyOpen s core slot) (reads : Claims.SegOk (s.thread (keyOf core slot)) src rowb rightR 2 so)
    (writes : Claims.SegOk (s.thread (keyOf core slot)) dst rowb rightW 2 d0) {pos n first : Nat} (positive : 0 < n) (fits : pos + n ≤ rowb)
    (ext : ExtReply) : (do
      let ea ← rowAddr src pos
      let (s, bs) ← copyRead s (keyOf core slot) ea n (pos - first) ext
      sinkPiece s (keyOf core slot) (slotOf (keyOf core slot)) (.mem dst) pos bs : Except Stop State) =
        .ok { s with mem := spadWrite s.mem core (d0 + pos) (spadBytes s.mem core (so + pos) n) } := by
  have within : pos ≤ rowb := by omega
  have read := copyRead_spad free (segOk_piece reads within fits) (by omega) positive (pos - first) ext
  have length := length_spadBytes s.mem core (so + pos) n
  have store := engineStore_spad (bs := spadBytes s.mem core (so + pos) n) free
    (segOk_piece writes within (by rw [length]; exact fits)) (by rw [length]; omega)
  simp only [rowAddr_piece reads within, bind, Except.bind, read, sinkPiece, rowAddr_piece writes within, store]

/-- The pieces of a row are copied up to its end. -/
theorem copyPieces_moves (apart : so + rowb ≤ d0 ∨ d0 + rowb ≤ so) {stop : Nat} (within : stop ≤ rowb) (first : Nat) (ext : ExtReply) (fuel : Nat) : ∀ {s : State} {pos : Nat},
    CopyOpen s core slot → Claims.SegOk (s.thread (keyOf core slot)) src rowb rightR 2 so →
    Claims.SegOk (s.thread (keyOf core slot)) dst rowb rightW 2 d0 → pos ≤ stop → stop - pos ≤ fuel →
    ∃ m, copyPieces fuel s (keyOf core slot) src (.mem dst) 1 ext first pos stop = ({ s with mem := m }, stop, none) ∧
      Moved s.mem m core so d0 pos stop := by
  induction fuel with
  | zero =>
    intro s pos free reads writes begun enough
    obtain rfl : pos = stop := by omega
    exact ⟨s.mem, rfl, .none ..⟩
  | succ fuel ih =>
    intro s pos free reads writes begun enough
    by_cases done : stop ≤ pos
    · obtain rfl : pos = stop := by omega
      exact ⟨s.mem, by rw [copyPieces, if_pos done], .none ..⟩
    · have bounds := pieceLen_bounds src (.mem dst) pos (rest := stop - pos) (by omega)
      rw [copyPieces, if_neg done]
      generalize pieceLen src (.mem dst) pos (stop - pos) 1 = n at bounds
      obtain ⟨m, copied, moved⟩ := ih (free.spadWrite (d0 + pos) (spadBytes s.mem core (so + pos) n)) (pos := pos + n) reads writes (by omega)
        (by omega)
      refine ⟨m, ?_, moved.piece apart within (by omega)⟩
      simp only [piece_moves (pos := pos) (n := n) sources targets free reads writes bounds.1 (by omega) ext]
      exact copied

end

/-! ## COPY_ROW -/

theorem copyHead_of_mayStart {s : State} {core : Nat} {u : Bool} {e : Entry} {rest : List Entry} (head : Claims.Head s core 2 u e rest)
    (may : Claims.MayStart s core 2 u e) : copyHead s core u = some e := by
  obtain ⟨queued, -, faultless, paged, runs, turn, after⟩ := may
  have live : e.cancelled = false := (noneCancelled_iff s core).mp head.2 2 u e (by rw [head.1]; exact List.mem_cons_self)
  rw [copyHead, head.1]
  exact if_pos ⟨by rw [queued]; decide, by rw [live]; rfl, faultless, by rw [paged]; rfl, runs, turn, by rw [after]; rfl⟩

/-- Window W0 of the scratchpad is read in bytes. -/
theorem viewElement_spad {t : Thread} {ea : W64} {n right o : Nat} (segment : Claims.SegOk t ea n right 2 o) (inside : o + n ≤ 0x100000) :
    viewElement t ea = 1 := by
  obtain ⟨isKind, -, -, -, place, -⟩ := segment
  have window : ((t.seg (ea.toNat / 2 ^ 61)).base.toNat + ea.toNat % 2 ^ 61) / 0x400000 = 0 := by
    rw [← place]
    omega
  simp only [viewElement, toNat_extract_segment, toNat_extract_offset, seg_kind, isKind, if_true, window]
  rfl

theorem copyAligned_bytes {t : Thread} {kind : BitVec 2} {src dst : W64} (source : viewElement t src = 1) (target : viewElement t dst = 1)
    (sp dp : Int) (rowb : Nat) : copyAligned t kind src dst sp dp rowb = .ok 1 := by
  simp [copyAligned, source, target, Nat.mod_one]

theorem rowAddr_zero (base : W64) (p : Int) : rowAddr base (((0 : Nat) : Int) * p) = .ok base := by
  have zero : BitVec.ofInt 64 (((0 : Nat) : Int) * p) = 0#64 := by rw [Int.ofNat_zero, Int.zero_mul]; rfl
  rw [rowAddr, effAddr, zero, BitVec.add_zero]
  exact if_pos rfl

section
variable {s : State} {core : Nat} {u : Bool} {e : Entry} {rest : List Entry}

/-- After its last unit a row of a copy to memory gives way to the next. -/
theorem copyAfter_row {srow : W64} {sink : CopySink} {rowb : Nat} (settled : e.bobSlot = none) :
    copyAfter s core u e srow sink rowb rowb none =
      setHead s core 2 u { e with state := .running, start := 0, next := e.next + 1, bobSlot := none } := by
  delta copyAfter
  simp only [lt_irrefl, if_false, settled]
  cases e.kind <;> rfl

theorem copyUnit_firstRow {src dst : W64} {sp dp : Int} {rowb : Nat} (ext : ExtReply) (first : e.next = 0) (start : e.start = 0)
    (settled : e.bobSlot = none) (small : rowb ≤ 4096) {m : Memory}
    (copied : copyPieces rowb s (keyOf core (e.slot % 16)) src (.mem dst) 1 ext 0 0 rowb = ({ s with mem := m }, rowb, none)) :
    copyUnit s core u e 0 src dst sp dp rowb 1 (.mem dst) ext =
      setHead { s with mem := m } core 2 u { e with state := .running, next := 1 } := by
  have stop : Nat.min rowb (0 - 0 % 4096 + 4096) = rowb := Nat.min_eq_left small
  simp only [copyUnit, first, start, rowAddr_zero, if_true, stop, Nat.sub_zero, copied, copyAfter_row settled, settled]

variable (head : Claims.Head s core 2 u e rest)
include head

theorem exec_copyRow {follow : Bool} {src dst : W64} {sp dp : Int} {rows rowb : Nat} (kind : e.kind = .copy 0 follow src dst sp rows rowb dp)
    (may : Claims.MayStart s core 2 u e) (more : e.next < rows) (bytes : copyAligned (s.thread (keyOf core (e.slot % 16))) 0 src dst sp dp rowb = .ok 1)
    (ext : ExtReply) : exec (.copyRow core u ext) s = .next (copyUnit s core u e 0 src dst sp dp rowb 1 (.mem dst) ext) := by
  change execCopyRow core u ext s = _
  simp only [execCopyRow, copyHead_of_mayStart head may, kind, if_neg (Nat.not_le.mpr more), bytes, if_true]

theorem copyRow_moves {follow : Bool} {src dst : W64} {sp dp : Int} {rows rowb so d0 : Nat} (unlocked : Claims.NoLocks s core)
    (may : Claims.MayStart s core 2 u e) (kind : e.kind = .copy 0 follow src dst sp rows rowb dp) (first : e.next = 0) (start : e.start = 0)
    (settled : e.bobSlot = none) (ordinary : e.slot < 8) (some : 1 ≤ rows) (small : rowb ≤ 4096)
    (reads : Claims.SegOk (s.thread (keyOf core e.slot)) src rowb rightR 2 so) (writes : Claims.SegOk (s.thread (keyOf core e.slot)) dst rowb rightW 2 d0)
    (sources : so + rowb ≤ 0x100000) (targets : d0 + rowb ≤ 0x100000) (apart : so + rowb ≤ d0 ∨ d0 + rowb ≤ so)
    (clean : ∀ k, s.mem.spadPoison.contains k = false) (accepted : (s.core core).storeq = []) (compared : (s.thread (keyOf core e.slot)).cmp = []) :
    ∃ t, exec (.copyRow core u .inside) s = .next t ∧
      (∀ i < rowb, mread t.mem.spad (core * 2 ^ 20 + d0 + i) = mread s.mem.spad (core * 2 ^ 20 + so + i)) ∧
      (∀ x, x < core * 2 ^ 20 + d0 ∨ core * 2 ^ 20 + d0 + rowb ≤ x → mread t.mem.spad x = mread s.mem.spad x) ∧
      (t.engine core 2 u).entries = { e with state := .running, next := 1 } :: rest ∧ t.threads = s.threads := by
  have slot : e.slot % 16 = e.slot := Nat.mod_eq_of_lt (by omega)
  have free : CopyOpen s core e.slot :=
    { ordinary := ordinary, unlocked := unlocked, accepted := accepted, compared := compared,
      reachable := by obtain ⟨-, -, -, -, runs, -⟩ := may; exact dieReachable_of_mayRun runs,
      pure_ := List.eq_nil_iff_forall_not_mem.mpr fun k among => by
        have := clean k
        rw [List.contains_iff_mem.mpr among] at this
        cases this }
  obtain ⟨m, copied, moved, kept⟩ := copyPieces_moves sources targets apart le_rfl 0 .inside rowb free reads writes (Nat.zero_le _) le_rfl
  have ran := exec_copyRow head kind may (by omega)
    (by rw [slot]; exact copyAligned_bytes (viewElement_spad reads sources) (viewElement_spad writes targets) ..) .inside
  rw [copyUnit_firstRow .inside first start settled small (by rw [slot]; exact copied)] at ran
  refine ⟨_, ran, fun i inside => moved i (Nat.zero_le _) inside, fun x outside => kept x ?_, ?_, rfl⟩
  · exact outside.imp_left fun below => Nat.lt_add_right 0 below
  · exact congrArg EngineQueue.entries (engine_setHead (s := { s with mem := m }) head.1 _)

/-! ## COPY_END -/

theorem exec_copyEnd_done {follow : Bool} {src dst : W64} {sp dp : Int} {rows rowb : Nat} (kind : e.kind = .copy 0 follow src dst sp rows rowb dp)
    (faultless : e.fault = none) (goes : copyHead s core u = some e) (done : rows ≤ e.next) :
    exec (.copyEnd core u) s = .next (endEntry s core 2 u .done) := by
  change execCopyEnd core u s = _
  rw [execCopyEnd, head.1]
  simp only [faultless, kind, goes, Option.isSome_some, done, and_self, if_true]
  rfl

theorem exec_copyEnd_faulted {cause : Byte} {addr : W64} (fault : e.fault = some (cause, addr)) (paged : e.page = false)
    (locked : (s.die (dieOf core)).relock = none) : exec (.copyEnd core u) s = .next (endEntry s core 2 u (.faulted cause addr)) := by
  have reach : dieReachable s (dieOf core) = true := by rw [dieReachable, locked]; rfl
  change execCopyEnd core u s = _
  rw [execCopyEnd, head.1]
  simp only [fault, paged, reach, Bool.false_eq_true, Bool.not_true, or_self, if_false]

end

/-! ## FOLLOW (R180) -/

/-- The entry is a job of the slot that waits for its release. -/
def awaitsRelease (slot : Nat) (e : Entry) : Bool := e.slot == slot && e.unreleased && !e.cancelled

/-- The entry once it has been released. -/
def releasedEntry (e : Entry) : Entry := { e with released := true, state := .queued }

theorem mem_replaceFirst {α : Type} {p : α → Bool} {f : α → α} {l : List α} {x : α} (among : x ∈ replaceFirst p f l) : x ∈ l ∨ ∃ y ∈ l, x = f y := by
  induction l with
  | nil => cases among
  | cons y l ih =>
    rw [replaceFirst] at among
    split at among
    · rcases List.mem_cons.mp among with rfl | later
      · exact .inr ⟨y, List.mem_cons_self, rfl⟩
      · exact .inl (List.mem_cons_of_mem y later)
    · rcases List.mem_cons.mp among with rfl | later
      · exact .inl List.mem_cons_self
      · exact (ih later).imp (List.mem_cons_of_mem y) fun ⟨z, listed, same⟩ => ⟨z, List.mem_cons_of_mem y listed, same⟩

section
variable {s : State} {core slot : Nat} (ordinary : slot < 8)
include ordinary

/-- FOLLOW's end releases the slot's waiting job. -/
theorem followRelease_job (waits : (s.engine core 1 (isUrgentSlot slot)).entries.any (awaitsRelease slot) = true) :
    followRelease s core slot = s.setEngine core 1 (isUrgentSlot slot) { s.engine core 1 (isUrgentSlot slot) with
      entries := replaceFirst (awaitsRelease slot) releasedEntry (s.engine core 1 (isUrgentSlot slot)).entries } := by
  rw [followRelease, if_neg (by omega)]
  exact if_pos waits

/-- Without one it leaves a credit. -/
theorem followRelease_credit (idle : (s.engine core 1 (isUrgentSlot slot)).entries.any (awaitsRelease slot) = false) :
    followRelease s core slot = s.setThread (keyOf core slot) { s.thread (keyOf core slot) with
      fcred := if (s.thread (keyOf core slot)).fcred = 255 then 255 else (s.thread (keyOf core slot)).fcred + 1 } := by
  rw [followRelease, if_neg (by omega)]
  exact if_neg (by rw [← Bool.not_eq_true] at idle; exact idle)

/-- FOLLOW's end leaves the copy queues, and cancels nothing. -/
theorem followRelease_keeps (none : Claims.NoneCancelled s core) :
    (∀ u, (followRelease s core slot).engine core 2 u = s.engine core 2 u) ∧ Claims.NoneCancelled (followRelease s core slot) core := by
  cases waits : (s.engine core 1 (isUrgentSlot slot)).entries.any (awaitsRelease slot) with
  | true =>
    rw [followRelease_job ordinary waits]
    refine ⟨fun u => engine_setEngine_other _ _ _ _ _ (by simp), noneCancelled_setEngine none 1 _ fun x among => ?_⟩
    rcases mem_replaceFirst among with listed | ⟨y, listed, rfl⟩
    · exact (noneCancelled_iff s core).mp none 1 _ x listed
    · exact (noneCancelled_iff s core).mp none 1 _ y listed
  | false =>
    rw [followRelease_credit ordinary waits]
    exact ⟨fun _ => rfl, none⟩

end

theorem toNat_nextCredit (c : BitVec 8) : (if c = 255 then 255 else c + 1 : BitVec 8).toNat = min 255 (c.toNat + 1) := by
  have small := c.isLt
  split
  case isTrue full => rw [full]; rfl
  case isFalse room =>
    have : c.toNat ≠ 255 := fun full => room (BitVec.eq_of_toNat_eq full)
    rw [BitVec.toNat_add]
    change (c.toNat + 1) % 256 = _
    omega

/-- What leaves a copy queue leaves the matrix queues alone. -/
theorem matrixQueue_leftQueue (s : State) (core : Nat) (u v : Bool) (e : Entry) (rest : List Entry) :
    (leftQueue s core 2 u e rest).engine core 1 v = s.engine core 1 v := engine_setEngine_other _ _ _ _ _ (by simp)

section
variable {s : State} {core : Nat} {u : Bool} {e : Entry} {rest : List Entry} (head : Claims.Head s core 2 u e rest) {src dst : W64} {sp dp : Int}
  {rows rowb : Nat} (kind : e.kind = .copy 0 true src dst sp rows rowb dp) (ordinary : e.slot < 8)
include head kind ordinary

/-- A FOLLOW copy that ends DONE leaves its queue and gives its release or credit. -/
theorem endEntry_follow : OnlyAnswers (followRelease (leftQueue s core 2 u e rest) core e.slot) (endEntry s core 2 u .done) := by
  have popped : popEntry s core 2 u .done = wakeEngine (followRelease (leftQueue s core 2 u e rest) core e.slot) core := by
    simp only [popEntry, head.1, kind]
    cases e.bobSlot <;> rfl
  have woken := onlyAnswers_wakeEngine (followRelease (leftQueue s core 2 u e rest) core e.slot) core
  have none := (followRelease_keeps (core := core) ordinary (noneCancelled_leftQueue head.1 head.2)).2
  rw [endEntry, popped, reapCore_stays (woken.headsStay (headsStay_of_noneCancelled none))]
  exact woken

theorem endsDone_follow : Claims.EndsDone s (endEntry s core 2 u .done) core 2 u e rest := by
  rw [Claims.EndsDone, (endEntry_follow head kind ordinary).engine,
    (followRelease_keeps ordinary (noneCancelled_leftQueue head.1 head.2)).1]
  exact engine_setEngine_same ..

variable (own : u = isUrgentSlot e.slot)
include own

theorem follow_credits (idle : (s.engine core 1 u).entries = []) :
    ((endEntry s core 2 u .done).thread (keyOf core e.slot)).fcred.toNat = min 255 ((s.thread (keyOf core e.slot)).fcred.toNat + 1) := by
  have noJob : ((leftQueue s core 2 u e rest).engine core 1 (isUrgentSlot e.slot)).entries.any (awaitsRelease e.slot) = false := by
    rw [matrixQueue_leftQueue, ← own, idle]
    rfl
  rw [(endEntry_follow head kind ordinary).fcred, followRelease_credit ordinary noJob, thread_setThread_same]
  exact toNat_nextCredit _

theorem follow_releases {j : Entry} (queue : (s.engine core 1 u).entries = [j]) (same : j.slot = e.slot) (waits : j.unreleased = true) :
    ((endEntry s core 2 u .done).engine core 1 u).entries = [{ j with released := true, state := .queued }] := by
  have live : j.cancelled = false := (noneCancelled_iff s core).mp head.2 1 u j (by rw [queue]; exact List.mem_cons_self)
  have awaits : awaitsRelease e.slot j = true := by rw [awaitsRelease, same, waits, live, beq_self_eq_true]; rfl
  have before : ((leftQueue s core 2 u e rest).engine core 1 (isUrgentSlot e.slot)).entries = [j] := by
    rw [matrixQueue_leftQueue, ← own, queue]
  rw [(endEntry_follow head kind ordinary).engine, followRelease_job ordinary (by rw [before, List.any_cons, awaits]; rfl), before, ← own,
    engine_setEngine_same, replaceFirst, if_pos awaits]
  rfl

end

/-! ## Pauses (R181, R336) -/

theorem mustPause_iff (s : State) (core eng : Nat) (u : Bool) : mustPause s core eng u = true ↔
    (u = false ∧ (s.engine core eng true).entries ≠ []) ∨ ctxStopped s core = true ∨ (s.core core).migrating ≠ none := by
  simp only [mustPause, Bool.or_eq_true, Bool.and_eq_true, Bool.not_eq_true', List.isEmpty_eq_false_iff, Option.isSome_iff_ne_none, or_assoc]

section
variable {s : State} {core : Nat} {copy u : Bool} {e : Entry} {rest : List Entry}
  (head : (s.engine core (if copy then 2 else 1) u).entries = e :: rest)
include head

theorem exec_enginePause (running : e.state = .running) : exec (.enginePause core copy u) s = .next
    (if mustPause s core (if copy then 2 else 1) u then
      setHead s core (if copy then 2 else 1) u { e with state := .paused, start := if copy then e.start else e.start - s.pk.array }
    else s) := by
  change execEnginePause core copy u s = _
  simp only [execEnginePause, head, running, true_or, true_and]
  cases mustPause s core (if copy = true then 2 else 1) u <;> rfl

theorem exec_engineResume (paused : e.state = .paused) : exec (.engineResume core copy u) s = .next
    (if mustPause s core (if copy then 2 else 1) u then s
    else setHead s core (if copy then 2 else 1) u { e with state := .running, start := if copy then e.start else e.start + s.pk.array }) := by
  change execEngineResume core copy u s = _
  simp only [execEngineResume, head, paused, true_and]
  cases mustPause s core (if copy = true then 2 else 1) u <;> rfl

end

/-! ## O22 -/

/-- Settles O22: a row moved piece by piece, the ends of a copy, and the pauses of an entry that runs. -/
theorem copiesMoveRowsAndEntriesPause : Obligations.CopiesMoveRowsAndEntriesPause := by
  unfold Obligations.CopiesMoveRowsAndEntriesPause
  intro s core u e rest
  refine ⟨?rows, ?ends, ?follows, ?faults, ?pauses⟩
  case rows =>
    intro src dst sp rows rowb dp follow so d0 head unlocked may kind first start settled ordinary some _ small t0 reads writes sources targets apart
      clean accepted compared
    exact copyRow_moves head unlocked may kind first start settled ordinary some small reads writes sources targets apart clean accepted compared
  case ends =>
    intro src dst sp rows rowb dp head kind faultless goes done
    refine ⟨_, exec_copyEnd_done head kind faultless goes done, endsDone_endEntry head.1 head.2 ?_⟩
    rw [EndsAlone, kind]
    exact ⟨by decide, rfl⟩
  case follows =>
    intro src dst sp rows rowb dp head kind faultless goes done ordinary own
    exact ⟨_, exec_copyEnd_done head kind faultless goes done, endsDone_follow head kind ordinary, follow_credits head kind ordinary own,
      fun j queue same waits => follow_releases head kind ordinary own queue same waits⟩
  case faults =>
    intro cause addr src dst sp rows rowb dp head kind fault paged own locked
    refine ⟨_, exec_copyEnd_faulted head fault paged locked, endsFaulted_endEntry head.1 head.2 ?_ own cause addr⟩
    rw [EndsAlone, kind]
    exact ⟨by decide, rfl⟩
  case pauses =>
    intro copy eng pausing leaves head
    have must := mustPause_iff s core eng u
    refine ⟨fun running pauses => ?_, fun running goes => ?_, fun paused goes => ?_, fun paused pauses => ?_⟩
    · exact ⟨_, (exec_enginePause head.1 running).trans (congrArg _ (if_pos (must.mpr pauses))), engine_setHead head.1 _, rfl, rfl⟩
    · exact (exec_enginePause head.1 running).trans (congrArg _ (if_neg fun pauses => goes (must.mp pauses)))
    · exact ⟨_, (exec_engineResume head.1 paused).trans (congrArg _ (if_neg fun pauses => goes (must.mp pauses))), engine_setHead head.1 _, rfl, rfl⟩
    · exact (exec_engineResume head.1 paused).trans (congrArg _ (if_pos (must.mpr pauses)))

end Sys2Proof.Laws
end

section
/-! PROOFS. A step keeps memory canonical (logs 1 and 5): for each function that a step may run, in the order of the model's files, that it
leaves memory alone (`f_mem`, or `mem_f` where it may stop) or that it keeps the canonical form (`wf_f`). -/

namespace Sys2Proof.Laws

open Sys2Proof Sys2Proof.Machine

/-! ## How a property passes through folds, conditionals and computations that may stop -/

@[simp] theorem foldl_mem {β : Type} (f : State → β → State) (hf : ∀ s b, (f s b).mem = s.mem) (l : List β) (s : State) :
    (l.foldl f s).mem = s.mem :=
  foldl_keeps (fun t : State => t.mem = s.mem) f (fun t b ht => (hf t b).trans ht) l s rfl

@[simp] theorem upTo_mem (n : Nat) (f : State → Nat → State) (hf : ∀ s k, (f s k).mem = s.mem) (s : State) : (upTo n f s).mem = s.mem :=
  foldl_mem f hf _ s

theorem wf_foldl {β : Type} {f : State → β → State} {l : List β} {s : State} (hs : s.mem.wf = true)
    (hf : ∀ s b, s.mem.wf = true → (f s b).mem.wf = true) : (l.foldl f s).mem.wf = true :=
  foldl_keeps (fun s : State => s.mem.wf = true) f hf l s hs

theorem wf_ite {c : Prop} [Decidable c] {s t : State} (hs : s.mem.wf = true) (ht : t.mem.wf = true) :
    (if c then s else t).mem.wf = true := by
  split
  · exact hs
  · exact ht

theorem bind_eq_ok {ε α β : Type} {x : Except ε α} {f : α → Except ε β} {b : β} :
    (x >>= f) = .ok b ↔ ∃ a, x = .ok a ∧ f a = .ok b := by
  cases x <;> simp [bind, Except.bind]

theorem error_bind {ε α β : Type} (e : ε) (f : α → Except ε β) : ((.error e : Except ε α) >>= f) = .error e := rfl

theorem pure_eq_ok {ε α : Type} {a b : α} : (pure a : Except ε α) = .ok b ↔ a = b := by
  simp [pure, Except.pure]

theorem stop_else_eq_ok {ε α : Type} {c : Prop} [Decidable c] {e : ε} {x : Except ε α} {a : α} :
    (if c then .error e else x) = .ok a ↔ ¬c ∧ x = .ok a := by
  split <;> simp [*]

theorem map_eq_ok {ε α β : Type} {x : Except ε α} {f : α → β} {b : β} : x.map f = .ok b ↔ ∃ a, x = .ok a ∧ f a = b := by
  cases x <;> simp [Except.map]

theorem foldl_ok {ε α β : Type} (P : α → Prop) {f : Except ε α → β → Except ε α} (stop : ∀ e b, f (.error e) b = .error e)
    (keep : ∀ a b c, P a → f (.ok a) b = .ok c → P c) {l : List β} {a c : α} (ha : P a) (h : l.foldl f (.ok a) = .ok c) : P c := by
  induction l generalizing a with
  | nil => cases h; exact ha
  | cons b l ih =>
    rw [List.foldl_cons] at h
    cases next : f (.ok a) b with
    | ok d => rw [next] at h; exact ih (keep a b d ha next) h
    | error e =>
      have : l.foldl f (.error e) = .error e := foldl_keeps (fun x => x = .error e) f (fun x b hx => hx ▸ stop e b) l _ rfl
      rw [next, this] at h
      cases h

theorem wf_clearSpad {m : Memory} (core : Nat) (h : m.wf = true) : (clearSpad m core).wf = true := by
  rw [wf_iff] at h ⊢
  exact ⟨h.1, memWf_filter _ h.2.1, h.2.2⟩

theorem wf_putSpad {m : Memory} (core : Nat) (x : Mem × List Nat × List Nat) (h : m.wf = true) : (putSpad m core x).wf = true := by
  have hc := wf_clearSpad core h
  rw [wf_iff] at hc ⊢
  exact ⟨hc.1, foldl_keeps (fun r => memWf r = true) _ (fun _ _ hr => memWf_mwrite _ _ hr) _ _ hc.2.1, hc.2.2⟩

theorem wf_fillFrame {m : Memory} (frame : Nat) (data : Mem) (h : m.wf = true) : (fillFrame m frame data).wf = true := by
  rw [wf_iff] at h ⊢
  refine ⟨foldl_keeps (fun r => memWf r = true) _ (fun r c hr => ?_) _ _ (memWf_filter _ h.1), h.2⟩
  split
  · exact memWf_mwrite _ _ hr
  · exact hr

theorem wf_writePieces {m : Memory} (ps : List (Nat × Nat)) (bs : List Byte) (h : m.wf = true) : (writePieces m ps bs).wf = true := by
  induction ps generalizing m bs with
  | nil => exact h
  | cons p ps ih => exact ih _ (wf_ramWrite _ _ h)

theorem wf_mergeAll {m : Memory} (l : Tab Staged) (h : m.wf = true) : (l.foldl (fun m kl => mergeCopy m kl.2) m).wf = true :=
  foldl_keeps (fun m : Memory => m.wf = true) _ (fun _ _ hm => wf_mergeCopy _ hm) l m h

theorem wf_poisonedSpad {s : State} (l : List Nat) (hs : s.mem.wf = true) :
    ({ s with mem := { s.mem with spadPoison := l } } : State).mem.wf = true :=
  wf_of_bytes rfl rfl rfl hs

theorem wf_withMem {s : State} {m : Memory} (h : m.wf = true) : ({ s with mem := m } : State).mem.wf = true := h

/-- `wf_foldl` with the step's result named: the kernel then compares `f s b` with its body directly, not below `State.mem`, where it would
evaluate the body. -/
theorem wf_foldl_of_eq {β : Type} {f : State → β → State} {l : List β} {s : State} (hs : s.mem.wf = true)
    (hf : ∀ s b t, s.mem.wf = true → f s b = t → t.mem.wf = true) : (l.foldl f s).mem.wf = true :=
  wf_foldl hs fun s b hs => hf s b _ hs rfl

theorem foldlM_ok {ε α β : Type} (P : α → Prop) {f : α → β → Except ε α} (keep : ∀ a b c, P a → f a b = .ok c → P c)
    {l : List β} {a c : α} (ha : P a) (h : l.foldlM f a = .ok c) : P c := by
  induction l generalizing a with
  | nil => cases h; exact ha
  | cons b l ih =>
    rw [List.foldlM_cons] at h
    obtain ⟨d, next, rest⟩ := bind_eq_ok.mp h
    exact ih (keep a b d ha next) rest

/-! ## The state of one KV-1280 package as plain data -/

theorem wf_reset : State.reset.mem.wf = true := rfl

/-! ## The named operations every meaning is made of -/

@[simp] theorem send_mem (s : State) (m : OutMsg) :
    (State.send s m).mem = s.mem := by
  unfold State.send
  split <;> simp

@[simp] theorem pushEvent_mem (s : State) (die : Nat) (type slot part : Byte) (core : BitVec 16) (cause : Byte) (d0 d1 : W64) :
    (pushEvent s die type slot part core cause d0 d1).mem = s.mem := by
  unfold pushEvent
  dsimp only
  split <;> simp

@[simp] theorem pushThreadEvent_mem (s : State) (key : Nat) (type cause : Byte) (d0 d1 : W64) :
    (pushThreadEvent s key type cause d0 d1).mem = s.mem := by
  unfold pushThreadEvent
  simp

@[simp] theorem repause_mem (s : State) (core : Nat) :
    (repause s core).mem = s.mem := by
  unfold repause
  refine foldl_mem _ (fun s x => ?_) _ _
  dsimp only
  split <;> simp

@[simp] theorem repauseIf6_mem (s : State) (key : Nat) :
    (repauseIf6 s key).mem = s.mem := by
  unfold repauseIf6
  split <;> simp

@[simp] theorem parkOn_mem (s : State) (key : Nat) (kind : Byte) (eval : W64) (remote : Bool) (instr : Instr) (taken : Mem) :
    (parkOn s key kind eval remote instr taken).mem = s.mem := by
  unfold parkOn
  simp

@[simp] theorem parkMe_mem (s : State) (kind : Byte) (eval : W64) (instr : Instr) :
    (parkMe s kind eval instr).mem = s.mem := by
  unfold parkMe
  simp

@[simp] theorem answer_mem (s : State) (key : Nat) (r : Reply) :
    (answer s key r).mem = s.mem := by
  unfold answer
  grind [setThread_mem]

@[simp] theorem bufferReply_mem (s : State) (part key : Nat) (d : Deferred) :
    (bufferReply s part key d).mem = s.mem := by
  unfold bufferReply
  dsimp only
  split <;> simp

@[simp] theorem answerOff_mem (s : State) (part : Nat) (f : Thread → Wait → Option Reply) :
    (answerOff s part f).mem = s.mem := by
  unfold answerOff
  refine foldl_mem _ (fun s x => ?_) _ _
  grind [bufferReply_mem]

@[simp] theorem escalate_mem (s : State) (core : Nat) (cause : Byte) :
    (escalate s core cause).mem = s.mem := by
  unfold escalate
  simp

@[simp] theorem takeTrap_mem (s : State) (key : Nat) (cause : Byte) (epc eval : W64) (wkind : optParam Byte 0) (seq : optParam (Option
    (Nat × Nat)) none) :
    (takeTrap s key cause epc eval wkind seq).mem = s.mem := by
  unfold takeTrap
  grind [setThread_mem, repauseIf6_mem, setArch_mem, escalate_mem]

@[simp] theorem trapMe_mem (s : State) (cause : Byte) (eval : W64) :
    (trapMe s cause eval).mem = s.mem := by
  unfold trapMe
  simp

@[simp] theorem startHandler_mem (s : State) (core : Nat) :
    (startHandler s core).mem = s.mem := by
  unfold startHandler
  grind [setThread_mem, setArch_mem]

@[simp] theorem endInvocation_mem (s : State) (core : Nat) :
    (endInvocation s core).mem = s.mem := rfl

@[simp] theorem returnTo_mem (s : State) (core : Nat) (r : TrapRecord) (pc : W64) :
    (returnTo s core r pc).mem = s.mem := by
  unfold returnTo
  grind [setThread_mem, repauseIf6_mem]

/-! ## Clocks -/

@[simp] theorem requestStep_mem (s : State) (die : Nat) (m : BitVec 4) (limiter : Bool) :
    (requestStep s die m limiter).mem = s.mem := by
  unfold requestStep
  grind [setDie_mem]

theorem mem_execMreqWrite {die : BitVec 2} {m : BitVec 4} {s t : State}
    (h : execMreqWrite die m s = .next t) : t.mem = s.mem := by
  unfold execMreqWrite at h
  grind [setDie_mem, requestStep_mem]

theorem mem_execPowerComparison {draw : Nat} {s t : State}
    (h : execPowerComparison draw s = .next t) : t.mem = s.mem := by
  unfold execPowerComparison at h
  grind [requestStep_mem]

@[simp] theorem lengthenReclaims_mem (s : State) (die start : Nat) :
    (lengthenReclaims s die start).mem = s.mem := rfl

theorem mem_execRelockEnd {die : BitVec 2} {s t : State}
    (h : execRelockEnd die s = .next t) : t.mem = s.mem := by
  unfold execRelockEnd at h
  grind [setDie_mem, requestStep_mem, lengthenReclaims_mem]

/-! ## Memory -/

@[simp] theorem noteGranule_mem (s : State) (part n dva : Nat) :
    (noteGranule s part n dva).mem = s.mem := rfl

theorem wf_translate {s : State} {clu part dva : Nat} {acc : BitVec 4} {eval : W64} {r : State × W64 × Nat}
    (hs : s.mem.wf = true) (h : Machine.translate s clu part dva acc eval = .ok r) : r.1.mem.wf = true := by
  unfold Machine.translate at h
  dsimp only at h
  split at h
  · cases h
  next s1 l found =>
    have hs1 : s1.mem.wf = true := by clear h; grind [setCluster_mem]
    have marked := wf_setAD l acc hs1
    simp only [stop_else_eq_ok] at h
    obtain ⟨-, -, -, -, -, -, h⟩ := h
    cases h
    exact wf_ite ((congrArg Memory.wf (noteGranule_mem _ _ _ _)).trans (wf_ite hs1 marked)) (wf_ite hs1 marked)

@[simp] theorem dropLine_mem (s : State) (clu key : Nat) :
    (dropLine s clu key).mem = s.mem := rfl

@[simp] theorem dropClean_mem (s : State) (clu : Nat) :
    (dropClean s clu).mem = s.mem := rfl

@[simp] theorem l1Put_mem (s : State) (core part dva : Nat) (d : BitVec 512) :
    (l1Put s core part dva d).mem = s.mem := rfl

@[simp] theorem l1Drop_mem (s : State) (core part dva : Nat) :
    (l1Drop s core part dva).mem = s.mem := rfl

@[simp] theorem l1Clear_mem (s : State) (core : Nat) :
    (l1Clear s core).mem = s.mem := rfl

theorem wf_homeWrite {s : State} (clu part dva pa : Nat) (bs : List Byte)
    (hs : s.mem.wf = true) : (homeWrite s clu part dva pa bs).mem.wf = true := by
  unfold homeWrite
  dsimp only
  split
  · exact wf_ramWrite _ _ hs
  · exact wf_ramWrite _ _ (wf_ramWrite _ _ hs)

theorem wf_tryLine {s : State} {core part dva n pa : Nat} {leaf : W64} {taken : Mem} {r : State × List Byte × Bool × Nat}
    (hs : s.mem.wf = true) (h : tryLine s core part dva n pa leaf taken = some r) : r.1.mem.wf = true := by
  unfold tryLine at h
  grind [l1Put_mem, wf_fillLine]

theorem wf_tryLoad {s : State} {core part dva n pa : Nat} {leaf : W64} {taken : Mem} {r : State × List Byte × Bool × Nat}
    (hs : s.mem.wf = true) (h : tryLoad s core part dva n pa leaf taken = some r) : r.1.mem.wf = true := by
  unfold tryLoad at h
  dsimp only at h
  split at h
  · cases h
  next x found =>
    have hx := wf_tryLine hs found
    split at h
    · cases h; exact hx
    · obtain ⟨y, rest, rfl⟩ := Option.map_eq_some_iff.mp h
      exact (wf_tryLine hx rest : y.1.mem.wf = true)

theorem wf_lateLine {s : State} (core part dva n pa : Nat) (leaf : W64) (taken : Mem)
    (hs : s.mem.wf = true) : (lateLine s core part dva n pa leaf taken).1.mem.wf = true := by
  unfold lateLine
  grind [l1Put_mem, wf_fillLine, → wf_tryLine]

theorem wf_lateLoad {s : State} (core part dva n pa : Nat) (leaf : W64) (taken : Mem)
    (hs : s.mem.wf = true) : (lateLoad s core part dva n pa leaf taken).1.mem.wf = true := by
  unfold lateLoad
  grind [wf_lateLine]

theorem wf_resolve {s : State} {key : Nat} {ea : W64} {n : Nat} {k : AccessKind} {kind t : Nat} {r : State × Place}
    (hs : s.mem.wf = true) (h : resolve s key ea n k kind t = .ok r) : r.1.mem.wf = true := by
  unfold resolve at h
  simp only [bind, Except.bind, pure, Except.pure] at h
  grind [→ wf_translate]

theorem mem_enqueueStore {s : State} {core : Nat} {e : StoreEntry} {t : State}
    (h : enqueueStore s core e = .ok t) : t.mem = s.mem := by
  unfold enqueueStore at h
  grind [setCore_mem]

/-! ## Ordering as mechanism -/

@[simp] theorem acquireAt_mem (s : State) (core scope : Nat) :
    (acquireAt s core scope).mem = s.mem := by
  unfold acquireAt
  grind [l1Clear_mem, dropClean_mem]

theorem wf_drainRecorded {s : State} (core scope pa : Nat)
    (hs : s.mem.wf = true) : (drainRecorded s core scope pa).mem.wf = true := by
  unfold drainRecorded
  dsimp only
  split
  · exact hs
  · exact wf_of_bytes (m := (List.foldl _ s _).mem) rfl rfl rfl (wf_foldl hs fun s c hs => wf_drainCluster _ hs)

theorem wf_recordRelease {s : State} (pa core : Nat)
    (hs : s.mem.wf = true) : (recordRelease s pa core).mem.wf = true := by
  unfold recordRelease
  dsimp only
  split
  · exact hs
  · refine wf_of_bytes rfl rfl rfl (?_ : Memory.wf (State.mem (ite _ _ _)) = true)
    split
    · exact hs
    · exact wf_drainCluster _ hs

theorem wf_releaseMoves {s : State} (core scope : Nat) (lazy_ : Bool)
    (hs : s.mem.wf = true) : (releaseMoves s core scope lazy_).mem.wf = true := by
  unfold releaseMoves
  grind [wf_drainCluster]

theorem wf_atSpad {s : State} (core off n : Nat) (f : Nat → Option Nat)
    (hs : s.mem.wf = true) : (atSpad s core off n f).1.mem.wf = true := by
  unfold atSpad
  grind [wf_spadWrite]

theorem wf_atHome {s : State} (core part dva pa n : Nat) (acq : Option Nat) (f : Nat → Option Nat)
    (hs : s.mem.wf = true) : (atHome s core part dva pa n acq f).1.mem.wf = true := by
  unfold atHome
  grind [l1Drop_mem, dropLine_mem, wf_writeBackLine, wf_drainRecorded, wf_homeWrite]

theorem wf_atGlobal {s : State} (core part dva pa : Nat) (leaf : W64) (scope n : Nat) (acq : Bool) (f : Nat → Option Nat)
    (hs : s.mem.wf = true) : (atGlobal s core part dva pa leaf scope n acq f).1.mem.wf = true := by
  unfold atGlobal
  grind [l1Drop_mem, wf_atHome, wf_lateLoad, wf_globalWrite]

theorem wf_atPlace {s : State} (core part : Nat) (p : Place) (scope n : Nat) (acq : Bool) (f : Nat → Option Nat)
    (hs : s.mem.wf = true) : (atPlace s core part p scope n acq f).1.mem.wf = true := by
  unfold atPlace
  grind [wf_atSpad, wf_atGlobal]

@[simp] theorem noteRemaps_mem (s0 s : State) :
    (noteRemaps s0 s).mem = s.mem := rfl

@[simp] theorem countPeer_mem (s : State) (key : Nat) (pkg : BitVec 10) :
    (countPeer s key pkg).mem = s.mem := rfl

@[simp] theorem closeEpoch_mem (s : State) (key : Nat) (pkg : BitVec 10) :
    (closeEpoch s key pkg).1.mem = s.mem := rfl

@[simp] theorem countPerformed_mem (s : State) (pkg : BitVec 10) (tid : W64) (epoch : BitVec 16) :
    (countPerformed s pkg tid epoch).mem = s.mem := rfl

@[simp] theorem dropEpoch_mem (s : State) (pkg : BitVec 10) (tid : W64) (epoch : BitVec 16) :
    (dropEpoch s pkg tid epoch).mem = s.mem := rfl

@[simp] theorem sendStore_mem (s : State) (core : Nat) (e : StoreEntry) (pkg : BitVec 10) (dva : Nat) :
    (sendStore s core e pkg dva).mem = s.mem := by
  unfold sendStore
  dsimp only
  split
  · exact send_mem s _
  · split
    · exact send_mem _ _
    · split <;> simp

theorem wf_acceptAtomic {s : State} (core : Nat) (e : StoreEntry) (i : Instr)
    (hs : s.mem.wf = true) : (acceptAtomic s core e i).1.mem.wf = true := by
  unfold acceptAtomic
  grind [wf_atPlace, wf_recordRelease, acquireAt_mem]

theorem wf_performEntry {s : State} (core : Nat) (e : StoreEntry)
    (hs : s.mem.wf = true) : (performEntry s core e).1.mem.wf = true := by
  have sent (t : State) (p : Nat) : ∀ q, (sendStore s core e q p).mem.wf = true := fun q => by simpa
  unfold performEntry
  split
  · split
    · simpa
    · exact hs
  · simpa
  · split
    · simpa
    · exact wf_acceptAtomic _ _ _ hs
  · split
    · simpa
    · grind [wf_atGlobal, wf_globalWrite, wf_recordRelease, wf_ramWrite]
  · split
    · simpa
    · grind [wf_fillLine, wf_globalWrite]
  · split
    · simpa
    · exact wf_globalWrite _ _ _ _ _ _ hs
  · simpa
  · grind [wf_spadPerform]
  · exact wf_spadPerform _ hs

theorem wf_storeNow {s : State} {key : Nat} {ea : W64} {p : Place} {bs : List Byte} {t : State}
    (hs : s.mem.wf = true) (h : storeNow s key ea p bs = .ok t) : t.mem.wf = true := by
  unfold storeNow at h
  simp only [bind, Except.bind, pure, Except.pure] at h
  grind [wf_performEntry, countPeer_mem]

theorem wf_engineStore {s : State} {key : Nat} {ea : W64} {bs : List Byte} {t : State}
    (hs : s.mem.wf = true) (h : engineStore s key ea bs = .ok t) : t.mem.wf = true := by
  unfold engineStore at h
  simp only [bind, Except.bind] at h
  grind [→ wf_resolve, → wf_storeNow]

/-! ## The weft engine -/

theorem wf_translateRange {s : State} {clu part a n : Nat} {acc : BitVec 4} {eval : W64} {r : State × List (Nat × Nat)}
    (hs : s.mem.wf = true) (h : translateRange s clu part a n acc eval = .ok r) : r.1.mem.wf = true := by
  unfold translateRange at h
  refine foldl_ok (fun r => r.1.mem.wf = true) (fun _ _ => rfl) (fun r p r1 hr h => ?_) hs h
  simp only [error_bind, bind_eq_ok, pure_eq_ok, stop_else_eq_ok] at h
  grind [→ wf_translate]

theorem wf_homeReadRange {s : State} {clu part a n : Nat} {eval : W64} {r : State × List Byte × Bool}
    (hs : s.mem.wf = true) (h : homeReadRange s clu part a n eval = .ok r) : r.1.mem.wf = true := by
  unfold homeReadRange at h
  simp only [bind, Except.bind, pure, Except.pure] at h
  grind [→ wf_translateRange]

theorem wf_homeWriteRange {s : State} {clu part a : Nat} {bs : List Byte} {eval : W64} {t : State}
    (hs : s.mem.wf = true) (h : homeWriteRange s clu part a bs eval = .ok t) : t.mem.wf = true := by
  unfold homeWriteRange at h
  simp only [bind_eq_ok, pure_eq_ok] at h
  obtain ⟨x, translated, rfl⟩ := h
  exact wf_writePieces _ _ (wf_translateRange hs translated)

theorem wf_weftReadRange {s : State} {clu part a n : Nat} {eval : W64} {ext : ExtReply} {pos : Nat} {r : State × List Byte × Bool × Nat}
    (hs : s.mem.wf = true) (h : weftReadRange s clu part a n eval ext pos = .ok r) : r.1.mem.wf = true := by
  unfold weftReadRange at h
  refine foldl_ok (fun r => r.1.mem.wf = true) (fun _ _ => rfl) (fun r p r1 hr h => ?_) hs h
  obtain ⟨⟨t, bs, bad, pos⟩, read, h1⟩ := bind_eq_ok.mp h
  cases read
  clear h
  obtain ⟨x, translated, h⟩ := bind_eq_ok.mp h1
  clear h1
  have hx := wf_translate hr translated
  split at h
  · cases ext with
    | bytes l =>
      dsimp only at h
      split at h <;> cases h
      exact hx
    | poison => cases h; exact hx
    | refused | leaseGone | data | status | inside => cases h
  · obtain ⟨-, h⟩ := stop_else_eq_ok.mp h
    cases h
    exact hx

theorem wf_weftWriteRange {s : State} {key clu part a : Nat} {bs : List Byte} {eval : W64} {t : State}
    (hs : s.mem.wf = true) (h : weftWriteRange s key clu part a bs eval = .ok t) : t.mem.wf = true := by
  unfold weftWriteRange at h
  refine foldl_ok (fun s => s.mem.wf = true) (fun _ _ => rfl) (fun s p t hs h => ?_) hs h
  simp only [bind_eq_ok, Except.ok.injEq, exists_eq_left'] at h
  obtain ⟨x, translated, h⟩ := h
  have hx := wf_translate hs translated
  split at h
  · exact foldl_ok (fun s => s.mem.wf = true) (fun _ _ => rfl) (fun s i t hs h => wf_storeNow hs h) hx h
  · simp only [stop_else_eq_ok] at h
    obtain ⟨-, h⟩ := h
    cases h
    exact wf_ramWrite _ _ hx

@[simp] theorem setSkein_mem (s : State) (part n : Nat) (k : Skein) :
    (State.setSkein s part n k).mem = s.mem := rfl

@[simp] theorem setGroup_mem (s : State) (part g : Nat) (x : Group) :
    (State.setGroup s part g x).mem = s.mem := rfl

theorem wf_writeHw {s : State} (part n : Nat) (k : Skein)
    (hs : s.mem.wf = true) : (writeHw s part n k).mem.wf = true := by
  unfold writeHw
  dsimp only
  split
  · split
    · exact hs
    · exact upTo_keeps (fun m : Memory => m.wf = true) _ _ (fun _ _ hm => wf_ramWrite _ _ hm) _ (wf_ramWrite _ _ hs)
  · exact hs

theorem wf_serveState {s : State} {part : Nat} {k : Skein} {d : SkeinDesc} {tau : Nat} {eval : W64} {ext : ExtReply}
    {r : State × List Byte × Bool × Nat}
    (hs : s.mem.wf = true) (h : serveState s part k d tau eval ext = .ok r) : r.1.mem.wf = true := by
  unfold serveState at h
  simp only [bind, Except.bind, pure, Except.pure] at h
  grind [→ wf_weftReadRange]

@[simp] theorem setRecord_mem (s : State) (part g n tau key : Nat) (ret : Bool) :
    (setRecord s part g n tau key ret).mem = s.mem := rfl

@[simp] theorem clearRecords_mem (s : State) (part key : Nat) :
    (clearRecords s part key).mem = s.mem := by
  unfold clearRecords
  refine foldl_mem _ (fun s x => ?_) _ _
  dsimp only
  split <;> simp

@[simp] theorem unparkSkein_mem (s : State) (part n key : Nat) :
    (unparkSkein s part n key).mem = s.mem := by
  unfold unparkSkein
  simp

@[simp] theorem withdrawSkein_mem (s : State) (part key : Nat) :
    (withdrawSkein s part key).mem = s.mem := by
  unfold withdrawSkein
  exact foldl_mem _ (fun s x => by split <;> simp) _ _

theorem wf_readBuffer {s : State} {key part hcore kind o n : Nat} {a : W64} {ext : ExtReply} {r : State × List Byte × Bool}
    (hs : s.mem.wf = true) (h : readBuffer s key part hcore kind o n a ext = .ok r) : r.1.mem.wf = true := by
  unfold readBuffer at h
  simp only [bind, Except.bind, pure, Except.pure] at h
  grind [→ wf_weftReadRange]

theorem wf_writeBuffer {s : State} {key kind o : Nat} {bs : List Byte} {a : W64} {t : State}
    (hs : s.mem.wf = true) (h : writeBuffer s key kind o bs a = .ok t) : t.mem.wf = true := by
  unfold writeBuffer at h
  split at h
  · refine foldl_ok (fun s => s.mem.wf = true) (fun _ _ => rfl) (fun s i t hs h => ?_) hs h
    exact wf_engineStore hs h
  · simp only [stop_else_eq_ok] at h
    obtain ⟨-, h⟩ := h
    cases h
    exact wf_spadWrite _ _ _ hs

theorem wf_serveRead {s : State} {part n key : Nat} {cx : Bool} {ext : ExtReply} {t : State}
    (hs : s.mem.wf = true) (h : serveRead s part n key cx ext = .ok t) : t.mem.wf = true := by
  unfold serveRead at h
  simp only [bind, Except.bind, pure, Except.pure] at h
  repeat' split at h
  all_goals grind [answer_mem, unparkSkein_mem, → wf_serveState, → wf_writeBuffer]

theorem wf_storePick {s : State} {part n key : Nat} {ext : ExtReply} {t : State}
    (hs : s.mem.wf = true) (h : storePick s part n key ext = .ok t) : t.mem.wf = true := by
  unfold storePick at h
  simp only [bind, Except.bind, pure, Except.pure] at h
  repeat' split at h
  all_goals grind [answer_mem, setSkein_mem, unparkSkein_mem, → wf_readBuffer, → wf_weftWriteRange]

theorem mem_weftRead {s : State} {part n key : Nat} {t : State}
    (h : weftRead s part n key = .ok t) : t.mem = s.mem := by
  unfold weftRead at h
  simp only [bind, Except.bind, pure, Except.pure] at h
  grind [setSkein_mem, setRecord_mem]

@[simp] theorem pickRead_mem (s : State) (part n key : Nat) :
    (pickRead s part n key).mem = s.mem := by
  unfold pickRead
  grind [answer_mem, setSkein_mem, unparkSkein_mem, setRecord_mem]

theorem wf_weftStore {s : State} {part n key : Nat} {ext : ExtReply} {t : State}
    (hs : s.mem.wf = true) (h : weftStore s part n key ext = .ok t) : t.mem.wf = true := by
  unfold weftStore at h
  simp only [bind_eq_ok, pure_eq_ok] at h
  obtain ⟨s1, stored, rfl⟩ := h
  simpa using wf_storePick hs stored

theorem wf_weftWrite {s : State} {part n key : Nat} {ext : ExtReply} {t : State}
    (hs : s.mem.wf = true) (h : weftWrite s part n key ext = .ok t) : t.mem.wf = true := by
  unfold weftWrite at h
  simp only [bind, Except.bind, pure, Except.pure] at h
  repeat' split at h
  all_goals grind [setSkein_mem, setRecord_mem, → wf_weftStore]

theorem wf_weftBind {s : State} {part n key : Nat} {b d : Reg} {t : State}
    (hs : s.mem.wf = true) (h : weftBind s part n key b d = .ok t) : t.mem.wf = true := by
  unfold weftBind at h
  simp only [bind, Except.bind, pure, Except.pure] at h
  grind [answer_mem, setSkein_mem, wf_writeHw, → wf_homeReadRange]

theorem wf_weftUnbind {s : State} {part n key : Nat} {b d : Reg} {t : State}
    (hs : s.mem.wf = true) (h : weftUnbind s part n key b d = .ok t) : t.mem.wf = true := by
  unfold weftUnbind at h
  simp only [bind, Except.bind, pure, Except.pure] at h
  grind [answer_mem, setSkein_mem, wf_writeHw]

theorem wf_weftTake {s : State} {part n key : Nat} {w : Wait} {ext : ExtReply} {t : State}
    (hs : s.mem.wf = true) (h : weftTake s part n key w ext = .ok t) : t.mem.wf = true := by
  unfold weftTake at h
  grind [wf_weftWrite, mem_weftRead, wf_weftBind, wf_weftUnbind]

theorem wf_weftNext {s t : State} {part n key : Nat} {x : Nat × ExtReply} (hs : s.mem.wf = true)
    (h : weftNext s part n x = some (key, .ok t)) : t.mem.wf = true := by
  unfold weftNext at h
  dsimp only at h
  split at h
  next y ys _ =>
    have serves (z : Nat × Bool) (h : serveRead s part n z.1 z.2 (extOf x z.1) = .ok t) : t.mem.wf = true := wf_serveRead hs h
    have h := Option.some.inj h
    cases found : List.find? (fun r => !stuck r.2)
        (List.map (fun y : Nat × Bool => (y.1, serveRead s part n y.1 y.2 (extOf x y.1))) (y :: ys)) with
    | some z =>
      rw [found] at h
      obtain ⟨z, -, rfl⟩ := List.mem_map.mp (List.mem_of_find?_eq_some found)
      exact serves z (congrArg Prod.snd h)
    | none =>
      rw [found] at h
      exact serves y (congrArg Prod.snd h)
  · exact wf_weftWrite (by rw [setSkein_mem]; exact hs) (congrArg Prod.snd (Option.some.inj h))
  · split at h
    · exact wf_weftTake (by rw [setSkein_mem]; exact hs) (congrArg Prod.snd (Option.some.inj h))
    · cases h; rw [setSkein_mem]; exact hs
  · cases h

theorem wf_weftTurns {s : State} (fuel part n : Nat) (x : Nat × ExtReply) (hs : s.mem.wf = true) :
    (weftTurns fuel s part n x).mem.wf = true := by
  induction fuel generalizing s with
  | zero => exact hs
  | succ fuel ih =>
    unfold weftTurns
    grind [answer_mem, unparkSkein_mem, → wf_weftNext]

theorem wf_weftRun {s : State} (part n : Nat) (x : Nat × ExtReply)
    (hs : s.mem.wf = true) : (weftRun s part n x).mem.wf = true := by
  unfold weftRun
  grind [wf_weftTurns]

theorem wf_endRegistrations {s : State} (part g : Nat)
    (hs : s.mem.wf = true) : (endRegistrations s part g).mem.wf = true := by
  unfold endRegistrations
  refine wf_foldl hs (fun s x hs => ?_)
  grind [setSkein_mem, wf_writeHw, wf_weftRun]

theorem wf_causalityWalk {s : State} (part g0 : Nat)
    (hs : s.mem.wf = true) : (causalityWalk s part g0).mem.wf = true := by
  unfold causalityWalk
  split
  · exact hs
  · dsimp only
    split
    · split
      · exact hs
      · split
        · exact wf_weftRun _ _ _ (by rw [setSkein_mem]; exact hs)
        · exact hs
    · split
      · refine wf_foldl hs fun s g hs => wf_ite hs ?_
        rw [setSkein_mem]; exact hs
      · exact hs

theorem wf_weftFloor {s : State} (part n key tau : Nat)
    (hs : s.mem.wf = true) : (weftFloor s part n key tau).1.mem.wf = true := by
  unfold weftFloor
  grind [setSkein_mem, wf_weftRun]

/-! ## Groups and reeds -/

@[simp] theorem reedAnswer_mem (s : State) (tid : W64) (g : Nat) (st : W64) :
    (reedAnswer s tid g st).mem = s.mem := by
  unfold reedAnswer
  simp

@[simp] theorem serveReedPeers_mem (s : State) (part g : Nat) :
    (serveReedPeers s part g).mem = s.mem := by
  unfold serveReedPeers
  exact foldl_mem _ (fun s x => by split <;> simp) _ _

@[simp] theorem serveReed_mem (s : State) (part g : Nat) :
    (serveReed s part g).mem = s.mem := by
  unfold serveReed
  grind [foldl_mem, answer_mem, serveReedPeers_mem, answerOff_mem]

theorem wf_completePhase {s : State} (part g : Nat)
    (hs : s.mem.wf = true) : (completePhase s part g).mem.wf = true := by
  unfold completePhase
  dsimp only
  split
  · simpa using wf_foldl hs fun s c hs => wf_drainCluster _ hs
  · exact hs

theorem wf_reedArrive {s : State} (part g key : Nat)
    (hs : s.mem.wf = true) : (reedArrive s part g key).1.mem.wf = true := by
  unfold reedArrive
  grind [setThread_mem, setGroup_mem, wf_completePhase]

theorem wf_peerArrive {s : State} (part g : Nat) (tid : W64)
    (hs : s.mem.wf = true) : (peerArrive s part g tid).1.mem.wf = true := by
  unfold peerArrive
  grind [setGroup_mem, wf_completePhase]

@[simp] theorem peerWait_mem (s : State) (part g : Nat) (tid : W64) (p : W32) (again : Bool) :
    (peerWait s part g tid p again).mem = s.mem := by
  unfold peerWait
  dsimp only
  split <;> simp

theorem wf_freeGroup {s : State} (part g : Nat)
    (hs : s.mem.wf = true) : (freeGroup s part g).mem.wf = true := by
  unfold freeGroup
  grind [setGroup_mem, wf_endRegistrations, serveReed_mem]

theorem wf_endMembers {s : State} (part g n here : Nat) (broken : Bool)
    (hs : s.mem.wf = true) : (endMembers s part g n here broken).mem.wf = true := by
  unfold endMembers
  grind [setGroup_mem, serveReed_mem, wf_freeGroup, wf_completePhase]

theorem wf_leaveGroups {s : State} (key : Nat) (killed : Bool)
    (hs : s.mem.wf = true) : (leaveGroups s key killed).mem.wf = true := by
  unfold leaveGroups
  refine wf_foldl hs (fun s x hs => ?_)
  grind [send_mem, wf_endMembers]

@[simp] theorem joinGroup_mem (s : State) (part g : Nat) :
    (joinGroup s part g).mem = s.mem := by
  unfold joinGroup
  dsimp only
  split <;> simp

theorem wf_peerReed {s : State} (part g : Nat) (tid : W64) (op : ReedOp)
    (hs : s.mem.wf = true) : (peerReed s part g tid op).mem.wf = true := by
  unfold peerReed
  grind [setGroup_mem, reedAnswer_mem, wf_endMembers, wf_peerArrive, peerWait_mem, joinGroup_mem]

@[simp] theorem remoteEntry_mem (s : State) (part g : Nat) (w0 w1 : W64) :
    (remoteEntry s part g w0 w1).mem = s.mem := by
  unfold remoteEntry
  split <;> simp

@[simp] theorem widenScope_mem (s : State) (part c : Nat) (t : Thread) :
    (widenScope s part c t).mem = s.mem := by
  unfold widenScope
  grind [setGroup_mem]

/-! ## Synchronising objects of a core -/

@[simp] theorem serveLocks_mem (s : State) (core : Nat) :
    (serveLocks s core).mem = s.mem := by
  unfold serveLocks
  refine foldl_mem _ (fun s x => ?_) _ _
  grind [setThread_mem, answer_mem, setArch_mem]

theorem wf_setTag {s : State} (core off : Nat) (full : Bool)
    (hs : s.mem.wf = true) : (State.setTag s core off full).mem.wf = true := by
  unfold State.setTag
  exact wf_of_bytes rfl rfl rfl hs

theorem wf_tagTry {s : State} {core off : Nat} {t : Thread} {i : Instr} {r : State × Reply}
    (hs : s.mem.wf = true) (h : tagTry s core off t i = some r) : r.1.mem.wf = true := by
  have put (v : W64) : ({ s with mem := spadWrite s.mem core off (bytesOfNat 8 v.toNat) } : State).mem.wf = true := wf_spadWrite _ _ _ hs
  cases i <;> simp only [tagTry] at h <;> grind [wf_setTag]

theorem wf_serveTag {s : State} (core off : Nat) (l : List Nat) (hs : s.mem.wf = true) :
    (serveTag core off l s).mem.wf = true := by
  induction l generalizing s with
  | nil => exact hs
  | cons key rest ih =>
    unfold serveTag
    grind [answer_mem, setCore_mem, → wf_tagTry]

theorem wf_serveTags {s : State} (core : Nat)
    (hs : s.mem.wf = true) : (serveTags s core).mem.wf = true := by
  unfold serveTags
  refine wf_foldl hs (fun s x hs => ?_)
  grind [wf_serveTag]

theorem wf_releaseLocks {s : State} (core : Nat) (p : Lock → Bool)
    (hs : s.mem.wf = true) : (releaseLocks s core p).mem.wf = true := by
  unfold releaseLocks
  grind [setArch_mem, wf_serveTags, serveLocks_mem]

theorem wf_tagArrive {s : State} (core off key : Nat) (i : Instr)
    (hs : s.mem.wf = true) : (tagArrive s core off key i).1.mem.wf = true := by
  unfold tagArrive
  grind [setCore_mem, answer_mem, → wf_tagTry, wf_serveTag]

@[simp] theorem withdrawTag_mem (s : State) (key : Nat) :
    (withdrawTag s key).mem = s.mem := by
  unfold withdrawTag
  refine foldl_mem _ (fun s x => ?_) _ _
  dsimp only
  split <;> simp

@[simp] theorem setBobbin_mem (s : State) (core n : Nat) (b : Bobbin) :
    (State.setBobbin s core n b).mem = s.mem := rfl

@[simp] theorem giveCopySlot_mem (s : State) (core : Nat) (urgent : Bool) (i : Nat) :
    (giveCopySlot s core urgent i).mem = s.mem := rfl

@[simp] theorem bobServeConsumers_mem (s : State) (core n : Nat) (b : Bobbin) :
    (bobServe.bobServeConsumers s core n b).mem = s.mem := by
  unfold bobServe.bobServeConsumers
  refine foldl_mem _ (fun s x => ?_) _ _
  dsimp only
  split <;> simp

@[simp] theorem bobServe_mem (fuel : Nat) (s : State) (core n : Nat) : (bobServe fuel s core n).mem = s.mem := by
  induction fuel generalizing s with
  | zero => rfl
  | succ fuel ih =>
    unfold bobServe
    grind [setBobbin_mem, answer_mem, giveCopySlot_mem, bobServeConsumers_mem]

@[simp] theorem bobSettle_mem (s : State) (core n : Nat) :
    (bobSettle s core n).mem = s.mem := by
  unfold bobSettle
  grind [foldl_mem, bobServe_mem]

@[simp] theorem bobHolderEnds_mem (s : State) (core holder key : Nat) :
    (bobHolderEnds s core holder key).mem = s.mem := by
  unfold bobHolderEnds
  refine foldl_mem _ (fun s x => ?_) _ _
  dsimp only
  split <;> simp

@[simp] theorem withdrawBobbin_mem (s : State) (core key : Nat) :
    (withdrawBobbin s core key).mem = s.mem := by
  unfold withdrawBobbin
  refine foldl_mem _ (fun s x => ?_) _ _
  grind [setBobbin_mem]

/-! ## Engine queues -/

@[simp] theorem recordFault_mem (s : State) (core slot eng : Nat) (serial : W32) (cause : Byte) (addr : W64) :
    (recordFault s core slot eng serial cause addr).mem = s.mem := by
  unfold recordFault
  grind [setThread_mem]

@[simp] theorem cancelWhere_mem (s : State) (core eng : Nat) (urgent : Bool) (p : Entry → Bool) :
    (cancelWhere s core eng urgent p).mem = s.mem := rfl

@[simp] theorem faultEntry_mem (s : State) (core eng : Nat) (e : Entry) (cause : Byte) (addr : W64) :
    (faultEntry s core eng e cause addr).mem = s.mem := by
  unfold faultEntry
  simp

@[simp] theorem wakeEngine_mem (s : State) (core : Nat) :
    (wakeEngine s core).mem = s.mem := by
  unfold wakeEngine
  refine foldl_mem _ (fun s x => ?_) _ _
  grind [answer_mem]

@[simp] theorem followRelease_mem (s : State) (core slot : Nat) :
    (followRelease s core slot).mem = s.mem := by
  unfold followRelease
  grind [setThread_mem, setEngine_mem]

@[simp] theorem followCancel_mem (s : State) (core slot : Nat) :
    (followCancel s core slot).mem = s.mem := by
  unfold followCancel
  grind [recordFault_mem, cancelWhere_mem]

@[simp] theorem skipCopySlot_mem (s : State) (core n i : Nat) :
    (skipCopySlot s core n i).mem = s.mem := by
  unfold skipCopySlot
  simp

@[simp] theorem dropCopyWaiter_mem (s : State) (core n : Nat) (urgent : Bool) :
    (dropCopyWaiter s core n urgent).mem = s.mem := by
  unfold dropCopyWaiter
  dsimp only
  split <;> simp

@[simp] theorem popEntry_mem (s : State) (core eng : Nat) (urgent : Bool) (how : EntryEnd) :
    (popEntry s core eng urgent how).mem = s.mem := by
  unfold popEntry
  grind [setEngine_mem, faultEntry_mem, skipCopySlot_mem, dropCopyWaiter_mem, followRelease_mem, followCancel_mem, wakeEngine_mem]

@[simp] theorem reapQueue_mem (fuel : Nat) (s : State) (core eng : Nat) (urgent : Bool) :
    (reapQueue fuel s core eng urgent).mem = s.mem := by
  induction fuel generalizing s with
  | zero => rfl
  | succ fuel ih =>
    unfold reapQueue
    grind [popEntry_mem]

@[simp] theorem reapCore_mem (s : State) (core : Nat) :
    (reapCore s core).mem = s.mem := by
  unfold reapCore
  grind [foldl_mem, reapQueue_mem]

@[simp] theorem endEntry_mem (s : State) (core eng : Nat) (urgent : Bool) (how : EntryEnd) :
    (endEntry s core eng urgent how).mem = s.mem := by
  unfold endEntry
  simp

theorem mem_enqueueEntry {s : State} {key eng : Nat} {kind : EntryKind} {r : State × W32}
    (h : enqueueEntry s key eng kind = some r) : r.1.mem = s.mem := by
  unfold enqueueEntry at h
  grind [setThread_mem, setEngine_mem, reapCore_mem]

@[simp] theorem killEntries_mem (s : State) (core slot : Nat) :
    (killEntries s core slot).mem = s.mem := by
  unfold killEntries
  simp

/-! ## Work queues, kernels and tokens -/

@[simp] theorem setKernel_mem (s : State) (q : Nat) (k : Kernel) :
    (State.setKernel s q k).mem = s.mem := rfl

@[simp] theorem dropKernel_mem (s : State) (q : Nat) (serial : W32) :
    (State.dropKernel s q serial).mem = s.mem := rfl

@[simp] theorem setToken_mem (s : State) (part t : Nat) (x : Token) :
    (State.setToken s part t x).mem = s.mem := rfl

@[simp] theorem serveToken_mem (s : State) (part t : Nat) :
    (serveToken s part t).mem = s.mem := by
  unfold serveToken
  grind [foldl_mem, answer_mem, answerOff_mem]

@[simp] theorem tokenSignal_mem (s : State) (part t : Nat) (v : W64) :
    (tokenSignal s part t v).1.mem = s.mem := by
  unfold tokenSignal
  grind [serveToken_mem, setToken_mem]

@[simp] theorem tokenError_mem (s : State) (part t : Nat) :
    (tokenError s part t).mem = s.mem := by
  unfold tokenError
  simp

@[simp] theorem sendReply_mem (s : State) (q : Nat) (k : Kernel) (w1 w2 : W64) :
    (sendReply s q k w1 w2).mem = s.mem := by
  unfold sendReply
  split <;> simp

@[simp] theorem replyAtEnd_mem (s : State) (q : Nat) (k : Kernel) (faulted cancelled : Bool) :
    (replyAtEnd s q k faulted cancelled).mem = s.mem := by
  unfold replyAtEnd
  split <;> simp

theorem wf_dispTranslate {s : State} {part dva : Nat} {r : State × Nat}
    (hs : s.mem.wf = true) (h : dispTranslate s part dva = .ok r) : r.1.mem.wf = true := by
  unfold dispTranslate at h
  grind [wf_setAD]

theorem wf_dispRead {s : State} {part a n : Nat} {r : State × List Byte}
    (hs : s.mem.wf = true) (h : dispRead s part a n = .ok r) : r.1.mem.wf = true := by
  unfold dispRead at h
  refine foldl_ok (fun r => r.1.mem.wf = true) (fun _ _ => rfl) (fun r p r1 hr h => ?_) hs h
  simp only [bind_eq_ok, pure_eq_ok] at h
  grind [→ wf_dispTranslate]

theorem wf_readGroup {s : State} {part gtab i : Nat} {r : State × GroupUse × Bool}
    (hs : s.mem.wf = true) (h : readGroup s part gtab i = .ok r) : r.1.mem.wf = true := by
  unfold readGroup at h
  simp only [bind, Except.bind, pure, Except.pure] at h
  grind [→ wf_dispRead]

theorem wf_validate {s : State} {q : Nat} {k : Kernel} {r : State × Placement}
    (hs : s.mem.wf = true) (h : validate s q k = .ok r) : r.1.mem.wf = true := by
  unfold validate at h
  dsimp only at h
  split at h
  · cases h; exact hs
  · obtain ⟨_, -, h⟩ := bind_eq_ok.mp h
    obtain ⟨_, -, h⟩ := bind_eq_ok.mp h
    split at h
    · cases h; exact hs
    · obtain ⟨_, -, h⟩ := bind_eq_ok.mp h
      obtain ⟨⟨s1, hd⟩, header, h⟩ := bind_eq_ok.mp h
      have h1 := wf_dispRead hs header
      split at h
      on_goal 1 => obtain ⟨⟨s2, pl⟩, placed, h⟩ := bind_eq_ok.mp h; have h2 := wf_dispRead h1 placed
      on_goal 2 => obtain ⟨⟨s2, pl⟩, same, h⟩ := bind_eq_ok.mp h; cases same; have h2 := h1
      all_goals
        obtain ⟨_, -, h⟩ := bind_eq_ok.mp h
        obtain ⟨_, -, h⟩ := bind_eq_ok.mp h
        obtain ⟨⟨s3, gs, ok⟩, groups, h⟩ := bind_eq_ok.mp h
        have h3 : s3.mem.wf = true := by
          refine foldl_ok (fun r : State × List GroupUse × Bool => r.1.mem.wf = true) (fun _ _ => rfl)
            (fun r i r1 hr h => ?_) h2 groups
          obtain ⟨x, read, h⟩ := bind_eq_ok.mp (show (readGroup r.1 _ _ i >>= _) = _ from h)
          cases h
          exact wf_readGroup hr read
        simp only [bind_eq_ok, pure_eq_ok] at h
        obtain ⟨-, -, -, -, -, -, -, -, -, -, -, -, rfl⟩ := h
        exact h3

@[simp] theorem setupGroups_mem (s : State) (q : Nat) (k : Kernel) (p : Placement) :
    (setupGroups s q k p).mem = s.mem := by
  unfold setupGroups
  refine foldl_mem _ (fun s x => ?_) _ _
  grind [setGroup_mem, send_mem]

theorem wf_dropUnbound {s : State} (q : Nat) (k : Kernel)
    (hs : s.mem.wf = true) : (dropUnbound s q k).mem.wf = true := by
  unfold dropUnbound
  refine wf_foldl hs (fun s x hs => ?_)
  grind [wf_endMembers]

theorem wf_dropCancelled {s : State} (q : Nat) (k : Kernel)
    (hs : s.mem.wf = true) : (dropCancelled s q k).mem.wf = true := by
  unfold dropCancelled
  dsimp only
  split
  · exact hs
  · split
    · exact hs
    · refine wf_foldl hs fun s i hs => ?_
      split
      · exact hs
      · exact wf_ite (wf_endMembers _ _ _ _ _ hs) hs

@[simp] theorem tellEnd_mem (s : State) (q : Nat) :
    (tellEnd s q).mem = s.mem := by
  unfold tellEnd
  dsimp only
  split <;> simp

theorem wf_cancelKernel {s : State} (q : Nat) (serial : W32)
    (hs : s.mem.wf = true) : (cancelKernel s q serial).mem.wf = true := by
  unfold cancelKernel
  grind [tokenError_mem, dropKernel_mem, wf_dropCancelled, replyAtEnd_mem, tellEnd_mem]

@[simp] theorem freezeQueue_mem (s : State) (q : Nat) (serial : W32) (cause : Byte) :
    (freezeQueue s q serial cause).mem = s.mem := rfl

@[simp] theorem flagError_mem (s : State) (q : Nat) (serial : W32) (cause : Byte) :
    (flagError s q serial cause).mem = s.mem := by
  unfold flagError
  grind [pushEvent_mem, setKernel_mem, tokenError_mem, freezeQueue_mem]

theorem wf_faultKernel {s : State} (q : Nat) (serial : W32)
    (hs : s.mem.wf = true) : (faultKernel s q serial).mem.wf = true := by
  unfold faultKernel
  grind [dropKernel_mem, replyAtEnd_mem, tellEnd_mem, wf_dropUnbound]

theorem wf_ringPlace {s : State} {q i : Nat} {acc : BitVec 4} {r : State × Nat}
    (hs : s.mem.wf = true) (h : ringPlace s q i acc = some r) : r.1.mem.wf = true := by
  unfold ringPlace at h
  grind [wf_setAD]

theorem wf_unspill {s : State} {q : Nat} {k : Kernel} {t : State}
    (hs : s.mem.wf = true) (h : unspill s q k = some t) : t.mem.wf = true := by
  unfold unspill at h
  split at h
  · cases h
  · obtain ⟨r, placed, rfl⟩ := Option.map_eq_some_iff.mp h
    simpa using wf_ringPlace hs placed

theorem wf_refill {s : State} {q : Nat} {t : State}
    (hs : s.mem.wf = true) (h : refill s q = some t) : t.mem.wf = true := by
  unfold refill at h
  dsimp only at h
  split at h
  · obtain ⟨k, -, h⟩ := Option.bind_eq_some_iff.mp h
    exact wf_unspill hs h
  · cases h

theorem wf_settleHead {s : State} {q : Nat} {t : State}
    (hs : s.mem.wf = true) (h : settleHead s q = some t) : t.mem.wf = true := by
  unfold settleHead at h
  grind [setQueue_mem, setKernel_mem, wf_unspill, wf_cancelKernel]

theorem wf_settleQueue {s : State} {q : Nat} {t : State}
    (hs : s.mem.wf = true) (h : settleQueue s q = some t) : t.mem.wf = true := by
  unfold settleQueue at h
  grind [wf_refill, wf_settleHead]

theorem wf_settleFuel {s : State} (fuel : Nat) (hs : s.mem.wf = true) : (settleFuel fuel s).mem.wf = true := by
  induction fuel generalizing s with
  | zero => exact hs
  | succ fuel ih =>
    unfold settleFuel
    split
    · exact hs
    next s1 found =>
      obtain ⟨q, -, settled⟩ := List.exists_of_findSome?_eq_some found
      exact ih (wf_settleQueue hs settled)

@[simp] theorem markEligible_mem (s : State) :
    (markEligible s).mem = s.mem := rfl

@[simp] theorem takeWeights_mem (s : State) :
    (takeWeights s).mem = s.mem := rfl

theorem wf_settle {s : State} 
    (hs : s.mem.wf = true) : (settle s).mem.wf = true := by
  unfold settle
  grind [markEligible_mem, wf_settleFuel]

theorem wf_acceptRecord {s : State} (q : Nat) (record : BitVec 512) (sh : Option Shuttle) (handler : BitVec 256)
    (hs : s.mem.wf = true) : (acceptRecord s q record sh handler).mem.wf = true := by
  unfold acceptRecord
  dsimp only
  split
  · refine wf_settle ?_
    rw [setQueue_mem]
    exact hs
  · split
    next placed =>
      refine wf_settle ?_
      rw [setQueue_mem]
      exact wf_ramWrite _ _ (wf_ringPlace hs placed)
    · refine wf_settle ?_
      rw [setQueue_mem]
      exact hs

/-! ## The life of a thread -/

@[simp] theorem orphan_mem (s : State) (key : Nat) (exited : Bool) :
    (orphan s key exited).mem = s.mem := by
  unfold orphan
  grind [setThread_mem, repauseIf6_mem, answer_mem]

@[simp] theorem withdraw_mem (s : State) (key : Nat) :
    (withdraw s key).mem = s.mem := by
  unfold withdraw
  simp

@[simp] theorem trapOut_mem (s : State) (key : Nat) (cause : Byte) (eval : W64) (wkind : Byte) (seq : Option (Nat × Nat)) :
    (trapOut s key cause eval wkind seq).mem = s.mem := by
  unfold trapOut
  split <;> simp

@[simp] theorem lateTrap_mem (s : State) (key : Nat) (cause : Byte) (eval : W64) :
    (lateTrap s key cause eval).mem = s.mem := by
  unfold lateTrap
  grind [setThread_mem, takeTrap_mem, trapOut_mem]

theorem wf_threadEnded {s : State} (kid : W64)
    (hs : s.mem.wf = true) : (threadEnded s kid).mem.wf = true := by
  unfold threadEnded
  grind [setKernel_mem, wf_settle, wf_faultKernel]

@[simp] theorem handOver_mem (s : State) (key : Nat) :
    (handOver s key).mem = s.mem := by
  unfold handOver
  dsimp only
  split <;> simp

@[simp] theorem forgetLost_mem (s : State) (core slot : Nat) :
    (forgetLost s core slot).mem = s.mem := rfl

theorem wf_exitThread {s : State} (key : Nat)
    (hs : s.mem.wf = true) : (exitThread s key).mem.wf = true := by
  unfold exitThread
  grind [setThread_mem, repauseIf6_mem, wf_releaseLocks, bobHolderEnds_mem, handOver_mem, wf_leaveGroups, orphan_mem, wf_threadEnded,
      forgetLost_mem]

@[simp] theorem loseWakes_mem (s : State) (core slot : Nat) :
    (loseWakes s core slot).mem = s.mem := rfl

theorem wf_killOne {s : State} (key : Nat) (cause : Byte)
    (hs : s.mem.wf = true) : (killOne s key cause).mem.wf = true := by
  unfold killOne
  grind [setThread_mem, repauseIf6_mem, setCore_mem, loseWakes_mem, withdraw_mem, wf_releaseLocks, bobHolderEnds_mem, handOver_mem,
      wf_leaveGroups, orphan_mem, killEntries_mem]

theorem wf_kernelError {s : State} (kid : W64) (cause : Byte)
    (hs : s.mem.wf = true) : (kernelError s kid cause).mem.wf = true := by
  unfold kernelError
  dsimp only
  split
  · exact hs
  · have flagged : (flagError s (kidQueue kid) ‹Kernel›.serial cause).mem.wf = true := by simpa
    exact wf_settle (wf_ite (wf_foldl flagged fun s x hs => wf_killOne _ _ hs) flagged)

theorem wf_killThread {s : State} (key : Nat) (cause : Byte)
    (hs : s.mem.wf = true) : (killThread s key cause).mem.wf = true := by
  unfold killThread
  grind [setThread_mem, wf_killOne, wf_kernelError]

theorem wf_scrubEnd {s : State} (key : Nat)
    (hs : s.mem.wf = true) : (scrubEnd s key).mem.wf = true := by
  unfold scrubEnd
  grind [setThread_mem, orphan_mem, wf_threadEnded]

theorem wf_bindRank {s : State} (q : Nat) (k : Kernel) (key : Nat)
    (hs : s.mem.wf = true) : (bindRank s q k key).mem.wf = true := by
  unfold bindRank
  rw [repause_mem]
  refine wf_settle ?_
  rw [setKernel_mem, foldl_mem _ (fun _ _ => joinGroup_mem _ _ _), setThread_mem]
  rw [acquireAt_mem, setCore_mem]
  exact hs

@[simp] theorem joinRecords_mem (s : State) (die clu part dva : Nat) (kind : BitVec 2) (acc : BitVec 4) (src : BitVec 5)
    (js : List Joined) :
    (joinRecords s die clu part dva kind acc src js).mem = s.mem := by
  unfold joinRecords
  dsimp only
  split <;> simp

@[simp] theorem joinRecord_mem (s : State) (die clu part dva : Nat) (kind : BitVec 2) (acc : BitVec 4) (src : BitVec 5) (j : Joined) :
    (joinRecord s die clu part dva kind acc src j).mem = s.mem := by
  unfold joinRecord
  simp

@[simp] theorem dropThread_mem (s : State) (key dva : Nat) (kind : BitVec 2) (acc : BitVec 4) (eval : W64) :
    (dropThread s key dva kind acc eval).mem = s.mem := by
  unfold dropThread
  simp

@[simp] theorem askAts_mem (s : State) (page : Nat) (j : Joined) :
    (askAts s page j).mem = s.mem := by
  unfold askAts
  dsimp only
  split <;> simp

@[simp] theorem dropAts_mem (s : State) (key page : Nat) (eval : W64) :
    (dropAts s key page eval).mem = s.mem := by
  unfold dropAts
  simp

theorem wf_runBody {s : State} {i : Instr} {r : Except Stop State} (hs : s.mem.wf = true)
    (hr : ∀ u, r = .ok u → u.mem.wf = true) : (runBody i s r).mem.wf = true := by
  unfold runBody
  split
  · exact hr _ rfl
  all_goals grind [trapMe_mem, wf_killThread, dropThread_mem, dropAts_mem, parkOn_mem, setMe_mem, setArch_mem, foldl_mem, send_mem]

theorem wf_of_run {s t : State} {i : Instr} {r : Except Stop State} (hs : s.mem.wf = true)
    (hr : ∀ u, r = .ok u → u.mem.wf = true) (h : run i s r = .next t) : t.mem.wf = true := by
  cases h
  exact wf_runBody hs hr

theorem wf_privileged {s t : State} {i : Instr} {m : Nat} {o : Out} (hs : s.mem.wf = true)
    (ho : ∀ u, o = .next u → u.mem.wf = true) (h : privileged i m s o = .next t) : t.mem.wf = true := by
  unfold privileged at h
  split at h
  · exact wf_of_run hs (fun _ stopped => by cases stopped) h
  · exact ho t h

/-! ## Operand forms -/

theorem wf_loadAt {i : Instr} {s : State} {key : Nat} {ea : W64} {n : Nat} {p : Place} {r : State × List Byte × Nat}
    (hs : s.mem.wf = true) (h : loadAt i s key ea n p = .ok r) : r.1.mem.wf = true := by
  unfold loadAt at h
  grind [→ wf_tryLoad]

theorem wf_loadNow {s : State} (key : Nat) (p : Place) (n : Nat) (taken : Mem)
    (hs : s.mem.wf = true) : (loadNow s key p n taken).1.mem.wf = true := by
  unfold loadNow
  grind [wf_lateLoad]

theorem wf_bytesNow {s : State} {key : Nat} {p : Place} {n : Nat} {r : State × List Byte × Bool}
    (hs : s.mem.wf = true) (h : bytesNow s key p n = .ok r) : r.1.mem.wf = true := by
  unfold bytesNow at h
  grind [wf_loadNow]

theorem wf_loadCheck {i : Instr} {s : State} {key : Nat} {ea : W64} {n : Nat} {r : State × List Byte × Nat}
    (hs : s.mem.wf = true) (h : loadCheck i s key ea n = .ok r) : r.1.mem.wf = true := by
  unfold loadCheck at h
  simp only [bind, Except.bind] at h
  grind [→ wf_resolve, → wf_loadAt]

theorem mem_storeAt {s : State} {key : Nat} {ea : W64} {p : Place} {bs : List Byte} {op : StoreOp} {stream : Option Nat} {t : State}
    (h : storeAt s key ea p bs op stream = .ok t) : t.mem = s.mem := by
  unfold storeAt at h
  grind [countPeer_mem, mem_enqueueStore]

theorem mem_storeOrCompare {s : State} {key : Nat} {ea : W64} {p : Place} {bs : List Byte} {op : StoreOp} {stream : Option Nat} {t : State}
    (h : storeOrCompare s key ea p bs op stream = .ok t) : t.mem = s.mem := by
  unfold storeOrCompare at h
  grind [setThread_mem, mem_storeAt]

theorem mem_trailerStore {s : State} {key : Nat} {ea : W64} {bs : List Byte} {t : State}
    (h : trailerStore s key ea bs = .ok t) : t.mem = s.mem := by
  unfold trailerStore at h
  grind [setThread_mem, mem_storeAt]

theorem wf_storeCheck {s : State} {key : Nat} {ea : W64} {bs : List Byte} {t : State}
    (hs : s.mem.wf = true) (h : storeCheck s key ea bs = .ok t) : t.mem.wf = true := by
  unfold storeCheck at h
  simp only [bind, Except.bind] at h
  grind [→ wf_resolve, → mem_trailerStore, → mem_storeOrCompare]

theorem wf_packFetch {s : State} {key : Nat} {x : Stream} {i : Nat} {ext : ExtReply} {r : State × W128}
    (hs : s.mem.wf = true) (h : packFetch s key x i ext = .ok r) : r.1.mem.wf = true := by
  unfold packFetch at h
  obtain ⟨_, -, h⟩ := bind_eq_ok.mp h
  obtain ⟨⟨kind, o⟩, -, h⟩ := bind_eq_ok.mp h
  obtain ⟨⟨t, p⟩, resolved, h⟩ := bind_eq_ok.mp h
  have ht := wf_resolve hs resolved
  dsimp only at h
  split at h
  · cases ext with
    | data v => cases h; exact ht
    | poison | refused | leaseGone | bytes | status | inside => cases h
  · obtain ⟨⟨u, bs, bad⟩, read, h⟩ := bind_eq_ok.mp h
    obtain ⟨_, -, h⟩ := bind_eq_ok.mp h
    cases h
    exact wf_bytesNow ht read

@[simp] theorem keepPack_mem (s : State) (key n : Nat) (k : Pack) :
    (keepPack s key n k).mem = s.mem := rfl

theorem mem_twinPack {s : State} {key : Nat} {ea : W64} {r : Reg} {v : W128} {t : State}
    (h : twinPack s key ea r v = .ok t) : t.mem = s.mem := by
  unfold twinPack at h
  grind [setThread_mem]

theorem mem_trailerPack {s : State} {key : Nat} {ea : W64} {r : State × W128}
    (h : trailerPack s key ea = .ok r) : r.1.mem = s.mem := by
  unfold trailerPack at h
  grind [setThread_mem]

theorem wf_readF {s : State} {key : Nat} {r : Reg} {r' : State × W128}
    (hs : s.mem.wf = true) (h : readF s key r = .ok r') : r'.1.mem.wf = true := by
  unfold readF at h
  dsimp only at h
  split at h
  · cases h; exact hs
  · obtain ⟨-, h⟩ := stop_else_eq_ok.mp h
    split at h
    · rwa [mem_trailerPack h]
    · split at h
      · split at h
        · obtain ⟨t, paired, rfl⟩ := map_eq_ok.mp h
          rwa [mem_twinPack paired]
        · cases h
      · simp only [bind_eq_ok, pure_eq_ok] at h
        obtain ⟨y, fetched, t, paired, rfl⟩ := h
        rw [mem_twinPack paired, keepPack_mem]
        exact wf_packFetch hs fetched

theorem wf_readFs {s : State} {key : Nat} {rs : List Reg} {r : State × List W128} (hs : s.mem.wf = true)
    (h : readFs s key rs = .ok r) : r.1.mem.wf = true := by
  induction rs generalizing s r with
  | nil => cases h; exact hs
  | cons x rs ih =>
    simp only [readFs, bind_eq_ok, pure_eq_ok] at h
    obtain ⟨u, read, v, rest, rfl⟩ := h
    exact ih (r := v) (wf_readF hs read) rest

@[simp] theorem stepStreams_mem (s : State) (key : Nat) (rs : List Reg) :
    (stepStreams s key rs).mem = s.mem := by
  unfold stepStreams
  dsimp only
  split <;> simp

theorem wf_writeF {s : State} {key : Nat} {d : Reg} {v : W128} {t : State}
    (hs : s.mem.wf = true) (h : writeF s key d v = .ok t) : t.mem.wf = true := by
  unfold writeF at h
  simp only [bind, Except.bind, pure, Except.pure] at h
  repeat' split at h
  all_goals grind [setThread_mem, → wf_resolve, → mem_trailerStore, → mem_storeOrCompare]

/-! ## Instruction fetch -/

@[simp] theorem codeLine_mem (s : State) (core part dva n pa : Nat) :
    (codeLine s core part dva n pa).1.mem = s.mem := by
  unfold codeLine
  grind [setCore_mem]

@[simp] theorem codeBytes_mem (s : State) (core part dva pa : Nat) :
    (codeBytes s core part dva pa).1.mem = s.mem := by
  unfold codeBytes
  dsimp only
  split <;> simp

theorem wf_fetchWord {s : State} {key : Nat} {pc : W64} {r : State × W32}
    (hs : s.mem.wf = true) (h : fetchWord s key pc = .ok r) : r.1.mem.wf = true := by
  unfold fetchWord at h
  simp only [bind, Except.bind, pure, Except.pure] at h
  repeat' split at h
  all_goals grind [→ wf_translate, codeBytes_mem]

theorem wf_fetchWords {s : State} {key : Nat} {pc : W64} {n : Nat} {r : State × List W32} (hs : s.mem.wf = true)
    (h : fetchWords s key pc n = .ok r) : r.1.mem.wf = true := by
  induction n generalizing s pc r with
  | zero => cases h; exact hs
  | succ n ih =>
    simp only [fetchWords, bind_eq_ok, pure_eq_ok] at h
    obtain ⟨x, fetched, y, rest, rfl⟩ := h
    exact ih (r := y) (wf_fetchWord hs fetched) rest

/-! ## The stream pipe -/

theorem wf_fApply {o : FOp} {s : State} {key : Nat} {r : State × Bool}
    (hs : s.mem.wf = true) (h : fApply o s key = .ok r) : r.1.mem.wf = true := by
  unfold fApply at h
  simp only [bind_eq_ok] at h
  obtain ⟨x, read, h⟩ := h
  have hx := wf_readFs hs read
  split at h
  · cases h
  · split at h
    · obtain ⟨t, written, h⟩ := bind_eq_ok.mp h
      cases h
      rw [setThread_mem, stepStreams_mem]
      exact wf_writeF hx written
    · cases h
      rw [setThread_mem, stepStreams_mem]
      exact hx

theorem wf_fBody {o : FOp} {s t : State}
    (hs : s.mem.wf = true) (h : fBody o s = .ok t) : t.mem.wf = true := by
  unfold fBody at h
  simp only [bind, Except.bind, pure, Except.pure] at h
  grind [finish_mem, → wf_fApply, noteSub_mem]

theorem wf_resolveRange {s : State} {key : Nat} {ea : W64} {kind o n i : Nat} {r : State × List Place} (hs : s.mem.wf = true)
    (h : resolveRange s key ea kind o n i = .ok r) : r.1.mem.wf = true := by
  induction n generalizing s i r with
  | zero => cases h; exact hs
  | succ n ih =>
    simp only [resolveRange, bind_eq_ok, pure_eq_ok] at h
    obtain ⟨x, resolved, y, rest, rfl⟩ := h
    exact ih (r := y) (wf_resolve hs resolved) rest

theorem wf_tableRange {s : State} {key : Nat} {ea : W64} {n : Nat} {r : State × List Place}
    (hs : s.mem.wf = true) (h : tableRange s key ea n = .ok r) : r.1.mem.wf = true := by
  unfold tableRange at h
  simp only [bind_eq_ok] at h
  grind [→ wf_resolveRange]

theorem wf_readPlaces {s : State} {key : Nat} {ps : List Place} {r : State × List Byte × Bool} (hs : s.mem.wf = true)
    (h : readPlaces s key ps = .ok r) : r.1.mem.wf = true := by
  induction ps generalizing s r with
  | nil => cases h; exact hs
  | cons p ps ih =>
    simp only [readPlaces, error_bind, bind_eq_ok, pure_eq_ok, stop_else_eq_ok] at h
    obtain ⟨-, x, read, y, rest, rfl⟩ := h
    exact ih (r := y) (wf_bytesNow hs read) rest

theorem wf_tableBody {i : Instr} {ea : W64} {n : Nat} {s t : State}
    (hs : s.mem.wf = true) (h : tableBody i ea n s = .ok t) : t.mem.wf = true := by
  unfold tableBody at h
  obtain ⟨_, -, h⟩ := bind_eq_ok.mp h
  obtain ⟨x, ranged, h⟩ := bind_eq_ok.mp h
  have hx := wf_tableRange hs ranged
  dsimp only at h
  split at h
  · obtain ⟨y, -, h⟩ := bind_eq_ok.mp h
    split at h
    · cases h
    · cases h
      rw [setMe_mem]
      exact hx
  · cases h

theorem mem_tableLoad {s : State} {key : Nat} {i : Instr} {bs : List Byte} {t : State}
    (h : tableLoad s key i bs = .ok t) : t.mem = s.mem := by
  unfold tableLoad at h
  grind [setArch_mem]

theorem wf_tableArrive {s : State} {key : Nat} {i : Instr} {ext : Option (List Byte)} {t : State}
    (hs : s.mem.wf = true) (h : tableArrive s key i ext = .ok t) : t.mem.wf = true := by
  unfold tableArrive at h
  dsimp only at h
  split at h
  · rwa [mem_tableLoad h]
  · simp only [bind_eq_ok, stop_else_eq_ok] at h
    obtain ⟨x, ranged, y, read, -, loaded⟩ := h
    rw [mem_tableLoad loaded]
    exact wf_readPlaces (wf_tableRange hs ranged) read

@[simp] theorem sfuAdmit_mem (s : State) (clu : Nat) :
    (sfuAdmit s clu).mem = s.mem := by
  unfold sfuAdmit
  grind [setThread_mem, setCluster_mem]

@[simp] theorem sfuSend_mem (s : State) (key : Nat) (seq : Bool) (i : Instr) (p : W128) :
    (sfuSend s key seq i p).mem = s.mem := by
  unfold sfuSend
  simp

theorem wf_sfuBody {i : Instr} {a : Reg} {s t : State}
    (hs : s.mem.wf = true) (h : sfuBody i a s = .ok t) : t.mem.wf = true := by
  unfold sfuBody at h
  simp only [bind, Except.bind, pure, Except.pure] at h
  grind [parkMe_mem, → wf_readF, sfuSend_mem]

theorem mem_configBody {n : BitVec 3} {f : Stream → Stream} {s t : State}
    (h : configBody n f s = .ok t) : t.mem = s.mem := by
  unfold configBody at h
  simp only [bind, Except.bind, pure, Except.pure] at h
  grind [finish_mem]

theorem wf_execSen {n : BitVec 3} {a d : Reg} {s t : State}
    (hs : s.mem.wf = true) (h : execSen n a d s = .next t) : t.mem.wf = true := by
  refine wf_of_run hs (fun u h => ?_) h
  simp only [bind, Except.bind, pure, Except.pure] at h
  grind [finish_mem, finishG_mem]

theorem wf_execSdis {n : BitVec 3} {s t : State}
    (hs : s.mem.wf = true) (h : execSdis n s = .next t) : t.mem.wf = true := by
  refine wf_of_run hs (fun u h => ?_) h
  simp only [bind, Except.bind, pure, Except.pure] at h
  grind [finish_mem]

theorem wf_execSdrain {n : BitVec 3} {d : Reg} {s t : State}
    (hs : s.mem.wf = true) (h : execSdrain n d s = .next t) : t.mem.wf = true := by
  refine wf_of_run hs (fun u h => ?_) h
  simp only [bind, Except.bind, pure, Except.pure] at h
  grind [finishG_mem]

theorem wf_execSstat {n : BitVec 3} {d : Reg} {s t : State}
    (hs : s.mem.wf = true) (h : execSstat n d s = .next t) : t.mem.wf = true := by
  refine wf_of_run hs (fun u h => ?_) h
  simp only [bind_eq_ok, pure_eq_ok] at h
  grind [finishG_mem]

@[simp] theorem qWake_mem (s : State) (key n : Nat) :
    (qWake s key n).mem = s.mem := by
  unfold qWake
  grind [answer_mem]

theorem mem_qPush {s : State} {key n : Nat} {v : W128} {t : State}
    (h : qPush s key n v = .ok t) : t.mem = s.mem := by
  unfold qPush at h
  grind [setThread_mem, qWake_mem]

theorem mem_qPop {s : State} {key n : Nat} {r : State × W128}
    (h : qPop s key n = .ok r) : r.1.mem = s.mem := by
  unfold qPop at h
  grind [setThread_mem, qWake_mem]

theorem wf_execQwg {q : BitVec 5} {b a : Reg} {s t : State}
    (hs : s.mem.wf = true) (h : execQwg q b a s = .next t) : t.mem.wf = true := by
  refine wf_of_run hs (fun u h => ?_) h
  simp only [bind_eq_ok, pure_eq_ok] at h
  grind [finish_mem, → mem_qPush]

theorem wf_qwfBody {s : State} {key : Nat} {q : BitVec 5} {a : Reg} {t : State}
    (hs : s.mem.wf = true) (h : qwfBody s key q a = .ok t) : t.mem.wf = true := by
  unfold qwfBody at h
  simp only [bind, Except.bind, pure, Except.pure] at h
  grind [stepStreams_mem, → wf_readF, → mem_qPush]

theorem wf_qrfBody {s : State} {key : Nat} {q : BitVec 5} {d : Reg} {t : State}
    (hs : s.mem.wf = true) (h : qrfBody s key q d = .ok t) : t.mem.wf = true := by
  unfold qrfBody at h
  simp only [bind, Except.bind] at h
  grind [→ wf_writeF, → mem_qPop]

theorem wf_execQwf {q : BitVec 5} {a : Reg} {s t : State}
    (hs : s.mem.wf = true) (h : execQwf q a s = .next t) : t.mem.wf = true := by
  refine wf_of_run hs (fun u h => ?_) h
  simp only [bind_eq_ok, pure_eq_ok] at h
  grind [finish_mem, → wf_qwfBody]

theorem wf_execQrg {q : BitVec 5} {d : Reg} {s t : State}
    (hs : s.mem.wf = true) (h : execQrg q d s = .next t) : t.mem.wf = true := by
  refine wf_of_run hs (fun u h => ?_) h
  simp only [bind_eq_ok, pure_eq_ok] at h
  grind [→ mem_qPop, finishG_mem]

theorem wf_execQrf {q : BitVec 5} {d : Reg} {s t : State}
    (hs : s.mem.wf = true) (h : execQrf q d s = .next t) : t.mem.wf = true := by
  refine wf_of_run hs (fun u h => ?_) h
  simp only [bind_eq_ok, pure_eq_ok] at h
  grind [finish_mem, → wf_qrfBody]

theorem wf_execQcnt {q : BitVec 5} {d : Reg} {s t : State}
    (hs : s.mem.wf = true) (h : execQcnt q d s = .next t) : t.mem.wf = true := by
  refine wf_of_run hs (fun u h => ?_) h
  cases h
  exact hs

@[simp] theorem reserveEntries_mem (s : State) (len : Nat) :
    (reserveEntries s len).mem = s.mem := by
  unfold reserveEntries
  split <;> simp

theorem wf_execSeq {a : Reg} {n : BitVec 5} {s t : State}
    (hs : s.mem.wf = true) (h : execSeq a n s = .next t) : t.mem.wf = true := by
  refine wf_of_run hs (fun u h => ?_) h
  simp only [bind, Except.bind, pure, Except.pure] at h
  grind [setMe_mem, → wf_fetchWords, reserveEntries_mem]

@[simp] theorem setRun_mem (s : State) (key : Nat) (r : Option Run) :
    (setRun s key r).mem = s.mem := rfl

@[simp] theorem settleRun_mem (s : State) (key : Nat) (r : Run) :
    (settleRun s key r).mem = s.mem := by
  unfold settleRun
  split <;> simp

@[simp] theorem runNext_mem (s : State) (key : Nat) (r : Run) :
    (runNext s key r).mem = s.mem := by
  unfold runNext
  simp

@[simp] theorem withdrawRun_mem (s : State) (key : Nat) :
    (withdrawRun s key).mem = s.mem := rfl

@[simp] theorem runTrap_mem (s : State) (key : Nat) (r : Run) (cause : Byte) (eval : W64) (wkind : Byte) :
    (runTrap s key r cause eval wkind).mem = s.mem := by
  unfold runTrap
  grind [setThread_mem, takeTrap_mem, trapOut_mem, setRun_mem, withdrawRun_mem]

theorem wf_runStop {s : State} (key : Nat) (r : Run) (e : Stop)
    (hs : s.mem.wf = true) : (runStop s key r e).mem.wf = true := by
  unfold runStop
  grind [wf_killThread, joinRecord_mem, askAts_mem, setRun_mem, runTrap_mem]

theorem wf_entryRun {s : State} {key : Nat} {r : Run} {t : State}
    (hs : s.mem.wf = true) (h : entryRun s key r = .ok t) : t.mem.wf = true := by
  unfold entryRun at h
  simp only [bind, Except.bind, pure, Except.pure] at h
  repeat' split at h
  all_goals grind [setRun_mem, → wf_readF, → wf_qwfBody, → wf_qrfBody, sfuSend_mem, → wf_fApply, noteSub_mem]

theorem wf_execSeqEntryIssue {core slot : Nat} {s t : State}
    (hs : s.mem.wf = true) (h : execSeqEntryIssue core slot s = .next t) : t.mem.wf = true := by
  unfold execSeqEntryIssue at h
  grind [setCore_mem, → wf_entryRun, wf_runStop]

theorem mem_execSeqEntryComplete {core slot : Nat} {s t : State}
    (h : execSeqEntryComplete core slot s = .next t) : t.mem = s.mem := by
  unfold execSeqEntryComplete at h
  grind [settleRun_mem]

theorem wf_execStreamPrefetch {core slot stream : Nat} {ext : ExtReply} {s t : State}
    (hs : s.mem.wf = true) (h : execStreamPrefetch core slot stream ext s = .next t) : t.mem.wf = true := by
  unfold execStreamPrefetch at h
  grind [joinRecord_mem, → wf_packFetch, keepPack_mem]

theorem mem_execSfuAccept {clu : Nat} {s t : State}
    (h : execSfuAccept clu s = .next t) : t.mem = s.mem := by
  unfold execSfuAccept at h
  grind [setCluster_mem, sfuAdmit_mem]

theorem wf_sfuServe {s : State} {clu : Nat} {r : SfuRequest} {t : State}
    (hs : s.mem.wf = true) (h : sfuServe s clu r = some t) : t.mem.wf = true := by
  unfold sfuServe at h
  grind [setThread_mem, setCluster_mem, answer_mem, wf_writeF, stepStreams_mem, wf_runStop, runNext_mem]

theorem wf_execSfuResult {clu : Nat} {s t : State}
    (hs : s.mem.wf = true) (h : execSfuResult clu s = .next t) : t.mem.wf = true := by
  unfold execSfuResult at h
  rw [← Host.Outcome.next.inj h]
  generalize List.filter _ _ = due
  cases served : due.findSome? (sfuServe s clu) with
  | none => exact hs
  | some u =>
    obtain ⟨r, -, found⟩ := List.exists_of_findSome?_eq_some served
    exact wf_sfuServe hs found

theorem mem_execNormaliserService {clu : Nat} {s t : State}
    (h : execNormaliserService clu s = .next t) : t.mem = s.mem := by
  unfold execNormaliserService at h
  grind [setThread_mem, setCluster_mem]

/-! ## Loads -/

theorem wf_writeFs {s t : State} {key : Nat} {l : List (Reg × W128)} (hs : s.mem.wf = true)
    (h : writeFs s key l = .ok t) : t.mem.wf = true := by
  induction l generalizing s with
  | nil => cases h; exact hs
  | cons x l ih =>
    simp only [writeFs, bind_eq_ok] at h
    obtain ⟨u, written, rest⟩ := h
    exact ih (wf_writeF hs written) rest

theorem wf_loadBody {i : Instr} {f : LoadForm} {s t : State}
    (hs : s.mem.wf = true) (h : loadBody i f s = .ok t) : t.mem.wf = true := by
  unfold loadBody at h
  simp only [bind_eq_ok, pure_eq_ok] at h
  grind [finish_mem, → wf_loadCheck, → wf_writeFs]

theorem wf_execFlq {im : BitVec 14} {a d : Reg} {s t : State}
    (hs : s.mem.wf = true) (h : execFlq im a d s = .next t) : t.mem.wf = true := by
  refine wf_of_run hs (fun u h => ?_) h
  simp only [bind_eq_ok] at h
  grind [→ wf_loadBody]

@[simp] theorem ldcFill_mem (s : State) (core part dva pa : Nat) :
    (ldcFill s core part dva pa).1.mem = s.mem := by
  unfold ldcFill
  dsimp only
  split <;> simp

theorem wf_execLdc {im : BitVec 14} {a d : Reg} {s t : State}
    (hs : s.mem.wf = true) (h : execLdc im a d s = .next t) : t.mem.wf = true := by
  refine wf_of_run hs (fun u h => ?_) h
  simp only [error_bind, bind_eq_ok, stop_else_eq_ok] at h
  simp only [bind, Except.bind, pure, Except.pure] at h
  grind [→ wf_translate, ldcFill_mem, finishG_mem]

theorem wf_ldaPlace {s : State} {key : Nat} {f : LdaForm} {r : State × W64 × Place}
    (hs : s.mem.wf = true) (h : ldaPlace s key f = .ok r) : r.1.mem.wf = true := by
  unfold ldaPlace at h
  simp only [bind, Except.bind, pure, Except.pure] at h
  grind [→ wf_resolve]

theorem wf_ldaHome {s : State} {key : Nat} {f : LdaForm} {p : Place} {r : State × List Byte}
    (hs : s.mem.wf = true) (h : ldaHome s key f p = .ok r) : r.1.mem.wf = true := by
  unfold ldaHome at h
  grind [wf_atGlobal]

theorem wf_ldaBody {i : Instr} {f : LdaForm} {s t : State}
    (hs : s.mem.wf = true) (h : ldaBody i f s = .ok t) : t.mem.wf = true := by
  unfold ldaBody at h
  simp only [bind, Except.bind, pure, Except.pure] at h
  grind [l1Drop_mem, acquireAt_mem, finish_mem, → wf_ldaPlace, → wf_ldaHome, → wf_loadAt]

/-! ## Atomics -/

theorem wf_atomPlace {s : State} {key : Nat} {x : Atomic} {r : State × W64 × Place}
    (hs : s.mem.wf = true) (h : atomPlace s key x = .ok r) : r.1.mem.wf = true := by
  unfold atomPlace at h
  simp only [bind, Except.bind, pure, Except.pure] at h
  repeat' split at h
  all_goals grind [→ wf_resolve]

theorem wf_atomPerform {s : State} {key : Nat} {x : Atomic} {p : Place} {r : State × Nat}
    (hs : s.mem.wf = true) (h : atomPerform s key x p = .ok r) : r.1.mem.wf = true := by
  unfold atomPerform at h
  grind [wf_atPlace, wf_recordRelease]

@[simp] theorem releaseCount_mem (s : State) (key : Nat) (rel : Bool) (scope : Nat) (p : Place) :
    (releaseCount s key rel scope p).1.mem = s.mem := by
  unfold releaseCount
  grind [closeEpoch_mem]

theorem wf_atomBody {i : Instr} {x : Atomic} {s t : State}
    (hs : s.mem.wf = true) (h : atomBody i x s = .ok t) : t.mem.wf = true := by
  unfold atomBody at h
  simp only [bind, Except.bind, pure, Except.pure] at h
  grind [acquireAt_mem, wf_runBody, finish_mem, → mem_storeAt, → wf_atomPlace, → wf_atomPerform, wf_releaseMoves, releaseCount_mem]

/-! ## What follows the end of an instruction -/

@[simp] theorem forwardWord_mem (s : State) (key : Nat) (i : Instr) (pc next : W64) :
    (forwardWord s key i pc next).mem = s.mem := by
  unfold forwardWord
  split <;> simp

@[simp] theorem forwardTrap_mem (s : State) (key : Nat) (i : Instr) :
    (forwardTrap s key i).mem = s.mem := by
  unfold forwardTrap
  simp

@[simp] theorem meetPoint_mem (s : State) (key : Nat) (pc : W64) :
    (meetPoint s key pc).mem = s.mem := by
  unfold meetPoint
  grind [setThread_mem, repauseIf6_mem]

@[simp] theorem twinWake_mem (s : State) (key : Nat) :
    (twinWake s key).mem = s.mem := by
  unfold twinWake
  grind [answer_mem]

@[simp] theorem twinMeet_mem (s : State) (key : Nat) :
    (twinMeet s key).mem = s.mem := by
  unfold twinMeet
  split <;> simp

@[simp] theorem twinDone_mem (s : State) (key : Nat) (i : Instr) (pc : W64) :
    (twinDone s key i pc).mem = s.mem := by
  unfold twinDone
  grind [setThread_mem, twinWake_mem]

@[simp] theorem afterComplete_mem (s : State) (key : Nat) (i : Instr) (pc : W64) :
    (afterComplete s key i pc).mem = s.mem := by
  unfold afterComplete
  simp

theorem wf_replyF {s t : State} {key : Nat} {l : List (Reg × W128)} (hs : s.mem.wf = true)
    (h : replyF s key l = .ok t) : t.mem.wf = true := by
  induction l generalizing s with
  | nil => cases h; exact hs
  | cons x l ih =>
    simp only [replyF, bind_eq_ok] at h
    obtain ⟨u, written, rest⟩ := h
    exact ih (wf_writeF hs written) rest

theorem wf_replyData {s : State} {key : Nat} {w : Wait} {r : Reply} {t : State}
    (hs : s.mem.wf = true) (h : replyData s key w r = .ok t) : t.mem.wf = true := by
  unfold replyData at h
  simp only [stop_else_eq_ok] at h
  obtain ⟨-, h⟩ := h
  have placed := wf_ite (c := (r.data.getD (0, [])).2.isEmpty = true) hs
    (t := { s with mem := spadWrite s.mem (coreOf key) (r.data.getD (0, [])).1 (r.data.getD (0, [])).2 }) (wf_spadWrite _ _ _ hs)
  split at h <;> cases h
  · rw [setThread_mem]; exact placed
  · exact placed

theorem wf_completeReply {s : State} {key : Nat} {w : Wait} {r : Reply} {t : State}
    (hs : s.mem.wf = true) (h : completeReply s key w r = .ok t) : t.mem.wf = true := by
  unfold completeReply at h
  simp only [bind_eq_ok, pure_eq_ok] at h
  grind [setThread_mem, repauseIf6_mem, afterComplete_mem, acquireAt_mem, → wf_replyData, → wf_replyF, stepStreams_mem]

@[simp] theorem backTo_mem (s : State) (key : Nat) (w : Wait) :
    (backTo s key w).mem = s.mem := by
  unfold backTo
  split <;> simp

theorem wf_deliver {s : State} (key : Nat)
    (hs : s.mem.wf = true) : (deliver s key).mem.wf = true := by
  have back (w : Wait) : (backTo s key w).mem.wf = true := by rw [backTo_mem]; exact hs
  have forwarded (w : Wait) (c : Byte) (e : W64) (k : Byte) :
      (trapOut (forwardTrap (backTo s key w) key w.instr) key c e k none).mem.wf = true := by
    rw [trapOut_mem, forwardTrap_mem]; exact back w
  unfold deliver
  dsimp only
  split
  next w _ _ =>
    split
    · exact hs
    next r _ =>
      split
      · exact wf_killThread _ _ (back w)
      · split
        · exact wf_ite hs (forwarded w _ _ _)
        · split
          · rw [repauseIf6_mem, setThread_mem]; exact back w
          · cases completed : completeReply s key w r with
            | ok t => exact wf_completeReply hs completed
            | error e =>
              cases e with
              | trap c e => exact forwarded w _ _ _
              | poison => exact wf_killThread _ _ (back w)
              | page dva k acc e => dsimp only; rw [dropThread_mem, withdraw_mem]; exact back w
              | hold | ats | park | walk => exact hs
  · exact hs

theorem wf_execParkWake {core slot : Nat} {s t : State}
    (hs : s.mem.wf = true) (h : execParkWake core slot s = .next t) : t.mem.wf = true := by
  unfold execParkWake at h
  grind [wf_deliver]

@[simp] theorem withdrawStall_mem (s : State) (key : Nat) :
    (withdrawStall s key).mem = s.mem := by
  unfold withdrawStall
  grind [setRun_mem, withdrawRun_mem]

@[simp] theorem waitExpiry_mem (s : State) (key : Nat) (t : Thread) : (execWaitLimitExpiry.waitExpiry s key t).mem = s.mem := by
  unfold execWaitLimitExpiry.waitExpiry
  split
  · grind [answer_mem, withdraw_mem, trapOut_mem, forwardTrap_mem, withdrawStall_mem, backTo_mem]
  · rfl

theorem mem_execWaitLimitExpiry {core slot : Nat} {s t : State}
    (h : execWaitLimitExpiry core slot s = .next t) : t.mem = s.mem := by
  unfold execWaitLimitExpiry at h
  dsimp only at h
  split at h
  · split at h
    · split at h <;> cases h
      · rw [runTrap_mem]
      · rw [waitExpiry_mem]
    · cases h; rw [waitExpiry_mem]
  · cases h; rw [waitExpiry_mem]

theorem mem_execRemoteAccessTimeout {core slot : Nat} {s t : State}
    (h : execRemoteAccessTimeout core slot s = .next t) : t.mem = s.mem := by
  unfold execRemoteAccessTimeout at h
  grind [answer_mem, forwardTrap_mem, backTo_mem, trapOut_mem]

theorem mem_execFollowerWaitExpiry {core slot : Nat} {s t : State}
    (h : execFollowerWaitExpiry core slot s = .next t) : t.mem = s.mem := by
  unfold execFollowerWaitExpiry at h
  grind [setThread_mem, repauseIf6_mem]

@[simp] theorem settleFollower_mem (s : State) (key : Nat) :
    (settleFollower s key).mem = s.mem := by
  unfold settleFollower
  grind [setThread_mem, repauseIf6_mem]

/-! ## The matrix engine -/

theorem mem_enqueueBody {s : State} {eng : Nat} {kind : EntryKind} {d : Reg} {words : Nat} {t : State}
    (h : enqueueBody s eng kind d words = .ok t) : t.mem = s.mem := by
  unfold enqueueBody at h
  grind [setMe_mem, → mem_enqueueEntry]

theorem mem_mjobBody {ovr : Bool} {park : BitVec 1} {m : BitVec 2} {a : Reg} {p0 p1 p2 p3 : W32} {s t : State}
    (h : mjobBody ovr park m a p0 p1 p2 p3 s = .ok t) : t.mem = s.mem := by
  unfold mjobBody at h
  simp only [bind, Except.bind] at h
  grind [mem_enqueueBody]

theorem wf_execMldb {t : BitVec 4} {c b a : Reg} {n : BitVec 3} {s : State} {t' : State}
    (hs : s.mem.wf = true) (h : execMldb t c b a n s = .next t') : t'.mem.wf = true := by
  refine wf_of_run hs (fun u h => ?_) h
  simp only [bind_eq_ok] at h
  grind [→ mem_enqueueBody]

theorem wf_execMrd {c b a : Reg} {m : BitVec 2} {s t : State}
    (hs : s.mem.wf = true) (h : execMrd c b a m s = .next t) : t.mem.wf = true := by
  refine wf_of_run hs (fun u h => ?_) h
  simp only [bind_eq_ok] at h
  grind [→ mem_enqueueBody]

theorem mem_execMstat {a d : Reg} {s t : State}
    (h : execMstat a d s = .next t) : t.mem = s.mem := by
  unfold execMstat at h
  grind [finishG_mem]

theorem wf_execEwait {a d : Reg} {s t : State}
    (hs : s.mem.wf = true) (h : execEwait a d s = .next t) : t.mem.wf = true := by
  refine wf_of_run hs (fun u h => ?_) h
  simp only [bind, Except.bind, pure, Except.pure] at h
  grind [setMe_mem, trapMe_mem, acquireAt_mem, finish_mem]

theorem wf_execEfence {m : BitVec 5} {s t : State}
    (hs : s.mem.wf = true) (h : execEfence m s = .next t) : t.mem.wf = true := by
  refine wf_of_run hs (fun u h => ?_) h
  simp only [pure, Except.pure] at h
  grind [finish_mem]

theorem wf_execEcancel {a d : Reg} {s t : State}
    (hs : s.mem.wf = true) (h : execEcancel a d s = .next t) : t.mem.wf = true := by
  refine wf_of_run hs (fun u h => ?_) h
  simp only [bind, Except.bind, pure, Except.pure] at h
  grind [setMe_mem, cancelWhere_mem, reapCore_mem, finishG_mem]

@[simp] theorem setHead_mem (s : State) (core eng : Nat) (urgent : Bool) (e : Entry) :
    (setHead s core eng urgent e).mem = s.mem := rfl

theorem wf_execMatrixEntryStart {core : Nat} {urgent : Bool} {s t : State}
    (hs : s.mem.wf = true) (h : execMatrixEntryStart core urgent s = .next t) : t.mem.wf = true := by
  unfold execMatrixEntryStart at h
  grind [setArch_mem, → wf_bytesNow, setHead_mem, endEntry_mem]

theorem wf_execJobStepIssue {core : Nat} {urgent : Bool} {s t : State}
    (hs : s.mem.wf = true) (h : execJobStepIssue core urgent s = .next t) : t.mem.wf = true := by
  unfold execJobStepIssue at h
  grind [→ wf_bytesNow, setHead_mem]

@[simp] theorem settleJob_mem (s : State) (core : Nat) (urgent : Bool) :
    (settleJob s core urgent).mem = s.mem := by
  unfold settleJob
  grind [reapCore_mem, endEntry_mem]

theorem mem_execJobPromotion {core : Nat} {urgent : Bool} {s t : State}
    (h : execJobPromotion core urgent s = .next t) : t.mem = s.mem := by
  unfold execJobPromotion at h
  grind [setArch_mem, setHead_mem, settleJob_mem]

theorem mem_execEnginePause {core : Nat} {copy urgent : Bool} {s t : State}
    (h : execEnginePause core copy urgent s = .next t) : t.mem = s.mem := by
  unfold execEnginePause at h
  grind [setHead_mem]

theorem mem_execEngineResume {core : Nat} {copy urgent : Bool} {s t : State}
    (h : execEngineResume core copy urgent s = .next t) : t.mem = s.mem := by
  unfold execEngineResume at h
  grind [setHead_mem]

theorem wf_execMldbEnd {core : Nat} {urgent : Bool} {s t : State}
    (hs : s.mem.wf = true) (h : execMldbEnd core urgent s = .next t) : t.mem.wf = true := by
  unfold execMldbEnd at h
  grind [setArch_mem, → wf_bytesNow, endEntry_mem]

theorem mem_execMzeroEnd {core : Nat} {urgent : Bool} {s t : State}
    (h : execMzeroEnd core urgent s = .next t) : t.mem = s.mem := by
  unfold execMzeroEnd at h
  grind [setArch_mem, endEntry_mem]

theorem wf_execMrdEnd {core : Nat} {urgent : Bool} {s t : State}
    (hs : s.mem.wf = true) (h : execMrdEnd core urgent s = .next t) : t.mem.wf = true := by
  unfold execMrdEnd at h
  split at h
  · cases h; exact hs
  · split at h
    next b _ _ _ =>
      generalize (if b then 2 else 4) = w at h
      dsimp only at h
      split at h
      · cases h; exact hs
      · split at h
        · rw [← Host.Outcome.next.inj h, endEntry_mem]; exact hs
        · rw [← Host.Outcome.next.inj h, endEntry_mem, setArch_mem]
          exact upTo_keeps (fun m : Memory => m.wf = true) _ _ (fun m r hm => wf_spadWrite _ _ _ hm) _ hs
    · cases h; exact hs

/-! ## Thread control -/

theorem wf_execTrap {a : Reg} {s t : State}
    (hs : s.mem.wf = true) (h : execTrap a s = .next t) : t.mem.wf = true := by
  refine wf_of_run hs (fun u h => ?_) h
  simp only [] at h
  grind [setArch_mem, trapMe_mem]

@[simp] theorem deliverDeferred_mem (s : State) (key : Nat) :
    (deliverDeferred s key).mem = s.mem := rfl

theorem wf_resumeTrapped {s : State} (core : Nat) (r : TrapRecord) (pc : W64)
    (hs : s.mem.wf = true) : (resumeTrapped s core r pc).mem.wf = true := by
  unfold resumeTrapped
  grind [acquireAt_mem, wf_deliver, lateTrap_mem, returnTo_mem, deliverDeferred_mem]

theorem wf_execEret {s t : State}
    (hs : s.mem.wf = true) (h : execEret s = .next t) : t.mem.wf = true := by
  refine wf_privileged hs (fun u h => wf_of_run hs (fun v h => ?_) h) h
  split at h
  · cases h
  · obtain ⟨-, h⟩ := stop_else_eq_ok.mp h
    cases h
    rw [endInvocation_mem]
    exact wf_resumeTrapped _ _ _ hs

theorem wf_execKill {s t : State}
    (hs : s.mem.wf = true) (h : execKill s = .next t) : t.mem.wf = true := by
  refine wf_privileged hs (fun u h => wf_of_run hs (fun v h => ?_) h) h
  split at h <;> cases h
  rw [endInvocation_mem]
  exact wf_killThread _ _ hs

theorem mem_execYield {s t : State}
    (h : execYield s = .next t) : t.mem = s.mem := by
  unfold execYield at h
  grind [finish_mem]

theorem wf_execSleep {a d : Reg} {s t : State}
    (hs : s.mem.wf = true) (h : execSleep a d s = .next t) : t.mem.wf = true := by
  refine wf_of_run hs (fun u h => ?_) h
  simp only [] at h
  grind [setMe_mem, acquireAt_mem, parkMe_mem, finish_mem]

theorem mem_execSleepTimeout {core slot : Nat} {s t : State}
    (h : execSleepTimeout core slot s = .next t) : t.mem = s.mem := by
  unfold execSleepTimeout at h
  grind [answer_mem]

@[simp] theorem wakeThread_mem (s : State) (key sc : Nat) :
    (wakeThread s key sc).mem = s.mem := by
  unfold wakeThread
  grind [setThread_mem, answer_mem]

theorem wf_execWake {a d : Reg} {s t : State}
    (hs : s.mem.wf = true) (h : execWake a d s = .next t) : t.mem.wf = true := by
  refine wf_of_run hs (fun u h => ?_) h
  simp only [pure, Except.pure] at h
  grind [finish_mem, finishG_mem, wf_releaseMoves, wakeThread_mem]

theorem wf_execKexit {s t : State}
    (hs : s.mem.wf = true) (h : execKexit s = .next t) : t.mem.wf = true := by
  refine wf_of_run hs (fun u h => ?_) h
  simp only [stop_else_eq_ok] at h
  grind [setThread_mem, forwardWord_mem, wf_releaseLocks, wf_exitThread]

theorem mem_execTwin {d : Reg} {s t : State}
    (h : execTwin d s = .next t) : t.mem = s.mem := by
  unfold execTwin at h
  grind [setThread_mem, setMe_mem, finishG_mem]

theorem wf_execUntwin {d : Reg} {s t : State}
    (hs : s.mem.wf = true) (h : execUntwin d s = .next t) : t.mem.wf = true := by
  refine wf_of_run hs (fun u h => ?_) h
  simp only [] at h
  grind [setThread_mem, finish_mem, finishG_mem]

theorem mem_followBody {i : Instr} {d : Reg} {s t : State}
    (h : followBody i d s = .ok t) : t.mem = s.mem := by
  unfold followBody at h
  grind [finishG_mem]

theorem wf_execFollow {d : Reg} {s t : State}
    (hs : s.mem.wf = true) (h : execFollow d s = .next t) : t.mem.wf = true := by
  refine wf_of_run hs (fun u h => ?_) h
  grind [finishG_mem, → mem_followBody]

theorem wf_execJoin {d : Reg} {s t : State}
    (hs : s.mem.wf = true) (h : execJoin d s = .next t) : t.mem.wf = true := by
  refine wf_of_run hs (fun u h => ?_) h
  grind [finishG_mem, → mem_followBody]

theorem mem_execDetach {d : Reg} {s t : State}
    (h : execDetach d s = .next t) : t.mem = s.mem := by
  unfold execDetach at h
  grind [finish_mem, finishG_mem]

theorem mem_execChk {d : Reg} {s t : State}
    (h : execChk d s = .next t) : t.mem = s.mem := by
  unfold execChk at h
  grind [finish_mem]

theorem wf_nestPlace {s : State} {key : Nat} {dsc : W64} {r : State × Nat × Nat × W64}
    (hs : s.mem.wf = true) (h : nestPlace s key dsc = .ok r) : r.1.mem.wf = true := by
  unfold nestPlace at h
  simp only [bind, Except.bind, pure, Except.pure] at h
  grind [→ wf_translate]

theorem wf_nestRead {s : State} {key dva pa : Nat} {leaf : W64} {acq : Bool} {r : State × List Byte}
    (hs : s.mem.wf = true) (h : nestRead s key dva pa leaf acq = .ok r) : r.1.mem.wf = true := by
  unfold nestRead at h
  grind [wf_atHome]

theorem wf_nestPerform {s : State} {key : Nat} {dsc : W64} {r : State × W64}
    (hs : s.mem.wf = true) (h : nestPerform s key dsc = .ok r) : r.1.mem.wf = true := by
  unfold nestPerform at h
  simp only [error_bind, bind_eq_ok, stop_else_eq_ok] at h
  obtain ⟨x, placed, -, y, read, h⟩ := h
  have hy := wf_nestRead (wf_nestPlace hs placed) read
  split at h <;> cases h
  · exact hy
  · exact wf_ramWrite _ _ (wf_drainCluster _ hy)

theorem wf_execNest {a d : Reg} {s t : State}
    (hs : s.mem.wf = true) (h : execNest a d s = .next t) : t.mem.wf = true := by
  refine wf_of_run hs (fun u h => ?_) h
  simp only [bind, Except.bind, pure, Except.pure] at h
  grind [finish_mem, → wf_nestPlace, → wf_nestPerform]

theorem wf_claimPerform {s : State} {key : Nat} {dsc : W64} {off : BitVec 14} {r : State × Reply}
    (hs : s.mem.wf = true) (h : claimPerform s key dsc off = .ok r) : r.1.mem.wf = true := by
  unfold claimPerform at h
  simp only [bind_eq_ok] at h
  obtain ⟨x, placed, y, read, h⟩ := h
  have hy := wf_nestRead (wf_nestPlace hs placed) read
  split at h
  · cases h; exact hy
  · simp only [bind_eq_ok, pure_eq_ok] at h
    obtain ⟨-, -, rfl⟩ := h
    exact wf_ramWrite _ _ hy

theorem wf_execIter {f : BitVec 14} {a : Reg} {s t : State}
    (hs : s.mem.wf = true) (h : execIter f a s = .next t) : t.mem.wf = true := by
  refine wf_of_run hs (fun u h => ?_) h
  simp only [bind, Except.bind, pure, Except.pure] at h
  grind [setMe_mem, → wf_nestPlace]

theorem wf_execSplk {b a d : Reg} {s t : State}
    (hs : s.mem.wf = true) (h : execSplk b a d s = .next t) : t.mem.wf = true := by
  refine wf_of_run hs (fun u h => ?_) h
  simp only [bind, Except.bind, pure, Except.pure] at h
  grind [setArch_mem, acquireAt_mem, finishG_mem]

theorem wf_execSpul {a d : Reg} {s t : State}
    (hs : s.mem.wf = true) (h : execSpul a d s = .next t) : t.mem.wf = true := by
  refine wf_of_run hs (fun u h => ?_) h
  simp only [bind, Except.bind, pure, Except.pure] at h
  grind [wf_releaseLocks, finishG_mem]

theorem wf_execInstructionComplete {core slot : Nat} {s t : State}
    (hs : s.mem.wf = true) (h : execInstructionComplete core slot s = .next t) : t.mem.wf = true := by
  unfold execInstructionComplete at h
  dsimp only at h
  split at h
  · cases h; exact hs
  · split at h
    · cases h; exact hs
    · split at h
      next w _ _ =>
        split at h
        · split at h <;> cases h
          · rw [repauseIf6_mem, afterComplete_mem, setThread_mem]; exact hs
          · exact hs
        · cases arrived : tableArrive (s.setThread (keyOf core slot) { s.thread (keyOf core slot) with wait := none })
            (keyOf core slot) w.instr none with
          | ok s1 =>
            rw [arrived] at h
            cases h
            rw [repauseIf6_mem, afterComplete_mem, setThread_mem]
            exact wf_tableArrive (by rw [setThread_mem]; exact hs) arrived
          | error e =>
            rw [arrived] at h
            cases e with
            | hold => cases h; exact hs
            | trap =>
              cases h
              refine wf_runBody ?_ (fun _ stopped => by cases stopped)
              rw [forwardTrap_mem]
              exact hs
            | poison | page | ats | park | walk =>
              cases h
              exact wf_runBody hs (fun _ stopped => by cases stopped)
      · cases h
        rw [repauseIf6_mem, setThread_mem]; exact hs

theorem mem_execHandlerStart {core : Nat} {s t : State}
    (h : execHandlerStart core s = .next t) : t.mem = s.mem := by
  unfold execHandlerStart at h
  grind [startHandler_mem]

theorem wf_execScrubComplete {core slot : Nat} {s t : State}
    (hs : s.mem.wf = true) (h : execScrubComplete core slot s = .next t) : t.mem.wf = true := by
  unfold execScrubComplete at h
  grind [repauseIf6_mem, wf_scrubEnd]

theorem wf_execLockTimeout {core lo : Nat} {s t : State}
    (hs : s.mem.wf = true) (h : execLockTimeout core lo s = .next t) : t.mem.wf = true := by
  unfold execLockTimeout at h
  grind [setThread_mem, setArch_mem, pushThreadEvent_mem, wf_releaseLocks]

/-! ## Events of memory -/

theorem wf_answerWith {s : State} {key : Nat} {r : Except Stop (State × Reply)} (hs : s.mem.wf = true)
    (hr : ∀ x, r = .ok x → x.1.mem.wf = true) : (answerWith s key r).mem.wf = true := by
  cases r with
  | ok x => exact (congrArg Memory.wf (answer_mem _ _ _)).trans (hr x rfl)
  | error e =>
    cases e with
    | trap | poison | page | ats | park => exact (congrArg Memory.wf (answer_mem _ _ _)).trans hs
    | hold | walk => exact hs

theorem wf_lateAtomic {s : State} {key : Nat} {x : Atomic} {r : State × Reply}
    (hs : s.mem.wf = true) (h : lateAtomic s key x = .ok r) : r.1.mem.wf = true := by
  unfold lateAtomic at h
  simp only [bind, Except.bind, pure, Except.pure] at h
  grind [→ wf_atomPlace, → wf_atomPerform]

theorem wf_lateLda {s : State} {key : Nat} {f : LdaForm} {taken : Mem} {r : State × Reply}
    (hs : s.mem.wf = true) (h : lateLda s key f taken = .ok r) : r.1.mem.wf = true := by
  unfold lateLda at h
  simp only [bind, Except.bind, pure, Except.pure] at h
  grind [l1Drop_mem, wf_loadNow, → wf_ldaPlace, → wf_ldaHome]

theorem wf_execHomeAtomic {core slot : Nat} {s t : State}
    (hs : s.mem.wf = true) (h : execHomeAtomic core slot s = .next t) : t.mem.wf = true := by
  unfold execHomeAtomic at h
  dsimp only at h
  split at h
  · cases h; exact hs
  · split at h
    · cases h; exact hs
    · split at h
      · cases h
        exact wf_answerWith hs (fun _ => wf_claimPerform hs)
      · cases h
        refine wf_answerWith hs (fun x hx => ?_)
        obtain ⟨y, performed, rfl⟩ := map_eq_ok.mp hx
        exact wf_nestPerform hs performed
      · split at h <;> cases h
        · exact wf_answerWith hs (fun _ => wf_lateAtomic hs)
        · exact wf_answerWith hs (fun _ => wf_lateLda hs)
        · exact hs

theorem wf_tileLoad {s : State} {key : Nat} {i : Instr} {f : LoadForm} {taken : Mem} {r : State × Reply}
    (hs : s.mem.wf = true) (h : tileLoad s key i f taken = .ok r) : r.1.mem.wf = true := by
  unfold tileLoad at h
  simp only [bind, Except.bind, pure, Except.pure] at h
  repeat' split at h
  all_goals grind [→ wf_resolve, wf_loadNow]

theorem wf_execTileAccessMessage {core slot : Nat} {s t : State}
    (hs : s.mem.wf = true) (h : execTileAccessMessage core slot s = .next t) : t.mem.wf = true := by
  unfold execTileAccessMessage at h
  dsimp only at h
  split at h
  · cases h; exact hs
  · split at h
    · cases h; exact hs
    · split at h <;> cases h
      · exact wf_answerWith hs (fun _ => wf_tileLoad hs)
      · exact wf_answerWith hs (fun _ => wf_lateAtomic hs)
      · exact wf_answerWith hs (fun _ => wf_lateLda hs)
      · exact hs

theorem wf_execWritebackMerge {clu index : Nat} {s t : State}
    (hs : s.mem.wf = true) (h : execWritebackMerge clu index s = .next t) : t.mem.wf = true := by
  unfold execWritebackMerge at h
  dsimp only at h
  split at h
  · cases h; exact hs
  · split at h <;> cases h
    · exact hs
    · exact wf_mergeCopy _ hs

theorem mem_execStagingEviction {clu key : Nat} {s t : State}
    (h : execStagingEviction clu key s = .next t) : t.mem = s.mem := by
  unfold execStagingEviction at h
  grind [setCluster_mem]

theorem mem_execL2effSample {die : BitVec 2} {mean : BitVec 16} {slices : List (Nat × BitVec 16)} {s t : State}
    (h : execL2effSample die mean slices s = .next t) : t.mem = s.mem := by
  unfold execL2effSample at h
  split at h
  · cases h; rfl
  · dsimp only at h
    split at h
    · cases h; rfl
    · rw [← Host.Outcome.next.inj h, upTo_mem _ _ (fun _ _ => setCore_mem _ _ _)]
      refine foldl_mem _ (fun s x => ?_) _ _
      split
      · exact setCore_mem _ _ _
      · rfl

/-! ## Reeds, tagged words, bobbins and inboxes -/

@[simp] theorem reedPark_mem (i : Instr) (s : State) (x : Group) (g : Nat) (sent : Bool) (aux : Nat) :
    (reedPark i s x g sent aux).mem = s.mem := by
  unfold reedPark
  grind [foldl_mem, setMe_mem, send_mem, parkOn_mem]

theorem wf_reedRelease {s : State} {x : Group} {t : State}
    (hs : s.mem.wf = true) (h : reedRelease s x = .ok t) : t.mem.wf = true := by
  unfold reedRelease at h
  grind [wf_releaseMoves]

theorem wf_execReedArr {a d : Reg} {s t : State}
    (hs : s.mem.wf = true) (h : execReedArr a d s = .next t) : t.mem.wf = true := by
  refine wf_of_run hs (fun u h => ?_) h
  simp only [bind, Except.bind, pure, Except.pure] at h
  grind [wf_reedArrive, finishG_mem, → wf_reedRelease, reedPark_mem]

@[simp] theorem reedDone_mem (s : State) (x : Group) (d : Reg) (r : W64 × Bool) :
    (reedDone s x d r).mem = s.mem := by
  unfold reedDone
  split <;> simp

theorem wf_execReedWait {b a d : Reg} {s t : State}
    (hs : s.mem.wf = true) (h : execReedWait b a d s = .next t) : t.mem.wf = true := by
  refine wf_of_run hs (fun u h => ?_) h
  simp only [bind, Except.bind, pure, Except.pure] at h
  grind [reedPark_mem, reedDone_mem]

theorem wf_execReedSync {a d : Reg} {s t : State}
    (hs : s.mem.wf = true) (h : execReedSync a d s = .next t) : t.mem.wf = true := by
  refine wf_of_run hs (fun u h => ?_) h
  simp only [bind_eq_ok] at h
  simp only [bind, Except.bind, pure, Except.pure] at h
  grind [wf_reedArrive, finishG_mem, → wf_reedRelease, reedPark_mem, reedDone_mem]

theorem wf_execReedQry {w : BitVec 2} {a d : Reg} {s t : State}
    (hs : s.mem.wf = true) (h : execReedQry w a d s = .next t) : t.mem.wf = true := by
  refine wf_of_run hs (fun u h => ?_) h
  simp only [bind_eq_ok, pure_eq_ok] at h
  grind [finishG_mem]

theorem wf_reedMessage {s : State} (key : Nat) (w : Wait)
    (hs : s.mem.wf = true) : (reedMessage s key w).mem.wf = true := by
  unfold reedMessage
  grind [setThread_mem, answer_mem, wf_reedArrive]

theorem wf_execReedArrivalMessage {src : ReedSource} {s t : State}
    (hs : s.mem.wf = true) (h : execReedArrivalMessage src s = .next t) : t.mem.wf = true := by
  unfold execReedArrivalMessage at h
  grind [wf_peerReed, remoteEntry_mem, wf_reedMessage]

@[simp] theorem tagPark_mem (i : Instr) (s : State) (ea : W64) (sent : Bool) (retry : Nat) :
    (tagPark i s ea sent retry).mem = s.mem := by
  unfold tagPark
  simp

theorem wf_tagBody {i : Instr} {s t : State}
    (hs : s.mem.wf = true) (h : tagBody i s = .ok t) : t.mem.wf = true := by
  unfold tagBody at h
  obtain ⟨⟨c, o⟩, -, h⟩ := bind_eq_ok.mp h
  simp only [error_bind, stop_else_eq_ok] at h
  obtain ⟨-, -, h⟩ := h
  split at h
  on_goal 1 =>
    rename_i sc _
    obtain ⟨-, h⟩ := stop_else_eq_ok.mp h
    obtain ⟨s1, same, h⟩ := bind_eq_ok.mp h
    cases same
    have h1 := wf_releaseMoves s.myCore sc false hs
  on_goal 2 =>
    obtain ⟨s1, same, h⟩ := bind_eq_ok.mp h
    cases same
    have h1 := hs
  all_goals
    split at h
    · cases h; rw [tagPark_mem]; exact h1
    · obtain ⟨_, -, h⟩ := bind_eq_ok.mp h
      split at h
      next tried =>
        have h2 := wf_tagTry h1 tried
        split at h
        · cases h
        · cases h
          split
          · rw [acquireAt_mem, finish_mem]; exact wf_serveTag _ _ _ h2
          · rw [finish_mem]; exact wf_serveTag _ _ _ h2
      · split at h <;> cases h
        · rw [setCore_mem, tagPark_mem]; exact h1
        · rw [tagPark_mem]; exact h1

theorem wf_tagRequest {s : State} (key : Nat) (w : Wait)
    (hs : s.mem.wf = true) : (tagRequest s key w).mem.wf = true := by
  unfold tagRequest
  grind [setThread_mem, answer_mem, wf_tagArrive]

theorem wf_execTagMessage {core slot : Nat} {s t : State}
    (hs : s.mem.wf = true) (h : execTagMessage core slot s = .next t) : t.mem.wf = true := by
  unfold execTagMessage at h
  grind [wf_tagRequest]

theorem wf_execTagRequestRetry {core slot : Nat} {s t : State}
    (hs : s.mem.wf = true) (h : execTagRequestRetry core slot s = .next t) : t.mem.wf = true := by
  unfold execTagRequestRetry at h
  grind [wf_tagRequest]

theorem wf_execBbinit {b a d : Reg} {s t : State}
    (hs : s.mem.wf = true) (h : execBbinit b a d s = .next t) : t.mem.wf = true := by
  refine wf_of_run hs (fun u h => ?_) h
  simp only [bind, Except.bind, pure, Except.pure] at h
  grind [setBobbin_mem, finishG_mem]

theorem wf_execBbres {a d : Reg} {s t : State}
    (hs : s.mem.wf = true) (h : execBbres a d s = .next t) : t.mem.wf = true := by
  refine wf_of_run hs (fun u h => ?_) h
  simp only [bind, Except.bind, pure, Except.pure] at h
  grind [setBobbin_mem, acquireAt_mem, parkMe_mem, finishG_mem]

theorem mem_bobGive {b a d : Reg} {old : BobState} {new : BobState × Nat} {s t : State}
    (h : bobGive b a d old new s = .ok t) : t.mem = s.mem := by
  unfold bobGive at h
  simp only [bind, Except.bind, pure, Except.pure] at h
  grind [setBobbin_mem, bobSettle_mem, finishG_mem]

theorem wf_execBbcom {b a d : Reg} {s t : State}
    (hs : s.mem.wf = true) (h : execBbcom b a d s = .next t) : t.mem.wf = true := by
  refine wf_of_run hs (fun u h => ?_) h
  grind [→ mem_bobGive]

theorem wf_execBbrel {b a d : Reg} {s t : State}
    (hs : s.mem.wf = true) (h : execBbrel b a d s = .next t) : t.mem.wf = true := by
  refine wf_of_run hs (fun u h => ?_) h
  grind [→ mem_bobGive]

theorem wf_execBbacq {a d : Reg} {s t : State}
    (hs : s.mem.wf = true) (h : execBbacq a d s = .next t) : t.mem.wf = true := by
  refine wf_of_run hs (fun u h => ?_) h
  simp only [bind, Except.bind, pure, Except.pure] at h
  grind [setBobbin_mem, acquireAt_mem, parkMe_mem, finishG_mem]

theorem wf_execBbqry {a d : Reg} {s t : State}
    (hs : s.mem.wf = true) (h : execBbqry a d s = .next t) : t.mem.wf = true := by
  refine wf_of_run hs (fun u h => ?_) h
  simp only [bind_eq_ok, pure_eq_ok] at h
  grind [finishG_mem]

@[simp] theorem inboxPut_mem (s : State) (key : Nat) (word tid : W64) :
    (inboxPut s key word tid).mem = s.mem := by
  unfold inboxPut
  grind [setThread_mem, answer_mem]

@[simp] theorem inboxArrive_mem (s : State) (part key : Nat) (word tid : W64) :
    (inboxArrive s part key word tid).1.mem = s.mem := by
  unfold inboxArrive
  grind [bufferReply_mem, inboxPut_mem]

theorem mem_postMessage {s : State} {v : W64} {p : Place} {word : W64} {t : State}
    (h : postMessage s v p word = .ok t) : t.mem = s.mem := by
  unfold postMessage at h
  grind [mem_storeAt]

theorem wf_execMsnd {b a d : Reg} {s t : State}
    (hs : s.mem.wf = true) (h : execMsnd b a d s = .next t) : t.mem.wf = true := by
  refine wf_of_run hs (fun u h => ?_) h
  simp only [bind, Except.bind, pure, Except.pure] at h
  grind [send_mem, parkOn_mem, parkMe_mem, finish_mem, inboxArrive_mem, finishG_mem, wf_releaseMoves, → mem_postMessage]

theorem mem_execInboxDelivery {core slot : Nat} {src : InboxSource} {s t : State}
    (h : execInboxDelivery core slot src s = .next t) : t.mem = s.mem := by
  unfold execInboxDelivery at h
  dsimp only at h
  split at h
  · split at h <;> cases h
    · rw [send_mem, inboxArrive_mem]
    · rw [send_mem, countPerformed_mem, inboxArrive_mem]
  · split at h
    · cases h; rfl
    · split at h
      · split at h
        · split at h <;> cases h
          · rw [answer_mem, inboxArrive_mem]
          · rfl
        · cases h; rfl
      · cases h; rfl

theorem wf_signalRtok {s : State} (part : Nat) (rtok : BitVec 16)
    (hs : s.mem.wf = true) : (signalRtok s part rtok).mem.wf = true := by
  unfold signalRtok
  grind [wf_settle, tokenSignal_mem]

theorem wf_serveHeld {s : State} (key : Nat)
    (hs : s.mem.wf = true) : (serveHeld s key).mem.wf = true := by
  unfold serveHeld
  grind [inboxPut_mem, wf_signalRtok]

theorem wf_execMrcv {d : Reg} {s t : State}
    (hs : s.mem.wf = true) (h : execMrcv d s = .next t) : t.mem.wf = true := by
  refine wf_of_run hs (fun u h => ?_) h
  simp only [] at h
  grind [acquireAt_mem, finish_mem, wf_serveHeld]

theorem mem_execMpoll {d : Reg} {s t : State}
    (h : execMpoll d s = .next t) : t.mem = s.mem := by
  unfold execMpoll at h
  grind [finishG_mem]

/-! ## What packets ask of this package -/

theorem mem_takePacket {s : State} {pkg : BitVec 10} {m : OutMsg} {t : State}
    (h : takePacket s pkg m = some t) : t.mem = s.mem := by
  unfold takePacket at h
  grind []

theorem wf_peerPlace {s : State} {part dva : Nat} {acc : BitVec 4} {r : State × Nat}
    (hs : s.mem.wf = true) (h : peerPlace s part dva acc = .ok r) : r.1.mem.wf = true := by
  unfold peerPlace at h
  split at h
  · obtain ⟨-, h⟩ := stop_else_eq_ok.mp h
    obtain ⟨x, translated, rfl⟩ := map_eq_ok.mp h
    exact wf_translate hs translated
  · split at h <;> cases h

theorem wf_peerRead {s : State} {part dva n : Nat} {r : State × List Byte × Bool}
    (hs : s.mem.wf = true) (h : peerRead s part dva n = .ok r) : r.1.mem.wf = true := by
  unfold peerRead at h
  refine foldl_ok (fun r => r.1.mem.wf = true) (fun _ _ => rfl) (fun r p r1 hr h => ?_) hs h
  simp only [bind_eq_ok, pure_eq_ok] at h
  grind [→ wf_peerPlace]

theorem wf_peerAtomic {s : State} {part dva n : Nat} {ret acq : Bool} {f : Nat → Option Nat} {r : State × Nat × List Byte}
    (hs : s.mem.wf = true) (h : peerAtomic s part dva n ret acq f = .ok r) : r.1.mem.wf = true := by
  unfold peerAtomic at h
  obtain ⟨_, -, h⟩ := bind_eq_ok.mp h
  obtain ⟨x, placed, h⟩ := bind_eq_ok.mp h
  have hx := wf_peerPlace hs placed
  have drained := wf_ite (c := acq = true) (wf_drainRecorded 0 5 x.2 hx) hx
  dsimp only at h
  generalize (if acq = true then drainRecorded x.1 0 5 x.2 else x.1) = s2 at drained h
  split at h
  · cases h; exact drained
  · cases old : f (natOfBytes (mreadN s2.mem.ram x.2 n)) <;> rw [old] at h <;> cases ret <;> cases h
    · exact drained
    · exact drained
    · exact wf_ramWrite _ _ drained
    · exact wf_ramWrite _ _ drained

@[simp] theorem setSub_mem (s : State) (part n : Nat) (x : Subscription) :
    (State.setSub s part n x).mem = s.mem := rfl

theorem wf_memberWrite {s : State} {pkg : BitVec 10} {part sub dva : Nat} {v : W64} {t : State}
    (hs : s.mem.wf = true) (h : memberWrite s pkg part sub dva v = .ok t) : t.mem.wf = true := by
  unfold memberWrite at h
  obtain ⟨-, h⟩ := stop_else_eq_ok.mp h
  split at h
  · split at h <;> cases h
  · obtain ⟨-, h⟩ := stop_else_eq_ok.mp h
    cases h
    exact wf_ramWrite _ _ (by rw [setSub_mem]; exact hs)

theorem wf_shuttlePerform {s : State} (pkg : BitVec 10) (part : Nat) (sh : Shuttle)
    (hs : s.mem.wf = true) : (shuttlePerform s pkg part sh).mem.wf = true := by
  unfold shuttlePerform
  grind [send_mem, wf_ringPlace, wf_acceptRecord]

theorem wf_peerPerform {s : State} {pkg : BitVec 10} {part : Nat} {op : PeerOp} {r : State × Nat × List Byte}
    (hs : s.mem.wf = true) (h : peerPerform s pkg part op = .ok r) : r.1.mem.wf = true := by
  cases op with
  | load dva n acq =>
    obtain ⟨⟨s1, bs, bad⟩, read, h⟩ := bind_eq_ok.mp h
    have h1 := wf_peerRead hs read
    cases acq with
    | true =>
      obtain ⟨s2, drained, h⟩ := bind_eq_ok.mp h
      obtain ⟨x, -, drained⟩ := bind_eq_ok.mp drained
      obtain ⟨⟨s3, bs3, bad3⟩, again, h⟩ := bind_eq_ok.mp h
      cases drained
      have h3 := wf_peerRead (wf_drainRecorded _ _ _ h1) again
      cases bad3 <;> cases h <;> exact h3
    | false =>
      obtain ⟨s2, same, h⟩ := bind_eq_ok.mp h
      cases same
      cases bad <;> cases h <;> exact h1
  | store dva bs =>
    obtain ⟨x, placed, h⟩ := bind_eq_ok.mp h
    cases h
    exact wf_ramWrite _ _ (wf_peerPlace hs placed)
  | nibble dva hi v =>
    obtain ⟨x, placed, h⟩ := bind_eq_ok.mp h
    cases h
    exact wf_ramWrite _ _ (wf_peerPlace hs placed)
  | atomic op dva n v ret acq =>
    unfold peerPerform at h
    exact wf_peerAtomic hs h
  | fatomic op fmt lanes dva v ret acq =>
    unfold peerPerform at h
    exact wf_peerAtomic hs h
  | cas dva n e v ret acq =>
    unfold peerPerform at h
    exact wf_peerAtomic hs h
  | mcst sub dva v =>
    obtain ⟨t, written, rfl⟩ := map_eq_ok.mp h
    exact wf_memberWrite hs written
  | shuttle sh =>
    cases h
    exact wf_shuttlePerform _ _ _ hs

@[simp] theorem peerAnswer_mem (s : State) (pkg : BitVec 10) (tid : W64) (r : PeerReq) (kind : Nat) (bs : List Byte) :
    (peerAnswer s pkg tid r kind bs).mem = s.mem := by
  unfold peerAnswer
  grind [send_mem, countPerformed_mem, dropEpoch_mem]

theorem wf_peerNow {s : State} (w : PeerWait)
    (hs : s.mem.wf = true) : (peerNow s w).mem.wf = true := by
  unfold peerNow
  grind [joinRecord_mem, peerAnswer_mem, → wf_peerPerform]

theorem wf_requestArrive {s : State} (w : PeerWait)
    (hs : s.mem.wf = true) : (requestArrive s w).mem.wf = true := by
  unfold requestArrive
  grind [wf_peerNow]

theorem wf_peerPage {s : State} (part dva : Nat) (refuse : Bool)
    (hs : s.mem.wf = true) : (peerPage s part dva refuse).mem.wf = true := by
  unfold peerPage
  refine wf_foldl hs (fun s x hs => ?_)
  grind [peerAnswer_mem, wf_peerNow]

theorem wf_execPeerRequest {pkg : BitVec 10} {part : BitVec 4} {tid : W64} {req : PeerReq} {s t : State}
    (hs : s.mem.wf = true) (h : execPeerRequest pkg part tid req s = .next t) : t.mem.wf = true := by
  unfold execPeerRequest at h
  grind [→ mem_takePacket, wf_requestArrive]

theorem wf_execMcstCopyWrite {pkg : BitVec 10} {part : BitVec 4} {tid : W64} {sub : Byte} {dva : Nat} {v : W64} {s t : State}
    (hs : s.mem.wf = true) (h : execMcstCopyWrite pkg part tid sub dva v s = .next t) : t.mem.wf = true := by
  unfold execMcstCopyWrite at h
  grind [→ mem_takePacket, wf_requestArrive]

theorem wf_execShuttleArrival {pkg : BitVec 10} {part : BitVec 4} {sh : Shuttle} {release : Option (BitVec 16 × W32)} {s t : State}
    (hs : s.mem.wf = true) (h : execShuttleArrival pkg part sh release s = .next t) : t.mem.wf = true := by
  unfold execShuttleArrival at h
  grind [→ mem_takePacket, wf_requestArrive]

theorem wf_execCountedReleasePerform {index : Nat} {s t : State}
    (hs : s.mem.wf = true) (h : execCountedReleasePerform index s = .next t) : t.mem.wf = true := by
  unfold execCountedReleasePerform at h
  grind [wf_peerNow]

theorem mem_execCountedReleaseTimeout {index : Nat} {s t : State}
    (h : execCountedReleaseTimeout index s = .next t) : t.mem = s.mem := by
  unfold execCountedReleaseTimeout at h
  grind []

theorem mem_execStaleNotice {pkg : BitVec 10} {part : BitVec 4} {sub : Byte} {s t : State}
    (h : execStaleNotice pkg part sub s = .next t) : t.mem = s.mem := by
  unfold execStaleNotice at h
  grind [setSub_mem, → mem_takePacket]

theorem wf_copyRegion {s t : State} {part n : Nat} {l : List (Nat × Byte)} (hs : s.mem.wf = true)
    (h : copyRegion part n s l = some t) : t.mem.wf = true := by
  induction n generalizing s l with
  | zero => cases h; exact hs
  | succ n ih =>
    unfold copyRegion at h
    grind [wf_ramWrite]

theorem wf_execVersionBumpArrival {pkg : BitVec 10} {part : BitVec 4} {sub : Byte} {ver : W64} {resync : Bool} {data : List Host.Cell}
    {s t : State}
    (hs : s.mem.wf = true) (h : execVersionBumpArrival pkg part sub ver resync data s = .next t) : t.mem.wf = true := by
  unfold execVersionBumpArrival at h
  grind [setSub_mem, → mem_takePacket, → wf_copyRegion]

/-! ## Stores -/

theorem wf_storeBody {im : BitVec 14} {a : Reg} {n v : Nat} {s t : State}
    (hs : s.mem.wf = true) (h : storeBody im a n v s = .ok t) : t.mem.wf = true := by
  unfold storeBody at h
  simp only [bind, Except.bind, pure, Except.pure] at h
  grind [finish_mem, wf_storeCheck]

theorem wf_execFsq {im : BitVec 14} {b a : Reg} {s t : State}
    (hs : s.mem.wf = true) (h : execFsq im b a s = .next t) : t.mem.wf = true := by
  refine wf_of_run hs (fun u h => ?_) h
  simp only [bind_eq_ok, pure_eq_ok] at h
  grind [finish_mem, stepStreams_mem, → wf_readF, → wf_storeCheck]

theorem wf_execSnib {h : BitVec 1} {b a : Reg} {s t : State}
    (hs : s.mem.wf = true) (h : execSnib h b a s = .next t) : t.mem.wf = true := by
  refine wf_of_run hs (fun u h => ?_) h
  simp only [bind_eq_ok] at h
  simp only [bind, Except.bind, pure, Except.pure] at h
  grind [→ wf_resolve, finish_mem, → mem_trailerStore, → mem_storeOrCompare]

theorem wf_strlBody {sc : BitVec 3} {b a : Reg} {n : Nat} {s t : State}
    (hs : s.mem.wf = true) (h : strlBody sc b a n s = .ok t) : t.mem.wf = true := by
  unfold strlBody at h
  simp only [bind, Except.bind, pure, Except.pure] at h
  repeat' split at h
  all_goals grind [→ wf_resolve, finish_mem, → mem_enqueueStore, → mem_storeAt, wf_releaseMoves, releaseCount_mem]

theorem wf_execRel {sc : BitVec 3} {s t : State}
    (hs : s.mem.wf = true) (h : execRel sc s = .next t) : t.mem.wf = true := by
  refine wf_of_run hs (fun u h => ?_) h
  simp only [stop_else_eq_ok] at h
  grind [finish_mem, wf_releaseMoves]

theorem mem_execAcq {sc : BitVec 3} {s t : State}
    (h : execAcq sc s = .next t) : t.mem = s.mem := by
  unfold execAcq at h
  grind [acquireAt_mem, finish_mem]

theorem wf_fenceSys {d : Reg} {s t : State}
    (hs : s.mem.wf = true) (h : fenceSys d s = .ok t) : t.mem.wf = true := by
  unfold fenceSys at h
  grind [setMe_mem, trapMe_mem, acquireAt_mem, finish_mem, finishG_mem, wf_releaseMoves]

theorem wf_execFence {sc : BitVec 3} {d : Reg} {s t : State}
    (hs : s.mem.wf = true) (h : execFence sc d s = .next t) : t.mem.wf = true := by
  refine wf_of_run hs (fun u h => ?_) h
  simp only [] at h
  grind [acquireAt_mem, finish_mem, wf_releaseMoves, → wf_fenceSys]

@[simp] theorem rangeL1_mem (s : State) (o n : Nat) :
    (rangeL1 s o n).mem = s.mem := rfl

theorem wf_rangeCopies {s : State} (o n : Nat) {f : State → Nat → State}
    (hf : ∀ s k, s.mem.wf = true → (f s k).mem.wf = true) (hs : s.mem.wf = true) : (rangeCopies s o n f).mem.wf = true := wf_foldl hs hf

@[simp] theorem rangeStep_mem (s : State) (n done : Nat) :
    (rangeStep s n done).mem = s.mem := by
  unfold rangeStep
  split <;> simp

theorem wf_rangeBody {sc : BitVec 3} {b a : Reg} {right : Nat} {l1 : Bool} {f : Nat → Nat → State → Nat → State} {s t : State}
    (hf : ∀ o n s k, s.mem.wf = true → (f o n s k).mem.wf = true) (hs : s.mem.wf = true)
    (h : rangeBody sc b a right l1 f s = .ok t) : t.mem.wf = true := by
  unfold rangeBody at h
  obtain ⟨x, -, h⟩ := bind_eq_ok.mp h
  split at h
  · cases h; rw [finish_mem]; exact hs
  · obtain ⟨-, h⟩ := stop_else_eq_ok.mp h
    cases h
    rw [rangeStep_mem]
    have kept (o n : Nat) : (if l1 = true then rangeL1 s o n else s).mem.wf = true :=
      wf_ite (by rw [rangeL1_mem]; exact hs) hs
    exact wf_ite (wf_rangeCopies _ _ (hf _ _) (wf_flushWb _ (kept _ _))) (kept _ _)

theorem wf_invLine {s : State} (key : Nat)
    (hs : s.mem.wf = true) : (invLine s key).mem.wf = true := by
  unfold invLine
  grind [dropLine_mem, wf_writeBackLine]

theorem wf_discLine {s : State} (o n key : Nat)
    (hs : s.mem.wf = true) : (discLine o n s key).mem.wf = true := by
  unfold discLine
  grind [dropLine_mem, wf_invLine]

theorem wf_prefLine {sc : BitVec 3} {ea : W64} {n : Nat} {s : State} {k : Nat} {t : State}
    (hs : s.mem.wf = true) (h : prefLine sc ea n s k = .ok t) : t.mem.wf = true := by
  unfold prefLine at h
  grind [→ wf_translate, wf_fillLine, wf_lateLoad]

theorem wf_execPref {sc : BitVec 3} {b a : Reg} {s t : State}
    (hs : s.mem.wf = true) (h : execPref sc b a s = .next t) : t.mem.wf = true := by
  refine wf_of_run hs (fun u h => ?_) h
  obtain ⟨_, -, h⟩ := bind_eq_ok.mp h
  split at h
  · cases h; rw [finish_mem]; exact hs
  · obtain ⟨s1, fetched, h⟩ := bind_eq_ok.mp h
    cases h
    rw [rangeStep_mem]
    exact foldlM_ok (fun s : State => s.mem.wf = true) (fun s k t hs => wf_prefLine hs) hs fetched

theorem mem_execCinv {s t : State}
    (h : execCinv s = .next t) : t.mem = s.mem := by
  unfold execCinv at h
  grind [setCore_mem, finish_mem]

theorem mem_execSegr {sg : BitVec 3} {w : BitVec 2} {d : Reg} {s t : State}
    (h : execSegr sg w d s = .next t) : t.mem = s.mem := by
  unfold execSegr at h
  grind [finishG_mem]

theorem wf_execSegw {sg : BitVec 3} {w : BitVec 2} {a d : Reg} {s t : State}
    (hs : s.mem.wf = true) (h : execSegw sg w a d s = .next t) : t.mem.wf = true := by
  refine wf_privileged hs (fun u h => ?_) h
  grind [finish_mem, finishG_mem]

theorem mem_execSegn {sg : BitVec 3} {b a d : Reg} {s t : State}
    (h : execSegn sg b a d s = .next t) : t.mem = s.mem := by
  unfold execSegn at h
  grind [finish_mem, finishG_mem]

/-! ## The services of the fabric -/

@[simp] theorem setStale_mem (s : State) (part p : Nat) (m : BitVec 10) (on : Bool) :
    (setStale s part p m on).mem = s.mem := rfl

@[simp] theorem mcstSettle_mem (s : State) (key : Nat) :
    (mcstSettle s key).mem = s.mem := by
  unfold mcstSettle
  grind [answer_mem]

@[simp] theorem mcstFail_mem (s : State) (key : Nat) (x : McstPending) :
    (mcstFail s key x).mem = s.mem := by
  unfold mcstFail
  simp

@[simp] theorem mcstSend_mem (s : State) (core : Nat) (e : StoreEntry) (p seq : Nat) :
    (mcstSend s core e p seq).mem = s.mem := by
  unfold mcstSend
  grind [foldl_mem, setThread_mem, send_mem, setStale_mem, mcstSettle_mem, mcstFail_mem]

theorem wf_execMcst {b a d : Reg} {s t : State}
    (hs : s.mem.wf = true) (h : execMcst b a d s = .next t) : t.mem.wf = true := by
  refine wf_of_run hs (fun u h => ?_) h
  simp only [bind_eq_ok] at h
  simp only [bind, Except.bind, pure, Except.pure] at h
  grind [setMe_mem, → wf_resolve, parkMe_mem, finish_mem, → mem_storeAt]

theorem wf_resyncData {s : State} {part : Nat} {x : Publication} {eval : W64} {r : State × List (Nat × Byte)}
    (hs : s.mem.wf = true) (h : resyncData s part x eval = .ok r) : r.1.mem.wf = true := by
  unfold resyncData at h
  simp only [bind, Except.bind, pure, Except.pure] at h
  grind [→ wf_translateRange]

@[simp] theorem bumpMember_mem (part p : Nat) (x : Publication) (data : Option (List (Nat × Byte))) (ver : W64)
    (r : State × List Nat) (m : Nat) : (bumpMember part p x data ver r m).1.mem = r.1.mem := by
  unfold bumpMember
  grind [send_mem, setStale_mem]

theorem wf_execPubv {b a d : Reg} {s t : State}
    (hs : s.mem.wf = true) (h : execPubv b a d s = .next t) : t.mem.wf = true := by
  refine wf_of_run hs (fun u h => ?_) h
  obtain ⟨_, -, h⟩ := bind_eq_ok.mp h
  split at h
  · cases h
  · obtain ⟨_, -, h⟩ := bind_eq_ok.mp h
    split at h
    · cases h
    · have moved := wf_releaseMoves s.myCore 5 false hs
      split at h
      on_goal 1 =>
        obtain ⟨⟨s2, data⟩, read, h⟩ := bind_eq_ok.mp h
        obtain ⟨x, resynced, same⟩ := bind_eq_ok.mp read
        cases same
        have h2 := wf_resyncData moved resynced
      on_goal 2 =>
        obtain ⟨⟨s2, data⟩, same, h⟩ := bind_eq_ok.mp h
        cases same
        have h2 := moved
      all_goals
        rw [← Except.ok.inj h, finish_mem]
        refine foldl_keeps (fun r : State × List Nat => r.1.mem.wf = true) _ (fun r m hr => ?_) _ _ ?_
        · rw [bumpMember_mem]; exact hr
        · dsimp only
          split
          · exact wf_ramWrite _ _ h2
          · exact h2

theorem wf_execSubv {n : BitVec 5} {a d : Reg} {s t : State}
    (hs : s.mem.wf = true) (h : execSubv n a d s = .next t) : t.mem.wf = true := by
  refine wf_of_run hs (fun u h => ?_) h
  simp only [bind, Except.bind, pure, Except.pure] at h
  grind [acquireAt_mem, finishG_mem]

@[simp] theorem aredPark_mem (i : Instr) (s : State) (g aux : Nat) :
    (aredPark i s g aux).mem = s.mem := by
  unfold aredPark
  simp

theorem wf_execAred {p : BitVec 3} {b a d : Reg} {s t : State}
    (hs : s.mem.wf = true) (h : execAred p b a d s = .next t) : t.mem.wf = true := by
  refine wf_of_run hs (fun u h => ?_) h
  obtain ⟨_, -, h⟩ := bind_eq_ok.mp h
  obtain ⟨_, -, h⟩ := bind_eq_ok.mp h
  obtain ⟨o, -, h⟩ := bind_eq_ok.mp h
  dsimp only at h
  split at h
  · cases h; exact hs
  · split at h
    · cases h; exact hs
    · rw [error_bind] at h
      obtain ⟨-, h⟩ := stop_else_eq_ok.mp h
      obtain ⟨s1, same, h⟩ := bind_eq_ok.mp h
      cases same
      have h1 := wf_releaseMoves s.myCore (s.group (s.partOf s.myCore) ((s.me.rg a).extractLsb' 0 8).toNat).scope.toNat false hs
      obtain ⟨_, -, h⟩ := bind_eq_ok.mp h
      split at h
      · split at h <;> cases h
        · rw [aredPark_mem]; exact h1
        · rw [acquireAt_mem, finishG_mem, setMe_mem]
          exact wf_ite h1 (wf_spadWrite _ _ _ h1)
      · obtain ⟨⟨s2, bs, bad⟩, read, h⟩ := bind_eq_ok.mp h
        have h2 := wf_bytesNow h1 read
        simp only [error_bind, stop_else_eq_ok] at h
        obtain ⟨-, h⟩ := h
        cases h
        rw [aredPark_mem]
        refine wf_ite ?_ ?_
        · rw [send_mem, setMe_mem, setGroup_mem]; exact h2
        · rw [setMe_mem, setGroup_mem]; exact h2

theorem wf_aredEnd {s : State} (part g : Nat) (bits : BitVec 5) (result : List Byte)
    (hs : s.mem.wf = true) : (aredEnd s part g bits result).mem.wf = true := by
  unfold aredEnd
  rw [answerOff_mem]
  refine wf_foldl (by rw [setGroup_mem]; exact hs) fun s key hs => ?_
  dsimp only
  split
  · split
    · exact hs
    · split
      · rw [answer_mem, setThread_mem]; exact hs
      · rw [answer_mem]
        refine wf_ite (by rw [setThread_mem]; exact hs) (wf_spadWrite _ _ _ hs)
  · exact hs

theorem wf_execAredPhaseComplete {part : BitVec 4} {g : Byte} {peers : List AredContrib} {failed : Bool} {s t : State}
    (hs : s.mem.wf = true) (h : execAredPhaseComplete part g peers failed s = .next t) : t.mem.wf = true := by
  unfold execAredPhaseComplete at h
  grind [wf_aredEnd]

theorem wf_execShtl {r : BitVec 1} {n : BitVec 3} {a d : Reg} {s t : State}
    (hs : s.mem.wf = true) (h : execShtl r n a d s = .next t) : t.mem.wf = true := by
  refine wf_of_run hs (fun u h => ?_) h
  simp only [bind, Except.bind, pure, Except.pure] at h
  grind [send_mem, parkOn_mem, finish_mem, → mem_enqueueStore, finishG_mem, wf_releaseMoves, closeEpoch_mem]

theorem wf_execShtr {a d : Reg} {s t : State}
    (hs : s.mem.wf = true) (h : execShtr a d s = .next t) : t.mem.wf = true := by
  refine wf_of_run hs (fun u h => ?_) h
  simp only [] at h
  grind [setKernel_mem, sendReply_mem, finishG_mem, wf_releaseMoves]

@[simp] theorem shuttleRefused_mem (s : State) (key : Nat) (kid desc : W64) (status : BitVec 4) :
    (shuttleRefused s key kid desc status).mem = s.mem := by
  unfold shuttleRefused
  dsimp only
  split <;> simp

theorem mem_execShuttleRefusal {core slot : Nat} {kid desc : W64} {status : BitVec 4} {s t : State}
    (h : execShuttleRefusal core slot kid desc status s = .next t) : t.mem = s.mem := by
  unfold execShuttleRefusal at h
  grind [shuttleRefused_mem, → mem_takePacket]

theorem mem_takeReply {s : State} {m : OutMsg} {w2 : W64} {t : State}
    (h : takeReply s m w2 = some t) : t.mem = s.mem := by
  unfold takeReply at h
  grind [mem_takePacket]

theorem wf_execShuttleReplyArrival {part : BitVec 4} {kid tid w1 w2 : W64} {rtok : BitVec 16} {s t : State}
    (hs : s.mem.wf = true) (h : execShuttleReplyArrival part kid tid w1 w2 rtok s = .next t) : t.mem.wf = true := by
  unfold execShuttleReplyArrival at h
  grind [bufferReply_mem, inboxPut_mem, → mem_takeReply, wf_signalRtok]

theorem wf_execReplyHoldTimeout {index : Nat} {s t : State}
    (hs : s.mem.wf = true) (h : execReplyHoldTimeout index s = .next t) : t.mem.wf = true := by
  unfold execReplyHoldTimeout at h
  grind [setThread_mem, wf_signalRtok]

/-! ## Acknowledgements of stores and multicast writes, and the peers that count as failed without them -/

@[simp] theorem refusalEvent_mem (s : State) (key : Nat) (pkg : BitVec 10) (addr : W64) :
    (refusalEvent s key pkg addr).mem = s.mem := by
  unfold refusalEvent
  simp

@[simp] theorem peerAck_mem (s : State) (key : Nat) (pkg : BitVec 10) (refused : Bool) (addr : W64) :
    (peerAck s key pkg refused addr).mem = s.mem := by
  unfold peerAck
  grind [setThread_mem, setKernel_mem, mcstSettle_mem, mcstFail_mem, refusalEvent_mem]

theorem mem_execPeerAck {core slot : Nat} {pkg : BitVec 10} {refused : Bool} {address : W64} {s t : State}
    (h : execPeerAck core slot pkg refused address s = .next t) : t.mem = s.mem := by
  unfold execPeerAck at h
  grind [bufferReply_mem, peerAck_mem, → mem_takePacket]

@[simp] theorem failPeer_mem (s : State) (key : Nat) (pkg : BitVec 10) (old : Nat → Bool) :
    (failPeer s key pkg old).mem = s.mem := by
  unfold failPeer
  dsimp only
  split <;> simp

theorem mem_execAcknowledgementTimeout {core slot : Nat} {pkg : BitVec 10} {s t : State}
    (h : execAcknowledgementTimeout core slot pkg s = .next t) : t.mem = s.mem := by
  unfold execAcknowledgementTimeout at h
  grind [failPeer_mem]

theorem mem_execRtboundExpiry {core slot : Nat} {pkg : BitVec 10} {s t : State}
    (h : execRtboundExpiry core slot pkg s = .next t) : t.mem = s.mem := by
  unfold execRtboundExpiry at h
  dsimp only at h
  split at h
  · cases h; rfl
  · rw [← Host.Outcome.next.inj h, foldl_mem _ (fun _ _ => mcstFail_mem _ _ _)]
    split
    · split
      · exact setThread_mem _ _ _
      · rfl
    · rfl

/-! ## The scalar instructions -/

@[simp] theorem aluDone_mem (s : State) (d : Reg) (v : W64) (lat : Nat) :
    (aluDone s d v lat).mem = s.mem := rfl

theorem mem_execAdd {w : BitVec 1} {b a d : Reg} {s t : State}
    (h : execAdd w b a d s = .next t) : t.mem = s.mem := by
  unfold execAdd at h
  grind [aluDone_mem]

theorem mem_execSub {w : BitVec 1} {b a d : Reg} {s t : State}
    (h : execSub w b a d s = .next t) : t.mem = s.mem := by
  unfold execSub at h
  grind [aluDone_mem]

theorem mem_execAnd {w : BitVec 1} {b a d : Reg} {s t : State}
    (h : execAnd w b a d s = .next t) : t.mem = s.mem := by
  unfold execAnd at h
  grind [aluDone_mem]

theorem mem_execOr {w : BitVec 1} {b a d : Reg} {s t : State}
    (h : execOr w b a d s = .next t) : t.mem = s.mem := by
  unfold execOr at h
  grind [aluDone_mem]

theorem mem_execXor {w : BitVec 1} {b a d : Reg} {s t : State}
    (h : execXor w b a d s = .next t) : t.mem = s.mem := by
  unfold execXor at h
  grind [aluDone_mem]

theorem mem_execAndn {w : BitVec 1} {b a d : Reg} {s t : State}
    (h : execAndn w b a d s = .next t) : t.mem = s.mem := by
  unfold execAndn at h
  grind [aluDone_mem]

theorem mem_execOrn {w : BitVec 1} {b a d : Reg} {s t : State}
    (h : execOrn w b a d s = .next t) : t.mem = s.mem := by
  unfold execOrn at h
  grind [aluDone_mem]

theorem mem_execXnor {w : BitVec 1} {b a d : Reg} {s t : State}
    (h : execXnor w b a d s = .next t) : t.mem = s.mem := by
  unfold execXnor at h
  grind [aluDone_mem]

theorem mem_execShl {w : BitVec 1} {b a d : Reg} {s t : State}
    (h : execShl w b a d s = .next t) : t.mem = s.mem := by
  unfold execShl at h
  grind [aluDone_mem]

theorem mem_execShr {w : BitVec 1} {b a d : Reg} {s t : State}
    (h : execShr w b a d s = .next t) : t.mem = s.mem := by
  unfold execShr at h
  grind [aluDone_mem]

theorem mem_execShra {w : BitVec 1} {b a d : Reg} {s t : State}
    (h : execShra w b a d s = .next t) : t.mem = s.mem := by
  unfold execShra at h
  grind [aluDone_mem]

theorem mem_execRol {w : BitVec 1} {b a d : Reg} {s t : State}
    (h : execRol w b a d s = .next t) : t.mem = s.mem := by
  unfold execRol at h
  grind [aluDone_mem]

theorem mem_execRor {w : BitVec 1} {b a d : Reg} {s t : State}
    (h : execRor w b a d s = .next t) : t.mem = s.mem := by
  unfold execRor at h
  grind [aluDone_mem]

theorem mem_execSlt {w : BitVec 1} {b a d : Reg} {s t : State}
    (h : execSlt w b a d s = .next t) : t.mem = s.mem := by
  unfold execSlt at h
  grind [aluDone_mem]

theorem mem_execSltu {w : BitVec 1} {b a d : Reg} {s t : State}
    (h : execSltu w b a d s = .next t) : t.mem = s.mem := by
  unfold execSltu at h
  grind [aluDone_mem]

theorem mem_execMin {w : BitVec 1} {b a d : Reg} {s t : State}
    (h : execMin w b a d s = .next t) : t.mem = s.mem := by
  unfold execMin at h
  grind [aluDone_mem]

theorem mem_execMax {w : BitVec 1} {b a d : Reg} {s t : State}
    (h : execMax w b a d s = .next t) : t.mem = s.mem := by
  unfold execMax at h
  grind [aluDone_mem]

theorem mem_execMinu {w : BitVec 1} {b a d : Reg} {s t : State}
    (h : execMinu w b a d s = .next t) : t.mem = s.mem := by
  unfold execMinu at h
  grind [aluDone_mem]

theorem mem_execMaxu {w : BitVec 1} {b a d : Reg} {s t : State}
    (h : execMaxu w b a d s = .next t) : t.mem = s.mem := by
  unfold execMaxu at h
  grind [aluDone_mem]

theorem mem_execMul {w : BitVec 1} {b a d : Reg} {s t : State}
    (h : execMul w b a d s = .next t) : t.mem = s.mem := by
  unfold execMul at h
  grind [aluDone_mem]

theorem mem_execHmul {w : BitVec 1} {b a d : Reg} {s t : State}
    (h : execHmul w b a d s = .next t) : t.mem = s.mem := by
  unfold execHmul at h
  grind [aluDone_mem]

theorem mem_execHmulu {w : BitVec 1} {b a d : Reg} {s t : State}
    (h : execHmulu w b a d s = .next t) : t.mem = s.mem := by
  unfold execHmulu at h
  grind [aluDone_mem]

theorem mem_execHmulm {w : BitVec 1} {b a d : Reg} {s t : State}
    (h : execHmulm w b a d s = .next t) : t.mem = s.mem := by
  unfold execHmulm at h
  grind [aluDone_mem]

theorem mem_execDiv {w : BitVec 1} {b a d : Reg} {s t : State}
    (h : execDiv w b a d s = .next t) : t.mem = s.mem := by
  unfold execDiv at h
  grind [aluDone_mem]

theorem mem_execDivu {w : BitVec 1} {b a d : Reg} {s t : State}
    (h : execDivu w b a d s = .next t) : t.mem = s.mem := by
  unfold execDivu at h
  grind [aluDone_mem]

theorem mem_execRem {w : BitVec 1} {b a d : Reg} {s t : State}
    (h : execRem w b a d s = .next t) : t.mem = s.mem := by
  unfold execRem at h
  grind [aluDone_mem]

theorem mem_execRemu {w : BitVec 1} {b a d : Reg} {s t : State}
    (h : execRemu w b a d s = .next t) : t.mem = s.mem := by
  unfold execRemu at h
  grind [aluDone_mem]

theorem mem_execClz {w : BitVec 1} {a d : Reg} {s t : State}
    (h : execClz w a d s = .next t) : t.mem = s.mem := by
  unfold execClz at h
  grind [aluDone_mem]

theorem mem_execCtz {w : BitVec 1} {a d : Reg} {s t : State}
    (h : execCtz w a d s = .next t) : t.mem = s.mem := by
  unfold execCtz at h
  grind [aluDone_mem]

theorem mem_execPopc {w : BitVec 1} {a d : Reg} {s t : State}
    (h : execPopc w a d s = .next t) : t.mem = s.mem := by
  unfold execPopc at h
  grind [aluDone_mem]

theorem mem_execBrev {w : BitVec 1} {a d : Reg} {s t : State}
    (h : execBrev w a d s = .next t) : t.mem = s.mem := by
  unfold execBrev at h
  grind [aluDone_mem]

theorem mem_execBswap {w : BitVec 1} {a d : Reg} {s t : State}
    (h : execBswap w a d s = .next t) : t.mem = s.mem := by
  unfold execBswap at h
  grind [aluDone_mem]

theorem mem_execSext {w : BitVec 2} {a d : Reg} {s t : State}
    (h : execSext w a d s = .next t) : t.mem = s.mem := by
  unfold execSext at h
  grind [aluDone_mem]

theorem mem_execZext {w : BitVec 2} {a d : Reg} {s t : State}
    (h : execZext w a d s = .next t) : t.mem = s.mem := by
  unfold execZext at h
  grind [aluDone_mem]

theorem mem_execBfx {w : BitVec 2} {b a d : Reg} {s t : State}
    (h : execBfx w b a d s = .next t) : t.mem = s.mem := by
  unfold execBfx at h
  grind [aluDone_mem]

theorem mem_execBfi {w : BitVec 2} {b a d : Reg} {s t : State}
    (h : execBfi w b a d s = .next t) : t.mem = s.mem := by
  unfold execBfi at h
  grind [aluDone_mem]

theorem mem_execCsel {c b a d : Reg} {s t : State}
    (h : execCsel c b a d s = .next t) : t.mem = s.mem := by
  unfold execCsel at h
  grind [aluDone_mem]

theorem mem_execMadd {w : BitVec 1} {c b a d : Reg} {s t : State}
    (h : execMadd w c b a d s = .next t) : t.mem = s.mem := by
  unfold execMadd at h
  grind [aluDone_mem]

theorem mem_execMsub {w : BitVec 1} {c b a d : Reg} {s t : State}
    (h : execMsub w c b a d s = .next t) : t.mem = s.mem := by
  unfold execMsub at h
  grind [aluDone_mem]

theorem mem_execAddi {im : BitVec 14} {a d : Reg} {s t : State}
    (h : execAddi im a d s = .next t) : t.mem = s.mem := by
  unfold execAddi at h
  grind [aluDone_mem]

theorem mem_execAndi {im : BitVec 14} {a d : Reg} {s t : State}
    (h : execAndi im a d s = .next t) : t.mem = s.mem := by
  unfold execAndi at h
  grind [aluDone_mem]

theorem mem_execOri {im : BitVec 14} {a d : Reg} {s t : State}
    (h : execOri im a d s = .next t) : t.mem = s.mem := by
  unfold execOri at h
  grind [aluDone_mem]

theorem mem_execXori {im : BitVec 14} {a d : Reg} {s t : State}
    (h : execXori im a d s = .next t) : t.mem = s.mem := by
  unfold execXori at h
  grind [aluDone_mem]

theorem mem_execShli {im : BitVec 6} {a d : Reg} {s t : State}
    (h : execShli im a d s = .next t) : t.mem = s.mem := by
  unfold execShli at h
  grind [aluDone_mem]

theorem mem_execShri {im : BitVec 6} {a d : Reg} {s t : State}
    (h : execShri im a d s = .next t) : t.mem = s.mem := by
  unfold execShri at h
  grind [aluDone_mem]

theorem mem_execShrai {im : BitVec 6} {a d : Reg} {s t : State}
    (h : execShrai im a d s = .next t) : t.mem = s.mem := by
  unfold execShrai at h
  grind [aluDone_mem]

theorem mem_execSlti {im : BitVec 14} {a d : Reg} {s t : State}
    (h : execSlti im a d s = .next t) : t.mem = s.mem := by
  unfold execSlti at h
  grind [aluDone_mem]

theorem mem_execSltiu {im : BitVec 14} {a d : Reg} {s t : State}
    (h : execSltiu im a d s = .next t) : t.mem = s.mem := by
  unfold execSltiu at h
  grind [aluDone_mem]

theorem mem_execLdh {im : BitVec 19} {d : Reg} {s t : State}
    (h : execLdh im d s = .next t) : t.mem = s.mem := by
  unfold execLdh at h
  grind [aluDone_mem]

theorem mem_execAddpc {im : BitVec 19} {d : Reg} {s t : State}
    (h : execAddpc im d s = .next t) : t.mem = s.mem := by
  unfold execAddpc at h
  grind [aluDone_mem]

theorem mem_transfer {s : State} {t : W64} {link : Option Reg} {t' : State}
    (h : transfer s t link = .ok t') : t'.mem = s.mem := by
  unfold transfer at h
  simp only [bind, Except.bind, pure, Except.pure] at h
  grind [setMe_mem]

theorem mem_jumpBody {t : W64} {d : Reg} {s : State} {t' : State}
    (h : jumpBody t d s = .ok t') : t'.mem = s.mem := by
  unfold jumpBody at h
  simp only [bind, Except.bind] at h
  grind [mem_transfer]

theorem mem_branchBody {cond : Bool} {f : BitVec 14} {s t : State}
    (h : branchBody cond f s = .ok t) : t.mem = s.mem := by
  unfold branchBody at h
  grind [mem_transfer]

theorem mem_execHint {n : BitVec 24} {s t : State}
    (h : execHint n s = .next t) : t.mem = s.mem := by
  unfold execHint at h
  grind [finish_mem]

theorem mem_execRdcyc {d : Reg} {s t : State}
    (h : execRdcyc d s = .next t) : t.mem = s.mem := by
  unfold execRdcyc at h
  grind [finishG_mem]

theorem mem_execRdtim {d : Reg} {s t : State}
    (h : execRdtim d s = .next t) : t.mem = s.mem := by
  unfold execRdtim at h
  grind [finishG_mem]

theorem mem_execRdstep {n : BitVec 5} {a d : Reg} {s t : State}
    (h : execRdstep n a d s = .next t) : t.mem = s.mem := by
  unfold execRdstep at h
  grind [finishG_mem]

/-! ## Work queues, dispatch and tokens -/

@[simp] theorem launchHas_mem (s : State) (key : Nat) (rec_ : List Byte) (q : W64) (d : Reg) :
    (launchHas s key rec_ q d).mem = s.mem := by
  unfold launchHas
  split <;> simp

theorem wf_execLaunch {b a d : Reg} {s t : State}
    (hs : s.mem.wf = true) (h : execLaunch b a d s = .next t) : t.mem.wf = true := by
  refine wf_of_run hs (fun u h => ?_) h
  obtain ⟨⟨kind, o⟩, -, h⟩ := bind_eq_ok.mp h
  obtain ⟨⟨s1, ps⟩, ranged, h⟩ := bind_eq_ok.mp h
  have h1 := wf_resolveRange hs ranged
  obtain ⟨-, h⟩ := stop_else_eq_ok.mp h
  split at h
  · cases h
    rw [foldl_mem _ (fun _ _ => send_mem _ _), parkOn_mem]
    exact wf_releaseMoves _ _ _ h1
  · obtain ⟨⟨s2, bs, bad⟩, read, h⟩ := bind_eq_ok.mp h
    have h2 := wf_releaseMoves s.myCore 4 false (wf_readPlaces h1 read)
    simp only [error_bind, stop_else_eq_ok] at h
    obtain ⟨-, h⟩ := h
    split at h <;> cases h
    · rw [launchHas_mem, parkMe_mem]; exact h2
    · rw [finishG_mem]; exact h2

theorem wf_execLaunchRecordArrival {core slot : Nat} {s t : State}
    (hs : s.mem.wf = true) (h : execLaunchRecordArrival core slot s = .next t) : t.mem.wf = true := by
  unfold execLaunchRecordArrival at h
  grind [answer_mem, → wf_ringPlace, wf_acceptRecord]

theorem wf_execTokw {a d : Reg} {s t : State}
    (hs : s.mem.wf = true) (h : execTokw a d s = .next t) : t.mem.wf = true := by
  refine wf_of_run hs (fun u h => ?_) h
  simp only [bind_eq_ok, pure_eq_ok] at h
  grind [parkMe_mem]

theorem wf_execToks {b a d : Reg} {s t : State}
    (hs : s.mem.wf = true) (h : execToks b a d s = .next t) : t.mem.wf = true := by
  refine wf_of_run hs (fun u h => ?_) h
  simp only [bind_eq_ok, pure_eq_ok, stop_else_eq_ok] at h
  grind [parkMe_mem, wf_releaseMoves]

theorem wf_execTokq {a d : Reg} {s t : State}
    (hs : s.mem.wf = true) (h : execTokq a d s = .next t) : t.mem.wf = true := by
  refine wf_of_run hs (fun u h => ?_) h
  simp only [bind_eq_ok, pure_eq_ok] at h
  grind [parkMe_mem]

theorem wf_execToke {a d : Reg} {s t : State}
    (hs : s.mem.wf = true) (h : execToke a d s = .next t) : t.mem.wf = true := by
  refine wf_of_run hs (fun u h => ?_) h
  simp only [bind_eq_ok, pure_eq_ok] at h
  grind [parkMe_mem]

theorem wf_tokenPerform {s : State} (key : Nat) (w : Wait)
    (hs : s.mem.wf = true) : (tokenPerform s key w).mem.wf = true := by
  unfold tokenPerform
  grind [setThread_mem, answer_mem, tokenError_mem, wf_settle, tokenSignal_mem]

theorem wf_execTokenRequest {core slot : Nat} {s t : State}
    (hs : s.mem.wf = true) (h : execTokenRequest core slot s = .next t) : t.mem.wf = true := by
  unfold execTokenRequest at h
  grind [wf_tokenPerform]

theorem wf_execTokenHostWrite {fn : Nat} {tok : BitVec 16} {v : W64} {s t : State}
    (hs : s.mem.wf = true) (h : execTokenHostWrite fn tok v s = .next t) : t.mem.wf = true := by
  unfold execTokenHostWrite at h
  grind [serveToken_mem, setToken_mem, wf_settle]

@[simp] theorem writeQcfg_mem (s : State) (fn q : Nat) (v : W64) :
    (writeQcfg s fn q v).mem = s.mem := by
  unfold writeQcfg
  split <;> simp

theorem wf_qcfgCommand {s : State} (fn : Nat) (q : BitVec 15) (v : W64) {cmd : State → Nat → State}
    (hc : ∀ s n, s.mem.wf = true → (cmd s n).mem.wf = true) (hs : s.mem.wf = true) : (qcfgCommand s fn q v cmd).mem.wf = true := by
  unfold qcfgCommand
  exact wf_ite (wf_settle (hc _ _ (by rw [writeQcfg_mem]; exact hs))) hs

theorem wf_execQcfgOpen {fn : Nat} {q : BitVec 15} {v : W64} {s t : State}
    (hs : s.mem.wf = true) (h : execQcfgOpen fn q v s = .next t) : t.mem.wf = true := by
  unfold execQcfgOpen at h
  grind [setQueue_mem, wf_qcfgCommand]

theorem wf_execQcfgClose {fn : Nat} {q : BitVec 15} {v : W64} {s t : State}
    (hs : s.mem.wf = true) (h : execQcfgClose fn q v s = .next t) : t.mem.wf = true := by
  unfold execQcfgClose at h
  grind [setQueue_mem, wf_qcfgCommand]

theorem wf_execQcfgDrain {fn : Nat} {q : BitVec 15} {v : W64} {s t : State}
    (hs : s.mem.wf = true) (h : execQcfgDrain fn q v s = .next t) : t.mem.wf = true := by
  unfold execQcfgDrain at h
  grind [setQueue_mem, wf_qcfgCommand]

theorem wf_execQcfgThaw {fn : Nat} {q : BitVec 15} {v : W64} {s t : State}
    (hs : s.mem.wf = true) (h : execQcfgThaw fn q v s = .next t) : t.mem.wf = true := by
  unfold execQcfgThaw at h
  grind [setQueue_mem, wf_qcfgCommand]

theorem wf_execQcfgPurge {fn : Nat} {q : BitVec 15} {v : W64} {s t : State}
    (hs : s.mem.wf = true) (h : execQcfgPurge fn q v s = .next t) : t.mem.wf = true := by
  cases h
  refine wf_qcfgCommand _ _ _ (fun s n hs => ?_) hs
  dsimp only
  exact wf_ite hs (wf_foldl hs fun s n hs => wf_cancelKernel _ _ hs)

theorem mem_execQcntClear {fn : Nat} {q : BitVec 15} {_v : W64} {s t : State}
    (h : execQcntClear fn q _v s = .next t) : t.mem = s.mem := by
  unfold execQcntClear at h
  grind [setQueue_mem]

theorem wf_execEnqueueWindowWrite {fn : Nat} {q : BitVec 15} {bytes : List Byte} {aligned : Bool} {s t : State}
    (hs : s.mem.wf = true) (h : execEnqueueWindowWrite fn q bytes aligned s = .next t) : t.mem.wf = true := by
  unfold execEnqueueWindowWrite at h
  grind [setQueue_mem, → wf_ringPlace, wf_acceptRecord]

theorem wf_failValidation {s : State} (q : Nat) (serial : W32) (cause : Byte)
    (hs : s.mem.wf = true) : (failValidation s q serial cause).mem.wf = true := by
  unfold failValidation
  grind [flagError_mem, wf_dropCancelled, wf_settle, wf_faultKernel]

theorem wf_validateKernel {s : State} (q : Nat) (serial : W32)
    (hs : s.mem.wf = true) : (validateKernel s q serial).mem.wf = true := by
  unfold validateKernel
  grind [setKernel_mem, wf_settle, joinRecord_mem, → wf_validate, setupGroups_mem, wf_failValidation]

theorem wf_execDispatchDecision {s t : State}
    (hs : s.mem.wf = true) (h : execDispatchDecision s = .next t) : t.mem.wf = true := by
  unfold execDispatchDecision at h
  grind [setQueue_mem, setKernel_mem, markEligible_mem, wf_settle, takeWeights_mem, wf_validateKernel]

theorem wf_bindLoop {s : State} (n core : Nat) (hs : s.mem.wf = true) : (bindLoop n s core).mem.wf = true := by
  induction n generalizing s with
  | zero => exact hs
  | succ n ih =>
    unfold bindLoop
    grind [wf_bindRank]

@[simp] theorem tellVictim_mem (s : State) (core : Nat) :
    (tellVictim s core).mem = s.mem := by
  unfold tellVictim
  grind [setCore_mem, pushEvent_mem]

theorem wf_execRankBind {core : Nat} {s t : State}
    (hs : s.mem.wf = true) (h : execRankBind core s = .next t) : t.mem.wf = true := by
  unfold execRankBind at h
  grind [setCore_mem, tellVictim_mem, wf_bindLoop]

theorem wf_kernelDone {s : State} (q : Nat) (k : Kernel)
    (hs : s.mem.wf = true) : (kernelDone s q k).mem.wf = true := by
  unfold kernelDone
  grind [setQueue_mem, dropKernel_mem, replyAtEnd_mem, tellEnd_mem, wf_settle, tokenSignal_mem]

theorem wf_execKernelReleaseEnd {q : BitVec 15} {serial : W32} {s t : State}
    (hs : s.mem.wf = true) (h : execKernelReleaseEnd q serial s = .next t) : t.mem.wf = true := by
  unfold execKernelReleaseEnd at h
  dsimp only at h
  split at h
  · cases h; exact hs
  next k _ =>
    have drained := wf_ite (c := 3 ≤ k.rscope) (wf_foldl (l := k.clusters) hs fun s c hs => wf_drainCluster c hs) hs
    split at h
    · cases h; exact hs
    · split at h
      · cases h; exact wf_kernelDone _ _ drained
      · split at h
        · cases h; rw [setKernel_mem]; exact drained
        · split at h <;> cases h
          · exact wf_failValidation _ _ _ drained
          · exact wf_kernelDone _ _ drained

theorem wf_execWatchdogExpiry {q : BitVec 15} {serial : W32} {s t : State}
    (hs : s.mem.wf = true) (h : execWatchdogExpiry q serial s = .next t) : t.mem.wf = true := by
  unfold execWatchdogExpiry at h
  dsimp only at h
  split at h
  · cases h; exact hs
  · split at h
    · have flagged := (congrArg Memory.wf (flagError_mem s q.toNat serial HANG)).trans hs
      split at h <;> cases h
      · exact wf_settle (wf_faultKernel _ _ flagged)
      · exact wf_settle (wf_foldl flagged fun s x hs => wf_killThread _ _ hs)
    · cases h; exact hs

/-! ## Contexts -/

@[simp] theorem ctxEvent_mem (s : State) (part : Nat) :
    (ctxEvent s part).mem = s.mem := by
  unfold ctxEvent
  simp

@[simp] theorem initSlot7_mem (s : State) (core : Nat) :
    (initSlot7 s core).mem = s.mem := rfl

@[simp] theorem dropRequests_mem (s : State) (core : Nat) :
    (dropRequests s core).mem = s.mem := rfl

theorem wf_freeCore {s : State} (core : Nat)
    (hs : s.mem.wf = true) : (freeCore s core).mem.wf = true := by
  have emptied : ∀ t : State, t.mem.wf = true → (clearSpad t.mem core).wf = true := fun t ht => wf_clearSpad core ht
  unfold freeCore
  rw [initSlot7_mem]
  exact emptied _ (by simpa)

@[simp] theorem dropRecords_mem (s : State) (part : Nat) :
    (dropRecords s part).mem = s.mem := rfl

theorem wf_execPartitionOpen {part : BitVec 4} {s t : State}
    (hs : s.mem.wf = true) (h : execPartitionOpen part s = .next t) : t.mem.wf = true := by
  unfold execPartitionOpen at h
  dsimp only at h
  split at h
  · cases h; exact hs
  · rw [← Host.Outcome.next.inj h]
    refine wf_settle (wf_foldl ?_ fun s c hs => wf_freeCore _ hs)
    rw [setPart_mem, dropRecords_mem]; exact hs

theorem wf_faultBound {s : State} (part : Nat) (cause : Byte)
    (hs : s.mem.wf = true) : (faultBound s part cause).mem.wf = true := by
  unfold faultBound
  refine wf_foldl hs (fun s x hs => ?_)
  grind [flagError_mem, wf_faultKernel]

theorem wf_execPartitionClose {part : BitVec 4} {s t : State}
    (hs : s.mem.wf = true) (h : execPartitionClose part s = .next t) : t.mem.wf = true := by
  unfold execPartitionClose at h
  dsimp only at h
  split at h
  · cases h; exact hs
  · rw [← Host.Outcome.next.inj h]
    refine wf_settle ?_
    rw [setPart_mem, dropRecords_mem]
    refine wf_foldl (wf_foldl (wf_faultBound _ _ hs) fun s c hs => ?_) fun s c hs => ?_
    · refine wf_freeCore _ ?_
      rw [dropRequests_mem, setCore_mem]; exact hs
    · split
      · exact wf_ite ((congrArg Memory.wf (setCore_mem _ _ _)).trans hs) hs
      · exact hs

theorem mem_execHevecWrite {part : BitVec 4} {v : W64} {s t : State}
    (h : execHevecWrite part v s = .next t) : t.mem = s.mem := by
  rw [← Host.Outcome.next.inj h, foldl_mem _ (fun _ _ => setCore_mem _ _ _), setPart_mem]

theorem mem_execCpartWrite {core : Nat} {v : W64} {s t : State}
    (h : execCpartWrite core v s = .next t) : t.mem = s.mem := by
  unfold execCpartWrite at h
  grind [setCore_mem, initSlot7_mem]

@[simp] theorem haltCore_mem (s : State) (core : Nat) :
    (haltCore s core).mem = s.mem := by
  unfold haltCore
  exact foldl_mem _ (fun s x => by split <;> simp) _ _

@[simp] theorem countWatchdogs_mem (s : State) (part : Nat) :
    (countWatchdogs s part).mem = s.mem := rfl

@[simp] theorem startHalt_mem (s : State) (part : Nat) :
    (startHalt s part).mem = s.mem := by
  unfold startHalt
  refine foldl_mem _ (fun s x => ?_) _ _
  grind [repause_mem, setPart_mem, haltCore_mem, countWatchdogs_mem]

theorem wf_execHaltComplete {part : BitVec 4} {s t : State}
    (hs : s.mem.wf = true) (h : execHaltComplete part s = .next t) : t.mem.wf = true := by
  unfold execHaltComplete at h
  dsimp only at h
  split at h
  · cases h; exact hs
  · rw [← Host.Outcome.next.inj h, ctxEvent_mem, setPart_mem]
    exact wf_foldl hs fun s c hs => wf_drainCluster _ hs

@[simp] theorem thaw_mem (s : State) (part : Nat) (st : CtxState) :
    (thaw s part st).mem = s.mem := by
  unfold thaw
  dsimp only
  rw [foldl_mem]
  · rfl
  · intro s core
    rw [repause_mem, acquireAt_mem, upTo_mem]
    · rfl
    · intro s k
      split
      · exact setThread_mem _ _ _
      · rfl

theorem wf_loadCore {s : State} (core : Nat) (x : Saved)
    (hs : s.mem.wf = true) : (loadCore s core x).mem.wf = true := by
  unfold loadCore
  refine wf_putSpad _ _ ?_
  rw [foldl_mem _ (fun _ _ => setThread_mem _ _ _), setCore_mem]
  exact hs

theorem wf_lossKill {s : State} (part core slot : Nat)
    (hs : s.mem.wf = true) : (lossKill s part core slot).mem.wf = true := by
  unfold lossKill
  grind [setPart_mem, wf_killThread]

@[simp] theorem lossSlot7_mem (s : State) (core : Nat) (evec : Bool) :
    (lossSlot7 s core evec).mem = s.mem := by
  unfold lossSlot7
  split <;> simp

theorem wf_applyLoss {s : State} (part : Nat) (l : Loss)
    (hs : s.mem.wf = true) : (applyLoss s part l).mem.wf = true := by
  cases l with
  | thread core slot => exact wf_lossKill _ _ _ hs
  | scratch core chunk => exact wf_of_bytes rfl rfl rfl hs
  | accPair core pair => exact hs
  | cimChunk core chunk => exact hs
  | bobbin core n => exact (congrArg Memory.wf (setBobbin_mem _ _ _ _)).trans hs
  | lock core lo =>
    dsimp only [applyLoss]
    split
    · exact wf_releaseLocks _ _ (by rw [setThread_mem]; exact hs)
    · exact hs
  | entry core copy serial =>
    dsimp only [applyLoss]
    rw [upTo_mem]
    · exact hs
    · intro s k
      split
      · rw [wakeEngine_mem, faultEntry_mem, setEngine_mem]
      · rfl
  | slot7 core evec => exact (congrArg Memory.wf (lossSlot7_mem _ _ _)).trans hs
  | digest core =>
    unfold applyLoss
    rw [lossSlot7_mem]
    refine upTo_keeps (fun s : State => s.mem.wf = true) _ _ (fun s slot hs => wf_lossKill _ _ _ hs) _ ?_
    exact wf_poisonedSpad _ (by rw [setArch_mem]; exact hs)

@[simp] theorem lostMessage_mem (s : State) (key : Nat) :
    (lostMessage s key).mem = s.mem := by
  unfold lostMessage
  grind [answer_mem, takeTrap_mem]

@[simp] theorem deliverBuffered_mem (s : State) (part : Nat) :
    (deliverBuffered s part).mem = s.mem := by
  unfold deliverBuffered
  grind [foldl_mem, setThread_mem, setPart_mem, answer_mem, takeTrap_mem, inboxPut_mem, peerAck_mem, lostMessage_mem]

theorem wf_finishRestore {s : State} (part : Nat) (lost : List Loss)
    (hs : s.mem.wf = true) : (finishRestore s part lost).mem.wf = true := by
  unfold finishRestore
  rw [ctxEvent_mem]
  rw [thaw_mem, setPart_mem, deliverBuffered_mem]
  exact wf_foldl hs fun s l hs => wf_applyLoss _ _ hs

theorem wf_execShadowTransferEnd {part : BitVec 4} {lost : List Loss} {s t : State}
    (hs : s.mem.wf = true) (h : execShadowTransferEnd part lost s = .next t) : t.mem.wf = true := by
  unfold execShadowTransferEnd at h
  dsimp only at h
  split at h
  · cases h; exact hs
  · split at h
    · rw [← Host.Outcome.next.inj h, ctxEvent_mem, setPart_mem]
      refine wf_foldl hs fun s c hs => ?_
      rw [setCore_mem]; exact wf_freeCore _ hs
    · split at h
      · rw [← Host.Outcome.next.inj h]
        refine wf_finishRestore _ _ ?_
        have loaded {f : State → Nat → State} (hf : ∀ s c, s.mem.wf = true → (f s c).mem.wf = true) :
            ((shadowCores s part.toNat).foldl f s).mem.wf = true := wf_foldl hs hf
        split
        · refine wf_ite ?_ ?_
          · rw [ctxEvent_mem, setPart_mem]
            refine loaded fun s c hs => ?_
            split
            · exact hs
            · rw [setCore_mem]; exact wf_loadCore _ _ hs
          · refine loaded fun s c hs => ?_
            split
            · exact hs
            · rw [setCore_mem]; exact wf_loadCore _ _ hs
        · refine loaded fun s c hs => ?_
          split
          · exact hs
          · rw [setCore_mem]; exact wf_loadCore _ _ hs
      · cases h; exact hs

@[simp] theorem abandonSpill_mem (s : State) (part : Nat) (soff : BitVec 24) :
    (abandonSpill s part soff).mem = s.mem := by
  unfold abandonSpill
  simp

@[simp] theorem pauseArea_mem (s : State) (part : Nat) (a : SaveArea) (soff dva : Nat) (kind : BitVec 2) (acc : BitVec 4) :
    (pauseArea s part a soff dva kind acc).mem = s.mem := by
  unfold pauseArea
  simp

theorem wf_spillUnits {s : State} (a : SaveArea) (bs : List Byte) (u n : Nat) (hs : s.mem.wf = true) :
    (spillUnits s a bs u n).1.mem.wf = true := by
  induction n generalizing s bs u with
  | zero => exact hs
  | succ n ih =>
    unfold spillUnits
    grind [→ wf_homeWriteRange]

theorem wf_spillHeader {s : State} (part : Nat) (a : SaveArea)
    (hs : s.mem.wf = true) : (spillHeader s part a).mem.wf = true := by
  unfold spillHeader
  dsimp only
  split
  · rw [pauseArea_mem]; exact hs
  · exact hs
  · rw [abandonSpill_mem]; exact hs
  next written =>
    have hw := wf_homeWriteRange hs written
    rw [ctxEvent_mem, setPart_mem]
    refine wf_ite (wf_foldl hw fun s c hs => ?_) (wf_foldl hw fun s c hs => wf_freeCore c hs)
    rw [setCore_mem]
    exact hs

theorem wf_spillStep {s : State} (part : Nat) (a : SaveArea)
    (hs : s.mem.wf = true) : (spillStep s part a).mem.wf = true := by
  unfold spillStep
  grind [setPart_mem, abandonSpill_mem, pauseArea_mem, wf_spillHeader, wf_spillUnits]

theorem wf_execSpillEnd {part : BitVec 4} {ok : Bool} {s t : State}
    (hs : s.mem.wf = true) (h : execSpillEnd part ok s = .next t) : t.mem.wf = true := by
  unfold execSpillEnd at h
  grind [abandonSpill_mem, wf_spillStep]

theorem wf_checkRecord {s : State} {a : SaveArea} {core i : Nat} {lost : List Loss} {r : State × List Loss}
    (hs : s.mem.wf = true) (h : checkRecord s a core i lost = .ok r) : r.1.mem.wf = true := by
  unfold checkRecord at h
  simp only [bind_eq_ok, pure_eq_ok] at h
  grind [→ wf_homeReadRange]

theorem wf_failRestore {s : State} (part : Nat) (cause : Byte)
    (hs : s.mem.wf = true) : (failRestore s part cause).mem.wf = true := by
  unfold failRestore
  grind [setPart_mem, wf_settle, wf_faultBound, ctxEvent_mem]

theorem wf_restoreStep {s : State} (part : Nat) (a : SaveArea) (lost : List Loss)
    (hs : s.mem.wf = true) : (restoreStep s part a lost).mem.wf = true := by
  have kept (core i : Nat) (r : State × List Loss) : checkRecord s a core i lost = .ok r → r.1.mem.wf = true := wf_checkRecord hs
  rw [restoreStep]
  -- checking a record reads 0x1A0 units: the kernel must not be made to evaluate it
  generalize checkRecord = check at kept ⊢
  as_aux_lemma =>
    split
    · exact wf_finishRestore _ _ hs
    next c _ =>
      cases checked : check s a c.1 (recordsDone (s.part part)) lost with
      | ok y =>
        have loaded := wf_loadCore c.1 c.2 (kept _ _ _ checked)
        simp only
        refine wf_ite (wf_finishRestore _ _ ?_) (wf_foldl ?_ fun s l hs => wf_applyLoss _ _ hs)
        · rw [setPart_mem]; exact loaded
        · rw [setPart_mem]; exact loaded
      | error e =>
        cases e with
        | page dva k acc eval => exact (congrArg Memory.wf (pauseArea_mem _ _ _ _ _ _ _)).trans hs
        | hold => exact hs
        | trap | poison | ats | park | walk => exact wf_failRestore _ _ hs

theorem wf_execRestoreEnd {part : BitVec 4} {lost : List Loss} {fatal : Option Byte} {s t : State}
    (hs : s.mem.wf = true) (h : execRestoreEnd part lost fatal s = .next t) : t.mem.wf = true := by
  unfold execRestoreEnd at h
  grind [wf_failRestore, wf_restoreStep]

@[simp] theorem renameKeys_mem (s : State) (part c t : Nat) (kids : List W64) :
    (renameKeys s part c t kids).mem = s.mem := rfl

theorem wf_moveContext {s : State} (c t : Nat)
    (hs : s.mem.wf = true) : (moveContext s c t).mem.wf = true := by
  simp only [moveContext, setCore_mem, renameKeys_mem]
  refine wf_freeCore _ ?_
  rw [upTo_mem _ _ (fun _ _ => widenScope_mem _ _ _ _)]
  exact wf_loadCore _ _ hs

theorem wf_execMigrationEnd {core : Nat} {s t : State}
    (hs : s.mem.wf = true) (h : execMigrationEnd core s = .next t) : t.mem.wf = true := by
  unfold execMigrationEnd at h
  grind [repause_mem, ctxEvent_mem, wf_moveContext]

@[simp] theorem ctxDone_mem (s s0 : State) (d : Reg) (part res : Nat) : (ctxDone s s0 d part res).mem = s.mem := rfl

@[simp] theorem ctxBad_mem (s : State) (d : Reg) :
    (ctxBad s d).mem = s.mem := rfl

theorem wf_execMigr {b a d : Reg} {s t : State}
    (hs : s.mem.wf = true) (h : execMigr b a d s = .next t) : t.mem.wf = true := by
  refine wf_privileged hs (fun u h => ?_) h
  grind [repause_mem, setCore_mem, ctxBad_mem, haltCore_mem, ctxDone_mem]

theorem wf_execCtxhalt {b a d : Reg} {s t : State}
    (hs : s.mem.wf = true) (h : execCtxhalt b a d s = .next t) : t.mem.wf = true := by
  refine wf_privileged hs (fun u h => ?_) h
  grind [ctxBad_mem, ctxDone_mem, startHalt_mem]

theorem wf_readNow {s : State} {key : Nat} {ea : W64} {r : State × W64}
    (hs : s.mem.wf = true) (h : readNow s key ea = .ok r) : r.1.mem.wf = true := by
  unfold readNow at h
  simp only [bind, Except.bind, pure, Except.pure] at h
  grind [→ wf_resolve, → wf_bytesNow]

theorem wf_readArea {s : State} {key : Nat} {ea : W64} {r : State × Nat × Nat}
    (hs : s.mem.wf = true) (h : readArea s key ea = .ok r) : r.1.mem.wf = true := by
  unfold readArea at h
  simp only [bind, Except.bind, pure, Except.pure] at h
  grind [→ wf_readNow]

theorem wf_execCtxsave {b a d : Reg} {s t : State}
    (hs : s.mem.wf = true) (h : execCtxsave b a d s = .next t) : t.mem.wf = true := by
  refine wf_privileged hs (fun u h => wf_of_run hs (fun v h => ?_) h) h
  simp only [bind, Except.bind, pure, Except.pure] at h
  grind [setPart_mem, ctxBad_mem, ctxDone_mem, → wf_readArea]

theorem wf_readHeader {s : State} {key base : Nat} {r : State × List Byte}
    (hs : s.mem.wf = true) (h : readHeader s key base = .ok r) : r.1.mem.wf = true := by
  unfold readHeader at h
  simp only [bind_eq_ok, pure_eq_ok] at h
  obtain ⟨x, read, rfl⟩ := h
  refine foldl_ok (fun r => r.1.mem.wf = true) (fun _ _ => rfl) (fun r i r1 hr h => ?_) hs read
  simp only [bind_eq_ok, pure_eq_ok, Except.ok.injEq, exists_eq_left'] at h
  obtain ⟨y, word, rfl⟩ := h
  exact wf_readNow hr word

theorem wf_execCtxrest {b a d : Reg} {s t : State}
    (hs : s.mem.wf = true) (h : execCtxrest b a d s = .next t) : t.mem.wf = true := by
  have done {t : State} (d : Reg) (n res : Nat) (ht : t.mem.wf = true) : (ctxDone t s d n res).mem.wf = true := by
    rw [ctxDone_mem]; exact ht
  refine wf_privileged hs (fun u h => wf_of_run hs (fun v h => ?_) h) h
  dsimp only at h
  split at h
  · cases h; rw [ctxBad_mem]; exact hs
  · split at h
    · cases h; exact done _ _ _ hs
    · split at h
      · cases h; exact done _ _ _ hs
      · split at h
        · cases h; exact done _ _ _ hs
        · split at h
          · split at h
            · rw [← Except.ok.inj h]; exact done _ _ _ (by rw [thaw_mem, setPart_mem]; exact hs)
            · split at h
              · cases h; exact done _ _ _ hs
              · split at h
                · cases h; exact done _ _ _ hs
                · split at h <;> cases h
                  · exact done _ _ _ (by rw [setPart_mem, setPart_mem]; exact hs)
                  · exact done _ _ _ (by rw [setPart_mem]; exact hs)
          · split at h
            · cases h; exact done _ _ _ hs
            · obtain ⟨⟨s1, base, len⟩, area, h⟩ := bind_eq_ok.mp h
              have h1 := wf_readArea hs area
              split at h
              · cases h; exact done _ _ _ h1
              · obtain ⟨⟨s2, hd⟩, header, h⟩ := bind_eq_ok.mp h
                have h2 := wf_readHeader h1 header
                split at h
                · cases h; exact done _ _ _ h2
                · rw [← Except.ok.inj h]; exact done _ _ _ (by rw [setPart_mem]; exact h2)

/-! ## The copy engine -/

theorem mem_cpyBody {kind : BitVec 2} {follow : BitVec 1} {b a d : Reg} {p0 p1 p2 p3 : W32} {s t : State}
    (h : cpyBody kind follow b a d p0 p1 p2 p3 s = .ok t) : t.mem = s.mem := by
  unfold cpyBody at h
  simp only [bind, Except.bind] at h
  grind [mem_enqueueBody]

theorem wf_copyRead {s : State} {key : Nat} {ea : W64} {n pos : Nat} {ext : ExtReply} {r : State × List Byte}
    (hs : s.mem.wf = true) (h : copyRead s key ea n pos ext = .ok r) : r.1.mem.wf = true := by
  unfold copyRead at h
  simp only [bind, Except.bind, pure, Except.pure] at h
  grind [→ wf_resolve, → wf_bytesNow]

theorem wf_sinkPiece {s : State} {key slot : Nat} {sink : CopySink} {pos : Nat} {bs : List Byte} {t : State}
    (hs : s.mem.wf = true) (h : sinkPiece s key slot sink pos bs = .ok t) : t.mem.wf = true := by
  unfold sinkPiece at h
  dsimp only at h
  split at h
  · obtain ⟨ea, -, h⟩ := bind_eq_ok.mp h
    exact wf_engineStore hs h
  · obtain ⟨-, h⟩ := stop_else_eq_ok.mp h
    cases h
    exact wf_spadWrite _ _ _ hs
  · cases h
    exact hs

theorem wf_copyPieces {s : State} (fuel key : Nat) (src : W64) (sink : CopySink) (el : Nat) (ext : ExtReply)
    (first pos stop : Nat) (hs : s.mem.wf = true) : (copyPieces fuel s key src sink el ext first pos stop).1.mem.wf = true := by
  induction fuel generalizing s pos with
  | zero => exact hs
  | succ fuel ih =>
    have piece (n : Nat) (t : State) (h : (do
        let ea ← rowAddr src pos
        let (s, bs) ← copyRead s key ea n (pos - first) ext
        sinkPiece s key (slotOf key) sink pos bs) = .ok t) : t.mem.wf = true := by
      obtain ⟨ea, -, h⟩ := bind_eq_ok.mp h
      obtain ⟨r, read, sunk⟩ := bind_eq_ok.mp h
      exact wf_sinkPiece (wf_copyRead hs read) sunk
    unfold copyPieces
    dsimp only
    split
    · exact hs
    · split
      · exact ih _ (piece _ _ ‹_›)
      · exact ih _ (piece _ _ ‹_›)
      · exact hs
      · exact hs

@[simp] theorem copyPage_mem (s : State) (core : Nat) (urgent : Bool) (e : Entry) (row : W64) (dva : Nat) (kind : BitVec 2)
    (acc : BitVec 4) (ea : W64) :
    (copyPage s core urgent e row dva kind acc ea).mem = s.mem := by
  unfold copyPage
  simp

@[simp] theorem copyAts_mem (s : State) (core : Nat) (urgent : Bool) (e : Entry) (page : Nat) (ea : W64) :
    (copyAts s core urgent e page ea).mem = s.mem := by
  unfold copyAts
  simp

@[simp] theorem copyAfter_mem (s : State) (core : Nat) (urgent : Bool) (e : Entry) (srcRow : W64) (sink : CopySink) (rowb pos : Nat)
    (stop : Option Stop) :
    (copyAfter s core urgent e srcRow sink rowb pos stop).mem = s.mem := by
  cases stop with
  | some e =>
    cases e with
    | page => exact copyPage_mem _ _ _ _ _ _ _ _ _
    | ats => exact copyAts_mem _ _ _ _ _ _
    | trap | hold | poison | park | walk => exact setHead_mem _ _ _ _ _
  | none =>
    unfold copyAfter
    dsimp only
    split
    · exact setHead_mem _ _ _ _ _
    · rw [setHead_mem]
      split <;> simp

theorem wf_copyUnit {s : State} (core : Nat) (urgent : Bool) (e : Entry) (kind : BitVec 2) (src dst : W64) (sp dp : Int) (rowb el : Nat)
    (sink : CopySink) (ext : ExtReply)
    (hs : s.mem.wf = true) : (copyUnit s core urgent e kind src dst sp dp rowb el sink ext).mem.wf = true := by
  unfold copyUnit
  grind [setHead_mem, wf_copyPieces, copyAfter_mem]

theorem wf_execCopyRow {core : Nat} {urgent : Bool} {ext : ExtReply} {s t : State}
    (hs : s.mem.wf = true) (h : execCopyRow core urgent ext s = .next t) : t.mem.wf = true := by
  unfold execCopyRow at h
  split at h
  · cases h; exact hs
  · dsimp only at h
    split at h
    · split at h
      · cases h; exact hs
      · split at h
        · cases h; rw [setHead_mem]; exact hs
        · split at h
          · cases h; exact wf_copyUnit _ _ _ _ _ _ _ _ _ _ _ _ hs
          · split at h
            · split at h
              · cases h; exact wf_copyUnit _ _ _ _ _ _ _ _ _ _ _ _ hs
              · split at h
                · cases h; rw [setHead_mem]; exact hs
                · split at h
                  · cases h
                    exact wf_copyUnit _ _ _ _ _ _ _ _ _ _ _ _ (by rw [setBobbin_mem]; exact hs)
                  · cases h
                    rw [setHead_mem]
                    split
                    · exact hs
                    · rw [setBobbin_mem]; exact hs
            · split at h
              · split at h
                · cases h; rw [setHead_mem]; exact hs
                · cases h; exact hs
              · cases h
                refine wf_copyUnit _ _ _ _ _ _ _ _ _ _ _ _ ?_
                split
                · exact hs
                · rw [setArch_mem]; exact hs
    · cases h; exact hs

theorem mem_execCopyEnd {core : Nat} {urgent : Bool} {s t : State}
    (h : execCopyEnd core urgent s = .next t) : t.mem = s.mem := by
  unfold execCopyEnd at h
  grind [setArch_mem, endEntry_mem]

/-! ## Pages -/

@[simp] theorem dropPages_mem (s : State) (part v len : Nat) :
    (dropPages s part v len).mem = s.mem := rfl

theorem wf_flushPages {s : State} (part v len : Nat)
    (hs : s.mem.wf = true) : (flushPages s part v len).mem.wf = true := by
  refine wf_foldl hs fun s clu hs => wf_foldl (wf_flushWb _ hs) fun s k hs => ?_
  rw [dropLine_mem]
  exact wf_writeBackLine _ _ hs

theorem wf_execPinv {b a d : Reg} {s t : State}
    (hs : s.mem.wf = true) (h : execPinv b a d s = .next t) : t.mem.wf = true := by
  refine wf_privileged hs (fun u h => wf_of_run hs (fun v h => ?_) h) h
  simp only [pure, Except.pure] at h
  grind [dropPages_mem, finishG_mem, wf_flushPages]

theorem wf_execPprobe {a d : Reg} {s t : State}
    (hs : s.mem.wf = true) (h : execPprobe a d s = .next t) : t.mem.wf = true := by
  refine wf_of_run hs (fun u h => ?_) h
  simp only [] at h
  grind [finishG_mem]

@[simp] theorem answerProbes_mem (s : State) (clu part dva : Nat) (r : Option Leaf) :
    (answerProbes s clu part dva r).mem = s.mem := by
  unfold answerProbes
  refine foldl_mem _ (fun s x => ?_) _ _
  grind [answer_mem]

theorem wf_execTableWalkEnd {clu : Nat} {part : BitVec 4} {dva : Nat} {acc : BitVec 4} {src : BitVec 5} {s t : State}
    (hs : s.mem.wf = true) (h : execTableWalkEnd clu part dva acc src s = .next t) : t.mem.wf = true := by
  unfold execTableWalkEnd at h
  grind [setCluster_mem, wf_setAD, joinRecords_mem, answerProbes_mem]

@[simp] theorem wakeDropped_mem (s : State) (part key : Nat) :
    (wakeDropped s part key).mem = s.mem := by
  unfold wakeDropped
  grind [setThread_mem, repauseIf6_mem, bufferReply_mem]

@[simp] theorem refuseDropped_mem (s : State) (part key : Nat) (eval : W64) :
    (refuseDropped s part key eval).mem = s.mem := by
  unfold refuseDropped
  grind [bufferReply_mem, trapOut_mem]

@[simp] theorem heldHead_mem (s : State) (core : Nat) (copy urgent : Bool) (f : Entry → Entry) :
    (heldHead s core copy urgent f).mem = s.mem := by
  unfold heldHead
  grind [setHead_mem]

@[simp] theorem streamPage_mem (s : State) (core slot n dva : Nat) (refuse : Bool) :
    (streamPage s core slot n dva refuse).mem = s.mem := rfl

theorem wf_wakeJoined {s : State} (part dva : Nat) (j : Joined)
    (hs : s.mem.wf = true) : (wakeJoined part dva s j).mem.wf = true := by
  unfold wakeJoined
  grind [setPart_mem, setRun_mem, wf_validateKernel, wakeDropped_mem, heldHead_mem, streamPage_mem, wf_peerPage]

theorem wf_refuseJoined {s : State} (part dva : Nat) (j : Joined)
    (hs : s.mem.wf = true) : (refuseJoined part dva s j).mem.wf = true := by
  unfold refuseJoined
  grind [answer_mem, withdrawSkein_mem, bufferReply_mem, wf_deliver, setRun_mem, runTrap_mem, wf_failValidation, abandonSpill_mem,
      wf_failRestore, heldHead_mem, streamPage_mem, wf_peerPage, refuseDropped_mem]

theorem wf_endRecord {s : State} (die : Nat) (rid : W32) {f : Nat → Nat → State → Joined → State}
    (hf : ∀ part dva s j, s.mem.wf = true → (f part dva s j).mem.wf = true) (hs : s.mem.wf = true) :
    (endRecord s die rid f).mem.wf = true := by
  unfold endRecord
  dsimp only
  split
  · exact hs
  · exact wf_foldl (by rw [setDie_mem]; exact hs) (hf _ _)

theorem wf_execPgwakeWake {die : BitVec 2} {rid : W32} {s t : State}
    (hs : s.mem.wf = true) (h : execPgwakeWake die rid s = .next t) : t.mem.wf = true := by
  cases h
  exact wf_endRecord _ _ (fun _ _ _ _ => wf_wakeJoined _ _ _) hs

theorem wf_execPgwakeRefuse {die : BitVec 2} {rid : W32} {s t : State}
    (hs : s.mem.wf = true) (h : execPgwakeRefuse die rid s = .next t) : t.mem.wf = true := by
  cases h
  exact wf_endRecord _ _ (fun _ _ _ _ => wf_refuseJoined _ _ _) hs

theorem wf_atsWake {s : State} (page : Nat) (j : Joined)
    (hs : s.mem.wf = true) : (atsWake page s j).mem.wf = true := by
  unfold atsWake
  grind [wakeDropped_mem, wf_wakeJoined]

theorem wf_atsRefuse {s : State} (page : Nat) (j : Joined)
    (hs : s.mem.wf = true) : (atsRefuse page s j).mem.wf = true := by
  unfold atsRefuse
  grind [heldHead_mem, refuseDropped_mem, wf_refuseJoined]

theorem wf_execAtsResponse {page : Nat} {ok : Bool} {s t : State}
    (hs : s.mem.wf = true) (h : execAtsResponse page ok s = .next t) : t.mem.wf = true := by
  unfold execAtsResponse at h
  dsimp only at h
  split at h
  · cases h
    split
    · exact hs
    · rw [send_mem]; exact hs
  · rw [← Host.Outcome.next.inj h]
    refine wf_foldl hs fun s j hs => ?_
    split
    · exact wf_atsWake _ _ hs
    · exact wf_atsRefuse _ _ hs

theorem mem_execAtsInvalidation {page count : Nat} {s t : State}
    (h : execAtsInvalidation page count s = .next t) : t.mem = s.mem := by
  unfold execAtsInvalidation at h
  grind [send_mem]

/-! ## Leases -/

@[simp] theorem setLease_mem (s : State) (part n : Nat) (x : Lease) :
    (State.setLease s part n x).mem = s.mem := rfl

@[simp] theorem leaseEvent_mem (s : State) (part n : Nat) :
    (leaseEvent s part n).mem = s.mem := by
  unfold leaseEvent
  simp

theorem wf_rewriteLeaves {s : State} (part n base : Nat) (f : Nat → W64 → W64)
    (hs : s.mem.wf = true) : (rewriteLeaves s part n base f).mem.wf = true := by
  unfold rewriteLeaves
  refine upTo_keeps (fun s : State => s.mem.wf = true) _ _ (fun s j hs => ?_) s hs
  dsimp only
  split
  · exact wf_ite (wf_withMem (wf_ramWrite _ _ hs)) hs
  · exact hs

@[simp] theorem wakeLease_mem (s : State) (part base len : Nat) (gone : Bool) :
    (wakeLease s part base len gone).mem = s.mem := by
  unfold wakeLease
  grind [foldl_mem, answer_mem, answerOff_mem]

theorem wf_demoteGranule {s : State} (part n g : Nat) (data : Mem) (count : Bool)
    (hs : s.mem.wf = true) : (demoteGranule s part n g data count).mem.wf = true := by
  rw [demoteGranule, wakeLease_mem, setLease_mem, dropPages_mem]
  exact wf_rewriteLeaves _ _ _ _ (wf_withMem (wf_fillFrame _ _ hs))

@[simp] theorem beginReclaim_mem (s : State) (part n : Nat) :
    (beginReclaim s part n).mem = s.mem := by
  unfold beginReclaim
  dsimp only
  split <;> simp

theorem wf_revokeLease {s : State} (part n : Nat)
    (hs : s.mem.wf = true) : (revokeLease s part n).mem.wf = true := by
  simp only [revokeLease, leaseEvent_mem]
  rw [foldl_mem, setLease_mem]
  · refine wf_foldl_of_eq ?_ fun s g t hs demoted => demoted ▸ wf_demoteGranule _ _ _ _ _ hs
    exact wf_ite (by rw [setLease_mem]; exact hs) hs
  · intro s g
    rw [wakeLease_mem]

theorem wf_execLeaseGrant {part : BitVec 4} {n : Byte} {ngrant : BitVec 12} {tEvict termEnd : Nat} {frames : List Nat} {s t : State}
    (hs : s.mem.wf = true) (h : execLeaseGrant part n ngrant tEvict termEnd frames s = .next t) : t.mem.wf = true := by
  unfold execLeaseGrant at h
  grind [wf_settle, setLease_mem, tokenSignal_mem]

theorem wf_execLeaseDeny {part : BitVec 4} {n : Byte} {s t : State}
    (hs : s.mem.wf = true) (h : execLeaseDeny part n s = .next t) : t.mem.wf = true := by
  unfold execLeaseDeny at h
  grind [tokenError_mem, wf_settle, setLease_mem, leaseEvent_mem]

theorem mem_execLeaseReclaim {part : BitVec 4} {n : Byte} {s t : State}
    (h : execLeaseReclaim part n s = .next t) : t.mem = s.mem := by
  unfold execLeaseReclaim at h
  grind [beginReclaim_mem]

theorem mem_execLeaseTermEnd {part : BitVec 4} {n : Byte} {s t : State}
    (h : execLeaseTermEnd part n s = .next t) : t.mem = s.mem := by
  unfold execLeaseTermEnd at h
  grind [beginReclaim_mem]

theorem wf_execReclaimGranuleCopy {part : BitVec 4} {n : Byte} {granule : Nat} {data : List Host.Cell} {s t : State}
    (hs : s.mem.wf = true) (h : execReclaimGranuleCopy part n granule data s = .next t) : t.mem.wf = true := by
  unfold execReclaimGranuleCopy at h
  grind [wf_demoteGranule]

theorem mem_execLeaseAck {part : BitVec 4} {n : Byte} {s t : State}
    (h : execLeaseAck part n s = .next t) : t.mem = s.mem := by
  unfold execLeaseAck at h
  grind [send_mem, setLease_mem, leaseEvent_mem]

theorem wf_execReclaimDeadline {part : BitVec 4} {n : Byte} {s t : State}
    (hs : s.mem.wf = true) (h : execReclaimDeadline part n s = .next t) : t.mem.wf = true := by
  unfold execReclaimDeadline at h
  grind [wf_revokeLease]

theorem wf_revokeFailed {s : State} 
    (hs : s.mem.wf = true) : (revokeFailed s).mem.wf = true := by
  refine wf_foldl hs fun s p hs => wf_foldl hs fun s l hs => wf_ite (wf_revokeLease _ _ hs) hs

theorem wf_leaseBlock {s : State} {key : Nat} {ea : W64} {r : State × List Place}
    (hs : s.mem.wf = true) (h : leaseBlock s key ea = .ok r) : r.1.mem.wf = true := by
  unfold leaseBlock at h
  simp only [bind_eq_ok] at h
  grind [→ wf_resolveRange]

@[simp] theorem leaseSent_mem (s : State) (key : Nat) (bs : List Byte) :
    (leaseSent s key bs).mem = s.mem := rfl

theorem wf_execLreq {a d : Reg} {s t : State}
    (hs : s.mem.wf = true) (h : execLreq a d s = .next t) : t.mem.wf = true := by
  refine wf_of_run hs (fun u h => ?_) h
  simp only [bind, Except.bind, pure, Except.pure] at h
  grind [parkMe_mem, → wf_readPlaces, → wf_leaseBlock, leaseSent_mem]

theorem wf_leaseRead {s : State} {key : Nat} {ea : W64} {t : State}
    (hs : s.mem.wf = true) (h : leaseRead s key ea = .ok t) : t.mem.wf = true := by
  unfold leaseRead at h
  simp only [error_bind, bind_eq_ok, pure_eq_ok, stop_else_eq_ok] at h
  obtain ⟨x, block, y, read, -, rfl⟩ := h
  rw [leaseSent_mem]
  exact wf_readPlaces (wf_leaseBlock hs block) read

@[simp] theorem leaseRequest_mem (s : State) (key : Nat) (w : Wait) (d : Reg) :
    (leaseRequest s key w d).mem = s.mem := by
  unfold leaseRequest
  dsimp only
  split <;> simp

theorem wf_execLrel {b a d : Reg} {s t : State}
    (hs : s.mem.wf = true) (h : execLrel b a d s = .next t) : t.mem.wf = true := by
  refine wf_of_run hs (fun u h => ?_) h
  dsimp only at h
  split at h
  · cases h; exact hs
  · split at h
    · cases h; rw [finishG_mem, setLease_mem]; exact hs
    · split at h
      · cases h; exact hs
      · split at h
        · cases h; rw [finishG_mem, beginReclaim_mem]; exact hs
        · rw [← Except.ok.inj h, finishG_mem, leaseEvent_mem, setLease_mem, dropPages_mem]
          exact wf_foldl_of_eq hs fun s g t hs rewritten => rewritten ▸ wf_rewriteLeaves _ _ _ _ hs

theorem mem_execLqry {n : BitVec 5} {a d : Reg} {s t : State}
    (h : execLqry n a d s = .next t) : t.mem = s.mem := by
  unfold execLqry at h
  grind [finishG_mem]

/-! ## The ports of the fabric -/

@[simp] theorem staleSubs_mem (s : State) :
    (staleSubs s).mem = s.mem := rfl

@[simp] theorem failFences_mem (s : State) :
    (failFences s).mem = s.mem := rfl

@[simp] theorem failKernels_mem (s : State) :
    (failKernels s).mem = s.mem := rfl

@[simp] theorem failMcsts_mem (s : State) :
    (failMcsts s).mem = s.mem := by
  unfold failMcsts
  refine foldl_mem _ (fun s x => ?_) _ _
  grind [mcstFail_mem]

theorem wf_peersChanged {s : State} 
    (hs : s.mem.wf = true) : (peersChanged s).mem.wf = true := by
  unfold peersChanged
  grind [wf_revokeFailed, staleSubs_mem, failMcsts_mem, failKernels_mem, failFences_mem]

theorem wf_setPort {s : State} (port : BitVec 4) (st : PortState)
    (hs : s.mem.wf = true) : (setPort s port st).mem.wf = true := by
  unfold setPort
  grind [wf_peersChanged, noteRemaps_mem]

@[simp] theorem portEvent_mem (s : State) (port : BitVec 4) (st : PortState) :
    (portEvent s port st).mem = s.mem := by
  unfold portEvent
  simp

theorem wf_movePort {s : State} (port : BitVec 4) (p : PortState → Bool) (st : PortState) (event : Bool)
    (hs : s.mem.wf = true) : (movePort s port p st event).mem.wf = true := by
  unfold movePort
  grind [portEvent_mem, wf_setPort]

theorem wf_execPortcEnable {port : BitVec 4} {s t : State}
    (hs : s.mem.wf = true) (h : execPortcEnable port s = .next t) : t.mem.wf = true := by
  unfold execPortcEnable at h
  grind [wf_movePort]

theorem wf_execPortcFence {port : BitVec 4} {s t : State}
    (hs : s.mem.wf = true) (h : execPortcFence port s = .next t) : t.mem.wf = true := by
  unfold execPortcFence at h
  grind [wf_movePort]

theorem wf_execPortcDisable {port : BitVec 4} {s t : State}
    (hs : s.mem.wf = true) (h : execPortcDisable port s = .next t) : t.mem.wf = true := by
  unfold execPortcDisable at h
  grind [wf_movePort]

theorem wf_execTrainingTimeout {port : BitVec 4} {s t : State}
    (hs : s.mem.wf = true) (h : execTrainingTimeout port s = .next t) : t.mem.wf = true := by
  unfold execTrainingTimeout at h
  grind [wf_movePort]

theorem wf_execLinkError {port : BitVec 4} {s t : State}
    (hs : s.mem.wf = true) (h : execLinkError port s = .next t) : t.mem.wf = true := by
  unfold execLinkError at h
  grind [wf_movePort]

theorem wf_execRetrainComplete {port : BitVec 4} {s t : State}
    (hs : s.mem.wf = true) (h : execRetrainComplete port s = .next t) : t.mem.wf = true := by
  unfold execRetrainComplete at h
  grind [wf_movePort]

theorem wf_execRetrainTimeout {port : BitVec 4} {s t : State}
    (hs : s.mem.wf = true) (h : execRetrainTimeout port s = .next t) : t.mem.wf = true := by
  unfold execRetrainTimeout at h
  grind [wf_movePort]

theorem wf_execPartnerLost {port : BitVec 4} {s t : State}
    (hs : s.mem.wf = true) (h : execPartnerLost port s = .next t) : t.mem.wf = true := by
  unfold execPartnerLost at h
  grind [wf_movePort]

theorem wf_execSwitchNoPath {pkg : BitVec 10} {lost : Bool} {s t : State}
    (hs : s.mem.wf = true) (h : execSwitchNoPath pkg lost s = .next t) : t.mem.wf = true := by
  unfold execSwitchNoPath at h
  grind [wf_peersChanged]

@[simp] theorem shiftAll_mem (s : State) (k : Nat) :
    (shiftAll s k).mem = s.mem := rfl

@[simp] theorem loadTim_mem (s : State) (domain : Nat) :
    (loadTim s domain).mem = s.mem := by
  unfold loadTim
  grind [shiftAll_mem]

theorem wf_execTrainingComplete {port : BitVec 4} {domain : W64} {s t : State}
    (hs : s.mem.wf = true) (h : execTrainingComplete port domain s = .next t) : t.mem.wf = true := by
  unfold execTrainingComplete at h
  grind [wf_setPort, loadTim_mem]

/-! ## Control and status registers -/

@[simp] theorem popEvent_mem (s : State) (die : Nat) :
    (popEvent s die).1.mem = s.mem := by
  unfold popEvent
  dsimp only
  split <;> simp

@[simp] theorem popPager_mem (s : State) (die : Nat) :
    (popPager s die).1.mem = s.mem := by
  unfold popPager
  dsimp only
  split <;> simp

@[simp] theorem readEvstat_mem (s : State) (die : Nat) :
    (readEvstat s die).1.mem = s.mem := by
  unfold readEvstat
  dsimp only
  split <;> simp

theorem mem_execEvpop {die : BitVec 2} {s t : State}
    (h : execEvpop die s = .next t) : t.mem = s.mem := by
  unfold execEvpop at h
  grind [send_mem, popEvent_mem]

theorem mem_execPgpop {die : BitVec 2} {s t : State}
    (h : execPgpop die s = .next t) : t.mem = s.mem := by
  unfold execPgpop at h
  grind [send_mem, popPager_mem]

theorem mem_execEvstatClear {die : BitVec 2} {_v : W64} {s t : State}
    (h : execEvstatClear die _v s = .next t) : t.mem = s.mem := by
  unfold execEvstatClear at h
  grind [setDie_mem]

@[simp] theorem restartSlot7_mem (s : State) (core : Nat) :
    (restartSlot7 s core).mem = s.mem := rfl

theorem wf_execEscalKillServed {core : Nat} {s t : State}
    (hs : s.mem.wf = true) (h : execEscalKillServed core s = .next t) : t.mem.wf = true := by
  unfold execEscalKillServed at h
  grind [wf_killThread, restartSlot7_mem]

theorem wf_execEscalKillAll {core : Nat} {s t : State}
    (hs : s.mem.wf = true) (h : execEscalKillAll core s = .next t) : t.mem.wf = true := by
  unfold execEscalKillAll at h
  rw [← Host.Outcome.next.inj h, restartSlot7_mem]
  refine upTo_keeps (fun s : State => s.mem.wf = true) _ _ (fun s slot hs => ?_) _ hs
  exact wf_killThread (keyOf core slot) (killCause s core slot) hs

theorem wf_stateOf {s : State} {o : Out} (hs : s.mem.wf = true) (ho : ∀ t, o = .next t → t.mem.wf = true) :
    (stateOf s o).mem.wf = true := by
  cases o with
  | next t => exact ho t rfl
  | refused => exact hs
  | fault => exact hs

@[simp] theorem readM_mem (s : State) (die n idx : Nat) :
    (readM s die n idx).1.mem = s.mem := by
  unfold readM
  dsimp only
  split <;> simp

@[simp] theorem setPartIf_mem (s : State) (idx : Nat) (f : Partition → Partition) :
    (setPartIf s idx f).mem = s.mem := by
  unfold setPartIf
  split <;> simp

@[simp] theorem setDieIf_mem (s : State) (idx : Nat) (f : Die → Die) :
    (setDieIf s idx f).mem = s.mem := by
  unfold setDieIf
  split <;> simp

theorem wf_writeM {s : State} (die n idx : Nat) (v : W64)
    (hs : s.mem.wf = true) : (writeM s die n idx v).mem.wf = true := by
  have kept {o : Out} (ho : ∀ t, o = .next t → t.mem.wf = true) : (stateOf s o).mem.wf = true := wf_stateOf hs ho
  have same {o : Out} (ho : ∀ t, o = .next t → t.mem = s.mem) : (stateOf s o).mem.wf = true :=
    wf_stateOf hs fun t ht => by rw [ho t ht]; exact hs
  unfold writeM
  dsimp only
  split
  · rw [setDie_mem]; exact hs
  · exact wf_ite (same fun _ => mem_execCpartWrite) hs
  · rw [setPartIf_mem]; exact hs
  · exact wf_ite (by rw [setPart_mem]; exact hs) hs
  · rw [setPartIf_mem]; exact hs
  · rw [setPartIf_mem]; exact hs
  · rw [setPartIf_mem]; exact hs
  · rw [setPartIf_mem]; exact hs
  · rw [setPartIf_mem]; exact hs
  · exact wf_ite (same fun _ => mem_execMreqWrite) hs
  · exact hs
  · exact wf_ite (wf_peersChanged (by rw [noteRemaps_mem]; exact hs)) hs
  · exact wf_ite hs (wf_ite (kept fun _ => wf_execPortcEnable hs) (wf_ite (kept fun _ => wf_execPortcFence hs)
      (wf_ite (kept fun _ => wf_execPortcDisable hs) hs)))
  · exact wf_ite (kept fun _ => wf_execPgwakeRefuse hs) (kept fun _ => wf_execPgwakeWake hs)
  · exact same fun _ => mem_execEvstatClear
  · exact wf_ite (by rw [setDieIf_mem]; exact hs) hs
  · rw [setDieIf_mem]; exact hs
  · rw [setDie_mem]; exact hs
  · exact wf_ite hs (wf_ite (kept fun _ => wf_execEscalKillServed hs) (wf_ite (kept fun _ => wf_execEscalKillAll hs) hs))
  · exact hs
  · exact hs
  · exact wf_ite (same fun _ => mem_execHevecWrite) hs
  · exact hs

@[simp] theorem readCsr_mem (s : State) (r : CsrRef) :
    (readCsr s r).1.mem = s.mem := by
  unfold readCsr
  split <;> simp

theorem wf_writeCsr {s : State} {r : CsrRef} {v : W64} {t : State}
    (hs : s.mem.wf = true) (h : writeCsr s r v = some t) : t.mem.wf = true := by
  unfold writeCsr at h
  dsimp only at h
  split at h
  · obtain ⟨x, -, rfl⟩ := Option.map_eq_some_iff.mp h
    rw [setThread_mem]; exact hs
  · cases h; rw [setThread_mem]; exact hs
  · cases h; rw [setThread_mem]; exact hs
  · cases h; rw [setThread_mem]; exact hs
  · cases h; rw [setArch_mem]; exact hs
  · cases h; rw [setArch_mem]; exact hs
  · cases h; rw [setArch_mem]; exact hs
  · cases h
  · split at h
    · cases h; exact wf_writeM _ _ _ _ hs
    · cases h

theorem wf_csrAccess {n : BitVec 12} {d : Reg} {f : Option (W64 → W64)} {s t : State}
    (hs : s.mem.wf = true) (h : csrAccess n d f s = .ok t) : t.mem.wf = true := by
  unfold csrAccess at h
  simp only [bind, Except.bind, pure, Except.pure] at h
  grind [finishG_mem, readCsr_mem, wf_writeCsr]

theorem wf_execCsrr {n : BitVec 12} {d : Reg} {s t : State}
    (hs : s.mem.wf = true) (h : execCsrr n d s = .next t) : t.mem.wf = true := by
  refine wf_of_run hs (fun u h => ?_) h
  grind [→ wf_csrAccess]

theorem wf_execCsrw {n : BitVec 12} {a d : Reg} {s t : State}
    (hs : s.mem.wf = true) (h : execCsrw n a d s = .next t) : t.mem.wf = true := by
  refine wf_of_run hs (fun u h => ?_) h
  grind [→ wf_csrAccess]

theorem wf_execCsrs {n : BitVec 12} {a d : Reg} {s t : State}
    (hs : s.mem.wf = true) (h : execCsrs n a d s = .next t) : t.mem.wf = true := by
  refine wf_of_run hs (fun u h => ?_) h
  grind [→ wf_csrAccess]

theorem wf_execCsrc {n : BitVec 12} {a d : Reg} {s t : State}
    (hs : s.mem.wf = true) (h : execCsrc n a d s = .next t) : t.mem.wf = true := by
  refine wf_of_run hs (fun u h => ?_) h
  grind [→ wf_csrAccess]

@[simp] theorem writeQspill_mem (s : State) (fn q : Nat) (v : W64) :
    (writeQspill s fn q v).mem = s.mem := by
  unfold writeQspill
  dsimp only
  split <;> simp

@[simp] theorem writeWbase_mem (s : State) (fn : Nat) (v : W64) :
    (writeWbase s fn v).mem = s.mem := by
  unfold writeWbase
  split <;> simp

@[simp] theorem writeSubscription_mem (s : State) (part n : Nat) (v : W64) :
    (writeSubscription s part n v).mem = s.mem := rfl

theorem wf_execRegisterWrite {reg : RegAddr} {v : W64} {s t : State}
    (hs : s.mem.wf = true) (h : execRegisterWrite reg v s = .next t) : t.mem.wf = true := by
  unfold execRegisterWrite at h
  grind [wf_settle, writeQcfg_mem, wf_writeM, writeQspill_mem, writeWbase_mem, writeSubscription_mem]

/-! ## What stands between a fetched word and its meaning -/

theorem wf_execNotAnInstruction {word : W32} {priv : Bool} {index : Nat} {s t : State}
    (hs : s.mem.wf = true) (h : execNotAnInstruction word priv index s = .next t) : t.mem.wf = true := by
  refine wf_of_run hs (fun u h => ?_) h
  grind []

theorem wf_execFetchSegmentFault {s t : State}
    (hs : s.mem.wf = true) (h : execFetchSegmentFault s = .next t) : t.mem.wf = true := by
  refine wf_of_run hs (fun u h => ?_) h
  grind []

theorem wf_nextInstr {s : State} {r : State × Instr}
    (hs : s.mem.wf = true) (h : nextInstr s = .ok r) : r.1.mem.wf = true := by
  unfold nextInstr at h
  dsimp only at h
  split at h
  · cases h; exact hs
  · simp only [bind_eq_ok] at h
    obtain ⟨x, fetched, h⟩ := h
    have hx := wf_fetchWord hs fetched
    clear fetched
    split at h
    · cases h; exact hx
    · split at h
      · simp only [bind_eq_ok, pure_eq_ok] at h
        obtain ⟨y, rest, rfl⟩ := h
        exact wf_fetchWords hx rest
      · cases h; exact hx

@[simp] theorem pickFrom_mem (s : State) (core : Nat) (others : Bool) (l : List Nat) :
    (pickFrom s core others l).1.mem = s.mem := by
  induction l generalizing s with
  | nil => rfl
  | cons slot rest ih =>
    unfold pickFrom
    grind [setThread_mem]

@[simp] theorem pickSlot_mem (s : State) (core : Nat) :
    (pickSlot s core).1.mem = s.mem := by
  unfold pickSlot
  grind [foldl_mem, pickFrom_mem]

@[simp] theorem useCycle_mem (s : State) (core : Nat) :
    (useCycle s core).mem = s.mem := rfl

/-! ## Reliability, host attachment and firmware -/

@[simp] theorem countErrors_mem (s : State) (die array uncorr corr : Nat) :
    (countErrors s die array uncorr corr).mem = s.mem := rfl

@[simp] theorem poisonCopy_mem (s : State) (clu key k : Nat) :
    (poisonCopy s clu key k).mem = s.mem := by
  unfold poisonCopy
  dsimp only
  split <;> simp

theorem wf_scrubChunk {s : State} (core array unit k : Nat)
    (hs : s.mem.wf = true) : (scrubChunk s core array unit k).mem.wf = true := by
  unfold scrubChunk
  dsimp only
  split
  · rw [pushEvent_mem]; exact wf_of_bytes rfl rfl rfl hs
  · split
    · split
      · rw [pushEvent_mem]; exact wf_of_bytes rfl rfl rfl hs
      · split
        · rw [pushEvent_mem, poisonCopy_mem]; exact hs
        · exact hs
    · split
      · rw [pushEvent_mem, setCore_mem]; exact hs
      · exact hs

@[simp] theorem fatalError_mem (s : State) (kind : Byte) :
    (fatalError s kind).mem = s.mem := rfl

theorem wf_registerError {s : State} (core slot reg : Nat)
    (hs : s.mem.wf = true) : (registerError s core slot reg).mem.wf = true := by
  unfold registerError
  grind [setThread_mem, wf_killThread, fatalError_mem]

theorem wf_arrayError {s : State} (core array unit : Nat) (chunks : List Nat)
    (hs : s.mem.wf = true) : (arrayError s core array unit chunks).mem.wf = true := by
  unfold arrayError
  split
  · rw [setCore_mem]; exact hs
  · exact wf_registerError _ _ _ hs
  · rw [pushEvent_mem, setArch_mem]; exact hs
  · exact wf_foldl hs fun s k hs => (congrArg Memory.wf (pushEvent_mem _ _ _ _ _ _ _ _ _)).trans (wf_of_bytes rfl rfl rfl hs)
  · rw [fatalError_mem]; exact hs

theorem wf_execScrubUnit {core array unit : Nat} {bad : List Nat} {corrected : Nat} {s t : State}
    (hs : s.mem.wf = true) (h : execScrubUnit core array unit bad corrected s = .next t) : t.mem.wf = true := by
  unfold execScrubUnit at h
  dsimp only at h
  split at h
  · cases h; exact hs
  · split at h <;> cases h
    · refine wf_ite (by rw [countErrors_mem]; exact hs) (wf_arrayError _ _ _ _ ?_)
      rw [countErrors_mem]; exact hs
    · exact wf_foldl (by rw [countErrors_mem]; exact hs) fun s k hs => wf_scrubChunk _ _ _ _ hs

theorem wf_emptyCluster {s : State} (clu : Nat)
    (hs : s.mem.wf = true) : (emptyCluster s clu).mem.wf = true := by
  unfold emptyCluster
  exact wf_mergeAll _ (wf_flushWb _ hs)

theorem wf_execL2Recovery {die : BitVec 2} {railLow : Bool} {s t : State}
    (hs : s.mem.wf = true) (h : execL2Recovery die railLow s = .next t) : t.mem.wf = true := by
  unfold execL2Recovery at h
  dsimp only at h
  split at h
  · cases h; exact hs
  · rw [← Host.Outcome.next.inj h, setDie_mem]
    exact upTo_keeps (fun s : State => s.mem.wf = true) _ _ (fun s k hs => wf_emptyCluster _ hs) _ hs

theorem mem_execFatalError {kind : Byte} {s t : State}
    (h : execFatalError kind s = .next t) : t.mem = s.mem := by
  unfold execFatalError at h
  grind [fatalError_mem]

theorem wf_writeDump {s : State} (writer : Nat)
    (hs : s.mem.wf = true) : (writeDump s writer).mem.wf = true := by
  unfold writeDump
  grind [send_mem, wf_stackWrite]

theorem wf_execDumpWrite {s t : State}
    (hs : s.mem.wf = true) (h : execDumpWrite s = .next t) : t.mem.wf = true := by
  unfold execDumpWrite at h
  grind [wf_writeDump]

theorem wf_execDumpTimeout {s t : State}
    (hs : s.mem.wf = true) (h : execDumpTimeout s = .next t) : t.mem.wf = true := by
  unfold execDumpTimeout at h
  grind [wf_writeDump]

theorem wf_hostPlace {s : State} {part dva n : Nat} {acc : BitVec 4} {r : State × Nat}
    (hs : s.mem.wf = true) (h : hostPlace s part dva n acc = some r) : r.1.mem.wf = true := by
  unfold hostPlace at h
  grind [wf_setAD]

@[simp] theorem bar2Refused_mem (s : State) (fn part dva : Nat) :
    (bar2Refused s fn part dva).mem = s.mem := by
  unfold bar2Refused
  simp

theorem wf_execBar2Write {fn offset : Nat} {bytes : List Byte} {s t : State}
    (hs : s.mem.wf = true) (h : execBar2Write fn offset bytes s = .next t) : t.mem.wf = true := by
  unfold execBar2Write at h
  split at h
  · cases h; exact hs
  · split at h
    · cases h; exact hs
    · split at h
      · cases h; rw [bar2Refused_mem]; exact hs
      next placed => cases h; exact wf_ramWrite _ _ (wf_hostPlace hs placed)

theorem wf_execBar2Read {fn offset n : Nat} {s t : State}
    (hs : s.mem.wf = true) (h : execBar2Read fn offset n s = .next t) : t.mem.wf = true := by
  unfold execBar2Read at h
  grind [send_mem, → wf_hostPlace, bar2Refused_mem]

theorem wf_execBar2Atomic {fn offset : Nat} {op : BitVec 2} {n : Nat} {operand compare : W64} {s t : State}
    (hs : s.mem.wf = true) (h : execBar2Atomic fn offset op n operand compare s = .next t) : t.mem.wf = true := by
  unfold execBar2Atomic at h
  split at h
  · cases h; rw [send_mem]; exact hs
  · split at h
    · cases h; exact hs
    · split at h
      · cases h; exact hs
      · split at h
        · cases h; rw [send_mem, bar2Refused_mem]; exact hs
        next placed =>
          cases h
          rw [send_mem]
          exact wf_ramWrite _ _ (wf_hostPlace hs placed)

theorem mem_execMailboxMessage {fn : Nat} {words : List W64} {s t : State}
    (h : execMailboxMessage fn words s = .next t) : t.mem = s.mem := by
  unfold execMailboxMessage at h
  grind []

@[simp] theorem setStage_mem (s : State) (stage : Byte) :
    (setStage s stage).mem = s.mem := rfl

theorem wf_placeFirmware {s : State} (off : Nat) (x : Image)
    (hs : s.mem.wf = true) : (placeFirmware s off x).mem.wf = true := by
  unfold placeFirmware
  refine wf_foldl hs (fun s x hs => ?_)
  grind [wf_stackWrite]

theorem wf_bootSelvedge {s : State} (x : Image)
    (hs : s.mem.wf = true) : (bootSelvedge s x).mem.wf = true := by
  unfold bootSelvedge
  grind [wf_placeFirmware, setStage_mem]

theorem wf_bootTreadle {s : State} (x : Image)
    (hs : s.mem.wf = true) : (bootTreadle s x).mem.wf = true := by
  unfold bootTreadle
  grind [wf_placeFirmware, setStage_mem]

theorem wf_execImageSubmit {fn : Nat} {img : Image} {s t : State}
    (hs : s.mem.wf = true) (h : execImageSubmit fn img s = .next t) : t.mem.wf = true := by
  unfold execImageSubmit at h
  grind [wf_bootSelvedge, wf_bootTreadle]

theorem mem_execAttestRequest {fn : Nat} {nonce : List Byte} {s t : State}
    (h : execAttestRequest fn nonce s = .next t) : t.mem = s.mem := by
  unfold execAttestRequest at h
  grind [send_mem, readM_mem]

theorem wf_execPackageReset {pkgNumber : BitVec 10} {railLow : BitVec 4} {romOk : Bool} {img : Option Image} {s t : State}
    (h : execPackageReset pkgNumber railLow romOk img s = .next t) : t.mem.wf = true := by
  unfold execPackageReset at h
  simp only at h
  have fresh : (upTo 4 (fun (s : State) d => s.setDie d { s.die d with dected := railLow.getLsbD d }) { State.reset with
      schedule := s.schedule, fresh := s.fresh, out := s.out,
      pk := { State.reset.pk with pkg := pkgNumber, stage := 1 } }).mem.wf = true := by
    rw [upTo_mem _ _ (fun _ _ => setDie_mem _ _ _)]
    exact wf_reset
  split at h
  · rw [← Host.Outcome.next.inj h, setStage_mem]; exact fresh
  · split at h
    · rw [← Host.Outcome.next.inj h, setStage_mem]; exact fresh
    · rw [← Host.Outcome.next.inj h]; exact wf_bootSelvedge _ fresh

theorem mem_execThermtrip {_die : BitVec 2} {s t : State}
    (h : execThermtrip _die s = .next t) : t.mem = s.mem := by
  unfold execThermtrip at h
  grind []

theorem mem_execSmbusReadTelemetry {temps : List Nat} {draw : Nat} {s t : State}
    (h : execSmbusReadTelemetry temps draw s = .next t) : t.mem = s.mem := by
  unfold execSmbusReadTelemetry at h
  grind [send_mem]

theorem mem_execSmbusReadStage {s t : State}
    (h : execSmbusReadStage s = .next t) : t.mem = s.mem := by
  unfold execSmbusReadStage at h
  grind [send_mem]

theorem mem_execSmbusSetPowerLimit {watts : Nat} {s t : State}
    (h : execSmbusSetPowerLimit watts s = .next t) : t.mem = s.mem := by
  unfold execSmbusSetPowerLimit at h
  grind []

/-! ## Skein instructions -/

theorem wf_execSkw {c b a d : Reg} {s t : State}
    (hs : s.mem.wf = true) (h : execSkw c b a d s = .next t) : t.mem.wf = true := by
  refine wf_of_run hs (fun u h => ?_) h
  simp only [bind_eq_ok, pure_eq_ok, stop_else_eq_ok] at h
  grind [wf_drainCluster, parkMe_mem]

theorem wf_execSkr {c b a d : Reg} {s t : State}
    (hs : s.mem.wf = true) (h : execSkr c b a d s = .next t) : t.mem.wf = true := by
  refine wf_of_run hs (fun u h => ?_) h
  simp only [bind_eq_ok, pure_eq_ok] at h
  grind [parkMe_mem]

theorem wf_execSkre {c b a d : Reg} {s t : State}
    (hs : s.mem.wf = true) (h : execSkre c b a d s = .next t) : t.mem.wf = true := by
  refine wf_of_run hs (fun u h => ?_) h
  simp only [bind_eq_ok, pure_eq_ok] at h
  grind [parkMe_mem]

theorem wf_execSkbind {b a d : Reg} {s t : State}
    (hs : s.mem.wf = true) (h : execSkbind b a d s = .next t) : t.mem.wf = true := by
  refine wf_of_run hs (fun u h => ?_) h
  simp only [bind_eq_ok, pure_eq_ok] at h
  grind [parkMe_mem]

theorem wf_execSkunb {b a d : Reg} {s t : State}
    (hs : s.mem.wf = true) (h : execSkunb b a d s = .next t) : t.mem.wf = true := by
  refine wf_of_run hs (fun u h => ?_) h
  simp only [bind_eq_ok, pure_eq_ok] at h
  grind [parkMe_mem]

theorem wf_execSkflr {b a d : Reg} {s t : State}
    (hs : s.mem.wf = true) (h : execSkflr b a d s = .next t) : t.mem.wf = true := by
  refine wf_of_run hs (fun u h => ?_) h
  simp only [bind_eq_ok, pure_eq_ok] at h
  grind [finishG_mem, wf_weftFloor]

theorem wf_execSkqry {n : BitVec 5} {a d : Reg} {s t : State}
    (hs : s.mem.wf = true) (h : execSkqry n a d s = .next t) : t.mem.wf = true := by
  refine wf_of_run hs (fun u h => ?_) h
  simp only [bind_eq_ok, pure_eq_ok] at h
  grind [finishG_mem]

@[simp] theorem weftPage_mem (s : State) (part n core slot dva : Nat) (kind : BitVec 2) (acc : BitVec 4) :
    (weftPage s part n core slot dva kind acc).mem = s.mem := by
  unfold weftPage
  simp

@[simp] theorem weftArrive_mem (s : State) (part n key : Nat) :
    (weftArrive s part n key).mem = s.mem := rfl

theorem wf_weftGo {s : State} (part n : Nat) (x : Nat × ExtReply)
    (hs : s.mem.wf = true) : (weftGo s part n x).mem.wf = true := by
  unfold weftGo
  grind [wf_weftNext, wf_weftRun, weftPage_mem]

theorem wf_weftReply {s : State} {key : Nat} {w : Wait} {ext : ExtReply} {t : State}
    (hs : s.mem.wf = true) (h : weftReply s key w ext = some t) : t.mem.wf = true := by
  unfold weftReply at h
  simp only [] at h
  grind [wf_weftNext, wf_weftGo]

theorem wf_execWeftRequest {core slot : Nat} {s t : State}
    (hs : s.mem.wf = true) (h : execWeftRequest core slot s = .next t) : t.mem.wf = true := by
  unfold execWeftRequest at h
  grind [wf_weftGo, weftArrive_mem]

theorem wf_execCausalityWalk {part : BitVec 4} {s t : State}
    (hs : s.mem.wf = true) (h : execCausalityWalk part s = .next t) : t.mem.wf = true := by
  unfold execCausalityWalk at h
  grind [setPart_mem, wf_causalityWalk]

/-! ## The acceptance of stores -/

theorem wf_acceptEntry {s : State} (core : Nat) (e : StoreEntry)
    (hs : s.mem.wf = true) : (acceptEntry s core e).mem.wf = true := by
  unfold acceptEntry
  grind [send_mem, wf_performEntry, wf_killThread, inboxArrive_mem, shuttleRefused_mem, mcstSend_mem]

theorem wf_execStoreAccept {core index : Nat} {s t : State}
    (hs : s.mem.wf = true) (h : execStoreAccept core index s = .next t) : t.mem.wf = true := by
  unfold execStoreAccept at h
  grind [setCore_mem, wf_performEntry, wf_acceptEntry]

theorem wf_blockReply {s : State} (key : Nat) (w : Wait) (bs : List Byte)
    (hs : s.mem.wf = true) : (blockReply s key w bs).mem.wf = true := by
  have arrived {n : Nat} : ∀ x, (tableArrive s key w.instr (some (bs.take n))).map (fun s => (s, Reply.plain)) = .ok x →
      x.1.mem.wf = true := fun x hx => by
    obtain ⟨t, loaded, rfl⟩ := map_eq_ok.mp hx
    exact wf_tableArrive hs loaded
  unfold blockReply
  dsimp only
  split
  · exact wf_answerWith hs arrived
  · exact wf_answerWith hs arrived
  · rw [launchHas_mem]; exact hs
  · rw [setThread_mem]; exact hs
  · exact hs

@[simp] theorem fillConstant_mem (s : State) (key : Nat) (w : Wait) (ext : ExtReply) :
    (fillConstant s key w ext).mem = s.mem := by
  unfold fillConstant
  grind [setCore_mem]

theorem wf_outsideReply {s : State} (key : Nat) (w : Wait) (ext : ExtReply)
    (hs : s.mem.wf = true) : (outsideReply s key w ext).mem.wf = true := by
  unfold outsideReply
  grind [answer_mem, fillConstant_mem, wf_blockReply]

theorem wf_insideLoad {s : State} {key : Nat} {w : Wait} {r : State × Reply}
    (hs : s.mem.wf = true) (h : insideLoad s key w = .ok r) : r.1.mem.wf = true := by
  unfold insideLoad at h
  split at h
  · obtain ⟨t, arrived, rfl⟩ := map_eq_ok.mp h
    exact wf_tableArrive hs arrived
  · obtain ⟨t, arrived, rfl⟩ := map_eq_ok.mp h
    exact wf_tableArrive hs arrived
  · obtain ⟨_, -, h⟩ := bind_eq_ok.mp h
    obtain ⟨_, -, h⟩ := bind_eq_ok.mp h
    obtain ⟨x, translated, h⟩ := bind_eq_ok.mp h
    have hx := wf_translate hs translated
    dsimp only at h
    split at h
    · cases h; exact hx
    · obtain ⟨-, h⟩ := stop_else_eq_ok.mp h
      split at h
      · cases h
      · cases h
        exact (congrArg Memory.wf (ldcFill_mem _ _ _ _ _)).trans hx
  · split at h
    · cases h
    next f _ =>
      obtain ⟨_, -, h⟩ := bind_eq_ok.mp h
      obtain ⟨⟨kind, o⟩, -, h⟩ := bind_eq_ok.mp h
      obtain ⟨⟨s1, p⟩, resolved, h⟩ := bind_eq_ok.mp h
      have hx := wf_resolve hs resolved
      dsimp only at h
      split at h
      · split at h
        · cases h; exact hx
        · obtain ⟨-, h⟩ := stop_else_eq_ok.mp h
          split at h
          · cases h
          · cases h
            exact wf_loadNow _ _ _ _ hx
      · cases h

theorem wf_insideReply {s : State} (key : Nat) (w : Wait)
    (hs : s.mem.wf = true) : (insideReply s key w).mem.wf = true := by
  unfold insideReply
  split
  · exact wf_outsideReply _ _ _ hs
  · split
    · split
      · rw [leaseRequest_mem]; exact hs
      · split
        · exact hs
        · split
          next read => exact wf_leaseRead hs read
          · exact wf_answerWith hs fun _ ok => by cases ok
    · exact wf_ite hs (wf_answerWith hs fun _ => wf_insideLoad hs)

theorem wf_hostAtomicDone {s : State} (key : Nat) (e : StoreEntry) (ext : ExtReply)
    (hs : s.mem.wf = true) : (hostAtomicDone s key e ext).mem.wf = true := by
  unfold hostAtomicDone
  grind [setCore_mem, wf_killThread, lateTrap_mem]

theorem wf_strayReply {s : State} (key : Nat) (e : ExtReply)
    (hs : s.mem.wf = true) : (strayReply s key e).mem.wf = true := by
  unfold strayReply
  grind [bufferReply_mem, wf_killThread]

theorem wf_execRemoteReplyArrival {core slot : Nat} {ext : ExtReply} {s t : State}
    (hs : s.mem.wf = true) (h : execRemoteReplyArrival core slot ext s = .next t) : t.mem.wf = true := by
  unfold execRemoteReplyArrival at h
  generalize (if ext = .inside then keyOf core slot else forwardedKey s (keyOf core slot) (awaitsReply s)) = key at h
  dsimp only at h
  have stray (w : Wait) (e : ExtReply) : ((weftReply s key w e).getD (strayReply s key e)).mem.wf = true := by
    cases served : weftReply s key w e with
    | some u => exact wf_weftReply hs served
    | none => exact wf_strayReply _ _ hs
  split at h
  · cases h; rw [answer_mem]; exact hs
  · split at h
    · cases h; exact wf_hostAtomicDone _ _ _ hs
    · split at h
      · split at h <;> cases h
        · exact wf_insideReply _ _ hs
        · exact hs
      · split at h
        · cases h; exact wf_outsideReply _ _ _ hs
        · rw [← Host.Outcome.next.inj h]; exact stray _ _
      · split at h
        · cases h; exact wf_strayReply _ _ hs
        · cases h; exact hs
      · cases h; exact wf_strayReply _ _ hs

theorem wf_execPcieCompletionTimeout {core slot : Nat} {s t : State}
    (hs : s.mem.wf = true) (h : execPcieCompletionTimeout core slot s = .next t) : t.mem.wf = true := by
  unfold execPcieCompletionTimeout at h
  grind [answer_mem, wf_hostAtomicDone]

/-! ## The issue of one instruction -/

@[simp] theorem takePipe_mem (s : State) (core : Nat) (i : Instr) :
    (takePipe s core i).mem = s.mem := by
  unfold takePipe
  split <;> simp

@[simp] theorem afterExec_mem (t0 : Thread) (i : Instr) (pc : W64) (s : State) :
    (afterExec t0 i pc s).mem = s.mem := by
  unfold afterExec
  grind [setThread_mem, takePipe_mem, twinWake_mem, afterComplete_mem, forwardTrap_mem]

/-! ## A step -/

theorem wf_exec {i : Instr} {s t : State} (hs : s.mem.wf = true) (h : exec i s = .next t) : t.mem.wf = true := by
  cases i with
  | mreqWrite => rw [mem_execMreqWrite h]; exact hs
  | powerComparison => rw [mem_execPowerComparison h]; exact hs
  | relockEnd => rw [mem_execRelockEnd h]; exact hs
  | instructionComplete => exact wf_execInstructionComplete hs h
  | parkWake => exact wf_execParkWake hs h
  | waitLimitExpiry => rw [mem_execWaitLimitExpiry h]; exact hs
  | sleepTimeout => rw [mem_execSleepTimeout h]; exact hs
  | handlerStart => rw [mem_execHandlerStart h]; exact hs
  | scrubComplete => exact wf_execScrubComplete hs h
  | lockTimeout => exact wf_execLockTimeout hs h
  | hevecWrite => rw [mem_execHevecWrite h]; exact hs
  | cpartWrite => rw [mem_execCpartWrite h]; exact hs
  | followerWaitExpiry => rw [mem_execFollowerWaitExpiry h]; exact hs
  | seqEntryIssue => exact wf_execSeqEntryIssue hs h
  | seqEntryComplete => rw [mem_execSeqEntryComplete h]; exact hs
  | streamPrefetch => exact wf_execStreamPrefetch hs h
  | sfuAccept => rw [mem_execSfuAccept h]; exact hs
  | sfuResult => exact wf_execSfuResult hs h
  | normaliserService => rw [mem_execNormaliserService h]; exact hs
  | matrixEntryStart => exact wf_execMatrixEntryStart hs h
  | jobStepIssue => exact wf_execJobStepIssue hs h
  | jobPromotion => rw [mem_execJobPromotion h]; exact hs
  | enginePause => rw [mem_execEnginePause h]; exact hs
  | engineResume => rw [mem_execEngineResume h]; exact hs
  | mldbEnd => exact wf_execMldbEnd hs h
  | mzeroEnd => rw [mem_execMzeroEnd h]; exact hs
  | mrdEnd => exact wf_execMrdEnd hs h
  | copyRow => exact wf_execCopyRow hs h
  | copyEnd => rw [mem_execCopyEnd h]; exact hs
  | storeAccept => exact wf_execStoreAccept hs h
  | remoteReplyArrival => exact wf_execRemoteReplyArrival hs h
  | tileAccessMessage => exact wf_execTileAccessMessage hs h
  | homeAtomic => exact wf_execHomeAtomic hs h
  | writebackMerge => exact wf_execWritebackMerge hs h
  | stagingEviction => rw [mem_execStagingEviction h]; exact hs
  | l2effSample => rw [mem_execL2effSample h]; exact hs
  | scrubUnit => exact wf_execScrubUnit hs h
  | reedArrivalMessage => exact wf_execReedArrivalMessage hs h
  | tagMessage => exact wf_execTagMessage hs h
  | tagRequestRetry => exact wf_execTagRequestRetry hs h
  | inboxDelivery => rw [mem_execInboxDelivery h]; exact hs
  | weftRequest => exact wf_execWeftRequest hs h
  | causalityWalk => exact wf_execCausalityWalk hs h
  | qcfgOpen => exact wf_execQcfgOpen hs h
  | qcfgClose => exact wf_execQcfgClose hs h
  | qcfgDrain => exact wf_execQcfgDrain hs h
  | qcfgThaw => exact wf_execQcfgThaw hs h
  | qcfgPurge => exact wf_execQcfgPurge hs h
  | qcntClear fn q v => rw [@mem_execQcntClear fn q v s t h]; exact hs
  | enqueueWindowWrite => exact wf_execEnqueueWindowWrite hs h
  | dispatchDecision => exact wf_execDispatchDecision hs h
  | rankBind => exact wf_execRankBind hs h
  | kernelReleaseEnd => exact wf_execKernelReleaseEnd hs h
  | watchdogExpiry => exact wf_execWatchdogExpiry hs h
  | tokenHostWrite => exact wf_execTokenHostWrite hs h
  | partitionOpen => exact wf_execPartitionOpen hs h
  | partitionClose => exact wf_execPartitionClose hs h
  | haltComplete => exact wf_execHaltComplete hs h
  | shadowTransferEnd => exact wf_execShadowTransferEnd hs h
  | spillEnd => exact wf_execSpillEnd hs h
  | restoreEnd => exact wf_execRestoreEnd hs h
  | migrationEnd => exact wf_execMigrationEnd hs h
  | tableWalkEnd => exact wf_execTableWalkEnd hs h
  | pgwakeWake => exact wf_execPgwakeWake hs h
  | pgwakeRefuse => exact wf_execPgwakeRefuse hs h
  | evpop => rw [mem_execEvpop h]; exact hs
  | pgpop => rw [mem_execPgpop h]; exact hs
  | evstatClear die v => rw [@mem_execEvstatClear die v s t h]; exact hs
  | atsResponse => exact wf_execAtsResponse hs h
  | atsInvalidation => rw [mem_execAtsInvalidation h]; exact hs
  | leaseGrant => exact wf_execLeaseGrant hs h
  | leaseDeny => exact wf_execLeaseDeny hs h
  | leaseReclaim => rw [mem_execLeaseReclaim h]; exact hs
  | leaseTermEnd => rw [mem_execLeaseTermEnd h]; exact hs
  | reclaimGranuleCopy => exact wf_execReclaimGranuleCopy hs h
  | leaseAck => rw [mem_execLeaseAck h]; exact hs
  | reclaimDeadline => exact wf_execReclaimDeadline hs h
  | portcEnable => exact wf_execPortcEnable hs h
  | portcFence => exact wf_execPortcFence hs h
  | portcDisable => exact wf_execPortcDisable hs h
  | trainingComplete => exact wf_execTrainingComplete hs h
  | trainingTimeout => exact wf_execTrainingTimeout hs h
  | linkError => exact wf_execLinkError hs h
  | retrainComplete => exact wf_execRetrainComplete hs h
  | retrainTimeout => exact wf_execRetrainTimeout hs h
  | partnerLost => exact wf_execPartnerLost hs h
  | peerRequest => exact wf_execPeerRequest hs h
  | peerAck => rw [mem_execPeerAck h]; exact hs
  | remoteAccessTimeout => rw [mem_execRemoteAccessTimeout h]; exact hs
  | countedReleaseTimeout => rw [mem_execCountedReleaseTimeout h]; exact hs
  | countedReleasePerform => exact wf_execCountedReleasePerform hs h
  | mcstCopyWrite => exact wf_execMcstCopyWrite hs h
  | staleNotice => rw [mem_execStaleNotice h]; exact hs
  | aredPhaseComplete => exact wf_execAredPhaseComplete hs h
  | shuttleArrival => exact wf_execShuttleArrival hs h
  | shuttleReplyArrival => exact wf_execShuttleReplyArrival hs h
  | replyHoldTimeout => exact wf_execReplyHoldTimeout hs h
  | shuttleRefusal => rw [mem_execShuttleRefusal h]; exact hs
  | bar2Write => exact wf_execBar2Write hs h
  | bar2Read => exact wf_execBar2Read hs h
  | bar2Atomic => exact wf_execBar2Atomic hs h
  | mailboxMessage => rw [mem_execMailboxMessage h]; exact hs
  | imageSubmit => exact wf_execImageSubmit hs h
  | attestRequest => rw [mem_execAttestRequest h]; exact hs
  | packageReset => exact wf_execPackageReset h
  | l2Recovery => exact wf_execL2Recovery hs h
  | fatalError => rw [mem_execFatalError h]; exact hs
  | dumpWrite => exact wf_execDumpWrite hs h
  | dumpTimeout => exact wf_execDumpTimeout hs h
  | escalKillServed => exact wf_execEscalKillServed hs h
  | escalKillAll => exact wf_execEscalKillAll hs h
  | thermtrip die => rw [@mem_execThermtrip die s t h]; exact hs
  | smbusReadTelemetry => rw [mem_execSmbusReadTelemetry h]; exact hs
  | smbusReadStage => rw [mem_execSmbusReadStage h]; exact hs
  | smbusSetPowerLimit => rw [mem_execSmbusSetPowerLimit h]; exact hs
  | registerWrite => exact wf_execRegisterWrite hs h
  | add => rw [mem_execAdd h]; exact hs
  | sub => rw [mem_execSub h]; exact hs
  | and => rw [mem_execAnd h]; exact hs
  | or => rw [mem_execOr h]; exact hs
  | xor => rw [mem_execXor h]; exact hs
  | andn => rw [mem_execAndn h]; exact hs
  | orn => rw [mem_execOrn h]; exact hs
  | xnor => rw [mem_execXnor h]; exact hs
  | shl => rw [mem_execShl h]; exact hs
  | shr => rw [mem_execShr h]; exact hs
  | shra => rw [mem_execShra h]; exact hs
  | rol => rw [mem_execRol h]; exact hs
  | ror => rw [mem_execRor h]; exact hs
  | slt => rw [mem_execSlt h]; exact hs
  | sltu => rw [mem_execSltu h]; exact hs
  | min => rw [mem_execMin h]; exact hs
  | max => rw [mem_execMax h]; exact hs
  | minu => rw [mem_execMinu h]; exact hs
  | maxu => rw [mem_execMaxu h]; exact hs
  | mul => rw [mem_execMul h]; exact hs
  | hmul => rw [mem_execHmul h]; exact hs
  | hmulu => rw [mem_execHmulu h]; exact hs
  | hmulm => rw [mem_execHmulm h]; exact hs
  | div => rw [mem_execDiv h]; exact hs
  | divu => rw [mem_execDivu h]; exact hs
  | rem => rw [mem_execRem h]; exact hs
  | remu => rw [mem_execRemu h]; exact hs
  | clz => rw [mem_execClz h]; exact hs
  | ctz => rw [mem_execCtz h]; exact hs
  | popc => rw [mem_execPopc h]; exact hs
  | brev => rw [mem_execBrev h]; exact hs
  | bswap => rw [mem_execBswap h]; exact hs
  | sext => rw [mem_execSext h]; exact hs
  | zext => rw [mem_execZext h]; exact hs
  | bfx => rw [mem_execBfx h]; exact hs
  | bfi => rw [mem_execBfi h]; exact hs
  | csel => rw [mem_execCsel h]; exact hs
  | madd => rw [mem_execMadd h]; exact hs
  | msub => rw [mem_execMsub h]; exact hs
  | addi => rw [mem_execAddi h]; exact hs
  | andi => rw [mem_execAndi h]; exact hs
  | ori => rw [mem_execOri h]; exact hs
  | xori => rw [mem_execXori h]; exact hs
  | shli => rw [mem_execShli h]; exact hs
  | shri => rw [mem_execShri h]; exact hs
  | shrai => rw [mem_execShrai h]; exact hs
  | slti => rw [mem_execSlti h]; exact hs
  | sltiu => rw [mem_execSltiu h]; exact hs
  | ldh => rw [mem_execLdh h]; exact hs
  | addpc => rw [mem_execAddpc h]; exact hs
  | beq | bne | blt | bge | bltu | bgeu =>
    exact wf_of_run hs (fun _ h => (congrArg Memory.wf (mem_branchBody h)).trans hs) h
  | jal | jalr =>
    exact wf_of_run hs (fun _ h => (congrArg Memory.wf (mem_jumpBody h)).trans hs) h
  | lb | lh | lw | ld | lbu | lhu | lwu | lq =>
    exact wf_of_run hs (fun _ => wf_loadBody hs) h
  | ldc => exact wf_execLdc hs h
  | ldaW | ldaD | ldaQ =>
    exact wf_of_run hs (fun _ => wf_ldaBody hs) h
  | sb | sh | sw | sd | sq =>
    exact wf_of_run hs (fun _ => wf_storeBody hs) h
  | snib => exact wf_execSnib hs h
  | strlW | strlD | strlQ =>
    exact wf_of_run hs (fun _ => wf_strlBody hs) h
  | atomAddW | atomAndW | atomOrW | atomXorW | atomMinW | atomMaxW | atomMinuW | atomMaxuW | atomSwapW | atomAddD | atomAndD
    | atomOrD | atomXorD | atomMinD | atomMaxD | atomMinuD | atomMaxuD | atomSwapD | fatomFadd | fatomFmin | fatomFmax |
    fatompFadd | fatompFmin | fatompFmax | casW | casD | casQ =>
    exact wf_of_run hs (fun _ => wf_atomBody hs) h
  | wbr => exact wf_of_run hs (fun _ => wf_rangeBody (fun _ _ _ _ hs => wf_writeBackLine _ _ hs) hs) h
  | invr => exact wf_of_run hs (fun _ => wf_rangeBody (fun _ _ _ _ hs => wf_invLine _ hs) hs) h
  | disc => exact wf_of_run hs (fun _ => wf_rangeBody (fun _ _ _ _ hs => wf_discLine _ _ _ hs) hs) h
  | pref => exact wf_execPref hs h
  | cinv => rw [mem_execCinv h]; exact hs
  | fence => exact wf_execFence hs h
  | rel => exact wf_execRel hs h
  | acq => rw [mem_execAcq h]; exact hs
  | hint n => rw [@mem_execHint n s t h]; exact hs
  | fadd | fsub | fmul | fdiv | fsqrt | fmin | fmax | fcpys | fcpyns | fxors | feq | flt | fle | fkind | fmadd | fmsub |
    fnmadd | fnmsub | fcvt | ftog | ftogh | gtof | splat | shuf | qadd | qsub | qmul | qshr | qsat | qrng | qabs | rsadd |
    rssub | rsmul | rsdiv | rsneg | rsrec | rssqr | rssqrt | rsuni | rsint | rsfrom | rslo | rshi | rspack | rsunpk | rsemp =>
    exact wf_of_run hs (fun _ => wf_fBody hs) h
  | flq => exact wf_execFlq hs h
  | fsq => exact wf_execFsq hs h
  | rsldt | rsldg =>
    exact wf_of_run hs (fun _ => wf_tableBody hs) h
  | fexp2 | flog2 | frcp | frsq | fsinpi | fcospi | ftanh | ferf | fsigm =>
    exact wf_of_run hs (fun _ => wf_sfuBody hs) h
  | sbound | sstride | sbase =>
    exact wf_of_run hs (fun _ h => (congrArg Memory.wf (mem_configBody h)).trans hs) h
  | sen => exact wf_execSen hs h
  | sdis => exact wf_execSdis hs h
  | sdrain => exact wf_execSdrain hs h
  | sstat => exact wf_execSstat hs h
  | seq => exact wf_execSeq hs h
  | qwg => exact wf_execQwg hs h
  | qwf => exact wf_execQwf hs h
  | qrg => exact wf_execQrg hs h
  | qrf => exact wf_execQrf hs h
  | qcnt => exact wf_execQcnt hs h
  | mjobAcc | mjobOvr =>
    exact wf_of_run hs (fun _ h => (congrArg Memory.wf (mem_mjobBody h)).trans hs) h
  | mldb => exact wf_execMldb hs h
  | mzero =>
    exact wf_of_run hs (fun _ h => (congrArg Memory.wf (mem_enqueueBody h)).trans hs) h
  | mrd => exact wf_execMrd hs h
  | mstat => rw [mem_execMstat h]; exact hs
  | cpyMem | cpyBob | cpyCim =>
    exact wf_of_run hs (fun _ h => (congrArg Memory.wf (mem_cpyBody h)).trans hs) h
  | ewait => exact wf_execEwait hs h
  | efence => exact wf_execEfence hs h
  | ecancel => exact wf_execEcancel hs h
  | reedArr => exact wf_execReedArr hs h
  | reedWait => exact wf_execReedWait hs h
  | reedSync => exact wf_execReedSync hs h
  | reedQry => exact wf_execReedQry hs h
  | lde | ldf | stf | ste | tagi | tagr =>
    exact wf_of_run hs (fun _ => wf_tagBody hs) h
  | bbinit => exact wf_execBbinit hs h
  | bbres => exact wf_execBbres hs h
  | bbcom => exact wf_execBbcom hs h
  | bbacq => exact wf_execBbacq hs h
  | bbrel => exact wf_execBbrel hs h
  | bbqry => exact wf_execBbqry hs h
  | msnd => exact wf_execMsnd hs h
  | mrcv => exact wf_execMrcv hs h
  | mpoll => rw [mem_execMpoll h]; exact hs
  | skw => exact wf_execSkw hs h
  | skr => exact wf_execSkr hs h
  | skre => exact wf_execSkre hs h
  | skbind => exact wf_execSkbind hs h
  | skflr => exact wf_execSkflr hs h
  | skqry => exact wf_execSkqry hs h
  | skunb => exact wf_execSkunb hs h
  | shtl => exact wf_execShtl hs h
  | mcst => exact wf_execMcst hs h
  | pubv => exact wf_execPubv hs h
  | subv => exact wf_execSubv hs h
  | ared => exact wf_execAred hs h
  | shtr => exact wf_execShtr hs h
  | lreq => exact wf_execLreq hs h
  | lrel => exact wf_execLrel hs h
  | lqry => rw [mem_execLqry h]; exact hs
  | csrr => exact wf_execCsrr hs h
  | csrw => exact wf_execCsrw hs h
  | csrs => exact wf_execCsrs hs h
  | csrc => exact wf_execCsrc hs h
  | trap => exact wf_execTrap hs h
  | eret => exact wf_execEret hs h
  | kill => exact wf_execKill hs h
  | yield => rw [mem_execYield h]; exact hs
  | sleep => exact wf_execSleep hs h
  | wake => exact wf_execWake hs h
  | kexit => exact wf_execKexit hs h
  | twin => rw [mem_execTwin h]; exact hs
  | untwin => exact wf_execUntwin hs h
  | follow => exact wf_execFollow hs h
  | detach => rw [mem_execDetach h]; exact hs
  | join => exact wf_execJoin hs h
  | chk => rw [mem_execChk h]; exact hs
  | nest => exact wf_execNest hs h
  | iter => exact wf_execIter hs h
  | rdcyc => rw [mem_execRdcyc h]; exact hs
  | rdtim => rw [mem_execRdtim h]; exact hs
  | rdstep => rw [mem_execRdstep h]; exact hs
  | launch => exact wf_execLaunch hs h
  | tokw => exact wf_execTokw hs h
  | toks => exact wf_execToks hs h
  | tokq => exact wf_execTokq hs h
  | toke => exact wf_execToke hs h
  | segr => rw [mem_execSegr h]; exact hs
  | segw => exact wf_execSegw hs h
  | segn => rw [mem_execSegn h]; exact hs
  | splk => exact wf_execSplk hs h
  | spul => exact wf_execSpul hs h
  | pinv => exact wf_execPinv hs h
  | pprobe => exact wf_execPprobe hs h
  | migr => exact wf_execMigr hs h
  | ctxhalt => exact wf_execCtxhalt hs h
  | ctxsave => exact wf_execCtxsave hs h
  | ctxrest => exact wf_execCtxrest hs h
  | notAnInstruction => exact wf_execNotAnInstruction hs h
  | fetchSegmentFault => exact wf_execFetchSegmentFault hs h
  | pcieCompletionTimeout => exact wf_execPcieCompletionTimeout hs h
  | rtboundExpiry => rw [mem_execRtboundExpiry h]; exact hs
  | acknowledgementTimeout => rw [mem_execAcknowledgementTimeout h]; exact hs
  | versionBumpArrival => exact wf_execVersionBumpArrival hs h
  | switchNoPath => exact wf_execSwitchNoPath hs h
  | tokenRequest => exact wf_execTokenRequest hs h
  | launchRecordArrival => exact wf_execLaunchRecordArrival hs h

theorem mem_of_twinGate_take {s t : State} {i : Instr} (h : twinGate s i = .take t) : t.mem = s.mem := by
  unfold twinGate at h
  dsimp only at h
  split at h
  · split at h
    · split at h <;> cases h
    · split at h
      · split at h
        · split at h <;> cases h
        · cases h
      · cases h
    · cases h
  · split at h
    · split at h
      · split at h <;> cases h
        rw [twinMeet_mem, parkMe_mem]
      · split at h
        · cases h
        · split at h
          · cases h
          · split at h <;> cases h
            rw [finish_mem]
      · split at h <;> cases h
    · cases h

theorem wf_execGated {t0 : Thread} {i : Instr} {s t : State} (hs : s.mem.wf = true) (h : execGated t0 i s = .next t) :
    t.mem.wf = true := by
  have ended {u : State} (pc : W64) (hu : u.mem.wf = true) : (afterExec t0 i pc u).mem.wf = true := by
    rw [afterExec_mem]; exact hu
  have stopped {u : State} (e : Stop) (hu : u.mem.wf = true) : (runBody i u (.error e)).mem.wf = true :=
    wf_runBody hu fun _ ok => by cases ok
  unfold execGated at h
  dsimp only at h
  split at h
  · cases h; exact ended _ (stopped _ hs)
  next t1 _ =>
    have hs1 : (s.setMe t1).mem.wf = true := by rw [setMe_mem]; exact hs
    split at h
    · cases h; exact ended _ (stopped _ hs1)
    next s2 taken => cases h; exact ended _ (by rw [mem_of_twinGate_take taken]; exact hs1)
    · split at h <;> cases h
      next ran => exact ended _ (wf_exec hs1 ran)

theorem wf_issueThread {s t : State} (hs : s.mem.wf = true) (h : issueThread s = .next t) : t.mem.wf = true := by
  unfold issueThread at h
  dsimp only at h
  split at h
  next fetched => exact wf_execGated (wf_nextInstr hs fetched) h
  · split at h
    · exact wf_exec hs h
    · cases h; exact wf_runBody hs fun _ ok => by cases ok

theorem wf_issueCore {s t : State} {core : Nat} (hs : s.mem.wf = true) (h : issueCore s core = .next t) : t.mem.wf = true := by
  unfold issueCore at h
  have picked : (useCycle (pickSlot (upTo 8 (fun s slot => settleFollower s (keyOf core slot)) s) core).1 core).mem.wf = true := by
    rw [useCycle_mem, pickSlot_mem, upTo_mem _ _ (fun _ _ => settleFollower_mem _ _)]
    exact hs
  split at h
  · cases h; exact hs
  · dsimp only at h
    split at h
    · cases h; exact picked
    · exact wf_issueThread (by rw [setCore_mem]; exact picked) h

theorem wf_firstEvent {s t : State} {l : List Instr} (hs : s.mem.wf = true) (h : firstEvent s l = some t) : t.mem.wf = true := by
  induction l with
  | nil => cases h
  | cons i l ih =>
    unfold firstEvent at h
    split at h
    next ran =>
      split at h
      · exact ih h
      · cases h; exact wf_exec hs ran
    · exact ih h

theorem wf_tickState {s : State} (hs : s.mem.wf = true) : (tickState s).mem.wf = true := by
  rw [tickState_mem]; exact hs

theorem wf_runTurn {s t : State} {turn : Turn} (hs : s.mem.wf = true) (h : runTurn turn s = .next t) : t.mem.wf = true := by
  cases turn with
  | issue core => exact wf_issueCore hs h
  | event i => exact wf_exec hs h
  | tick => cases h; exact wf_tickState hs

theorem wf_ownTurn {s t : State} (hs : s.mem.wf = true) (h : ownTurn s = .next t) : t.mem.wf = true := by
  unfold ownTurn at h
  split at h
  next found => cases h; exact wf_firstEvent hs found
  · split at h
    · exact wf_issueCore hs h
    · cases h; exact wf_tickState hs

theorem wf_step {s t : State} (hs : s.mem.wf = true) (h : step s = .next t) : t.mem.wf = true := by
  unfold step at h
  split at h
  next turn rest _ => exact wf_runTurn (show (State.mem { s with schedule := rest }).wf = true from hs) h
  · split at h
    · cases h
    · exact wf_ownTurn hs h

/-- Settles O57: every function that a step may run leaves memory alone or writes it through the operations of canonical memory. -/
theorem stepsKeepMemoryCanonical : Obligations.StepsKeepMemoryCanonical := fun _ _ => wf_step

end Sys2Proof.Laws
end

section
/-! PROOFS. Addresses of loads and stores, their checks (R193, R198), and what a load or a store of the plain tables runs (R209, R211). -/

namespace Sys2Proof.Laws

open Sys2Proof Sys2Proof.Machine

/-! ## Addresses (R193) -/

section
variable {s : State} {im : BitVec 14} {a : Reg}

theorem effective_eq (s : State) (im : BitVec 14) (a : Reg) : Claims.effective s im a = s.me.rg a + sx im := rfl

theorem segment_eq_iff (x y : W64) : x.extractLsb' 61 3 = y.extractLsb' 61 3 ↔ x.toNat / 2 ^ 61 = y.toNat / 2 ^ 61 := by
  rw [← BitVec.toNat_inj, toNat_extract_segment, toNat_extract_segment]

theorem effAddr_inSegment (inside : Claims.InSegment s im a) : effAddr (s.me.rg a) (sx im) = .ok (Claims.effective s im a) :=
  if_pos ((segment_eq_iff _ _).mpr inside)

theorem effAddr_outside (outside : ¬Claims.InSegment s im a) :
    effAddr (s.me.rg a) (sx im) = .error (.trap SEGV (Claims.effective s im a)) :=
  if_neg fun same => outside ((segment_eq_iff _ _).mp same)

end

section
variable {t : Thread} {ea : W64} {n right kind o : Nat}

theorem accessCheck_misaligned (right : Nat) (misaligned : ea.toNat % n ≠ 0) : accessCheck t ea n right = .error (.trap ALIGN ea) := by
  rw [accessCheck, need, if_neg (by simpa using misaligned)]
  rfl

theorem accessCheck_aligned (aligned : ea.toNat % n = 0) : accessCheck t ea n right = segCheck t ea n right := by
  rw [accessCheck, need, if_pos (by simpa using aligned)]
  rfl

theorem accessCheck_ok (aligned : ea.toNat % n = 0) (ok : Claims.SegOk t ea n right kind o) :
    accessCheck t ea n right = .ok (kind, o) := by
  rw [accessCheck_aligned aligned, segCheck_of_segOk ok]

end

/-! ## The plain loads and stores -/

theorem natOfBytes_append (xs ys : List Byte) : natOfBytes (xs ++ ys) = natOfBytes xs + 256 ^ xs.length * natOfBytes ys := by
  induction xs with
  | nil => simp [natOfBytes]
  | cons b xs ih => rw [List.cons_append, natOfBytes, natOfBytes, ih, List.length_cons, Nat.pow_succ]; ring

theorem pairRegs_eq (d : Reg) {bs : List Byte} (length : bs.length = 16) :
    pairRegs d bs = [(d, BitVec.ofNat 64 (natOfBytes bs)), (d + 1, BitVec.ofNat 64 (natOfBytes bs / 2 ^ 64))] := by
  have split := natOfBytes_append (bs.take 8) (bs.drop 8)
  rw [List.take_append_drop, List.length_take_of_le (by omega)] at split
  have low := natOfBytes_lt (bs.take 8)
  rw [List.length_take_of_le (by omega)] at low
  have lower : bytesZ (bs.take 8) = BitVec.ofNat 64 (natOfBytes bs) :=
    BitVec.eq_of_toNat_eq (by rw [bytesZ, BitVec.toNat_ofNat, BitVec.toNat_ofNat]; omega)
  have upper : natOfBytes (bs.drop 8) = natOfBytes bs / 2 ^ 64 := by omega
  rw [pairRegs, lower, bytesZ, upper]

/-- A load of the table is the body of a load of its bytes at the effective address, whose bytes become its number. -/
theorem exec_load {x : (BitVec 14 → Reg → Reg → Instr) × Nat × (Reg → Nat → List (Reg × W64))} (plain : x ∈ Claims.loadTable)
    (s : State) (im : BitVec 14) (a d : Reg) :
    ∃ f : LoadForm, exec (x.1 im a d) s = run (x.1 im a d) s (loadBody (x.1 im a d) f s) ∧ f.base = a ∧ f.off = sx im ∧ f.n = x.2.1 ∧
      (∀ bs, f.freg bs = []) ∧ ∀ bs, bs.length = f.n → f.reg bs = x.2.2 d (natOfBytes bs) := by
  simp only [Claims.loadTable, List.mem_cons, List.not_mem_nil, or_false] at plain
  have signed (n : Nat) (bs : List Byte) (length : bs.length = n) :
      [(d, bytesS bs)] = [(d, (BitVec.ofNat (8 * n) (natOfBytes bs)).signExtend 64)] := by rw [bytesS, length]
  obtain rfl | rfl | rfl | rfl | rfl | rfl | rfl | rfl := plain
  case inr.inr.inr.inr.inr.inr.inr =>
    exact ⟨{ base := a, off := sx im, n := 16, reg := pairRegs d, freg := fun _ => [] }, rfl, rfl, rfl, rfl, fun _ => rfl,
      fun _ => pairRegs_eq d⟩
  case inl => exact ⟨signedLoad im a d 1, rfl, rfl, rfl, rfl, fun _ => rfl, signed 1⟩
  case inr.inl => exact ⟨signedLoad im a d 2, rfl, rfl, rfl, rfl, fun _ => rfl, signed 2⟩
  case inr.inr.inl => exact ⟨signedLoad im a d 4, rfl, rfl, rfl, rfl, fun _ => rfl, signed 4⟩
  all_goals exact ⟨unsignedLoad im a d _, rfl, rfl, rfl, rfl, fun _ => rfl, fun _ _ => rfl⟩

/-- A store of the table is the body of a store of its number. -/
theorem exec_store {x : (BitVec 14 → Reg → Reg → Instr) × Nat × (Thread → Reg → Nat)} (plain : x ∈ Claims.storeTable)
    (s : State) (im : BitVec 14) (b a : Reg) :
    exec (x.1 im b a) s = run (x.1 im b a) s (storeBody im a x.2.1 (x.2.2 s.me b) s) := by
  simp only [Claims.storeTable, List.mem_cons, List.not_mem_nil, or_false] at plain
  obtain rfl | rfl | rfl | rfl | rfl := plain <;> rfl

/-! ## The stops of an access (R193, R198) -/

section
variable {s : State} {im : BitVec 14} {a : Reg} {stop : Stop}

/-- An address that leaves the segment of its base stops a load. -/
theorem loadBody_outside {f : LoadForm} (i : Instr) (base : f.base = a) (off : f.off = sx im) (outside : ¬Claims.InSegment s im a) :
    loadBody i f s = .error (.trap SEGV (Claims.effective s im a)) := by
  rw [loadBody, base, off, effAddr_outside outside]
  rfl

theorem storeBody_outside (n v : Nat) (outside : ¬Claims.InSegment s im a) :
    storeBody im a n v s = .error (.trap SEGV (Claims.effective s im a)) := by
  rw [storeBody, effAddr_outside outside]
  rfl

/-- A check that fails stops a load with what it answers. -/
theorem loadBody_unchecked {f : LoadForm} (i : Instr) (base : f.base = a) (off : f.off = sx im) (inside : Claims.InSegment s im a)
    (fails : accessCheck s.me (Claims.effective s im a) f.n rightR = .error stop) : loadBody i f s = .error stop := by
  rw [State.me] at fails
  rw [loadBody, base, off, effAddr_inSegment inside]
  simp only [loadCheck, fails, bind, Except.bind]

theorem storeBody_unchecked {n : Nat} (v : Nat) (inside : Claims.InSegment s im a)
    (fails : accessCheck s.me (Claims.effective s im a) n rightW = .error stop) : storeBody im a n v s = .error stop := by
  rw [State.me] at fails
  rw [storeBody, effAddr_inSegment inside]
  simp only [storeCheck, length_bytesOfNat, fails, bind, Except.bind]

end

/-- Settles O8: the body of a load or store stops at the address or at the check, before it reads or writes anything. -/
theorem memoryAccessTraps : Obligations.MemoryAccessTraps := by
  unfold Obligations.MemoryAccessTraps
  rintro r (⟨x, plain, rfl⟩ | ⟨x, plain, rfl⟩) s im a d ea alone
  · obtain ⟨f, runs, base, off, size, -, -⟩ := exec_load plain s im a d
    refine ⟨fun outside => ?_, fun inside misaligned => ?_, fun inside aligned bad => ?_⟩
    · rw [runs, loadBody_outside _ base off outside, run_trap _ _ alone]
    · rw [runs, loadBody_unchecked _ base off inside (accessCheck_misaligned _ (size ▸ misaligned)), run_trap _ _ alone]
    · rw [runs, loadBody_unchecked _ base off inside (accessCheck_segBad (size ▸ aligned) (size ▸ bad)), run_trap _ _ alone]
  · have runs := exec_store plain s im d a
    refine ⟨fun outside => ?_, fun inside misaligned => ?_, fun inside aligned bad => ?_⟩
    · rw [runs, storeBody_outside _ _ outside, run_trap _ _ alone]
    · rw [runs, storeBody_unchecked _ inside (accessCheck_misaligned _ misaligned), run_trap _ _ alone]
    · rw [runs, storeBody_unchecked _ inside (accessCheck_segBad aligned bad), run_trap _ _ alone]

end Sys2Proof.Laws
end

section
/-! PROOFS. Segment registers (R220, R221). -/

namespace Sys2Proof.Laws

open Sys2Proof Sys2Proof.Machine

/-! ## Segment registers (R194, R220, R221) -/

/-- A segment register after one of them is written. -/
theorem seg_tput (t : Thread) (n k : Nat) (x : Seg) :
    ({ t with sg := tput t.sg n x } : Thread).seg k = if n = k then x else t.seg k := tget_tput Seg.none t.sg n k x

/-- What SEGW and SEGN do where they answer 0: the segment register is written, the destination is 0, memory stays. -/
theorem segment_written (s : State) (n : Nat) (x : Seg) (d : Reg) (lat : Nat) :
    let t := s.finish ({ s.me with sg := tput s.me.sg n x }.wg d 0) lat
    t.me.rg d = 0 ∧ t.me.seg n = x ∧ (∀ k, k ≠ n → t.me.seg k = s.me.seg k) ∧ t.mem = s.mem := by
  have reads (k : Nat) : (s.finish ({ s.me with sg := tput s.me.sg n x }.wg d 0) lat).me.seg k = if n = k then x else s.me.seg k := by
    rw [me_finish, ← seg_tput s.me n k x, Thread.seg, Thread.seg, adv_sg, wg_sg]
  refine ⟨?_, ?_, fun k other => ?_, rfl⟩
  · rw [me_finish, rg_adv, rg_wg]
    split
    next => rfl
    next zero =>
      have : d = 0 := by simpa using zero
      rw [this, Thread.rg, if_pos rfl]
  · rw [reads, if_pos rfl]
  · rw [reads, if_neg other.symm]

theorem segWord_eq (g : Seg) (w : BitVec 2) :
    segWord g w = if w = 0 then g.base else if w = 1 then g.lim else BitVec.ofNat 64 g.attr.toNat := by
  rw [segWord, BitVec.ofNat_toNat]

/-- SEGW refuses an ATTR with a bit outside its fields or kind 7, and a LIM above 2^61. -/
theorem segwBad_iff (w : BitVec 2) (v : W64) :
    segwBad w v = true ↔
      (w = 2 ∧ (2 ^ 11 ≤ v.toNat ∨ v.toNat / 2 ^ 8 % 8 = 7 ∨ v.toNat / 2 ^ 5 % 8 ≠ 0)) ∨ (w = 1 ∧ 2 ^ 61 < v.toNat) := by
  have high : v.extractLsb' 11 53 = 0 ↔ v.toNat < 2 ^ 11 := by
    rw [← BitVec.toNat_inj, BitVec.extractLsb'_toNat, Nat.shiftRight_eq_div_pow]
    have := v.isLt
    change v.toNat / 2 ^ 11 % 2 ^ 53 = 0 ↔ v.toNat < 2 ^ 11
    omega
  have kind : v.extractLsb' 8 3 = 7 ↔ v.toNat / 2 ^ 8 % 8 = 7 := by
    rw [← BitVec.toNat_inj, BitVec.extractLsb'_toNat, Nat.shiftRight_eq_div_pow]
    rfl
  have middle : v.extractLsb' 5 3 = 0 ↔ v.toNat / 2 ^ 5 % 8 = 0 := by
    rw [← BitVec.toNat_inj, BitVec.extractLsb'_toNat, Nat.shiftRight_eq_div_pow]
    rfl
  simp only [segwBad, Bool.or_eq_true, Bool.and_eq_true, beq_iff_eq, bne_iff_ne, decide_eq_true_eq, ne_eq, high, kind, middle,
    not_lt, or_assoc]

/-- The length SEGN takes: 2^59 - 1 says the whole segment. -/
theorem segnLength_eq (v : W64) (whole : Nat) :
    (if v.extractLsb' 0 59 = ~~~0#59 then whole else (v.extractLsb' 0 59).toNat) =
      if v.toNat % 2 ^ 59 = 2 ^ 59 - 1 then whole else v.toNat % 2 ^ 59 := by
  have low : (v.extractLsb' 0 59).toNat = v.toNat % 2 ^ 59 := by
    rw [BitVec.extractLsb'_toNat, Nat.shiftRight_zero]
  simp only [← BitVec.toNat_inj, low]
  rfl

/-- SEGN's mask keeps the kind. -/
theorem extract_kind_and_mask (x : BitVec 11) (m : BitVec 5) : (x &&& (0x3F#6 ++ m)).extractLsb' 8 3 = x.extractLsb' 8 3 := by
  rw [BitVec.extractLsb'_and, BitVec.extractLsb'_append_eq_of_le (by omega)]
  exact BitVec.and_allOnes

/-- SEGN's mask takes the rights away whose bits of g_b are 0. -/
theorem getLsbD_and_mask (x : BitVec 11) (v : W64) {k : Nat} (right : k < 5) :
    (x &&& (0x3F#6 ++ v.extractLsb' 59 5)).getLsbD k = (x.getLsbD k && v.getLsbD (59 + k)) := by
  rw [BitVec.getLsbD_and, BitVec.getLsbD_append, if_pos right, BitVec.getLsbD_extractLsb']
  simp [right]

section
variable {s : State} {g : BitVec 3} {w : BitVec 2} {b a d : Reg}

theorem execSegw_user (user : modeOf s.cur = 0) (alone : twinLag s s.cur = false) :
    exec (.segw g w a d) s = .next (trapMe s PRIV s.me.pc) :=
  (if_pos (by omega : modeOf s.cur < 1)).trans (run_trap _ _ alone)

theorem execSegw_mode (allowed : 1 ≤ modeOf s.cur) :
    exec (.segw g w a d) s = if segwBad w (s.me.rg a) then .next (s.finishG d 1 6) else
      .next (s.finish ({ s.me with sg := tput s.me.sg g.toNat (if w = 0 then { s.me.seg g.toNat with base := s.me.rg a }
        else if w = 1 then { s.me.seg g.toNat with lim := s.me.rg a }
        else { s.me.seg g.toNat with attr := (s.me.rg a).setWidth 11 }) }.wg d 0) 6) :=
  if_neg (by omega : ¬modeOf s.cur < 1)

end

/-- Settles O10: SEGR reads a word; SEGW and SEGN write the segment register they name, SEGN one that lies inside the old one. -/
theorem segmentRegisters : Obligations.SegmentRegisters := by
  unfold Obligations.SegmentRegisters
  intro s g w b a d _ x v len bad
  refine ⟨?_, execSegw_user, fun mode refused => ?_, fun mode fine => ?_, fun above => ?_, fun inside => ?_⟩
  · rw [← segWord_eq]
    rfl
  · rw [execSegw_mode mode, if_pos ((segwBad_iff w v).mpr refused)]
    rfl
  · rw [execSegw_mode mode, if_neg (mt (segwBad_iff w v).mp fine)]
    obtain ⟨dest, written, others, memory⟩ := segment_written s g.toNat (if w = 0 then { x with base := v }
      else if w = 1 then { x with lim := v } else { x with attr := v.setWidth 11 }) d 6
    refine ⟨_, rfl, dest, written.trans ?_, others, memory⟩
    rw [BitVec.ofNat_toNat]
  · exact if_pos above
  · obtain ⟨dest, written, others, memory⟩ := segment_written s g.toNat
      { base := x.base + v, lim := BitVec.ofNat 64 (Nat.min (x.lim.toNat - v.toNat)
          (if (s.me.rg b).extractLsb' 0 59 = ~~~0#59 then x.lim.toNat else ((s.me.rg b).extractLsb' 0 59).toNat)),
        attr := x.attr &&& (0x3F#6 ++ (s.me.rg b).extractLsb' 59 5) } d 6
    refine ⟨_, if_neg (not_lt.mpr inside), dest, ?_, ?_, ?_, fun k right => ?_, others, memory⟩
    · exact congrArg Seg.base written
    · refine (congrArg (fun y => y.lim.toNat) written).trans ?_
      rw [segnLength_eq]
      exact Nat.mod_eq_of_lt (lt_of_le_of_lt (Nat.min_le_left _ _) (by have := x.lim.isLt; omega))
    · refine (congrArg Seg.kind written).trans ?_
      rw [Seg.kind, extract_kind_and_mask]
      rfl
    · exact (congrArg (fun y => y.attr.getLsbD k) written).trans (getLsbD_and_mask _ _ right)

end Sys2Proof.Laws
end

section
/-! PROOFS. Loads of the own scratchpad, of L1 and of the constant cache, load-acquires, and loads of the thread's own stores
(R162, R196, R198, R208, R209, R231). -/

namespace Sys2Proof.Laws

open Sys2Proof Sys2Proof.Machine

/-! ## What the store queue gives a load (R198) -/

@[simp] theorem takenBytes_nil : takenBytes [] = [] := rfl

theorem patch_nil (a : Nat) (bs : List Byte) : patch [] a bs = bs := by
  simp [patch]

theorem allTaken_nil (a : Nat) {n : Nat} (positive : 0 < n) : allTaken [] a n = false := by
  obtain ⟨m, rfl⟩ := Nat.exists_eq_succ_of_ne_zero positive.ne'
  simp [allTaken, List.range_succ_eq_map]

/-! ## Loads of the own scratchpad (R196, R209) -/

section
variable {s : State} {ea : W64} {o n : Nat}

theorem loadAt_own (i : Instr) (positive : 0 < n) (quiet : Claims.Quiet s o n) :
    loadAt i s s.cur ea n (.spad s.myCore o) = .ok (s, spadBytes s.mem s.myCore o n, 8) := by
  obtain ⟨pending, sound⟩ := quiet
  simp only [loadAt, ← State.myCore.eq_1, pending, Place.own, beq_self_eq_true, if_true, List.any_nil, Bool.false_eq_true, if_false,
    List.filter_nil, takenBytes_nil, allTaken_nil _ positive, ownLoad, List.foldl_nil, sound, Bool.not_false, Bool.true_and]

/-- A checked load in W0 of the own scratchpad that nothing makes wait is performed there. -/
theorem loadCheck_own (i : Instr) (own : Claims.OwnBytes s ea n rightR o) :
    loadCheck i s s.cur ea n = loadAt i s s.cur ea n (.spad s.myCore o) := by
  obtain ⟨aligned, ok, inside, unlocked, free⟩ := own
  rw [loadCheck, ← State.me.eq_1, accessCheck_ok aligned ok]
  simp only [bind, Except.bind, resolve_own .load inside unlocked free]

end

section
variable {s : State} {im : BitVec 14} {a : Reg} {o : Nat} {f : LoadForm}

theorem loadTable_positive {x : (BitVec 14 → Reg → Reg → Instr) × Nat × (Reg → Nat → List (Reg × W64))} (plain : x ∈ Claims.loadTable) :
    0 < x.2.1 := by
  revert x
  simp [Claims.loadTable]

/-- A load whose bytes are at hand writes the destination's registers. -/
theorem loadBody_loaded (i : Instr) {bs : List Byte} {lat : Nat} {t : State} (base : f.base = a) (off : f.off = sx im)
    (inside : Claims.InSegment s im a)
    (loads : loadCheck i s s.cur (Claims.effective s im a) f.n = .ok (t, bs, lat)) :
    loadBody i f s = (writeFs t s.cur (f.freg bs)).bind fun t => .ok (t.finish (t.me.wgs (f.reg bs)) lat) := by
  rw [loadBody, base, off, effAddr_inSegment inside]
  simp only [bind, Except.bind, loads]
  rfl

/-- A plain load whose bytes are at hand. -/
theorem exec_load_loaded {x : (BitVec 14 → Reg → Reg → Instr) × Nat × (Reg → Nat → List (Reg × W64))} (plain : x ∈ Claims.loadTable)
    {d : Reg} {bs : List Byte} {lat : Nat} (length : bs.length = x.2.1) (inside : Claims.InSegment s im a)
    (loads : loadCheck (x.1 im a d) s s.cur (Claims.effective s im a) x.2.1 = .ok (s, bs, lat)) :
    exec (x.1 im a d) s = .next (s.finish (Claims.wgAll s.me (x.2.2 d (natOfBytes bs))) lat) := by
  obtain ⟨f, runs, base, off, size, noPacks, words⟩ := exec_load plain s im a d
  rw [runs, loadBody_loaded _ base off inside (size ▸ loads), noPacks, words bs (length.trans size.symm)]
  rfl

end

theorem loadsReadTheOwnScratchpad : Claims.LoadsReadTheOwnScratchpad := by
  refine ⟨fun x plain s im a d o inside own quiet => ?_, fun s im a d o idle register inside own quiet => ?_⟩
  · exact exec_load_loaded plain (length_spadBytes ..) inside
      ((loadCheck_own _ own).trans (loadAt_own _ (loadTable_positive plain) quiet))
  · have loads := (loadCheck_own (.flq im a d) own).trans (loadAt_own _ (by decide) quiet)
    have target : s.me.streamOf d = none := if_neg fun ⟨high, on⟩ => register.elim (fun low => absurd high low.not_ge) on
    change execFlq im a d s = _
    rw [execFlq, runFree_idle idle]
    simp only [bind, Except.bind]
    rw [loadBody_loaded (f := { base := a, off := sx im, n := 16, reg := fun _ => [], freg := fun bs => [(d, BitVec.ofNat 128 (natOfBytes bs))] })
      _ rfl rfl inside loads, writeFs, writeF_register (key := s.cur) target]
    simp only [bind, Except.bind, writeFs, me_setThread_cur, finish_setThread_cur]
    rfl

/-! ## Loads of L1 and of the constant cache (R196, R208) -/

theorem length_lineBytes (d : BitVec 512) (off n : Nat) : (lineBytes d off n).length = n := by
  induction n generalizing off with
  | zero => rfl
  | succ n ih => rw [lineBytes, List.length_cons, ih]

theorem natOfBytes_lineBytes (d : BitVec 512) (off n : Nat) :
    natOfBytes (lineBytes d off n) = d.toNat / 2 ^ (8 * off) % 2 ^ (8 * n) := by
  induction n generalizing off with
  | zero => simp [lineBytes, natOfBytes, Nat.mod_one]
  | succ n ih =>
    have next : d.toNat / 2 ^ (8 * (off + 1)) = d.toNat / 2 ^ (8 * off) / 2 ^ 8 := by
      rw [Nat.div_div_eq_div_mul, ← Nat.pow_add, Nat.mul_succ]
    rw [lineBytes, natOfBytes, ih, BitVec.extractLsb'_toNat, Nat.shiftRight_eq_div_pow, next, Nat.mul_succ, Nat.add_comm (8 * n) 8,
      Nat.pow_add, Nat.mod_mul]

section
variable {s : State} {ea : W64} {o n pa : Nat} {leaf : W64} {line : BitVec 512}

theorem loadAt_l1 (i : Instr) (positive : 0 < n) (oneLine : o % 64 + n ≤ 64) (cached : leafUC leaf = false) (near : leafCls leaf ≠ 4)
    (hit : tfind (s.core s.myCore).l1 (s.partOf s.myCore * 2 ^ 41 + o / 64) = some line)
    (pending : ownPending s s.cur (.global o pa leaf) n = []) :
    loadAt i s s.cur ea n (.global o pa leaf) = .ok (s, lineBytes line (o % 64) n, 10) := by
  have first : firstPart o n = n := Nat.min_eq_left (by omega)
  have found : tryLoad s s.myCore (s.partOf s.myCore) o n pa leaf [] = some (s, lineBytes line (o % 64) n, false, 10) := by
    simp only [tryLoad, first, tryLine, cached, lineKey, hit, Bool.false_eq_true, if_false, le_refl, if_true]
  simp only [loadAt, ← State.myCore.eq_1, pending, Place.own, Bool.false_eq_true, if_false, List.any_nil, List.filter_nil,
    takenBytes_nil, allTaken_nil _ positive, near, found, patch_nil]

theorem resolve_global {t : State} (k : AccessKind) (onePage : o % 4096 + n ≤ 4096) (free : acquirePending s s.cur = false)
    (translates : translate s (clusterOf s.myCore) (s.partOf s.myCore) o k.acc ea = .ok (t, leaf, pa)) :
    resolve s s.cur ea n k 1 o = .ok (t, .global o pa leaf) := by
  simp only [resolve, free, ← State.myCore.eq_1, translates, bind, Except.bind, Bool.false_eq_true, if_false, onePage, if_true]
  rfl

end

theorem loadsReadL1 : Claims.LoadsReadL1 := by
  intro x plain s im a d o pa leaf line ea part inside aligned ok oneLine free translates cached near hit pending
  have positive := loadTable_positive plain
  rw [← natOfBytes_lineBytes]
  refine exec_load_loaded plain (length_lineBytes ..) inside ?_
  rw [loadCheck, ← State.me.eq_1, accessCheck_ok aligned ok]
  have onePage : o % 4096 + x.2.1 ≤ 4096 := by clear ok; omega
  have resolves : resolve s s.cur (Claims.effective s im a) x.2.1 .load 1 o = .ok (s, .global o pa leaf) :=
    resolve_global .load onePage free translates
  simp only [bind, Except.bind, resolves]
  exact loadAt_l1 _ positive oneLine cached near hit pending

theorem constantLoadsHitTheConstantCache : Claims.ConstantLoadsHitTheConstantCache := by
  intro s im a d o line ea inside aligned ok oneLine free hit
  have checked : ldcCheck s.me (Claims.effective s im a) = .ok o := by
    rw [ldcCheck, accessCheck_ok aligned ok]
    rfl
  change execLdc im a d s = _
  rw [execLdc, effAddr_inSegment inside]
  simp only [bind, Except.bind, checked, free, lineKey, hit, Bool.false_eq_true, if_false, oneLine, if_true, bytesZ,
    natOfBytes_lineBytes]
  rfl

/-! ## Load-acquires (R231) -/

theorem ldaBody_own {s : State} {o : Nat} {f : LdaForm} (i : Instr) (positive : 0 < f.n)
    (own : Claims.OwnBytes s (s.me.rg f.base) f.n rightR o) (quiet : Claims.Quiet s o f.n) :
    ldaBody i f s =
      .ok (acquireAt (s.finish (Claims.wgAll s.me (f.reg (spadBytes s.mem s.myCore o f.n))) 8) s.myCore f.scope) := by
  obtain ⟨aligned, ok, inside, unlocked, free⟩ := own
  have place : ldaPlace s s.cur f = .ok (s, s.me.rg f.base, .spad s.myCore o) := by
    rw [ldaPlace, ← State.me.eq_1, accessCheck_ok aligned ok]
    simp only [bind, Except.bind, resolve_own .tag inside unlocked free]
    rfl
  rw [ldaBody, place]
  simp only [bind, Except.bind, loadAt_own i positive quiet]
  rfl

theorem loadAcquires : Claims.LoadAcquires := by
  intro s sc a d o x among own quiet
  simp only [List.mem_cons, List.not_mem_nil, or_false] at among
  have form : ∃ f : LdaForm, exec (x.1 sc a d) s = run (x.1 sc a d) s (ldaBody (x.1 sc a d) f s) ∧ f.base = a ∧ f.scope = sc.toNat ∧
      f.n = x.2.1 ∧ 0 < f.n ∧ ∀ bs, bs.length = f.n → f.reg bs = x.2.2 (natOfBytes bs) := by
    obtain rfl | rfl | rfl := among
    · exact ⟨{ base := a, n := 4, scope := sc.toNat, reg := fun bs => [(d, bytesS bs)] }, rfl, rfl, rfl, rfl, Nat.succ_pos 3,
        fun bs length => by
          change [(d, bytesS bs)] = _
          rw [bytesS, length]
          rfl⟩
    · exact ⟨{ base := a, n := 8, scope := sc.toNat, reg := fun bs => [(d, bytesZ bs)] }, rfl, rfl, rfl, rfl, Nat.succ_pos 7,
        fun _ _ => rfl⟩
    · exact ⟨{ base := a, n := 16, scope := sc.toNat, reg := pairRegs d }, rfl, rfl, rfl, rfl, Nat.succ_pos 15, fun _ => pairRegs_eq d⟩
  obtain ⟨f, runs, base, scope, size, positive, words⟩ := form
  rw [runs, ldaBody_own _ positive (by rw [base, size]; exact own) (by rw [size]; exact quiet), words _ (length_spadBytes ..), scope, size]
  rfl

/-! ## Stores to the own scratchpad (R197, R211) -/

section
variable {s : State} {ea : W64} {o : Nat}

@[simp] theorem queued_mem (s : State) (e : StoreEntry) : (Claims.queued s e).mem = s.mem := rfl
@[simp] theorem queued_cur (s : State) (e : StoreEntry) : (Claims.queued s e).cur = s.cur := rfl
@[simp] theorem queued_myCore (s : State) (e : StoreEntry) : (Claims.queued s e).myCore = s.myCore := rfl
@[simp] theorem me_queued (s : State) (e : StoreEntry) : (Claims.queued s e).me = s.me := rfl

@[simp] theorem arch_queued (s : State) (e : StoreEntry) : (Claims.queued s e).arch s.myCore = s.arch s.myCore := by
  rw [Claims.queued, State.arch, core_setCore_same]
  rfl

theorem storeq_queued (s : State) (e : StoreEntry) :
    ((Claims.queued s e).core s.myCore).storeq = (s.core s.myCore).storeq ++ [e] := by
  rw [Claims.queued, core_setCore_same]

theorem enqueueStore_room (e : StoreEntry) (room : (s.core s.myCore).storeq.length < 16) :
    enqueueStore s s.myCore e = .ok (Claims.queued s e) := if_pos room

theorem storeAt_own {bs : List Byte} {op : StoreOp} (room : (s.core s.myCore).storeq.length < 16) :
    storeAt s s.cur ea (.spad s.myCore o) bs op none = .ok (Claims.queued s (Claims.ownEntry s ea o bs op)) :=
  enqueueStore_room _ room

/-- A checked store in W0 of the own scratchpad that nothing makes wait enters the store queue. -/
theorem storeCheck_own {bs : List Byte} (own : Claims.OwnBytes s ea bs.length rightW o) (can : Claims.CanStore s) :
    storeCheck s s.cur ea bs = .ok (Claims.queued s (Claims.ownEntry s ea o bs .write)) := by
  obtain ⟨aligned, ok, inside, unlocked, free⟩ := own
  obtain ⟨room, leads, trails⟩ := can
  rw [storeCheck, ← State.me.eq_1, accessCheck_ok aligned ok]
  simp only [bind, Except.bind, trails, Bool.false_eq_true, if_false, resolve_own .store inside unlocked free]
  exact storeOrCompare_own leads room

theorem storeBody_own {im : BitVec 14} {a : Reg} {n : Nat} (v : Nat) (inside : Claims.InSegment s im a)
    (own : Claims.OwnBytes s (Claims.effective s im a) n rightW o) (can : Claims.CanStore s) :
    storeBody im a n v s =
      .ok ((Claims.queued s (Claims.ownEntry s (Claims.effective s im a) o (bytesOfNat n v) .write)).finish s.me 8) := by
  rw [storeBody, effAddr_inSegment inside]
  have enters := storeCheck_own (bs := bytesOfNat n v) (by rw [length_bytesOfNat]; exact own) can
  simp only [bind, Except.bind, enters]
  rfl

end

theorem storesEnterTheStoreQueue : Claims.StoresEnterTheStoreQueue := by
  intro x plain s im b a o ea inside own can
  rw [exec_store plain, storeBody_own _ inside own can]
  rfl

/-! ## A load of the thread's own stores (R198) -/

/-- Bytes taken from the queue cover the bytes of the latest entry. -/
theorem tfind_taken (bs : List Byte) (m : Mem) {a x : Nat} (covered : (a ≤ x ∧ x < a + bs.length) ∨ (tfind m x).isSome) :
    (tfind ((bs.zipIdx a).foldl (fun m x => tput m x.2 x.1) m) x).isSome := by
  induction bs generalizing m a with
  | nil => exact covered.resolve_left fun h => by simp at h; omega
  | cons b bs ih =>
    rw [List.zipIdx_cons, List.foldl_cons]
    refine ih _ ?_
    rw [tfind_tput]
    rcases covered with ⟨low, high⟩ | held
    · rw [List.length_cons] at high
      rcases low.eq_or_lt with rfl | above
      · exact .inr (by simp)
      · exact .inl (by omega)
    · exact .inr (by split <;> simp [held])

theorem takenBytes_concat (es : List StoreEntry) (e : StoreEntry) :
    takenBytes (es ++ [e]) = (e.bytes.zipIdx e.place.addr).foldl (fun m x => tput m x.2 x.1) (takenBytes es) := by
  rw [takenBytes, List.foldl_concat]
  rfl

/-- A load of just the bytes of the thread's latest store, where no earlier one has bytes unknown before it is performed. -/
theorem loadAt_latest {s : State} {ea : W64} {o : Nat} {e : StoreEntry} {es : List StoreEntry} (i : Instr)
    (pending : ownPending s s.cur (.spad s.myCore o) e.bytes.length = es ++ [e]) (known : es.all (fun e => !e.late) = true)
    (store : e.op = .write) (place : e.place = .spad s.myCore o) :
    loadAt i s s.cur ea e.bytes.length (.spad s.myCore o) = .ok (s, e.bytes, 8) := by
  have late : (es ++ [e]).any StoreEntry.late = false := by
    rw [List.any_append, List.any_cons, List.any_nil, StoreEntry.late, store]
    simpa using known
  have full : allTaken (takenBytes ((es ++ [e]).filter StoreEntry.plain)) (Place.spad s.myCore o).addr e.bytes.length = true := by
    have plain : [e].filter StoreEntry.plain = [e] := List.filter_cons_of_pos (by rw [StoreEntry.plain, store])
    rw [List.filter_append, plain, takenBytes_concat, place]
    refine List.all_eq_true.mpr fun k among => tfind_taken _ _ (.inl ?_)
    have := List.mem_range.mp among
    omega
  have performed (m : Memory) : spadBytes ((es ++ [e]).foldl spadPerform m) s.myCore o e.bytes.length = e.bytes := by
    rw [List.foldl_concat]
    generalize es.foldl spadPerform m = m
    have writes : spadPerform m e = spadWrite m s.myCore o e.bytes := by rw [spadPerform, place, store]
    rw [writes, spadBytes_spadWrite]
  simp only [loadAt, ← State.myCore.eq_1, pending, Place.own, beq_self_eq_true, if_true, late, Bool.false_eq_true, if_false, ownLoad,
    full, performed, Bool.not_true, Bool.false_and]

theorem loadReturnsTheThreadsOwnStore : Claims.LoadReturnsTheThreadsOwnStore := by
  intro s im b a d o ea inside own readable can known noCompare dest
  obtain ⟨aligned, -, inWindow, unlocked, free⟩ := id own
  obtain ⟨e, entry⟩ : ∃ e, e = Claims.ownEntry s ea o (bytesOfNat 8 (s.me.rg b).toNat) .write := ⟨_, rfl⟩
  obtain ⟨t, stored⟩ : ∃ t, t = (Claims.queued s e).finish s.me 8 := ⟨_, rfl⟩
  have stores : exec (.sd im b a) s = .next t := by
    rw [stored, entry]
    exact storesEnterTheStoreQueue (.sd, 8, fun t b => (t.rg b).toNat) (by simp [Claims.storeTable]) s im b a o inside own can
  have me : t.me = s.me.adv (s.doneAt 8) := by rw [stored]; exact me_finish ..
  have cur : t.cur = s.cur := by rw [stored]; rfl
  have core : t.myCore = s.myCore := by rw [State.myCore, cur]; rfl
  have arch : t.arch s.myCore = s.arch s.myCore := by rw [stored, arch_finish, arch_queued]
  have mem : t.mem = s.mem := by rw [stored]; rfl
  have queue : (t.core s.myCore).storeq = (s.core s.myCore).storeq ++ [e] := by rw [stored]; exact storeq_queued s e
  have compare : t.me.cmp = [] := by rw [me]; exact noCompare
  have regs (r : Reg) : t.me.rg r = s.me.rg r := by rw [me]; rfl
  have address : Claims.effective t im a = ea := by rw [effective_eq, regs]; rfl
  have size : e.bytes.length = 8 := by rw [entry]; exact length_bytesOfNat ..
  have freeThen : acquirePending t t.cur = false := by
    rw [acquirePending, ← State.myCore.eq_1, ← State.me.eq_1, noCompare, List.append_nil] at free
    rw [acquirePending, ← State.me.eq_1, compare, List.append_nil, cur, ← State.myCore.eq_1, queue, List.any_append, free, entry]
    simp [Claims.ownEntry]
  have pending : ownPending t t.cur (.spad s.myCore o) e.bytes.length = ownPending s s.cur (.spad s.myCore o) 8 ++ [e] := by
    rw [ownPending, ownPending, ← State.me.eq_1, ← State.me.eq_1, compare, noCompare, cur, ← State.myCore.eq_1, queue, size,
      List.append_nil, List.append_nil, List.filter_append]
    refine congrArg _ (List.filter_cons_of_pos ?_)
    rw [entry]
    simp [Claims.ownEntry, StoreEntry.len, samePlace, Place.ranges, overlaps, bytesOfNat]
  have ownThen : Claims.OwnBytes t (Claims.effective t im a) 8 rightR o := by
    refine ⟨by rw [address]; exact aligned, by rw [address, me]; exact readable, inWindow, ?_, freeThen⟩
    rw [Claims.Unlocked, core, arch, cur]
    exact unlocked
  have loads : loadCheck (.ld im a d) t t.cur (Claims.effective t im a) 8 = .ok (t, e.bytes, 8) := by
    have taken := loadAt_latest (ea := Claims.effective t im a) (.ld im a d) (by rw [core]; exact pending) known (by rw [entry]; rfl)
      (by rw [entry, core]; rfl)
    rw [size] at taken
    exact (loadCheck_own _ ownThen).trans taken
  refine ⟨t, _, stores, exec_load_loaded (x := (.ld, 8, fun d v => [(d, BitVec.ofNat 64 v)])) (by simp [Claims.loadTable])
    size (by rw [Claims.InSegment, address, regs]; exact inside) loads, ?_, ?_, mem⟩
  · rw [me_finish, rg_adv]
    change (t.me.wg d (BitVec.ofNat 64 (natOfBytes e.bytes))).rg d = s.me.rg b
    rw [rg_wg_same _ _ _ dest, entry]
    change BitVec.ofNat 64 (natOfBytes (bytesOfNat 8 (s.me.rg b).toNat)) = s.me.rg b
    rw [natOfBytes_bytesOfNat, Nat.mod_eq_of_lt (b := 256 ^ 8) (s.me.rg b).isLt, BitVec.ofNat_toNat, BitVec.setWidth_eq]
  · rw [me_finish, State.doneAt, core, stored]
    rfl

/-- Settles O5: a load's bytes come from the own scratchpad, from a line that is at hand, or from the thread's latest store. -/
theorem loadsReturnTheirBytes : Obligations.LoadsReturnTheirBytes :=
  ⟨loadsReadTheOwnScratchpad, loadsReadL1, constantLoadsHitTheConstantCache, loadAcquires, loadReturnsTheThreadsOwnStore⟩

end Sys2Proof.Laws
end

section
/-! PROOFS. A store that is accepted in a full cluster (R197, R200). -/

namespace Sys2Proof.Laws

open Sys2Proof Sys2Proof.Machine

/-! ## Victim cores in a table that does not rise

A cluster's capacity counts the victim cores that are listed (R352). Where the table of cores does not rise, an update of a core that
stands after one of a higher number lists it a second time, and the count goes up. Here the cluster of cores 0 … 3 in DEC-TED mode has
room while its four victim cores are listed once, and none with core 0 listed twice: the copy of line 65 leaves for the store's line 64. -/

/-- The oldest store of core 0, to a global line homed in another cluster. -/
def crowdingStore : StoreEntry :=
  { slot := 0, stream := none, part := 0, place := .global 0x103E 0x203E 0x31F, addr := 0, bytes := [1, 2], op := .write, epoch := 0 }

/-- A copy in the cluster, clean. -/
def crowdedCopy : Staged := { pa := 0x2040, data := 0, valid := 1, dirty := 0, cls := 0, poison := 0, home := 0 }

def victimCore (queue : List StoreEntry) : Core := { Core.reset with vict := true, storeq := queue }

/-- Core 0 stands after core 1. -/
def crowdedState : State :=
  { State.reset with
    cores := [(1, victimCore []), (0, victimCore [crowdingStore]), (2, victimCore []), (3, victimCore [])],
    dies := [(0, { Die.reset with dected := true })],
    clusters := [(0, { Cluster.reset with staging := [(65, crowdedCopy)] })] }

/-- The copy of line 65 in the cluster of core 0 after a step. -/
def copyAfter (o : Out) : Option Staged :=
  match o with
  | .next t => tfind (t.cluster (clusterOf 0)).staging 65
  | _ => none

theorem copyAfter_storeAccept_crowdedState : copyAfter (exec (.storeAccept 0 0) crowdedState) = none := by decide +kernel

/-- The cluster has room for the line before the step. -/
theorem stageCap_crowdedState :
    (crowdedState.cluster (clusterOf 0)).staging.length < stageCap crowdedState (clusterOf 0) := by decide +kernel

/-- Refutes O6: the copy of another line goes where the table of cores does not rise. -/
theorem not_storesWaitForAcceptance : ¬ Obligations.StoresWaitForAcceptance := by
  unfold Obligations.StoresWaitForAcceptance
  rintro ⟨-, -, -, -, accepts⟩
  obtain ⟨t, -, next, -, -, -, -, others⟩ := accepts crowdedState 0 0x103E 0x203E 0x31F crowdingStore [] rfl rfl rfl rfl
    (by decide +kernel) (by decide) (by decide) (by decide +kernel) (by decide) stageCap_crowdedState
  have stays : copyAfter (.next t) = some crowdedCopy := (others 65 (by decide)).trans rfl
  rw [← next, copyAfter_storeAccept_crowdedState] at stays
  cases stays

end Sys2Proof.Laws
end

section
/-! PROOFS. What drains and write-backs move and leave alone (R200, R201), and atomics on the own scratchpad (R204, R207, R213-R215). -/

namespace Sys2Proof.Laws

open Sys2Proof Sys2Proof.Machine

/-! ## Copies that move -/

/-- Only the staging copies and device memory differ: what write-backs, drains and drops may change. -/
def CopiesMoved (s t : State) : Prop := ∃ r p c, t = { s with mem := { s.mem with ram := r, ramPoison := p }, clusters := c }

namespace CopiesMoved

variable {s t u : State}

theorem refl (s : State) : CopiesMoved s s := ⟨_, _, _, rfl⟩

theorem trans (first : CopiesMoved s t) (second : CopiesMoved t u) : CopiesMoved s u := by
  obtain ⟨r, p, c, rfl⟩ := first
  obtain ⟨r', p', c', rfl⟩ := second
  exact ⟨r', p', c', rfl⟩

theorem me (moved : CopiesMoved s t) : t.me = s.me := by
  obtain ⟨r, p, c, rfl⟩ := moved
  rfl

theorem cur (moved : CopiesMoved s t) : t.cur = s.cur := by
  obtain ⟨r, p, c, rfl⟩ := moved
  rfl

theorem myCore (moved : CopiesMoved s t) : t.myCore = s.myCore := by
  rw [State.myCore, moved.cur, State.myCore]

theorem thread (moved : CopiesMoved s t) (k : Nat) : t.thread k = s.thread k := by
  obtain ⟨r, p, c, rfl⟩ := moved
  rfl

theorem spadBytes (moved : CopiesMoved s t) (c o n : Nat) : spadBytes t.mem c o n = spadBytes s.mem c o n := by
  obtain ⟨r, p, c, rfl⟩ := moved
  rfl

theorem spadPoisoned (moved : CopiesMoved s t) (c o n : Nat) : spadPoisoned t.mem c o n = spadPoisoned s.mem c o n := by
  obtain ⟨r, p, c, rfl⟩ := moved
  rfl

theorem core (moved : CopiesMoved s t) (k : Nat) : t.core k = s.core k := by
  obtain ⟨r, p, c, rfl⟩ := moved
  rfl

theorem doneAt (moved : CopiesMoved s t) (n : Nat) : t.doneAt n = s.doneAt n := by
  obtain ⟨r, p, c, rfl⟩ := moved
  rfl

end CopiesMoved

theorem mergeCopies_device {α : Type} (m : Memory) (l : List α) (f : Memory → α → Memory)
    (merges : ∀ m x, f m x = m ∨ ∃ c, f m x = mergeCopy m c) : ∃ r p, l.foldl f m = { m with ram := r, ramPoison := p } := by
  refine foldl_keeps (fun x => ∃ r p, x = { m with ram := r, ramPoison := p }) f (fun x a held => ?_) l m ⟨_, _, rfl⟩
  obtain ⟨r, p, rfl⟩ := held
  obtain same | ⟨c, merged⟩ := merges { m with ram := r, ramPoison := p } a
  · exact ⟨r, p, same⟩
  · exact ⟨_, _, merged⟩

theorem copiesMoved_of_mem {s : State} {m : Memory} {c : Tab Cluster} (device : ∃ r p, m = { s.mem with ram := r, ramPoison := p }) :
    CopiesMoved s { s with mem := m, clusters := c } := by
  obtain ⟨r, p, rfl⟩ := device
  exact ⟨r, p, c, rfl⟩

theorem copiesMoved_setCluster (s : State) (clu : Nat) (x : Cluster) : CopiesMoved s (s.setCluster clu x) := ⟨_, _, _, rfl⟩

theorem copiesMoved_flushWb (s : State) (clu : Nat) : CopiesMoved s (flushWb s clu) := by
  unfold flushWb
  dsimp only
  split
  · exact .refl s
  · exact copiesMoved_of_mem (mergeCopies_device s.mem _ _ fun _ w => .inr ⟨w.copy, rfl⟩)

theorem copiesMoved_writeBackLine (s : State) (clu key : Nat) : CopiesMoved s (writeBackLine s clu key) := by
  refine (copiesMoved_flushWb s clu).trans ?_
  unfold writeBackLine
  generalize flushWb s clu = t
  dsimp only
  split
  · exact .refl t
  · split
    · exact .refl t
    · exact copiesMoved_of_mem ⟨_, _, rfl⟩

theorem copiesMoved_dropLine (s : State) (clu key : Nat) : CopiesMoved s (dropLine s clu key) := copiesMoved_setCluster ..

theorem copiesMoved_drainCluster (s : State) (clu : Nat) : CopiesMoved s (drainCluster s clu) := by
  refine (copiesMoved_flushWb s clu).trans ?_
  unfold drainCluster
  generalize flushWb s clu = t
  refine copiesMoved_of_mem (mergeCopies_device _ _ _ fun m kl => ?_)
  dsimp only
  split
  · exact .inr ⟨_, rfl⟩
  · exact .inl rfl

theorem copiesMoved_released (s : State) (scope : Nat) : CopiesMoved s (Claims.released s scope) := by
  unfold Claims.released
  split
  · exact copiesMoved_drainCluster ..
  · exact .refl s

/-! ## The eager release (R201, R232) -/

section
variable {s : State} {scope : Nat}

theorem releaseMoves_eager (s : State) (scope : Nat) : releaseMoves s s.myCore scope false = Claims.released s scope := by
  have wide : (4 ≤ scope ∨ scope = 3) ↔ 3 ≤ scope := by omega
  simp only [releaseMoves, Claims.released, and_true, wide]

theorem releaseWaits_eager (free : Claims.NoReleaseWait s scope) : releaseWaits s s.cur scope false = false := by
  obtain ⟨held, reach⟩ := free
  rw [releaseWaits, held, Bool.false_or, movesHeld, ← State.myCore.eq_1]
  by_cases wide : 3 ≤ scope
  · rw [reach wide]
    simp
  · have : ¬4 ≤ scope ∧ scope ≠ 3 := by omega
    simp [this]

end

/-! ## Atomics on the own scratchpad -/

theorem atSpad_sound {s : State} {c o n : Nat} (f : Nat → Option Nat) (sound : spadPoisoned s.mem c o n = false) :
    atSpad s c o n f = ((match f (natOfBytes (spadBytes s.mem c o n)) with
      | some v => { s with mem := spadWrite s.mem c o (bytesOfNat n v) }
      | none => s), natOfBytes (spadBytes s.mem c o n), false) := by
  rw [atSpad, sound]
  cases f (natOfBytes (spadBytes s.mem c o n)) <;> rfl

section
variable {s : State} {a : Reg} {sc : BitVec 3} {od : BitVec 2} {n o : Nat}

theorem atomPlace_own {x : Atomic} (own : Claims.OwnBytes s (s.me.rg x.a) x.n rightR o)
    (writable : Claims.SegOk s.me (s.me.rg x.a) x.n rightW 2 o) (atomics : Claims.SegOk s.me (s.me.rg x.a) x.n rightA 2 o) :
    atomPlace s s.cur x = .ok (s, s.me.rg x.a, .spad s.myCore o) := by
  obtain ⟨aligned, readable, inside, unlocked, free⟩ := own
  have even : need (decide ((s.me.rg x.a).toNat % x.n = 0)) ALIGN (s.me.rg x.a) = .ok () := if_pos (decide_eq_true aligned)
  simp only [atomPlace, ← State.me.eq_1, even, bind, Except.bind, segCheck_of_segOk readable, segCheck_of_segOk writable,
    segCheck_of_segOk atomics, resolve_own .atomic inside unlocked free]
  rfl

/-- A returning atomic on the own scratchpad that nothing makes wait. -/
theorem run_atomBody_own {x : Atomic} (i : Instr) (address : x.a = a) (scope : x.scope = sc.toNat) (size : x.n = n)
    (acquires : x.acq = decide (od.toNat % 2 = 1)) (releases : x.rel = decide (2 ≤ od.toNat)) (returns : x.d ≠ 0)
    (own : Claims.OwnAtomic s a sc od n o) :
    run i s (atomBody i x s) = Claims.ownAtomic s sc od o n
      (x.new (atomOperand s.me x) (atomExpected s.me x) (Claims.ownValue s o n)) (x.result (Claims.ownValue s o n)) := by
  subst address size
  obtain ⟨bytes, writable, atomics, ⟨pending, sound⟩, releasable⟩ := own
  have held : (x.rel && releaseWaits s s.cur x.scope false) = false := by
    rw [releases, scope]
    by_cases rel : 2 ≤ od.toNat
    · rw [releaseWaits_eager (releasable rel), Bool.and_false]
    · rw [decide_eq_false rel, Bool.false_and]
  obtain ⟨t, moved⟩ : ∃ t, t = if 2 ≤ od.toNat then Claims.released s sc.toNat else s := ⟨_, rfl⟩
  have moves : (if x.rel = true then releaseMoves s s.myCore x.scope false else s) = t := by
    rw [moved, releaseMoves_eager, scope, releases]
    simp only [decide_eq_true_eq]
  have copies : CopiesMoved s t := by
    rw [moved]
    split
    · exact copiesMoved_released ..
    · exact .refl s
  have performs : atomPerform t s.cur x (.spad s.myCore o) =
      .ok ((match x.new (atomOperand s.me x) (atomExpected s.me x) (Claims.ownValue s o x.n) with
        | some v => { t with mem := spadWrite t.mem t.myCore o (bytesOfNat x.n v) }
        | none => t), Claims.ownValue s o x.n) := by
    rw [atomPerform, atPlace, copies.thread, ← State.me.eq_1, atSpad_sound _ ((copies.spadPoisoned ..).trans sound), copies.spadBytes, copies.myCore]
    · rfl
    · nofun
  have single : ¬(x.d = 0 ∧ x.n ≠ 16) := fun h => returns h.1
  rw [atomBody, atomPlace_own bytes writable atomics]
  simp only [bind, Except.bind, Place.records, held, Bool.false_eq_true, if_false, moves, releaseCount, placePkg, if_neg single, pending,
    List.isEmpty_nil, Bool.not_true, atomNear, beq_self_eq_true, if_true, performs]
  rw [acquires, scope, ← copies.myCore]
  unfold Claims.ownAtomic
  simp only [← moved, decide_eq_true_eq]
  cases x.new (atomOperand s.me x) (atomExpected s.me x) (Claims.ownValue s o x.n) <;> rfl

theorem run_atomBody_made {cls op fmt lanes : Nat} {b d : Reg} {new : Option Nat} {regs : List (Reg × W64)} (i : Instr)
    (returns : d ≠ 0) (own : Claims.OwnAtomic s a sc od n o)
    (makes : (mkAtomic n sc.toNat od.toNat a d b cls op fmt lanes).new (s.me.pairVal b n) (if cls = 2 then s.me.pairVal d n else 0)
      (Claims.ownValue s o n) = new)
    (answers : (if n = 16 then [(d, BitVec.ofNat 64 (Claims.ownValue s o n)), (d + 1, BitVec.ofNat 64 (Claims.ownValue s o n / 2 ^ 64))]
      else if cls ≠ 1 ∧ n = 4 then [(d, (BitVec.ofNat 32 (Claims.ownValue s o n)).signExtend 64)]
      else [(d, BitVec.ofNat 64 (Claims.ownValue s o n))]) = regs) :
    run i s (atomBody i (mkAtomic n sc.toNat od.toNat a d b cls op fmt lanes) s) = Claims.ownAtomic s sc od o n new regs := by
  rw [run_atomBody_own (x := mkAtomic n sc.toNat od.toNat a d b cls op fmt lanes) i rfl rfl rfl rfl rfl returns own, ← makes, ← answers]
  exact congrArg _ (if_neg returns)

end

/-! ## The integer atomics (R213) -/

theorem signedOf_eq_toInt {n : Nat} (positive : 0 < n) (v : Nat) : signedOf n v = (BitVec.ofNat n v).toInt := by
  obtain ⟨m, rfl⟩ := Nat.exists_eq_succ_of_ne_zero positive.ne'
  have half : v % 2 ^ m.succ < 2 ^ m ↔ 2 * (v % 2 ^ m.succ) < 2 ^ m.succ := by rw [Nat.pow_succ']; omega
  rw [signedOf, BitVec.toInt_eq_toNat_cond, BitVec.toNat_ofNat, Nat.succ_sub_one]
  simp only [half]
  push_cast
  rfl

/-- An atomic of the table is the body of an integer atomic with its operation. -/
theorem exec_atom {r : (BitVec 3 → BitVec 2 → Reg → Reg → Reg → Instr) × Nat × (Nat → Nat → Nat)} (integer : r ∈ Claims.atomTable)
    (s : State) (sc : BitVec 3) (od : BitVec 2) (b a d : Reg) :
    ∃ op, exec (r.1 sc od b a d) s =
        run (r.1 sc od b a d) s (atomBody (r.1 sc od b a d) (mkAtomic r.2.1 sc.toNat od.toNat a d b 0 op 0 1) s) ∧
      (r.2.1 = 4 ∨ r.2.1 = 8) ∧ ∀ x v, atomNew op (8 * r.2.1) x v = r.2.2 x v := by
  have minimum (n : Nat) (positive : 0 < n) (x v : Nat) :
      atomNew 4 n x v = if (BitVec.ofNat n v).toInt < (BitVec.ofNat n x).toInt then v else x := by
    rw [← signedOf_eq_toInt positive, ← signedOf_eq_toInt positive]
    rfl
  have maximum (n : Nat) (positive : 0 < n) (x v : Nat) :
      atomNew 5 n x v = if (BitVec.ofNat n x).toInt < (BitVec.ofNat n v).toInt then v else x := by
    rw [← signedOf_eq_toInt positive, ← signedOf_eq_toInt positive]
    rfl
  simp only [Claims.atomTable, List.mem_cons, List.not_mem_nil, or_false] at integer
  obtain rfl | rfl | rfl | rfl | rfl | rfl | rfl | rfl | rfl | rfl | rfl | rfl | rfl | rfl | rfl | rfl | rfl | rfl := integer
  · exact ⟨0, rfl, .inl rfl, fun _ _ => rfl⟩
  · exact ⟨1, rfl, .inl rfl, fun _ _ => rfl⟩
  · exact ⟨2, rfl, .inl rfl, fun _ _ => rfl⟩
  · exact ⟨3, rfl, .inl rfl, fun _ _ => rfl⟩
  · exact ⟨4, rfl, .inl rfl, minimum 32 (by decide)⟩
  · exact ⟨5, rfl, .inl rfl, maximum 32 (by decide)⟩
  · exact ⟨6, rfl, .inl rfl, fun _ _ => rfl⟩
  · exact ⟨7, rfl, .inl rfl, fun _ _ => rfl⟩
  · exact ⟨8, rfl, .inl rfl, fun _ _ => rfl⟩
  · exact ⟨0, rfl, .inr rfl, fun _ _ => rfl⟩
  · exact ⟨1, rfl, .inr rfl, fun _ _ => rfl⟩
  · exact ⟨2, rfl, .inr rfl, fun _ _ => rfl⟩
  · exact ⟨3, rfl, .inr rfl, fun _ _ => rfl⟩
  · exact ⟨4, rfl, .inr rfl, minimum 64 (by decide)⟩
  · exact ⟨5, rfl, .inr rfl, maximum 64 (by decide)⟩
  · exact ⟨6, rfl, .inr rfl, fun _ _ => rfl⟩
  · exact ⟨7, rfl, .inr rfl, fun _ _ => rfl⟩
  · exact ⟨8, rfl, .inr rfl, fun _ _ => rfl⟩

theorem pairVal_word (t : Thread) (r : Reg) {n : Nat} (word : n ≠ 16) : t.pairVal r n = (t.rg r).toNat % 2 ^ (8 * n) := if_neg word

theorem pairVal_pair (t : Thread) (r : Reg) : t.pairVal r 16 = (t.rg r).toNat + 2 ^ 64 * (t.rg (r + 1)).toNat := rfl

theorem atomicsOnTheOwnScratchpad : Claims.AtomicsOnTheOwnScratchpad := by
  intro r integer s sc od b a d o own returns x
  obtain ⟨op, runs, size, operation⟩ := exec_atom integer s sc od b a d
  have word : r.2.1 ≠ 16 := by omega
  rw [runs]
  refine run_atomBody_made _ returns own ?_ ?_
  · rw [pairVal_word _ _ word]
    exact congrArg some (operation _ _)
  · rw [if_neg word]
    rcases size with four | eight
    · rw [if_pos ⟨by decide, four⟩, if_pos four]
    · rw [if_neg (by omega), if_neg (by omega)]

/-! ## Compare-and-swap and the floating-point atomics (R214, R215) -/

section
variable (s : State) (sc : BitVec 3) (od : BitVec 2) (b a d : Reg)

theorem exec_casW : exec (.casW sc od b a d) s =
    run (.casW sc od b a d) s (atomBody (.casW sc od b a d) (mkAtomic 4 sc.toNat od.toNat a d b 2 0 0 1) s) := rfl

theorem exec_casD : exec (.casD sc od b a d) s =
    run (.casD sc od b a d) s (atomBody (.casD sc od b a d) (mkAtomic 8 sc.toNat od.toNat a d b 2 0 0 1) s) := rfl

theorem exec_casQ : exec (.casQ sc od b a d) s =
    run (.casQ sc od b a d) s (atomBody (.casQ sc od b a d) (mkAtomic 16 sc.toNat od.toNat a d b 2 0 0 1) s) := rfl

end

theorem compareAndSwapOnTheOwnScratchpad : Claims.CompareAndSwapOnTheOwnScratchpad := by
  intro s sc od b a d o returns new pair
  have double (r : Reg) : s.me.pairVal r 8 = (s.me.rg r).toNat := Nat.mod_eq_of_lt (s.me.rg r).isLt
  have swaps (n v e old : Nat) : (mkAtomic n sc.toNat od.toNat a d b 2 0 0 1).new v e old = if old = e then some v else none := if_pos rfl
  refine ⟨fun own => ?_, fun own => ?_, fun own => ?_⟩
  · rw [exec_casW]
    exact run_atomBody_made _ returns own rfl rfl
  · rw [exec_casD]
    refine run_atomBody_made _ returns own ?_ rfl
    rw [swaps, double, if_pos rfl, double]
  · rw [exec_casQ]
    refine run_atomBody_made _ returns own ?_ rfl
    rw [swaps, if_pos rfl, pairVal_pair, pairVal_pair]

theorem floatAtomicsOnTheOwnScratchpad : Claims.FloatAtomicsOnTheOwnScratchpad := by
  intro x among s f sc od b a d o n small own returns
  obtain ⟨op, lanes, runs⟩ : ∃ op lanes, op = x.2.2.1 ∧ lanes = x.2.2.2 ∧ exec (x.1 f sc od b a d) s = run (x.1 f sc od b a d) s
      (atomBody (x.1 f sc od b a d) (mkAtomic n sc.toNat od.toNat a d b 1 op f.toNat lanes) s) := by
    simp only [List.mem_cons, List.not_mem_nil, or_false] at among
    obtain rfl | rfl | rfl | rfl | rfl | rfl := among <;> exact ⟨_, _, rfl, rfl, rfl⟩
  obtain ⟨rfl, rfl, runs⟩ := runs
  have word : n ≠ 16 := by omega
  rw [runs]
  refine run_atomBody_made _ returns own ?_ ?_
  · rw [pairVal_word _ _ word]
    rfl
  · rw [if_neg word, if_neg fun h => h.1 rfl]

/-- Settles O7: a returning atomic on the own scratchpad is one body, whose new value and result each operation gives. -/
theorem atomicsReturnTheOldValue : Obligations.AtomicsReturnTheOldValue :=
  ⟨atomicsOnTheOwnScratchpad, compareAndSwapOnTheOwnScratchpad, floatAtomicsOnTheOwnScratchpad⟩

end Sys2Proof.Laws
end

section
/-! PROOFS. Releases, acquires and fences (R201, R233, R234). -/

namespace Sys2Proof.Laws

open Sys2Proof Sys2Proof.Machine

/-! ## What acquires move and leave alone (R201) -/

section
variable (s : State) (core : Nat)

theorem acquireAt_narrow {scope : Nat} (narrow : scope < 2) : acquireAt s core scope = s := if_pos narrow

theorem acquireAt_cluster : acquireAt s core 2 = l1Clear s core := rfl

theorem acquireAt_wide {scope : Nat} (wide : 3 ≤ scope) : acquireAt s core scope = l1Clear (dropClean s (clusterOf core)) core := by
  rw [acquireAt, if_neg (by omega), if_neg (by omega)]

/-- Only L1 and the staging copies differ after an acquire. -/
theorem acquireAt_frame (scope : Nat) : ∃ cores clusters, acquireAt s core scope = { s with cores := cores, clusters := clusters } := by
  obtain narrow | rfl | wide : scope < 2 ∨ scope = 2 ∨ 3 ≤ scope := by omega
  · exact ⟨s.cores, s.clusters, acquireAt_narrow s core narrow⟩
  · exact ⟨_, s.clusters, acquireAt_cluster s core⟩
  · exact ⟨_, _, acquireAt_wide s core wide⟩

@[simp] theorem me_acquireAt (scope : Nat) : (acquireAt s core scope).me = s.me := by
  obtain ⟨cores, clusters, frame⟩ := acquireAt_frame s core scope
  rw [frame]
  rfl

@[simp] theorem acquireAt_cur (scope : Nat) : (acquireAt s core scope).cur = s.cur := by
  obtain ⟨cores, clusters, frame⟩ := acquireAt_frame s core scope
  rw [frame]

@[simp] theorem doneAt_acquireAt (scope n : Nat) : (acquireAt s core scope).doneAt n = s.doneAt n := by
  obtain ⟨cores, clusters, frame⟩ := acquireAt_frame s core scope
  rw [frame]
  rfl

theorem l1_l1Clear : ((l1Clear s core).core core).l1 = [] := by rw [l1Clear, core_setCore_same]

theorem l1_acquireAt {scope : Nat} (reaches : 2 ≤ scope) : ((acquireAt s core scope).core core).l1 = [] := by
  obtain rfl | wide : scope = 2 ∨ 3 ≤ scope := by omega
  · exact l1_l1Clear s core
  · rw [acquireAt_wide s core wide]
    exact l1_l1Clear ..

theorem clusters_acquireAt {scope : Nat} (narrow : scope < 3) : (acquireAt s core scope).clusters = s.clusters := by
  obtain narrow | rfl : scope < 2 ∨ scope = 2 := by omega
  · rw [acquireAt_narrow s core narrow]
  · rfl

/-- The copy that a drop of clean bytes leaves of one. -/
def cleanDropped (l : Staged) : Staged := if l.cls = 1 then l else { l with valid := l.dirty }

theorem staging_dropClean (clu : Nat) : ((dropClean s clu).cluster clu).staging =
    ((s.cluster clu).staging.map fun kl => (kl.1, cleanDropped kl.2)).filter fun kl => kl.2.cls = 1 || kl.2.valid != 0 := by
  rw [dropClean, cluster_setCluster_same]
  rfl

theorem staging_acquireAt {scope : Nat} (wide : 3 ≤ scope) : ((acquireAt s core scope).cluster (clusterOf core)).staging =
    ((dropClean s (clusterOf core)).cluster (clusterOf core)).staging := by
  rw [acquireAt_wide s core wide]
  rfl

/-- What a wide acquire leaves holds dirty bytes alone, SM pages apart. -/
theorem dirty_of_mem_dropClean {clu : Nat} {x : Nat × Staged} (left : x ∈ ((dropClean s clu).cluster clu).staging) (other : x.2.cls ≠ 1) :
    x.2.valid = x.2.dirty ∧ x.2.dirty ≠ 0 := by
  rw [staging_dropClean, List.mem_filter, List.mem_map] at left
  obtain ⟨⟨⟨k, l⟩, -, rfl⟩, held⟩ := left
  by_cases sm : l.cls = 1
  · exact absurd (by rw [cleanDropped, if_pos sm]; exact sm) other
  · rw [cleanDropped, if_neg sm] at held ⊢
    refine ⟨rfl, fun empty => ?_⟩
    change l.dirty = 0 at empty
    exact sm (by simpa [empty] using held)

theorem mem_dropClean_of_sm {clu : Nat} {x : Nat × Staged} (held : x ∈ (s.cluster clu).staging) (sm : x.2.cls = 1) :
    x ∈ ((dropClean s clu).cluster clu).staging := by
  rw [staging_dropClean, List.mem_filter, List.mem_map]
  refine ⟨⟨x, held, ?_⟩, by simp [sm]⟩
  rw [cleanDropped, if_pos sm]

end

/-! ## What drains move (R201) -/

theorem clean_of_mem_drainCluster (s : State) (clu : Nat) {x : Nat × Staged} (left : x ∈ ((drainCluster s clu).cluster clu).staging)
    (other : x.2.cls ≠ 1) : x.2.dirty = 0 := by
  have staging : ((drainCluster s clu).cluster clu).staging = ((flushWb s clu).cluster clu).staging.map fun kl =>
      (kl.1, if (kl.2.cls != 1 && kl.2.dirty != 0) = true then { kl.2 with dirty := 0 } else kl.2) :=
    congrArg Cluster.staging (cluster_setCluster_same (flushWb s clu) clu _)
  rw [staging, List.mem_map] at left
  obtain ⟨⟨k, l⟩, -, rfl⟩ := left
  dsimp only at other ⊢
  split
  · rfl
  · rename_i stays
    rw [if_neg stays] at other
    exact (by simpa using stays : l.cls ≠ 1 → l.dirty = 0) other

/-! ## REL and ACQ (R233) -/

section
variable {s : State}

theorem exec_rel {sc : BitVec 3} (free : Claims.NoReleaseWait s sc.toNat) :
    exec (.rel sc) s = .next ((Claims.released s sc.toNat).finish s.me 6) := by
  change run (.rel sc) s (if _ then _ else _) = _
  rw [releaseWaits_eager free, if_neg Bool.false_ne_true, releaseMoves_eager]
  change Host.Outcome.next ((Claims.released s sc.toNat).finish (Claims.released s sc.toNat).me 6) = _
  rw [(copiesMoved_released ..).me]

theorem exec_acq (sc : BitVec 3) : exec (.acq sc) s = .next ((acquireAt s s.myCore sc.toNat).finish s.me 6) := by
  change Host.Outcome.next ((acquireAt s s.myCore sc.toNat).finish (acquireAt s s.myCore sc.toNat).me 6) = _
  rw [me_acquireAt]

end

theorem releaseAndAcquireMoveCopies : Claims.ReleaseAndAcquireMoveCopies := by
  intro s sc clu
  refine ⟨fun free => ⟨_, exec_rel free, ?_, fun narrow => ?_, fun wide x left other => ?_⟩, _, exec_acq sc, ?_, ?_, fun narrow => ?_,
    fun reaches => l1_acquireAt s _ reaches, fun narrow => clusters_acquireAt s _ narrow, fun wide x left other => ?_, fun wide x held sm => ?_⟩
  · rw [me_finish, (copiesMoved_released ..).doneAt]
    rfl
  · rw [Claims.released, if_neg narrow.not_ge]
  · refine clean_of_mem_drainCluster s clu ?_ other
    rw [Claims.released, if_pos wide] at left
    exact left
  · rw [me_finish, doneAt_acquireAt]
    rfl
  · exact acquireAt_mem ..
  · rw [acquireAt_narrow _ _ narrow]
  · exact dirty_of_mem_dropClean s ((staging_acquireAt s s.myCore wide) ▸ left) other
  · exact (staging_acquireAt s s.myCore wide).symm ▸ mem_dropClean_of_sm s held sm

/-! ## FENCE (R233, R234) -/

section
variable {s : State} {sc : BitVec 3} {d : Reg}

theorem exec_fence_narrow (free : Claims.NoReleaseWait s sc.toNat) (narrow : sc.toNat < 5) :
    exec (.fence sc d) s = .next ((acquireAt (Claims.released s sc.toNat) s.myCore sc.toNat).finish s.me 6) := by
  have other : ¬sc = 5 := fun h => by rw [h] at narrow; exact absurd narrow (by decide)
  change run (.fence sc d) s (if _ then _ else if _ then _ else _) = _
  rw [if_neg other, releaseWaits_eager free, if_neg Bool.false_ne_true, releaseMoves_eager]
  change Host.Outcome.next ((acquireAt (Claims.released s sc.toNat) s.myCore sc.toNat).finish
    (acquireAt (Claims.released s sc.toNat) s.myCore sc.toNat).me 6) = _
  rw [me_acquireAt, (copiesMoved_released ..).me]

/-- The thread whose system fence has its status. -/
def fencedThread (t : Thread) : Thread :=
  { t with fenceStart := none, fenst := fenceWord [] t.refusedStore, refusedStore := false,
           peers := t.peers.map fun p => (p.1, { p.2 with pending := [], failed := false }) }

/-- Where a system fence whose thread has no store left open has moved copies, and its thread has the status. -/
def fencedState (s : State) : State :=
  acquireAt ((Claims.released (s.setMe { s.me with fenceStart := some (s.me.fenceStart.getD (holdStart s)) }) 5).setMe (fencedThread s.me))
    s.myCore 5

theorem fenceWaits_free (free : Claims.NoReleaseWait s 5) (start start' : Nat × Nat) :
    fenceWaits (s.setMe { s.me with fenceStart := some start }) s.cur start' = false := by
  obtain ⟨held, reach⟩ := free
  have moves : drainOpen (s.setMe { s.me with fenceStart := some start }) (clusterOf (coreOf s.cur)) = true := reach (by decide)
  rw [releaseHeld, ← State.me.eq_1, ← State.myCore.eq_1] at held
  simp only [Bool.or_eq_false_iff] at held
  obtain ⟨⟨run, compare⟩, queue⟩ := held
  have thread : (s.setMe { s.me with fenceStart := some start }).thread s.cur = { s.me with fenceStart := some start } := me_setMe ..
  rw [fenceWaits, thread, movesHeld, moves, run, compare]
  refine List.any_eq_false.mpr fun e queued => ?_
  have other := List.any_eq_false.mp queue e queued
  simp [other]

theorem fencePeers_settled {t : State} {st : Option (Nat × Nat)} (free : Claims.NoReleaseWait s 5) (thread : t.thread s.cur = { s.me with fenceStart := st })
    (core : t.core s.myCore = s.core s.myCore) (settled : ∀ p ∈ s.me.peers, p.2.pending = [] ∧ p.2.failed = false) :
    fencePeers t s.cur = [] := by
  obtain ⟨held, -⟩ := free
  rw [releaseHeld, ← State.me.eq_1, ← State.myCore.eq_1] at held
  simp only [Bool.or_eq_false_iff] at held
  obtain ⟨-, queue⟩ := held
  rw [fencePeers, thread]
  refine List.filter_eq_nil_iff.mpr fun p peer => ?_
  obtain ⟨pending, failed⟩ := settled p peer
  have sent : unsent t s.cur p.1 = false := by
    rw [unsent, ← State.myCore.eq_1, core]
    refine List.any_eq_false.mpr fun e queued => ?_
    have other := List.any_eq_false.mp queue e queued
    simp [other]
  simp [pending, failed, sent]

/-- FENCE.SYS of a thread whose stores are all accepted and acknowledged. -/
theorem exec_fence_sys (free : Claims.NoReleaseWait s 5) (settled : ∀ p ∈ s.me.peers, p.2.pending = [] ∧ p.2.failed = false) :
    exec (.fence 5 d) s =
      if d ≠ 0 then .next ((fencedState s).finishG d (fenceWord [] s.me.refusedStore) 6)
      else if (fenceWord [] s.me.refusedStore).extractLsb' 62 2 ≠ 0 then .next (trapMe (fencedState s) FENCEERR (fenceWord [] s.me.refusedStore))
      else .next ((fencedState s).finish (fencedState s).me 6) := by
  obtain ⟨st, start⟩ : ∃ st, st = s.me.fenceStart.getD (holdStart s) := ⟨_, rfl⟩
  obtain ⟨s0, begun⟩ : ∃ s0, s0 = s.setMe { s.me with fenceStart := some st } := ⟨_, rfl⟩
  have thread : s0.thread s.cur = { s.me with fenceStart := some st } := by rw [begun]; exact me_setMe ..
  have waits : fenceWaits s0 s.cur st = false := by rw [begun]; exact fenceWaits_free free st st
  have moves : releaseMoves s0 s.myCore 5 false = Claims.released s0 5 := by
    rw [← releaseMoves_eager, show s0.myCore = s.myCore by rw [begun]; rfl]
  have copies := copiesMoved_released s0 5
  have me : (Claims.released s0 5).me = { s.me with fenceStart := some st } := by
    rw [copies.me, State.me, show s0.cur = s.cur by rw [begun]; rfl, thread]
  have peers : fencePeers (Claims.released s0 5) s.cur = [] :=
    fencePeers_settled free ((copies.thread _).trans thread) ((copies.core _).trans (by rw [begun]; rfl)) settled
  have ends : fencedState s = acquireAt ((Claims.released s0 5).setMe (fencedThread s.me)) s.myCore 5 := by
    rw [fencedState, ← start, ← begun]
  change run (.fence 5 d) s (fenceSys d s) = _
  rw [ends]
  simp only [fenceSys, ← start, ← begun, waits, Bool.false_eq_true, if_false, moves, peers, List.filter_nil, List.map_nil, ne_eq, me]
  change run (.fence 5 d) s (if ¬d = 0 then .ok _ else if ¬(fenceWord [] s.me.refusedStore).extractLsb' 62 2 = 0 then .ok _ else .ok _) = _
  split
  · rfl
  · split <;> rfl

theorem fencedState_cur (s : State) : (fencedState s).cur = s.cur := by
  rw [fencedState, acquireAt_cur]
  exact (copiesMoved_released ..).cur

theorem me_fencedState (s : State) : (fencedState s).me = fencedThread s.me := by
  rw [fencedState, me_acquireAt, me_setMe]

theorem doneAt_fencedState (s : State) (n : Nat) : (fencedState s).doneAt n = s.doneAt n := by
  rw [fencedState, doneAt_acquireAt]
  exact (copiesMoved_released ..).doneAt n

theorem l1_fencedState (s : State) : ((fencedState s).core s.myCore).l1 = [] := l1_acquireAt _ _ (by decide)

end

/-! ## A trap leaves the rest of its thread (R58, R68) -/

section
variable {s : State}

/-- The thread of a state whose trap is taken, the trap's own fields set apart. -/
def Stopped (t t' : Thread) : Prop :=
  ∃ busy wait flight rangeAt fenceStart, Halts { t with busy := busy, wait := wait, flight := flight, rangeAt := rangeAt, fenceStart := fenceStart } t'

theorem stopped_trappedThread (t : Thread) : Stopped t (trappedThread t) := by
  unfold trappedThread Thread.detach
  split
  all_goals exact ⟨none, none, false, 0, none, .trapped, _, _, _, _, rfl⟩

theorem pushThreadEvent_frame (s : State) (key : Nat) (type cause : Byte) (d0 d1 : W64) :
    ∃ dies, pushThreadEvent s key type cause d0 d1 = { s with dies := dies } := by
  unfold pushThreadEvent pushEvent
  dsimp only
  split <;> exact ⟨_, rfl⟩

theorem escalate_frame (s : State) (core : Nat) (cause : Byte) : ∃ dies, escalate s core cause =
    { (s.setThread (keyOf core 7) { s.thread (keyOf core 7) with state := .trapped, busy := none, wait := none }).setArch core
        { s.arch core with escalated := true } with dies := dies } := pushThreadEvent_frame ..

theorem stopped_escalate (system : slotOf s.cur = 7) (cause : Byte) : Stopped s.me (escalate s s.myCore cause).me := by
  have key : keyOf s.myCore 7 = s.cur := by rw [← system, keyOf_myCore]
  obtain ⟨dies, frame⟩ := escalate_frame s s.myCore cause
  have me : (escalate s s.myCore cause).me = { s.me with state := .trapped, busy := none, wait := none } := by
    rw [frame, key]
    exact me_setMe ..
  rw [me]
  exact ⟨none, none, _, _, _, .trapped, _, _, _, _, rfl⟩

/-- A twin pair stops together; the thread itself stops as one that is in no pair. -/
theorem me_pairStopped (twin : Bool) (f : Thread → Thread) :
    (if twin then (s.setThread s.cur (f s.me)).setThread (partnerOf s.cur) (f ((s.setThread s.cur (f s.me)).thread (partnerOf s.cur)))
      else s.setThread s.cur (f s.me)).me = f s.me := by
  cases twin
  · exact me_setMe ..
  · exact (thread_setThread_other _ _ (partnerOf_ne s.cur)).trans (thread_setThread_same ..)

/-- A trap of a general slot stops its thread, puts a record in the trap queue and lets the core's slots pause or go on. -/
theorem trapMe_general (general : slotOf s.cur ≠ 7) (cause : Byte) (eval : W64) :
    ∃ (u : State) (a : CoreArch), trapMe s cause eval = repauseIf6 (u.setArch s.myCore a) s.cur ∧ u.cur = s.cur ∧
      u.me = trappedThread s.me ∧
      (s.me.twl = false → s.me.twt = false → a.trapq.getLast?.map (fun r => (r.cause, r.eval)) = some (cause, eval)) := by
  rw [trapMe, takeTrap, if_neg general]
  refine ⟨_, _, rfl, ?_, me_pairStopped (s.me.twl || s.me.twt) trappedThread, fun leads follows => ?_⟩
  · split <;> rfl
  · rw [List.getLast?_concat, ← State.me.eq_1, follows]
    rfl

theorem stopped_trapMe (s : State) (cause : Byte) (eval : W64) : Stopped s.me (trapMe s cause eval).me := by
  by_cases system : slotOf s.cur = 7
  · rw [trapMe, takeTrap, if_pos system]
    exact stopped_escalate system cause
  · obtain ⟨u, a, trapped, cur, me, -⟩ := trapMe_general system cause eval
    obtain ⟨busy, wait, flight, rangeAt, fenceStart, halts⟩ := stopped_trappedThread s.me
    have pauses := me_repauseIf6 (u.setArch s.myCore a) s.cur
    rw [me_setArch, me] at pauses
    rw [trapped]
    exact ⟨busy, wait, flight, rangeAt, fenceStart, halts.trans pauses⟩

theorem state_pauseSlot_trapped {t : Thread} (trapped : t.state = .trapped) (want : Bool) : (pauseSlot want t).state = .trapped := by
  unfold pauseSlot
  cases want <;> simp [trapped]

theorem state_repauseIf6_trapped {k : Nat} (trapped : (s.thread k).state = .trapped) (key : Nat) :
    ((repauseIf6 s key).thread k).state = .trapped := by
  unfold repauseIf6
  split
  · refine foldl_keeps (fun u : State => (u.thread k).state = .trapped) (repauseSlot (coreOf key)) (fun u slot held => ?_) _ s trapped
    unfold repauseSlot
    dsimp only
    split
    · exact held
    · rw [thread_setThread]
      split
      case isTrue own => exact state_pauseSlot_trapped (own ▸ held) _
      case isFalse => exact held
  · exact trapped

/-- A trap of a thread in no pair leaves it trapped, its record last in the trap queue. -/
theorem trapMe_alone (general : slotOf s.cur ≠ 7) (leads : s.me.twl = false) (follows : s.me.twt = false) (cause : Byte) (eval : W64) :
    (trapMe s cause eval).me.state = .trapped ∧
      ((trapMe s cause eval).arch s.myCore).trapq.getLast?.map (fun r => (r.cause, r.eval)) = some (cause, eval) := by
  obtain ⟨u, a, trapped, cur, me, queue⟩ := trapMe_general general cause eval
  obtain ⟨threads, frame⟩ := repauseIf6_threads (u.setArch s.myCore a) s.cur
  constructor
  · have stays := state_repauseIf6_trapped (s := u.setArch s.myCore a) (k := s.cur)
      (by rw [thread_setArch, ← cur, ← State.me.eq_1, me]; rfl) s.cur
    rw [trapped, State.me, show (repauseIf6 (u.setArch s.myCore a) s.cur).cur = s.cur by rw [frame]; exact cur]
    exact stays
  · rw [trapped, frame]
    change ((u.setArch s.myCore a).arch s.myCore).trapq.getLast?.map _ = _
    rw [arch_setArch_same]
    exact queue leads follows

end

/-! ## What FENCE answers (R234) -/

theorem fenceWord_none : fenceWord [] false = 0 := by decide
theorem fenceWord_refused : fenceWord [] true = 0x4000000000000000 := by decide

/-- A system fence that ends with a word in its destination. -/
theorem fencedState_finishG (s : State) (d : Reg) (w : W64) :
    let t := (fencedState s).finishG d w 6
    t.me.fenst = fenceWord [] s.me.refusedStore ∧ t.me.refusedStore = false ∧ t.me.pc = s.me.pc + 4 ∧
      t.me.rg d = (if d = 0 then 0 else w) ∧ (t.core s.myCore).l1 = [] ∧ ∀ r, r ≠ d → t.me.rg r = s.me.rg r := by
  dsimp only
  rw [me_finishG, me_fencedState]
  refine ⟨by rw [adv_fenst, wg_fenst]; rfl, by rw [adv_refusedStore, wg_refusedStore]; rfl, by rw [adv_pc, wg_pc]; rfl, ?_,
    l1_fencedState s, fun r other => ?_⟩
  · rw [rg_adv, rg_wg]
    by_cases zero : d = 0
    · subst zero
      rfl
    · rw [if_pos ⟨rfl, zero⟩, if_neg zero]
  · rw [rg_adv, rg_wg_other _ _ other]
    rfl

theorem fencesReportTheirStatus : Claims.FencesReportTheirStatus := by
  intro s sc d free
  refine ⟨fun narrow => exec_fence_narrow free narrow, fun sys settled accepted => ?_, fun sys settled refused => ?_⟩
  · subst sys
    obtain ⟨status, -, pc, dest, l1, others⟩ := fencedState_finishG s d 0
    have ends : exec (.fence 5 d) s = .next ((fencedState s).finishG d 0 6) := by
      rw [exec_fence_sys free settled, accepted, fenceWord_none]
      split
      · rfl
      · rename_i zero
        rw [if_neg (by decide), not_not.mp zero, State.finishG, wg_zero]
    refine ⟨_, ends, ?_, pc, ?_, l1, others⟩
    · rw [status, accepted, fenceWord_none]
    · rw [dest, ite_self]
  · subst sys
    have ends := exec_fence_sys (d := d) free settled
    rw [refused, fenceWord_refused] at ends
    by_cases zero : d = 0
    · subst zero
      rw [if_neg (by decide), if_pos (by decide)] at ends
      obtain ⟨busy, wait, flight, rangeAt, fenceStart, state, prior, pse, det, fwd, stopped⟩ :=
        stopped_trapMe (fencedState s) FENCEERR 0x4000000000000000
      have me := me_fencedState s
      refine ⟨_, ends, ?_, ?_, fun other => absurd rfl other, fun _ general leads follows => ?_⟩
      · rw [stopped, me]
        change fenceWord [] s.me.refusedStore = _
        rw [refused, fenceWord_refused]
      · rw [stopped, me]
        rfl
      · have core : (fencedState s).myCore = s.myCore := by rw [State.myCore, fencedState_cur, State.myCore]
        rw [← core]
        exact trapMe_alone (by rw [fencedState_cur]; exact general) (by rw [me]; exact leads) (by rw [me]; exact follows) _ _
    · rw [if_pos zero] at ends
      obtain ⟨status, cleared, pc, dest, -⟩ := fencedState_finishG s d 0x4000000000000000
      refine ⟨_, ends, ?_, cleared, fun _ => ⟨?_, pc⟩, fun isZero => absurd isZero zero⟩
      · rw [status, refused, fenceWord_refused]
      · rw [dest, if_neg zero]

end Sys2Proof.Laws
end

section
/-! PROOFS. Range operations (R217-R219). -/

namespace Sys2Proof.Laws

open Sys2Proof Sys2Proof.Machine

/-! ## What a range operation acts on (R217, R218) -/

section
variable {s : State} {a b : Reg} {right kind o n : Nat}

theorem rangeTarget_segOk (nonempty : 0 < n) (length : (s.me.rg b).toNat = n) (bounded : n ≤ 2 ^ 32)
    (ok : Claims.SegOk s.me (s.me.rg a) n right kind o) :
    rangeTarget a b right s = .ok (if kind = 1 then some (o, n) else none) := by
  have fits : need (decide ((s.me.rg b).toNat ≤ 2 ^ 32)) FORMAT (s.me.rg b) = .ok () := if_pos (decide_eq_true (length ▸ bounded))
  have some : ¬s.me.rg b = 0 := fun h => by rw [h] at length; exact absurd length nonempty.ne
  rw [← length] at ok ⊢
  simp only [rangeTarget, fits, bind, Except.bind, if_neg some, segCheck_of_segOk ok]
  rfl

theorem rangeTarget_empty (empty : s.me.rg b = 0) : rangeTarget a b right s = .ok none := by
  rw [rangeTarget, empty]
  rfl

theorem rangeTarget_tooLong (long : 2 ^ 32 < (s.me.rg b).toNat) : rangeTarget a b right s = .error (.trap FORMAT (s.me.rg b)) := by
  have refused : need (decide ((s.me.rg b).toNat ≤ 2 ^ 32)) FORMAT (s.me.rg b) = .error (.trap FORMAT (s.me.rg b)) :=
    if_neg (by simpa using long)
  simp only [rangeTarget, refused, bind, Except.bind]

end

section
variable {s : State} {sc : BitVec 3} {a b : Reg} {right o n : Nat} {l1 : Bool} {f : Nat → Nat → State → Nat → State}

theorem rangeBody_noTarget (target : rangeTarget a b right s = .ok none) :
    rangeBody sc b a right l1 f s = .ok (s.finish { s.me with rangeAt := 0 } 6) := by
  rw [rangeBody, target]
  rfl

theorem rangeBody_refused {stop : Stop} (target : rangeTarget a b right s = .error stop) :
    rangeBody sc b a right l1 f s = .error stop := by
  rw [rangeBody, target]
  rfl

/-- Where the range's unit that is next ends, from the range's start. -/
def unitEnd (s : State) (n x : Nat) : Nat := min n (s.me.rangeAt + (4096 - (x + s.me.rangeAt) % 4096))

/-- The L1 lines of a unit are dropped, where the operation is INVR or DISC. -/
def rangeBegun (l1 : Bool) (s : State) (lo len : Nat) : State := if l1 then rangeL1 s lo len else s

/-- What one unit of a range operation does to the copies. -/
def rangeTreated (sc : BitVec 3) (l1 : Bool) (f : State → Nat → State) (s : State) (lo len : Nat) : State :=
  if 3 ≤ sc.toNat then rangeCopies (flushWb (rangeBegun l1 s lo len) (clusterOf s.myCore)) lo len f else rangeBegun l1 s lo len

/-- Nothing makes a unit wait. -/
abbrev UnitFree (s : State) (sc : BitVec 3) (lo len : Nat) : Prop :=
  rangePending s lo len = false ∧ (3 ≤ sc.toNat → rangeOpen s lo len = true)

theorem rangeUnit_eq (within : s.me.rangeAt < n) (x : Nat) :
    rangeUnit x n s.me.rangeAt = (x + s.me.rangeAt, unitEnd s n x - s.me.rangeAt) := by
  refine Prod.ext rfl ?_
  change min (x + n - (x + s.me.rangeAt)) (4096 - (x + s.me.rangeAt) % 4096) = unitEnd s n x - s.me.rangeAt
  unfold unitEnd
  omega

theorem rangeAt_lt_unitEnd (within : s.me.rangeAt < n) (x : Nat) : s.me.rangeAt < unitEnd s n x := by
  unfold unitEnd
  omega

theorem rangeBody_unit (target : rangeTarget a b right s = .ok (some (o, n))) (within : s.me.rangeAt < n)
    (free : UnitFree s sc (o + s.me.rangeAt) (unitEnd s n o - s.me.rangeAt))
    (noAtomic : l1 = true → rangeAtomics s (o + s.me.rangeAt) (unitEnd s n o - s.me.rangeAt) = false) :
    rangeBody sc b a right l1 f s =
      .ok (rangeStep (rangeTreated sc l1 (f o n) s (o + s.me.rangeAt) (unitEnd s n o - s.me.rangeAt)) n (unitEnd s n o)) := by
  obtain ⟨pending, reach⟩ := free
  have unit := rangeUnit_eq within o
  have ends : o + s.me.rangeAt + (unitEnd s n o - s.me.rangeAt) - o = unitEnd s n o := by
    have := rangeAt_lt_unitEnd within o
    omega
  have waits : (rangePending s (o + s.me.rangeAt) (unitEnd s n o - s.me.rangeAt) ||
      (l1 && rangeAtomics s (o + s.me.rangeAt) (unitEnd s n o - s.me.rangeAt)) ||
      (decide (3 ≤ sc.toNat) && !rangeOpen s (o + s.me.rangeAt) (unitEnd s n o - s.me.rangeAt))) = false := by
    rw [pending, Bool.false_or, Bool.or_eq_false_iff]
    refine ⟨?_, ?_⟩
    · cases l1
      · rfl
      · exact noAtomic rfl
    · by_cases wide : 3 ≤ sc.toNat
      · rw [reach wide, Bool.not_true, Bool.and_false]
      · rw [decide_eq_false wide, Bool.false_and]
  simp only [rangeBody, target, bind, Except.bind, unit, waits, Bool.false_eq_true, if_false, ends]
  rfl

/-! ## How a range operation goes on (R218) -/

theorem rangeStep_frame (s : State) (n z : Nat) : ∃ threads, rangeStep s n z = { s with threads := threads } := by
  unfold rangeStep
  split <;> exact ⟨_, rfl⟩

theorem me_rangeStep {t : State} (me : t.me = s.me) (done : t.doneAt 6 = s.doneAt 6) (n z : Nat) :
    (rangeStep t n z).me = if n ≤ z then { s.me with rangeAt := 0, pc := s.me.pc + 4, busy := some (s.cyc s.myCore + 6) }
      else { s.me with rangeAt := z } := by
  unfold rangeStep
  split
  · rw [me_finish, me, done]
    rfl
  · rw [me_setMe, me]

end

/-! ## Copies of a unit -/

/-- A treatment of one line's copy that leaves the copies of other lines, and after which the line's copy satisfies `Q`. -/
structure TreatsLine (f : State → Nat → State) (Q : Option Staged → Prop) : Prop where
  copies : ∀ s k, CopiesMoved s (f s k)
  own : ∀ s k, Q (tfind ((f s k).cluster (clusterOf s.myCore)).staging k)
  other : ∀ s {k j}, j ≠ k →
    tfind ((f s k).cluster (clusterOf s.myCore)).staging j = tfind (s.cluster (clusterOf s.myCore)).staging j

theorem cluster_setCluster_mem (s : State) (clu : Nat) (x : Cluster) (m : Memory) :
    ({ s.setCluster clu x with mem := m } : State).cluster clu = x := cluster_setCluster_same s clu x

theorem staging_flushWb (s : State) (clu : Nat) : ((flushWb s clu).cluster clu).staging = (s.cluster clu).staging := by
  unfold flushWb
  dsimp only
  split
  · rfl
  · rw [cluster_setCluster_mem]

section
variable (s : State) (clu : Nat) {k j : Nat}

theorem clean_writeBackLine {l : Staged} (left : tfind ((writeBackLine s clu k).cluster clu).staging k = some l) : l.dirty = 0 := by
  unfold writeBackLine at left
  generalize flushWb s clu = t at left
  dsimp only at left
  split at left
  · next none => cases none.symm.trans left
  · next x found =>
    split at left
    · next clean => exact Option.some.inj (found.symm.trans left) ▸ clean
    · rw [cluster_setCluster_mem, tfind_tput_same] at left
      exact Option.some.inj left ▸ rfl

theorem tfind_writeBackLine_other (other : j ≠ k) :
    tfind ((writeBackLine s clu k).cluster clu).staging j = tfind (s.cluster clu).staging j := by
  have kept := staging_flushWb s clu
  unfold writeBackLine
  generalize flushWb s clu = t at kept ⊢
  dsimp only
  rw [← kept]
  split
  · rfl
  · split
    · rfl
    · rw [cluster_setCluster_mem]
      exact tfind_tput_other _ _ other.symm

theorem staging_dropLine : ((dropLine s clu k).cluster clu).staging = tdel (s.cluster clu).staging k :=
  congrArg Cluster.staging (cluster_setCluster_same ..)

end

theorem treatsLine_writeBack : TreatsLine (fun s k => writeBackLine s (clusterOf s.myCore) k) (fun x => ∀ l, x = some l → l.dirty = 0) where
  copies _ _ := copiesMoved_writeBackLine ..
  own s _ _ left := clean_writeBackLine s _ left
  other s _ _ other := tfind_writeBackLine_other s _ other

theorem treatsLine_dropLine : TreatsLine (fun s k => dropLine s (clusterOf s.myCore) k) (fun x => x = none) where
  copies _ _ := copiesMoved_dropLine ..
  own s k := by rw [staging_dropLine, tfind_tdel_same]
  other s k j other := by rw [staging_dropLine, tfind_tdel_other _ other.symm]

theorem treatsLine_invLine : TreatsLine invLine (fun x => x = none) where
  copies _ _ := (copiesMoved_writeBackLine ..).trans (copiesMoved_dropLine ..)
  own s k := by rw [invLine, staging_dropLine, tfind_tdel_same]
  other s k j other := by rw [invLine, staging_dropLine, tfind_tdel_other _ other.symm, tfind_writeBackLine_other s _ other]

theorem discLine_eq (o n : Nat) (s : State) (k : Nat) :
    discLine o n s k = dropLine s (clusterOf s.myCore) k ∨ discLine o n s k = invLine s k := by
  unfold discLine
  exact ite_eq_or_eq _ _ _

theorem treatsLine_discLine (o n : Nat) : TreatsLine (discLine o n) (fun x => x = none) where
  copies s k := by
    rcases discLine_eq o n s k with drops | writes
    · exact drops ▸ treatsLine_dropLine.copies s k
    · exact writes ▸ treatsLine_invLine.copies s k
  own s k := by
    rcases discLine_eq o n s k with drops | writes
    · exact drops ▸ treatsLine_dropLine.own s k
    · exact writes ▸ treatsLine_invLine.own s k
  other s k j other := by
    rcases discLine_eq o n s k with drops | writes
    · exact drops ▸ treatsLine_dropLine.other s other
    · exact writes ▸ treatsLine_invLine.other s other

section
variable {f : State → Nat → State} {Q : Option Staged → Prop} (treats : TreatsLine f Q)
include treats

theorem copiesMoved_foldl_treat (keys : List Nat) (s : State) : CopiesMoved s (keys.foldl f s) :=
  foldl_keeps (CopiesMoved s) f (fun t k moved => moved.trans (treats.copies t k)) keys s (.refl s)

/-- After the treatment of some lines, the copy of each of them satisfies `Q`, and those of others are as before. -/
theorem tfind_foldl_treat (keys : List Nat) (s : State) (k : Nat) :
    (k ∈ keys ∨ Q (tfind (s.cluster (clusterOf s.myCore)).staging k)) →
      Q (tfind ((keys.foldl f s).cluster (clusterOf s.myCore)).staging k) := by
  induction keys generalizing s with
  | nil => exact fun h => h.resolve_left (List.not_mem_nil)
  | cons j keys ih =>
    intro h
    have rest := ih (f s j)
    rw [(treats.copies s j).myCore] at rest
    refine rest ?_
    by_cases own : k = j
    · exact .inr (own ▸ treats.own s j)
    · refine h.imp (fun listed => (List.mem_cons.mp listed).resolve_left own) fun held => ?_
      rw [treats.other s own]
      exact held

end

/-! ## Lines of a range -/

theorem mem_keysIn {α : Type} {s : State} {t : Tab α} {o n k : Nat} {x : α} (found : tfind t k = some x)
    (low : s.partOf s.myCore * 2 ^ 41 + o / 64 ≤ k) (high : k ≤ s.partOf s.myCore * 2 ^ 41 + (o + n - 1) / 64) : k ∈ keysIn s t o n := by
  obtain ⟨entry, listed, rfl⟩ : ∃ y ∈ t, y.1 = k := by
    by_contra absent
    push Not at absent
    exact Option.some_ne_none x (found.symm.trans (tfind_eq_none absent))
  exact List.mem_map_of_mem (List.mem_filter.mpr ⟨listed, decide_eq_true ⟨low, high⟩⟩)

theorem tfind_foldl_tdel {α : Type} (keys : List Nat) (t : Tab α) (k : Nat) (gone : k ∈ keys ∨ tfind t k = none) :
    tfind (keys.foldl tdel t) k = none := by
  induction keys generalizing t with
  | nil => exact gone.resolve_left List.not_mem_nil
  | cons j keys ih =>
    refine ih _ ?_
    by_cases own : k = j
    · exact .inr (own ▸ tfind_tdel_same t j)
    · refine gone.imp (fun listed => (List.mem_cons.mp listed).resolve_left own) fun held => ?_
      rw [tfind_tdel_other _ (Ne.symm own)]
      exact held

/-! ## One unit of a range operation -/

/-- The lines of `len` bytes at `o`, in the acting core's partition. -/
abbrev Covered (s : State) (o len k : Nat) : Prop :=
  s.partOf s.myCore * 2 ^ 41 + o / 64 ≤ k ∧ k ≤ s.partOf s.myCore * 2 ^ 41 + (o + len - 1) / 64

section
variable (s : State) (o len : Nat)

theorem rangeL1_frame : ∃ l1, rangeL1 s o len = s.setCore s.myCore { s.core s.myCore with l1 := l1 } := ⟨_, rfl⟩

theorem partOf_rangeL1 : (rangeL1 s o len).partOf s.myCore = s.partOf s.myCore := by
  rw [State.partOf, rangeL1, core_setCore_same]
  rfl

theorem tfind_rangeL1 {k : Nat} (covered : Covered s o len k) : tfind ((rangeL1 s o len).core s.myCore).l1 k = none := by
  obtain ⟨low, high⟩ := covered
  rw [rangeL1, core_setCore_same]
  refine tfind_foldl_tdel _ _ _ ?_
  cases found : tfind (s.core s.myCore).l1 k with
  | none => exact .inr rfl
  | some x => exact .inl (mem_keysIn found low high)

theorem tfind_rangeCopies {f : State → Nat → State} {Q : Option Staged → Prop} (treats : TreatsLine f Q) (nothing : Q none) {k : Nat}
    (covered : Covered s o len k) :
    Q (tfind ((rangeCopies s o len f).cluster (clusterOf s.myCore)).staging k) := by
  obtain ⟨low, high⟩ := covered
  refine tfind_foldl_treat treats _ s k ?_
  cases found : tfind (s.cluster (clusterOf s.myCore)).staging k with
  | none => exact .inr nothing
  | some x => exact .inl (mem_keysIn found low high)

variable (sc : BitVec 3) (l1 : Bool)

/-- What the drop of L1 lines leaves alone. -/
theorem rangeBegun_frame : ∃ cores, rangeBegun l1 s o len = { s with cores := cores } := by
  cases l1
  · exact ⟨s.cores, rfl⟩
  · exact ⟨_, rfl⟩

theorem partOf_rangeBegun : (rangeBegun l1 s o len).partOf s.myCore = s.partOf s.myCore := by
  cases l1
  · rfl
  · exact partOf_rangeL1 s o len

variable {f : State → Nat → State} {Q : Option Staged → Prop} (treats : TreatsLine f Q)
include treats

theorem rangeTreated_copies : CopiesMoved (rangeBegun l1 s o len) (rangeTreated sc l1 f s o len) := by
  unfold rangeTreated
  generalize rangeBegun l1 s o len = t
  by_cases wide : 3 ≤ sc.toNat
  · rw [if_pos wide]
    exact (copiesMoved_flushWb ..).trans (copiesMoved_foldl_treat treats _ _)
  · rw [if_neg wide]
    exact .refl t

theorem me_rangeTreated : (rangeTreated sc l1 f s o len).me = s.me := by
  obtain ⟨cores, frame⟩ := rangeBegun_frame s o len l1
  rw [(rangeTreated_copies s o len sc l1 treats).me, frame]
  rfl

theorem doneAt_rangeTreated (n : Nat) : (rangeTreated sc l1 f s o len).doneAt n = s.doneAt n := by
  obtain ⟨cores, frame⟩ := rangeBegun_frame s o len l1
  rw [(rangeTreated_copies s o len sc l1 treats).doneAt, frame]
  rfl

theorem tfind_l1_rangeTreated {k : Nat} (covered : Covered s o len k) :
    tfind ((rangeTreated sc true f s o len).core s.myCore).l1 k = none := by
  rw [(rangeTreated_copies s o len sc true treats).core]
  exact tfind_rangeL1 s o len covered

theorem tfind_staging_rangeTreated (wide : 3 ≤ sc.toNat) (nothing : Q none) {k : Nat} (covered : Covered s o len k) :
    Q (tfind ((rangeTreated sc l1 f s o len).cluster (clusterOf s.myCore)).staging k) := by
  obtain ⟨cores, frame⟩ := rangeBegun_frame s o len l1
  have moved := copiesMoved_flushWb (rangeBegun l1 s o len) (clusterOf s.myCore)
  have myCore : (flushWb (rangeBegun l1 s o len) (clusterOf s.myCore)).myCore = s.myCore := by
    rw [moved.myCore, frame]
    rfl
  have part : (flushWb (rangeBegun l1 s o len) (clusterOf s.myCore)).partOf s.myCore = s.partOf s.myCore := by
    rw [← partOf_rangeBegun s o len l1, State.partOf, moved.core]
    rfl
  have treated := tfind_rangeCopies (flushWb (rangeBegun l1 s o len) (clusterOf s.myCore)) o len treats nothing (k := k)
    (by rw [Covered, myCore, part]; exact covered)
  rw [myCore] at treated
  rw [rangeTreated, if_pos wide]
  exact treated

omit treats in
theorem rangeTreated_narrow (narrow : sc.toNat < 3) :
    (rangeTreated sc l1 f s o len).clusters = s.clusters ∧ (rangeTreated sc l1 f s o len).mem = s.mem := by
  obtain ⟨cores, frame⟩ := rangeBegun_frame s o len l1
  rw [rangeTreated, if_neg narrow.not_ge, frame]
  exact ⟨rfl, rfl⟩

end

/-! ## WBR, INVR and DISC (R217) -/

section
variable {s : State} {sc : BitVec 3} {a b : Reg} {right o n : Nat}

/-- One unit of a range operation over global lines, as the instruction does it. -/
theorem run_rangeBody_unit {l1 : Bool} {f : Nat → Nat → State → Nat → State} {Q : Option Staged → Prop} (i : Instr)
    (treats : TreatsLine (f o n) Q) (target : rangeTarget a b right s = .ok (some (o, n))) (within : s.me.rangeAt < n)
    (free : UnitFree s sc (o + s.me.rangeAt) (unitEnd s n o - s.me.rangeAt))
    (noAtomic : l1 = true → rangeAtomics s (o + s.me.rangeAt) (unitEnd s n o - s.me.rangeAt) = false) :
    ∃ t, run i s (rangeBody sc b a right l1 f s) = .next t ∧
      t.me = (if n ≤ unitEnd s n o then { s.me with rangeAt := 0, pc := s.me.pc + 4, busy := some (s.cyc s.myCore + 6) }
        else { s.me with rangeAt := unitEnd s n o }) ∧
      (sc.toNat < 3 → t.clusters = s.clusters ∧ t.mem = s.mem) ∧
      (l1 = true → ∀ k, Covered s (o + s.me.rangeAt) (unitEnd s n o - s.me.rangeAt) k → tfind (t.core s.myCore).l1 k = none) ∧
      (3 ≤ sc.toNat → Q none → ∀ k, Covered s (o + s.me.rangeAt) (unitEnd s n o - s.me.rangeAt) k →
        Q (tfind (t.cluster (clusterOf s.myCore)).staging k)) := by
  have me := me_rangeStep (me_rangeTreated s (o + s.me.rangeAt) (unitEnd s n o - s.me.rangeAt) sc l1 treats)
    (doneAt_rangeTreated s _ _ sc l1 treats 6) n (unitEnd s n o)
  obtain ⟨threads, frame⟩ := rangeStep_frame
    (rangeTreated sc l1 (f o n) s (o + s.me.rangeAt) (unitEnd s n o - s.me.rangeAt)) n (unitEnd s n o)
  rw [rangeBody_unit target within free noAtomic]
  refine ⟨_, rfl, me, fun narrow => ?_, fun drops k covered => ?_, fun wide nothing k covered => ?_⟩
  · rw [frame]
    exact rangeTreated_narrow s _ _ sc l1 narrow
  · subst drops
    rw [frame]
    exact tfind_l1_rangeTreated s _ _ sc treats covered
  · rw [frame]
    exact tfind_staging_rangeTreated s _ _ sc l1 treats wide nothing covered

end

/-- The last line that a unit covers. -/
theorem unit_last {s : State} {n : Nat} (within : s.me.rangeAt < n) (x : Nat) :
    x + s.me.rangeAt + (unitEnd s n x - s.me.rangeAt) - 1 = x + unitEnd s n x - 1 := by
  have := rangeAt_lt_unitEnd within x
  omega

end Sys2Proof.Laws
end

section
/-! PROOFS. PREF (R217), and the range operations as the statements say them (R217-R219). -/

namespace Sys2Proof.Laws

open Sys2Proof Sys2Proof.Machine

/-! ## PREF (R217): what it moves, and where it waits -/

/-- No thread and no die differs: what translations and fills of copies leave alone. -/
structure Undisturbed (s t : State) : Prop where
  threads : t.threads = s.threads
  cur : t.cur = s.cur
  dies : t.dies = s.dies

namespace Undisturbed

variable {s t u : State}

theorem refl (s : State) : Undisturbed s s := ⟨rfl, rfl, rfl⟩

theorem trans (first : Undisturbed s t) (second : Undisturbed t u) : Undisturbed s u :=
  ⟨second.threads.trans first.threads, second.cur.trans first.cur, second.dies.trans first.dies⟩

theorem me (same : Undisturbed s t) : t.me = s.me := by
  rw [State.me, State.me, same.cur, State.thread, State.thread, same.threads]

theorem die (same : Undisturbed s t) (d : Nat) : t.die d = s.die d := by
  rw [State.die, State.die, same.dies]

theorem doneAt (same : Undisturbed s t) (n : Nat) : t.doneAt n = s.doneAt n := by
  rw [State.doneAt, State.doneAt, State.cyc, State.cyc, State.myCore, State.myCore, same.cur, same.die]

theorem reachable (same : Undisturbed s t) (d : Nat) : dieReachable t d = dieReachable s d := by
  rw [dieReachable, dieReachable, same.die]

end Undisturbed

theorem CopiesMoved.undisturbed {s t : State} (moved : CopiesMoved s t) : Undisturbed s t := by
  obtain ⟨r, p, c, rfl⟩ := moved
  exact ⟨rfl, rfl, rfl⟩

theorem undisturbed_ite {s t u : State} {c : Prop} [Decidable c] (yes : Undisturbed s t) (no : Undisturbed s u) :
    Undisturbed s (if c then t else u) := by
  split
  · exact yes
  · exact no

section
variable {s : State} {clu part dva : Nat} {acc : BitVec 4} {eval : W64}

/-- Where a translation finds its leaf. -/
def foundLeaf (s : State) (clu part dva : Nat) (acc : BitVec 4) (eval : W64) : Except Stop (State × Leaf) :=
  match tlbFind (s.cluster clu) part dva with
  | some l => .ok (s, l)
  | none =>
    if !walkReachable s part dva then .error (.walk dva eval)
    else
      match walk s part dva with
      | .fault k => .error (.page dva k acc eval)
      | .leaf l => .ok (s.setCluster clu (tlbPut (s.cluster clu) part dva l), l)

theorem undisturbed_foundLeaf {r : State × Leaf} (h : foundLeaf s clu part dva acc eval = .ok r) : Undisturbed s r.1 := by
  unfold foundLeaf at h
  split at h
  · cases h
    exact .refl s
  · split at h
    · cases h
    · split at h
      · cases h
      · cases h
        exact ⟨rfl, rfl, rfl⟩

theorem undisturbed_translate {r : State × W64 × Nat} (h : Machine.translate s clu part dva acc eval = .ok r) : Undisturbed s r.1 := by
  unfold Machine.translate at h
  dsimp only at h
  split at h
  · cases h
  next s1 l found =>
    have first : Undisturbed s s1 := undisturbed_foundLeaf (r := (s1, l)) found
    simp only [stop_else_eq_ok] at h
    obtain ⟨-, -, -, -, -, -, h⟩ := h
    cases h
    have second : Undisturbed s1 ((setAD s1 l acc).setCluster clu (tlbPut (s1.cluster clu) part dva
        { l with word := l.word ||| (if accWrites acc then 0x300 else 0x100) })) := ⟨rfl, rfl, rfl⟩
    have third (u : State) (lease : Nat) : Undisturbed u (noteGranule u part lease dva) := ⟨rfl, rfl, rfl⟩
    exact first.trans (undisturbed_ite ((undisturbed_ite (.refl s1) second).trans (third _ _)) (undisturbed_ite (.refl s1) second))

variable (up : ∀ d, dieReachable s d = true)
include up

theorem walkOpen_reachable (level table : Nat) : walkOpen s dva level table = true := by
  induction level generalizing table with
  | zero => rfl
  | succ level ih =>
    rw [walkOpen, ih, Bool.or_true, Bool.and_true]
    exact up _

theorem foundLeaf_reachable {d : Nat} {e : W64} : foundLeaf s clu part dva acc eval ≠ .error (.walk d e) := by
  unfold foundLeaf
  have reach : walkReachable s part dva = true := walkOpen_reachable up _ _
  intro h
  split at h
  · cases h
  · rw [reach] at h
    split at h
    · contradiction
    · split at h <;> cases h

/-- A translation does not wait where every die can be reached. -/
theorem translate_reachable {d : Nat} {e : W64} : Machine.translate s clu part dva acc eval ≠ .error (.walk d e) := by
  unfold Machine.translate
  dsimp only
  intro h
  split at h
  next stop found => exact foundLeaf_reachable up (found.trans (congrArg Except.error (Except.error.inj h)))
  next s1 l found =>
    have first : Undisturbed s s1 := undisturbed_foundLeaf (r := (s1, l)) found
    have relocks : (s1.die (l.entry / 2 ^ 38 % 4)).relock.isSome = false := by
      have := (first.reachable (l.entry / 2 ^ 38 % 4)).trans (up _)
      rw [dieReachable] at this
      cases held : (s1.die (l.entry / 2 ^ 38 % 4)).relock
      · rfl
      · rw [held] at this; cases this
    rw [relocks] at h
    simp only [Bool.false_eq_true, and_false, if_false] at h
    split at h
    · cases h
    · split at h
      · cases h
      · split at h
        · cases h
        · split at h
          · cases h
          · split at h <;> cases h

end

/-! ## Fills of copies and of L1 (R196, R200) -/

section
variable (s : State) (core clu part dva n pa : Nat) (leaf : W64) (taken : Mem)

theorem undisturbed_fillLine : Undisturbed s (fillLine s clu part dva pa leaf).1 :=
  (copiesMoved_flushWb s clu).undisturbed.trans ⟨rfl, rfl, rfl⟩

theorem undisturbed_l1Put (d : BitVec 512) : Undisturbed s (l1Put s core part dva d) := ⟨rfl, rfl, rfl⟩

variable {s core part dva n pa leaf taken}

theorem undisturbed_tryLine {r : State × List Byte × Bool × Nat} (h : tryLine s core part dva n pa leaf taken = some r) :
    Undisturbed s r.1 := by
  have filled := undisturbed_fillLine s (clusterOf core) part dva pa leaf
  unfold tryLine at h
  dsimp only at h
  split at h
  · split at h
    · cases h
      exact .refl s
    · cases h
  · split at h
    · cases h
      exact .refl s
    · split at h
      · cases h
        exact undisturbed_ite (.refl s) (undisturbed_l1Put ..)
      · split at h
        · cases h
        · split at h
          · split at h
            · cases h
              exact .refl s
            · cases h
              exact undisturbed_ite (filled.trans (undisturbed_l1Put ..)) filled
          · cases h

variable (s core part dva n pa leaf taken)

theorem undisturbed_lateLine : Undisturbed s (lateLine s core part dva n pa leaf taken).1 := by
  have filled := undisturbed_fillLine s (clusterOf core) part dva pa leaf
  unfold lateLine
  split
  next r found => exact undisturbed_tryLine found
  next =>
    split
    · exact .refl s
    · exact undisturbed_ite (filled.trans (undisturbed_l1Put ..)) filled

theorem undisturbed_lateLoad : Undisturbed s (lateLoad s core part dva n pa leaf taken).1 := by
  unfold lateLoad
  dsimp only
  split
  · exact undisturbed_lateLine ..
  · exact (undisturbed_lateLine ..).trans (undisturbed_lateLine ..)

end

/-! ## PREF's lines (R217) -/

section
variable {s : State} (sc : BitVec 3) (ea : W64) (n : Nat)

theorem prefLine_goes (up : ∀ d, dieReachable s d = true) (k : Nat) : ∃ t, prefLine sc ea n s k = .ok t ∧ Undisturbed s t := by
  unfold prefLine
  dsimp only
  split
  · exact ⟨s, rfl, .refl s⟩
  next kind o checked =>
    split
    · exact ⟨s, rfl, .refl s⟩
    · cases found : Machine.translate s (clusterOf s.myCore) (s.partOf s.myCore) o accRead
        (BitVec.ofNat 64 (Nat.max ea.toNat (ea.toNat / 64 * 64 + 64 * k))) with
      | error stop =>
        cases stop with
        | walk d e => exact absurd found (translate_reachable up)
        | _ => exact ⟨s, rfl, .refl s⟩
      | ok r =>
        obtain ⟨s1, leaf, pa⟩ := r
        have first : Undisturbed s s1 := undisturbed_translate found
        have reach : placeReachable s1 s.cur (.global o pa leaf) = true := by
          rw [placeReachable, first.reachable, up, Bool.or_true]
        dsimp only
        rw [reach]
        split
        · exact ⟨s1, rfl, first⟩
        · simp only [Bool.not_true, Bool.false_eq_true, if_false]
          split
          · exact ⟨_, rfl, first.trans (undisturbed_lateLoad ..)⟩
          · split
            · exact ⟨s1, rfl, first⟩
            · exact ⟨_, rfl, first.trans (undisturbed_fillLine ..)⟩

theorem prefLines_go (up : ∀ d, dieReachable s d = true) (lines : List Nat) :
    ∃ t, lines.foldlM (prefLine sc ea n) s = .ok t ∧ Undisturbed s t := by
  induction lines generalizing s with
  | nil => exact ⟨s, rfl, .refl s⟩
  | cons k lines ih =>
    obtain ⟨t, goes, first⟩ := prefLine_goes sc ea n up k
    obtain ⟨u, rest, second⟩ := ih fun d => (first.reachable d).trans (up d)
    refine ⟨u, ?_, first.trans second⟩
    rw [List.foldlM_cons, goes]
    exact rest

end

section
variable {s : State} {sc : BitVec 3} {b a : Reg}

theorem exec_pref_empty (empty : s.me.rg b = 0) : exec (.pref sc b a) s = .next (s.finish { s.me with rangeAt := 0 } 6) := by
  change execPref sc b a s = _
  rw [execPref, empty]
  rfl

theorem exec_pref_tooLong (long : 2 ^ 32 < (s.me.rg b).toNat) (leads : twinLag s s.cur = false) :
    exec (.pref sc b a) s = .next (trapMe s FORMAT (s.me.rg b)) := by
  have refused : need (decide ((s.me.rg b).toNat ≤ 2 ^ 32)) FORMAT (s.me.rg b) = .error (.trap FORMAT (s.me.rg b)) :=
    if_neg (by simpa using long)
  rw [← run_trap (.pref sc b a) FORMAT leads]
  change execPref sc b a s = _
  simp only [execPref, refused, bind, Except.bind]

/-- PREF of a unit whose dies can all be reached goes on as the range operations do. -/
theorem exec_pref_unit (up : ∀ d, dieReachable s d = true) (bounded : (s.me.rg b).toNat ≤ 2 ^ 32)
    (within : s.me.rangeAt < (s.me.rg b).toNat) :
    ∃ t, exec (.pref sc b a) s = .next (rangeStep t (s.me.rg b).toNat (unitEnd s (s.me.rg b).toNat (s.me.rg a).toNat)) ∧ Undisturbed s t := by
  have fits : need (decide ((s.me.rg b).toNat ≤ 2 ^ 32)) FORMAT (s.me.rg b) = .ok () := if_pos (decide_eq_true bounded)
  have some : ¬s.me.rg b = 0 := fun h => by rw [h] at within; exact absurd within (Nat.not_lt_zero _)
  have unit := rangeUnit_eq within (s.me.rg a).toNat
  have ends : (s.me.rg a).toNat + s.me.rangeAt + (unitEnd s (s.me.rg b).toNat (s.me.rg a).toNat - s.me.rangeAt) - (s.me.rg a).toNat =
      unitEnd s (s.me.rg b).toNat (s.me.rg a).toNat := by
    have := rangeAt_lt_unitEnd within (s.me.rg a).toNat
    omega
  obtain ⟨t, goes, same⟩ := prefLines_go (s := s) sc (BitVec.ofNat 64 ((s.me.rg a).toNat + s.me.rangeAt))
    (unitEnd s (s.me.rg b).toNat (s.me.rg a).toNat - s.me.rangeAt) up (List.range
      (((s.me.rg a).toNat + s.me.rangeAt + (unitEnd s (s.me.rg b).toNat (s.me.rg a).toNat - s.me.rangeAt) - 1) / 64 -
        ((s.me.rg a).toNat + s.me.rangeAt) / 64 + 1))
  refine ⟨t, ?_, same⟩
  change execPref sc b a s = _
  simp only [execPref, fits, bind, Except.bind, if_neg some, unit, goes, ends]
  rfl

end

/-! ## The range operations -/

theorem rangeOperationsActOnTheRange : Claims.RangeOperationsActOnTheRange := by
  intro s sc b a kind o n clu upto covered moved dropped free noAtomic ended within bounded
  have nonempty : 0 < n := by omega
  have lines (k : Nat) (h : covered k) : Covered s (o + s.me.rangeAt) (unitEnd s n o - s.me.rangeAt) k := by
    rw [Covered, unit_last within]
    exact h
  refine ⟨fun ok => ⟨fun other => ?_, fun isGlobal unitFree => ⟨?_, fun calm => ?_⟩⟩,
    fun ok => ⟨fun other => ?_, fun isGlobal unitFree calm => ?_⟩, fun up => ?_⟩
  · have target := rangeTarget_segOk (a := a) (b := b) (right := rightR) nonempty rfl bounded ok
    rw [if_neg other] at target
    exact ⟨congrArg (run _ s) (rangeBody_noTarget target), congrArg (run _ s) (rangeBody_noTarget target)⟩
  · have target := rangeTarget_segOk (a := a) (b := b) (right := rightR) nonempty rfl bounded ok
    rw [if_pos isGlobal] at target
    obtain ⟨t, next, me, narrow, -, clean⟩ := run_rangeBody_unit (f := fun _ _ s k => writeBackLine s (clusterOf s.myCore) k)
      (l1 := false) (.wbr sc b a) treatsLine_writeBack target within unitFree (absurd · Bool.false_ne_true)
    exact ⟨t, next, me, narrow, fun wide k l h found => clean wide (fun _ h => (Option.some_ne_none _ h.symm).elim) k (lines k h) l found⟩
  · have target := rangeTarget_segOk (a := a) (b := b) (right := rightR) nonempty rfl bounded ok
    rw [if_pos isGlobal] at target
    obtain ⟨t, next, me, narrow, cached, gone⟩ := run_rangeBody_unit (f := fun _ _ s k => invLine s k)
      (l1 := true) (.invr sc b a) treatsLine_invLine target within unitFree fun _ => calm
    exact ⟨t, next, me, fun k h => cached rfl k (lines k h), narrow, fun wide k h => gone wide rfl k (lines k h)⟩
  · have target := rangeTarget_segOk (a := a) (b := b) (right := rightW) nonempty rfl bounded ok
    rw [if_neg other] at target
    exact congrArg (run _ s) (rangeBody_noTarget target)
  · have target := rangeTarget_segOk (a := a) (b := b) (right := rightW) nonempty rfl bounded ok
    rw [if_pos isGlobal] at target
    obtain ⟨t, next, me, narrow, cached, gone⟩ := run_rangeBody_unit (f := discLine)
      (l1 := true) (.disc sc b a) (treatsLine_discLine o n) target within unitFree fun _ => calm
    exact ⟨t, next, me, fun k h => cached rfl k (lines k h), narrow, fun wide k h => gone wide rfl k (lines k h)⟩
  · obtain ⟨t, next, same⟩ := exec_pref_unit (sc := sc) (a := a) up bounded within
    exact ⟨_, next, me_rangeStep same.me (same.doneAt 6) n _⟩

theorem rangeEdgesAndConstantCache : Claims.RangeEdgesAndConstantCache := by
  intro s sc b a
  refine ⟨⟨_, rfl, ?_, ?_, rfl, fun c other => ?_⟩, fun op among => ⟨fun empty => ?_, fun long leads => ?_⟩⟩
  · rw [core_finish, core_setCore_same]
  · rw [me_finish]
    rfl
  · rw [core_finish, core_setCore_other _ _ other.symm]
  · have target (right : Nat) := rangeTarget_empty (a := a) (right := right) empty
    simp only [List.mem_cons, List.not_mem_nil, or_false] at among
    obtain rfl | rfl | rfl | rfl := among
    · exact congrArg (run _ s) (rangeBody_noTarget (target _))
    · exact congrArg (run _ s) (rangeBody_noTarget (target _))
    · exact congrArg (run _ s) (rangeBody_noTarget (target _))
    · exact exec_pref_empty empty
  · have target (right : Nat) := rangeTarget_tooLong (a := a) (right := right) long
    simp only [List.mem_cons, List.not_mem_nil, or_false] at among
    obtain rfl | rfl | rfl | rfl := among
    · exact (congrArg (run _ s) (rangeBody_refused (target _))).trans (run_trap _ FORMAT leads)
    · exact (congrArg (run _ s) (rangeBody_refused (target _))).trans (run_trap _ FORMAT leads)
    · exact (congrArg (run _ s) (rangeBody_refused (target _))).trans (run_trap _ FORMAT leads)
    · exact exec_pref_tooLong long leads

/-- Settles O9: releases and acquires move copies as their scopes say, and a unit of a range is treated line by line. -/
theorem copiesFollowFencesAndRangeOperations : Obligations.CopiesFollowFencesAndRangeOperations :=
  ⟨releaseAndAcquireMoveCopies, fencesReportTheirStatus, rangeOperationsActOnTheRange, rangeEdgesAndConstantCache⟩

end Sys2Proof.Laws
end

section
/-! PROOFS. An atomic at its home beside a translation cache whose leaf has no page's size (R199, R204, R342). -/

namespace Sys2Proof.Laws

open Sys2Proof Sys2Proof.Machine

/-! ## A leaf of no page's size

An access that may reach into a second line asks where the byte after its first line lies, and reads the rest of its bytes there; where
the first line holds all of them, none are left, and a byte strictly inside a poisoned chunk still poisons it. In its own page that byte's
chunk is the one of the last byte read. In the next page it is the page's first, at the start of a chunk, unless the translation cache
gives the page a leaf of a size that is none of R343: then it lies where no walk would have put it. -/

/-- The last 8 bytes of page 1, which is cached with its leaf; so is page 2, whose leaf puts its first byte at 0x10008. -/
def oddCache : Cluster :=
  { Cluster.reset with
    tlb := [(tlbKey 0 0x1000 4096, { word := 0x31F, size := 4096, entry := 0x8000 }),
      (tlbKey 0 0x2000 4096, { word := 0x40031F, size := 0x1FF8, entry := 0x8008 })] }

/-- A parked ATOM.ADD.D at DEV scope. -/
def addWait : Wait :=
  { kind := 0x01, eval := 0x2000000000001FF8, deadline := none, remote := none, instr := .atomAddD 4 0 4 12 5, taken := [],
    sent := false, aux := 0, reply := none }

/-- Its thread, which adds 1 to the last 8 bytes of page 1. -/
def addThread : Thread :=
  { Thread.reset with
    state := .parked, wait := some addWait, g := [(4, 1), (12, 0x2000000000001FF8)],
    sg := [(1, { base := 0, lim := 0x4000, attr := 0x11F })] }

/-- The chunk of 16 bytes at 0x10000 is poisoned. -/
def oddState : State :=
  { State.reset with
    threads := [(0, addThread)], cores := [(0, { Core.reset with asg := true })], clusters := [(0, oddCache)],
    mem := { State.reset.mem with ramPoison := [0x1000] } }

/-- The 8 bytes in memory after a step. -/
def wordAfter (o : Out) : Option Nat :=
  match o with
  | .next t => some (Claims.field t 0xFF8 0 8)
  | _ => none

theorem wordAfter_homeAtomic_oddState : wordAfter (exec (.homeAtomic 0 0) oddState) = some 0 := by decide +kernel

theorem globalAt_oddState : Claims.GlobalAt oddState 0 ((oddState.thread 0).rg 12) 8 rightR 5 0x1FF8 0xFF8 0x31F := by decide +kernel

/-- Refutes O33: an atomic on 8 sound bytes adds nothing, for it is taken to be poisoned. -/
theorem not_remoteAccessesArePerformedAtTheirHome : ¬ Obligations.RemoteAccessesArePerformedAtTheirHome := by
  unfold Obligations.RemoteAccessesArePerformedAtTheirHome
  intro h
  obtain ⟨-, atomics, -⟩ := h oddState 0 0 addWait (by decide)
  obtain ⟨t, next, adds, -⟩ := atomics 12 4 5 0x1FF8 0xFF8 0x31F ⟨rfl, rfl, rfl, rfl, rfl, rfl, rfl⟩ rfl rfl (by decide) (by decide +kernel)
    globalAt_oddState (by decide +kernel) (by decide +kernel) ⟨rfl, rfl⟩ (by decide +kernel) (by decide) (by decide +kernel) (by decide +kernel)
  have value : wordAfter (.next t) = some 1 := by
    change some (Claims.field t 0xFF8 0 8) = some 1
    exact congrArg some (adds.trans (by decide +kernel))
  rw [← next, wordAfter_homeAtomic_oddState] at value
  cases value

end Sys2Proof.Laws
end
